-- ==== Sys2Proof/Word.lean ====
section
/-! DEFINITION. The word types of the part and their plainest arithmetic. -/

namespace Sys2Proof

/-- A byte, the smallest addressable unit (R7). -/
abbrev Byte := BitVec 8

/-- A 16-bit word: a binary16 value, a queue number, a counter of the ledger. -/
abbrev Half := BitVec 16

/-- A 32-bit word: a binary32 value or a register. -/
abbrev Word := BitVec 32

/-- A 64-bit word: a counter, an address field. -/
abbrev Dword := BitVec 64

end Sys2Proof
end

