-- ==== Sys2Proof/Syntax.lean ====
section
/-! DEFINITION. The commands and events of the part: one constructor of `Instr` per row of the table of operations,
with the row's operands. An operand outside its range does not exist here: its type leaves it out. -/

namespace Sys2Proof

/-- A logical core (Table 0.4). -/
abbrev Lc := Fin 800

/-- A site (R20). -/
abbrev Site := Fin 880

/-- One of a core's two feeders (R104). -/
inductive Feed where
  /-- the A feeder -/
  | a
  /-- the B feeder -/
  | b
  deriving DecidableEq, Repr

/-- Storage formats (Table 4.2). -/
inductive SFmt where
  /-- code 0 -/
  | bin16
  /-- code 1 -/
  | e4m3
  /-- code 2 -/
  | e5m2
  /-- code 3 -/
  | int8
  /-- code 4 -/
  | int4
  /-- code 5 -/
  | e2m1
  /-- code 6 -/
  | bin32
  deriving DecidableEq, Repr

/-- The code of a storage format (Table 4.2). -/
def SFmt.code : SFmt → Nat
  | .bin16 => 0
  | .e4m3 => 1
  | .e5m2 => 2
  | .int8 => 3
  | .int4 => 4
  | .e2m1 => 5
  | .bin32 => 6

/-- The fields of an `FBLK` (Table 4.1). -/
structure FBlkSlot where
  /-- mode tag of the blocks: true FP32 -/
  mode : Bool
  /-- storage format -/
  sfmt : SFmt
  /-- deliver transposed -/
  tr : Bool
  /-- rotate position pairs -/
  rope : Bool
  /-- feeder-store address of block 0, in 64-byte units -/
  addr : BitVec 15
  /-- number of blocks minus one -/
  rep : BitVec 8
  /-- step between blocks, in 64-byte units -/
  stride : BitVec 16
  /-- rotary descriptor of block 0, in 64-byte units -/
  rdesc : BitVec 15
  deriving DecidableEq, Repr

/-- The fields of an `FGATH` (Table 4.1). -/
structure FGathSlot where
  /-- deliver transposed -/
  tr : Bool
  /-- rotate position pairs -/
  rope : Bool
  /-- number of blocks minus one -/
  rep : BitVec 8
  /-- row-index step between blocks -/
  stride : BitVec 16
  /-- rotary descriptor of block 0, in 64-byte units -/
  rdesc : BitVec 15
  /-- gather list, in 64-byte units -/
  glist : BitVec 15
  deriving DecidableEq, Repr

/-- Source of a vector operand (Table 4.8). -/
inductive VSrc where
  /-- 0: register -/
  | reg
  /-- 1: tile-queue slot -/
  | slot
  /-- 2: row broadcast -/
  | row
  /-- 3: column broadcast -/
  | col
  /-- 4: scalar -/
  | scalar
  deriving DecidableEq, Repr

/-- The fields of a VECTOR slot beside its operation (Table 4.7). -/
structure VSlot where
  /-- element count minus one -/
  cnt : BitVec 12
  /-- destination register -/
  vd : Fin 64
  /-- register of operand a, or slot number in its low three bits -/
  va : Fin 64
  /-- register of operand b -/
  vb : Fin 64
  /-- register of operand c -/
  vc : Fin 64
  /-- source of a -/
  asrc : VSrc
  /-- source of b -/
  bsrc : VSrc
  /-- release the slot read as a -/
  rel : Bool
  /-- stochastic rounding -/
  rnd : Bool
  /-- saturation of conversions -/
  sat : Bool
  /-- narrow format of conversions -/
  fmt : Fin 6
  /-- scalar, or feeder-store address in 64-byte units -/
  imm : Word
  /-- keep threshold of `VDROP` -/
  thr : Half
  deriving DecidableEq, Repr

/-- The fields of a MOVE slot beside its operation (Table 6.7). -/
structure MSlot where
  /-- the mover -/
  mover : Fin 4
  /-- loop term: 0 none, 1 to 4 the loop at that depth minus one -/
  lsel : Fin 5
  /-- start after every earlier transfer of the core -/
  fence : Bool
  /-- descriptor at Canopy offset `desc` × 64 -/
  desc : BitVec 17
  /-- source space -/
  sspace : Fin 5
  /-- destination space -/
  dspace : Fin 5
  /-- declared sharing f -/
  share : BitVec 4
  /-- completion gate -/
  cgate : Fin 64
  /-- logical core that owns the completion gate -/
  clc : Lc
  /-- completion increment -/
  cinc : BitVec 8
  deriving DecidableEq, Repr

/-- A command record after its `OP` (Table 9.5). -/
structure OrgRec where
  /-- byte 1, reserved -/
  rsv : Byte
  /-- `GEN` -/
  gen : Half
  /-- `CHMASK` -/
  chmask : Word
  /-- `BKMASK` -/
  bkmask : Word
  /-- `CMPL`, or `AUX` -/
  cmpl : Word
  /-- `ARGS`, bytes 16 to 31 -/
  args : BitVec 128
  deriving DecidableEq, Repr

/-- A bank unit: its stack, channel and bank (R252). -/
structure BankUnit where
  /-- stack -/
  stack : Fin 6
  /-- channel -/
  ch : Fin 32
  /-- bank -/
  bk : Fin 30
  deriving DecidableEq, Repr

/-- A row unit: its stack and channel, and bank 30 or 31 (R252). -/
structure RowUnit where
  /-- stack -/
  stack : Fin 6
  /-- channel -/
  ch : Fin 32
  /-- bank 31 rather than 30 -/
  hi : Bool
  deriving DecidableEq, Repr

/-- The unit number u = 32c + b (R252). -/
def BankUnit.num (u : BankUnit) : Nat := 32 * u.ch.val + u.bk.val

/-- The unit number u = 32c + b (R252). -/
def RowUnit.num (u : RowUnit) : Nat := 32 * u.ch.val + (if u.hi then 31 else 30)

/-- A command entry beside its `OPCODE` (Table 13.6). -/
structure Entry where
  /-- `FLAGS`, byte 2 -/
  flags : Byte
  /-- byte 3, reserved -/
  rsv3 : Byte
  /-- `CID` -/
  cid : Word
  /-- `PLEN` -/
  plen : Word
  /-- bytes 12 to 15, reserved -/
  rsv12 : Word
  /-- `DADDR` -/
  daddr : Dword
  /-- `DLEN` -/
  dlen : Dword
  /-- bytes 32 to 63 -/
  tail : BitVec 256
  deriving DecidableEq, Repr

/-- A request packet as it arrives (Table 8.3). -/
structure Pkt where
  /-- `SRC` -/
  src : BitVec 10
  /-- `DST` -/
  dst : BitVec 10
  /-- `TAG` -/
  tag : Byte
  /-- `SPACE` -/
  space : BitVec 4
  /-- `OFFSET` -/
  ofs : BitVec 40
  /-- `BYTES` -/
  bytes : BitVec 10
  /-- payload, at most 512 bytes -/
  data : List Byte
  deriving DecidableEq, Repr

/-- The target set of a broadcast (R240). -/
inductive Target where
  /-- every network interface -/
  | all
  /-- the cores of a partition node with its descendants -/
  | node (n : Fin 64)
  /-- one cluster -/
  | cluster (c : Fin 40)
  /-- one compute layer -/
  | layer (l : Fin 4)
  /-- one clock region -/
  | region (r : Fin 5)
  deriving DecidableEq, Repr

/-- A sample of a capping loop, in W (Table 14.8): for the part, or for the cores and plots of a node. -/
structure PowerSample where
  /-- package or node power -/
  power : Nat
  /-- compute power of the covered cores -/
  compute : Nat
  /-- their leakage -/
  leak : Nat
  /-- memory power -/
  memory : Nat
  /-- link power -/
  link : Nat
  deriving DecidableEq, Repr

/-- A repair entry: soft repair map, fuse map or test fault list (Table 7.7). -/
structure Repair where
  /-- `KIND` -/
  kind : Nat
  /-- `UNIT` -/
  unit : Nat
  /-- `BANK` -/
  bank : Nat
  /-- `INDEX` -/
  index : Nat
  deriving DecidableEq, Repr

/-- A failing word of the memory test: store (0 plot, 1 Orangery, 2 Canopy, 3 feeder store), unit, bank or macro, row and
column group (R466). -/
structure WordFault where
  /-- store -/
  store : Fin 4
  /-- site or stack -/
  unit : Nat
  /-- bank or macro, as in Table 7.7 -/
  bank : Nat
  /-- row -/
  row : Nat
  /-- column group -/
  col : Nat
  deriving DecidableEq, Repr

/-- The fused fields of a site (Table 1.4, R491). -/
structure SiteFuse where
  /-- `STRESS_OFS` -/
  stress : BitVec 4
  /-- `FMAX` -/
  fmax : BitVec 6
  /-- `RETIRED` -/
  retired : Bool
  /-- the floor `AGE_GB0`, mV -/
  ageGb0 : Nat
  /-- `AGE_SENS`, nV per ppm -/
  ageSens : Nat
  deriving DecidableEq, Repr

/-- The fuse map, as far as rules of other chapters read it (R459). -/
structure FuseMap where
  /-- part serial number -/
  serial : Dword
  /-- CRC-32C of the copy -/
  crc : Word
  /-- stepping code -/
  stepping : Byte
  /-- base MAC address -/
  mac : BitVec 48
  /-- design life, months -/
  life : Half
  /-- fused θ of Belt A, Belt B and the Mantle, 10^−5 K/W -/
  theta : List Nat
  /-- fused fields of sites 0 to 879 -/
  sites : List SiteFuse
  /-- `VF_TABLE`: region × 64 + clock code to voltage code, keys rising -/
  vf : List (Nat × Nat)
  /-- factory repairs -/
  repairs : List Repair
  deriving DecidableEq, Repr

/-- What the sweeps of one Seam bundle find at a boot: the codes that pass near the recorded code, in a first full sweep
and in a second (R460). -/
structure SweepResult where
  /-- Seam -/
  seam : Fin 15
  /-- position -/
  pos : Fin 220
  /-- passing codes of the short sweep -/
  near : BitVec 64
  /-- passing codes of the first full sweep -/
  first : BitVec 64
  /-- passing codes of the second -/
  second : BitVec 64
  deriving DecidableEq, Repr

/-- A Xobex descriptor (Table 12.8). -/
structure XDesc where
  /-- `OP` -/
  op : Byte
  /-- `FLAGS` -/
  flags : Byte
  /-- `PEER` -/
  peer : Half
  /-- `LEN` -/
  len : Word
  /-- `LDA` -/
  lda : Dword
  /-- `RDA` -/
  rda : Dword
  /-- `LCMPL` -/
  lcmpl : Word
  /-- `RCMPL` -/
  rcmpl : Word
  /-- `DTYPE` -/
  dtype : Byte
  /-- `LSTACK` -/
  lstack : Byte
  /-- `LREGION` -/
  lregion : Half
  /-- `LOFS` -/
  lofs : Word
  /-- bytes 40 to 63, reserved -/
  rsv : BitVec 192
  deriving DecidableEq, Repr

/-- A Xobex header with its payload (Table 12.4). -/
structure XPkt where
  /-- `VER` -/
  ver : Byte
  /-- `TYPE` -/
  typ : Byte
  /-- `FLAGS` -/
  flags : Byte
  /-- `CTX` -/
  ctx : Byte
  /-- `SRC_PART` -/
  src : Half
  /-- `DST_PART` -/
  dst : Half
  /-- `PSN` -/
  psn : Word
  /-- `JOB_TAG` -/
  tag : Word
  /-- `DA` -/
  da : Dword
  /-- `MSG_ID` -/
  msg : Word
  /-- `MSG_OFS` -/
  mofs : Word
  /-- `MSG_LEN` -/
  mlen : Word
  /-- `LEN` -/
  len : Half
  /-- `STATUS` -/
  status : Half
  /-- `CMPL` -/
  cmpl : Word
  /-- `ICRC` -/
  icrc : Word
  /-- `MAP` -/
  map : BitVec 128
  /-- payload -/
  data : List Byte
  /-- payload bytes in error when they reach their store: the number of each, and whether the receiver corrects it (R200) -/
  te : List (Nat × Bool) := []
  deriving DecidableEq, Repr

/-- A Xobex datagram as it arrives: the Cuff, the source address of its IP header (IPv4-mapped for IPv4), the CE mark, and the
packet. -/
structure XIn where
  /-- Cuff -/
  cuff : Fin 8
  /-- source address -/
  addr : BitVec 128
  /-- it carries CE -/
  ce : Bool
  /-- header and payload -/
  pkt : XPkt
  deriving DecidableEq, Repr

/-- A register as a writer names it, by the word at its offset. -/
inductive RegName where
  /-- BAR0, word 0x000 to 0x3FF (R372) -/
  | bar (word : BitVec 10)
  /-- the management window (R523) -/
  | window (word : BitVec 16)
  /-- a core control area (R174) -/
  | core (lc : Lc) (word : BitVec 10)
  deriving DecidableEq, Repr

/-- A Seam or Kiosk command that a `BCMD` broadcast carries (Table 8.4). -/
inductive Bcmd where
  /-- the pause duties in force -/
  | pause
  /-- the clock targets in force -/
  | clock
  /-- the memory and link limits in force -/
  | cap
  /-- retune request: Seam and position -/
  | retune (seam : Fin 15) (pos : Fin 220)
  deriving DecidableEq, Repr

/-- What another replica contributes to the localisation of a digest mismatch (R328). -/
structure Replica where
  /-- its part index -/
  part : BitVec 10
  /-- the CRC-64 of each of the 1,024 rows of the block -/
  rows : List Dword
  /-- the bytes of its first differing row -/
  bytes : List Byte
  deriving DecidableEq, Repr

/-- An MCTP message other than PLDM (R391). -/
inductive MctpReq where
  /-- the bus owner assigns the endpoint ID -/
  | setEid (e : Byte)
  /-- a query of the endpoint ID -/
  | getEid
  /-- another control message: its command code and data -/
  | control (code : Byte) (data : List Byte)
  /-- a message of a type other than MCTP control and PLDM -/
  | other (typ : Byte)
  deriving DecidableEq, Repr

/-- What arrives, with the bytes of its payload that were in error in transit: the number of each, and whether the receiver corrects it
(R200). -/
structure Sent (α : Type) where
  /-- what arrives -/
  item : α
  /-- its bytes in error -/
  te : List (Nat × Bool)
  deriving DecidableEq, Repr

/-- A flit that a receiver refuses (R246). -/
structure Flit where
  /-- the header of its packet (Table 8.3) -/
  header : BitVec 128
  /-- it was itself a replay -/
  again : Bool
  deriving DecidableEq, Repr

/-- A PLDM request of type 0 or 2 other than those of rows of their own (R392). -/
inductive PldmReq where
  /-- the reading of a numeric sensor -/
  | reading (id : Half)
  /-- another request of type 0 or 2: type, command code and data -/
  | other (platform : Bool) (code : Byte) (data : List Byte)
  deriving DecidableEq, Repr

/-- The commands and events of the part (one constructor per row of the table of operations). -/
inductive Instr where
  /-- `IDENTIFY` (R382): Returns the identity block. -/
  | identify (q : BitVec 16) (e : Entry)
  /-- `QUEUE_CONFIG` (R385): Writes a host, Xobex, site or Orangery queue context. -/
  | queueConfig (q : BitVec 16) (e : Entry)
  /-- `SETTING_SET` (R388): Sets an expert setting. -/
  | settingSet (q : BitVec 16) (e : Entry)
  /-- `SETTING_GET` (R388): Returns a setting. -/
  | settingGet (q : BitVec 16) (e : Entry)
  /-- `NOTE_READ` (R389): Returns notification records from the log. -/
  | noteRead (q : BitVec 16) (e : Entry)
  /-- `REPAIR_MAP` (R467): Presents a soft repair map for this boot or the next. -/
  | repairMap (q : BitVec 16) (e : Entry)
  /-- `ROUTE_QUERY` (R232): Returns the lane and hop count between two endpoints. -/
  | routeQuery (q : BitVec 16) (e : Entry)
  /-- `RESET` (R477): Resets a core, cluster, partition node or the whole part. -/
  | resetCmd (q : BitVec 16) (e : Entry)
  /-- `PWR_CAP` (R415): Sets the part or node power cap. -/
  | pwrCap (q : BitVec 16) (e : Entry)
  /-- `PTN_CONFIG` (R32): Replaces the partition tree. -/
  | ptnConfig (q : BitVec 16) (e : Entry)
  /-- `JOB_LOAD` (R384): Validates a schedule image and loads a job onto a node. -/
  | jobLoad (q : BitVec 16) (e : Entry)
  /-- `JOB_HALT` (R384): Halts a running job. -/
  | jobHalt (q : BitVec 16) (e : Entry)
  /-- `JOB_TEARDOWN` (R384): Tears down an ended or faulted job and releases its claims. -/
  | jobTeardown (q : BitVec 16) (e : Entry)
  /-- `JOB_REPORT` (R384): Returns the report of an ended or faulted job. -/
  | jobReport (q : BitVec 16) (e : Entry)
  /-- `MEM_READ` (R383): Reads device memory into a host buffer. -/
  | memRead (q : BitVec 16) (e : Entry)
  /-- `MEM_WRITE` (R383): Writes device memory from a host buffer. -/
  | memWrite (q : BitVec 16) (e : Entry)
  /-- `MEM_CLEAR` (R383): Clears device memory. -/
  | memClear (q : BitVec 16) (e : Entry)
  /-- `CTRL_READ` (R383): Reads one control-space register. -/
  | ctrlRead (q : BitVec 16) (e : Entry)
  /-- `CTRL_WRITE` (R525): Writes one control-space register. -/
  | ctrlWrite (q : BitVec 16) (e : Entry)
  /-- `QUEUE_POST` (R244): Posts a 64-byte entry to a site or Orangery queue. -/
  | queuePost (q : BitVec 16) (e : Entry)
  /-- `ORG_MAP` (R386): Maps an Orangery region resident or spilled. -/
  | orgMap (q : BitVec 16) (e : Entry)
  /-- `ORG_UNMAP` (R386): Unmaps an Orangery region. -/
  | orgUnmap (q : BitVec 16) (e : Entry)
  /-- `ORG_PAGE_OUT` (R386): Starts a page-out of a region to host memory. -/
  | orgPageOut (q : BitVec 16) (e : Entry)
  /-- `ORG_PAGE_IN` (R386): Starts a page-in of a spilled region. -/
  | orgPageIn (q : BitVec 16) (e : Entry)
  /-- `BANK_ENTER` (R259): Requests bank-mode entry of a region. -/
  | bankEnter (q : BitVec 16) (e : Entry)
  /-- `BANK_RELEASE` (R386): Releases a region from bank mode. -/
  | bankRelease (q : BitVec 16) (e : Entry)
  /-- `SV_BIND` (R289): Binds a core's batcher to a serving area. -/
  | svBind (q : BitVec 16) (e : Entry)
  /-- `SV_OPEN` (R292): Opens a closed slot for a tenant. -/
  | svOpen (q : BitVec 16) (e : Entry)
  /-- `SV_CLOSE` (R295): Releases a slot's page references and closes it. -/
  | svClose (q : BitVec 16) (e : Entry)
  /-- `SV_FORK` (R294): Opens a slot sharing a prefix of another slot's pages. -/
  | svFork (q : BitVec 16) (e : Entry)
  /-- `SV_HOT` (R297): Makes a hot copy of a full page in the Canopy store. -/
  | svHot (q : BitVec 16) (e : Entry)
  /-- `SV_COLD` (R297): Drops a page's hot copy. -/
  | svCold (q : BitVec 16) (e : Entry)
  /-- `SV_QUOTA` (R298): Sets a tenant's page-reference quota. -/
  | svQuota (q : BitVec 16) (e : Entry)
  /-- `TR_BIND` (R320): Binds a job for the finite flag and replica digests. -/
  | trBind (q : BitVec 16) (e : Entry)
  /-- `TR_EXPORT` (R329): Writes shard records to a host buffer. -/
  | trExport (q : BitVec 16) (e : Entry)
  /-- `SYS_INDEX` (R387): Sets the part index. -/
  | sysIndex (q : BitVec 16) (e : Entry)
  /-- `PORT_CONFIG` (R336): Sets a port's addresses and VLAN tag. -/
  | portConfig (q : BitVec 16) (e : Entry)
  /-- `PEER_CONFIG` (R387): Writes, arms or disarms a peer entry. -/
  | peerConfig (q : BitVec 16) (e : Entry)
  /-- `COLL_GROUP` (R357): Writes or frees a collective group. -/
  | collGroup (q : BitVec 16) (e : Entry)
  /-- `ANOP` (R80): ARRAY slot with no primary operation issues. -/
  | anop (lc : Lc)
  /-- `MAC` (R82): A MAC takes the head operand blocks and adds the group sums into a tile. -/
  | mac (lc : Lc) (tile : Fin 4) (fp32 popa popb : Bool)
  /-- `MACZ` (R82): A MACZ writes the group sums into a tile without adding. -/
  | macz (lc : Lc) (tile : Fin 4) (fp32 popa popb : Bool)
  /-- `ACLR` (R82): Every element of the named tile is set to +0. -/
  | aclr (lc : Lc) (tile : Fin 4)
  /-- `ARAMP` (R95): The array activity level starts rising ahead of array work. -/
  | aramp (lc : Lc)
  /-- `LINE_PORT_READOUT` (R85): A line-port transfer reads tile line groups into a tile-queue slot, optionally clearing them. -/
  | linePortReadout (lc : Lc) (tile : Fin 4) (axis clr : Bool) (len : Fin 16) (slot : Fin 8)
  /-- `LINE_PORT_LOAD` (R86): A line-port transfer loads line groups from a vector register pair into a tile. -/
  | linePortLoad (lc : Lc) (tile : Fin 4) (axis : Bool) (len : Fin 16) (vpair : Fin 32)
  /-- `TILE_SLOT_FULL` (R115): A readout completes its slot and the slot becomes FULL. -/
  | tileSlotFull (lc : Lc) (slot : Fin 8)
  /-- `TILE_SLOT_FREE` (R115): The last read cycle of a releasing VECTOR instruction ends and the slot becomes FREE. -/
  | tileSlotFree (lc : Lc) (slot : Fin 8)
  /-- `ACTIVITY_LEVEL_FALL` (R95): After the linger, every fourth non-active cycle lowers the array activity level by one. -/
  | activityLevelFall (lc : Lc)
  /-- `ACTIVITY_LEVEL_RISE` (R95): During a ramp rise, every sixth cycle raises the activity level by one. -/
  | activityLevelRise (lc : Lc)
  /-- `FNOP` (R104): FEED slot with no operation issues. -/
  | fnop (lc : Lc) (f : Feed)
  /-- `FBLK` (R106): A feeder builds blocks from the feeder store with decode, rotation and transposition. -/
  | fblk (lc : Lc) (f : Feed) (a : FBlkSlot)
  /-- `FGATH` (R110): A feeder builds blocks from rows named by a gather list. -/
  | fgath (lc : Lc) (f : Feed) (a : FGathSlot)
  /-- `FFLUSH` (R113): A feeder discards its held blocks and instructions. -/
  | fflush (lc : Lc) (f : Feed)
  /-- `VNOP` (R120): VECTOR slot with no operation issues. -/
  | vnop (lc : Lc)
  /-- `VADD` (R120): Element-wise binary32 addition. -/
  | vadd (lc : Lc) (a : VSlot)
  /-- `VSUB` (R120): Element-wise binary32 subtraction. -/
  | vsub (lc : Lc) (a : VSlot)
  /-- `VMUL` (R120): Element-wise binary32 multiplication. -/
  | vmul (lc : Lc) (a : VSlot)
  /-- `VFMA` (R120): Element-wise fused multiply-add rounded once. -/
  | vfma (lc : Lc) (a : VSlot)
  /-- `VMIN` (R120): Element-wise IEEE minimum. -/
  | vmin (lc : Lc) (a : VSlot)
  /-- `VMAX` (R120): Element-wise IEEE maximum. -/
  | vmax (lc : Lc) (a : VSlot)
  /-- `VCLT` (R120): Element-wise less-than comparison giving 1.0 or +0. -/
  | vclt (lc : Lc) (a : VSlot)
  /-- `VCEQ` (R120): Element-wise equality comparison giving 1.0 or +0. -/
  | vceq (lc : Lc) (a : VSlot)
  /-- `VSEL` (R120): Element-wise selection between two operands by a condition. -/
  | vsel (lc : Lc) (a : VSlot)
  /-- `VMOV` (R120): Copies an operand to the destination. -/
  | vmov (lc : Lc) (a : VSlot)
  /-- `VCVT` (R121): Converts binary32 elements to a narrow format and packs them. -/
  | vcvt (lc : Lc) (a : VSlot)
  /-- `VEXT` (R121): Unpacks narrow-format values to binary32. -/
  | vext (lc : Lc) (a : VSlot)
  /-- `VEXP2` (R70): Special-function base-2 exponential. -/
  | vexp2 (lc : Lc) (a : VSlot)
  /-- `VLOG2` (R70): Special-function base-2 logarithm. -/
  | vlog2 (lc : Lc) (a : VSlot)
  /-- `VRCP` (R70): Special-function reciprocal. -/
  | vrcp (lc : Lc) (a : VSlot)
  /-- `VRSQRT` (R70): Special-function reciprocal square root. -/
  | vrsqrt (lc : Lc) (a : VSlot)
  /-- `VTANH` (R70): Special-function hyperbolic tangent. -/
  | vtanh (lc : Lc) (a : VSlot)
  /-- `VSIGM` (R70): Special-function sigmoid. -/
  | vsigm (lc : Lc) (a : VSlot)
  /-- `VRSUMR` (R122): Row sums by the fixed pairwise tree. -/
  | vrsumr (lc : Lc) (a : VSlot)
  /-- `VRMAXR` (R122): Row maxima by the fixed pairwise tree. -/
  | vrmaxr (lc : Lc) (a : VSlot)
  /-- `VRSUMC` (R122): Column sums by the fixed pairwise tree. -/
  | vrsumc (lc : Lc) (a : VSlot)
  /-- `VRMAXC` (R122): Column maxima by the fixed pairwise tree. -/
  | vrmaxc (lc : Lc) (a : VSlot)
  /-- `VRSUM` (R122): Sum of all elements by the fixed pairwise tree. -/
  | vrsum (lc : Lc) (a : VSlot)
  /-- `VRMAX` (R122): Maximum of all elements by the fixed pairwise tree. -/
  | vrmax (lc : Lc) (a : VSlot)
  /-- `VSMSTAT` (R123): Computes new running row maxima and correction factors. -/
  | vsmstat (lc : Lc) (a : VSlot)
  /-- `VSMEXP` (R124): Computes softmax probabilities and their row sums. -/
  | vsmexp (lc : Lc) (a : VSlot)
  /-- `VMASK` (R125): Masks score elements to -infinity by position parameters. -/
  | vmask (lc : Lc) (a : VSlot)
  /-- `VDROP` (R126): Applies a regenerable dropout mask and scales kept elements. -/
  | vdrop (lc : Lc) (a : VSlot)
  /-- `VLD` (R120): Loads words from the feeder store into vector registers. -/
  | vld (lc : Lc) (a : VSlot)
  /-- `VST` (R120): Stores vector registers into the feeder store. -/
  | vst (lc : Lc) (a : VSlot)
  /-- `GNOP` (R141): GATE slot with no operation issues. -/
  | gnop (lc : Lc)
  /-- `GWAIT` (R142): Issues once a gate holds at least N and subtracts N. -/
  | gwait (lc : Lc) (g : Fin 64) (n : BitVec 24)
  /-- `GPEEK` (R142): Issues once a gate holds at least N without subtracting. -/
  | gpeek (lc : Lc) (g : Fin 64) (n : BitVec 24)
  /-- `GINC` (R142): Adds N to a gate of the issuing core. -/
  | ginc (lc : Lc) (g : Fin 64) (n : BitVec 24)
  /-- `GSEND` (R143): Sends an increment of N to a gate of a core of the job. -/
  | gsend (lc : Lc) (target : Fin 1024) (g : Fin 64) (n : BitVec 24)
  /-- `GLOOP` (R144): Opens a counted loop. -/
  | gloop (lc : Lc) (depth : Fin 4) (iters : Half) (target : BitVec 13)
  /-- `GJUMP` (R145): Transfers issue to a bundle in a frame that holds the named segment. -/
  | gjump (lc : Lc) (seg : Byte) (target : BitVec 13)
  /-- `GSEG` (R145): Starts loading a segment from the Canopy store into a frame. -/
  | gseg (lc : Lc) (seg : Byte) (frame : Fin 8)
  /-- `GPHASE` (R146): Announces a coming activity phase to the regulators. -/
  | gphase (lc : Lc) (imm : Half)
  /-- `GPAUSE` (R147): Holds issue for N cycles of planned slack. -/
  | gpause (lc : Lc) (n : BitVec 24)
  /-- `GEND` (R148): Ends the core's program once its transfers and sends are done. -/
  | gend (lc : Lc)
  /-- `GPAUSE_END` (R147): The GPAUSE count expires and issue resumes. -/
  | gpauseEnd (lc : Lc)
  /-- `GSEG_LOAD_COMPLETE` (R145): The last bundle of a segment is written and the frame is tagged. -/
  | gsegLoadComplete (lc : Lc) (frame : Fin 8)
  /-- `PREBOOST_START` (R411): A pre-boost is applied 0.5 us before an announced heavier phase. -/
  | preboostStart (lc : Lc) (a : Fin 16)
  /-- `PREBOOST_END` (R411): A pre-boost ends 2 us after the phase began. -/
  | preboostEnd (lc : Lc)
  /-- `MNOP` (R176): MOVE slot with no operation issues. -/
  | mnop (lc : Lc)
  /-- `MCOPY` (R181): Queues a two-dimensional copy on a mover and captures its descriptor. -/
  | mcopy (lc : Lc) (a : MSlot)
  /-- `MCLEAR` (R178): Queues a clear of destination bytes on a mover. -/
  | mclear (lc : Lc) (a : MSlot)
  /-- `MOVE_START` (R181): A queued transfer starts once its mover is free and no conflict holds, and makes its checks. -/
  | moveStart (lc : Lc) (m : Fin 4)
  /-- `MOVE_COMPLETE` (R183): A transfer completes, returns credits and applies its completion increment. -/
  | moveComplete (lc : Lc) (m : Sent (Fin 4))
  /-- `GATE_STALL` (R153): A gate wait reaches WAIT_LIMIT_MS and the job faults. -/
  | gateStall (lc : Lc)
  /-- `JOB_FAULTED` (R154): Every core of a faulting job has stopped; the job is faulted and notified. -/
  | jobFaulted (node : Fin 64)
  /-- `WAIT_STAGE_2` (R156): After 1,024 further waiting cycles the core regulator is lowered by 60 mV. -/
  | waitStage2 (lc : Lc)
  /-- `PACE_WINDOW` (R158): Torzan evaluates each core's lag over a 10 ms window and reports or marks it. -/
  | paceWindow
  /-- `PAUSE_DUTY_FRAME` (R416): A region frame of 1,024 cycles begins and applies its pause duty. -/
  | pauseDutyFrame (region : Fin 5)
  /-- `WRITE` (R226): A Trellis WRITE request arrives and writes data to a store. -/
  | write (p : Pkt) (te : List (Nat × Bool))
  /-- `READ` (R226): A Trellis READ request arrives and is served. -/
  | read (p : Pkt)
  /-- `CLEAR` (R206): A Trellis CLEAR request arrives and clears whole lines by valid map. -/
  | clear (p : Pkt) (len : Nat)
  /-- `POST` (R244): A Trellis POST arrives at a site queue and is written into the ring. -/
  | post (p : Sent Pkt)
  /-- `BDATA` (R241): Broadcast data is accepted in bring-up or discarded. -/
  | bdata (router : Fin 891) (t : Target) (ofs : BitVec 40) (data : List Byte)
  /-- `RDATA` (R226): Read data returns to the requester. -/
  | rdata (dst src : BitVec 10) (tag : Sent Byte)
  /-- `WACK` (R226): A write, clear or post acceptance returns to the requester. -/
  | wack (dst src : BitVec 10) (tag : Byte)
  /-- `TRESET` (R249): A request is answered as absorbed by a target in reset. -/
  | treset (dst src : BitVec 10) (tag : Byte)
  /-- `RERR` (R226): A request is answered refused with a status. -/
  | rerr (dst src : BitVec 10) (tag : Byte)
  /-- `INC` (R142): A gate increment packet arrives and is applied at the target core. -/
  | inc (src dst : Lc)
  /-- `CREAD` (R228): A control-space read arrives and is answered. -/
  | cread (dst : BitVec 10) (tag : Byte) (queue : Option (BitVec 16)) (ofs : BitVec 18)
  /-- `CWRITE` (R228): A control-space write arrives and is applied. -/
  | cwrite (dst : BitVec 10) (tag : Byte) (queue : Option (BitVec 16)) (ofs : BitVec 18) (v : Word)
  /-- `CRESP` (R226): A control-space response returns. -/
  | cresp (dst src : BitVec 10) (tag : Byte)
  /-- `BLAME` (R157): A blame record arrives and is added to PACE_LAG. -/
  | blame (src dst : Lc)
  /-- `HALT` (R154): A job halt broadcast arrives and stops the job's cores. -/
  | halt (node : Fin 64)
  /-- `BCMD` (R240): A Kiosk command broadcast for pause, clock, cap or retune arrives. -/
  | bcmd (t : Target) (b : Bcmd)
  /-- `MAPUPD` (R235): A logical map update arrives and the NI updates and confirms its tables. -/
  | mapupd (site : Site)
  /-- `EVENT` (R226): A report reaches the Kiosk. -/
  | event (router : Fin 891) (src : BitVec 10) (node : Option (Fin 64)) (cmd : Option (BitVec 16 × Word))
  /-- `XBELL` (R350): A producer-word change makes the engine read new Xobex descriptors. -/
  | xbell (qn : BitVec 19)
  /-- `REPLAY` (R246): A refused flit makes the sender replay from that flit. -/
  | replay (router : Fin 891) (port : Fin 347) (flit : Flit)
  /-- `SEAM_MARGIN_LOW` (R42): A bundle margin falls below 15 % and a retune starts. -/
  | seamMarginLow (seam : Fin 15) (pos : Fin 220)
  /-- `RETUNE_END` (R42): A bundle retune ends, setting its code or marking it failed. -/
  | retuneEnd (seam : Fin 15) (pos : Fin 220) (sweep : BitVec 64) (ok : Bool) (sweep2 : BitVec 64) (ok2 : Bool)
  /-- `CLOCK_SLEW_STEP` (R38): Every 0.5 us a region array clock moves one code toward its effective target. -/
  | clockSlewStep (region : Fin 5)
  /-- `MERGE_ENTRY_CLOSE` (R202): A merge entry closes on its idle or age timer. -/
  | mergeEntryClose (da : Dword)
  /-- `WRITE_BACK` (R207): A queued correct-on-read write-back is written or cancelled. -/
  | writeBack (da : Dword)
  /-- `PLOT_REFRESH` (R438): A plot refresh falls due at its temperature-dependent interval. -/
  | plotRefresh (site : Site)
  /-- `REFRESH` (R279): An Orangery bank refresh falls due, is postponed or suspends the unit. -/
  | refresh (stack : Fin 6) (die : Fin 16) (half : Fin 2) (bk : Fin 32)
  /-- `PAGE_OUT_COMPLETE` (R169): A page-out finishes writing the region, records its CRC-64 and frees the frame. -/
  | pageOutComplete (stack : Fin 6) (region : Fin 16384)
  /-- `PAGE_IN_COMPLETE` (R170): A page-in finishes, checks its CRC-64 and the region becomes RESIDENT. -/
  | pageInComplete (stack : Fin 6) (region : Fin 16384) (hostErr : Bool)
  /-- `BANK_ENTRY_COMPLETE` (R259): Entry to bank mode finishes and the handle is bound. -/
  | bankEntryComplete (stack : Fin 6) (region : Fin 16384)
  /-- `BANK_RELEASE_COMPLETE` (R262): A release finishes, advances the generation and returns the region to NORMAL. -/
  | bankReleaseComplete (stack : Fin 6) (region : Fin 16384)
  /-- `BANK_HOLD_TIMEOUT` (R261): A mover request held by bank mode for 1 ms faults its job. -/
  | bankHoldTimeout (lc : Lc) (m : Fin 4)
  /-- `RECORD_NO_OP` (R266): A command record with OP 0 is ignored. -/
  | recordNoOp (stack : Fin 6) (region : Fin 16384) (r : OrgRec)
  /-- `PLOAD` (R266): Loads four instructions into the selected units. -/
  | pload (stack : Fin 6) (region : Fin 16384) (r : OrgRec)
  /-- `PSET` (R266): Sets a register of the selected units. -/
  | pset (stack : Fin 6) (region : Fin 16384) (r : OrgRec)
  /-- `SEED` (R273): Sets the Philox key and salt of the selected units and zeroes their counters. -/
  | seed (stack : Fin 6) (region : Fin 16384) (r : OrgRec)
  /-- `START` (R267): Starts the selected units at an instruction index. -/
  | start (stack : Fin 6) (region : Fin 16384) (r : OrgRec)
  /-- `STOP` (R267): Stops the selected units at their next step boundary. -/
  | stop (stack : Fin 6) (region : Fin 16384) (r : OrgRec)
  /-- `COPYIN` (R266): Copies bytes from a far address into the region. -/
  | copyin (stack : Fin 6) (region : Fin 16384) (r : OrgRec)
  /-- `COPYOUT` (R266): Copies bytes from the region to a far address. -/
  | copyout (stack : Fin 6) (region : Fin 16384) (r : OrgRec)
  /-- `DIGEST` (R278): Writes one CRC-64 digest per 1 MiB block to a far address. -/
  | digest (stack : Fin 6) (region : Fin 16384) (r : OrgRec)
  /-- `RELEASE` (R262): A record that takes its region out of bank mode. -/
  | release (stack : Fin 6) (region : Fin 16384) (r : OrgRec)
  /-- `BANK_RECORD_COMPLETE` (R267): A record that took time completes and applies its completion increment. -/
  | bankRecordComplete (stack : Fin 6)
  /-- `ORANGERY_POST_TIMEOUT` (R268): An Orangery queue post waiting on a full record queue is refused after 100 us. -/
  | orangeryPostTimeout (stack : Fin 6)
  /-- `BU_NOP` (R271): Bank-unit no operation. -/
  | buNop (u : BankUnit)
  /-- `BU_LD` (R271): Bank unit loads a word from its bank. -/
  | buLd (u : BankUnit) (d a : Fin 64)
  /-- `BU_ST` (R271): Bank unit stores a word to its bank. -/
  | buSt (u : BankUnit) (a b : Fin 64)
  /-- `BU_LDI` (R271): Bank unit loads an immediate. -/
  | buLdi (u : BankUnit) (d : Fin 64) (imm : BitVec 20)
  /-- `BU_IADD` (R271): Bank unit integer addition. -/
  | buIadd (u : BankUnit) (d a b : Fin 64)
  /-- `BU_IADDI` (R271): Bank unit integer addition of an immediate. -/
  | buIaddi (u : BankUnit) (d a : Fin 64) (imm : BitVec 14)
  /-- `BU_LOOP` (R271): Bank unit decrements a counter and branches while nonzero. -/
  | buLoop (u : BankUnit) (a : Fin 64) (imm : BitVec 14)
  /-- `BU_BR` (R271): Bank unit branch. -/
  | buBr (u : BankUnit) (imm : BitVec 14)
  /-- `BU_END` (R271): Bank unit program ends and the unit becomes idle. -/
  | buEnd (u : BankUnit)
  /-- `BU_FADD` (R271): Bank unit floating-point addition. -/
  | buFadd (u : BankUnit) (half : Bool) (d a b : Fin 64)
  /-- `BU_FSUB` (R271): Bank unit floating-point subtraction. -/
  | buFsub (u : BankUnit) (half : Bool) (d a b : Fin 64)
  /-- `BU_FMUL` (R271): Bank unit floating-point multiplication. -/
  | buFmul (u : BankUnit) (half : Bool) (d a b : Fin 64)
  /-- `BU_FFMA` (R271): Bank unit fused multiply-add. -/
  | buFfma (u : BankUnit) (half : Bool) (d a b c : Fin 64)
  /-- `BU_FMIN` (R271): Bank unit floating-point minimum. -/
  | buFmin (u : BankUnit) (half : Bool) (d a b : Fin 64)
  /-- `BU_FMAX` (R271): Bank unit floating-point maximum. -/
  | buFmax (u : BankUnit) (half : Bool) (d a b : Fin 64)
  /-- `BU_FCLT` (R271): Bank unit less-than comparison. -/
  | buFclt (u : BankUnit) (half : Bool) (d a b : Fin 64)
  /-- `BU_FSEL` (R271): Bank unit lane selection. -/
  | buFsel (u : BankUnit) (half : Bool) (d a b c : Fin 64)
  /-- `BU_FRCP` (R271): Bank unit reciprocal. -/
  | buFrcp (u : BankUnit) (d a : Fin 64)
  /-- `BU_FRSQ` (R271): Bank unit reciprocal square root. -/
  | buFrsq (u : BankUnit) (d a : Fin 64)
  /-- `BU_BCAST` (R271): Bank unit broadcasts lane 0 to every lane. -/
  | buBcast (u : BankUnit) (half : Bool) (d a : Fin 64)
  /-- `BU_CVT` (R271): Bank unit converts and packs eight binary32 lanes. -/
  | buCvt (u : BankUnit) (d a : Fin 64) (fmt : Fin 6) (sat rnd : Bool) (c : Fin 8)
  /-- `BU_EXT` (R271): Bank unit unpacks eight packed values to binary32. -/
  | buExt (u : BankUnit) (d a : Fin 64) (fmt : Fin 6) (c : Fin 8)
  /-- `BU_RAND` (R273): Bank unit draws two Philox calls. -/
  | buRand (u : BankUnit) (d : Fin 64)
  /-- `BU_PUT` (R271): Bank unit writes its mailbox. -/
  | buPut (u : BankUnit) (a : Fin 64)
  /-- `BU_CSEND` (R274): Bank unit sends a register along its chain. -/
  | buCsend (u : BankUnit) (a : Fin 64)
  /-- `BU_CRECV` (R274): Bank unit receives a register from its chain. -/
  | buCrecv (u : BankUnit) (d : Fin 64)
  /-- `RU_NOP` (R276): Row-unit no operation. -/
  | ruNop (u : RowUnit)
  /-- `RU_RLD` (R276): Row unit loads a row into a plane. -/
  | ruRld (u : RowUnit) (d : Fin 8) (a : Fin 16)
  /-- `RU_RST` (R276): Row unit stores a plane into a row. -/
  | ruRst (u : RowUnit) (a : Fin 16) (b : Fin 8)
  /-- `RU_SLDI` (R276): Row unit loads a scalar immediate. -/
  | ruSldi (u : RowUnit) (d : Fin 16) (imm : BitVec 22)
  /-- `RU_SADD` (R276): Row unit scalar addition. -/
  | ruSadd (u : RowUnit) (d a b : Fin 16)
  /-- `RU_SADDI` (R276): Row unit scalar addition of an immediate. -/
  | ruSaddi (u : RowUnit) (d a : Fin 16) (imm : BitVec 10)
  /-- `RU_LOOP` (R276): Row unit decrements a counter and branches while nonzero. -/
  | ruLoop (u : RowUnit) (a : Fin 16) (imm : BitVec 10)
  /-- `RU_BR` (R276): Row unit branch. -/
  | ruBr (u : RowUnit) (imm : BitVec 10)
  /-- `RU_END` (R276): Row unit program ends. -/
  | ruEnd (u : RowUnit)
  /-- `RU_AND` (R276): Row unit plane AND. -/
  | ruAnd (u : RowUnit) (d a b : Fin 8)
  /-- `RU_OR` (R276): Row unit plane OR. -/
  | ruOr (u : RowUnit) (d a b : Fin 8)
  /-- `RU_XOR` (R276): Row unit plane XOR. -/
  | ruXor (u : RowUnit) (d a b : Fin 8)
  /-- `RU_ANDN` (R276): Row unit plane AND-NOT. -/
  | ruAndn (u : RowUnit) (d a b : Fin 8)
  /-- `RU_MUX` (R276): Row unit plane multiplex. -/
  | ruMux (u : RowUnit) (d a b c : Fin 8)
  /-- `RU_NOT` (R276): Row unit plane NOT. -/
  | ruNot (u : RowUnit) (d a : Fin 8)
  /-- `RU_FA` (R276): Row unit full add with the carry plane. -/
  | ruFa (u : RowUnit) (d a b : Fin 8)
  /-- `RU_CCLR` (R276): Row unit clears the carry plane. -/
  | ruCclr (u : RowUnit)
  /-- `RU_CSET` (R276): Row unit sets the carry plane. -/
  | ruCset (u : RowUnit)
  /-- `RU_POPC` (R276): Row unit counts the ones of a plane. -/
  | ruPopc (u : RowUnit) (d : Fin 16) (a : Fin 8)
  /-- `RU_ANYS` (R276): Row unit tests a plane for any one. -/
  | ruAnys (u : RowUnit) (d : Fin 16) (a : Fin 8)
  /-- `RU_TRIN` (R277): Row unit transposes 32 rows into a bit-transposed group. -/
  | ruTrin (u : RowUnit) (a b : Fin 16)
  /-- `RU_TROUT` (R277): Row unit transposes a group back to ordinary order. -/
  | ruTrout (u : RowUnit) (a b : Fin 16)
  /-- `RU_CRC` (R278): Row unit advances a CRC-64 over one row. -/
  | ruCrc (u : RowUnit) (d : Fin 8) (a : Fin 16)
  /-- `RU_PUT` (R276): Row unit writes its mailbox. -/
  | ruPut (u : RowUnit)
  /-- `LANDING_CHUNK` (R317): A reduce-scatter chunk arrives at a landing unit and is written, held or discarded. -/
  | landingChunk (stack : Fin 6)
  /-- `HELD_CHUNK_WRITE` (R317): A held landing chunk is written once its region becomes writable. -/
  | heldChunkWrite (stack : Fin 6) (region : Fin 16384)
  /-- `DIGEST_LOCALISATION` (R328): After a digest mismatch Torzan localises the differing bytes and reports them. -/
  | digestLocalisation (node : Fin 64) (stack : Fin 6) (region : Fin 16384) (block : Fin 64) (others : List Replica)
  /-- `XWRITE` (R352): A descriptor to write bytes to a peer part. -/
  | xwrite (qn : BitVec 19) (d : XDesc)
  /-- `XREAD` (R352): A descriptor to read bytes from a peer part. -/
  | xread (qn : BitVec 19) (d : XDesc)
  /-- `XPOST` (R352): A descriptor to post a queue entry on a peer part. -/
  | xpost (qn : BitVec 19) (d : XDesc)
  /-- `XRS` (R359): A reduce-scatter collective descriptor. -/
  | xrs (qn : BitVec 19) (d : XDesc)
  /-- `XAG` (R360): An all-gather collective descriptor. -/
  | xag (qn : BitVec 19) (d : XDesc)
  /-- `XAR` (R360): An all-reduce collective descriptor. -/
  | xar (qn : BitVec 19) (d : XDesc)
  /-- `XFIN` (R362): Starts the finite reduction of the job's finite flags. -/
  | xfin (qn : BitVec 19) (d : XDesc)
  /-- `XOBEX_MESSAGE_START` (R352): The engine starts the next message of a queue in round-robin order. -/
  | xobexMessageStart
  /-- `XOB_WRITE` (R354): A Xobex WRITE packet is received, checked and committed. -/
  | xobWrite (d : XIn)
  /-- `RREQ` (R354): A Xobex read request is received and answered. -/
  | rreq (d : XIn)
  /-- `RRSP` (R352): Xobex read response data is received and written. -/
  | rrsp (d : XIn)
  /-- `XOB_POST` (R354): A Xobex POST packet is received and posted to a queue. -/
  | xobPost (d : XIn)
  /-- `ACK` (R344): An ACK is received, releasing or retransmitting packets. -/
  | ack (d : XIn)
  /-- `NAK` (R355): A refusal is received and faults the sending job. -/
  | nak (d : XIn)
  /-- `COLL_READY` (R358): A collective READY from another rank is received and compared. -/
  | collReady (d : XIn)
  /-- `FETCHED` (R359): A FETCHED notice from another rank is received. -/
  | fetched (d : XIn)
  /-- `FINWORD` (R362): Rank 0 receives a part's finite word. -/
  | finword (d : XIn)
  /-- `VERDICT` (R322): The finite-reduction verdict arrives and the result block is written. -/
  | verdict (d : XIn)
  /-- `XOBEX_HALT` (R364): A HALT from another part halts the job on this part. -/
  | xobexHalt (d : XIn)
  /-- `SYNC_READY` (R363): Rank 0 receives a part's readiness to start a job. -/
  | syncReady (d : XIn)
  /-- `SYNC_GO` (R363): A part receives GO and continues its job load. -/
  | syncGo (d : XIn)
  /-- `SYNC_ABORT` (R363): An ABORT is received and the load is refused. -/
  | syncAbort (d : XIn)
  /-- `SYNC_TIMEOUT` (R363): No GO or ABORT, or no READY from all parts, within 10 s. -/
  | syncTimeout (tag : Word)
  /-- `MGMT` (R339): A Torzan management message is received. -/
  | mgmt (d : XIn)
  /-- `MESSAGE_LOCAL_COMPLETION` (R352): Every packet of a message is acknowledged and LCMPL is applied. -/
  | messageLocalCompletion (part : Fin 1024)
  /-- `MESSAGE_REMOTE_COMPLETION` (R353): Every write of a message is accepted at the target and RCMPL is applied. -/
  | messageRemoteCompletion (part : Fin 1024)
  /-- `COLLECTIVE_COMPLETE` (R361): A collective instance completes locally and applies LCMPL. -/
  | collectiveComplete (group : Byte)
  /-- `ACK_TIMER` (R343): 1 us after the oldest unacknowledged arrival, an ACK is sent. -/
  | ackTimer (part : Fin 1024) (ctx : Fin 2)
  /-- `RETRANSMISSION_TIMEOUT` (R344): The retransmission timeout expires and packets are resent. -/
  | retransmissionTimeout (part : Fin 1024) (ctx : Fin 2)
  /-- `CONTEXT_LOST` (R346): A context makes no progress for LOST_MS and the peer is lost. -/
  | contextLost (part : Fin 1024) (ctx : Fin 2)
  /-- `RATE_INCREASE` (R347): Each 20 us without ECE raises the context rate. -/
  | rateIncrease (part : Fin 1024)
  /-- `PFC_FRAME` (R348): A priority flow control frame is received and obeyed. -/
  | pfcFrame (cuff : Fin 8) (off : Bool)
  /-- `XOFF_REPEAT` (R348): XOFF is resent every 20 us while the receive buffer stays full. -/
  | xoffRepeat (cuff : Fin 8) (kib : BitVec 11)
  /-- `PAUSE_FRAME_RECEIVE` (R333): An IEEE 802.3 PAUSE frame is counted and ignored. -/
  | pauseFrameReceive (cuff : Fin 8)
  /-- `ARP_REQUEST` (R334): An ARP request for a port address is answered. -/
  | arpRequest (port : Fin 64) (mac : BitVec 48) (sender target : BitVec 32)
  /-- `NEIGHBOUR_SOLICITATION` (R334): An IPv6 neighbour solicitation is answered. -/
  | neighbourSolicitation (port : Fin 64) (mac : BitVec 48) (sender target : BitVec 128)
  /-- `ECHO_REQUEST` (R334): An ICMP or ICMPv6 echo request is answered. -/
  | echoRequest (port : Fin 64) (sender target : BitVec 128) (data : List Byte)
  /-- `CUFF_LINK_LOSS` (R366): A port loses its link and the Cuff retrains. -/
  | cuffLinkLoss (port : Fin 64)
  /-- `FEC_ERROR_BURST` (R366): More than 16 uncorrectable code words in 1 ms start a retraining. -/
  | fecErrorBurst (cuff : Fin 8) (n : Half)
  /-- `CUFF_RETRAIN_END` (R366): Cuff training and verification end; the Cuff rejoins or is failed. -/
  | cuffRetrainEnd (cuff : Fin 8) (ok : Bool) (up : BitVec 8)
  /-- `FRAME_REPLAY` (R255): An Orangery link frame failing its CRC is replayed. -/
  | frameReplay (stack : Fin 6) (again : Bool)
  /-- `POST_TIMEOUT` (R244): A site-queue post waiting for room is refused after 100 us. -/
  | postTimeout (qn : BitVec 19)
  /-- `SV_BUSY_TIMEOUT` (R293): A serving command waiting on a busy slot completes with SV_BUSY after 100 ms. -/
  | svBusyTimeout (lc : Lc)
  /-- `RESET_DRAIN_END` (R479): A partial reset drain ends, unsent requests are discarded and the cores are cleared. -/
  | resetDrainEnd (unsent : Half)
  /-- `RESET_SCOPE_3_BEGIN` (R390): 10 us after its completion, a scope-3 reset begins a whole-part reset. -/
  | resetScope3Begin
  /-- `SUBMISSION_TAIL_DOORBELL` (R374): A submission-tail doorbell write makes new commands visible for fetch. -/
  | submissionTailDoorbell (q tail : BitVec 16)
  /-- `COMPLETION_HEAD_DOORBELL` (R374): A completion-head doorbell write frees completion ring slots. -/
  | completionHeadDoorbell (q head : BitVec 16)
  /-- `ADMIN_QUEUE_ENABLE` (R373): Setting ADM_CTRL ENABLE checks the admin queue fields and enables it. -/
  | adminQueueEnable (sqLog cqLog : BitVec 4)
  /-- `ADMIN_QUEUE_DISABLE` (R373): Clearing ADM_CTRL ENABLE stops fetching and starts the drain. -/
  | adminQueueDisable
  /-- `QUEUE_DRAINED` (R373): A disabled queue posts its last completion and its state reads 0. -/
  | queueDrained (q : BitVec 16)
  /-- `COMPLETION_WRITE` (R374): A completion waiting for ring room is written into the completion ring. -/
  | completionWrite (q : BitVec 16)
  /-- `INTERRUPT_COALESCE_TIMER` (R376): COAL_US after the first gathered completion an MSI-X message is sent. -/
  | interruptCoalesceTimer (q : BitVec 16)
  /-- `NOTIFICATION_POST` (R389): A waiting notification entry is posted when its queue is enabled and has room. -/
  | notificationPost
  /-- `CONFIGURATION_REQUEST` (R371): A PCIe configuration request is answered, with Retry Status before fuse load. -/
  | configurationRequest
  /-- `BUS_MASTER_ENABLE` (R371): Bus Master Enable changes and host-memory requests wait or resume. -/
  | busMasterEnable (on : Bool)
  /-- `HIF_LOCK` (R528): A write of HIF_CTRL LOCK locks EXPERT_EN. -/
  | hifLock
  /-- `XOB_LOCK` (R528): A write of XOB_CTRL LOCK locks the Xobex fields. -/
  | xobLock
  /-- `PWR_LOCK` (R528): A write of PWR_CTRL LOCK locks VRI_EN and ALERT_EN. -/
  | pwrLock
  /-- `FUSE_LOCK` (R528): A write of FUSE_PROG_CTRL LOCK locks fuse staging and programming. -/
  | fuseLock
  /-- `LOCK_ALL` (R528): A write of GLB_CTRL LOCK_ALL sets every lock at once. -/
  | lockAll
  /-- `CUFF_RETRAIN` (R366): A write of CUFF_CTRL RETRAIN requests retraining of a Cuff. -/
  | cuffRetrain (cuff : Fin 8)
  /-- `CUFF_ENABLE` (R368): A write of CUFF_CTRL ENABLE lets a Cuff train and run, or darkens it. -/
  | cuffEnable (cuff : Fin 8) (on : Bool)
  /-- `SNAP_GO` (R500): A write of SNAP_CTRL GO takes a counter snapshot at one instant. -/
  | snapGo (sets : BitVec 10)
  /-- `SNAPSHOT_DONE` (R500): The snapshot image is visible to the host and DONE is set. -/
  | snapshotDone
  /-- `FUSE_GO` (R535): A write of FUSE_PROG_CTRL GO starts owner-area programming. -/
  | fuseGo (expert : Bool)
  /-- `FUSE_PROGRAMMING_DONE` (R535): Owner-area programming and read-back end. -/
  | fuseProgrammingDone (same : Bool)
  /-- `FUSE_TEMP_TIMEOUT` (R535): Fuse programming fails after 60 s outside the temperature window. -/
  | fuseTempTimeout
  /-- `REGISTER_WRITE` (R525): A write to any register without behaviour of its own updates its fields. -/
  | registerWrite (reg : RegName) (v : Word)
  /-- `LOOP_STEP` (R417): Every 10 us a capping loop samples power and cuts or relaxes its actuators. -/
  | loopStep (node : Fin 64) (p : PowerSample)
  /-- `FREQ_LIM_STEP` (R420): Every 1 ms the part loop lowers or raises the capping clock limit. -/
  | freqLimStep
  /-- `VR_ALERT` (R413): VR_ALERT_N is asserted and the part-loop setpoint is held to 2,000 W. -/
  | vrAlert
  /-- `CORE_GATE` (R402): An idle logical core is power-gated after GATE_IDLE_MS. -/
  | coreGate (lc : Lc)
  /-- `CANOPY_RETENTION` (R404): A gated core's Canopy switch moves to retention voltage. -/
  | canopyRetention (site : Site)
  /-- `INRUSH_PERMIT_GRANT` (R405): A waiting power-up or Canopy raise receives a zone inrush permit. -/
  | inrushPermitGrant (zone : Fin 8) (margin : Option Byte)
  /-- `SLOW_RAMP` (R406): After 20 us without neighbour margin a power-up uses the slow ramp. -/
  | slowRamp (site : Site)
  /-- `POWER_GOOD` (R407): A core-domain power-up reaches power-good and returns its permit. -/
  | powerGood (site : Site) (canopy : Bool)
  /-- `DROOP_TRIP` (R409): A droop detector trips and the region's array clock is stretched. -/
  | droopTrip (region : Fin 5) (deep : Bool)
  /-- `DROOP_RELEASE` (R409): After 64 quiet cycles the stretch is released. -/
  | droopRelease (region : Fin 5)
  /-- `SENSOR_SAMPLE` (R430): A sensing point is sampled, accepted or discarded, and its rate band set. -/
  | sensorSample (point : Fin 1348) (a b : Int)
  /-- `ESTIMATE_STEP` (R433): Every 100 us the estimator updates every heat-layer cell. -/
  | estimateStep (mw : List Nat)
  /-- `THERMAL_STEP` (R439): Every 100 us a region's thermal pause duty is adjusted. -/
  | thermalStep (region : Fin 5)
  /-- `TCLK_LIM_STEP` (R440): The thermal clock limit falls every 1 ms or rises every 10 ms. -/
  | tclkLimStep (region : Fin 5) (ten : Bool)
  /-- `SENSOR_SUSPECT` (R435): A sensor trailing its estimate by over 8 C for 50 ms is marked suspect. -/
  | sensorSuspect (point : Fin 1200) (diodeB : Bool)
  /-- `PAIR_DIS` (R432): A hot-spot pair disagreeing for 100 samples is flagged, or cleared after 100 agreeing. -/
  | pairDis (site : Site)
  /-- `HELD_WRITE_DRAIN` (R441): A plot's ruling value returns to range and its held writes drain. -/
  | heldWriteDrain (site : Site)
  /-- `TRIP_RESTART` (R448): After 10 s cool the part releases THERMTRIP_N and restarts. -/
  | tripRestart
  /-- `INLET_RANGE` (R450): An inlet reading out of range for 10 s sets INLET_RANGE. -/
  | inletRange
  /-- `COOLANT_EVALUATION` (R451): Once per second each coolant plane's thermal resistance is evaluated. -/
  | coolantEvaluation (plane : Fin 3) (mw : Nat)
  /-- `FLOW_EVALUATION` (R452): Once per second the implied coolant flow is computed. -/
  | flowEvaluation
  /-- `VIN_AUX_ENTER` (R457): VIN_AUX enters its range and bring-up starts at step 1. -/
  | vinAuxEnter
  /-- `VIN_AUX_LEAVE` (R511): VIN_AUX leaves its range and all VIN_AUX state is lost. -/
  | vinAuxLeave
  /-- `MAIN_RAILS_IN_RANGE` (R510): All four main rails reach their DC bands. -/
  | mainRailsInRange
  /-- `MAIN_RAIL_LOST` (R513): A main rail is lost and the part stops everything within 1 us. -/
  | mainRailLost
  /-- `RAIL_LOSS_RESTART` (R513): Main rails back for 10 ms restart bring-up at step 2. -/
  | railLossRestart
  /-- `REFCLK_SYS_LOST` (R516): REFCLK_SYS is missing or off frequency and the part stops. -/
  | refclkSysLost
  /-- `REFCLK_SYS_RESTORED` (R516): REFCLK_SYS is within limits for 10 ms and bring-up restarts. -/
  | refclkSysRestored
  /-- `CUFF_REFCLK_LOST` (R516): A Cuff reference clock is lost and its Cuffs retrain. -/
  | cuffRefclkLost (north : Bool)
  /-- `AUX_CLK_LOST` (R516): AUX_CLK is absent for 10 us and the Kiosk moves to its internal oscillator. -/
  | auxClkLost
  /-- `PCIE_PERST_N_ASSERT` (R457): PCIE_PERST_N is asserted, causing a whole-part reset. -/
  | pciePerstNAssert
  /-- `PCIE_PERST_N_DEASSERT` (R457): PCIE_PERST_N is deasserted and bring-up proceeds to step 2. -/
  | pciePerstNDeassert
  /-- `HOT_RESET` (R371): A PCIe hot reset causes a whole-part reset. -/
  | hotReset
  /-- `LINK_LOST` (R371): Loss of the PCIe link causes a whole-part reset. -/
  | linkLost
  /-- `WATCHDOG_EXPIRY` (R470): The Kiosk watchdog expires, halting jobs and resetting the part. -/
  | watchdogExpiry
  /-- `AUX_START` (R456): Step 1: the Kiosk boot ROM, sensor hubs and fuse array start. -/
  | auxStart
  /-- `KIOSK_BOOT` (R456): Step 2: Kiosk self-test and boot record read. -/
  | kioskBoot (selfTest copy : Bool)
  /-- `FIRMWARE_CHECK` (R458): Step 3: firmware banks are verified and Torzan starts. -/
  | firmwareCheck (okA okB : BitVec 3)
  /-- `FUSE_LOAD` (R459): Step 4: the fuse map is loaded and the PCIe controller configured. -/
  | fuseLoad (c0 c1 : Option FuseMap) (health : Bool)
  /-- `SEAM_CALIBRATION` (R460): Step 5: PLLs lock and every Seam bundle is swept. -/
  | seamCalibration (sweeps : List SweepResult)
  /-- `PLOT_AND_ORANGERY_TRAINING` (R461): Step 6: plot controllers and Orangery links are trained. -/
  | plotAndOrangeryTraining (badPlots : List Site) (badStacks : List (Fin 6))
  /-- `TRELLIS_START` (R229): Step 7: routers and links are tested and the routing graph is formed. -/
  | trellisStart (dark : List (BitVec 10)) (bad : List (BitVec 10 × BitVec 10))
  /-- `CORE_FIRMWARE` (R463): Step 8: core firmware is loaded into every site. -/
  | coreFirmware (fetched bad : List Site)
  /-- `MEMORY_TEST` (R464): Step 9: the memory test phases run and faults are listed. -/
  | memoryTest (failed : List Site) (words : List WordFault)
  /-- `REPAIR` (R467): Step 10: fuse, soft and test repairs are applied. -/
  | repair
  /-- `LOGICAL_MAP_BUILD` (R468): Step 11: the logical map is built and the boot record written. -/
  | logicalMapBuild
  /-- `CUFF_TRAINING` (R469): Step 12: SerDes lanes are calibrated and the part becomes READY. -/
  | cuffTraining (bad : List (Fin 64))
  /-- `JOB_BOUNDARY` (R475): A row reaches a job boundary and its pending map change is applied. -/
  | jobBoundary (cl : Fin 40)
  /-- `DRIFT_MEASUREMENT` (R490): A site's ageing oscillators are measured and AGE_GB updated. -/
  | driftMeasurement (site : Site) (stress ref : Nat)
  /-- `TSV_CHAIN_MEASUREMENT` (R489): Hourly the TSV Kelvin chains of each Seam are measured. -/
  | tsvChainMeasurement (seam : Fin 15) (ratio : Nat)
  /-- `REGULATOR_EFFICIENCY_MEASUREMENT` (R489): A core regulator's efficiency is measured in its load bin. -/
  | regulatorEfficiencyMeasurement (site : Site) (drop : Nat)
  /-- `FMAX_REGION_LOWER` (R492): A margin-short region's FMAX_REGION is lowered at its idle moment. -/
  | fmaxRegionLower (region : Fin 5)
  /-- `LIFE_RECOMPUTE` (R497): Every 24 h the life estimates are recomputed and a life event sent. -/
  | lifeRecompute
  /-- `HEALTH_RECORD_WRITE` (R493): Every 24 h of powered time the health record is written to flash. -/
  | healthRecordWrite
  /-- `XPACE_WINDOW` (R365): Every 10 ms the fabric pace figures of each multi-part job are rewritten. -/
  | xpaceWindow
  /-- `MCTP_CONTROL` (R391): An MCTP control message is received and answered. -/
  | mctpControl (i3c : Bool) (src : Byte) (m : MctpReq)
  /-- `SENSOR_UPDATE` (R392): At 10 Hz the PLDM numeric sensors update and threshold events are sent. -/
  | sensorUpdate (vinA vinM : Half)
  /-- `SET_EVENT_RECEIVER` (R392): A PLDM SetEventReceiver sets the event receiver. -/
  | setEventReceiver (i3c : Bool) (src : Byte) (receiver : Option Byte)
  /-- `POLL_FOR_PLATFORM_EVENT_MESSAGE` (R392): A PLDM poll returns a held event. -/
  | pollForPlatformEventMessage (i3c : Bool) (src : Byte)
  /-- `PLATFORM_EVENT_RESEND` (R392): Every 5 s an unaccepted event is resent to the receiver. -/
  | platformEventResend
  /-- `FIRMWARE_UPDATE` (R393): A PLDM type 5 transfer writes a component image into the idle bank. -/
  | firmwareUpdate (i3c : Bool) (src : Byte) (comp : Fin 3) (ofs : Word) (data : List Byte)
  /-- `VERIFY_COMPLETE` (R393): At VerifyComplete the staged image signature is checked. -/
  | verifyComplete (i3c : Bool) (src : Byte) (comp : Fin 3) (version : Word) (ok : Bool)
  /-- `VR_ALERT_RELEASE` (R413): The board releases VR_ALERT_N, ALERT clears and the part-loop setpoint is no longer held to 2,000 W. -/
  | vrAlertRelease
  /-- `MAIN_RAILS_REMOVED` (R511): The board removes the main rails after PCIE_PERST_N assertion or a trip, and the part stays on VIN_AUX alone. -/
  | mainRailsRemoved
  /-- `HEAD_WORD_REREAD` (R244): Every 256 ns the NI or batcher re-reads a queue head word, letting a waiting post or serving command proceed. -/
  | headWordReread (qn : BitVec 19)
  /-- `PCIE_LINK_UP` (R371): The PCIe link finishes training and comes up, so configuration requests and MCTP over PCIe VDM can be served. -/
  | pcieLinkUp
  /-- `CUFF_REFCLK_RESTORED` (R516): A Cuff reference clock returns, its status bit sets and the Cuffs it feeds can train again. -/
  | cuffRefclkRestored (north : Bool)
  /-- `PLDM_REQUEST` (R392): A PLDM type 0 or type 2 request from the board controller, such as a sensor reading, is received and answered. -/
  | pldmRequest (i3c : Bool) (src : Byte) (r : PldmReq)
  /-- `PLATFORM_EVENT_ACCEPT` (R392): The event receiver accepts a PlatformEventMessage and its resending stops. -/
  | platformEventAccept (idx : Half)
  /-- `UNACCEPTED_FRAME` (R334): A received Ethernet frame that fails the acceptance rules, or is not ARP, ND, echo or Xobex, is dropped and counted in CUFF_RX_DROP. -/
  | unacceptedFrame (cuff : Fin 8)
  deriving DecidableEq, Repr

/-- The queue and entry of a host command, if the command is one. -/
def commandOf : Instr → Option (BitVec 16 × Entry)
  | .identify q e => some (q, e)
  | .queueConfig q e => some (q, e)
  | .settingSet q e => some (q, e)
  | .settingGet q e => some (q, e)
  | .noteRead q e => some (q, e)
  | .repairMap q e => some (q, e)
  | .routeQuery q e => some (q, e)
  | .resetCmd q e => some (q, e)
  | .pwrCap q e => some (q, e)
  | .ptnConfig q e => some (q, e)
  | .jobLoad q e => some (q, e)
  | .jobHalt q e => some (q, e)
  | .jobTeardown q e => some (q, e)
  | .jobReport q e => some (q, e)
  | .memRead q e => some (q, e)
  | .memWrite q e => some (q, e)
  | .memClear q e => some (q, e)
  | .ctrlRead q e => some (q, e)
  | .ctrlWrite q e => some (q, e)
  | .queuePost q e => some (q, e)
  | .orgMap q e => some (q, e)
  | .orgUnmap q e => some (q, e)
  | .orgPageOut q e => some (q, e)
  | .orgPageIn q e => some (q, e)
  | .bankEnter q e => some (q, e)
  | .bankRelease q e => some (q, e)
  | .svBind q e => some (q, e)
  | .svOpen q e => some (q, e)
  | .svClose q e => some (q, e)
  | .svFork q e => some (q, e)
  | .svHot q e => some (q, e)
  | .svCold q e => some (q, e)
  | .svQuota q e => some (q, e)
  | .trBind q e => some (q, e)
  | .trExport q e => some (q, e)
  | .sysIndex q e => some (q, e)
  | .portConfig q e => some (q, e)
  | .peerConfig q e => some (q, e)
  | .collGroup q e => some (q, e)
  | _ => none

/-- The host command of an opcode (Table 13.9); `none` for a reserved opcode. -/
def hostInstr (op : Nat) (q : BitVec 16) (e : Entry) : Option Instr :=
  match op with
  | 0x0001 => some (.identify q e)
  | 0x0002 => some (.queueConfig q e)
  | 0x0003 => some (.settingSet q e)
  | 0x0004 => some (.settingGet q e)
  | 0x0005 => some (.noteRead q e)
  | 0x0006 => some (.repairMap q e)
  | 0x0007 => some (.routeQuery q e)
  | 0x0008 => some (.resetCmd q e)
  | 0x0009 => some (.pwrCap q e)
  | 0x0101 => some (.ptnConfig q e)
  | 0x0102 => some (.jobLoad q e)
  | 0x0103 => some (.jobHalt q e)
  | 0x0104 => some (.jobTeardown q e)
  | 0x0105 => some (.jobReport q e)
  | 0x0201 => some (.memRead q e)
  | 0x0202 => some (.memWrite q e)
  | 0x0203 => some (.memClear q e)
  | 0x0204 => some (.ctrlRead q e)
  | 0x0205 => some (.ctrlWrite q e)
  | 0x0206 => some (.queuePost q e)
  | 0x0301 => some (.orgMap q e)
  | 0x0302 => some (.orgUnmap q e)
  | 0x0303 => some (.orgPageOut q e)
  | 0x0304 => some (.orgPageIn q e)
  | 0x0305 => some (.bankEnter q e)
  | 0x0306 => some (.bankRelease q e)
  | 0x0401 => some (.svBind q e)
  | 0x0402 => some (.svOpen q e)
  | 0x0403 => some (.svClose q e)
  | 0x0404 => some (.svFork q e)
  | 0x0405 => some (.svHot q e)
  | 0x0406 => some (.svCold q e)
  | 0x0407 => some (.svQuota q e)
  | 0x0501 => some (.trBind q e)
  | 0x0502 => some (.trExport q e)
  | 0x0601 => some (.sysIndex q e)
  | 0x0602 => some (.portConfig q e)
  | 0x0603 => some (.peerConfig q e)
  | 0x0604 => some (.collGroup q e)
  | _ => none

end Sys2Proof
end

