-- ==== Sys2Proof/Decode.lean ====
section
/-! DEFINITION. The command that a word spells by the table's bits. No row of spec/opcode_table.json gives bits, so no word
spells a command; the slots of a bundle, the words of the Orangery's units and the command entries of host memory are read by
Machine/Slots.lean and Machine/Tick.lean. -/

namespace Sys2Proof

/-- The command of a row that gives bits; there is no such row. -/
def decodeTableWord (_nbits _w : Nat) : Option Instr := none

end Sys2Proof
end

