-- ==== Sys2Proof/Config.lean ====
section
/-! DEFINITION. What one part fixes and what the spec leaves open: every constant here has no body, so no proof
can see its value. -/

namespace Sys2Proof.Config

/-- DESIGN CHOICE: a free 32-bit value, one per value of the model's draw counter (log 3). -/
opaque freeWord : Nat → Word

/-- DESIGN CHOICE: a free byte, one per value of the model's draw counter and index (log 3). -/
opaque freeByte : Nat → Nat → Byte

/-- DESIGN CHOICE: a free natural number, one per value of the model's draw counter (log 3). -/
opaque freeNat : Nat → Nat

/-- R70: the base-2 exponential that this part's special-function lanes return, a fixed function of the input bits; it
counts where it lies within the bound of Table 2.7 (log 4). -/
opaque exp2Lane : Word → Word

/-- R70: the base-2 logarithm of the special-function lanes (log 4). -/
opaque log2Lane : Word → Word

/-- R70: the hyperbolic tangent of the special-function lanes (log 4). -/
opaque tanhLane : Word → Word

/-- R70: the sigmoid of the special-function lanes (log 4). -/
opaque sigmoidLane : Word → Word

/-- R70: the reciprocal of the special-function lanes (log 4). -/
opaque rcpLane : Word → Word

/-- R70: the reciprocal square root of the special-function lanes (log 4). -/
opaque rsqrtLane : Word → Word

/-- R109: the cosine of a phase in units of 2^-32 turn, for a nonzero phase (log 4). -/
opaque cosTurn : Word → Word

/-- R109: the sine of a phase in units of 2^-32 turn, for a nonzero phase (log 4). -/
opaque sinTurn : Word → Word

/-- Table 7.8: row and bank of an error-log record, where the spec gives no layout of the store (log 7). -/
opaque errorLoc : Nat → Word

/-- R412: the change in a zone's current that the power controller predicts, in A, one per value of the draw counter: the
spec gives no formula (log 17). -/
opaque predictedAmps : Nat → Int

/-- R426: the fused position of a sensing point within its layer, for the points whose index does not give it. -/
opaque sensorPos : Nat → Fin 220

/-- R428: the code that the part converts a thermistor's resistance in Ω to: the rounding of the formula to 1/16 °C is not
given (log 25). -/
opaque ntcCode : Nat → Int

/-- R433: the fused coefficient k of two heat layers, K/W. -/
opaque heatK : Nat → Nat → Rat

/-- R433: the fused position factor g. -/
opaque heatG : Nat → Rat

/-- R433: the fused time constant of a heat layer, ms; it lies from 1 to 20. -/
opaque heatTau : Nat → Rat

/-- R490: the fused frequency ratio r0 of a site's ageing oscillators. -/
opaque driftR0 : Nat → Rat

/-- R495: 2^x for a fraction x between 0 and 1, which is no rational number (log 29). -/
opaque pow2Part : Rat → Rat

/-- R496: the fused exponent n of the ageing fit of a site, nominally 1/4. -/
opaque ageExp : Nat → Rat

/-- R496: x^y for an exponent y that is no whole number (log 29). -/
opaque ratPow : Rat → Rat → Rat

/-- R496: the stress-equivalent time at which the fit of d = A × τ^n to two or more points reaches a limit: the method of
the fit is not given (log 29). -/
opaque fitEnd : Rat → List (Rat × Rat) → Rat → Rat

/-- R497: the variance, in natural log, of the residuals of a fit to two or more points (log 29). -/
opaque fitVar : List (Rat × Rat) → Rat

/-- R497: exp(−1.2816 × sqrt(v + 0.0625)) for a variance v, which is no rational number (log 29). -/
opaque boundFactor : Rat → Rat

/-- R495: how long the part lay without power, in µs, before the boot that takes up a record with a given powered time: the
part cannot measure it, and its source is not given (log 29). -/
opaque offTime : Nat → Nat

/-- DESIGN CHOICE: a free rational number, one per value of the model's draw counter (log 3). -/
opaque freeRat : Nat → Rat

end Sys2Proof.Config
end

