-- ==== Sys2Proof/Machine/Bits.lean ====
section
/-! DEFINITION. Bit fields, sign extension, little-endian structures (R7, R8) and the checks over byte strings. -/

namespace Sys2Proof.Machine

/-- Bits `[hi:lo]` of a number, both ends included (R8). -/
def bits (n hi lo : Nat) : Nat := (n / 2 ^ lo) % 2 ^ (hi + 1 - lo)

/-- Bit `b` of a number. -/
def bit (n b : Nat) : Bool := bits n b b = 1

/-- A Bool as a bit. -/
def b2n (b : Bool) : Nat := if b then 1 else 0

/-- Field `[hi:lo]` of a 32-bit register. -/
def fld (w : Word) (hi lo : Nat) : Nat := bits w.toNat hi lo

/-- A register with field `[hi:lo]` set to `v` (the bits of `v` that fit). -/
def setFld (w : Word) (hi lo v : Nat) : Word :=
  let m := 2 ^ (hi + 1 - lo)
  BitVec.ofNat 32 (w.toNat - bits w.toNat hi lo * 2 ^ lo + (v % m) * 2 ^ lo)

/-- The two's-complement value of the low `w` bits of `n`. -/
def sext (w n : Nat) : Int :=
  let m := n % 2 ^ w
  if m < 2 ^ (w - 1) then (m : Int) else (m : Int) - (2 ^ w : Nat)

/-- An integer as `w` bits of two's complement. -/
def wrapInt (w : Nat) (i : Int) : Nat := (i % ((2 ^ w : Nat) : Int)).toNat

/-- The number a little-endian byte string holds (R7). -/
def leNat : List Byte → Nat
  | [] => 0
  | b :: bs => b.toNat + 256 * leNat bs

/-- A number as `k` little-endian bytes (R7). -/
def leBytes : Nat → Nat → List Byte
  | 0, _ => []
  | k + 1, n => BitVec.ofNat 8 (n % 256) :: leBytes k (n / 256)

/-- Bytes `lo` to `hi` of a structure, as a little-endian number. -/
def leField (bs : List Byte) (lo hi : Nat) : Nat := leNat ((bs.drop lo).take (hi + 1 - lo))

/-- A byte string with bytes from `lo` replaced. -/
def putBytes (bs : List Byte) (lo : Nat) (v : List Byte) : List Byte :=
  bs.take lo ++ v ++ bs.drop (lo + v.length)

/-- True when every byte is zero. -/
def allZero (bs : List Byte) : Bool := bs.all (fun b => b = 0)

/-- One bit of a reflected CRC over `n` bits of register. -/
def crcStep (poly : Nat) (c : Nat) : Nat := if c % 2 = 1 then (c / 2) ^^^ poly else c / 2

/-- CRC-32C (R131): Castagnoli, reflected, initial and final 0xFFFF_FFFF. -/
def crc32c (bs : List Byte) : Nat :=
  let c := bs.foldl (fun c b =>
    let c := c ^^^ b.toNat
    (List.range 8).foldl (fun c _ => crcStep 0x82F63B78 c) c) 0xFFFFFFFF
  c ^^^ 0xFFFFFFFF

/-- One bit of the CRC-64 register. -/
def crc64Step (c : Nat) : Nat :=
  if c / 2 ^ 63 % 2 = 1 then (c * 2 % 2 ^ 64) ^^^ 0x42F0E1EBA9EA3693 else c * 2 % 2 ^ 64

/-- CRC-64 of R278 from a state: ECMA-182 polynomial, not reflected, each byte from its bit 7. -/
def crc64From (c : Nat) (bs : List Byte) : Nat :=
  bs.foldl (fun c b => (List.range 8).foldl (fun c _ => crc64Step c) (c ^^^ (b.toNat * 2 ^ 56))) c

/-- Product of two polynomials of degree below 64 modulo the CRC-64 polynomial. -/
def crc64Mul (a b : Nat) : Nat :=
  ((List.range 64).foldl (fun (r : Nat × Nat) k => (if bit b k then r.1 ^^^ r.2 else r.1, crc64Step r.2)) (0, a)).1

/-- x^(8 × n) modulo the CRC-64 polynomial, from the powers x^(8 × 2^k) of the bits of n. -/
def crc64Shift (n : Nat) : Nat :=
  ((List.range 40).foldl (fun (r : Nat × Nat) k =>
    (if bit n k then crc64Mul r.1 r.2 else r.1, crc64Mul r.2 r.2)) (1, 256)).1

/-- CRC-64 of `n` bytes that are zero but for the listed (position, byte) pairs: the CRC is linear and starts at 0, so
every byte adds its own share (R278). -/
def crc64Sparse (n : Nat) (t : List (Nat × Byte)) : Nat :=
  t.foldl (fun c e => c ^^^ crc64Mul (crc64From 0 [e.2]) (crc64Shift (n - 1 - e.1))) 0

/-- Ceiling of a quotient. -/
def cdiv (a b : Nat) : Nat := (a + b - 1) / b

/-- An increment of a 64-bit counter, modulo 2^64. -/
def bump (c : Dword) (n : Nat) : Dword := c + BitVec.ofNat 64 n

/-- A 32-bit counter that stops at 0xFFFF_FFFF. -/
def satAdd (c : Word) (n : Nat) : Word := BitVec.ofNat 32 (min 0xFFFFFFFF (c.toNat + n))

end Sys2Proof.Machine
end

