-- ==== Sys2Proof/Machine/Num.lean ====
section
/-! DEFINITION. Number formats and arithmetic ("Number formats and arithmetic", R48 to R73). -/

namespace Sys2Proof.Machine

/-- A value of a floating-point format: NaN, an infinity, or exactly ±m × 2^e. -/
inductive Fp where
  /-- not a number -/
  | nan
  /-- an infinity -/
  | inf (neg : Bool)
  /-- ±m × 2^e, zero when m = 0 -/
  | fin (neg : Bool) (m : Nat) (e : Int)
  deriving DecidableEq, Repr

/-- The sticky flags of `NUM_FLAGS`, bit by bit (Table 2.9). -/
abbrev Flags := BitVec 7

/-- `NAN_IN` (Table 2.9). -/
def flNanIn : Flags := 0x01#7
/-- `INVALID` (Table 2.9). -/
def flInvalid : Flags := 0x02#7
/-- `OVERFLOW` (Table 2.9). -/
def flOverflow : Flags := 0x04#7
/-- `FLUSH` (Table 2.9). -/
def flFlush : Flags := 0x08#7
/-- `SATURATED` (Table 2.9). -/
def flSaturated : Flags := 0x10#7
/-- `DEC_NAN` (Table 2.9). -/
def flDecNan : Flags := 0x20#7
/-- `DEC_ROUND` (Table 2.9). -/
def flDecRound : Flags := 0x40#7

/-- The canonical binary32 NaN (R69). -/
def nan32 : Word := 0x7FC00000#32
/-- The canonical binary16 NaN (R49). -/
def nan16 : Half := 0x7E00#16
/-- Binary32 1.0. -/
def one32 : Word := 0x3F800000#32
/-- Binary32 minus infinity. -/
def negInf32 : Word := 0xFF800000#32

/-- The number of bits of a significand. -/
def bitLen (m : Nat) : Nat := if m = 0 then 0 else Nat.log2 m + 1

/-- An IEEE 754 encoding with `eb` exponent bits and `mb` fraction bits (R48). -/
def fpDecode (eb mb n : Nat) : Fp :=
  let s := bit n (eb + mb)
  let e := bits n (eb + mb - 1) mb
  let m := n % 2 ^ mb
  let bias : Int := (2 ^ (eb - 1) : Nat) - 1
  if e = 2 ^ eb - 1 then (if m = 0 then .inf s else .nan)
  else if e = 0 then .fin s m (1 - bias - mb)
  else .fin s (2 ^ mb + m) (e - bias - mb)

/-- The value of a binary32 word. -/
def fp32 (w : Word) : Fp := fpDecode 8 23 w.toNat
/-- The value of a binary16 half word. -/
def fp16 (h : Half) : Fp := fpDecode 5 10 h.toNat

/-- The value of an FP8 E4M3 byte (R50). -/
def fpE4M3 (n : Nat) : Fp :=
  let s := bit n 7
  let e := bits n 6 3
  let m := n % 8
  if n % 128 = 127 then .nan else if e = 0 then .fin s m (-9) else .fin s (8 + m) ((e : Int) - 10)

/-- The value of an integer element of `w` bits. -/
def fpInt (w n : Nat) : Fp :=
  let i := sext w n
  .fin (i < 0) i.natAbs 0

/-- The value of an FP4 E2M1 code (R53, Table 2.3). -/
def fpE2M1 (n : Nat) : Fp :=
  let e := bits n 2 1
  if e = 0 then .fin (bit n 3) (n % 2) (-1) else .fin (bit n 3) (2 + n % 2) ((e : Int) - 2)

/-- A value with its sign reversed. -/
def Fp.neg : Fp → Fp
  | .nan => .nan
  | .inf s => .inf (!s)
  | .fin s m e => .fin (!s) m e

/-- Is the value a NaN? -/
def Fp.isNan : Fp → Bool
  | .nan => true
  | _ => false

/-- Is the value finite? -/
def Fp.isFin : Fp → Bool
  | .fin .. => true
  | _ => false

/-- Is the value a zero? -/
def Fp.isZero : Fp → Bool
  | .fin _ m _ => m = 0
  | _ => false

/-- The signed significand of ±m × 2^e at weight 2^b, b ≤ e. -/
def scaledInt (s : Bool) (m : Nat) (e b : Int) : Int :=
  let v : Int := ((m * 2 ^ (e - b).toNat : Nat) : Int)
  if s then -v else v

/-- The exact sum (IEEE 754 sign of zero under round-to-nearest-even). -/
def Fp.add : Fp → Fp → Fp
  | .nan, _ => .nan
  | _, .nan => .nan
  | .inf s, .inf t => if s = t then .inf s else .nan
  | .inf s, .fin .. => .inf s
  | .fin .., .inf t => .inf t
  | .fin s1 m1 e1, .fin s2 m2 e2 =>
    let b := min e1 e2
    let t := scaledInt s1 m1 e1 b + scaledInt s2 m2 e2 b
    if t = 0 then .fin (s1 && s2) 0 b else .fin (t < 0) t.natAbs b

/-- The exact product. -/
def Fp.mul : Fp → Fp → Fp
  | .nan, _ => .nan
  | _, .nan => .nan
  | .inf s, .inf t => .inf (s != t)
  | .inf s, .fin t m _ => if m = 0 then .nan else .inf (s != t)
  | .fin t m _, .inf s => if m = 0 then .nan else .inf (s != t)
  | .fin s1 m1 e1, .fin s2 m2 e2 => .fin (s1 != s2) (m1 * m2) (e1 + e2)

/-- a < b on values that are no NaN (−0 = +0). -/
def Fp.lt : Fp → Fp → Bool
  | .nan, _ => false
  | _, .nan => false
  | .inf s, .inf t => s && !t
  | .inf s, .fin .. => s
  | .fin .., .inf t => !t
  | .fin s1 m1 e1, .fin s2 m2 e2 =>
    let b := min e1 e2
    scaledInt s1 m1 e1 b < scaledInt s2 m2 e2 b

/-- a = b on values that are no NaN (−0 = +0). -/
def Fp.eq : Fp → Fp → Bool
  | .nan, _ => false
  | _, .nan => false
  | .inf s, .inf t => s = t
  | .fin s1 m1 e1, .fin s2 m2 e2 =>
    let b := min e1 e2
    scaledInt s1 m1 e1 b = scaledInt s2 m2 e2 b
  | _, _ => false

/-- A rounding target: significand bits, exponent of the smallest subnormal, largest finite encoding. -/
structure RFmt where
  /-- significand bits with the leading one -/
  p : Nat
  /-- exponent of the least subnormal -/
  emin : Int
  /-- encoding of the largest finite magnitude -/
  maxBits : Nat
  deriving DecidableEq, Repr

/-- binary32 -/
def rBin32 : RFmt := ⟨24, -149, 0x7F7FFFFF⟩
/-- binary16 -/
def rBin16 : RFmt := ⟨11, -24, 0x7BFF⟩
/-- FP8 E5M2 -/
def rE5M2 : RFmt := ⟨3, -16, 0x7B⟩
/-- FP8 E4M3 -/
def rE4M3 : RFmt := ⟨4, -9, 0x7E⟩
/-- FP4 E2M1 -/
def rE2M1 : RFmt := ⟨2, -1, 7⟩

/-- Round m × 2^e to a multiple of 2^u, to nearest even, or stochastically with a 16-bit draw (R65).
The second part says whether bits were lost. -/
def roundAt (m : Nat) (e u : Int) (draw : Option Nat) : Nat × Bool :=
  if u ≤ e then (m * 2 ^ (e - u).toNat, false)
  else
    let k := (u - e).toNat
    let q := m / 2 ^ k
    let r := m % 2 ^ k
    match draw with
    | none =>
      let h := 2 ^ (k - 1)
      (if r > h || (r = h && q % 2 = 1) then q + 1 else q, r ≠ 0)
    | some d => (if r * 65536 / 2 ^ k + d ≥ 65536 then q + 1 else q, r ≠ 0)

/-- The exponent of the target's grid at the magnitude m × 2^e, never below `emin`. -/
def gridExp (p : Nat) (emin : Int) (m : Nat) (e : Int) : Int := max (e + (bitLen m : Int) - (p : Int)) emin

/-- The encoding of a magnitude in a target, with an unbounded exponent above: an encoding above `maxBits`
is a finite overflow (R63). -/
def roundMag (f : RFmt) (m : Nat) (e : Int) (draw : Option Nat) : Nat × Bool :=
  if m = 0 then (0, false) else
  let u := gridExp f.p f.emin m e
  let r := roundAt m e u draw
  ((u - f.emin).toNat * 2 ^ (f.p - 1) + r.1, r.2)

/-- A value rounded once to binary32 (RNE), and whether a finite value overflowed. -/
def toBin32 : Fp → Word × Bool
  | .nan => (nan32, false)
  | .inf s => (BitVec.ofNat 32 (b2n s * 2 ^ 31 + 0x7F800000), false)
  | .fin s m e =>
    let r := (roundMag rBin32 m e none).1
    if r > rBin32.maxBits then (BitVec.ofNat 32 (b2n s * 2 ^ 31 + 0x7F800000), true)
    else (BitVec.ofNat 32 (b2n s * 2 ^ 31 + r), false)

/-- A value rounded once to binary16 (RNE), whether bits were lost, and whether a finite value overflowed. -/
def toBin16 : Fp → Half × Bool × Bool
  | .nan => (nan16, false, false)
  | .inf s => (BitVec.ofNat 16 (b2n s * 2 ^ 15 + 0x7C00), false, false)
  | .fin s m e =>
    let r := roundMag rBin16 m e none
    if r.1 > rBin16.maxBits then (BitVec.ofNat 16 (b2n s * 2 ^ 15 + 0x7C00), true, true)
    else (BitVec.ofNat 16 (b2n s * 2 ^ 15 + r.1), r.2, false)

/-- The flags of an operation on `ins` whose exact result is `res` (R71). -/
def opFlags (ins : List Fp) (res : Fp) (ovf : Bool) : Flags :=
  if ins.any Fp.isNan then flNanIn
  else if res.isNan then flInvalid
  else if ovf then flOverflow else 0

/-- A binary32 operation: its exact result rounded once, with its flags (R69, R71). -/
def op32 (ins : List Fp) (res : Fp) : Word × Flags :=
  let r := toBin32 res
  (r.1, opFlags ins res r.2)

/-- Binary32 addition (R69). -/
def add32 (a b : Word) : Word × Flags := op32 [fp32 a, fp32 b] ((fp32 a).add (fp32 b))
/-- Binary32 subtraction (R69). -/
def sub32 (a b : Word) : Word × Flags := op32 [fp32 a, fp32 b] ((fp32 a).add (fp32 b).neg)
/-- Binary32 multiplication (R69). -/
def mul32 (a b : Word) : Word × Flags := op32 [fp32 a, fp32 b] ((fp32 a).mul (fp32 b))
/-- Binary32 fused multiply-add, rounded once (R69). -/
def fma32 (a b c : Word) : Word × Flags :=
  op32 [fp32 a, fp32 b, fp32 c] (((fp32 a).mul (fp32 b)).add (fp32 c))

/-- IEEE 754-2019 `minimum`: NaN wins, −0 is below +0 (R69). -/
def min32 (a b : Word) : Word × Flags :=
  let x := fp32 a
  let y := fp32 b
  if x.isNan || y.isNan then (nan32, flNanIn)
  else if x.lt y then (a, 0) else if y.lt x then (b, 0) else (a ||| b, 0)

/-- IEEE 754-2019 `maximum`: NaN wins, +0 is above −0 (R69). -/
def max32 (a b : Word) : Word × Flags :=
  let x := fp32 a
  let y := fp32 b
  if x.isNan || y.isNan then (nan32, flNanIn)
  else if x.lt y then (b, 0) else if y.lt x then (a, 0) else (a &&& b, 0)

/-- 1.0 where a < b, otherwise +0; false on a NaN (Table 4.9). -/
def clt32 (a b : Word) : Word × Flags :=
  (if (fp32 a).lt (fp32 b) then one32 else 0, opFlags [fp32 a, fp32 b] (.fin false 0 0) false)

/-- 1.0 where a = b, otherwise +0; false on a NaN (Table 4.9). -/
def ceq32 (a b : Word) : Word × Flags :=
  (if (fp32 a).eq (fp32 b) then one32 else 0, opFlags [fp32 a, fp32 b] (.fin false 0 0) false)

/-- A NaN as the canonical NaN, every other word unchanged (R73, Table 2.10). -/
def canon32 (a : Word) : Word := if (fp32 a).isNan then nan32 else a

/-- a where c is nonzero and not a NaN, otherwise b (Table 4.9). -/
def sel32 (a b c : Word) : Word × Flags :=
  let z := fp32 c
  (canon32 (if !z.isNan && !z.isZero then a else b),
    opFlags [fp32 a, fp32 b, z] (.fin false 0 0) false)

/-- A copy of an element (Table 4.9). DEDUCED: a NaN is written as the canonical NaN (log 5). -/
def mov32 (a : Word) : Word × Flags := (canon32 a, opFlags [fp32 a] (.fin false 0 0) false)

/-! ## The cell -/

/-- An IEEE 754 addition into an accumulator with the exceptions of R60: the result, its flags, and whether the
result was flushed to zero. -/
def accAdd (acc s : Word) : Word × Flags × Bool :=
  match (fp32 acc).add (fp32 s) with
  | .nan =>
    (nan32, if (fp32 acc).isNan || (fp32 s).isNan then 0 else flInvalid, false)
  | .inf n => (BitVec.ofNat 32 (b2n n * 2 ^ 31 + 0x7F800000), 0, false)
  | .fin n m e =>
    if m = 0 then (BitVec.ofNat 32 (b2n n * 2 ^ 31), 0, false)
    else
      let u := e + (bitLen m : Int) - 24
      let q := (roundAt m e u none).1
      if u + (bitLen q : Int) - 1 < -126 then (BitVec.ofNat 32 (b2n n * 2 ^ 31), flFlush, true)
      else
        let r := toBin32 (.fin n m e)
        (r.1, if r.2 then flOverflow else 0, false)

/-- A binary32 value on entry to an accumulator from outside: subnormals flushed to a zero of their sign (counted as
a flush), every NaN made canonical (R61). -/
def accLoad (w : Word) : Word × Flags × Bool :=
  match fp32 w with
  | .nan => (nan32, 0, false)
  | .inf _ => (w, 0, false)
  | .fin n m _ =>
    if m ≠ 0 && bits w.toNat 30 23 = 0 then (BitVec.ofNat 32 (b2n n * 2 ^ 31), flFlush, true)
    else (w, 0, false)

/-- The special cases of a group sum, in order, over the pairs of operands (Table 2.4). -/
def specialCase (ps : List (Fp × Fp)) : Option (Word × Flags) :=
  if ps.any (fun p => p.1.isNan || p.2.isNan) then some (nan32, flNanIn)
  else
    let prods := ps.map (fun p => p.1.mul p.2)
    let pos := prods.any (fun p => p = .inf false)
    let neg := prods.any (fun p => p = .inf true)
    if prods.any Fp.isNan then some (nan32, flInvalid)
    else if pos && neg then some (nan32, flInvalid)
    else if pos then some (0x7F800000#32, 0)
    else if neg then some (negInf32, 0)
    else none

/-- The truncated sum of the nonzero products at weight 2^base (R57). -/
def windowSum (base : Int) (prods : List Fp) : Int :=
  prods.foldl (fun t p =>
    match p with
    | .fin s m e =>
      let v : Nat := if base ≤ e then m * 2 ^ (e - base).toNat else m / 2 ^ (base - e).toNat
      if s then t - (v : Int) else t + (v : Int)
    | _ => t) 0

/-- The weight of the leading bit of the largest nonzero product. -/
def leadMax (prods : List Fp) : Option Int :=
  prods.foldl (fun o p =>
    match p with
    | .fin _ m e =>
      if m = 0 then o
      else
        let l := e + (bitLen m : Int) - 1
        match o with
        | none => some l
        | some x => some (max x l)
    | _ => o) none

/-- The group sum S of a cell with a window of `win` bits (R57, R58, R62): the word, its flags, and whether it was
flushed to zero (only possible in FP32 mode). -/
def groupSum (win : Nat) (ps : List (Fp × Fp)) : Word × Flags × Bool :=
  match specialCase ps with
  | some (w, f) => (w, f, false)
  | none =>
    let prods := ps.map (fun p => p.1.mul p.2)
    match leadMax prods with
    | none => (0, 0, false)
    | some l =>
      let base := l - (win : Int)
      let t := windowSum base prods
      if t = 0 then (0, 0, false)
      else
        let n : Bool := t < 0
        let m := t.natAbs
        let u := base + (bitLen m : Int) - 24
        let q := (roundAt m base u none).1
        if u + (bitLen q : Int) - 1 < -126 then (BitVec.ofNat 32 (b2n n * 2 ^ 31), flFlush, true)
        else
          let r := toBin32 (.fin n m base)
          (r.1, if r.2 then flOverflow else 0, false)

/-! ## Storage decode -/

/-- A storage element of eight or sixteen bits decoded to binary16 (R49 to R51), with its flags. Formats are the
codes of Table 4.2: 0 binary16, 1 E4M3, 2 E5M2, 3 INT8. -/
def decode16 (fmt n : Nat) : Half × Flags :=
  let v : Fp := match fmt with
    | 0 => fpDecode 5 10 n
    | 1 => fpE4M3 n
    | 2 => fpDecode 5 2 n
    | _ => fpInt 8 n
  if v.isNan then (nan16, flDecNan)
  else if fmt = 0 then (BitVec.ofNat 16 n, 0)
  else if fmt = 2 then (BitVec.ofNat 16 (n * 256), 0)
  else ((toBin16 v).1, 0)

/-- A scaled four-bit element decoded to binary16: element × scale, rounded once (R54, R55). `fmt` is 4 for INT4 and
5 for FP4 E2M1. A finite product that rounds to an infinity sets `OVERFLOW` (Table 2.9); an infinite scale times a zero sets
`DEC_NAN` alone, and a NaN scale sets no `NAN_IN` (log 90). -/
def decodeScaled (fmt n : Nat) (scale : Half) : Half × Flags :=
  let v : Fp := if fmt = 4 then fpInt 4 n else fpE2M1 n
  let p := v.mul (fp16 scale)
  if p.isNan then (nan16, flDecNan)
  else
    let r := toBin16 p
    (r.1, (if r.2.1 then flDecRound else 0) ||| (if r.2.2 then flOverflow else 0))

/-! ## Conversion (R63 to R65) -/

/-- Conversion of a binary32 word to the narrow format `fmt` (codes of Table 4.2), rounding to nearest even or with a
16-bit draw, with its flags (Table 2.5). A NaN into an integer or FP4 sets `NAN_IN` and `SATURATED` (log 75). -/
def convert (fmt : Nat) (sat : Bool) (draw : Option Nat) (w : Word) : Nat × Flags :=
  let float (f : RFmt) (sb inf nan satInf : Nat) (clampAlways : Bool) (hasInf : Bool) : Nat × Flags :=
    match fp32 w with
    | .nan => (nan, if clampAlways then flNanIn ||| flSaturated else flNanIn)
    | .inf s =>
      if clampAlways then (b2n s * sb + f.maxBits, flSaturated)
      else if hasInf then (b2n s * sb + inf, 0)
      else if sat then (b2n s * sb + satInf, flSaturated) else (inf, 0)
    | .fin s m e =>
      let r := (roundMag f m e draw).1
      if r > f.maxBits then
        if clampAlways || sat then (b2n s * sb + f.maxBits, flSaturated)
        else if hasInf then (b2n s * sb + inf, flOverflow) else (inf, flOverflow)
      else (b2n s * sb + r, 0)
  let int (w' : Nat) : Nat × Flags :=
    let hi : Int := (2 ^ (w' - 1) : Nat) - 1
    let lo : Int := -(2 ^ (w' - 1) : Nat)
    match fp32 w with
    | .nan => (0, flNanIn ||| flSaturated)
    | .inf s => (wrapInt w' (if s then lo else hi), flSaturated)
    | .fin s m e =>
      let q := (roundAt m e 0 draw).1
      let i : Int := if s then -(q : Int) else (q : Int)
      if i > hi then (wrapInt w' hi, flSaturated)
      else if i < lo then (wrapInt w' lo, flSaturated)
      else (wrapInt w' i, 0)
  match fmt with
  | 0 => float rBin16 0x8000 0x7C00 0x7E00 0 false true
  | 1 => float rE4M3 0x80 0x7F 0x7F 0x7E false false
  | 2 => float rE5M2 0x80 0x7C 0x7E 0 false true
  | 3 => int 8
  | 4 => int 4
  | _ => float rE2M1 8 0 0 0 true false

/-- A packed narrow value as binary32, exactly, with `DEC_NAN` for a NaN (R121). -/
def extend32 (fmt n : Nat) : Word × Flags :=
  let v : Fp := match fmt with
    | 0 => fpDecode 5 10 n
    | 1 => fpE4M3 n
    | 2 => fpDecode 5 2 n
    | 3 => fpInt 8 n
    | 4 => fpInt 4 n
    | _ => fpE2M1 n
  ((toBin32 v).1, if v.isNan then flDecNan else 0)

/-- The bits of one packed value of a narrow format. -/
def packBits (fmt : Nat) : Nat := if fmt = 0 then 16 else if fmt ≤ 3 then 8 else 4

/-! ## Philox 4×32-10 (R66, R67) -/

/-- One round of Philox 4×32-10. -/
def philoxRound (c : Word × Word × Word × Word) (k : Word × Word) : Word × Word × Word × Word :=
  let p0 := 0xD2511F53 * c.1.toNat
  let p1 := 0xCD9E8D57 * c.2.2.1.toNat
  (BitVec.ofNat 32 (p1 / 2 ^ 32) ^^^ c.2.1 ^^^ k.1, BitVec.ofNat 32 p1,
    BitVec.ofNat 32 (p0 / 2 ^ 32) ^^^ c.2.2.2 ^^^ k.2, BitVec.ofNat 32 p0)

/-- `n` rounds of Philox with the published key increments. -/
def philoxRounds : Nat → Word × Word × Word × Word → Word × Word → Word × Word × Word × Word
  | 0, c, _ => c
  | n + 1, c, k => philoxRounds n (philoxRound c k) (k.1 + 0x9E3779B9#32, k.2 + 0xBB67AE85#32)

/-- Philox 4×32-10 (R66). -/
def philox (c0 c1 c2 c3 k0 k1 : Word) : Word × Word × Word × Word := philoxRounds 10 (c0, c1, c2, c3) (k0, k1)

/-- Draw i, 0 to 7, of one call: bits [16i + 15:16i] of the 128-bit output (R67). -/
def philoxDraw (o : Word × Word × Word × Word) (i : Nat) : Nat :=
  let w := match i / 2 with
    | 0 => o.1
    | 1 => o.2.1
    | 2 => o.2.2.1
    | _ => o.2.2.2
  bits w.toNat (16 * (i % 2) + 15) (16 * (i % 2))

/-! ## Special functions (R70) -/

/-- A word with a subnormal taken as a zero of its sign (R70). -/
def flushIn (w : Word) : Word := if bits w.toNat 30 23 = 0 then w &&& 0x80000000#32 else w

/-- A result of magnitude below 2^-126 returned as a zero of its sign (R70). -/
def flushOut (w : Word) : Word := if bits w.toNat 30 23 = 0 then w &&& 0x80000000#32 else w

/-- An approximation ±n × 2^e of an exact result, whose relative error is below 2^-50. -/
structure Near where
  /-- sign -/
  neg : Bool
  /-- significand -/
  n : Nat
  /-- weight -/
  e : Int

/-- The correctly rounded result: nearest, ties to even (R70). -/
def Near.round (a : Near) : Word := (toBin32 (.fin a.neg a.n a.e)).1

/-- log2 of the unit in the last place of a binary32 word (R70). -/
def ulpLog (w : Word) : Int := ((max (bits w.toNat 30 23) 1 : Nat) : Int) - 150

/-- ±m × 2^e as an integer at weight 2^b, rounded down. -/
def fxAt (neg : Bool) (m : Nat) (e b : Int) : Int :=
  let v : Int := if b ≤ e then ((m * 2 ^ (e - b).toNat : Nat) : Int) else ((m / 2 ^ (b - e).toNat : Nat) : Int)
  if neg then -v else v

/-- A finite word lies within k × 2^u of the approximated result, both taken exactly at the least of their weights. An
approximation stands on the side of its exact value, which is that value where it is a binary32 number (R70). -/
def Near.admits (a : Near) (k : Nat) (u : Int) (w : Word) : Bool :=
  match fp32 w with
  | .fin s m e =>
    let b := min (min e a.e) u
    (fxAt s m e b - fxAt a.neg a.n a.e b).natAbs ≤ k * 2 ^ (u - b).toNat
  | _ => false

/-- The value of a lane that the bound allows: the part's own where it lies within k ulp of the exact result, as every part's
does, else the correctly rounded one (R70, log 4). -/
def Near.within (a : Near) (k : Nat) (own : Word) : Word :=
  if a.admits k (ulpLog a.round) own then own else a.round

/-- ln 2 in 2^-128. -/
def ln2fx : Nat := 0xB17217F7D1CF79ABC9E3B39803F2F6AF
/-- π / 2 in 2^-128. -/
def halfPiFx : Nat := 0x1921FB54442D18469898CC51701B839A2

/-- The sum of the first terms of a power series in fixed point: each term is the one before times `x` / 2^128 and `num k` / `den k`. -/
def seriesFx (x : Nat) (num den : Nat → Nat) : Nat → Nat → Nat → Nat
  | 0, _, _ => 0
  | j + 1, k, t => t + seriesFx x num den j (k + 1) (t * x / 2 ^ 128 * num k / den k)

/-- 2^f for a fraction f, both in 2^-128. -/
def exp2Frac (f : Nat) : Nat := seriesFx (f * ln2fx / 2 ^ 128) (fun _ => 1) (fun k => k + 1) 32 0 (2 ^ 128)

/-- 2^x for x in 2^-128. -/
def exp2Near (x : Int) : Near := { neg := false, n := exp2Frac (x % (2 ^ 128 : Nat)).toNat, e := x / (2 ^ 128 : Nat) - 128 }

/-- exp(−x) for x ≥ 0 in 2^-128. -/
def expNeg (x : Nat) : Near := exp2Near (-((x * 2 ^ 128 / ln2fx : Nat) : Int))

/-- ln y for y = 1 + a / b in [1, 2), in 2^-128: twice the inverse hyperbolic tangent of a / (2b + a). -/
def lnFx (a b : Nat) : Nat :=
  let z := a * 2 ^ 128 / (2 * b + a)
  2 * seriesFx (z * z / 2 ^ 128) (fun k => 2 * k + 1) (fun k => 2 * k + 3) 44 0 z

/-- log2 of a positive m × 2^e. -/
def log2Near (m : Nat) (e : Int) : Near :=
  let l := Nat.log2 m
  let r : Int := (e + l) * (2 ^ 128 : Nat) + ((lnFx (m - 2 ^ l) (2 ^ l) * 2 ^ 128 / ln2fx : Nat) : Int)
  { neg := r < 0, n := r.natAbs, e := -128 }

/-- The reciprocal of m × 2^e. -/
def rcpNear (s : Bool) (m : Nat) (e : Int) : Near :=
  let k := bitLen m + 128
  { neg := s, n := 2 ^ k / m, e := -e - k }

/-- The reciprocal square root of m × 2^e: that of an even power of two apart. -/
def rsqrtNear (m : Nat) (e : Int) : Near :=
  let odd : Bool := e % 2 ≠ 0
  let m' := if odd then 2 * m else m
  let k := bitLen m' + 96
  { neg := false, n := Nat.sqrt (2 ^ (2 * k) / m'), e := -((if odd then e - 1 else e) / 2) - k }

/-- tanh of ±x, x = m × 2^e: x − x³ / 3 + 2x⁵ / 15 below 2^-12, (1 − t) / (1 + t) with t = exp(−2x) above; always below x
and below 1. -/
def tanhNear (s : Bool) (m : Nat) (e : Int) : Near :=
  let x := (fxAt false m e (-128)).toNat
  if 64 * 2 ^ 128 ≤ x then { neg := s, n := 2 ^ 128 - 1, e := -128 }
  else if x < 2 ^ 116 then
    let x2 := x * x / 2 ^ 128
    { neg := s, n := m * (2 ^ 128 - (x2 / 3 + 1) + 2 * (x2 * x2 / 2 ^ 128) / 15), e := e - 128 }
  else
    let t := (fxAt false (expNeg (2 * x)).n (expNeg (2 * x)).e (-128)).toNat
    { neg := s, n := (2 ^ 128 - t) * 2 ^ 128 / (2 ^ 128 + t), e := -128 }

/-- The sigmoid of ±x, x = m × 2^e, with t = exp(−x): 1 / (1 + t), or t / (1 + t) of a negative input. -/
def sigmoidNear (s : Bool) (m : Nat) (e : Int) : Near :=
  let x := (fxAt false m e (-128)).toNat
  if 200 * 2 ^ 128 ≤ x then (if s then { neg := false, n := 0, e := 0 } else { neg := false, n := 2 ^ 200 - 1, e := -200 })
  else
    let a := expNeg x
    let d := 2 ^ 128 + (fxAt false a.n a.e (-128)).toNat
    if s then { neg := false, n := a.n * 2 ^ 128 / d, e := a.e } else { neg := false, n := 2 ^ 256 / d, e := -128 }

/-- sin of r quarter turns in 2^-30, r ≤ 2^30. -/
def sinQuarter (r : Nat) : Nat :=
  let x := r * halfPiFx / 2 ^ 30
  let x2 := x * x / 2 ^ 128
  let even := seriesFx (x2 * x2 / 2 ^ 128) (fun _ => 1) (fun k => (4 * k + 2) * (4 * k + 3) * (4 * k + 4) * (4 * k + 5)) 9 0 x
  let odd := seriesFx (x2 * x2 / 2 ^ 128) (fun _ => 1) (fun k => (4 * k + 4) * (4 * k + 5) * (4 * k + 6) * (4 * k + 7)) 9 0 (x * x2 / 2 ^ 128 / 6)
  even - odd

/-- sin of a phase in 2^-32 turns (R109). -/
def sinNear (phi : Nat) : Near :=
  let q := phi / 2 ^ 30 % 4
  let r := phi % 2 ^ 30
  { neg := 2 ≤ q, n := sinQuarter (if q % 2 = 0 then r else 2 ^ 30 - r), e := -128 }

/-- exp2 with its special values (Table 2.7). -/
def exp2fn (w : Word) : Word × Flags :=
  let x := flushIn w
  match fp32 x with
  | .nan => (nan32, flNanIn)
  | .inf s => (if s then 0 else 0x7F800000#32, 0)
  | .fin s m e =>
    -- 2^x overflows exactly when x ≥ 128
    if !s && !(Fp.lt (.fin false m e) (.fin false 128 0)) then (0x7F800000#32, flOverflow)
    else
      -- below 2^-150 the result is +0 whatever the bound allows
      let r := if s && !(Fp.lt (.fin false m e) (.fin false 150 0)) then 0
        else flushOut ((exp2Near (fxAt s m e (-128))).within 1 (Config.exp2Lane x))
      (r, if r = 0x7F800000#32 then flOverflow else 0)

/-- log2 with its special values; the infinity of a zero is one that a finite computation produced (Tables 2.7, 2.9). -/
def log2fn (w : Word) : Word × Flags :=
  let x := flushIn w
  match fp32 x with
  | .nan => (nan32, flNanIn)
  | .inf s => if s then (nan32, flInvalid) else (0x7F800000#32, 0)
  | .fin s m e =>
    if m = 0 then (negInf32, flOverflow)
    else if s then (nan32, flInvalid)
    else if x = one32 then (0, 0)
    else
      let a := log2Near m e
      -- 1 ulp outside [0.5, 2], 2^-22 inside
      let own := Config.log2Lane x
      if bits x.toNat 30 23 = 126 || bits x.toNat 30 23 = 127 || x = 0x40000000#32 then
        (flushOut (if a.admits 1 (-22) own then own else a.round), 0)
      else (flushOut (a.within 1 own), 0)

/-- The reciprocal with its special values; the infinity of a zero is one that a finite computation produced (Tables 2.7, 2.9). -/
def rcpfn (w : Word) : Word × Flags :=
  let x := flushIn w
  match fp32 x with
  | .nan => (nan32, flNanIn)
  | .inf s => (BitVec.ofNat 32 (b2n s * 2 ^ 31), 0)
  | .fin s m e =>
    if m = 0 then (BitVec.ofNat 32 (b2n s * 2 ^ 31 + 0x7F800000), flOverflow)
    else (flushOut ((rcpNear s m e).within 1 (Config.rcpLane x)), 0)

/-- The reciprocal square root with its special values; the infinity of a zero is one that a finite computation produced (Tables 2.7, 2.9). -/
def rsqrtfn (w : Word) : Word × Flags :=
  let x := flushIn w
  match fp32 x with
  | .nan => (nan32, flNanIn)
  | .inf s => if s then (nan32, flInvalid) else (0, 0)
  | .fin s m e =>
    if m = 0 then (BitVec.ofNat 32 (b2n s * 2 ^ 31 + 0x7F800000), flOverflow)
    else if s then (nan32, flInvalid)
    else ((rsqrtNear m e).within 1 (Config.rsqrtLane x), 0)

/-- tanh with its special values (Table 2.7). -/
def tanhfn (w : Word) : Word × Flags :=
  let x := flushIn w
  match fp32 x with
  | .nan => (nan32, flNanIn)
  | .inf s => (BitVec.ofNat 32 (b2n s * 2 ^ 31 + 0x3F800000), 0)
  | .fin s m e => if m = 0 then (x, 0) else (flushOut ((tanhNear s m e).within 2 (Config.tanhLane x)), 0)

/-- The sigmoid with its special values (Table 2.7). -/
def sigmoidfn (w : Word) : Word × Flags :=
  let x := flushIn w
  match fp32 x with
  | .nan => (nan32, flNanIn)
  | .inf s => (if s then 0 else one32, 0)
  | .fin s m e => if m = 0 then (0x3F000000#32, 0) else (flushOut ((sigmoidNear s m e).within 2 (Config.sigmoidLane x)), 0)

/-- cos of a phase, within 1 ulp, exactly 1.0 at phase 0 (R109). -/
def cosTurn (phi : Word) : Word :=
  if phi = 0 then one32 else (sinNear (phi.toNat + 2 ^ 30)).within 1 (Config.cosTurn phi)
/-- sin of a phase, within 1 ulp, exactly +0 at phase 0 (R109). -/
def sinTurn (phi : Word) : Word := if phi = 0 then 0 else (sinNear phi.toNat).within 1 (Config.sinTurn phi)

/-! ## Pairwise trees (R122) -/

/-- One level of the pairwise order: neighbours combined, an odd last element unchanged. -/
def treeLevel {α : Type} (op : α → α → α) : List α → List α
  | a :: b :: t => op a b :: treeLevel op t
  | l => l

/-- The pairwise order of R122, with `fuel` levels. -/
def treeFold {α : Type} (op : α → α → α) (d : α) : Nat → List α → α
  | _, [] => d
  | _, [a] => a
  | 0, a :: _ => a
  | n + 1, l => treeFold op d n (treeLevel op l)

/-- An operation on words with their flags gathered. A NaN that arises inside a tree counts as an input of the next level
(log 89). -/
def liftOp (f : Word → Word → Word × Flags) (a b : Word × Flags) : Word × Flags :=
  let r := f a.1 b.1
  (r.1, a.2 ||| b.2 ||| r.2)

/-- Sum or maximum of a list of words in the order of R122 (at most 4,096 elements: 12 levels). -/
def tree32 (f : Word → Word → Word × Flags) (xs : List Word) : Word × Flags :=
  treeFold (liftOp f) (0, 0) 13 (xs.map (fun x => (x, 0)))

end Sys2Proof.Machine
end

