-- ==== Sys2Proof/Machine/Tbl.lean ====
section
/-! DEFINITION. Sparse tables: lists of key and value pairs, keys strictly rising, no entry equal to the default
that an unlisted key reads as. Equal tables are equal lists. -/

namespace Sys2Proof.Machine

/-- A sparse table keyed by natural numbers. -/
abbrev Tbl (α : Type) := List (Nat × α)

/-- The value at key `k`, `d` where the key is unlisted. -/
def Tbl.get {α : Type} (d : α) : Tbl α → Nat → α
  | [], _ => d
  | (a, v) :: t, k => if a = k then v else Tbl.get d t k

/-- Put an entry in its place among rising keys, in front of an equal key. -/
def Tbl.insert {α : Type} (k : Nat) (v : α) : Tbl α → Tbl α
  | [] => [(k, v)]
  | (a, w) :: t => if k ≤ a then (k, v) :: (a, w) :: t else (a, w) :: Tbl.insert k v t

/-- Remove every entry at key `k`. -/
def Tbl.erase {α : Type} (t : Tbl α) (k : Nat) : Tbl α :=
  t.filter (fun e => e.1 != k)

/-- Write `v` at key `k`; writing the default removes the entry. -/
def Tbl.set {α : Type} [DecidableEq α] (d : α) (t : Tbl α) (k : Nat) (v : α) : Tbl α :=
  if v = d then Tbl.erase t k else Tbl.insert k v (Tbl.erase t k)

/-- Change the value at key `k` by a function. -/
def Tbl.modify {α : Type} [DecidableEq α] (d : α) (t : Tbl α) (k : Nat) (f : α → α) : Tbl α :=
  Tbl.set d t k (f (Tbl.get d t k))

/-- Write a list of values at `k`, `k + 1`, … -/
def Tbl.setMany {α : Type} [DecidableEq α] (d : α) : Tbl α → Nat → List α → Tbl α
  | t, _, [] => t
  | t, k, v :: vs => Tbl.setMany d (Tbl.set d t k v) (k + 1) vs

/-- Replace everything at keys in [lo, hi) by a segment of rising keys in that range. -/
def Tbl.splice {α : Type} (t : Tbl α) (lo hi : Nat) (seg : Tbl α) : Tbl α :=
  t.filter (fun e => e.1 < lo) ++ seg ++ t.filter (fun e => hi ≤ e.1)

/-- The entries at keys in [lo, hi). -/
def Tbl.slice {α : Type} (t : Tbl α) (lo hi : Nat) : Tbl α := t.filter (fun e => lo ≤ e.1 && e.1 < hi)

/-- The canonical form: keys strictly rising and no entry equal to the default. -/
def Tbl.wf {α : Type} [DecidableEq α] (d : α) : Tbl α → Bool
  | [] => true
  | (k, v) :: t => (v ≠ d) && t.all (fun e => k < e.1) && Tbl.wf d t

end Sys2Proof.Machine
end

