-- ==== Sys2Proof/Machine/State.lean ====
section
/-! DEFINITION. The state of the part as plain data, and the part right after reset. -/

namespace Sys2Proof.Machine

/-! ## Bring-up ("Bring-up, sparing and reset") -/

/-- Where bring-up stands, the rails and clocks it depends on, and the boot block (Tables 13.3, 16.12, 16.13). -/
structure Boot where
  /-- `READY` -/
  ready : Bool
  /-- `FATAL` -/
  fatal : Bool
  /-- `PHASE` -/
  phase : Nat
  /-- `FAIL` -/
  fail : Nat
  /-- VIN_AUX is in its range -/
  vinAux : Bool
  /-- `PCIE_PERST_N` is asserted -/
  perst : Bool
  /-- all four main rails are in their DC bands -/
  rails : Bool
  /-- they have been since VIN_AUX entered its range or since the last restart (R513) -/
  railsSeen : Bool
  /-- a main rail was lost and the part has not restarted (R513) -/
  railLost : Bool
  /-- `REFCLK_SYS` was lost and the part has not restarted (R516) -/
  clockLost : Bool
  /-- the Kiosk runs from its internal oscillator for want of `AUX_CLK` (R516) -/
  auxLost : Bool
  /-- the reference clocks of the Cuffs: north edge -/
  cuffNorth : Bool
  /-- the reference clocks of the Cuffs: south edge -/
  cuffSouth : Bool
  /-- the Kiosk runs, in its boot ROM or in Torzan (R394) -/
  kiosk : Bool
  /-- the Kiosk self-test has failed, or its watchdog has expired -/
  kioskFail : Bool
  /-- `RST_CAUSE` -/
  cause : Nat
  /-- `MODE`: warm -/
  warm : Bool
  /-- a copy of the boot record passed its CRC (R474) -/
  recordRead : Bool
  /-- `RECORD_OK` -/
  recordOk : Bool
  /-- `FALLBACK_SITES` -/
  fallback : Nat
  /-- banks that run: Torzan, core firmware, Orangery firmware; `true` for B -/
  banks : Tbl Bool
  /-- `VERIFIED` -/
  verified : Bool
  /-- `BOOT_SEQ` -/
  seq : Word
  /-- `BOOT_MS` of steps 1 to 12 -/
  ms : Tbl Nat
  /-- tick at which the present step began -/
  since : Nat
  /-- `TEST_FAULTS`[15:0] -/
  faults : Nat
  /-- `TEST_FAULTS`[31:16] -/
  spares : Nat
  /-- sites that failed the core test -/
  coreFails : List Nat
  /-- `RST_PARTIAL` -/
  partials : Word
  /-- `RST_DISCARD` -/
  discard : Word
  /-- `RST_ABSORB` -/
  absorb : Word
  /-- `RST_GATE_CLR` -/
  gateClr : Word
  /-- `REMAPS` -/
  remaps : Word
  /-- `RST_DESC_DISC` -/
  descDisc : Word
  /-- `COLD_NEXT`, in the VIN_AUX domain -/
  coldNext : Bool
  /-- the fuse map as loaded (R459) -/
  fuse : Option FuseMap
  /-- `COPY` -/
  fuseCopy : Bool
  /-- `OTHER_BAD` -/
  fuseBad : Bool
  /-- the soft repair map accepted for this boot (R467) -/
  soft : Option (List Repair)
  /-- the test fault list of this boot (R466) -/
  tests : List Repair
  /-- repairs applied at this boot (R217, R467) -/
  repairs : List Repair
  /-- ticks between VIN_AUX entering its range and the last whole-part reset (log 6) -/
  epoch : Nat
  /-- time in µs since VIN_AUX of the last watchdog expiry, plus one (R470) -/
  lastDog : Nat
  /-- a second expiry within one hour stops the next bring-up at step 2 (R470) -/
  dogFatal : Bool
  /-- time in µs at which the completion of a scope-3 `RESET` was posted (R390) -/
  scope3 : Option Nat
  deriving DecidableEq, Repr

/-- VIN_AUX has just entered its range: before the first step of bring-up. -/
def Boot.init : Boot :=
  { ready := false, fatal := false, phase := 0, fail := 0, vinAux := true, perst := true, rails := false, railsSeen := false,
    railLost := false, clockLost := false, auxLost := false, cuffNorth := false, cuffSouth := false, kiosk := false,
    kioskFail := false, cause := 0, warm := false, recordRead := false, recordOk := false, fallback := 0, banks := [],
    verified := false, seq := 0, ms := [], since := 0, faults := 0, spares := 0, coreFails := [], partials := 0, discard := 0,
    absorb := 0, gateClr := 0, remaps := 0, descDisc := 0, coldNext := false, fuse := none, fuseCopy := false, fuseBad := false, soft := none, tests := [],
    repairs := [], epoch := 0, lastDog := 0, dogFatal := false, scope3 := none }

/-- The boot record (Table 16.5). -/
structure BootRecord where
  /-- `SERIAL` -/
  serial : Dword
  /-- `SEQ` -/
  seq : Word
  /-- `LAST_COLD` -/
  lastCold : Word
  /-- `FUSE_CRC` -/
  fuseCrc : Word
  /-- test fault list -/
  tests : List Repair
  /-- seam codes: Seam × 220 + position to [5:0] code, [6] failed -/
  seams : Tbl Nat
  deriving DecidableEq, Repr

/-- The quantities of the wear monitors at one writing of the health record (R493). -/
structure LifePoint where
  /-- powered time of the part, µs -/
  powered : Nat
  /-- calendar time of the part, µs -/
  calendar : Nat
  /-- stress-equivalent time, µs: site 0 to 879, plot 880 + site, Orangery die 1760 + 16 × stack + die -/
  stress : Tbl Rat
  /-- spare rows taken: site × 32 + bank, Orangery bank 28160 + 1024 × stack + bank -/
  spares : Tbl Nat
  /-- `EFF_DROP` by site -/
  eff : Tbl Nat
  /-- `R_RATIO` by Seam -/
  ratio : Tbl Nat
  deriving DecidableEq, Repr

/-- The history of a part without any. -/
def LifePoint.init : LifePoint := { powered := 0, calendar := 0, stress := [], spares := [], eff := [], ratio := [] }

/-- The health record (R493). -/
structure HealthRecord where
  /-- serial number -/
  serial : Dword
  /-- `AGE_GB` by site -/
  ageGb : Tbl Nat
  /-- powered time recorded, in hours -/
  hours : Nat
  /-- one point per writing, newest last, over the longest window of R496 -/
  points : List LifePoint
  /-- drift history by site: stress-equivalent µs and drift in ppm, one point per 30 days of powered time, newest last -/
  drifts : Tbl (List (Rat × Rat))
  /-- the last life estimate: `HLT_LIFE` and `HLT_LIMIT` -/
  life : Word × Word
  deriving DecidableEq, Repr

/-- The two banks of a firmware component (R393, R458). -/
structure FwComp where
  /-- version in bank A -/
  a : Option Word
  /-- version in bank B -/
  b : Option Word
  /-- bank B holds the newer image -/
  bNewer : Bool
  /-- a verified bank waits for activation -/
  staged : Bool
  /-- bytes of an image being transferred -/
  image : Tbl Byte
  deriving DecidableEq, Repr

/-- A component with an image in bank A alone (log 21). -/
def FwComp.init : FwComp := { a := some 0, b := none, bNewer := false, staged := false, image := [] }

/-- What the Kiosk's flash keeps (Table 16.10). -/
structure Flash where
  /-- boot record -/
  boot : Option BootRecord
  /-- stored soft repair map -/
  soft : Option (List Repair)
  /-- health record -/
  health : Option HealthRecord
  /-- firmware components 1 to 3 by number -/
  fw : Tbl FwComp
  deriving DecidableEq, Repr

/-- Flash without any record. -/
def Flash.init : Flash := { boot := none, soft := none, health := none, fw := [] }

/-- How far a partial reset has come (Table 16.8). -/
inductive ResetStage where
  /-- halting the jobs it covers -/
  | halting
  /-- tearing them down -/
  | teardown
  /-- draining from r0 on, the NIs absorbing -/
  | draining
  deriving DecidableEq, Repr

/-- A partial reset in progress (R477, R479). -/
structure ResetRun where
  /-- its command -/
  q : Nat
  /-- the command's number -/
  id : Nat
  /-- scope -/
  scope : Nat
  /-- named core, cluster or node -/
  target : Nat
  /-- the cores reset -/
  cores : List Nat
  /-- stage -/
  stage : ResetStage
  /-- it halted a job -/
  halted : Bool
  /-- time in ticks at which the Kiosk took it -/
  since : Nat
  /-- time in ticks of r0 -/
  r0 : Nat
  deriving DecidableEq, Repr

/-! ## Health ("Health, counters and end-of-life prediction") -/

/-- Wear of a site (Table 17.8). -/
structure SiteHealth where
  /-- last five drift measurements, ppm, newest last -/
  drifts : List Rat
  /-- `EFF_DROP`, 0.1 percentage points -/
  eff : Nat
  /-- rises of `AGE_GB` with their times in µs of powered time -/
  rises : List (Nat × Nat)
  /-- `LIFE` -/
  life : Nat
  /-- `BOUND` -/
  bound : Nat
  deriving DecidableEq, Repr

/-- A site without measurements. -/
def SiteHealth.init : SiteHealth := { drifts := [], eff := 0, rises := [], life := 0, bound := 0 }

/-- The health block (Tables 17.5 to 17.7). -/
structure Health where
  /-- sites -/
  sites : Tbl SiteHealth
  /-- `RECORD_OK` -/
  recordOk : Bool
  /-- `FIRST_USE` -/
  firstUse : Bool
  /-- `MODEL_READY` -/
  modelReady : Bool
  /-- `LIFE_WARN` of `HLT_STATUS` -/
  lifeWarn : Bool
  /-- regions whose `FMAX_REGION` is to be lowered to a code: region to code + 1 (R492) -/
  lower : Tbl Nat
  /-- the point of the health record that this boot goes on from (R493, R495) -/
  base : LifePoint
  /-- when it was taken up, in µs since VIN_AUX entered its range -/
  baseAt : Nat
  /-- the last accrual of stress, in the same time -/
  accruedAt : Nat
  /-- stress-equivalent time so far, with the keys of `LifePoint.stress` (R495) -/
  stress : Tbl Rat
  /-- `HLT_LIFE` -/
  life : Word
  /-- `HLT_LIMIT` -/
  limit : Word
  /-- `HLT_DUTY` -/
  duty : Word
  /-- `LIFE_WARN` of `HLT_CTRL`, months -/
  warnMonths : Half
  /-- `SETS` -/
  sets : BitVec 10
  /-- `SNAP_ADDR` -/
  snapAddr : Dword
  /-- `DONE` -/
  snapDone : Bool
  /-- `DROPPED` -/
  snapDropped : Bool
  /-- `ERR` -/
  snapErr : Bool
  /-- the image being written, while `BUSY`: its host address, T in µs, and its bytes -/
  snap : Option (Nat × Nat × List Byte)
  /-- `SNAP_SEQ` -/
  snapSeq : Word
  /-- `SNAP_T` -/
  snapT : Dword
  deriving DecidableEq, Repr

/-- The health block after a whole-part reset. -/
def Health.init : Health :=
  { sites := [], recordOk := false, firstUse := false, modelReady := false, lifeWarn := false, lower := [], base := LifePoint.init, baseAt := 0,
    accruedAt := 0, stress := [], life := 0, limit := 0, duty := 0,
    warnMonths := 12, sets := 0x3FF, snapAddr := 0, snapDone := false, snapDropped := false, snapErr := false, snap := none,
    snapSeq := 0, snapT := 0 }

/-! ## The Kiosk, fuses and the window ("Management register reference") -/

/-- A copy of the owner area (R535). -/
inductive OwnerCopy where
  /-- no fuse programmed -/
  | blank
  /-- its CRC matches -/
  | valid (data : BitVec 256)
  /-- neither -/
  | spoiled
  deriving DecidableEq, Repr

/-- How far an owner-area programming has come (R535). -/
inductive FuseStep where
  /-- none in progress -/
  | idle
  /-- waits for the temperature window since a time in µs -/
  | waits (since : Nat)
  /-- programs a copy with the staged words -/
  | programs (copy : Nat) (data : BitVec 256)
  deriving DecidableEq, Repr

/-- Registers of the window that no other part of the state holds. -/
structure Mgmt where
  /-- `GLB_SCRATCH` -/
  scratch : Word
  /-- `LOCK_ALL` -/
  lockAll : Bool
  /-- upper words last latched: requester × 2^52 + unit × 2^32 + offset of the upper word (R526) -/
  latches : Tbl Word
  /-- `RST_LAST` -/
  rstLast : Word
  /-- `RST_LAST_US` -/
  rstLastUs : Nat
  /-- `FUSE_STAGE` words -/
  stage : Tbl Word
  /-- `FUSE_PROG_CTRL`.`LOCK` -/
  fuseLock : Bool
  /-- `FUSE_STATUS`.`ERR` -/
  fuseErr : Nat
  /-- programming in progress -/
  prog : FuseStep
  deriving DecidableEq, Repr

/-- The window after a whole-part reset. -/
def Mgmt.init : Mgmt :=
  { scratch := 0, lockAll := false, latches := [], rstLast := 0, rstLastUs := 0, stage := [], fuseLock := false, fuseErr := 0,
    prog := .idle }

/-! ## A logical core ("The outer-product array" to "Memory tiers, addressing and movers") -/

/-- An operand block with its mode tag: rows then columns of its delivered shape (R83, R104). FP16 values stand in the
low half of a word. -/
structure Block where
  /-- mode tag: true FP32 -/
  fp32 : Bool
  /-- elements in row-major order -/
  elems : List Word
  deriving DecidableEq, Repr

/-- A FEED operation that builds blocks (R104). -/
inductive FeedOp where
  /-- `FBLK` -/
  | blk (a : FBlkSlot)
  /-- `FGATH` -/
  | gath (a : FGathSlot)
  deriving DecidableEq, Repr

/-- A feeder-store request of a feeder (R100, R101). -/
structure FeedReq where
  /-- where its bytes stand in the stored block, or in the rotary descriptor; `none` for the gather list, read already -/
  place : Option (Bool × Nat)
  /-- offset in the feeder store -/
  ofs : Nat
  /-- length in bytes -/
  len : Nat
  /-- it has waited a cycle for a bank beside the block's other requests (R538) -/
  late : Bool
  deriving DecidableEq, Repr

/-- A block that is being read: the read cycles still to come, each with its requests, and the bytes so far (R111, R538). -/
structure BlockRead where
  /-- read cycles left -/
  left : List (List FeedReq)
  /-- stored bytes -/
  raw : List Byte
  /-- rotary descriptor -/
  desc : List Byte
  deriving DecidableEq, Repr

/-- A FEED instruction held by a feeder (R112). -/
structure FeedInstr where
  /-- the operation -/
  op : FeedOp
  /-- order of issue on the core -/
  seq : Nat
  /-- bundle store index -/
  bundle : Nat
  /-- first cycle in which its next block may be read -/
  start : Nat
  /-- number q of the next block -/
  q : Nat
  /-- the gather list, once read -/
  glist : List Byte
  /-- the block being read -/
  cur : Option BlockRead
  /-- cycle at whose end its last block enters the output stage, once all are read -/
  gone : Option Nat
  deriving DecidableEq, Repr

/-- A block in the pipeline or the output stage of a feeder (Table 4.4). -/
structure Staged where
  /-- the block -/
  block : Block
  /-- first cycle in which an array operation can take it -/
  ready : Nat
  /-- flags that its decoding raises -/
  flags : BitVec 7
  /-- cycle in which it is decoded -/
  decodeAt : Nat
  deriving DecidableEq, Repr

/-- One feeder: the blocks of its pipeline and output stage, head first, and its instructions, oldest first (R112). -/
structure Feeder where
  /-- blocks held, at most 8 -/
  held : List Staged
  /-- instructions held, at most 2 -/
  instrs : List FeedInstr
  deriving DecidableEq, Repr

/-- A `VLD` or `VST` whose beats are not over (R128). -/
structure StoreAcc where
  /-- `VLD` -/
  load : Bool
  /-- the VECTOR slot -/
  slot : VSlot
  /-- order of issue on the core -/
  seq : Nat
  /-- bundle store index -/
  bundle : Nat
  /-- beats done -/
  beat : Nat
  /-- bytes moved -/
  bytes : List Byte
  deriving DecidableEq, Repr

/-- Bytes of a `VST` on their way into the feeder store (Table 4.10). -/
structure StoreWrite where
  /-- order of issue on the core -/
  seq : Nat
  /-- offset in the feeder store -/
  ofs : Nat
  /-- the bytes -/
  bytes : List Byte
  /-- cycle by whose end they are written -/
  due : Nat
  deriving DecidableEq, Repr

/-- State of a tile-queue slot (Table 4.6). -/
inductive SlotState where
  /-- 0b00 -/
  | free
  /-- 0b01 -/
  | filling
  /-- 0b10 -/
  | full
  /-- 0b11 -/
  | draining
  deriving DecidableEq, Repr

/-- The code of a slot state (Table 4.6). -/
def SlotState.code : SlotState → Nat
  | .free => 0
  | .filling => 1
  | .full => 2
  | .draining => 3

/-- A line-port transfer that still holds the port: its tile, and the cycle from which port and tile are free (R90). -/
structure PortUse where
  /-- the busy tile -/
  tile : Nat
  /-- first free cycle -/
  till : Nat
  deriving DecidableEq, Repr

/-- A line-port load whose read cycles are not over (R92). -/
structure LoadUse where
  /-- vector register pair -/
  pair : Nat
  /-- tile loaded -/
  tile : Nat
  /-- lines are columns -/
  axis : Bool
  /-- groups moved -/
  groups : Nat
  /-- first cycle after the reads, which are its last `groups` cycles -/
  till : Nat
  deriving DecidableEq, Repr

/-- Who produced a gate increment (R142, R157). -/
inductive IncSrc where
  /-- a core of this part -/
  | core (lc : Nat)
  /-- a unit other than a core -/
  | unit
  /-- the transport or the collective engine (R365) -/
  | fabric
  deriving DecidableEq, Repr

/-- An open loop (R144). -/
structure Loop where
  /-- bundle store index of the body's first bundle -/
  first : Nat
  /-- bundle store index of the body's last bundle -/
  last : Nat
  /-- iterations still to start -/
  left : Nat
  /-- back edges taken since it opened -/
  taken : Nat
  deriving DecidableEq, Repr

/-- Tag of a frame of the bundle store (R145). -/
inductive FrameTag where
  /-- empty -/
  | empty
  /-- a load of the segment is running -/
  | loading (seg : Nat)
  /-- holds the segment -/
  | holds (seg : Nat)
  deriving DecidableEq, Repr

/-- A `GSEG` in flight: frame, segment, and the bundles read from the Canopy store (R145). -/
structure SegLoad where
  /-- target frame -/
  frame : Nat
  /-- segment identifier -/
  seg : Nat
  /-- Canopy offset of the segment -/
  ofs : Nat
  /-- length in bundles -/
  bundles : Nat
  /-- the segment's bytes as they stood at issue -/
  data : List Byte
  /-- the bundle that issued it (R212) -/
  bundle : Nat
  deriving DecidableEq, Repr

/-- A queued mover transfer with its captured descriptor (R181). -/
structure Xfer where
  /-- `MCLEAR` rather than `MCOPY` -/
  clear : Bool
  /-- the MOVE slot -/
  slot : MSlot
  /-- iteration index i of the loop term -/
  iter : Nat
  /-- the 64 descriptor bytes captured at issue -/
  desc : List Byte
  /-- order of issue on the core -/
  seq : Nat
  /-- bundle store index of the MOVE -/
  bundle : Nat
  /-- the source was read at the start -/
  taken : Bool
  /-- source bytes as read at the start -/
  data : List Byte
  /-- which of them came from bad units -/
  bad : List Bool
  /-- time in µs of its first request held by bank mode (R261) -/
  bankSince : Option Nat
  /-- its bytes stand in the destination; the last of its records may still wait at a full record queue (R267) -/
  posted : Bool
  deriving DecidableEq, Repr

/-- One mover: queued transfers in issue order, and the one in progress (R181). -/
structure Mover where
  /-- queued, not started -/
  queue : List Xfer
  /-- in progress -/
  active : Option Xfer
  deriving DecidableEq, Repr

/-- The numeric state of a core (Table 2.8). -/
structure NumState where
  /-- `SR_KEY_LO` -/
  keyLo : Word
  /-- `SR_KEY_HI` -/
  keyHi : Word
  /-- `SR_SALT` -/
  salt : Word
  /-- `SR_CTR` -/
  ctr : Dword
  /-- `NUM_FLAGS` -/
  flags : BitVec 7
  /-- `FLUSH_COUNT` -/
  flushCount : Word
  deriving DecidableEq, Repr

/-- The array of a core: tiles, line port, shaping and the array block (R78, R90, R93 to R99). -/
structure ArrayState where
  /-- accumulators: tile × 1024 + 32 × row + column -/
  tiles : Tbl Word
  /-- line port in use -/
  port : Option PortUse
  /-- load being read -/
  load : Option LoadUse
  /-- tile of the array operation already issued in the present bundle (R90) -/
  opTile : Option Nat
  /-- the present cycle is active (R93) -/
  active : Bool
  /-- `MODE`: ramp mode -/
  ramp : Bool
  /-- `FORCE_RAMP` -/
  forceRamp : Bool
  /-- `LEVEL` -/
  level : Nat
  /-- `RISING` -/
  rising : Bool
  /-- cycles since the last step of a rise -/
  riseCyc : Nat
  /-- consecutive non-active cycles n of R95 -/
  quiet : Nat
  /-- n restarts with the present cycle: an `ARAMP` at level 8 issues in it (R95) -/
  fresh : Bool
  /-- a fall of the level is due with the end of a fourth pause cycle (R97) -/
  fall : Bool
  /-- `ARRAY_FAULT` -/
  fault : Word
  /-- `ARR_ACT` -/
  act : Dword
  /-- `ARR_FILL` -/
  fill : Dword
  /-- `ARR_RWAIT` -/
  rwait : Dword
  /-- `ARR_CWAIT` -/
  cwait : Dword
  deriving DecidableEq, Repr

/-- Feeders, tile queue and vector engine of a core (R100 to R130). -/
structure FeedVec where
  /-- the A feeder -/
  fa : Feeder
  /-- the B feeder -/
  fb : Feeder
  /-- tile-queue slot states; unlisted `free` -/
  slots : Tbl SlotState
  /-- cycle in which a slot's FILLING or DRAINING ends (Table 4.6) -/
  slotDue : Tbl Nat
  /-- slot contents: slot × 1024 + element -/
  slotData : Tbl Word
  /-- vector registers: register × 512 + element -/
  vregs : Tbl Word
  /-- first cycle from which an element can be read: register × 512 + element (R128) -/
  vready : Tbl Nat
  /-- first cycle in which the next VECTOR instruction may issue (R128) -/
  vfree : Nat
  /-- beats of issued VECTOR instructions that have not been executed yet (R130) -/
  beatsLeft : Nat
  /-- the `VLD` or `VST` in progress -/
  acc : Option StoreAcc
  /-- stored bytes on their way -/
  stores : List StoreWrite
  /-- `FV_FAULT` -/
  fault : Word
  /-- `FEED_CONF` -/
  conf : Dword
  /-- `VEC_BEAT` -/
  beats : Dword
  /-- `FV_WAIT` -/
  wait : Dword
  deriving DecidableEq, Repr

/-- Sequencer, gates, frames and the contract block of a core (R139 to R159). -/
structure SeqState where
  /-- `NEXT` -/
  next : Nat
  /-- the current frame, within whose segment the next bundle lies (R145) -/
  frame : Nat
  /-- open loops, innermost first -/
  loops : List Loop
  /-- gate counters -/
  gates : Tbl (BitVec 24)
  /-- increments applied since the last examined cycle: gate and source (R157) -/
  recent : List (Nat × IncSrc)
  /-- frame tags; unlisted `empty` -/
  frames : Tbl FrameTag
  /-- bundle store: index to 512-bit bundle -/
  store : Tbl (BitVec 512)
  /-- `GSEG` loads in flight, at most 2 -/
  segLoads : List SegLoad
  /-- cycles for which issue is still held after a `GPAUSE` or a `GJUMP` (R145, R147) -/
  pauseLeft : Nat
  /-- cycles the next bundle has failed its gate condition; 0 once the condition holds -/
  gwaitLen : Nat
  /-- fabric cycles for which it has failed, those of pauses left out (R153) -/
  waitTicks : Nat
  /-- fabric cycle before which issue is held for the regulator after wait stage 2 (Table 5.18) -/
  wakeTill : Nat
  /-- cycles at wait stage 1 -/
  stage1Cyc : Nat
  /-- `WAIT_STAGE` 2 reached -/
  stage2 : Bool
  /-- `PAUSED` -/
  paused : Bool
  /-- cycles of the current pause frame still to pass paused -/
  dutyLeft : Nat
  /-- `ENDED` -/
  ended : Bool
  /-- issue stopped by a fault or a halt -/
  stopped : Bool
  /-- `FAULTED` -/
  faulted : Bool
  /-- started by a job load and not ended or stopped: it fetches bundles by itself -/
  running : Bool
  /-- cycle counter of the core (the model's own clock of the core) -/
  cycle : Nat
  /-- `CONTRACT_FAULT` -/
  fault : Word
  /-- `FAULT_AUX` -/
  aux : Word
  /-- `PACE_CYC` -/
  cyc : Dword
  /-- `PACE_ISSUE` -/
  issue : Dword
  /-- `PACE_GWAIT` -/
  gwait : Dword
  /-- `PACE_RWAIT` -/
  rwait : Dword
  /-- `PACE_PAUSE` -/
  pause : Dword
  /-- cycles spent in gate waits ended by a transport or collective completion (R365) -/
  xwait : Dword
  /-- `PACE_LAG` -/
  lag : Dword
  /-- phase hint of `GPHASE` in force: activity in fifteenths and delay (R146) -/
  phase : Option (Nat × Nat)
  /-- pre-boost that applies, in fifteenths of 1 mV (R411) -/
  preboost : Nat
  deriving DecidableEq, Repr

/-- Movers and the mover block of a core (R176 to R193). -/
structure MoveState where
  /-- the four movers; unlisted: empty -/
  movers : Tbl Mover
  /-- order number of the next transfer or feeder-store access issued -/
  seq : Nat
  /-- `MOVE_FAULT` -/
  fault : Word
  /-- `MFAULT_OFS`, 40 bits -/
  faultOfs : BitVec 40
  /-- `MOVE_DONE` -/
  done : Dword
  /-- `MOVE_BYTES` -/
  bytes : Dword
  /-- `MOVE_QWAIT` -/
  qwait : Dword
  /-- `MOVE_SWAIT` -/
  swait : Dword
  /-- `MOVE_HOLD` -/
  hold : Dword
  /-- `MOVE_DISC` -/
  disc : Word
  deriving DecidableEq, Repr

/-- A logical core. -/
structure Core where
  /-- numeric state -/
  num : NumState
  /-- the array -/
  arr : ArrayState
  /-- feeders, tile queue, vector engine -/
  fv : FeedVec
  /-- sequencer and gates -/
  seq : SeqState
  /-- movers -/
  mov : MoveState
  /-- error pattern (13 bits: D[7:0] then C[4:0]) of the bytes of the bundle store, the vector registers and the tile queue that are in
  error, by `bundleKey`, `vregKey` and `slotKey` (R194, R198) -/
  flaws : Tbl (BitVec 13)
  deriving DecidableEq, Repr

/-- A core after reset: accumulators, registers, gates and stores clear, `MODE` 1 (R78, R99, R115, R118). -/
def Core.init : Core where
  num :=
    { keyLo := 0, keyHi := 0, salt := 0, ctr := 0, flags := 0, flushCount := 0 }
  arr :=
    { tiles := [], port := none, load := none, opTile := none, active := false, ramp := true, forceRamp := false, level := 0, rising := false,
      riseCyc := 0, quiet := 0, fresh := false, fall := false, fault := 0, act := 0, fill := 0, rwait := 0, cwait := 0 }
  fv :=
    { fa := ⟨[], []⟩, fb := ⟨[], []⟩, slots := [], slotDue := [], slotData := [], vregs := [], vready := [], vfree := 0, beatsLeft := 0, acc := none,
      stores := [], fault := 0, conf := 0, beats := 0, wait := 0 }
  seq :=
    { next := 0, frame := 0, loops := [], gates := [], recent := [], frames := [], store := [], segLoads := [], pauseLeft := 0,
      gwaitLen := 0, waitTicks := 0, wakeTill := 0, stage1Cyc := 0, stage2 := false, paused := false, dutyLeft := 0, ended := false, stopped := false,
      faulted := false, running := false, cycle := 0, fault := 0, aux := 0, cyc := 0, issue := 0, gwait := 0, rwait := 0, pause := 0, xwait := 0,
      lag := 0, phase := none, preboost := 0 }
  mov :=
    { movers := [], seq := 0, fault := 0, faultOfs := 0, done := 0, bytes := 0, qwait := 0, swait := 0, hold := 0,
      disc := 0 }
  flaws := []

/-! ## Stored data ("Integrity of stored data") -/

/-- An open entry of a merge buffer (R201). -/
structure MergeEntry where
  /-- word address: DA of the aligned 32-byte word -/
  word : Nat
  /-- byte mask -/
  mask : BitVec 32
  /-- those of the masked bytes that came from poisoned or uncorrectable units (R210) -/
  bad : BitVec 32
  /-- a running job's write is in it: the core it is charged to (R203) -/
  lc : Option Nat
  deriving DecidableEq, Repr

/-- The error block of a site (Table 7.10). -/
structure ErrBlock where
  /-- `ERR_SUM` -/
  sum : BitVec 9
  /-- `CAN_CE_CNT` -/
  canCe : Word
  /-- `CAN_UE_CNT` -/
  canUe : Word
  /-- `FS_CE_CNT` -/
  fsCe : Word
  /-- `FS_UE_CNT` -/
  fsUe : Word
  /-- `PLOT_CE_CNT` -/
  plotCe : Word
  /-- `PLOT_UE_CNT` -/
  plotUe : Word
  /-- `POISON_CNT` -/
  poison : Word
  /-- `WB_CNT` -/
  wb : Word
  /-- `WB_CANCEL_CNT` -/
  wbCancel : Word
  /-- `RMW` -/
  rmw : Dword
  /-- `MERGE` -/
  merge : Dword
  /-- `ERR_DA` -/
  da : BitVec 56
  /-- `ERR_SYN` -/
  syn : Word
  deriving DecidableEq, Repr

/-- An error block after a whole-part reset (Table 7.10). -/
def ErrBlock.init : ErrBlock :=
  { sum := 0, canCe := 0, canUe := 0, fsCe := 0, fsUe := 0, plotCe := 0, plotUe := 0, poison := 0, wb := 0,
    wbCancel := 0, rmw := 0, merge := 0, da := 0, syn := 0 }

/-- A word whose write to the array is held because its plot may not be written at its temperature; reads are served
from the queue, so its bytes are already those of `MemState.bytes` (R441). -/
structure HeldWrite where
  /-- site of the plot -/
  site : Nat
  /-- DA of the aligned 32-byte word -/
  word : Nat
  deriving DecidableEq, Repr

/-- Memory of the part with its check state. -/
structure MemState where
  /-- device bytes by DA; unlisted bytes read 0 (R161, R204) -/
  bytes : Tbl Byte
  /-- valid bits of 64-byte lines that are set, by DA / 64 (R204) -/
  valid : Tbl Bool
  /-- error pattern of DRAM code words (36 symbols), by word DA; unlisted: none (R195) -/
  flaws : Tbl (List Byte)
  /-- error pattern of SRAM bytes (13 bits: D[7:0] then C[4:0]), by DA; unlisted: none (R198) -/
  byteFlaws : Tbl (BitVec 13)
  /-- error pattern of the coded valid bits of a group of lines, by its first line: a byte of a map in SRAM, or the 16 bits of an Orangery row (R204) -/
  mapFlaws : Tbl (BitVec 16)
  /-- open merge entries, oldest first (R201) -/
  merges : List MergeEntry
  /-- units with a queued write-back, by DA, oldest first (R207) -/
  writeBacks : List Nat
  /-- the last 64 corrections of a controller: unit and position (R209) -/
  trackers : Tbl (List (Nat × Nat))
  /-- time of the last logged correction of a controller plus one, 0 for none (R219) -/
  lastCorr : Tbl Nat
  /-- error blocks by site (R221) -/
  errs : Tbl ErrBlock
  /-- error-log records by index, 32 bytes each (R219) -/
  log : Tbl (List Byte)
  /-- next `SEQ` of the error log -/
  logSeq : Nat
  /-- unread records in the log: from `ERRLOG_TAIL` to `ERRLOG_HEAD` -/
  logUsed : Nat
  /-- `ERRLOG_TAIL` -/
  logTail : Nat
  /-- corrected records dropped (`ERRLOG_LOST`[15:0]) -/
  logLostCe : Half
  /-- other records dropped (`ERRLOG_LOST`[31:16]) -/
  logLost : Half
  /-- `ERRLOG_CTRL`[0]: the rate limit is on -/
  logRate : Bool
  /-- writes held for temperature, oldest first (R441) -/
  held : List HeldWrite
  /-- sites whose plot may not be written at its ruling temperature (R441) -/
  hot : Tbl Bool
  /-- Orangery dies whose banks may not be written, by stack × 16 + die (R442) -/
  orgHot : Tbl Bool
  deriving DecidableEq, Repr

/-- Memory after a whole-part reset: nothing written, no error. -/
def MemState.init : MemState :=
  { bytes := [], valid := [], flaws := [], byteFlaws := [], mapFlaws := [], merges := [], writeBacks := [], trackers := [], lastCorr := [],
    errs := [], log := [], logSeq := 0, logUsed := 0, held := [],
    hot := [], orgHot := [], logTail := 0, logLostCe := 0, logLost := 0, logRate := true }

/-! ## Sites and jobs ("Layers, sites and clock regions", "Schedule images and the timing contract") -/

/-- A site descriptor with the results of bring-up that feed it (Table 1.4, R23). -/
structure SiteRec where
  /-- `STATE` -/
  state : BitVec 2
  /-- `VCH_OK` -/
  vchOk : Bool
  /-- `LCOL` -/
  lcol : BitVec 5
  /-- `STRESS_OFS` -/
  stress : BitVec 4
  /-- `FMAX` -/
  fmax : BitVec 6
  /-- `RETIRED` -/
  retired : Bool
  /-- `SLOW` -/
  slow : Bool
  /-- the site passed the last core test -/
  passed : Bool
  /-- its network interface works (R24) -/
  niOk : Bool
  deriving DecidableEq, Repr

/-- A site before it is mapped (Table 1.4). What the fused fields `STRESS_OFS`, `FMAX` and `RETIRED` read before fuse load, 0 here, is
the model's choice (log 1). -/
def SiteRec.init : SiteRec :=
  { state := 0, vchOk := false, lcol := 31, stress := 0, fmax := 0, retired := false, slow := false, passed := false, niOk := true }

/-- A claim record of a schedule image (Table 5.5). -/
structure Claim where
  /-- `KIND` -/
  kind : Nat
  /-- `FLAGS` -/
  flags : Nat
  /-- `LC` -/
  lc : Nat
  /-- `UNIT` -/
  unit : Nat
  /-- `BASE` -/
  base : Nat
  /-- `LENGTH` -/
  length : Nat
  deriving DecidableEq, Repr

/-- A segment record of a schedule image (Table 5.4). -/
structure SegRec where
  /-- `LC` -/
  lc : Nat
  /-- `SEG` -/
  seg : Nat
  /-- `BUNDLES` -/
  bundles : Nat
  /-- `CANOPY_OFS` -/
  ofs : Nat
  deriving DecidableEq, Repr

/-- Where a loaded job stands (R148, R154, R536). -/
inductive JobPhase where
  /-- step 1 of R138 is done, step 6 is not -/
  | loading
  /-- running -/
  | running
  /-- a core has faulted or a halt was sent; not every core has stopped -/
  | faulting
  /-- faulted -/
  | faulted
  /-- ended -/
  | ended
  deriving DecidableEq, Repr

/-- A host command in progress: its host queue and the model's own number of it. -/
structure CmdRef where
  /-- host queue index -/
  q : Nat
  /-- number -/
  id : Nat
  deriving DecidableEq, Repr

/-- A loaded job (R536). -/
structure Job where
  /-- partition node -/
  node : Nat
  /-- `CLUSTER_MASK` -/
  mask : BitVec 40
  /-- `IMAGE_ID` -/
  imageId : Dword
  /-- phase -/
  phase : JobPhase
  /-- `WAIT_VDROP` -/
  vdrop : Bool
  /-- gate-wait limit in ms -/
  waitMs : Nat
  /-- its cores use ramp mode, as fixed when its load began (R94) -/
  ramp : Bool
  /-- `PEAK_W` -/
  peakW : Nat
  /-- `MEAN_W` -/
  meanW : Nat
  /-- parts of the job, rank order; this part alone: empty -/
  parts : List Nat
  /-- the job's tag, shared by its parts -/
  tag : Nat
  /-- claims -/
  claims : List Claim
  /-- segment records -/
  segs : List SegRec
  /-- the first faulting core, or none -/
  first : Option Nat
  /-- the fault was brought by another part: its `CONTRACT_FAULT` and logical core (R364) -/
  remote : Option (Word × Nat)
  /-- a `JOB_HALT`, reset or remote halt, not a fault of this part's cores, stopped it -/
  halted : Bool
  /-- steps 2 to 5 of R138 are done: every core is powered and its stores are placed -/
  placed : Bool
  /-- time in µs before which step 6 is held for an intent frame (R412) -/
  startAt : Nat
  /-- time of step 6 in µs (Table 13.11) -/
  startUs : Nat
  /-- the `JOB_LOAD` that waits for step 6 -/
  cmd : Option CmdRef
  /-- commands that wait until the job is faulted by their halt -/
  halters : List CmdRef
  /-- the report captured when the job ended or faulted (Table 13.11); empty before -/
  report : List Byte
  /-- the entry points of its cores: logical core, segment, offset (Table 5.3) -/
  entries : List (Nat × Nat × Nat)
  /-- the image, while the job is being loaded -/
  image : List Byte
  deriving DecidableEq, Repr

/-- A gate increment in flight from one core to another (R142, R143). -/
structure Send where
  /-- sending core -/
  src : Nat
  /-- target core -/
  dst : Nat
  /-- gate -/
  gate : Nat
  /-- count -/
  n : Nat
  /-- travels over a sister link -/
  sister : Bool
  /-- the completion increment of a transfer, not a `GSEND` (R183) -/
  cmpl : Bool
  deriving DecidableEq, Repr

/-- A blame record in flight (R157). -/
structure Blame where
  /-- the core that waited -/
  src : Nat
  /-- the core blamed -/
  dst : Nat
  /-- length of the wait in cycles -/
  n : Nat
  deriving DecidableEq, Repr


/-- What the pace evaluation keeps of a core (R158). -/
structure PaceRec where
  /-- `PACE_CYC` at the last window boundary -/
  cyc : Nat
  /-- `PACE_LAG` at the last window boundary -/
  lag : Nat
  /-- `PACE_RWAIT` at the last window boundary -/
  rwait : Nat
  /-- consecutive lagging windows -/
  run : Nat
  deriving DecidableEq, Repr

/-- A core without windows. -/
def PaceRec.init : PaceRec := { cyc := 0, lag := 0, rwait := 0, run := 0 }

/-! ## Reports ("Host interface and command packets" R389, "Health, counters and end-of-life prediction" R498) -/

/-- A record of the notification log (Table 13.13). -/
structure Note where
  /-- `SEQ` -/
  seq : Half
  /-- `CLASS` -/
  cls : Nat
  /-- `TIME` in µs -/
  time : Nat
  /-- bytes 16 to 127, without trailing zeros -/
  payload : List Byte
  /-- a `NOTE_READ` has returned it -/
  read : Bool
  deriving DecidableEq, Repr

/-- The notification log and its waiting entry (R389). -/
structure NoteState where
  /-- records held, oldest first, at most 256 -/
  log : List Note
  /-- `SEQ` of the next record -/
  next : Half
  /-- records added since the last entry posted; an entry waits while it is not 0 -/
  fresh : Nat
  /-- `NOTE_LOST` -/
  lost : Word
  deriving DecidableEq, Repr

/-- A health event (Table 17.2). -/
structure HealthEvent where
  /-- `EVT_SEQ` -/
  seq : Half
  /-- `CLASS` -/
  cls : Nat
  /-- `SUB` -/
  sub : Nat
  /-- `SEVERITY` -/
  sev : Nat
  /-- `SUPPRESSED` -/
  suppressed : Nat
  /-- `TIME` in µs -/
  time : Nat
  /-- `BOOT_SEQ` -/
  boot : Nat
  /-- payload from byte 24, without trailing zeros -/
  payload : List Byte
  deriving DecidableEq, Repr

/-- A PLDM event of the part (R392). -/
inductive PldmEvent where
  /-- a health event -/
  | health (e : HealthEvent)
  /-- a numeric sensor has crossed a threshold: its identifier and its reading -/
  | sensor (id : Nat) (v : Int)
  deriving DecidableEq, Repr

/-- An event not yet accepted. -/
structure QueuedEvent where
  /-- the event -/
  ev : PldmEvent
  /-- time in µs since VIN_AUX at which it was last sent, plus one; 0 when it has not been sent -/
  sentAt : Nat
  deriving DecidableEq, Repr

/-- Events on their way to the event receiver (R392, R499). -/
structure EventState where
  /-- events not yet accepted, oldest first -/
  queue : List QueuedEvent
  /-- `EVT_SEQ` of the next event -/
  next : Half
  /-- `EVT_SEQ` of the last event sent, as `HLT_EVT` shows it -/
  lastSeq : Half
  /-- events suppressed since the last one sent, by class -/
  suppressed : Tbl Nat
  /-- time of the last event sent plus one, by class, subtype and subject -/
  last : Tbl Nat
  /-- events discarded unsent (`HLT_EVT`) -/
  discarded : Word
  deriving DecidableEq, Repr

/-! ## The board controller path (R391 to R393, Table 19.6) -/

/-- What an MCTP message that the part sends holds. -/
inductive MctpBody where
  /-- the endpoint ID, in answer to its assignment or to a query -/
  | eid (e : Byte)
  /-- the answer to another control message or another PLDM request: type, code and the data of the request -/
  | answer (typ code : Byte) (data : List Byte)
  /-- the message type is unsupported -/
  | unsupported (typ : Byte)
  /-- a sensor's reading; none for an identifier outside Table 13.14 -/
  | reading (id : Nat) (v : Option Int)
  /-- `PlatformEventMessage` -/
  | event (e : PldmEvent)
  /-- the answer to a poll: a held event, or none -/
  | poll (e : Option PldmEvent)
  /-- `SetEventReceiver` has been carried out -/
  | receiver
  /-- bytes of an image have been written -/
  | written (comp : Nat)
  /-- the outcome of a verification -/
  | verified (comp : Nat) (ok : Bool)
  deriving DecidableEq, Repr

/-- An MCTP message sent on a binding. -/
structure MctpMsg where
  /-- over I3C rather than PCIe VDM -/
  i3c : Bool
  /-- destination endpoint ID -/
  dst : Byte
  /-- what it holds -/
  body : MctpBody
  deriving DecidableEq, Repr

/-- The board controller path; it lies in the VIN_AUX domain. -/
structure Kiosk where
  /-- `EID` -/
  eid : Byte
  /-- event receiver: its binding and endpoint ID -/
  receiver : Option (Bool × Byte)
  /-- `KSK_PLDM_DROP` -/
  dropped : Word
  /-- PLDM numeric sensors 1 to 14, as last updated: temperatures in 1/16 °C -/
  sensors : Tbl (Option Int)
  /-- messages sent, newest last -/
  sent : List MctpMsg
  deriving DecidableEq, Repr

/-- The board controller path when VIN_AUX enters its range. -/
def Kiosk.init : Kiosk := { eid := 0, receiver := none, dropped := 0, sensors := [], sent := [] }

/-! ## Host interface ("Host interface and command packets") -/

/-- Bytes of the part that a sequencer command reads or writes, for R377. -/
structure Foot where
  /-- DA -/
  da : Nat
  /-- length -/
  len : Nat
  /-- written -/
  write : Bool
  deriving DecidableEq, Repr

/-- A command accepted and not completed (R376, R377). -/
structure Running where
  /-- the model's number of the command -/
  id : Nat
  /-- `CID` -/
  cid : Word
  /-- a Torzan command -/
  torzan : Bool
  /-- what a sequencer command reads and writes -/
  foot : List Foot
  /-- it takes effect in the Kiosk's order (R34, R377) -/
  kiosk : Bool
  /-- started -/
  started : Bool
  /-- the command itself stands among those held (log 2) -/
  held : Bool
  /-- its entry -/
  e : Entry
  deriving DecidableEq, Repr

/-- A completion that waits for room in its ring (R374, Table 13.7). -/
structure Cpl where
  /-- `CID` -/
  cid : Word
  /-- `STATUS` -/
  status : Nat
  /-- `IGN` -/
  ign : Bool
  /-- `RESULT0` -/
  r0 : Nat
  /-- `RESULT1` -/
  r1 : Nat
  deriving DecidableEq, Repr

/-- State of a host queue (Table 13.5). -/
inductive QState where
  /-- 0 -/
  | off
  /-- 1 -/
  | on
  /-- 2 -/
  | err
  deriving DecidableEq, Repr

/-- A host queue: its context (Table 13.5) and its rings' indices (R374, R376). -/
structure HostQueue where
  /-- `SQ_BASE` -/
  sqBase : Nat
  /-- `CQ_BASE` -/
  cqBase : Nat
  /-- `SQ_LOG2` -/
  sqLog : Nat
  /-- `CQ_LOG2` -/
  cqLog : Nat
  /-- `VECTOR` -/
  vector : Nat
  /-- `FLAGS`.`EXPERT` -/
  expert : Bool
  /-- `FLAGS`.`IRQ_EN` -/
  irqEn : Bool
  /-- `STATE` -/
  st : QState
  /-- `ERR` -/
  err : Nat
  /-- `COAL_CNT` -/
  coalCnt : Nat
  /-- `COAL_US` -/
  coalUs : Nat
  /-- draining after a disable (R373) -/
  draining : Bool
  /-- admin queue: an enable waits for the end of the drain (R373) -/
  reenable : Bool
  /-- next entry the part will fetch -/
  sqHead : Nat
  /-- the tail doorbell's value -/
  sqTail : Nat
  /-- next slot of the completion ring the part will write -/
  cqSlot : Nat
  /-- phase bit of the next completion -/
  cqPhase : Bool
  /-- last valid completion head -/
  cqHead : Nat
  /-- commands accepted and not completed, in fetch order -/
  running : List Running
  /-- completions waiting for room -/
  waiting : List Cpl
  /-- completions gathered since the last message -/
  gathered : Nat
  /-- time in µs at which the first of them was written -/
  coalAt : Nat
  deriving DecidableEq, Repr

/-- A host queue after a whole-part reset. -/
def HostQueue.init : HostQueue :=
  { sqBase := 0, cqBase := 0, sqLog := 0, cqLog := 0, vector := 0, expert := false, irqEn := false, st := .off, err := 0,
    coalCnt := 0, coalUs := 0, draining := false, reenable := false, sqHead := 0, sqTail := 0, cqSlot := 0, cqPhase := true,
    cqHead := 0, running := [], waiting := [], gathered := 0, coalAt := 0 }

/-- The host interface (Tables 13.2 to 13.4). -/
structure Hif where
  /-- host queues by index -/
  queues : Tbl HostQueue
  /-- `EXPERT_EN` -/
  expertEn : Bool
  /-- `HIF_CTRL`.`LOCK` -/
  lock : Bool
  /-- `HIF_NOTE_Q` -/
  noteQ : Half
  /-- `ADM_SQ` -/
  admSq : Dword
  /-- `ADM_CQ` -/
  admCq : Dword
  /-- `ADM_CTRL`, bits [8:0] -/
  admCtrl : BitVec 9
  /-- `HIF_ACC` -/
  acc : Dword
  /-- `HIF_CPL` -/
  cpl : Dword
  /-- `HIF_DB_IGN` -/
  dbIgn : Word
  /-- MSI-X messages sent, by vector -/
  irqs : Tbl Nat
  /-- the model's number of the next command -/
  nextId : Nat
  /-- Bus Master Enable -/
  bme : Bool
  /-- the PCIe link is up -/
  linkUp : Bool
  /-- the Kiosk has configured the PCIe controller: configuration requests complete normally (R371) -/
  configured : Bool
  /-- the last configuration request was answered with Retry Status (R371) -/
  cfgRetry : Option Bool
  deriving DecidableEq, Repr

/-- The host interface after a whole-part reset. -/
def Hif.init : Hif :=
  { queues := [], expertEn := false, lock := false, noteQ := 0, admSq := 0, admCq := 0, admCtrl := 0, acc := 0, cpl := 0,
    dbIgn := 0, irqs := [], nextId := 0, bme := false, linkUp := false, configured := false, cfgRetry := none }

/-! ## Orangery stacks ("Memory tiers, addressing and movers" R167 to R171, "Orangery stacks and near-bank processing") -/

/-- State of a region index (Table 6.3). -/
inductive RegionState where
  /-- no storage -/
  | unmapped
  /-- in a frame -/
  | resident
  /-- being copied to the host buffer -/
  | pageOut
  /-- in the host buffer only -/
  | spilled
  /-- being copied to a frame -/
  | pageIn
  deriving DecidableEq, Repr

/-- Bank-mode state of a resident region (R258). -/
inductive BankState where
  /-- ordinary accesses -/
  | normal
  /-- entry in progress -/
  | entering
  /-- owned by the units -/
  | bank
  /-- release in progress -/
  | releasing
  deriving DecidableEq, Repr

/-- Who holds a region in bank mode (R258). -/
inductive Holder where
  /-- the host -/
  | host
  /-- the job on a partition node -/
  | job (node : Nat)
  deriving DecidableEq, Repr

/-- A completion increment: core, gate, count (Tables 6.7, 9.5). -/
structure Cmpl where
  /-- `CLC` -/
  lc : Nat
  /-- `CGATE` -/
  gate : Nat
  /-- `CINC`, 0 for none -/
  n : Nat
  deriving DecidableEq, Repr

/-- An Orangery region (R168, R258). -/
structure Region where
  /-- residency -/
  st : RegionState
  /-- frame while `resident`, `pageOut` or `pageIn` -/
  frame : Nat
  /-- PCIe address of the host buffer -/
  buf : Nat
  /-- CRC-64 recorded at page-out; none for a region mapped as spilled (R386) -/
  crc : Option Dword
  /-- poison flag of R215 -/
  poison : Bool
  /-- bank-mode state -/
  bank : BankState
  /-- handle, while in bank mode -/
  handle : Nat
  /-- holder, while in bank mode -/
  holder : Holder
  /-- generation number -/
  gen : Half
  /-- increment of the release record -/
  relCmpl : Option Cmpl
  /-- records of the stack that stood before the release command and have not taken effect (R262) -/
  relWait : Nat
  /-- the release in progress is with `ABORT` -/
  abort : Bool
  /-- host commands that wait for the entry, release, page-out or page-in in progress -/
  cmd : List CmdRef
  deriving DecidableEq, Repr

/-- A region index after a whole-part reset (R168, R262). -/
def Region.init : Region :=
  { st := .unmapped, frame := 0, buf := 0, crc := none, poison := false, bank := .normal, handle := 0, holder := .host,
    gen := 0, relCmpl := none, relWait := 0, abort := false, cmd := [] }

/-- State of a processing unit (Table 9.10). -/
inductive UnitState where
  /-- 0 -/
  | idle
  /-- 1, or 2 in a refresh suspension (R279) -/
  | running
  /-- 3: temperature wait -/
  | hot
  /-- 4: chain wait -/
  | chain
  /-- 5 -/
  | error
  deriving DecidableEq, Repr

/-- A bank unit or row unit (R269, R273 to R275, Table 9.10). -/
structure BUnit where
  /-- `x0` to `x63` of a bank unit; planes `p0` to `p7` of a row unit are in `planes` -/
  regs : Tbl (BitVec 256)
  /-- planes of a row unit, plane 8 the carry plane `pc` -/
  planes : Tbl (BitVec 8192)
  /-- scalar registers `s0` to `s15` of a row unit -/
  scalars : Tbl Word
  /-- instruction store -/
  store : Tbl Word
  /-- mailbox -/
  mailbox : BitVec 256
  /-- `PC` -/
  pc : Nat
  /-- `STATE` -/
  st : UnitState
  /-- `ERR` -/
  err : Nat
  /-- `ERR_ADDR` -/
  errAddr : Word
  /-- Philox counter -/
  ctr : Dword
  /-- Philox key k[0] -/
  key0 : Word
  /-- Philox key k[1] -/
  key1 : Word
  /-- Philox salt -/
  salt : Word
  /-- `STEPS` -/
  steps : Dword
  /-- `WAIT` -/
  wait : Word
  /-- bank cycles left of a refresh suspension (R279) -/
  refLeft : Nat
  /-- span of its chain: the stack -/
  span : Bool
  /-- registers received along the chain, oldest first, at most 2 -/
  inbox : List (BitVec 256)
  deriving DecidableEq, Repr

/-- A unit after a whole-part reset (R269). -/
def BUnit.init : BUnit :=
  { regs := [], planes := [], scalars := [], store := [], mailbox := 0, pc := 0, st := .idle, err := 0, errAddr := 0, ctr := 0,
    key0 := 0, key1 := 0, salt := 0, steps := 0, wait := 0, refLeft := 0, span := false, inbox := [] }

/-- A record in progress (R267). -/
inductive RecJob where
  /-- `START` of units -/
  | start (units : List Nat) (c : Cmpl)
  /-- `STOP` of units -/
  | stop (units : List Nat) (c : Cmpl)
  /-- `COPYIN` into a region: far DA, length, offset -/
  | copyIn (region far len ofs : Nat) (c : Cmpl)
  /-- `COPYOUT` from a region -/
  | copyOut (region far len ofs : Nat) (c : Cmpl)
  /-- `DIGEST` of blocks of a region -/
  | digest (region far blocks ofs : Nat) (c : Cmpl)
  deriving DecidableEq, Repr

/-- An Orangery queue context (R268). -/
structure OrgQueue where
  /-- `REGION` -/
  region : Nat
  /-- `STATE`: enabled -/
  on : Bool
  /-- `POSTS` -/
  posts : Word
  deriving DecidableEq, Repr

/-- Who waits for the answer to a post (R244, R268). -/
inductive PostSrc where
  /-- a host command -/
  | host (r : CmdRef)
  /-- a Trellis requester: endpoint and tag -/
  | pkt (src tag : Nat)
  /-- a Xobex message: its part and message number -/
  | xob (part msg : Nat)
  /-- the Kiosk -/
  | kiosk
  deriving DecidableEq, Repr

/-- A post that waits for room (R244, R268). -/
structure Post where
  /-- queue: QN -/
  qn : Nat
  /-- its 64 bytes -/
  data : List Byte
  /-- who waits for the answer -/
  src : PostSrc
  /-- time in µs at which its wait for room began -/
  since : Option Nat
  /-- which of its bytes were uncorrectable in transit (R200); none listed: none -/
  bad : List Bool := []
  deriving DecidableEq, Repr

/-- A stack (R252, Tables 9.11 to 9.14). -/
structure Stack where
  /-- `LINK_UP` -/
  linkUp : Bool
  /-- consecutive replays of one frame on the port link (R255) -/
  replays : Nat
  /-- frames withdrawn for want of spares (R217) -/
  withdrawn : List Nat
  /-- frames exist once the stack is trained: `FRAMES_USABLE` reads 0 before -/
  trained : Bool
  /-- regions by index -/
  regions : Tbl Region
  /-- regions that wait for a free frame to be paged in, in order (R170) -/
  waitIn : List Nat
  /-- units by number u -/
  units : Tbl BUnit
  /-- records in progress -/
  active : List RecJob
  /-- `MALFORMED` -/
  malformed : Word
  /-- queue contexts by n -/
  queues : Tbl OrgQueue
  /-- posts that wait for room in the record queue, oldest first (R268) -/
  posts : List Post
  /-- open rows: physical row + 1 by bank × 16 + subarray, a bank numbered as its unit; 0 for none (R254) -/
  rows : Tbl Nat
  /-- refreshes owed by a bank (R279) -/
  owed : Tbl Nat
  /-- refreshes of a bank that fell due while a unit ran, whose next access has yet to show whether they are postponed (R279) -/
  due : Tbl Nat
  /-- dies refreshed at 1.95 µs -/
  fast : Tbl Bool
  /-- `ORG_LINK_RPLY` -/
  rply : Word
  /-- `ORG_STALE` -/
  stale : Word
  /-- `ORG_REF_POST` -/
  refPost : Word
  /-- `ORG_REF_FORCE` -/
  refForce : Word
  /-- `ORG_HOT_WAIT` -/
  hotWait : Word
  deriving DecidableEq, Repr

/-- A stack after a whole-part reset (Table 9.12). -/
def Stack.init : Stack :=
  { linkUp := false, replays := 0, withdrawn := [], trained := false, regions := [], waitIn := [], units := [], active := [],
    malformed := 0, queues := [], posts := [], rows := [], owed := [], due := [], fast := [], rply := 0, stale := 0, refPost := 0, refForce := 0, hotWait := 0 }

/-! ## The Trellis ("The Trellis on-die network") -/

/-- A router block (Tables 8.8, 8.9): of a site, a row gateway or the base switch. -/
structure Router where
  /-- `PRESENT` -/
  present : Bool
  /-- `PORT_UP`, bits N, S, E, W, U, D -/
  portUp : BitVec 6
  /-- `PORT_FAIL` -/
  portFail : BitVec 6
  /-- ports held by a Seam retune -/
  held : Nat
  /-- `LEVEL` -/
  level : Nat
  /-- `RTR_REPLAY` -/
  replay : Word
  /-- consecutive failed replays of the flit at the head of each port -/
  again : Tbl Nat
  /-- `RTR_CRC` -/
  crc : Word
  /-- `RTR_DROP` -/
  drop : Word
  /-- `RTR_PKT` -/
  pkt : Dword
  /-- `RTR_STALL` -/
  stall : Dword
  /-- `RTR_CE` -/
  ce : Word
  /-- `NI_POSTS` -/
  posts : Word
  /-- `NI_QFULL` -/
  qfull : Word
  /-- `NI_ABSORB` -/
  absorb : Word
  /-- `BCAST_SEQ` -/
  bcast : Half
  deriving DecidableEq, Repr

/-- A router before Trellis start. -/
def Router.init : Router :=
  { present := false, portUp := 0, portFail := 0, held := 0, level := 0x3F, replay := 0, again := [], crc := 0, drop := 0, pkt := 0,
    stall := 0, ce := 0, posts := 0, qfull := 0, absorb := 0, bcast := 0 }

/-- A site queue context (Table 8.7). -/
structure SiteQueue where
  /-- `RING` -/
  ring : Nat
  /-- `SIZE_LOG2` -/
  log2 : Nat
  /-- `GATE` -/
  gate : Nat
  /-- `QUOTA` -/
  quota : Nat
  /-- `TAIL` -/
  tail : Word
  /-- `HEAD_DA` -/
  headDa : Nat
  /-- `HEAD_SEEN` -/
  headSeen : Word
  /-- `STATE`: 0 disabled, 1 enabled, 2 head error -/
  st : Nat
  deriving DecidableEq, Repr

/-- A site queue after a whole-part reset: every context byte zero (R243). -/
def SiteQueue.init : SiteQueue :=
  { ring := 0, log2 := 0, gate := 0, quota := 0, tail := 0, headDa := 0, headSeen := 0, st := 0 }

/-- Kinds of response packets (Table 8.4). -/
inductive RspKind where
  /-- `RDATA` -/
  | rdata
  /-- `WACK` -/
  | wack
  /-- `TRESET` -/
  | treset
  /-- `RERR` with a status -/
  | rerr (status : Nat)
  /-- `CRESP` with a value -/
  | cresp (value : Word)
  deriving DecidableEq, Repr

/-- A response packet. -/
structure Rsp where
  /-- requester: `DST` of the response -/
  dst : Nat
  /-- answering endpoint -/
  src : Nat
  /-- `TAG` -/
  tag : Nat
  /-- kind -/
  kind : RspKind
  /-- data of `RDATA`; `none` for a byte that travels marked poisoned -/
  data : List (Option Byte)
  /-- its requester has been reset since it asked: discarded on arrival (R480) -/
  stale : Bool
  deriving DecidableEq, Repr

/-- The Trellis. -/
structure Trellis where
  /-- `STARTED` -/
  started : Bool
  /-- `DEGRADED` -/
  degraded : Bool
  /-- `FAILED_LINKS` -/
  failedLinks : Nat
  /-- dark sites (R24, R222) -/
  dark : List Nat
  /-- links that failed training, as pairs of endpoint identifiers -/
  badLinks : List (Nat × Nat)
  /-- router blocks 0 to 890 (R251) -/
  routers : Tbl Router
  /-- site queue contexts by QN -/
  queues : Tbl SiteQueue
  /-- posts waiting in NIs, in order of arrival (R244) -/
  posts : List Post
  /-- posts of the transport engines that wait for an NI that holds 8, in order of arrival (R244) -/
  outside : List Post
  /-- links and sublinks that failed after Trellis start, as (element, element, sublink) in either direction (R247) -/
  cut : List (Nat × Nat × Nat)
  /-- responses in flight, in order of sending -/
  rsps : List Rsp
  /-- responses delivered to their requesters, newest last -/
  inbox : List Rsp
  /-- clusters whose map is being updated (R235) -/
  updRows : List Nat
  /-- sites whose NI has not confirmed the update -/
  unconfirmed : List Nat
  /-- sequence number of the last broadcast sent (R239) -/
  bseq : Half
  /-- times in ticks at which the latest broadcasts left the Kiosk; each is in flight for 200 ns (R239, R240) -/
  bcasts : List Nat
  /-- core firmware of each site: site × 2^40 + offset (R241, R463) -/
  coreFw : Tbl Byte
  deriving DecidableEq, Repr

/-- The Trellis before its start. -/
def Trellis.init : Trellis :=
  { started := false, degraded := false, failedLinks := 0, dark := [], badLinks := [], routers := [], queues := [],
    posts := [], outside := [], cut := [], rsps := [], inbox := [], updRows := [], unconfirmed := [], bseq := 0, bcasts := [], coreFw := [] }

/-! ## Clock regions, Seams and partitions ("Layers, sites and clock regions") -/

/-- A clock region (Table 1.7). -/
structure ClockRegion where
  /-- `FREQ_TARGET` -/
  target : BitVec 6
  /-- `FREQ_NOW` -/
  now : Nat
  /-- `FMAX_REGION` -/
  fmax : Nat
  /-- `LOCKED` -/
  locked : Bool
  /-- droop stretch in force: 0 none, 1 by 1.25, 2 by 1.5 (Table 14.6) -/
  stretch : Nat
  /-- `STRETCH_R` -/
  stretched : Word
  /-- part of an array cycle that has passed, in 1/3840 of a cycle (log 6) -/
  acc : Nat
  deriving DecidableEq, Repr

/-- A region after a whole-part reset. -/
def ClockRegion.init : ClockRegion :=
  { target := 32, now := 0, fmax := 0, locked := false, stretch := 0, stretched := 0, acc := 0 }

/-- A TSV bundle of a Seam at a site position (R40 to R43). -/
structure Bundle where
  /-- delay code -/
  code : Nat
  /-- marked failed -/
  failed : Bool
  /-- a retune runs -/
  retuning : Bool
  /-- the code that the boot chose (Table 17.1) -/
  boot : Nat
  deriving DecidableEq, Repr

/-- A bundle before calibration; its code 0 is the model's choice (log 87). -/
def Bundle.init : Bundle := { code := 0, failed := false, retuning := false, boot := 0 }

/-- `SEAM_HLT` of a Seam (Table 17.5). -/
structure SeamHealth where
  /-- `R_RATIO`, per mille -/
  ratio : Nat
  /-- `CODE_DRIFT` -/
  drift : Nat
  /-- retunes since reset -/
  retunes : Nat
  deriving DecidableEq, Repr

/-- A Seam after a whole-part reset. -/
def SeamHealth.init : SeamHealth := { ratio := 0, drift := 0, retunes := 0 }

/-- A partition node other than the root (Table 1.6). -/
structure PtnNode where
  /-- `CLUSTER_MASK` -/
  mask : BitVec 40
  /-- `PARENT` -/
  parent : Nat
  /-- `VALID` -/
  valid : Bool
  deriving DecidableEq, Repr

/-- A node that is not valid reads zero. -/
def PtnNode.init : PtnNode := { mask := 0, parent := 0, valid := false }

/-! ## Power ("Power delivery, regulation and capping") -/

/-- Power of a core domain (Table 14.16). -/
inductive DomState where
  /-- 0 -/
  | gated
  /-- 1: waits for a permit, or ramps -/
  | powering
  /-- 2, or 3 while stage 2 of Table 5.18 lowers it -/
  | on
  deriving DecidableEq, Repr

/-- The Canopy switch of a site (R404). -/
inductive CanopyState where
  /-- retention voltage -/
  | retention
  /-- waits for a permit, or rises -/
  | raising
  /-- full voltage -/
  | full
  deriving DecidableEq, Repr

/-- Power of a site. -/
structure SitePower where
  /-- core domain -/
  dom : DomState
  /-- Canopy switch -/
  canopy : CanopyState
  /-- `AGE_GB`, mV -/
  ageGb : Nat
  /-- time in µs since which the core has been idle: no job and no feeder access -/
  idleSince : Nat
  /-- time in µs from which the Canopy switch may return to retention -/
  canopyDue : Nat
  deriving DecidableEq, Repr

/-- A site after a whole-part reset (Table 14.16). -/
def SitePower.init : SitePower := { dom := .gated, canopy := .retention, ageGb := 0, idleSince := 0, canopyDue := 0 }

/-- A request for an inrush permit (R405). -/
structure PermitReq where
  /-- site -/
  site : Nat
  /-- a Canopy raise rather than a core power-up -/
  canopy : Bool
  /-- waits for neighbour margin -/
  waits : Bool
  /-- uses the slow ramp -/
  slow : Bool
  deriving DecidableEq, Repr

/-- A zone of VIN_A (R396, R405). -/
structure Zone where
  /-- free permits -/
  free : Nat
  /-- waiting requests, oldest first -/
  waiting : List PermitReq
  /-- requests that hold a permit -/
  granted : List PermitReq
  deriving DecidableEq, Repr

/-- A zone after a whole-part reset. -/
def Zone.init : Zone := { free := 16, waiting := [], granted := [] }

/-- A capping loop: of the part (node 0) or of a node (R415 to R419). -/
structure PowerLoop where
  /-- cap in W; 0 none -/
  cap : Nat
  /-- pause duty p -/
  p : Nat
  /-- memory limit m -/
  m : Nat
  /-- link limit l -/
  l : Nat
  /-- `hard` -/
  hard : Bool
  /-- `MEM_FLOOR` in force -/
  memFloor : Nat
  /-- `LINK_FLOOR` in force -/
  linkFloor : Nat
  /-- samples since max(now − 10 ms, last change of the cap): time in µs and watts, newest last -/
  samples : List (Nat × Nat)
  /-- last sample, W -/
  last : Nat
  /-- setpoint s, W -/
  setpoint : Rat
  /-- the last sample exceeded its setpoint -/
  exceeded : Bool
  /-- `last_relax`, µs -/
  lastRelax : Nat
  /-- time in µs since which p has been at least 16, plus one; 0 while below -/
  highSince : Nat
  /-- time in µs since which p has been 0 and every sample below the cap minus 5 %, plus one -/
  calmSince : Nat
  deriving DecidableEq, Repr

/-- A node loop without a cap. -/
def PowerLoop.init : PowerLoop :=
  { cap := 0, p := 0, m := 64, l := 64, hard := false, memFloor := 8, linkFloor := 16, samples := [], last := 0, setpoint := 0,
    exceeded := false, lastRelax := 0, highSince := 0, calmSince := 0 }

/-- The part loop after a whole-part reset (R415). -/
def PowerLoop.part : PowerLoop := { PowerLoop.init with cap := 5500 }

/-- Power of the part (Tables 14.11 to 14.14). -/
structure Power where
  /-- sites -/
  sites : Tbl SitePower
  /-- `VF_TABLE`: region × 64 + clock code to voltage code; fused -/
  vf : Tbl Nat
  /-- zones 0 to 7 -/
  zones : Tbl Zone
  /-- the part loop -/
  part : PowerLoop
  /-- node loops by node, 1 to 63 -/
  nodes : Tbl PowerLoop
  /-- `ORDER` -/
  order : Nat
  /-- `NOFREQ` -/
  noFreq : Bool
  /-- `FREQ_LIM` -/
  freqLim : Nat
  /-- `CAP_UNMET` -/
  unmet : Bool
  /-- `OVERSUB` -/
  oversub : Bool
  /-- `VR_ALERT_N` is low -/
  alert : Bool
  /-- `VRI_EN` -/
  vriEn : Bool
  /-- `ALERT_EN` -/
  alertEn : Bool
  /-- `PWR_CTRL`.`LOCK` -/
  lock : Bool
  /-- `PWR_OVER` -/
  overs : Word
  /-- `PWR_ALERTS` -/
  alerts : Word
  /-- `PERMIT_WAITS` -/
  waits : Word
  /-- `SLOW_RAMPS` -/
  slows : Word
  /-- `VRI_FRAMES` -/
  frames : Word
  /-- intent frames sent on `VRI_DATA`, newest last -/
  vri : List Word
  /-- cap changes that wait for the next sample of their node's loop: node and command (R415) -/
  capRuns : List (Nat × CmdRef)
  deriving DecidableEq, Repr

/-- Power after a whole-part reset. -/
def Power.init : Power :=
  { sites := [], vf := [], zones := [], part := PowerLoop.part, nodes := [], order := 0, noFreq := false, freqLim := 40, unmet := false,
    oversub := false, alert := false, vriEn := true, alertEn := true, lock := false, overs := 0, alerts := 0, waits := 0,
    slows := 0, frames := 0, vri := [], capRuns := [] }

/-! ## Temperature ("Temperature, throttling and the coolant interface"). Temperatures are codes of 1/16 °C. -/

/-- One sensor (R430 to R435). -/
structure Sensor where
  /-- latest accepted reading with its time in ns -/
  last : Option (Nat × Int)
  /-- consecutive discarded readings -/
  discarded : Nat
  /-- suspect -/
  suspect : Bool
  /-- time in ns since which the reading has trailed its estimate by more than 8 °C, plus one -/
  trails : Nat
  deriving DecidableEq, Repr

/-- A sensor without history. -/
def Sensor.init : Sensor := { last := none, discarded := 0, suspect := false, trails := 0 }

/-- One sensing point beside its sensors. -/
structure SensePoint where
  /-- its last 8 values with their times in ns, newest last -/
  hist : List (Nat × Int)
  /-- sample times with an accepted reading, up to 8 -/
  accepted : Nat
  /-- `PAIR_DIS` -/
  pairDis : Bool
  /-- consecutive sample times that disagree, or agree, with the flag -/
  pairRun : Nat
  /-- `FAILED`, of an external input -/
  failed : Bool
  /-- `RATE` -/
  rate : Nat
  /-- time in ns since which the point has been below its band, plus one -/
  below : Nat
  /-- the last evaluation of the rate exceeded the rise limit -/
  rose : Bool
  deriving DecidableEq, Repr

/-- A point without history. -/
def SensePoint.init : SensePoint := { hist := [], accepted := 0, pairDis := false, pairRun := 0, failed := false, rate := 0, below := 0, rose := false }

/-- A heat-layer cell (R433, R436). -/
structure HeatCell where
  /-- `T_est`, in 1/16 °C -/
  est : Rat
  /-- rate source: the point that supplies the ruling value, or none for `T_est` -/
  src : Option Nat
  /-- last 8 values of the rate source since it became one, newest last -/
  hist : List (Nat × Rat)
  /-- the last evaluation exceeded the rise limit -/
  rose : Bool
  /-- the last two evaluations did: the rise limit is exceeded -/
  rise : Bool
  deriving DecidableEq, Repr

/-- A cell before the first update. -/
def HeatCell.init : HeatCell := { est := 0, src := none, hist := [], rose := false, rise := false }

/-- Thermal control of a clock region (R439, R440). -/
structure ThermRegion where
  /-- `DUTY` p_t -/
  pt : Nat
  /-- `rise_until`, µs -/
  riseUntil : Nat
  /-- `last_down`, µs -/
  lastDown : Nat
  /-- `TCLK_LIM` -/
  lim : Nat
  /-- t, as last rewritten -/
  t : Option Int
  /-- highest DRAM ruling value, as last rewritten -/
  dram : Option Int
  /-- time in µs since which p_t has been at least 16, plus one -/
  highSince : Nat
  /-- time in µs since which p_t has been 0 and t at or below 93 °C − `TH_LOWER`, plus one -/
  calmSince : Nat
  deriving DecidableEq, Repr

/-- A region after a whole-part reset. -/
def ThermRegion.init : ThermRegion :=
  { pt := 0, riseUntil := 0, lastDown := 0, lim := 40, t := none, dram := none, highSince := 0, calmSince := 0 }

/-- A coolant plane (R451). -/
structure Plane where
  /-- evaluations of θ over the fused value, of the last 10 minutes, with their times in µs -/
  evals : List (Nat × Rat)
  /-- ratio: their mean; 0 before any -/
  ratio : Rat
  /-- time in µs since which the ratio has been at or above `DEGR_WARN`, plus one -/
  warnSince : Nat
  /-- time in µs since which it has been below, plus one -/
  warnBelow : Nat
  /-- this plane warns -/
  warn : Bool
  /-- time in µs since which the ratio has been below `DEGR_SEVERE`, plus one -/
  severeBelow : Nat
  /-- this plane is severe -/
  severe : Bool
  deriving DecidableEq, Repr

/-- A plane before any evaluation. -/
def Plane.init : Plane := { evals := [], ratio := 0, warnSince := 0, warnBelow := 0, warn := false, severeBelow := 0, severe := false }

/-- Temperature state; all of it lies in the VIN_AUX domain but for the regions (Table 16.10). -/
structure Thermal where
  /-- sensors: point × 2 + diode -/
  sensors : Tbl Sensor
  /-- points -/
  points : Tbl SensePoint
  /-- cells: heat layer × 220 + position -/
  cells : Tbl HeatCell
  /-- the estimator has made its first update -/
  estimated : Bool
  /-- regions 0 to 4 -/
  regions : Tbl ThermRegion
  /-- planes 0 to 2 -/
  planes : Tbl Plane
  /-- `TRIP_CAUSE` -/
  tripCause : Word
  /-- `TRIP_COUNT` -/
  tripCount : Word
  /-- tripped: `THERMTRIP_N` is low -/
  tripped : Bool
  /-- `RESTARTED` -/
  restarted : Bool
  /-- implied flow in 0.01 L/min -/
  flow : Rat
  /-- consecutive evaluations below `FLOW_WARN`, or at or above it once `LOW_FLOW` is set -/
  flowRun : Nat
  /-- `LOW_FLOW` -/
  lowFlow : Bool
  /-- `INLET_RANGE` -/
  inletRange : Bool
  /-- time in µs since which the inlet has been out of range, plus one -/
  inletSince : Nat
  /-- time in µs since which every condition of the restart holds, plus one -/
  coolSince : Nat
  /-- samples of package power of the last 10 s, and the one before them: time in µs and watts, newest last (R451) -/
  power : List (Nat × Nat)
  /-- next refresh of a plot by its local timer, by site, and of an Orangery bank, by 880 + 1024 × stack + bank: ns since VIN_AUX (R19,
  R279, R438) -/
  refresh : Tbl Nat
  /-- of the same banks: the last retention hold of the memory test in which it was refreshed, numbered from 1, and the hold's k (R465) -/
  retained : Tbl (Nat × Nat)
  /-- `THM_DISCARDS` -/
  discards : Word
  /-- `THM_HOLDS` -/
  holds : Word
  /-- `THM_THROTTLES` -/
  throttles : Word
  deriving DecidableEq, Repr

/-- Temperature state when VIN_AUX enters its range. -/
def Thermal.init : Thermal :=
  { sensors := [], points := [], cells := [], estimated := false, regions := [], planes := [], tripCause := 0, tripCount := 0,
    tripped := false, restarted := false, flow := 0, flowRun := 0, lowFlow := false, inletRange := false, inletSince := 0, coolSince := 0, power := [], refresh := [], retained := [], discards := 0,
    holds := 0, throttles := 0 }


/-! ## Serving ("Attention, KV pages and bulk serving"). What the serving area holds stands in the plot (Table 10.4). -/

/-- What stands in line at a batcher (R291). -/
inductive SvWait where
  /-- the oldest waiting post of the bound queue -/
  | post
  /-- a serving command, and the time in µs at which its slot was found busy -/
  | cmd (r : CmdRef) (since : Option Nat)
  deriving DecidableEq, Repr

/-- A serving binding (R288). -/
structure Binding where
  /-- DA of the serving area -/
  area : Nat
  /-- bound queue -/
  qn : Nat
  /-- head word of the bound queue as last read -/
  head : Word
  /-- commands and posts that wait, in order of arrival -/
  line : List SvWait
  /-- hot slots freed, with the `TAIL` that the head word must pass before each is given again (R297) -/
  freed : List (Nat × Word)
  /-- `STATE` 2 (R306) -/
  failed : Bool
  deriving DecidableEq, Repr

/-! ## Training ("Training, gradients and optimizer state") -/

/-- A training block and its binding (R320, Table 11.9). -/
structure Training where
  /-- bound -/
  bound : Bool
  /-- `REPLICAS` -/
  replicas : Nat
  /-- `RANK` -/
  rank : Nat
  /-- `RESULT_DA` -/
  resultDa : Nat
  /-- `RESULT_CMPL` -/
  resultCmpl : Word
  /-- `CMP_CMPL` -/
  cmpCmpl : Word
  /-- `CMP_STACK`, 0xFF for no window -/
  stack : Nat
  /-- `CMP_REGION` -/
  region : Nat
  /-- `CMP_OFS` -/
  ofs : Nat
  /-- `CMP_WORDS` -/
  words : Nat
  /-- `FIN` -/
  fin : Bool
  /-- `VERDICT` -/
  verdict : Bool
  /-- `REDUCING` -/
  reducing : Bool
  /-- `TRN_STEP`, `NEXT` of the last result block -/
  step : Dword
  /-- `TRN_SKIPS` -/
  skips : Dword
  /-- finite reductions started since bind -/
  started : Nat
  /-- rank 0: words held: step instance × 1024 + rank to `FIN` + 1 -/
  finWords : Tbl Nat
  /-- arrivals of window words -/
  arrivals : Tbl Nat
  /-- parts whose copies of window words are stored -/
  source : Tbl Nat
  /-- `LAND_CHUNK` -/
  landChunk : Dword
  /-- `LAND_HOLD` -/
  landHold : Dword
  /-- `SKIP_STARTS` -/
  skipStarts : Word
  /-- `CMP_ROUNDS` -/
  rounds : Word
  /-- `CMP_SHARD` -/
  shard : Dword
  /-- `CMP_FAULT` -/
  cmpFault : Word
  /-- `CMP_SRC` -/
  cmpSrc : Word
  deriving DecidableEq, Repr

/-- A block without a binding. -/
def Training.init : Training :=
  { bound := false, replicas := 0, rank := 0, resultDa := 0, resultCmpl := 0, cmpCmpl := 0, stack := 0xFF, region := 0, ofs := 0,
    words := 0, fin := false, verdict := false, reducing := false, step := 0, skips := 0, started := 0, finWords := [], arrivals := [],
    source := [], landChunk := 0, landHold := 0, skipStarts := 0, rounds := 0, shard := 0, cmpFault := 0, cmpSrc := 0 }

/-- A chunk for a landing target (R316). -/
structure LandChunk where
  /-- partition node of its job -/
  node : Nat
  /-- stack -/
  stack : Nat
  /-- region -/
  region : Nat
  /-- offset in the region -/
  ofs : Nat
  /-- its bytes -/
  data : List Byte
  /-- which of them are poisoned -/
  bad : List Bool
  /-- collective group and instance -/
  group : Nat
  /-- instance -/
  num : Nat
  /-- time in µs of its arrival -/
  since : Nat
  deriving DecidableEq, Repr

/-! ## Cuffs, ports and the Xobex transport ("Cuffs, Ethernet and the Xobex transport") -/

/-- A Cuff block (Tables 12.13 to 12.15). -/
structure Cuff where
  /-- `MODE` -/
  mode : Nat
  /-- `ENABLE` -/
  enable : Bool
  /-- `PFC_EN` -/
  pfcEn : Bool
  /-- `AN_EN` -/
  anEn : Bool
  /-- `PFC_PRIO` -/
  prio : Nat
  /-- `MEDIA` -/
  media : Nat
  /-- `PORT_UP` -/
  portUp : BitVec 8
  /-- `TRAINING` -/
  training : Bool
  /-- `FAILED` -/
  failed : Bool
  /-- `QUEUED` -/
  queued : Bool
  /-- `MODE_NOW` -/
  modeNow : Nat
  /-- verifications failed in a row -/
  fails : Nat
  /-- the peer has sent XOFF for `PFC_PRIO` -/
  paused : Bool
  /-- the receive buffer holds more than 768 KiB, or has not fallen below 512 KiB since -/
  full : Bool
  /-- a lane failed the loopback test of step 12 (R469) -/
  laneFail : Bool
  /-- received PAUSE frames -/
  pauses : Nat
  /-- `CUFF_FEC` -/
  fec : Dword
  /-- `CUFF_FEC_UE` -/
  fecUe : Word
  /-- `CUFF_RETRAINS` -/
  retrains : Word
  /-- `CUFF_TX` -/
  tx : Dword
  /-- `CUFF_RX` -/
  rx : Dword
  /-- `CUFF_RX_DROP` -/
  rxDrop : Word
  /-- `CUFF_CE` -/
  ce : Word
  /-- `CUFF_PFC_TX` -/
  pfcTx : Word
  /-- `CUFF_PFC_RX` -/
  pfcRx : Word
  deriving DecidableEq, Repr

/-- A Cuff after a whole-part reset: `CUFF_CTRL` 0x0000_0340. -/
def Cuff.init : Cuff :=
  { mode := 0, enable := false, pfcEn := false, anEn := true, prio := 3, media := 0, portUp := 0, training := false, failed := false,
    queued := false, modeNow := 0, fails := 0, paused := false, full := false, laneFail := false, pauses := 0, fec := 0, fecUe := 0, retrains := 0, tx := 0, rx := 0,
    rxDrop := 0, ce := 0, pfcTx := 0, pfcRx := 0 }

/-- A port's addresses (R336). -/
structure PortCfg where
  /-- IPv4 address, if valid -/
  ip4 : Option Nat
  /-- IPv6 address, if valid -/
  ip6 : Option Nat
  /-- VLAN identifier, if tagged -/
  vlan : Option Nat
  /-- MAC address of the next hop -/
  nextHop : Nat
  deriving DecidableEq, Repr

/-- A port without addresses. -/
def PortCfg.init : PortCfg := { ip4 := none, ip6 := none, vlan := none, nextHop := 0 }

/-- A frame sent other than a Xobex datagram. -/
inductive NetReply where
  /-- ARP reply of a port for its address, to a MAC and IPv4 address -/
  | arp (port mac ip : Nat)
  /-- neighbour advertisement of a port, to a MAC and IPv6 address -/
  | na (port mac ip : Nat)
  /-- echo reply of a port to an address, with the payload of the request -/
  | echo (port addr : Nat) (data : List Byte)
  /-- XOFF or XON of a Cuff for its priority -/
  | pfc (cuff : Nat) (off : Bool)
  deriving DecidableEq, Repr

/-- A peer entry (Table 12.3). -/
structure Peer where
  /-- `STATE` -/
  st : Nat
  /-- paths 0 to 7: valid, address, local port -/
  paths : List (Bool × Nat × Nat)
  deriving DecidableEq, Repr

/-- An unused entry. -/
def Peer.init : Peer := { st := 0, paths := [] }

/-- A packet of a send context (R341, R344). -/
structure XSend where
  /-- header, and payload of a control packet -/
  pkt : XPkt
  /-- DA from which the payload is read at every transmission -/
  src : Option Nat
  /-- the core charged with what the engine reads, if a job sends it -/
  owner : Option Nat
  /-- retransmissions -/
  attempts : Nat
  /-- retransmitted within the present timeout -/
  recent : Bool
  /-- an ACK's map shows it received -/
  seen : Bool
  /-- its message -/
  mid : Nat
  deriving DecidableEq, Repr

/-- What a sent message is for. -/
inductive XKind where
  /-- an `XWRITE` or `XPOST` of a queue -/
  | write (qn : Nat)
  /-- an `XREAD` of a queue into a DA -/
  | read (qn lda : Nat)
  /-- a chunk fetched by a collective: group, instance, phase, rank, chunk -/
  | fetch (group num phase rank chunk : Nat)
  /-- an answer to a peer's read, or a control payload -/
  | other
  deriving DecidableEq, Repr

/-- A message that has started and not completed locally (R352). -/
structure XMsg where
  /-- `MSG_ID` -/
  id : Nat
  /-- kind -/
  kind : XKind
  /-- `LCMPL` -/
  lcmpl : Word
  /-- partition node of its job, if it has one -/
  node : Option Nat
  /-- packets not yet acknowledged -/
  left : Nat
  /-- bytes asked for and not yet received -/
  bytes : Nat
  deriving DecidableEq, Repr

/-- A send context (R340, R341, R344, R346, R347). -/
structure SendCtx where
  /-- next `PSN` -/
  next : Word
  /-- next `MSG_ID` -/
  msg : Word
  /-- packets sent and not acknowledged, in `PSN` order -/
  unacked : List XSend
  /-- packets that wait for the window or for a path -/
  queue : List XSend
  /-- messages started and not completed locally, in order -/
  msgs : List XMsg
  /-- retransmission timeout in µs -/
  rto : Nat
  /-- time in µs of the last advance, or of the first packet unacknowledged since -/
  progress : Nat
  /-- R in Gb/s; none while it is Rmax -/
  rate : Option Rat
  /-- time in µs of the last decrease, plus one -/
  lastCut : Nat
  /-- time in µs of the last `ECE`, or increase -/
  calm : Nat
  deriving DecidableEq, Repr

/-- A context when its peer is armed. -/
def SendCtx.init : SendCtx :=
  { next := 0, msg := 0, unacked := [], queue := [], msgs := [], rto := 20, progress := 0, rate := none, lastCut := 0, calm := 0 }

/-- A message whose packets arrive (R352, R354). -/
structure RxMsg where
  /-- `MSG_ID` -/
  id : Nat
  /-- `CMPL` -/
  cmpl : Word
  /-- partition node of its job -/
  node : Option Nat
  /-- bytes or posts handed on and not yet accepted -/
  pending : Nat
  /-- its last packet has committed -/
  whole : Bool
  /-- refused -/
  refused : Bool
  deriving DecidableEq, Repr

/-- A receive context (R342, R343). -/
structure RecvCtx where
  /-- next expected `PSN` -/
  expect : Word
  /-- packets held out of order -/
  held : List XPkt
  /-- packets committed since the last ACK -/
  since : Nat
  /-- time in ticks of the oldest arrival not acknowledged, plus one -/
  oldest : Nat
  /-- a packet since the last ACK carried CE -/
  ce : Bool
  /-- time in ticks of the last ACK for an arrival out of order, plus one -/
  lastOoo : Nat
  /-- ACKs sent -/
  acks : Nat
  /-- messages not yet completed remotely, in order -/
  msgs : List RxMsg
  /-- committed packets whose bytes wait to be accepted (R355) -/
  waiting : List XPkt
  deriving DecidableEq, Repr

/-- A receive context when its peer is armed. -/
def RecvCtx.init : RecvCtx :=
  { expect := 0, held := [], since := 0, oldest := 0, ce := false, lastOoo := 0, acks := 0, msgs := [], waiting := [] }

/-- A Xobex queue (Table 12.7). -/
structure XQueue where
  /-- `RING` -/
  ring : Nat
  /-- `SIZE_LOG2` -/
  log2 : Nat
  /-- `OWNER` -/
  owner : Nat
  /-- `BELL` -/
  bell : Nat
  /-- `CONSUMED` -/
  consumed : Word
  /-- `JOB_TAG` -/
  tag : Word
  /-- `NODE` -/
  node : Nat
  /-- `STATE` -/
  st : Nat
  /-- descriptors read and not started -/
  todo : List XDesc
  /-- messages started and not completed locally -/
  busy : Nat
  deriving DecidableEq, Repr

/-- A queue that is not configured. -/
def XQueue.init : XQueue :=
  { ring := 0, log2 := 0, owner := 0, bell := 0, consumed := 0, tag := 0, node := 0, st := 0, todo := [], busy := 0 }

/-- A collective group (Table 12.11). -/
structure Group where
  /-- partition node -/
  node : Nat
  /-- this part's rank -/
  rank : Nat
  /-- `JOB_TAG` -/
  tag : Word
  /-- parts by rank -/
  parts : List Nat
  /-- instances started since the entry was written -/
  count : Nat
  deriving DecidableEq, Repr

/-- Where a collective instance stands (R359, R360). -/
inductive CollPhase where
  /-- waits for `READY` of every rank -/
  | ready
  /-- fetches and reduces its shard -/
  | reduce
  /-- an all-reduce waits for, or fetches, the other shards -/
  | gather
  deriving DecidableEq, Repr

/-- A collective instance in progress (R358 to R361). -/
structure CollInst where
  /-- group -/
  group : Nat
  /-- instance -/
  num : Nat
  /-- queue -/
  qn : Nat
  /-- descriptor -/
  d : XDesc
  /-- phase -/
  phase : CollPhase
  /-- ranks whose `READY` has arrived -/
  ready : List Nat
  /-- ranks whose `READY` for the gather phase has arrived -/
  ready2 : List Nat
  /-- ranks whose `FETCHED` has arrived -/
  fetched : List Nat
  /-- (rank, chunk) still to fetch -/
  todo : List (Nat × Nat)
  /-- (rank, chunk) asked for -/
  asked : List (Nat × Nat)
  /-- bytes and marks received of the chunks being reduced: chunk × 1024 + rank -/
  got : Tbl (List (Option Byte))
  /-- chunks of this part not yet written -/
  left : Nat
  /-- chunks of the own shard yet to copy, of an all-gather, or to take, of a reduction of one part -/
  own : List Nat
  /-- result bytes that wait for their region: DA, bytes, marks (Table 6.3) -/
  outs : List (Nat × List Byte × List Bool)
  deriving DecidableEq, Repr

/-- A collective message that came before its instance started here: a `READY` or `FETCHED`. -/
structure CollEarly where
  /-- group -/
  group : Nat
  /-- instance -/
  num : Nat
  /-- rank -/
  rank : Nat
  /-- operation, `DTYPE` and count of a `READY`; none for `FETCHED` -/
  ready : Option (Nat × Nat × Nat)
  deriving DecidableEq, Repr

/-- How far the common start of a job on several parts has come (R363). -/
structure Sync where
  /-- `JOB_TAG` -/
  tag : Nat
  /-- this part's own load has passed its validation -/
  own : Bool
  /-- parts of the job -/
  parts : List Nat
  /-- parts whose `READY` rank 0 holds -/
  ready : List Nat
  /-- status of the first `ABORT` held, or carried -/
  abort : Option Nat
  /-- `GO` sent or received -/
  go : Bool
  /-- rank 0 has sent `ABORT` -/
  aborted : Bool
  /-- time in µs from which the 10 s count -/
  since : Nat
  /-- the validated image of this part's own load -/
  image : List Byte
  deriving DecidableEq, Repr

/-- Fabric pace of a node (R365, Table 12.16). -/
structure XPace where
  /-- `XWAIT` -/
  xwait : Nat
  /-- `LATE_PART` -/
  late : Nat
  /-- windows since the job started -/
  windows : Word
  /-- `PACE_CYC` and gate-wait cycles of the job's cores at the last boundary -/
  base : Nat × Nat
  /-- window and part of each `READY` that arrived last -/
  lates : List (Nat × Nat)
  deriving DecidableEq, Repr

/-- A node without a job on several parts. -/
def XPace.init : XPace := { xwait := 0, late := 0, windows := 0, base := (0, 0), lates := [] }

/-- A Xobex datagram sent: the path's port and the packet. -/
structure XOut where
  /-- local port -/
  port : Nat
  /-- packet -/
  pkt : XPkt
  deriving DecidableEq, Repr

/-- The fabric (Tables 12.7, 12.11, 12.16). -/
structure Fabric where
  /-- part index (`SYS_INDEX`) -/
  index : Option Nat
  /-- ports 0 to 63 -/
  ports : Tbl PortCfg
  /-- Cuffs waiting to retrain, in request order -/
  line : List Nat
  /-- peers by part index -/
  peers : Tbl Peer
  /-- send contexts: part × 2 + `CTX` -/
  send : Tbl SendCtx
  /-- receive contexts: part × 2 + `CTX` -/
  recv : Tbl RecvCtx
  /-- Xobex queues by QN -/
  queues : Tbl XQueue
  /-- the queue served last -/
  turn : Nat
  /-- groups -/
  groups : Tbl (Option Group)
  /-- collective instances in progress, in order of start -/
  insts : List CollInst
  /-- collective messages without an instance yet -/
  early : List CollEarly
  /-- chunks on their way to landing units, in order -/
  deliver : List LandChunk
  /-- chunks held by landing units, in order of arrival -/
  landed : List LandChunk
  /-- common starts -/
  syncs : List Sync
  /-- pace by node -/
  pace : Tbl XPace
  /-- management messages received: part and payload -/
  mgmt : List (Nat × List Byte)
  /-- datagrams sent, newest last -/
  out : List XOut
  /-- other frames sent, newest last -/
  replies : List NetReply
  /-- `UDP_PORT` -/
  udpPort : Half
  /-- `MAXPAY` -/
  maxPay : BitVec 2
  /-- `DSCP_DATA` -/
  dscpData : BitVec 6
  /-- `DSCP_MGMT` -/
  dscpMgmt : BitVec 6
  /-- `LOCK` -/
  lock : Bool
  /-- `XOB_LASTF` -/
  lastF : Word
  /-- `XOB_TX` -/
  tx : Dword
  /-- `XOB_RX` -/
  rx : Dword
  /-- `XOB_RETX` -/
  retx : Word
  /-- `XOB_RTO` -/
  rto : Word
  /-- `XOB_REORD` -/
  reord : Word
  /-- `XOB_ICRC` -/
  icrc : Word
  /-- `XOB_NAK` -/
  nak : Word
  /-- `XOB_DISC` -/
  disc : Word
  /-- `XOB_INST` -/
  instCount : Word
  /-- `XOB_LOST` -/
  lost : Word
  deriving DecidableEq, Repr

/-- The fabric after a whole-part reset (Tables 12.16, 12.17). -/
def Fabric.init : Fabric :=
  { index := none, ports := [], line := [], peers := [], send := [], recv := [], queues := [], turn := 0, groups := [], insts := [],
    early := [], deliver := [], landed := [], syncs := [], pace := [], mgmt := [], out := [], replies := [], udpPort := 0x181C, maxPay := 2,
    dscpData := 0x1A, dscpMgmt := 0x34, lock := false, lastF := 0, tx := 0, rx := 0, retx := 0, rto := 0, reord := 0, icrc := 0,
    nak := 0, disc := 0, instCount := 0, lost := 0 }
/-! ## The part -/

/-- The whole part. -/
structure State where
  /-- logical cores by number; unlisted: `Core.init` -/
  cores : Tbl Core
  /-- sites by index; unlisted: `SiteRec.init` -/
  sites : Tbl SiteRec
  /-- loaded jobs, in order of loading (R536) -/
  jobs : List Job
  /-- pace evaluation by logical core (R158) -/
  pace : Tbl PaceRec
  /-- gate increments in flight between cores, in order of sending (R142) -/
  sends : List Send
  /-- blame records in flight (R157) -/
  blames : List Blame
  /-- memory -/
  mem : MemState
  /-- Orangery stacks, O0 to O5; unlisted: `Stack.init` -/
  orgs : Tbl Stack
  /-- bring-up -/
  boot : Boot
  /-- flash of the Kiosk -/
  flash : Flash
  /-- health -/
  hlt : Health
  /-- registers of the window -/
  mgmt : Mgmt
  /-- owner area: copies 0 and 1 (R535) -/
  owner : List OwnerCopy
  /-- board controller path -/
  ksk : Kiosk
  /-- `CLUSTER_DESC` by cluster, as the last map build left them; unlisted: 0xF80 (Table 1.5) -/
  clusters : Tbl Word
  /-- rows whose map has a pending change (R475) -/
  rowPending : Tbl Bool
  /-- clock regions 0 to 4 -/
  regions : Tbl ClockRegion
  /-- TSV bundles: Seam × 220 + position -/
  bundles : Tbl Bundle
  /-- `SEAM_HLT` by Seam -/
  seams : Tbl SeamHealth
  /-- retune requests that wait, oldest first: Seam × 220 + position (R43) -/
  retunes : List Nat
  /-- partition nodes 1 to 63 -/
  ptn : Tbl PtnNode
  /-- partition nodes that read `BUSY` -/
  busy : List Nat
  /-- power -/
  pwr : Power
  /-- temperature -/
  thm : Thermal
  /-- expert settings that differ from their defaults, by identifier (R388, R423, R454) -/
  settings : Tbl (Option Nat)
  /-- the partial reset the Kiosk carries out -/
  rst : Option ResetRun
  /-- the Trellis -/
  tr : Trellis
  /-- host interface -/
  hif : Hif
  /-- serving bindings by logical core -/
  sv : Tbl (Option Binding)
  /-- training blocks by partition node -/
  trn : Tbl Training
  /-- Cuffs 0 to 7 -/
  cuffs : Tbl Cuff
  /-- the fabric -/
  fab : Fabric
  /-- host memory by PCIe address; unlisted bytes read 0 (log 10) -/
  hostMem : Tbl Byte
  /-- pages of host memory, by address / 4096, whose PCIe requests end with an error (log 10) -/
  hostBad : Tbl Bool
  /-- notification log -/
  notes : NoteState
  /-- health events -/
  events : EventState
  /-- time of the part in fabric cycles since the last whole-part reset (log 6) -/
  ticks : Nat
  /-- commands that wait by a rule of the spec, in order of arrival (log 2) -/
  held : List Instr
  /-- the model's count of free values drawn (log 3); no statement rests on its value -/
  draws : Nat
  /-- commands that are waiting, first in first out -/
  pending : List Instr
  deriving DecidableEq, Repr

/-- Why the part stops with a fault: no rule of the spec asks for one, so no constructor is raised. -/
inductive Fault where
  /-- Raised by nothing. Were it raised, it would be safe: the model stops where the part goes on. -/
  | none
  deriving DecidableEq, Repr

/-- Why a command has no meaning. -/
inductive Refusal where
  /-- Raised only by the arms of commands without a meaning yet. Safe: the model stops where the part goes on. -/
  | notModelled (mnemonic : String)
  deriving DecidableEq, Repr

/-- The outcome of a command. -/
abbrev Out := Host.Outcome State Fault Refusal

/-- The part at reset: VIN_AUX has just entered its range, before step 1 of bring-up (R457, log 1). -/
def State.reset : State :=
  { cores := [], sites := [], jobs := [], pace := [], sends := [], blames := [], mem := MemState.init, orgs := [], boot := Boot.init, flash := Flash.init, hlt := Health.init, mgmt := Mgmt.init, owner := [.blank, .blank], ksk := Kiosk.init, clusters := [], rowPending := [], regions := [], bundles := [], seams := [], retunes := [], ptn := [],
    busy := [], pwr := Power.init, thm := Thermal.init, settings := [], rst := none, tr := Trellis.init,
    hif := Hif.init, sv := [], trn := [], cuffs := [], fab := Fabric.init, hostMem := [], hostBad := [],
    notes := { log := [], next := 0, fresh := 0, lost := 0 },
    events := { queue := [], next := 0, lastSeq := 0, suppressed := [], last := [], discarded := 0 }, ticks := 0, held := [], draws := 0,
    pending := [] }

end Sys2Proof.Machine
end

