-- ==== Sys2Proof/Machine/Ops.lean ====
section
/-! DEFINITION. The named operations that the meanings share: reading and changing a core, waiting, gate increments,
faulting a job, the passing of a cycle, reports. -/

namespace Sys2Proof.Machine

/-! ## Cores, sites and jobs -/

/-- Logical core `lc`. -/
def State.core (s : State) (lc : Nat) : Core := Tbl.get Core.init s.cores lc

/-- The part with logical core `lc` replaced. -/
def State.setCore (s : State) (lc : Nat) (c : Core) : State := { s with cores := Tbl.set Core.init s.cores lc c }

/-- The part with logical core `lc` changed by `f`. -/
def State.modCore (s : State) (lc : Nat) (f : Core → Core) : State := s.setCore lc (f (s.core lc))

/-- Site `i`. -/
def State.site (s : State) (i : Nat) : SiteRec := Tbl.get SiteRec.init s.sites i

/-- The part with site `i` changed by `f`. -/
def State.modSite (s : State) (i : Nat) (f : SiteRec → SiteRec) : State :=
  { s with sites := Tbl.modify SiteRec.init s.sites i f }

/-- The cluster of a logical core: one row of one layer (R22, R30). -/
def clusterOf (lc : Nat) : Nat := lc / 20

/-- The site index of physical column `col` in the row of cluster `cl` (R20, R30). -/
def rowSite (cl col : Nat) : Nat := cl / 10 * 220 + cl % 10 * 22 + col

/-- The site that holds logical core `lc`, by the logical map (R22, R23). -/
def State.siteOf (s : State) (lc : Nat) : Option Nat :=
  ((List.range 22).map (rowSite (clusterOf lc))).find? (fun i =>
    (s.site i).state = 1 && (s.site i).lcol.toNat = lc % 20)

/-- The clock region of a cluster: its row divided by 2 (R35). -/
def regionOf (cl : Nat) : Nat := cl % 10 / 2

/-- Does the job cover the logical core? -/
def Job.covers (j : Job) (lc : Nat) : Bool := j.mask.getLsbD (clusterOf lc)

/-- The loaded job of a logical core, if any (R536). -/
def State.jobOf (s : State) (lc : Nat) : Option Job := s.jobs.find? (fun j => j.covers lc)

/-- The loaded job on a partition node, if any. -/
def State.jobAt (s : State) (node : Nat) : Option Job := s.jobs.find? (fun j => j.node = node)

/-- The part with the job on a node changed by `f`. -/
def State.modJob (s : State) (node : Nat) (f : Job → Job) : State :=
  { s with jobs := s.jobs.map (fun j => if j.node = node then f j else j) }

/-- The logical cores of a job, in ascending order. -/
def Job.cores (j : Job) : List Nat := (List.range 800).filter j.covers

/-- A job is running while it is loaded and has neither ended nor faulted (R536, R154). -/
def Job.isRunning (j : Job) : Bool :=
  match j.phase with
  | .loading => true
  | .running => true
  | .faulting => true
  | .faulted => false
  | .ended => false

/-- Microseconds since the last whole-part reset (log 6). -/
def State.us (s : State) : Nat := s.ticks / 1600

/-! ## Reports -/

/-- Post a record in the notification log: at most 256 records, the oldest overwritten; one not yet returned is counted
in `NOTE_LOST` (R389). -/
def notify (s : State) (cls : Nat) (payload : List Byte) : State :=
  let n := s.notes
  let r : Note := { seq := n.next, cls := cls, time := s.us, payload := payload, read := false }
  let full := 256 ≤ n.log.length
  let lost := full && !(n.log.head?.any (·.read))
  { s with notes := { n with
      log := (if full then n.log.tail else n.log) ++ [r]
      next := n.next + 1
      fresh := n.fresh + 1
      lost := if lost then n.lost + 1 else n.lost } }

/-- The severity of a health event (R498). -/
def severity (cls sub : Nat) : Nat :=
  if cls = 5 || (cls = 3 && sub = 2) || cls = 6 || (cls = 7 && (sub = 1 || sub = 11)) || (cls = 10 && (sub = 1 || sub = 2)) then 2
  else if (cls = 1 && (sub = 1 || sub = 2)) || cls = 4 || (cls = 7 && (sub = 4 || sub = 6 || sub = 8 || sub = 10 || sub = 12))
    || (cls = 8 && sub = 1) || (cls = 9 && sub = 1) then 1
  else 0

/-- The bytes of a health event record (Table 17.2). -/
def HealthEvent.bytes (e : HealthEvent) : List Byte :=
  leBytes 2 e.seq.toNat ++ leBytes 1 e.cls ++ leBytes 1 e.sub ++ leBytes 1 e.sev ++ leBytes 1 0 ++ leBytes 2 e.suppressed
    ++ leBytes 8 e.time ++ leBytes 4 e.boot ++ leBytes 4 0 ++ e.payload

/-- Microseconds since VIN_AUX entered its range (log 6). -/
def State.auxUs (s : State) : Nat := (s.boot.epoch + s.ticks) / 1600

/-- Send a message of the board controller path. -/
def sendMctp (s : State) (i3c : Bool) (dst : Byte) (b : MctpBody) : State :=
  { s with ksk := { s.ksk with sent := s.ksk.sent ++ [{ i3c := i3c, dst := dst, body := b }] } }

/-- Without a receiver the newest 64 events are held, and older ones discarded, counted (R392, R499). -/
def keepEvents (s : State) : State :=
  let n := s.events.queue.length - 64
  if s.ksk.receiver.isSome || n = 0 then s
  else { s with
    events := { s.events with queue := s.events.queue.drop n, discarded := satAdd s.events.discarded n }
    ksk := { s.ksk with dropped := satAdd s.ksk.dropped n } }

/-- An event joins those not yet accepted, and is sent to the event receiver if there is one (R392). -/
def queueEvent (s : State) (e : PldmEvent) : State :=
  match s.ksk.receiver with
  | some r =>
    sendMctp { s with events := { s.events with queue := s.events.queue ++ [{ ev := e, sentAt := s.auxUs + 1 }] } } r.1 r.2 (.event e)
  | none => keepEvents { s with events := { s.events with queue := s.events.queue ++ [{ ev := e, sentAt := 0 }] } }

/-- Send a health event: to the event receiver, and posted to the host as notification class 0x0D (R498). -/
def healthEvent (s : State) (cls sub : Nat) (payload : List Byte) : State :=
  let v := s.events
  let key := cls
  let e : HealthEvent := {
    seq := v.next, cls := cls, sub := sub, sev := severity cls sub,
    suppressed := Tbl.get 0 v.suppressed key, time := s.us, boot := s.boot.seq.toNat, payload := payload }
  notify (queueEvent { s with events := { v with next := v.next + 1, lastSeq := v.next, suppressed := Tbl.set 0 v.suppressed key 0 } } (.health e))
    0x0D e.bytes

/-- Send a health event at most once per `limit` µs and subject; a suppressed one advances the count that the next event
of its class reports, which saturates (R498, Table 17.3). -/
def healthEventLimited (s : State) (cls sub subject limit : Nat) (payload : List Byte) : State :=
  let key := cls
  let k := (cls * 256 + sub) * 2 ^ 64 + subject
  let last := Tbl.get 0 s.events.last k
  if last ≠ 0 && s.us < last - 1 + limit then
    { s with events := { s.events with suppressed := Tbl.modify 0 s.events.suppressed key (fun n => min 65535 (n + 1)) } }
  else healthEvent { s with events := { s.events with last := Tbl.set 0 s.events.last k (s.us + 1) } } cls sub payload

/-! ## Stacks and regions (R162, R258) -/

/-- Stack `k`. -/
def State.stack (s : State) (k : Nat) : Stack := Tbl.get Stack.init s.orgs k

/-- The part with stack `k` changed. -/
def State.modStack (s : State) (k : Nat) (f : Stack → Stack) : State :=
  { s with orgs := Tbl.modify Stack.init s.orgs k f }

/-- Region index `r`. -/
def Stack.region (t : Stack) (r : Nat) : Region := Tbl.get Region.init t.regions r

/-- Region index `r` of stack `k`. -/
def State.region (s : State) (k r : Nat) : Region := (s.stack k).region r

/-- A region in bank mode: not `NORMAL` (R258). -/
def Region.banked (r : Region) : Bool := r.bank ≠ .normal

/-- The holder of the stack, if a region is in bank mode (R258). -/
def Stack.holder (t : Stack) : Option Holder := (t.regions.find? (fun e => e.2.banked)).map (fun e => e.2.holder)

/-! ## Broadcasts (R239) -/

/-- The time at which the next broadcast leaves the Kiosk, which has at most 32 in flight. -/
def Trellis.leaves (t : Trellis) (now : Nat) : Nat :=
  let fl := t.bcasts.filter (fun x => now < x + 320)
  if fl.length < 32 then now else max now (fl.getD (fl.length - 32) now + 320)

/-- The Kiosk sends a broadcast: every router of the graph forwards it and sees its sequence number (R239). -/
def broadcast (s : State) : State :=
  let q := s.tr.bseq + 1
  { s with tr := { s.tr with
      bseq := q
      bcasts := s.tr.bcasts.filter (fun t => s.ticks < t + 320) ++ [s.tr.leaves s.ticks]
      routers := s.tr.routers.map (fun e => (e.1, if e.2.present then { e.2 with bcast := q, pkt := bump e.2.pkt 1 } else e.2)) } }

/-! ## Waiting -/

/-- The core whose bundle a command is a slot of, if it is one. -/
def slotCore : Instr → Option Nat
  | .anop c => some c
  | .mac c .. => some c
  | .macz c .. => some c
  | .aclr c _ => some c
  | .aramp c => some c
  | .linePortReadout c .. => some c
  | .linePortLoad c .. => some c
  | .fnop c _ => some c
  | .fblk c .. => some c
  | .fgath c .. => some c
  | .fflush c _ => some c
  | .vnop c => some c
  | .vadd c _ => some c
  | .vsub c _ => some c
  | .vmul c _ => some c
  | .vfma c _ => some c
  | .vmin c _ => some c
  | .vmax c _ => some c
  | .vclt c _ => some c
  | .vceq c _ => some c
  | .vsel c _ => some c
  | .vmov c _ => some c
  | .vcvt c _ => some c
  | .vext c _ => some c
  | .vexp2 c _ => some c
  | .vlog2 c _ => some c
  | .vrcp c _ => some c
  | .vrsqrt c _ => some c
  | .vtanh c _ => some c
  | .vsigm c _ => some c
  | .vrsumr c _ => some c
  | .vrmaxr c _ => some c
  | .vrsumc c _ => some c
  | .vrmaxc c _ => some c
  | .vrsum c _ => some c
  | .vrmax c _ => some c
  | .vsmstat c _ => some c
  | .vsmexp c _ => some c
  | .vmask c _ => some c
  | .vdrop c _ => some c
  | .vld c _ => some c
  | .vst c _ => some c
  | .gnop c => some c
  | .gwait c .. => some c
  | .gpeek c .. => some c
  | .ginc c .. => some c
  | .gsend c .. => some c
  | .gloop c .. => some c
  | .gjump c .. => some c
  | .gseg c .. => some c
  | .gphase c _ => some c
  | .gpause c _ => some c
  | .gend c => some c
  | .mnop c => some c
  | .mcopy c _ => some c
  | .mclear c _ => some c
  | _ => none

/-- Put a command among those that wait (log 2). -/
def State.hold (s : State) (i : Instr) : State := { s with held := s.held ++ [i] }

/-- A slot operation cannot issue yet: an earlier one of its core waits, or the core is paused or in planned slack
(R140, R141, R147, R155). -/
def State.blocked (s : State) (lc : Nat) : Bool :=
  s.held.any (fun i => slotCore i = some lc) || (s.core lc).seq.paused || 0 < (s.core lc).seq.pauseLeft

/-- A core that issues nothing any more: its program ended, or a fault or a halt stopped it (R148, R154). -/
def Core.dead (c : Core) : Bool := c.seq.ended || c.seq.stopped

/-- The issue of a slot operation `i` of core `lc`: nothing on a core that has ended or stopped; held behind an earlier
waiting one; held, with the wait counted by `count`, while `wait` holds; otherwise `act` (R140, R141, R91). -/
def slotIssue (i : Instr) (lc : Nat) (s : State) (wait : Bool) (count : Core → Core) (act : State) : Out :=
  if (s.core lc).dead then .next s
  else if s.blocked lc then .next (s.hold i)
  else if wait then .next ((s.modCore lc count).hold i)
  else .next act

/-! ## Faulting a job -/

/-- The value of `CONTRACT_FAULT` (Table 5.20). -/
def contractFault (source : Nat) (first : Bool) (code bundle : Nat) : Word :=
  BitVec.ofNat 32 (source + b2n first * 8 + code * 16 + bundle % 8192 * 65536)

/-- Stop a core with its fault recorded. -/
def Core.stop (c : Core) (fault aux : Word) : Core :=
  { c with seq := { c.seq with stopped := true, running := false, fault := fault, aux := aux, gwaitLen := 0, waitTicks := 0 } }

/-- A checked hazard or a fault routed to the job: the core stops issue and writes `CONTRACT_FAULT`, with `FIRST` on the
first core of the job to fault; the job is faulting and its halt broadcast is on its way (R153, R154). A job that is
already faulted raises no second fault (R212). -/
def faultCore (s : State) (lc source code bundle : Nat) (aux : Word) : State :=
  match s.jobOf lc with
  | none => s.modCore lc (fun c => c.stop (contractFault source true code bundle) aux)
  | some j =>
    match j.phase with
    | .faulted => s
    | .ended => s
    | .faulting =>
      if (s.core lc).seq.stopped then s
      else s.modCore lc (fun c => c.stop (contractFault source false code bundle) aux)
    | _ =>
      broadcast ((s.modCore lc (fun c => c.stop (contractFault source true code bundle) aux)).modJob j.node
        (fun j => { j with phase := .faulting, first := some lc }))

/-! ## Gates -/

/-- The count of a gate. -/
def Core.gate (c : Core) (g : Nat) : Nat := (Tbl.get 0 c.seq.gates g).toNat

/-- A core with a gate count set. -/
def Core.setGate (c : Core) (g n : Nat) : Core :=
  { c with seq := { c.seq with gates := Tbl.set 0 c.seq.gates g (BitVec.ofNat 24 n) } }

/-- The other logical core that `FAULT_AUX` names for an increment. -/
def IncSrc.aux : IncSrc → Nat
  | .core lc => lc
  | .unit => 0
  | .fabric => 0

/-- Apply an increment of `n` to gate `g` of core `lc`: added, or on overflow not applied and recorded as
`GATE_OVERFLOW` (R142). -/
def incGate (s : State) (lc g n : Nat) (src : IncSrc) : State :=
  let c := s.core lc
  if c.gate g + n > 16777215 then
    faultCore s lc 3 0x01 c.seq.next (BitVec.ofNat 32 (src.aux + g * 65536))
  else
    s.setCore lc { c.setGate g (c.gate g + n) with
      seq := { (c.setGate g (c.gate g + n)).seq with recent := c.seq.recent ++ [(g, src)] } }

/-! ## Cycles -/

/-- The linger of the shaping mode: 256 cycles in hold mode, 16 in ramp mode, none in a pause (R95, R97). -/
def Core.linger (c : Core) : Nat := if c.seq.paused then 0 else if c.arr.ramp then 16 else 256

/-- The level that Table 3.5 gives after n non-active cycles with linger λ. -/
def levelAfter (n linger : Nat) : Nat := if n ≤ linger then 8 else 8 - (n - linger) / 4

/-- One cycle of a core ends: shaping counts, activity counters and the rise (R93, R95, R99, R159); a cycle with `fill` false
counts in no counter of Table 3.6 (R141). -/
def Core.cycleEnds (c : Core) (fill : Bool) : Core :=
  { c with
    arr := { c.arr with
      opTile := none
      active := false
      fresh := false
      fall := false
      riseCyc := if c.arr.rising then c.arr.riseCyc + 1 else 0
      quiet := if c.arr.active || c.arr.rising || c.arr.fresh then 0 else c.arr.quiet + 1
      act := if c.arr.active then bump c.arr.act 1 else c.arr.act
      fill := if fill && !c.arr.active && 0 < c.arr.level then bump c.arr.fill 1 else c.arr.fill
      port := match c.arr.port with
        | some p => if c.seq.cycle + 1 < p.till then some p else none
        | none => none
      load := match c.arr.load with
        | some p => if c.seq.cycle + 1 < p.till then some p else none
        | none => none }
    seq := { c.seq with
      cycle := c.seq.cycle + 1
      cyc := if c.dead then c.seq.cyc else bump c.seq.cyc 1 } }

/-- One cycle of a core that counts in all its counters. -/
def Core.passCycle (c : Core) : Core := c.cycleEnds true

/-- Where the sequencer goes after the bundle at `idx` (R144): the innermost loop that ends there and has an iteration
left continues; loops that end there without one close. -/
def nextIndex (idx : Nat) : List Loop → Nat × List Loop
  | [] => (idx + 1, [])
  | l :: ls =>
    if l.last = idx then
      if 0 < l.left then (l.first, { l with left := l.left - 1, taken := l.taken + 1 } :: ls) else nextIndex idx ls
    else (idx + 1, l :: ls)

/-- The bundle of the core issues completely: counted, the next bundle chosen, the cycle over (R140, R144, R159). -/
def Core.endBundle (c : Core) : Core :=
  let n := nextIndex c.seq.next c.seq.loops
  ({ c with seq := { c.seq with
      next := n.1 % 8192, loops := n.2, issue := bump c.seq.issue 1, gwaitLen := 0, waitTicks := 0,
      recent := [], stage1Cyc := 0, stage2 := false } }).passCycle

/-- A fabric cycle in which the next bundle has failed its gate condition, the core not paused (R153). -/
def Core.waitTick (c : Core) : Core :=
  if 0 < c.seq.gwaitLen && !c.seq.paused then { c with seq := { c.seq with waitTicks := c.seq.waitTicks + 1 } } else c

/-- A free value is drawn: the count moves on by `n` (log 3). -/
def State.drawn (s : State) (n : Nat) : State := { s with draws := s.draws + n }

end Sys2Proof.Machine
end

