-- ==== Sys2Proof/Machine/Flags.lean ====
section
/-! DEFINITION. The numeric flags of a core and what sets them (R55, R60, R63, R71). -/

namespace Sys2Proof.Machine

/-- Set sticky flags of `NUM_FLAGS` (R71). -/
def Core.raise (c : Core) (f : Flags) : Core := { c with num := { c.num with flags := c.num.flags ||| f } }

/-- Count accumulator flushes; the counter stops at 0xFFFF_FFFF (R60, R71). -/
def Core.flushed (c : Core) (n : Nat) : Core :=
  { c with num := { c.num with flushCount := satAdd c.num.flushCount n } }

/-- The union of a list of flags. -/
def orFlags (l : List Flags) : Flags := l.foldl (· ||| ·) 0

/-- The number of flushes among the results of cells. -/
def countFlush (l : List (Word × Flags × Bool)) : Nat := (l.filter (fun r => r.2.2)).length

/-- The flags of a list of results. -/
def resultFlags (l : List (Word × Flags)) : Flags := orFlags (l.map (·.2))

end Sys2Proof.Machine
end

