-- ==== Sys2Proof/Machine/Memory.lean ====
section
/-! DEFINITION. Device memory with its check codes, merge buffers, valid bits, correct-on-read and error log
("Memory tiers, addressing and movers" R172, "Integrity of stored data"). -/

namespace Sys2Proof.Machine

/-! ## Addresses (R172) -/

/-- A device address from space, unit and offset. -/
def mkDa (space unit ofs : Nat) : Nat := space * 2 ^ 52 + unit * 2 ^ 40 + ofs

/-- DA[55:52], the space. -/
def daSpace (da : Nat) : Nat := bits da 55 52
/-- DA[51:40], the unit. -/
def daUnit (da : Nat) : Nat := bits da 51 40
/-- DA[39:0], the offset. -/
def daOfs (da : Nat) : Nat := bits da 39 0

/-- The plots, the Commons and the Orangery hold 32-byte symbol-coded words (Table 7.1). -/
def isDram (da : Nat) : Bool := 2 ≤ daSpace da && daSpace da ≤ 4

/-- The size of a unit of a space (Table 6.4). -/
def spaceSize (space : Nat) : Nat :=
  match space with
  | 0 => 0x180000
  | 1 => 0x800000
  | 2 => 0x9000000
  | 3 => 0x9000000
  | 4 => 2 ^ 40
  | _ => 0

/-- A cluster withdrawn for want of usable sites: its row maps no logical core (R28). -/
def State.withdrawn (s : State) (cl : Nat) : Bool :=
  ((List.range 22).filter (fun c => (s.site (rowSite cl c)).state = 1)).length < 20

/-- The site of Commons plot `n`: the lower or higher non-logical site of its row (R164). -/
def State.commonsSite (s : State) (n : Nat) : Option Nat :=
  let cl := n / 2
  if s.withdrawn cl then none
  else (((List.range 22).map (rowSite cl)).filter (fun i => (s.site i).state ≠ 1))[n % 2]?

/-- A Commons plot is present when its site is a gateway with a working vertical channel (R164). -/
def State.commonsPresent (s : State) (n : Nat) : Bool :=
  match s.commonsSite n with
  | none => false
  | some i => n < 80 && (s.site i).state = 2 && (s.site i).vchOk

/-- A unit that exists (R172, R28). -/
def State.unitPresent (s : State) (space unit : Nat) : Bool :=
  match space with
  | 0 => unit < 800 && !s.withdrawn (clusterOf unit)
  | 1 => unit < 800 && !s.withdrawn (clusterOf unit)
  | 2 => unit < 800 && !s.withdrawn (clusterOf unit)
  | 3 => s.commonsPresent unit
  | 4 => unit < 6
  | 8 => (unit < 800 && !s.withdrawn (clusterOf unit)) || unit = 0xFFF
  | _ => false

/-- The site whose stores hold a DA, for feeder, Canopy, plot and Commons (R20). -/
def State.daSite (s : State) (da : Nat) : Option Nat :=
  if daSpace da ≤ 2 then s.siteOf (daUnit da)
  else if daSpace da = 3 then s.commonsSite (daUnit da) else none

/-- The controller or store that a DA belongs to: one per Orangery channel, and one per plot, Canopy store and feeder store of a
site, whatever core or Commons number the site has (R194, Table 9.1). -/
def State.ctrlOf (s : State) (da : Nat) : Nat :=
  if daSpace da = 4 then 2 ^ 20 + daUnit da * 32 + bits da 14 10
  else (if daSpace da = 3 then 2 else daSpace da) * 4096 + (s.daSite da).getD 880

/-- A unit as its controller names it. -/
def trackedUnit (da : Nat) : Nat := if daSpace da = 4 then da else daOfs da

/-- The site whose error block counts an address: errors of the Commons and of the Orangery appear in the log only (R221). -/
def State.errSite (s : State) (da : Nat) : Option Nat := if daSpace da ≤ 2 then s.daSite da else none

/-! ## The symbol code (R195, R196) -/

/-- Multiplication in GF(2^8) modulo x^8 + x^4 + x^3 + x^2 + 1, bit by bit of the second factor. -/
def gfMul (a b : Nat) : Nat :=
  ((List.range 8).foldl (fun (r : Nat × Nat) k =>
    let acc := if bit b k then r.1 ^^^ r.2 else r.1
    let x := r.2 * 2
    (acc, if x ≥ 256 then (x ^^^ 0x11D) % 256 else x)) (0, a)).1

/-- α^n. -/
def gfPow : Nat → Nat
  | 0 => 1
  | n + 1 => gfMul (gfPow n) 2

/-- The four check symbols of a word's data: d(x) mod g(x), with d(x) = Σ byte k × x^(4+k) and g(x) = (x + α^0)(x + α^1)(x + α^2)(x + α^3),
whose coefficients below x^4 are α^6 = 0x40, 0x78, 0x36 and 0x0F (R195). -/
def checkSymbols (data : List Byte) : List Nat :=
  data.reverse.foldl (fun (r : List Nat) b =>
    let top := r.getD 3 0 ^^^ b.toNat
    [gfMul top 0x40, r.getD 0 0 ^^^ gfMul top 0x78, r.getD 1 0 ^^^ gfMul top 0x36, r.getD 2 0 ^^^ gfMul top 0x0F]) [0, 0, 0, 0]

/-- The code word of 32 data bytes: positions 0 to 3 hold the check symbols, 4 to 35 the data (R195). -/
def codeWord (data : List Byte) : List Byte := (checkSymbols data).map (BitVec.ofNat 8) ++ data

/-- Syndrome S_j of 36 symbols (R196). -/
def syndrome (j : Nat) (w : List Byte) : Nat :=
  (w.zipIdx).foldl (fun a e => a ^^^ gfMul e.1.toNat (gfPow (e.2 * j))) 0

/-- What decoding a unit gives (R196, Table 7.2). -/
inductive Decoded where
  /-- no error seen -/
  | clean
  /-- one symbol or bit corrected: position and error value -/
  | corrected (pos pattern : Nat)
  /-- uncorrectable -/
  | uncorrectable
  /-- poisoned -/
  | poisoned
  deriving DecidableEq, Repr

/-- The error pattern of a poisoned word: all check symbols inverted (R197). -/
def poisonWord : List Byte := List.replicate 4 0xFF#8 ++ List.replicate 32 0#8

/-- The four syndromes of an error pattern. -/
def syndromes (w : List Byte) : List Nat := (List.range 4).map (fun j => syndrome j w)

/-- Decode a word by its error pattern: the code is linear, so its syndromes are those of the error (R196). -/
def decodeWord (err : List Byte) : Decoded :=
  if err = [] then .clean
  else
    let s := syndromes err
    if s = [0, 0, 0, 0] then .clean
    else if s = syndromes poisonWord then .poisoned
    else
      let s0 := s.getD 0 0
      let s1 := s.getD 1 0
      if s0 ≠ 0 && s1 ≠ 0 then
        -- the position p with S1 = S0 α^p
        match (List.range 36).find? (fun p => gfMul s0 (gfPow p) = s1) with
        | none => .uncorrectable
        | some p =>
          let r := gfPow p
          if s.getD 2 0 = gfMul s1 r && s.getD 3 0 = gfMul (s.getD 2 0) r then .corrected p s0 else .uncorrectable
      else .uncorrectable

/-- An error pattern after correction of one symbol. -/
def fixWord (err : List Byte) : Decoded → List Byte
  | .corrected p v => err.modify p (fun b => b ^^^ BitVec.ofNat 8 v)
  | _ => err

/-- The 32 data bytes of a word, as the array and the remaining error give them. -/
def seenWord (data err : List Byte) : List Byte :=
  if err = [] then data else List.zipWith (· ^^^ ·) data (err.drop 4)

/-! ## The byte code (R198, R199) -/

/-- The five check bits of a byte (R198). -/
def byteCheck (b : Byte) : BitVec 5 :=
  let d := fun i => b.getLsbD i
  let c0 := d 0 ^^ d 1 ^^ d 3 ^^ d 4 ^^ d 6
  let c1 := d 0 ^^ d 2 ^^ d 3 ^^ d 5 ^^ d 6
  let c2 := d 1 ^^ d 2 ^^ d 3 ^^ d 7
  let c3 := d 4 ^^ d 5 ^^ d 6 ^^ d 7
  let c4 := d 0 ^^ d 1 ^^ d 2 ^^ d 3 ^^ d 4 ^^ d 5 ^^ d 6 ^^ d 7 ^^ c0 ^^ c1 ^^ c2 ^^ c3
  BitVec.ofNat 5 (b2n c0 + 2 * b2n c1 + 4 * b2n c2 + 8 * b2n c3 + 16 * b2n c4)

/-- The Hamming position of bit i of a coded byte: D[7:0] then C[3:0] (R198). -/
def hamPos (i : Nat) : Nat := [3, 5, 6, 7, 9, 10, 11, 12, 1, 2, 4, 8].getD i 0

/-- The syndrome s of a 13-bit pattern (R199). -/
def byteSyn (e : BitVec 13) : Nat :=
  (List.range 12).foldl (fun a i => if e.getLsbD i then a ^^^ hamPos i else a) 0

/-- The overall parity e of a 13-bit pattern (R199). -/
def byteParity (e : BitVec 13) : Bool := (List.range 13).foldl (fun a i => a ^^ e.getLsbD i) false

/-- The error pattern of a poisoned byte: all five check bits inverted (R199). -/
def poisonByte : BitVec 13 := 0x1F00#13

/-- Decode a byte by its error pattern (Table 7.2). -/
def decodeByte (e : BitVec 13) : Decoded :=
  let s := byteSyn e
  if byteParity e then
    if s = 0 then .corrected 13 0
    else if s ≤ 12 then .corrected s 0
    else if s = 15 then .poisoned else .uncorrectable
  else if s = 0 then .clean else .uncorrectable

/-- A byte pattern after correction of the bit at its position. -/
def fixByte (e : BitVec 13) : Decoded → BitVec 13
  | .corrected 13 _ => e ^^^ 0x1000#13
  | .corrected p _ =>
    match (List.range 12).find? (fun i => hamPos i = p) with
    | some i => e ^^^ BitVec.ofNat 13 (2 ^ i)
    | none => e
  | _ => e

/-! ## Plain bytes -/

/-- The canonical form of device memory: addresses rise strictly, and no entry equals what an unlisted address reads as. -/
def Memory.wf (m : MemState) : Bool := Tbl.wf 0 m.bytes

/-- The byte at a DA, without any check. -/
def State.byte (s : State) (da : Nat) : Byte := Tbl.get 0 s.mem.bytes da

/-- `n` bytes from a DA, without any check. -/
def State.bytesAt (s : State) (da n : Nat) : List Byte := (List.range n).map (fun i => s.byte (da + i))

/-- Remove the entries of a table with keys in [lo, hi). -/
def Tbl.clearRange {α : Type} (t : Tbl α) (lo hi : Nat) : Tbl α := t.filter (fun e => !(lo ≤ e.1 && e.1 < hi))

/-! ## Error blocks, log and counters -/

/-- The error block of a site (R221). -/
def State.errBlock (s : State) (site : Nat) : ErrBlock := Tbl.get ErrBlock.init s.mem.errs site

/-- Change the error block of a site. -/
def State.modErr (s : State) (site : Option Nat) (f : ErrBlock → ErrBlock) : State :=
  match site with
  | none => s
  | some i => { s with mem := { s.mem with errs := Tbl.modify ErrBlock.init s.mem.errs i f } }

/-- Row and bank of a record (Table 7.8): by Table 9.1 and the region's frame in the Orangery (R253), by R100 in the feeder store; the
spec gives no layout of the rows of plots and Canopy stores. -/
def State.errorLoc (s : State) (da : Nat) : Word :=
  if daSpace da = 0 then BitVec.ofNat 32 (daOfs da / 6144 + (daOfs da / 128 % 48) * 2 ^ 20)
  else if daSpace da = 4 then
    BitVec.ofNat 32 (64 * (s.region (daUnit da) (daOfs da / 2 ^ 26)).frame + bits da 25 20 + (32 * bits da 14 10 + bits da 19 15) * 2 ^ 20)
  else Config.errorLoc da

/-- `FLAGS`[0] of a record: its unit lies in a region in bank mode. -/
def State.inBank (s : State) (da : Nat) : Bool := daSpace da = 4 && (s.region (daUnit da) (daOfs da / 2 ^ 26)).banked

/-- The bytes of an error-log record (Table 7.8). -/
def logRecord (s : State) (da cls req pos pattern flags lc node syn : Nat) : List Byte :=
  leBytes 6 s.us ++ leBytes 2 s.mem.logSeq ++ leBytes 7 da ++ leBytes 1 cls ++ leBytes 1 req ++ leBytes 1 pos
    ++ leBytes 1 pattern ++ leBytes 1 (flags + b2n (s.inBank da)) ++ leBytes 2 lc ++ leBytes 1 node ++ leBytes 1 0 ++ leBytes 4 syn
    ++ leBytes 4 (s.errorLoc da).toNat

/-- Add a record to the error log: dropped and counted in `ERRLOG_LOST` while 1,024 are unread (R220). -/
def logAdd (s : State) (corrected : Bool) (entry : List Byte) : State :=
  let m := s.mem
  if 1024 ≤ m.logUsed then
    { s with mem := { m with
        logSeq := (m.logSeq + 1) % 65536
        logLostCe := if corrected && m.logLostCe ≠ 0xFFFF then m.logLostCe + 1 else m.logLostCe
        logLost := if !corrected && m.logLost ≠ 0xFFFF then m.logLost + 1 else m.logLost } }
  else
    { s with mem := { m with
        log := Tbl.set [] m.log ((m.logTail + m.logUsed) % 1024) entry
        logSeq := (m.logSeq + 1) % 65536
        logUsed := m.logUsed + 1 } }

/-- Log an error; corrected ones at most once per 1 ms and controller while the limit is on; uncorrectable errors and
poison hits are also reported to the host and as health events (R219, R220, Table 17.3). -/
def logError (s : State) (da cls req pos pattern flags : Nat) (lc : Option Nat) (syn : Nat) : State :=
  let node := (lc.bind s.jobOf).map (·.node)
  let entry := logRecord s da cls req pos pattern flags (lc.getD 0xFFFF) (node.getD 0xFF) syn
  if cls = 1 then
    let k := s.ctrlOf da
    let last := Tbl.get 0 s.mem.lastCorr k
    if s.mem.logRate && last ≠ 0 && s.us < last - 1 + 1000 then s
    else logAdd { s with mem := { s.mem with lastCorr := Tbl.set 0 s.mem.lastCorr k (s.us + 1) } } true entry
  else
    let s1 := logAdd s false entry
    if cls = 2 || cls = 3 then healthEvent (notify s1 3 entry) 3 cls entry
    else if cls = 4 then healthEventLimited s1 3 4 da (10 ^ 18) entry
    else if cls = 5 || cls = 6 || cls = 7 || cls = 9 then healthEvent s1 3 cls entry
    else s1

/-- Count a corrected unit in its site's error block (Table 7.10). -/
def countCe (s : State) (da : Nat) : State :=
  s.modErr (s.errSite da) (fun e =>
    match daSpace da with
    | 0 => { e with fsCe := satAdd e.fsCe 1, sum := e.sum ||| 0x004#9 }
    | 1 => { e with canCe := satAdd e.canCe 1, sum := e.sum ||| 0x001#9 }
    | 2 => { e with plotCe := satAdd e.plotCe 1, sum := e.sum ||| 0x010#9 }
    | _ => e)

/-- Count an uncorrectable unit in its site's error block (Table 7.10). -/
def countUe (s : State) (da syn : Nat) : State :=
  s.modErr (s.errSite da) (fun e =>
    let e := { e with da := BitVec.ofNat 56 da, syn := BitVec.ofNat 32 syn }
    match daSpace da with
    | 0 => { e with fsUe := satAdd e.fsUe 1, sum := e.sum ||| 0x008#9 }
    | 1 => { e with canUe := satAdd e.canUe 1, sum := e.sum ||| 0x002#9 }
    | 2 => { e with plotUe := satAdd e.plotUe 1, sum := e.sum ||| 0x020#9 }
    | _ => e)

/-- Charge a poison hit to a core (Table 7.10). -/
def countPoison (s : State) (da syn : Nat) (lc : Option Nat) : State :=
  s.modErr (lc.bind s.siteOf) (fun e =>
    { e with
      poison := satAdd e.poison 1, sum := e.sum ||| 0x040#9, da := BitVec.ofNat 56 da, syn := BitVec.ofNat 32 syn })

/-- A corrected unit: counted, tracked, logged as corrected or as a repeat, and queued for write-back (R207, R209). -/
def noteCorrected (s : State) (da req pos pattern : Nat) (lc : Option Nat) (syn : Nat) : State :=
  let k := s.ctrlOf da
  let u := trackedUnit da
  let t := Tbl.get [] s.mem.trackers k
  let repeated := t.any (fun e => e = (u, pos))
  let s1 := countCe s da
  let s2 := { s1 with mem := { s1.mem with
    trackers := Tbl.set [] s1.mem.trackers k ((t ++ [(u, pos)]).drop ((t.length + 1) - 64))
    writeBacks := if s1.mem.writeBacks.contains da then s1.mem.writeBacks else s1.mem.writeBacks ++ [da] } }
  if repeated then
    logError (s2.modErr (s2.errSite da) (fun e => { e with sum := e.sum ||| 0x080#9 })) da 4 req pos pattern 0 lc syn
  else logError s2 da 1 req pos pattern 0 lc syn

/-! ## Valid bits and poison (R197, R199, R204, R210) -/

/-- The valid bit of the line of an address (R204). -/
def State.lineValid (s : State) (da : Nat) : Bool := Tbl.get false s.mem.valid (da / 64)

/-- Set the valid bit of a line; one that was 0 held zero bytes without an error (R205). -/
def setValid (s : State) (l : Nat) : State :=
  if Tbl.get false s.mem.valid l then s
  else { s with mem := { s.mem with
    valid := Tbl.set false s.mem.valid l true
    flaws := Tbl.clearRange s.mem.flaws (64 * l) (64 * l + 64)
    byteFlaws := Tbl.clearRange s.mem.byteFlaws (64 * l) (64 * l + 64) } }

/-- Cancel the queued write-backs to units in [lo, hi), counted (R208). -/
def cancelBacks (s : State) (lo hi : Nat) : State :=
  let gone := s.mem.writeBacks.filter (fun a => lo ≤ a && a < hi)
  let s1 := { s with mem := { s.mem with writeBacks := s.mem.writeBacks.filter (fun a => !(lo ≤ a && a < hi)) } }
  gone.foldl (fun s a => s.modErr (s.errSite a) (fun e => { e with wbCancel := satAdd e.wbCancel 1 })) s1

/-- Poison a DRAM word: its data as read, its check symbols inverted; the write cancels a queued write-back (R197, R208). -/
def poisonDram (s : State) (w : Nat) : State :=
  let s := cancelBacks (setValid s (w / 64)) w (w + 1)
  let err := Tbl.get [] s.mem.flaws w
  let seen := seenWord (s.bytesAt w 32) err
  { s with mem := { s.mem with
      bytes := Tbl.setMany 0 s.mem.bytes w seen
      flaws := Tbl.set [] s.mem.flaws w poisonWord } }

/-- Poison an SRAM byte (R199, R208). -/
def poisonSram (s : State) (a : Nat) : State :=
  let s := cancelBacks (setValid s (a / 64)) a (a + 1)
  { s with mem := { s.mem with
      bytes := Tbl.set 0 s.mem.bytes a (s.byte a ^^^ BitVec.ofNat 8 (Tbl.get 0 s.mem.byteFlaws a).toNat)
      byteFlaws := Tbl.set 0 s.mem.byteFlaws a poisonByte } }

/-- Poison every unit of the `n` lines from line `l`. -/
def poisonLines (s : State) (l n : Nat) : State :=
  if isDram (64 * l) then (List.range (2 * n)).foldl (fun s i => poisonDram s (64 * l + 32 * i)) s
  else (List.range (64 * n)).foldl (fun s i => poisonSram s (64 * l + i)) s

/-- Lines whose valid bits one code covers: the eight of a byte of a map in SRAM, the sixteen of an Orangery row (R204). -/
def mapLines (da : Nat) : Nat := if daSpace da = 4 then 16 else 8

/-- What decoding valid bits by their error pattern gives: the byte code, or a code that corrects one bit of 16 (R204, log 103). -/
def decodeMap (da : Nat) (e : BitVec 16) : Decoded :=
  if daSpace da = 4 then
    match (List.range 16).filter e.getLsbD with
    | [] => .clean
    | [_] => .corrected 0xFF 0
    | _ => .uncorrectable
  else decodeByte (e.setWidth 13)

/-- The valid bits of the lines from `l` are read: one error is corrected where it stands, a worse one poisons every line that they
describe, logged with class 0x06 (R204, R207). -/
def checkMap (s : State) (req : Nat) (lc : Option Nat) (l : Nat) : State :=
  let d := decodeMap (64 * l) (Tbl.get 0 s.mem.mapFlaws l)
  let s := { s with mem := { s.mem with mapFlaws := Tbl.erase s.mem.mapFlaws l } }
  match d with
  | .clean => s
  | .corrected p _ => logError s (64 * l) 1 req p 0 0 lc 0
  | _ => logError (poisonLines s l (mapLines (64 * l))) (64 * l) 6 req 0xFF 0 4 lc 0

/-- Read the valid bits of [lo, hi). -/
def checkMaps (s : State) (req : Nat) (lc : Option Nat) (lo hi : Nat) : State :=
  (s.mem.mapFlaws.filter (fun e => 64 * e.1 < hi && lo < 64 * (e.1 + mapLines (64 * e.1)))).foldl (fun s e => checkMap s req lc e.1) s

/-! ## Merge buffers (R201 to R203) -/

/-- Count a closure in the error block of a plot's site: read-modify-write, or without a read (Table 7.10). -/
def countClose (s : State) (w : Nat) (rmw : Bool) : State :=
  if daSpace w = 2 then
    s.modErr (s.daSite w) (fun e => if rmw then { e with rmw := bump e.rmw 1 } else { e with merge := bump e.merge 1 })
  else s

/-- A whole word is written: its line is valid, its error gone or its poison written, and a queued write-back of it cancelled; in a
plot that may not be written at its temperature it joins the held-write queue (R197, R205, R208, R441). -/
def storeWord (s : State) (w : Nat) (poison : Bool) : State :=
  let s := cancelBacks (setValid s (w / 64)) w (w + 1)
  let s := { s with mem := { s.mem with flaws := if poison then Tbl.set [] s.mem.flaws w poisonWord else Tbl.erase s.mem.flaws w } }
  match (if daSpace w = 2 || daSpace w = 3 then s.daSite w else none) with
  | some i =>
    if Tbl.get false s.mem.hot i then
      { s with mem := { s.mem with held := s.mem.held.filter (fun h => h.word ≠ w) ++ [{ site := i, word := w }] } }
    else s
  | none => s

/-- The syndromes of an error pattern as `SYN` holds them (Table 7.8). -/
def synWord (err : List Byte) : Nat := (syndromes err).foldr (fun x a => x + 256 * a) 0

/-- The bytes of a closing entry over those of its word as decoded. -/
def fillWord (s : State) (e : MergeEntry) (seen : List Byte) : List Byte :=
  seen.zipIdx.map (fun x => if e.mask.getLsbD x.2 then s.byte (e.word + x.2) else x.1)

/-- What a read-modify-write reports of the word that it read: a correction, or an uncorrectable or poisoned word with class 0x05, which
faults the job of the write (R203, R207, Table 7.10). -/
def reportRmw (s : State) (e : MergeEntry) (err : List Byte) (d : Decoded) : State :=
  let bad := fun (s : State) =>
    let s := logError s e.word 5 8 0xFF 0 (4 + 2 * b2n e.lc.isSome) e.lc (synWord err)
    let s := s.modErr (if daSpace e.word = 2 then s.daSite e.word else none) (fun b => { b with sum := b.sum ||| 0x100#9 })
    match e.lc with
    | some lc => faultCore s lc 4 0 (s.core lc).seq.next 0
    | none => s
  match d with
  | .clean => s
  | .corrected p v => noteCorrected s e.word 8 p v e.lc (synWord err)
  | .uncorrectable => bad (countUe s e.word (synWord err))
  | .poisoned => bad (countPoison s e.word (synWord err) e.lc)

/-- Close an entry: with a full mask, or on a line whose valid bit is 0, the word is written without a read; another entry reads it,
and its unmasked bytes are those of the decoded word. A word found uncorrectable or poisoned, or bytes that came bad and were not
replaced, leave it poisoned (R202, R203, R210). -/
def closeEntry (s : State) (e : MergeEntry) : State :=
  let s := { s with mem := { s.mem with merges := s.mem.merges.filter (fun x => x ≠ e) } }
  let err := Tbl.get [] s.mem.flaws e.word
  if e.mask = BitVec.allOnes 32 || !s.lineValid e.word then storeWord (countClose s e.word false) e.word (e.bad ≠ 0)
  else
    let s := countClose s e.word true
    if err = [] then storeWord s e.word (e.bad ≠ 0)
    else
      let d := decodeWord err
      let t := reportRmw s e err d
      let data := fillWord s e (seenWord (s.bytesAt e.word 32) (fixWord err d))
      storeWord { t with mem := { t.mem with bytes := Tbl.setMany 0 t.mem.bytes e.word data } } e.word
        (e.bad ≠ 0 || d = .uncorrectable || d = .poisoned)

/-- Close the entries that a condition picks, oldest first. -/
def closeWhere (s : State) (p : MergeEntry → Bool) : State := (s.mem.merges.filter p).foldl closeEntry s

/-- A narrow write of the masked bytes of a word, of which `bad` came bad: merged into its entry, later bytes replacing earlier ones, or
into a new one, the oldest of 16 closing first (R201, R202). -/
def mergeWrite (s : State) (w : Nat) (mask bad : BitVec 32) (lc : Option Nat) : State :=
  match s.mem.merges.find? (fun e => e.word = w) with
  | some e =>
    let e' : MergeEntry := { word := w, mask := e.mask ||| mask, bad := (e.bad &&& ~~~mask) ||| bad, lc := lc.or e.lc }
    let s := { s with mem := { s.mem with merges := s.mem.merges.map (fun x => if x.word = w then e' else x) } }
    if e'.mask = BitVec.allOnes 32 then closeEntry s e' else s
  | none =>
    let mine := s.mem.merges.filter (fun e => s.ctrlOf e.word = s.ctrlOf w)
    let s := if 16 ≤ mine.length then (match mine.head? with | some e => closeEntry s e | none => s) else s
    { s with mem := { s.mem with merges := s.mem.merges ++ [{ word := w, mask := mask, bad := bad, lc := lc }] } }

/-! ## Writes (R200, R201, R205, R210) -/

/-- The mask of the bytes of word `w` that lie in [da, da + n). -/
def wordMask (w da n : Nat) : BitVec 32 :=
  BitVec.ofNat 32 ((List.range 32).foldl (fun m i => if da ≤ w + i && w + i < da + n then m + 2 ^ i else m) 0)

/-- The mask of the bytes of word `w` that came bad in a write at an address. -/
def badMask (w da : Nat) (bad : List Bool) : BitVec 32 :=
  if bad = [] then 0
  else BitVec.ofNat 32 ((List.range 32).foldl (fun m i => if da ≤ w + i && bad.getD (w + i - da) false then m + 2 ^ i else m) 0)

/-- The word bookkeeping of a write: a whole word is written at once and discards its entry; a narrow one merges (R201). -/
def touchWord (s : State) (lc : Option Nat) (da n : Nat) (bad : List Bool) (w : Nat) : State :=
  let m := wordMask w da n
  let b := badMask w da bad
  if m = BitVec.allOnes 32 then
    storeWord { s with mem := { s.mem with merges := s.mem.merges.filter (fun e => e.word ≠ w) } } w (b ≠ 0)
  else mergeWrite s w m b lc

/-- The aligned words of [da, da + n). -/
def wordsOf (da n : Nat) : List Nat :=
  if n = 0 then [] else (List.range ((da + n - 1) / 32 - da / 32 + 1)).map (fun i => (da / 32 + i) * 32)

/-- The lines of [da, da + n), by DA / 64. -/
def linesOf (da n : Nat) : List Nat :=
  if n = 0 then [] else (List.range ((da + n - 1) / 64 - da / 64 + 1)).map (fun i => da / 64 + i)

/-- The bytes of a write stand at their address; their code follows. -/
def placeBytes (s : State) (da : Nat) (data : List Byte) : State :=
  { s with mem := { s.mem with bytes := Tbl.setMany 0 s.mem.bytes da data } }

/-- The code of `n` bytes written at a DA: word by word in DRAM, byte by byte in SRAM (R194, R201, R205, R210). -/
def codeBytes (s : State) (lc : Option Nat) (da n : Nat) (bad : List Bool) : State :=
  if isDram da then (wordsOf da n).foldl (fun s w => touchWord s lc da n bad w) s
  else
    let s := cancelBacks ((linesOf da n).foldl setValid s) da (da + n)
    { s with mem := { s.mem with
      byteFlaws := bad.zipIdx.foldl (fun t e => if e.1 then Tbl.set 0 t (da + e.2) poisonByte else t) (Tbl.clearRange s.mem.byteFlaws da (da + n)) } }

/-- Write bytes at a DA, of which those marked in `bad` came from bad units, through the code and the controller of the store: in DRAM
every word that takes one of them is poisoned, in SRAM each of them; `lc` is the core of a running job that the write belongs to
(R200, R201, R205, R210). -/
def memWriteBad (s : State) (lc : Option Nat) (da : Nat) (data : List Byte) (bad : List Bool) : State :=
  codeBytes (placeBytes (checkMaps s 0xFF lc da (da + data.length)) da data) lc da data.length bad

/-- Write bytes that are good. -/
def memWrite (s : State) (lc : Option Nat) (da : Nat) (data : List Byte) : State := memWriteBad s lc da data []

/-- The lines of [lo, hi) hold nothing any more: contents, valid bits, errors and held words go (R206). -/
def dropLines (s : State) (lo hi : Nat) : State :=
  { s with mem := { s.mem with
      bytes := Tbl.clearRange s.mem.bytes lo hi
      valid := Tbl.clearRange s.mem.valid (lo / 64) (hi / 64)
      flaws := Tbl.clearRange s.mem.flaws lo hi
      byteFlaws := Tbl.clearRange s.mem.byteFlaws lo hi
      held := s.mem.held.filter (fun h => !(lo ≤ h.word && h.word < hi)) } }

/-- A valid-map clear of whole aligned lines in [lo, hi): open entries close first, and queued write-backs are cancelled (R202, R206). -/
def clearLines (s : State) (lo hi : Nat) : State :=
  dropLines (cancelBacks (closeWhere (checkMaps s 0xFF none lo hi) (fun e => lo ≤ e.word && e.word < hi)) lo hi) lo hi

/-- Clear `n` bytes from a DA: whole aligned lines by the valid map, the partial lines at the ends as written zeros
(R178, R206). -/
def memClear (s : State) (lc : Option Nat) (da n : Nat) : State :=
  let lo := (da + 63) / 64 * 64
  let hi := (da + n) / 64 * 64
  if lo < hi then
    let s := if da < lo then memWrite s lc da (List.replicate (lo - da) 0) else s
    let s := clearLines s lo hi
    if hi < da + n then memWrite s lc hi (List.replicate (da + n - hi) 0) else s
  else memWrite s lc da (List.replicate n 0)

/-- The channels of an Orangery stack that `n` bytes at an address lie in (Table 9.1). -/
def channelsOf (da n : Nat) : List Nat :=
  if 32768 ≤ n then List.range 32 else (List.range ((da % 1024 + n + 1023) / 1024)).map (fun i => (da / 1024 + i) % 32)

/-- May the bytes be written now: no Orangery die too hot, no full held-write queue (R441, R442)? -/
def State.mayWrite (s : State) (da n : Nat) : Bool :=
  match daSpace da with
  | 2 => match s.daSite da with
    | some i => !(Tbl.get false s.mem.hot i && 64 < (s.mem.held.filter (fun h => h.site = i)).length + (wordsOf da n).length)
    | none => true
  | 3 => match s.daSite da with
    | some i => !(Tbl.get false s.mem.hot i && 64 < (s.mem.held.filter (fun h => h.site = i)).length + (wordsOf da n).length)
    | none => true
  | 4 => !((channelsOf da n).any (fun c => Tbl.get false s.mem.orgHot (daUnit da * 16 + c / 2)))
  | _ => true

/-! ## Reads (R196, R199, R207 to R212) -/

/-- What a read delivers: bytes, which of them came from poisoned or uncorrectable units, and the part after it. -/
structure Fetched where
  /-- bytes as the array and the decoder give them -/
  bytes : List Byte
  /-- the unit of each byte was poisoned or uncorrectable -/
  bad : List Bool
  /-- the part after the read -/
  st : State
  deriving DecidableEq, Repr

/-- Read one DRAM word for requester `req`, charged to core `lc`: its entry closes first, an error is corrected, or the
word is poisoned; a line whose valid bit is 0 holds zero bytes and is not decoded (R196, R202, R204, R207, R210). -/
def fetchWord (s : State) (req : Nat) (lc : Option Nat) (w : Nat) : List Byte × Bool × State :=
  let s := closeWhere s (fun e => e.word = w)
  let err := Tbl.get [] s.mem.flaws w
  if err = [] || !s.lineValid w then (s.bytesAt w 32, false, s)
  else
    let d := decodeWord err
    let syn := (syndromes err).foldr (fun x a => x + 256 * a) 0
    let seen := seenWord (s.bytesAt w 32) (fixWord err d)
    match d with
    | .clean => (seen, false, s)
    | .corrected p v => (seen, false, noteCorrected s w req p v lc syn)
    | .uncorrectable => (seen, true, logError (countUe (poisonDram s w) w syn) w 2 req 0xFF 0 (4 + 2 * b2n lc.isSome) lc syn)
    | .poisoned => (seen, true, logError (countPoison s w syn lc) w 3 req 0xFF 0 (2 * b2n lc.isSome) lc syn)

/-- Read one SRAM byte (R199, R204, R207, R210). -/
def fetchByte (s : State) (req : Nat) (lc : Option Nat) (a : Nat) : Byte × Bool × State :=
  let e := Tbl.get 0 s.mem.byteFlaws a
  if e = 0 || !s.lineValid a then (s.byte a, false, s)
  else
    let d := decodeByte e
    let syn := byteSyn e + 16 * b2n (byteParity e)
    let seen := s.byte a ^^^ BitVec.ofNat 8 ((fixByte e d).toNat % 256)
    match d with
    | .clean => (seen, false, s)
    | .corrected p v => (seen, false, noteCorrected s a req p v lc syn)
    | .uncorrectable => (seen, true, logError (countUe (poisonSram s a) a syn) a 2 req 0xFF 0 (4 + 2 * b2n lc.isSome) lc syn)
    | .poisoned => (seen, true, logError (countPoison s a syn lc) a 3 req 0xFF 0 (2 * b2n lc.isSome) lc syn)

/-- Read words in order. -/
def fetchWords (req : Nat) (lc : Option Nat) : State → List Nat → Fetched
  | s, [] => { bytes := [], bad := [], st := s }
  | s, w :: ws =>
    let r := fetchWord s req lc w
    let t := fetchWords req lc r.2.2 ws
    { bytes := r.1 ++ t.bytes, bad := List.replicate 32 r.2.1 ++ t.bad, st := t.st }

/-- Read bytes in order. -/
def fetchBytes (req : Nat) (lc : Option Nat) : State → List Nat → Fetched
  | s, [] => { bytes := [], bad := [], st := s }
  | s, a :: t =>
    let r := fetchByte s req lc a
    let t := fetchBytes req lc r.2.2 t
    { bytes := r.1 :: t.bytes, bad := r.2.1 :: t.bad, st := t.st }

/-- Read `n` bytes at a DA for requester `req` (Table 7.8: 0 mover, 1 feeder, 2 vector, 3 `GSEG`, 4 host, 5 Xobex,
6 bank unit, 7 paging), charged to core `lc`. -/
def memFetch (s : State) (req : Nat) (lc : Option Nat) (da n : Nat) : Fetched :=
  let s := checkMaps s req lc da (da + n)
  if isDram da then
    let f := fetchWords req lc s (wordsOf da n)
    let k := da % 32
    { bytes := (f.bytes.drop k).take n, bad := (f.bad.drop k).take n, st := f.st }
  else fetchBytes req lc s ((List.range n).map (fun i => da + i))

/-- Fault the job of core `lc` for consuming bad data, by Table 7.5 (R211, R212). -/
def poisonFault (s : State) (lc bundle : Nat) : State := faultCore s lc 4 0 bundle 0

/-- Bytes of a unit that is read before or after a write as a whole: 8 in the feeder and Canopy stores, else 32 (R191). -/
def unitBytes (da : Nat) : Nat := if daSpace da ≤ 1 then 8 else 32

/-- What a read finds of bytes that a write not ordered with it replaces: each aligned unit is the old one or the new one (R189,
R191). -/
def mixBytes (draws da : Nat) (old new : List Byte) : List Byte :=
  (old.zip new).zipIdx.map (fun e => if (Config.freeByte draws ((da + e.2) / unitBytes da)).getLsbD 0 then e.1.2 else e.1.1)

end Sys2Proof.Machine
end

