-- ==== Sys2Proof/Machine/Operands.lean ====
section
/-! DEFINITION. Operand forms: feeder blocks (R104 to R111), vector operands and results (R118 to R121, R128), and
bytes of the feeder store as a unit of the core reads them. -/

namespace Sys2Proof.Machine

/-! ## Reads of the core's own feeder store -/

/-- A read of the core's feeder store by a unit of the core. -/
structure StoreRead where
  /-- bytes; those of a poisoned unit are free values (Table 7.5) -/
  bytes : List Byte
  /-- the part after the read, the job faulted where a bad unit was read -/
  st : State

/-- Read `n` bytes at offset `ofs` of the core's feeder store; a poisoned unit gives unspecified bytes and faults the
job, recorded by the reading core with the bundle that issued the read (R211, R212). -/
def storeRead (s : State) (req lc bundle ofs n : Nat) : StoreRead :=
  let f := memFetch s req (some lc) (mkDa 0 lc ofs) n
  if f.bad.any id then
    { bytes := (f.bytes.zip f.bad).zipIdx.map (fun e => if e.1.2 then Config.freeByte f.st.draws e.2 else e.1.1)
      st := poisonFault (f.st.drawn 1) lc bundle }
  else { bytes := f.bytes, st := f.st }

/-! ## Blocks (R105 to R110) -/

/-- The little-endian words of a byte string, `w` bytes each. -/
def wordsLe (w : Nat) (bs : List Byte) : List Nat :=
  (List.range (bs.length / w)).map (fun i => leNat ((bs.drop (i * w)).take w))

/-- Bytes of one stored block (Table 4.2). -/
def blockBytes : SFmt → Nat
  | .bin16 => 2048
  | .e4m3 => 1024
  | .e5m2 => 1024
  | .int8 => 1024
  | .int4 => 576
  | .e2m1 => 576
  | .bin32 => 1024

/-- Nibble e of a byte string: bits [3:0] for even e, [7:4] for odd e (R52). -/
def nibble (bs : List Byte) (e : Nat) : Nat :=
  let b := (bs.getD (e / 2) 0).toNat
  if e % 2 = 0 then b % 16 else b / 16

/-- The stored elements of a block, decoded, in row-major order, with their flags (R50 to R55, R106). -/
def decodeBlock (f : SFmt) (bs : List Byte) : List (Word × Flags) :=
  let eight (w : Nat) := (wordsLe w bs).map (fun n =>
    let r := decode16 f.code n
    (r.1.setWidth 32, r.2))
  let four := (List.range 1024).map (fun e =>
    let scale : Half := BitVec.ofNat 16 (leField bs (512 + 2 * (e / 32)) (513 + 2 * (e / 32)))
    let r := decodeScaled f.code (nibble bs e) scale
    (r.1.setWidth 32, r.2))
  match f with
  | .bin16 => eight 2
  | .e4m3 => eight 1
  | .e5m2 => eight 1
  | .int8 => eight 1
  | .int4 => four
  | .e2m1 => four
  | .bin32 => (wordsLe 4 bs).map (fun n => (BitVec.ofNat 32 n, 0))

/-- The columns of the stored shape: 32, or in FP32 mode 8 when the stored shape is 32 × 8 (R106). -/
def storedCols (f : Feed) (fp32 tr : Bool) : Nat :=
  if fp32 && ((f = .a && !tr) || (f = .b && tr)) then 8 else 32

/-- The transpose of a row-major matrix of `rows` × `cols` elements. -/
def transpose (rows cols : Nat) (l : List Word) : List Word :=
  (List.range cols).flatMap (fun j => (List.range rows).map (fun i => l.getD (i * cols + j) 0))

/-- Binary16 of an exact value with the flags of a conversion with `SAT` = 0 (R63, R109). -/
def rne16 (w : Word) : Word × Flags :=
  let r := convert 0 false none w
  (BitVec.ofNat 32 r.1, r.2)

/-- Rotate one pair (R109). -/
def rotatePair (x0 x1 : Word) (pos inc : Word) : (Word × Flags) × (Word × Flags) :=
  let phi := pos * inc
  let c := cosTurn phi
  let n := sinTurn phi
  let up (h : Word) : Word := (toBin32 (fp16 (h.setWidth 16))).1
  let a := up x0
  let b := up x1
  let p0 := mul32 b n
  let f0 := fma32 a c (p0.1 ^^^ 0x80000000#32)
  let y0 := rne16 f0.1
  let p1 := mul32 b c
  let f1 := fma32 a n p1.1
  let y1 := rne16 f1.1
  ((y0.1, p0.2 ||| f0.2 ||| y0.2), (y1.1, p1.2 ||| f1.2 ||| y1.2))

/-- Rotate the stored rows of a block by a rotary descriptor (Table 4.3, R109). -/
def rotateRows (desc : List Byte) (l : List Word) : List (Word × Flags) :=
  (List.range 32).flatMap (fun r =>
    let pos : Word := BitVec.ofNat 32 (leField desc (64 + 4 * r) (67 + 4 * r))
    (List.range 16).flatMap (fun m =>
      let inc : Word := BitVec.ofNat 32 (leField desc (4 * m) (4 * m + 3))
      let y := rotatePair (l.getD (32 * r + 2 * m) 0) (l.getD (32 * r + 2 * m + 1) 0) pos inc
      [y.1, y.2]))

/-- Rotation and transposition of decoded elements, in that order (R106): the block and the flags raised. -/
def finishBlock (f : Feed) (fp32 tr rope : Bool) (desc : List Byte) (es : List (Word × Flags)) : Block × Flags :=
  let ws := es.map (·.1)
  let rot := if rope then rotateRows desc ws else ws.map (fun w => (w, 0))
  let vs := rot.map (·.1)
  let cols := storedCols f fp32 tr
  ({ fp32 := fp32, elems := if tr then transpose (vs.length / cols) cols vs else vs },
    resultFlags es ||| resultFlags rot)

/-- Feeder-store address of block q of an `FBLK`, in bytes (R106). -/
def fblkAddr (a : FBlkSlot) (q : Nat) : Nat :=
  (((a.addr.toNat : Int) + (q : Int) * a.stride.toInt) * 64).toNat

/-- The row indices of block q of an `FGATH`: `none` for an empty row (R110). -/
def gatherRows (glist : List Byte) (stride : BitVec 16) (q : Nat) : List (Option Int) :=
  (List.range 32).map (fun i =>
    let e := leField glist (2 * i) (2 * i + 1)
    if e = 0xFFFF then none else some ((e : Int) + (q : Int) * stride.toInt))

/-- A row index in range: 0x0000 to 0x5FFF in 64-byte units (R111). -/
def rowOk (r : Int) : Bool := 0 ≤ r && r < 0x6000

/-! ## Feeders (R112) -/

/-- The feeder of a core. -/
def Core.feeder (c : Core) : Feed → Feeder
  | .a => c.fv.fa
  | .b => c.fv.fb

/-- A core with one feeder replaced. -/
def Core.setFeeder (c : Core) (f : Feed) (x : Feeder) : Core :=
  match f with
  | .a => { c with fv := { c.fv with fa := x } }
  | .b => { c with fv := { c.fv with fb := x } }

/-- The value of `FV_FAULT` (Table 4.13). -/
def fvFault (code : Nat) (feeder : Bool) (slot block bundle : Nat) : Word :=
  BitVec.ofNat 32 (code + b2n feeder * 16 + slot % 8 * 32 + block % 256 * 256 + bundle % 8192 * 65536)

/-- Fault the job by a hazard of Table 4.11 (R129). -/
def fvHazard (s : State) (lc code : Nat) (feeder : Bool) (slot block bundle : Nat) : State :=
  faultCore (s.modCore lc (fun c => { c with fv := { c.fv with fault := fvFault code feeder slot block bundle } }))
    lc 2 0 bundle 0

/-- The block at the head of a feeder's output stage (R83, Table 4.4). -/
def Core.head (c : Core) (f : Feed) : Option Block :=
  match (c.feeder f).held with
  | x :: _ => if x.ready ≤ c.seq.cycle then some x.block else none
  | [] => none

/-! ## Vector registers (R118, R128) -/

/-- Elements read per beat (Table 4.10). -/
def perBeat (special : Bool) : Nat := if special then 64 else 512

/-! ## The codes of the stores inside a core (R194, R198, R211) -/

/-- Key of the first byte of a bundle in `Core.flaws`. -/
def bundleKey (i : Nat) : Nat := 64 * i
/-- Key of the first byte of a vector register. -/
def vregKey (r : Nat) : Nat := 2 ^ 19 + 2048 * r
/-- Key of the first byte of a tile-queue slot. -/
def slotKey (k : Nat) : Nat := 2 ^ 20 + 4096 * (k % 8)

/-- A word with byte `k` changed. -/
def changeByte {n : Nat} (w : BitVec n) (k : Nat) (f : Byte → Byte) : BitVec n :=
  BitVec.ofNat n (w.toNat - (w.toNat / 2 ^ (8 * k) % 256) * 2 ^ (8 * k) + (f (w.extractLsb' (8 * k) 8)).toNat * 2 ^ (8 * k))

/-- A core with a byte of its bundle store, vector registers or tile queue changed. -/
def Core.changeStored (c : Core) (key : Nat) (f : Byte → Byte) : Core :=
  if key < 2 ^ 19 then
    { c with seq := { c.seq with store := Tbl.modify 0 c.seq.store (key / 64) (fun w => changeByte w (key % 64) f) } }
  else if key < 2 ^ 20 then
    { c with fv := { c.fv with vregs := Tbl.modify 0 c.fv.vregs ((key - 2 ^ 19) / 4) (fun w => changeByte w (key % 4) f) } }
  else { c with fv := { c.fv with slotData := Tbl.modify 0 c.fv.slotData ((key - 2 ^ 20) / 4) (fun w => changeByte w (key % 4) f) } }

/-- New bytes stand under their own check bits. -/
def Core.cleared (c : Core) (key n : Nat) : Core := { c with flaws := Tbl.clearRange c.flaws key (key + n) }

/-- A byte in error of a store inside a core is read: corrected in place, or poisoned, with an unspecified value delivered and the job
faulted, recorded with the bundle that issued the read (Table 7.5, log 105). -/
def readFlawed (req lc bundle : Nat) (s : State) (key : Nat) : State :=
  let e := Tbl.get 0 (s.core lc).flaws key
  let d := decodeByte e
  let da := mkDa 0 lc 0
  let syn := byteSyn e + 16 * b2n (byteParity e)
  let bad := fun (s : State) =>
    poisonFault ((s.modCore lc (fun c => { c.changeStored key (fun _ => Config.freeByte s.draws key) with
      flaws := Tbl.set 0 c.flaws key poisonByte })).drawn 1) lc bundle
  let fixed := fun (s : State) => s.modCore lc (fun c =>
    (c.changeStored key (fun b => b ^^^ BitVec.ofNat 8 ((fixByte e d).toNat % 256))).cleared key 1)
  match d with
  | .clean => fixed s
  | .corrected p _ => logError (countCe (fixed s) da) da 1 req p 0 0 (some lc) syn
  | .uncorrectable => bad (logError (countUe s da syn) da 2 req 0xFF 0 6 (some lc) syn)
  | .poisoned => bad (logError (countPoison s da syn (some lc)) da 3 req 0xFF 0 2 (some lc) syn)

/-- A unit of core `lc` reads the bytes of these (key, length) ranges of its stores. -/
def coreRead (s : State) (req lc bundle : Nat) (rs : List (Nat × Nat)) : State :=
  ((s.core lc).flaws.filter (fun e => rs.any (fun r => r.1 ≤ e.1 && e.1 < r.1 + r.2))).foldl (fun s e => readFlawed req lc bundle s e.1) s

/-- The bytes of a vector operand of n elements (Table 4.8). -/
def operandBytes (src : VSrc) (r n : Nat) : Nat × Nat :=
  match src with
  | .reg => (vregKey r, 4 * n)
  | .slot => (slotKey r, 4 * n)
  | .row => (vregKey r, 4 * cdiv n 32)
  | .col => (vregKey r, 128)
  | .scalar => (0, 0)

/-- Element `i` of the operand at register `r`, read in a cycle: a free value where the register's last result is not yet
readable (R118, R128). `salt` tells operands of one instruction apart. -/
def vregAt (c : Core) (draws salt r i cycle : Nat) : Word :=
  if cycle < Tbl.get 0 c.fv.vready (r * 512 + i) then Config.freeWord (draws + salt + i)
  else Tbl.get 0 c.fv.vregs (r * 512 + i)

/-- Element `i` of the operand at register `r`, read in beat `b` of an instruction issued now. -/
def vregElem (c : Core) (draws salt r i b : Nat) : Word := vregAt c draws salt r i (c.seq.cycle + 1 + b)

/-- Element e of a vector operand (Table 4.8). -/
def vecElem (c : Core) (draws salt : Nat) (src : VSrc) (r : Nat) (imm : Word) (per e : Nat) : Word :=
  match src with
  | .reg => vregElem c draws salt r e (e / per)
  | .slot => Tbl.get 0 c.fv.slotData (r % 8 * 1024 + e)
  | .row => vregElem c draws salt r (e / 32) (e / per)
  | .col => vregElem c draws salt r (e % 32) (e / per)
  | .scalar => imm

/-- A vector operand of n elements (Table 4.8). -/
def vecOperand (c : Core) (draws salt : Nat) (src : VSrc) (r : Nat) (imm : Word) (per n : Nat) : List Word :=
  (List.range n).map (vecElem c draws salt src r imm per)

/-- A line-port load whose source pair is written during its read cycles loads unspecified values (R92): the tile
elements it moved become free. The `k` registers at `r` are written in cycles [lo, hi). -/
def Core.spoilLoad (c : Core) (draws r k lo hi : Nat) : Core :=
  match c.arr.load with
  | some l =>
    if r ≤ 2 * l.pair + 1 && 2 * l.pair < r + k && lo < l.till && l.till < hi + l.groups then
      { c with arr := { c.arr with
          tiles := (List.range (64 * l.groups)).foldl (fun t i =>
            let line := i / 32
            let k := if l.axis then l.tile * 1024 + 32 * (i % 32) + line else l.tile * 1024 + 32 * line + i % 32
            Tbl.set 0 t k (accLoad (Config.freeWord (draws + 24576 + i))).1) c.arr.tiles } }
    else c
  | none => c

/-- Write the results of `k` beats: words at register `r`, readable from cycle `at'` (R118, R128). An element whose earlier result
is readable only later holds a free value from then on (log 92). -/
def Core.writeVec (c : Core) (draws r : Nat) (ws : List Word) (k at' : Nat) : Core :=
  let c := c.spoilLoad draws r (cdiv ws.length 512) (at' - k) at'
  let due (e : Nat) := Tbl.get 0 c.fv.vready (r * 512 + e)
  let c := c.cleared (vregKey r) (4 * ws.length)
  { c with fv := { c.fv with
      vregs := Tbl.setMany 0 c.fv.vregs (r * 512)
        (ws.zipIdx.map (fun e => if at' < due e.2 then Config.freeWord (draws + 28672 + e.2) else e.1))
      vready := Tbl.setMany 0 c.fv.vready (r * 512) ((List.range ws.length).map (fun e => max at' (due e))) } }

/-- The 32-bit words of packed values of `w` bits each, with the bits of `old` beyond them (R121). -/
def packWords (w : Nat) (codes : List Nat) (old : Nat → Word) : List Word :=
  let per := 32 / w
  (List.range (cdiv codes.length per)).map (fun i =>
    let cs := (codes.drop (i * per)).take per
    let v := (cs.zipIdx).foldl (fun a e => a + e.1 * 2 ^ (w * e.2)) 0
    let used := 2 ^ (w * cs.length)
    BitVec.ofNat 32 ((old i).toNat / used * used + v))

/-- Packed value e of `w` bits of an operand at register `r` (R121). -/
def unpackAt (c : Core) (draws r w e : Nat) : Nat :=
  let b := e * w
  bits (vregElem c draws 0 r (b / 32) (e / 512)).toNat (b % 32 + w - 1) (b % 32)

end Sys2Proof.Machine
end

