-- ==== Sys2Proof/Machine/Array.lean ====
section
/-! DEFINITION. The ARRAY slot, the line port and current shaping ("The outer-product array", R74 to R99). -/

namespace Sys2Proof.Machine

/-- The value of `ARRAY_FAULT` (Table 3.8). -/
def arrayFault (code tile bundle : Nat) : Word := BitVec.ofNat 32 (code + tile % 4 * 4 + bundle % 8192 * 65536)

/-- Fault the job by a hazard of Table 3.4 (R91). -/
def arrayHazard (s : State) (lc code tile : Nat) : State :=
  let b := (s.core lc).seq.next
  faultCore (s.modCore lc (fun c => { c with arr := { c.arr with fault := arrayFault code tile b } })) lc 1 0 b 0

/-- A tile with a line-port transfer on it in this cycle is busy (R90). -/
def Core.tileBusy (c : Core) (tile : Nat) : Bool :=
  match c.arr.port with
  | some p => p.tile = tile && c.seq.cycle < p.till
  | none => false

/-- The line port is held by a transfer in this cycle (R90). -/
def Core.portBusy (c : Core) : Bool :=
  match c.arr.port with
  | some p => c.seq.cycle < p.till
  | none => false

/-- The ARRAY slot issues with no primary operation (R80). -/
def execAnop (lc : Lc) (s : State) : Out := slotIssue (.anop lc) lc s false id s

/-! ## Group sums (R75, R76, R82) -/

/-- Split a list into rows of `n`. -/
def chunks {α : Type} (n rows : Nat) (l : List α) : List (List α) :=
  (List.range rows).map (fun i => (l.drop (i * n)).take n)

/-- The 32 row operands of an A block: 32 × 32 binary16 or 32 × 8 binary32 values (R75, R76). -/
def Block.aRows (b : Block) : List (List Fp) :=
  if b.fp32 then (chunks 8 32 b.elems).map (fun r => r.map (fun w => Machine.fp32 w))
  else (chunks 32 32 b.elems).map (fun r => r.map (fun w => Machine.fp16 (w.setWidth 16)))

/-- The 32 column operands of a B block: 32 × 32 binary16 or 8 × 32 binary32 values (R75, R76). -/
def Block.bCols (b : Block) : List (List Fp) :=
  if b.fp32 then (chunks 8 32 (transpose 8 32 b.elems)).map (fun r => r.map (fun w => Machine.fp32 w))
  else (chunks 32 32 (transpose 32 32 b.elems)).map (fun r => r.map (fun w => Machine.fp16 (w.setWidth 16)))

/-- The window of the adder: 32 positions in FP16 mode, 64 in FP32 mode (R57, R62). -/
def window (fp32 : Bool) : Nat := if fp32 then 64 else 32

/-- The group sums of all cells, row by row (R57, R62). -/
def groupSums (fp32 : Bool) (a b : Block) : List (Word × Flags × Bool) :=
  let cols := b.bCols
  a.aRows.flatMap (fun r => cols.map (fun c => groupSum (window fp32) (r.zip c)))

/-- Element `i` (32 × row + column) of a tile. -/
def Core.tileElem (c : Core) (tile i : Nat) : Word := Tbl.get 0 c.arr.tiles (tile * 1024 + i)

/-- A core with a whole tile written. -/
def Core.setTile (c : Core) (tile : Nat) (ws : List Word) : Core :=
  { c with arr := { c.arr with tiles := Tbl.setMany 0 c.arr.tiles (tile * 1024) ws } }

/-- The results of accumulating group sums into a tile (R60, R82). -/
def accumulate (c : Core) (tile : Nat) (sums : List (Word × Flags × Bool)) : List (Word × Flags × Bool) :=
  sums.zipIdx.map (fun e =>
    let r := accAdd (c.tileElem tile e.2) e.1.1
    (r.1, r.2.1, r.2.2))

/-- The core after group sums reach a tile: added for `MAC`, written for `MACZ`; flags and flushes counted (R60, R82). -/
def Core.applySums (c : Core) (acc : Bool) (tile : Nat) (sums : List (Word × Flags × Bool)) : Core :=
  let res := if acc then accumulate c tile sums else sums.map (fun x => (x.1, 0, false))
  ((c.setTile tile (res.map (·.1))).raise
    (orFlags (sums.map (·.2.1)) ||| orFlags (res.map (·.2.1)))).flushed (countFlush sums + countFlush res)

/-- The head block of a feeder leaves it if the pop bit is set (R83). -/
def Core.popFeed (c : Core) (f : Feed) (pop : Bool) : Core :=
  if pop then c.setFeeder f { c.feeder f with held := (c.feeder f).held.tail } else c

/-- A tile that is written whole no longer depends on the pair that an earlier load took it from (R92). -/
def Core.dropLoad (c : Core) (tile : Nat) : Core :=
  { c with arr := { c.arr with load := c.arr.load.filter (fun l => l.tile ≠ tile) } }

/-- A `MAC` or `MACZ` takes its blocks, updates the tile and pops (R82, R83, R93); `opTile` remembers the tile for the
rest of the bundle (R90). -/
def macAct (s : State) (lc : Nat) (acc : Bool) (tile : Nat) (fp32 popa popb : Bool) (a b : Block) : State :=
  s.modCore lc (fun c =>
    let c := (if acc then c else c.dropLoad tile).applySums acc tile (groupSums fp32 a b)
    let c := (c.popFeed .a popa).popFeed .b popb
    { c with arr := { c.arr with opTile := some tile, active := true, level := 8, rising := false, riseCyc := 0 } })

/-- A `MAC` or `MACZ` must wait for the ramp: ramp mode and level below 8 (R89, R95). -/
def Core.rampWait (c : Core) : Bool := c.arr.ramp && c.arr.level < 8

/-- Start a rise unless one is in progress (R95, R96). -/
def Core.startRise (c : Core) : Core :=
  if c.arr.rising then c else { c with arr := { c.arr with rising := true, riseCyc := 0 } }

/-- Count a waiting cycle of a `MAC`: the ramp first, else blocks; a ramp wait starts the rise itself (R96, R99). -/
def Core.macWait (c : Core) : Core :=
  if c.rampWait then { c.startRise with arr := { c.startRise.arr with rwait := bump c.arr.rwait 1 } }
  else { c with arr := { c.arr with cwait := bump c.arr.cwait 1 } }

/-- The issue of `MAC` and `MACZ`: waits for blocks and the ramp, then the hazards of Table 3.4 in order, then the
effect (R89 to R91, R141). -/
def macIssue (i : Instr) (lc : Nat) (acc : Bool) (tile : Nat) (fp32 popa popb : Bool) (s : State) : Out :=
  let c := s.core lc
  match c.head .a, c.head .b with
  | some a, some b =>
    slotIssue i lc s c.rampWait Core.macWait
      (if c.tileBusy tile then arrayHazard s lc 1 tile
       else if a.fp32 ≠ fp32 || b.fp32 ≠ fp32 then arrayHazard s lc 3 tile
       else macAct s lc acc tile fp32 popa popb a b)
  | _, _ => slotIssue i lc s true Core.macWait s

/-- `MAC`: tile ← tile + S (R82). -/
def execMac (lc : Lc) (tile : Fin 4) (fp32 popa popb : Bool) (s : State) : Out :=
  macIssue (.mac lc tile fp32 popa popb) lc true tile fp32 popa popb s

/-- `MACZ`: tile ← S (R82). -/
def execMacz (lc : Lc) (tile : Fin 4) (fp32 popa popb : Bool) (s : State) : Out :=
  macIssue (.macz lc tile fp32 popa popb) lc false tile fp32 popa popb s

/-- A tile cleared to +0 (R82). -/
def Core.clearTile (c : Core) (tile : Nat) : Core :=
  let c := c.dropLoad tile
  { c with arr := { c.arr with tiles := Tbl.clearRange c.arr.tiles (tile * 1024) (tile * 1024 + 1024), opTile := some tile } }

/-- `ACLR`: every element of the tile ← +0, unless the tile is busy (R82, R90). -/
def execAclr (lc : Lc) (tile : Fin 4) (s : State) : Out :=
  slotIssue (.aclr lc tile) lc s false id
    (if (s.core lc).tileBusy tile then arrayHazard s lc 1 tile
     else s.modCore lc (fun c => c.clearTile tile))

/-- The level after an `ARAMP`: 8 at once in hold mode; in ramp mode a rise from below 8, or n restarts (Table 3.5). -/
def Core.aramp (c : Core) : Core :=
  if c.arr.ramp && c.arr.level < 8 then c.startRise
  else { c with arr := { c.arr with level := 8, quiet := 0, rising := false, fresh := true } }

/-- `ARAMP` (R95). -/
def execAramp (lc : Lc) (s : State) : Out :=
  slotIssue (.aramp lc) lc s false id (s.modCore lc Core.aramp)

/-! ## The line port (R84 to R92) -/

/-- The tile element at element `e` of the moved groups: group e / 64, its line and place (R84). -/
def lineElem (axis : Bool) (e : Nat) : Nat := if axis then 32 * (e % 32) + e / 32 else e

/-- The values of `n` line groups of a tile in transfer order (R84). -/
def readGroups (c : Core) (tile : Nat) (axis : Bool) (n : Nat) : List Word :=
  (List.range (64 * n)).map (fun e => c.tileElem tile (lineElem axis e))

/-- A core with `n` line groups of a tile written in transfer order (R84). -/
def writeGroups (c : Core) (tile : Nat) (axis : Bool) (ws : List Word) : Core :=
  { c with arr := { c.arr with
      tiles := ws.zipIdx.foldl (fun t e => Tbl.set 0 t (tile * 1024 + lineElem axis e.2) e.1) c.arr.tiles } }

/-- A readout of `n` groups: the slot takes them and reads +0 beyond (R117), the groups are cleared if asked (R85), the slot is FILLING,
port and tile are busy for n cycles (R90, Table 4.6). -/
def Core.readout (c : Core) (tile : Nat) (axis clr : Bool) (n slot : Nat) : Core :=
  let ws := readGroups c tile axis n
  let c := (if clr then writeGroups c tile axis (ws.map (fun _ => 0)) else c).cleared (slotKey slot) 4096
  { c with
    arr := { c.arr with port := some { tile := tile, till := c.seq.cycle + n } }
    fv := { c.fv with
      slotData := Tbl.setMany 0 (Tbl.clearRange c.fv.slotData (slot * 1024) (slot * 1024 + 1024)) (slot * 1024) ws
      slots := Tbl.set .free c.fv.slots slot .filling
      slotDue := Tbl.set 0 c.fv.slotDue slot (c.seq.cycle + 6 + n) } }

/-- The state of a tile-queue slot (Table 4.6). -/
def Core.slot (c : Core) (k : Nat) : SlotState := Tbl.get .free c.fv.slots k

/-- A waiting cycle for a block or a slot counts in `ARR_CWAIT` (R99). -/
def Core.slotWait (c : Core) : Core := { c with arr := { c.arr with cwait := bump c.arr.cwait 1 } }

/-- A line-port readout: waits for the slot to be free; the port and the tile must be free, also of an array operation
of its bundle (R85, R89, R90, Table 3.4). -/
def execLinePortReadout (lc : Lc) (tile : Fin 4) (axis clr : Bool) (len : Fin 16) (slot : Fin 8) (s : State) : Out :=
  let c := s.core lc
  slotIssue (.linePortReadout lc tile axis clr len slot) lc s (c.slot slot ≠ .free) Core.slotWait
    (if c.arr.opTile = some tile.val then arrayHazard s lc 1 tile
     else if c.portBusy then arrayHazard s lc 2 tile
     else s.modCore lc (fun c => c.readout tile axis clr (len.val + 1) slot))

/-- The values a load takes from its register pair: element e is read in its group's cycle; a register not yet readable
then gives a free value (R86, R128). -/
def loadValues (c : Core) (draws pair n : Nat) : List Word :=
  (List.range (64 * n)).map (fun e => vregElem c draws 0 (2 * pair) e (3 + e / 64))

/-- A load of values into line groups: subnormals flushed, NaNs canonical, flushes counted; port and tile busy
(R61, R86, R90). -/
def Core.load (c : Core) (draws tile : Nat) (axis : Bool) (n pair : Nat) : Core :=
  let rs := (loadValues c draws pair n).map accLoad
  let c := ((writeGroups c tile axis (rs.map (·.1))).raise (orFlags (rs.map (·.2.1)))).flushed (countFlush rs)
  { c with arr := { c.arr with
      port := some { tile := tile, till := c.seq.cycle + n }
      load := some { pair := pair, tile := tile, axis := axis, groups := n, till := c.seq.cycle + 4 + n } } }

/-- A line-port load (R86, R90). -/
def execLinePortLoad (lc : Lc) (tile : Fin 4) (axis : Bool) (len : Fin 16) (vpair : Fin 32) (s : State) : Out :=
  let c := s.core lc
  slotIssue (.linePortLoad lc tile axis len vpair) lc s false id
    (if c.arr.opTile = some tile.val then arrayHazard s lc 1 tile
     else if c.portBusy then arrayHazard s lc 2 tile
     else
      let s := coreRead s 0xFF lc c.seq.next [(vregKey (2 * vpair), 256 * (len.val + 1))]
      (s.modCore lc (fun c => c.load s.draws tile axis (len.val + 1) vpair)).drawn 16384)

/-! ## Tile-queue slots and the activity level, as time moves them -/

/-- A readout completes its slot: FILLING becomes FULL (R115). -/
def execTileSlotFull (lc : Lc) (slot : Fin 8) (s : State) : Out :=
  if (s.core lc).slot slot = .filling then
    .next (s.modCore lc (fun c => { c with fv := { c.fv with slots := Tbl.set .free c.fv.slots slot .full } }))
  else .next s

/-- The last read of a releasing instruction ends: DRAINING becomes FREE, the contents stay (R115, R117). -/
def execTileSlotFree (lc : Lc) (slot : Fin 8) (s : State) : Out :=
  if (s.core lc).slot slot = .draining then
    .next (s.modCore lc (fun c => { c with fv := { c.fv with slots := Tbl.set .free c.fv.slots slot .free } }))
  else .next s

/-- A fall of the level is due: with the end of every fourth pause cycle (R97), outside a pause by the count of non-active
cycles (R95, log 91). -/
def Core.fallDue (c : Core) : Bool :=
  !c.arr.rising && 0 < c.arr.level && (c.arr.fall || (!c.seq.paused && levelAfter c.arr.quiet c.linger < c.arr.level))

/-- The activity level falls by one where the linger and the count of non-active cycles ask for it (R95). -/
def execActivityLevelFall (lc : Lc) (s : State) : Out :=
  if (s.core lc).fallDue then
    .next (s.modCore lc (fun c => { c with arr := { c.arr with level := c.arr.level - 1, fall := false } }))
  else .next s

/-- A step of a rise is due: every sixth cycle (R95). -/
def Core.riseDue (c : Core) : Bool := c.arr.rising && 6 ≤ c.arr.riseCyc

/-- The activity level rises by one in a ramp; at 8 the rise ends and n restarts (R95). -/
def execActivityLevelRise (lc : Lc) (s : State) : Out :=
  if (s.core lc).riseDue then
    .next (s.modCore lc (fun c => { c with arr := { c.arr with
      level := min 8 (c.arr.level + 1)
      rising := c.arr.level + 1 < 8
      riseCyc := c.arr.riseCyc - 6
      quiet := 0 } }))
  else .next s

end Sys2Proof.Machine
end

