-- ==== Sys2Proof/Machine/HostOps.lean ====
section
/-! DEFINITION. The host interface's shared operations: host memory, queues, completions, and the order of checks that
every command packet goes through ("Host interface and command packets", R373 to R381, R390). -/

namespace Sys2Proof.Machine

/-! ## Host memory -/

/-- `n` bytes of host memory. -/
def State.hostBytes (s : State) (a n : Nat) : List Byte := (List.range n).map (fun i => Tbl.get 0 s.hostMem (a + i))

/-- Host memory with bytes written. -/
def State.hostPut (s : State) (a : Nat) (bs : List Byte) : State := { s with hostMem := Tbl.setMany 0 s.hostMem a bs }

/-- A request to [a, a + n) of host memory ends with an error (log 10). -/
def State.hostFails (s : State) (a n : Nat) : Bool :=
  n ≠ 0 && (List.range ((a + n - 1) / 4096 - a / 4096 + 1)).any (fun i => Tbl.get false s.hostBad (a / 4096 + i))

/-! ## Queues and completions (R373, R374, R376) -/

/-- Host queue `q`. -/
def State.queue (s : State) (q : Nat) : HostQueue := Tbl.get HostQueue.init s.hif.queues q

/-- The part with host queue `q` changed. -/
def State.modQueue (s : State) (q : Nat) (f : HostQueue → HostQueue) : State :=
  { s with hif := { s.hif with queues := Tbl.modify HostQueue.init s.hif.queues q f } }

/-- The completion ring has room for one more entry before the last valid head (R374). -/
def HostQueue.hasRoom (x : HostQueue) : Bool := (x.cqSlot + 1) % 2 ^ x.cqLog ≠ x.cqHead

/-- The bytes of a completion entry (Table 13.7). -/
def HostQueue.entry (x : HostQueue) (c : Cpl) : List Byte :=
  leBytes 4 c.cid.toNat ++ leBytes 1 c.status ++ leBytes 1 (b2n c.ign) ++ leBytes 2 x.sqHead ++ leBytes 8 c.r0
    ++ leBytes 8 c.r1 ++ leBytes 7 0 ++ leBytes 1 (128 * b2n x.cqPhase)

/-- Send the MSI-X message of a queue (R376). -/
def sendIrq (s : State) (q : Nat) : State :=
  let v := (s.queue q).vector
  (({ s with hif := { s.hif with irqs := Tbl.modify 0 s.hif.irqs v (· + 1) } }).modQueue q
    (fun x => { x with gathered := 0 }))

/-- Write a completion entry into the next slot, the ring having room; a failed write puts the queue in state 2 with
`ERR` 3 and the completion waits (R374, R376, Table 13.5). -/
def writeCpl (s : State) (q : Nat) (c : Cpl) (command : Bool) : State :=
  let x := s.queue q
  let a := x.cqBase + 32 * x.cqSlot
  if s.hostFails a 32 then
    s.modQueue q (fun x => { x with st := .err, err := 3, waiting := if command then x.waiting ++ [c] else x.waiting })
  else
    let last := x.cqSlot + 1 = 2 ^ x.cqLog
    let s := (s.hostPut a (x.entry c)).modQueue q (fun x => { x with
      cqSlot := if last then 0 else x.cqSlot + 1
      cqPhase := if last then !x.cqPhase else x.cqPhase
      gathered := x.gathered + 1
      coalAt := if x.gathered = 0 then s.us else x.coalAt })
    let s := if command then { s with hif := { s.hif with cpl := bump s.hif.cpl 1 } } else s
    if x.irqEn && max 1 x.coalCnt ≤ x.gathered + 1 then sendIrq s q else s

/-- Post a completion, or let it wait for ring room behind earlier ones (R374); it also waits for bus mastering (R371). -/
def postCpl (s : State) (q : Nat) (c : Cpl) : State :=
  let x := s.queue q
  if x.waiting = [] && x.hasRoom && s.hif.bme then writeCpl s q c true
  else s.modQueue q (fun x => { x with waiting := x.waiting ++ [c] })

/-- Complete a command in progress with its status and results (R376, R390). -/
def completeCmd (s : State) (r : CmdRef) (status : Nat) (ign : Bool) (r0 r1 : Nat) : State :=
  match (s.queue r.q).running.find? (fun x => x.id = r.id) with
  | none => s
  | some x =>
    postCpl (s.modQueue r.q (fun y => { y with running := y.running.filter (fun z => z.id ≠ r.id) })) r.q
      { cid := x.cid, status := status, ign := ign, r0 := r0, r1 := r1 }

/-- Complete the commands that wait for something. -/
def completeAll (s : State) (rs : List CmdRef) (status r0 : Nat) : State :=
  rs.foldl (fun s r => completeCmd s r status false r0 0) s

/-! ## Acceptance, order and checks (R371, R376 to R381) -/

/-- The data buffer of a command (Table 13.9). -/
inductive DataBuf where
  /-- none -/
  | none
  /-- in, exactly so many bytes -/
  | input (n : Nat)
  /-- out, at least so many bytes -/
  | output (n : Nat)
  /-- checked by the command's own rules -/
  | own
  /-- in, its length checked by the command's own rules; its reserved fields lie in the first bytes, at most so many -/
  | front (n : Nat)
  deriving DecidableEq, Repr

/-- What Table 13.9 says of an opcode. -/
structure CmdKind where
  /-- kind T rather than H -/
  torzan : Bool
  /-- kind E -/
  expert : Bool
  /-- marked * -/
  anyPhase : Bool
  /-- allowed `PLEN` values -/
  plens : List Nat
  /-- data buffer, from the parameter block -/
  buf : List Byte → DataBuf
  /-- a reserved byte or bit of the parameter block or input buffer is nonzero -/
  rsv : List Byte → List Byte → Bool
  /-- an expert field is set -/
  expertField : List Byte → List Byte → Bool
  /-- the fields of the parameter block lie in their ranges -/
  range : List Byte → Bool
  /-- what a sequencer command reads and writes -/
  foot : State → List Byte → List Foot
  /-- it takes effect in the Kiosk's order (R34, R377) -/
  kiosk : List Byte → Bool

/-- A command that has passed to its own rules. -/
structure CmdRun where
  /-- its reference -/
  ref : CmdRef
  /-- parameter block -/
  ps : List Byte
  /-- input buffer -/
  data : List Byte
  /-- `DADDR` -/
  daddr : Nat
  /-- `DLEN` -/
  dlen : Nat
  /-- its queue's expert flag is effective -/
  expert : Bool
  deriving DecidableEq, Repr

/-- What a command's own rules answer. -/
inductive Act where
  /-- completed with status, `IGN` and results -/
  | done (st : State) (status : Nat) (ign : Bool) (r0 r1 : Nat)
  /-- in progress: completed later -/
  | later (st : State)
  /-- it waits by one of its rules, and nothing changes -/
  | wait
  /-- it waits by one of its rules, which have begun to act -/
  | waits (st : State)

/-- Completed with a status alone. -/
def Act.status (s : State) (n : Nat) : Act := .done s n false 0 0

/-- The expert flag of a queue is effective (R379). -/
def State.expertQueue (s : State) (q : Nat) : Bool := s.hif.expertEn && (q = 0 || (s.queue q).expert)

/-- `FLAGS`.`INLINE`. -/
def entInline (e : Entry) : Bool := e.flags.getLsbD 0
/-- `FLAGS`.`FENCE`. -/
def entFence (e : Entry) : Bool := e.flags.getLsbD 1

/-- Bytes 32 to 63. -/
def entTail (e : Entry) : List Byte := leBytes 32 e.tail.toNat

/-- The parameter block (R375). -/
def State.params (s : State) (e : Entry) : List Byte :=
  if entInline e then (entTail e).take e.plen.toNat
  else s.hostBytes (leField (entTail e) 0 7) (min 64 e.plen.toNat)

/-- The parameter block or an input buffer cannot be read (`CMD_HOST_DMA`). -/
def State.cmdDmaFails (s : State) (k : CmdKind) (e : Entry) : Bool :=
  (!entInline e && s.hostFails (leField (entTail e) 0 7) (min 64 e.plen.toNat)) ||
  (match k.buf (s.params e) with
   | .input _ => s.hostFails e.daddr.toNat e.dlen.toNat
   | .front n => s.hostFails e.daddr.toNat (min e.dlen.toNat n)
   | _ => false)

/-- Reserved fields of the entry; `CID` 0xFFFF_FFFF is among them (Table 13.6, DEDUCED: log 11). -/
def entReserved (e : Entry) : Bool :=
  4 ≤ e.flags.toNat || e.rsv3 ≠ 0 || e.rsv12 ≠ 0 || e.cid = 0xFFFFFFFF#32 ||
  (if entInline e then !allZero ((entTail e).drop e.plen.toNat) else !allZero ((entTail e).drop 8))

/-- Two byte ranges of which one is written meet (R377). -/
def Foot.clash (a b : Foot) : Bool := (a.write || b.write) && a.da < b.da + b.len && b.da < a.da + a.len

/-- May a command start behind the earlier ones of its queue (R377)? -/
def mayStart (earlier : List Running) (torzan fence : Bool) (foot : List Foot) : Bool :=
  (earlier.filter (·.started)).length < 64 && earlier.all (·.started) &&
  (if torzan || fence then earlier = []
   else earlier.all (fun r => !r.torzan && !foot.any (fun a => r.foot.any (Foot.clash a))))

/-- The wrong length or range of step 5 of R381. -/
def paramBad (k : CmdKind) (e : Entry) (ps : List Byte) : Bool :=
  !k.plens.contains e.plen.toNat || (entInline e && 32 < e.plen.toNat) ||
  (!entInline e && leField (entTail e) 0 7 % 8 ≠ 0) ||
  (match k.buf ps with
   | .none => e.daddr ≠ 0 || e.dlen ≠ 0
   | .input n => e.dlen.toNat ≠ n
   | .output n => e.dlen.toNat < n
   | .own | .front _ => false) || !k.range ps

/-- The status of the checks of R381 before the command's own rules, 0 when they pass. -/
def checkCmd (s : State) (k : CmdKind) (q : Nat) (e : Entry) (ps data : List Byte) : Nat :=
  if entReserved e then 0x02
  else if s.cmdDmaFails k e then 0x0C
  else if k.plens.contains e.plen.toNat && k.rsv ps data then 0x02
  else if (k.expert || (k.plens.contains e.plen.toNat && k.expertField ps data)) && !s.expertQueue q then 0x04
  else if !k.anyPhase && (!s.boot.ready || s.boot.fatal) then 0x05
  else if paramBad k e ps then 0x03
  else 0

/-- Torzan commands in progress in the whole part (R378). -/
def State.torzanRunning (s : State) : Nat :=
  (s.hif.queues.map (fun e => (e.2.running.filter (·.torzan)).length)).sum

/-- The number of the accepted command that a row carries out, if it was accepted before and is held. -/
def HostQueue.accepted (x : HostQueue) (e : Entry) : Option Nat :=
  (x.running.find? (fun r => r.held && r.e = e)).map (·.id)

/-- Accept a fetched command: counted, and put behind the earlier ones of its queue (R376). -/
def acceptCmd (s : State) (torzan kiosk : Bool) (foot : List Foot) (q : Nat) (e : Entry) : State :=
  let s := s.modQueue q (fun x => { x with running := x.running ++
    [{ id := s.hif.nextId, cid := e.cid, torzan := torzan, foot := foot, kiosk := kiosk, started := false, held := true, e := e }] })
  { s with hif := { s.hif with acc := bump s.hif.acc 1, nextId := s.hif.nextId + 1 } }

/-- Mark a command started. -/
def startCmd (s : State) (r : CmdRef) : State :=
  s.modQueue r.q (fun x => { x with
    running := x.running.map (fun y => if y.id = r.id then { y with started := true } else y) })

/-- A command in progress whose row is no longer held. -/
def parkCmd (s : State) (r : CmdRef) : State :=
  s.modQueue r.q (fun x => { x with
    running := x.running.map (fun y => if y.id = r.id then { y with held := false } else y) })

/-- Carry a started command through the checks of R381 and its own rules. -/
def runStarted (i : Instr) (k : CmdKind) (r : CmdRef) (e : Entry) (s : State) (act : CmdRun → State → Act) : State :=
  let ps := s.params e
  let data := match k.buf ps with
    | .input _ => s.hostBytes e.daddr.toNat e.dlen.toNat
    | .front n => s.hostBytes e.daddr.toNat (min e.dlen.toNat n)
    | _ => []
  let s1 := startCmd s r
  match checkCmd s k r.q e ps data with
  | 0 =>
    match act { ref := r, ps := ps, data := data, daddr := e.daddr.toNat, dlen := e.dlen.toNat, expert := s.expertQueue r.q } s1 with
    | .done t status ign r0 r1 => completeCmd t r status ign r0 r1
    | .later t => parkCmd t r
    | .wait => s1.hold i
    | .waits t => t.hold i
  | n => completeCmd s1 r n false 0 0

/-- Does a command reach host memory beside its completion? -/
def needsHost (k : CmdKind) (s : State) (e : Entry) : Bool := !entInline e || k.buf (s.params e) ≠ .none

/-- A command of the Kiosk's order was accepted before this one and is still in progress (R34, R377). -/
def State.kioskBusy (s : State) (id : Nat) : Bool := s.hif.queues.any (fun e => e.2.running.any (fun r => r.kiosk && r.id < id))

/-- A command packet: accepted from an enabled queue, started when R377 and R378 let it, checked by R381, carried out by its
own rules. A command that must wait is held. On a queue that fetches nothing the event does not arise. -/
def hostRun (i : Instr) (k : CmdKind) (q : BitVec 16) (e : Entry) (s : State) (act : CmdRun → State → Act) : Out :=
  let n := q.toNat
  let x := s.queue n
  let go (s : State) (id : Nat) : Out :=
    let x := s.queue n
    let earlier := x.running.takeWhile (fun r => r.id ≠ id)
    if !mayStart earlier k.torzan (entFence e) (k.foot s (s.params e)) || (needsHost k s e && !s.hif.bme)
        || (k.kiosk (s.params e) && s.kioskBusy id) then .next (s.hold i)
    else .next (runStarted i k { q := n, id := id } e s act)
  match x.accepted e with
  | some id => go s id
  | none =>
    if x.st ≠ .on || x.draining then .next s
    else if k.torzan && 256 ≤ s.torzanRunning then .next (s.hold i)
    else go (acceptCmd s k.torzan (k.kiosk (s.params e)) (k.foot s (s.params e)) n e) s.hif.nextId

/-- A kind with the usual empty parts. -/
def CmdKind.basic (torzan anyPhase : Bool) (plens : List Nat) (rsv : List Byte → Bool) (range : List Byte → Bool) : CmdKind :=
  { torzan := torzan, expert := false, anyPhase := anyPhase, plens := plens, buf := fun _ => .none
    rsv := fun ps _ => rsv ps, expertField := fun _ _ => false, range := range, foot := fun _ _ => [], kiosk := fun _ => false }

end Sys2Proof.Machine
end

