-- ==== Sys2Proof/Machine/Sites.lean ====
section
/-! DEFINITION. Sites, the logical map, clusters, partition nodes and clock regions as their registers show them
("Layers, sites and clock regions" R20 to R39, R46, R47; "Memory tiers, addressing and movers" R164, R165). -/

namespace Sys2Proof.Machine

/-! ## Descriptors (Tables 1.4, 1.5, 1.6, 1.7, 6.2) -/

/-- `SITE_DESC` of site `i` (Table 1.4). -/
def siteDesc (s : State) (i : Nat) : Word :=
  let x := s.site i
  BitVec.ofNat 32 (x.state.toNat + 4 * b2n x.vchOk + 16 * x.lcol.toNat + 2 ^ 12 * x.stress.toNat + 2 ^ 16 * x.fmax.toNat
    + 2 ^ 22 * b2n x.retired + 2 ^ 23 * b2n x.slow)

/-- `CLUSTER_DESC` before the map build (Table 1.5). -/
def clusterDescReset : Word := 0xF80#32

/-- `CLUSTER_DESC` of cluster `cl`. -/
def clusterDesc (s : State) (cl : Nat) : Word := Tbl.get clusterDescReset s.clusters cl

/-- `COMMONS_DESC` of number `n` (Table 6.2). -/
def commonsDesc (s : State) (n : Nat) : Word :=
  let here := s.commonsPresent n
  let j := s.jobs.find? (fun j => j.claims.any (fun c => c.kind = 3 && c.unit ≤ n && n < c.unit + c.length))
  BitVec.ofNat 32 ((if here then (s.commonsSite n).getD 0x3FF else 0x3FF) + 2 ^ 10 * b2n here + 2 ^ 11 * b2n j.isSome
    + 2 ^ 12 * (j.map (·.node)).getD 0)

/-! ## The partition tree (R31 to R33) -/

/-- Node `n` of a tree. -/
def treeNode (t : Tbl PtnNode) (n : Nat) : PtnNode := Tbl.get PtnNode.init t n

/-- The node of a tree exists; node 0 always does. -/
def treeValid (t : Tbl PtnNode) (n : Nat) : Bool := n = 0 || (treeNode t n).valid

/-- The node that a cluster is attached to. -/
def treeHome (t : Tbl PtnNode) (cl : Nat) : Nat :=
  ((List.range 64).find? (fun n => n ≠ 0 && (treeNode t n).valid && (treeNode t n).mask.getLsbD cl)).getD 0

/-- A node and its ancestors up to the root, by at most `k` steps. -/
def treeUp (t : Tbl PtnNode) : Nat → Nat → List Nat
  | 0, n => [n]
  | k + 1, n => if n = 0 then [0] else n :: treeUp t k (treeNode t n).parent

/-- The cluster set of a node (R31). -/
def treeClusters (t : Tbl PtnNode) (n : Nat) : List Nat :=
  (List.range 40).filter (fun cl => (treeUp t 64 (treeHome t cl)).contains n)

/-- The tree obeys R31: valid parents of lower number, each cluster named by at most one node. -/
def treeOk (t : Tbl PtnNode) : Bool :=
  (List.range 64).all (fun n => n = 0 || !(treeNode t n).valid ||
    ((treeNode t n).parent < n && treeValid t (treeNode t n).parent)) &&
  (List.range 40).all (fun cl =>
    ((List.range 64).filter (fun n => n ≠ 0 && (treeNode t n).valid && (treeNode t n).mask.getLsbD cl)).length ≤ 1)

/-- The node exists. -/
def State.nodeValid (s : State) (n : Nat) : Bool := n < 64 && treeValid s.ptn n

/-- The node and its ancestors. -/
def State.nodeUp (s : State) (n : Nat) : List Nat := treeUp s.ptn 64 n

/-- The clusters of a node. -/
def State.nodeClusters (s : State) (n : Nat) : List Nat := treeClusters s.ptn n

/-- The node that a cluster is attached to. -/
def State.clusterNode (s : State) (cl : Nat) : Nat := treeHome s.ptn cl

/-- The logical cores of a node's cluster set. -/
def State.nodeCores (s : State) (n : Nat) : List Nat :=
  (s.nodeClusters n).flatMap (fun cl => (List.range 20).map (fun j => cl * 20 + j))

/-- Loaded jobs on the node or a descendant. -/
def State.jobsUnder (s : State) (n : Nat) : List Job := s.jobs.filter (fun j => (s.nodeUp j.node).contains n)

/-- A loaded job occupies the node, a descendant or an ancestor of it (R33). -/
def State.nodeTaken (s : State) (n : Nat) : Bool :=
  s.jobs.any (fun j => (s.nodeUp j.node).contains n || (s.nodeUp n).contains j.node)

/-- `PTN_NODE` of node `n` (Table 1.6). -/
def ptnNode (s : State) (n : Nat) : Dword :=
  if !treeValid s.ptn n then 0
  else
    let x := treeNode s.ptn n
    BitVec.ofNat 64 (x.mask.toNat + 2 ^ 40 * x.parent + 2 ^ 48 * (if n = 0 then 40 else (s.nodeClusters n).length)
      + 2 ^ 56 * b2n (s.jobs.any (fun j => (s.nodeUp n).contains j.node)) + 2 ^ 57 * b2n (s.busy.contains n) + 2 ^ 63)

/-! ## Clock regions (R35 to R39) -/

/-- Clock region `r`. -/
def State.clk (s : State) (r : Nat) : ClockRegion := Tbl.get ClockRegion.init s.regions r

/-- The part with a clock region changed. -/
def State.modClk (s : State) (r : Nat) (f : ClockRegion → ClockRegion) : State :=
  { s with regions := Tbl.modify ClockRegion.init s.regions r f }

/-- Thermal control of region `r`. -/
def State.therm (s : State) (r : Nat) : ThermRegion := Tbl.get ThermRegion.init s.thm.regions r

/-- The effective target: the lowest of `FREQ_TARGET`, the limits of the loops and `FMAX_REGION` (R38, R39). -/
def State.clkTarget (s : State) (r : Nat) : Nat :=
  min (min (min (s.clk r).target.toNat 40) (s.clk r).fmax) (min s.pwr.freqLim (s.therm r).lim)

/-- `REGION_CLK` (Table 1.7). -/
def regionClk (s : State) (r : Nat) : Word :=
  let c := s.clk r
  BitVec.ofNat 32 (c.target.toNat + 2 ^ 8 * c.now + 2 ^ 16 * c.fmax + 2 ^ 22 * b2n c.locked
    + 2 ^ 23 * b2n (c.locked && c.now ≠ s.clkTarget r))

/-- The clusters of a region: rows 2r and 2r + 1 of every layer (R35). -/
def regionClusters (r : Nat) : List Nat :=
  (List.range 4).flatMap (fun k => [k * 10 + 2 * r, k * 10 + 2 * r + 1])

/-- The sites of a row of one layer. -/
def clusterSites (cl : Nat) : List Nat := (List.range 22).map (rowSite cl)

/-- The logical sites of a region. -/
def State.regionLogical (s : State) (r : Nat) : List Nat :=
  ((regionClusters r).flatMap clusterSites).filter (fun i => (s.site i).state = 1)

/-- `FMAX_REGION` by R46: the lowest `FMAX` of the region's logical cores, 40 without any. -/
def State.fmaxRule (s : State) (r : Nat) : Nat :=
  (s.regionLogical r).foldl (fun m i => min m (s.site i).fmax.toNat) 40

/-- Set `FMAX_REGION` of a region (R46, R47). -/
def setFmax (s : State) (r : Nat) : State := s.modClk r (fun c => { c with fmax := s.fmaxRule r })

/-! ## Vertical links (Table 1.9) -/

/-- Seams that a vertical link between compute layers `l` and `l + 1` crosses (Table 1.9). -/
def vertSeams (l : Nat) : List Nat := if l = 0 then [3, 4] else if l = 1 then [5, 6, 7, 8, 9] else [10, 11]

/-- A failed bundle cuts the vertical links at a position between compute layers `l` and `l + 1` (R460). -/
def State.vertDead (s : State) (l pos : Nat) : Bool :=
  (vertSeams l).any (fun j => (Tbl.get Bundle.init s.bundles (j * 220 + pos)).failed)

/-! ## The logical map (R22 to R29, R475) -/

/-- A site may hold a logical core. A channel that fails at run time clears `VCH_OK` at once, and with it this condition, while
the row's map stands until its boundary: R23 says both that a usable site has `VCH_OK` = 1 and that such a site stops being
usable at the boundary (R23, log 88). -/
def SiteRec.usable (x : SiteRec) : Bool := !x.retired && !x.slow && x.passed && x.vchOk

/-- A row with logical columns assigned to its lowest usable sites, or withdrawn; the others gateways or dark
(R23, R24, R28). -/
def assignRow (s : State) (cl : Nat) : State :=
  let us := (List.range 22).filter (fun c => (s.site (rowSite cl c)).usable)
  let us := if us.length < 20 then [] else us.take 20
  (List.range 22).foldl (fun s c => s.modSite (rowSite cl c) (fun x =>
    match us.findIdx? (· = c) with
    | some j => { x with state := 1, lcol := BitVec.ofNat 5 j }
    | none => { x with state := if x.niOk then 2 else 3, lcol := 31 })) s

/-- `CLUSTER_DESC` of a row as its map stands (Table 1.5). -/
def clusterWord (s : State) (cl : Nat) : Word :=
  let cols := (List.range 22).filter (fun c => (s.site (rowSite cl c)).state = 1)
  let usable := ((List.range 22).filter (fun c => (s.site (rowSite cl c)).usable)).length
  let gap := (List.range 19).find? (fun j => cols.getD j 0 + 3 ≤ cols.getD (j + 1) 0)
  BitVec.ofNat 32 (usable + 2 ^ 5 * b2n (usable < 20) + 2 ^ 6 * b2n gap.isSome + 2 ^ 7 * gap.getD 0x1F
    + 2 ^ 12 * b2n (cols.zipIdx.any (fun e => e.1 ≠ e.2)))

/-- Clear a unit of device memory by its valid map. -/
def clearUnit (s : State) (space unit : Nat) : State :=
  clearLines s (mkDa space unit 0) (mkDa space unit 0 + spaceSize space)

/-- The contents of a unit moved to another number, the plot behind it being the same. -/
def moveUnit (old s : State) (a b : Nat) : State :=
  let lo := mkDa 3 a 0
  let d := mkDa 3 b 0
  let move {α : Type} (t o : Tbl α) (k : Nat) : Tbl α :=
    Tbl.splice t (d / k) ((d + spaceSize 3) / k)
      ((Tbl.slice o (lo / k) ((lo + spaceSize 3) / k)).map (fun e => (e.1 - lo / k + d / k, e.2)))
  { s with mem := { s.mem with
      bytes := move s.mem.bytes old.mem.bytes 1
      valid := move s.mem.valid old.mem.valid 64
      flaws := move s.mem.flaws old.mem.flaws 1
      mapFlaws := move s.mem.mapFlaws old.mem.mapFlaws 64 } }

/-- Rebuild a row's map and all that hangs on it: valid maps of every site whose use changed clear, a core's domain follows
its site, a gateway's plot keeps its contents under its new number, and `CLUSTER_DESC` is rewritten (R23 to R29, R475). -/
def rebuildRow (s : State) (cl : Nat) : State :=
  let t := assignRow s cl
  let lcs := (List.range 20).map (fun j => cl * 20 + j)
  let t := lcs.foldl (fun t lc =>
    if t.siteOf lc = s.siteOf lc then t
    else
      let t := clearUnit (clearUnit t 1 lc) 2 lc
      match t.siteOf lc with
      | none => t.setCore lc Core.init
      | some i =>
        if (s.site i).state = 1 then t.setCore lc (s.core (cl * 20 + (s.site i).lcol.toNat)) else t.setCore lc Core.init) t
  let closed := closeWhere t (fun e => daSpace e.word = 3 && daUnit e.word / 2 = cl)
  let t := [2 * cl, 2 * cl + 1].foldl (fun t n =>
    if t.commonsSite n = s.commonsSite n then t
    else
      let t := clearUnit t 3 n
      match [2 * cl, 2 * cl + 1].find? (fun m => s.commonsSite m ≠ none && s.commonsSite m = t.commonsSite n) with
      | some m => moveUnit closed t m n
      | none => t) closed
  { t with clusters := Tbl.set clusterDescReset t.clusters cl (clusterWord t cl) }

/-- Send the `MAPUPD` broadcast of rows: every interface of the graph updates and confirms (R235). -/
def sendMapUpd (s : State) (cls : List Nat) : State :=
  let s := broadcast s
  { s with tr := { s.tr with
      updRows := s.tr.updRows ++ cls
      unconfirmed := (List.range 880).filter (fun i => (Tbl.get Router.init s.tr.routers i).present) } }

/-- A map update of the core's row is in progress (R235). -/
def State.mapBusy (s : State) (lc : Nat) : Bool := s.tr.updRows.contains (clusterOf lc)

/-- The health event of a site or its row (Table 17.3 class 0x04). -/
def siteEvent (s : State) (sub site cl : Nat) : State :=
  healthEvent s 4 sub (leBytes 2 site ++ leBytes 1 cl ++ leBytes 1 0 ++ leBytes 4 (siteDesc s site).toNat
    ++ leBytes 4 (clusterDesc s cl).toNat)

end Sys2Proof.Machine
end

