-- ==== Sys2Proof/Machine/Stacks.lean ====
section
/-! DEFINITION. Stacks, regions and units of the Orangery as other commands use them ("Orangery stacks and near-bank
processing" R252, R258, R262, R263). -/

namespace Sys2Proof.Machine

/-! ## Stacks, regions, units -/

/-- The part with a region changed. -/
def State.modRegion (s : State) (k r : Nat) (f : Region → Region) : State :=
  s.modStack k (fun t => { t with regions := Tbl.modify Region.init t.regions r f })

/-- Unit `u`. -/
def Stack.unit (t : Stack) (u : Nat) : BUnit := Tbl.get BUnit.init t.units u

/-- The part with a unit changed. -/
def State.modUnit (s : State) (k u : Nat) (f : BUnit → BUnit) : State :=
  s.modStack k (fun t => { t with units := Tbl.modify BUnit.init t.units u f })

/-- A unit that executes nothing: idle, or stopped by an error (log 12). -/
def BUnit.quiet (x : BUnit) : Bool := x.st = .idle || x.st = .error

/-- Every unit of the stack executes nothing. -/
def Stack.allQuiet (t : Stack) : Bool := t.units.all (fun e => e.2.quiet)

/-- A row unit by its number: banks 30 and 31 (R252). -/
def isRowUnit (u : Nat) : Bool := 30 ≤ u % 32

/-! ## Rows and refresh (R253, R254, R279) -/

/-- The region index of an Orangery DA (R167). -/
def daRegion (da : Nat) : Nat := bits da 39 26

/-- The bank of an Orangery DA, numbered as its unit: channel × 32 + bank (R252, Table 9.1). -/
def daBank (da : Nat) : Nat := 32 * bits da 14 10 + bits da 19 15

/-- The physical row of an Orangery DA (R253). -/
def State.daRow (s : State) (da : Nat) : Nat := 64 * (s.region (daUnit da) (daRegion da)).frame + bits da 25 20

/-- The subarray of a physical row in its bank: that of its frame (R254). -/
def subarray (b row : Nat) : Nat := 16 * b + row / 64 % 16

/-- The row of a bank is open: an access to it is a row hit (R254). -/
def Stack.rowOpen (t : Stack) (b row : Nat) : Bool := Tbl.get 0 t.rows (subarray b row) = row + 1

/-- Open a row of a bank; the open row of its subarray closes (R254). -/
def Stack.openRow (t : Stack) (b row : Nat) : Stack := { t with rows := Tbl.set 0 t.rows (subarray b row) (row + 1) }

/-- The accesses of bytes [da, da + n) open their rows, in ascending order; at most the last row of each bank counts, which the last
1 MiB covers (R253, R254). -/
def State.openRows (s : State) (da n : Nat) : State :=
  if daSpace da ≠ 4 || n = 0 then s
  else
    let hi := (da + n - 1) / 1024
    let lo := max (da / 1024) (hi - 1023)
    s.modStack (daUnit da) (fun t => (List.range (hi + 1 - lo)).foldl (fun t i =>
      t.openRow (daBank (1024 * (lo + i))) (s.daRow (1024 * (lo + i)))) t)

/-- Refreshes of a bank that wait for its units. -/
def Stack.pendingRefresh (t : Stack) (b : Nat) : Nat := Tbl.get 0 t.owed b + Tbl.get 0 t.due b

/-- Every refresh of a bank that waits runs, and with it every open row of the bank closes (R279). -/
def Stack.refreshed (t : Stack) (b : Nat) : Stack :=
  { t with rows := t.rows.filter (fun e => e.1 / 16 ≠ b), owed := Tbl.set 0 t.owed b 0, due := Tbl.set 0 t.due b 0 }

/-- The banks whose refreshes a unit holds back: its own, and of a row unit those of its channel where no other unit runs, save
`keep` (R275, R279). -/
def Stack.heldBanks (t : Stack) (u : Nat) (keep : Option Nat) : List Nat :=
  (if isRowUnit u then (List.range 32).map (fun b => u / 32 * 32 + b) else [u]).filter (fun b =>
    some b ≠ keep && t.pendingRefresh b ≠ 0 && (b = u || (t.unit b).quiet))

/-- The owed refreshes of the banks that a unit leaves alone run (R279). -/
def Stack.settle (t : Stack) (u : Nat) (keep : Option Nat) : Stack := (t.heldBanks u keep).foldl Stack.refreshed t

/-! ## Stopping units, releases (R262, R263, R267) -/

/-- Stop the units of a stack at their step boundaries (R262, R263, R267); their banks' owed refreshes run (R279). -/
def stopUnits (s : State) (k : Nat) (us : Nat → Bool) : State :=
  s.modStack k (fun t =>
    let run := (t.units.filter (fun e => us e.1 && !e.2.quiet)).map (·.1)
    run.foldl (fun t u => t.settle u none) { t with
      units := run.foldl (fun m u => Tbl.modify BUnit.init m u (fun x => { x with st := .idle, refLeft := 0 })) t.units })

/-- The stack of a command that is an Orangery record. -/
def recordStack : Instr → Option Nat
  | .recordNoOp k _ _ => some k.val
  | .pload k _ _ => some k.val
  | .pset k _ _ => some k.val
  | .seed k _ _ => some k.val
  | .start k _ _ => some k.val
  | .stop k _ _ => some k.val
  | .copyin k _ _ => some k.val
  | .copyout k _ _ => some k.val
  | .digest k _ _ => some k.val
  | .release k _ _ => some k.val
  | _ => none

/-- Records of a stack that wait (R267). -/
def State.recQueue (s : State) (k : Nat) : Nat := (s.held.filter (fun i => recordStack i = some k)).length

/-- A record of a stack has left the record queue: releases that stand behind it have one fewer to wait for (R262). -/
def recordLeft (s : State) (k : Nat) : State :=
  if (s.stack k).regions.all (fun e => e.2.relWait = 0) then s
  else s.modStack k (fun t => { t with regions := t.regions.map (fun e => (e.1, { e.2 with relWait := e.2.relWait - 1 })) })

/-- Begin a release (R262 steps 1 and 2): a host's waits for the records that stand in the queue, a record's stands behind none. One of a
region that a release is in progress for joins it (log 106). -/
def startRelease (s : State) (k r : Nat) (abort : Bool) (cmpl : Option Cmpl) (cmd : List CmdRef) : State :=
  let n := if cmpl.isSome then 0 else s.recQueue k
  let s := s.modRegion k r (fun x => if x.bank = .releasing then { x with relCmpl := cmpl.or x.relCmpl, abort := x.abort || abort }
    else { x with bank := .releasing, relCmpl := cmpl, relWait := n, abort := abort, cmd := cmd })
  if abort then stopUnits s k (fun _ => true) else s

end Sys2Proof.Machine
end

