-- ==== Sys2Proof/Machine/Desc.lean ====
section
/-! DEFINITION. Mover descriptors: their fields and the bytes a transfer reads and writes (R177, R178, R181). -/

namespace Sys2Proof.Machine

/-- `SRC` of a descriptor (Table 6.8). -/
def Xfer.src (x : Xfer) : Nat := leField x.desc 0 7
/-- `DST`. -/
def Xfer.dst (x : Xfer) : Nat := leField x.desc 8 15
/-- `ROWLEN`. -/
def Xfer.rowLen (x : Xfer) : Nat := leField x.desc 16 18
/-- `ROWS` + 1. -/
def Xfer.rows (x : Xfer) : Nat := leField x.desc 20 21 + 1
/-- `SRSTRIDE`. -/
def Xfer.srStride (x : Xfer) : Int := sext 32 (leField x.desc 24 27)
/-- `DRSTRIDE`. -/
def Xfer.drStride (x : Xfer) : Int := sext 32 (leField x.desc 28 31)
/-- `SLSTRIDE`. -/
def Xfer.slStride (x : Xfer) : Int := sext 40 (leField x.desc 32 36)
/-- `DLSTRIDE`. -/
def Xfer.dlStride (x : Xfer) : Int := sext 40 (leField x.desc 40 44)

/-- Every reserved byte of the descriptor is zero (Table 6.8). -/
def Xfer.reservedOk (x : Xfer) : Bool :=
  leField x.desc 19 19 = 0 && leField x.desc 22 23 = 0 && leField x.desc 37 39 = 0 && leField x.desc 45 63 = 0
    && leField x.desc 7 7 = 0 && leField x.desc 15 15 = 0

/-- Source offset of row r, an exact signed integer (R177). -/
def Xfer.srcOfs (x : Xfer) (r : Nat) : Int :=
  (bits x.src 39 0 : Int) + (x.iter : Int) * x.slStride + (r : Int) * x.srStride

/-- Destination offset of row r (R177). -/
def Xfer.dstOfs (x : Xfer) (r : Nat) : Int :=
  (bits x.dst 39 0 : Int) + (x.iter : Int) * x.dlStride + (r : Int) * x.drStride

/-- The transfer length L (R177). -/
def Xfer.length (x : Xfer) : Nat := x.rowLen * x.rows

/-- DA of source row r. -/
def Xfer.srcDa (x : Xfer) (r : Nat) : Nat := mkDa (bits x.src 55 52) (bits x.src 51 40) (x.srcOfs r).toNat

/-- DA of destination row r. -/
def Xfer.dstDa (x : Xfer) (r : Nat) : Nat := mkDa (bits x.dst 55 52) (bits x.dst 51 40) (x.dstOfs r).toNat

/-- The (DA, length) ranges a transfer reads. -/
def Xfer.reads (x : Xfer) : List (Nat × Nat) :=
  if x.clear then [] else (List.range x.rows).map (fun r => (x.srcDa r, x.rowLen))

/-- The (DA, length) ranges a transfer writes. -/
def Xfer.writes (x : Xfer) : List (Nat × Nat) := (List.range x.rows).map (fun r => (x.dstDa r, x.rowLen))

/-- Two ranges share a byte. -/
def overlap (a b : Nat × Nat) : Bool := a.1 < b.1 + b.2 && b.1 < a.1 + a.2

/-- Some range of one list shares a byte with some range of the other. -/
def overlaps (a b : List (Nat × Nat)) : Bool := a.any (fun x => b.any (overlap x))

/-- Mover `m` of a core. -/
def Core.mover (c : Core) (m : Nat) : Mover := Tbl.get { queue := [], active := none } c.mov.movers m

/-- A core with mover `m` replaced. -/
def Core.setMover (c : Core) (m : Nat) (x : Mover) : Core :=
  { c with mov := { c.mov with movers := Tbl.set { queue := [], active := none } c.mov.movers m x } }

/-- Every transfer of the core that has not completed. -/
def Core.transfers (c : Core) : List Xfer :=
  (List.range 4).flatMap (fun m => (c.mover m).active.toList ++ (c.mover m).queue)

/-- An access of the core to the ranges `rs` must wait for an earlier transfer: it reads bytes one will write, or, being
a write, bytes one still uses (R102, R188). -/
def Core.orderWait (c : Core) (rs : List (Nat × Nat)) (write : Bool) : Bool :=
  c.transfers.any (fun x => overlaps x.writes rs || (write && overlaps x.reads rs))

end Sys2Proof.Machine
end

