-- ==== Sys2Proof/Machine/Claims.lean ====
section
/-! DEFINITION. The claims of a job as ranges of device addresses (R135, R186, R191, R536). -/

namespace Sys2Proof.Machine

/-- The cores of the job that a claim record applies to. -/
def Claim.coresOf (c : Claim) (j : Job) : List Nat := if bit c.flags 0 then j.cores else [c.lc]

/-- The (DA, length) ranges of a claim record (Table 5.6). -/
def Claim.ranges (c : Claim) (j : Job) : List (Nat × Nat) :=
  match c.kind with
  | 1 => (c.coresOf j).map (fun k => (mkDa 1 k c.base, c.length))
  | 2 => (c.coresOf j).map (fun k => (mkDa 2 k c.base, c.length))
  | 3 => (List.range c.length).map (fun i => (mkDa 3 (c.unit + i) 0, 0x9000000))
  | 4 => [(mkDa 4 c.unit (c.base * 2 ^ 26), c.length * 2 ^ 26)]
  | _ => []

/-- The bytes that a job claims: its cores' feeder stores and the bytes of its claim records (R186). -/
def Job.ranges (j : Job) : List (Nat × Nat) :=
  j.cores.map (fun k => (mkDa 0 k 0, 0x180000)) ++ j.claims.flatMap (fun c => c.ranges j)

/-- The first address from `pos` and below `stop` that no range holds; each step skips to the end of a range. -/
def firstOutside (rs : List (Nat × Nat)) : Nat → Nat → Nat → Option Nat
  | 0, pos, stop => if pos < stop then some pos else none
  | k + 1, pos, stop =>
    if stop ≤ pos then none
    else
      match rs.find? (fun r => r.1 ≤ pos && pos < r.1 + r.2) with
      | none => some pos
      | some r => firstOutside rs k (r.1 + r.2) stop

/-- The first byte of [da, da + n) outside the claims of a job. -/
def Job.gap (j : Job) (da n : Nat) : Option Nat := firstOutside j.ranges (j.ranges.length + 1) da (da + n)

/-- A job claims some byte of [da, da + n). -/
def Job.touches (j : Job) (da n : Nat) : Bool := j.ranges.any (overlap (da, n))

/-- Some loaded job claims a byte of [da, da + n) (R191, R536). -/
def State.claimed (s : State) (da n : Nat) : Bool := s.jobs.any (fun j => j.touches da n)

/-- A job claims the region; the record that does. -/
def Job.orgClaim (j : Job) (stack region : Nat) : Option Claim :=
  j.claims.find? (fun c => c.kind = 4 && c.unit = stack && c.base ≤ region && region < c.base + c.length)

/-- The lowest-numbered logical core of a job on the part. -/
def Job.lowest (j : Job) : Nat := j.cores.headD 0

/-- The core that records what the Xobex and collective engines meet for the job of a core: the lowest-numbered of the job on the part
(Table 7.5, R281). -/
def State.recorder (s : State) (lc : Nat) : Nat := ((s.jobOf lc).map Job.lowest).getD lc

/-- Fault the job of a core for bad data that one of those engines read for it (R211, R212). -/
def poisonJob (s : State) (lc : Nat) : State := poisonFault s (s.recorder lc) (s.core (s.recorder lc)).seq.next

/-- The core that records what the units of a stack meet, if its holder is a job. -/
def State.holderCore (s : State) (k : Nat) : Option Nat :=
  match (s.stack k).holder with
  | some (.job n) => (s.jobAt n).map Job.lowest
  | _ => none

end Sys2Proof.Machine
end

