-- ==== Sys2Proof/Machine/Wire.lean ====
section
/-! DEFINITION. Peers, paths, Xobex headers, and the datagrams that the engines send ("Cuffs, Ethernet and the Xobex
transport", R337 to R341, R343, R345). -/

namespace Sys2Proof.Machine

/-! ## Cuffs, peers and contexts -/

/-- Cuff `c`. -/
def State.cuff (s : State) (c : Nat) : Cuff := Tbl.get Cuff.init s.cuffs c

/-- The part with a Cuff changed. -/
def State.modCuff (s : State) (c : Nat) (f : Cuff → Cuff) : State := { s with cuffs := Tbl.modify Cuff.init s.cuffs c f }

/-- The part with its fabric changed. -/
def State.modFab (s : State) (f : Fabric → Fabric) : State := { s with fab := f s.fab }

/-- The peer entry of a part index. -/
def State.peer (s : State) (p : Nat) : Peer := Tbl.get Peer.init s.fab.peers p

/-- The send context to a part. -/
def State.sendCtx (s : State) (p ctx : Nat) : SendCtx := Tbl.get SendCtx.init s.fab.send (2 * p + ctx)

/-- The part with a send context changed. -/
def State.modSend (s : State) (p ctx : Nat) (f : SendCtx → SendCtx) : State :=
  s.modFab (fun x => { x with send := Tbl.modify SendCtx.init x.send (2 * p + ctx) f })

/-- The receive context from a part. -/
def State.recvCtx (s : State) (p ctx : Nat) : RecvCtx := Tbl.get RecvCtx.init s.fab.recv (2 * p + ctx)

/-- The part with a receive context changed. -/
def State.modRecv (s : State) (p ctx : Nat) (f : RecvCtx → RecvCtx) : State :=
  s.modFab (fun x => { x with recv := Tbl.modify RecvCtx.init x.recv (2 * p + ctx) f })

/-- Xobex queue `q`. -/
def State.xq (s : State) (q : Nat) : XQueue := Tbl.get XQueue.init s.fab.queues q

/-- The part with a Xobex queue changed. -/
def State.modXq (s : State) (q : Nat) (f : XQueue → XQueue) : State :=
  s.modFab (fun x => { x with queues := Tbl.modify XQueue.init x.queues q f })

/-- This part's index; 0xFFFF until set. -/
def State.partIndex (s : State) : Nat := s.fab.index.getD 0xFFFF

/-- A port can carry traffic: its Cuff is up, and neither retrains, waits to, nor has failed (R338, R366). -/
def State.portUsable (s : State) (port : Nat) : Bool :=
  let c := s.cuff (port / 8)
  c.enable && c.portUp.getLsbD (port % 8) && !c.training && !c.queued && !c.failed

/-- The usable paths of a peer, in ascending path index: address and local port (R338, R341). -/
def State.paths (s : State) (p : Nat) : List (Nat × Nat) :=
  ((s.peer p).paths.filter (fun x => x.1 && s.portUsable x.2.2)).map (·.2)

/-- MAC rate of a port of a Cuff mode, in Gb/s (Table 12.1). -/
def macRate (mode : Nat) : Rat := if mode = 0 then 1600 else if mode = 1 then 800 else if mode = 2 then 400 else if mode = 3 then 200 else 17063 / 10

/-- Rmax of a context: the sum of the MAC rates of its usable paths (R347). -/
def State.rmax (s : State) (p : Nat) : Rat := ((s.paths p).map (fun x => macRate (s.cuff (x.2 / 8)).modeNow)).foldl (· + ·) 0

/-- `MAXPAY` in bytes (Table 12.17); the reserved value 3 stands for one of the others, free (log 47). -/
def State.maxPay (s : State) : Nat := [1024, 2048, 4096].getD s.fab.maxPay.toNat ([1024, 2048, 4096].getD (Config.freeNat 0 % 3) 4096)

/-! ## Headers (Table 12.4) -/

/-- The 64 header bytes with a given `ICRC`. -/
def pktHeader (p : XPkt) (icrc : Nat) : List Byte :=
  [p.ver, p.typ, p.flags, p.ctx] ++ leBytes 2 p.src.toNat ++ leBytes 2 p.dst.toNat ++ leBytes 4 p.psn.toNat ++ leBytes 4 p.tag.toNat
    ++ leBytes 8 p.da.toNat ++ leBytes 4 p.msg.toNat ++ leBytes 4 p.mofs.toNat ++ leBytes 4 p.mlen.toNat ++ leBytes 2 p.len.toNat
    ++ leBytes 2 p.status.toNat ++ leBytes 4 p.cmpl.toNat ++ leBytes 4 icrc ++ leBytes 16 p.map.toNat

/-- The `ICRC` that a packet should carry (R339). -/
def pktCrc (p : XPkt) : Nat := crc32c (pktHeader p 0 ++ p.data)

/-- A packet of a type to a part with nothing else set. -/
def State.blankPkt (s : State) (part typ ctx : Nat) : XPkt :=
  { ver := 1, typ := BitVec.ofNat 8 typ, flags := 0, ctx := BitVec.ofNat 8 ctx, src := BitVec.ofNat 16 s.partIndex
    dst := BitVec.ofNat 16 part, psn := 0, tag := 0, da := 0, msg := 0, mofs := 0, mlen := 0, len := 0, status := 0, cmpl := 0, icrc := 0
    map := 0, data := [] }

/-! ## Sending (R341, R343) -/

/-- Send a packet on usable path number `n` of its peer: counted; nothing while there is no path. -/
def emit (s : State) (part n : Nat) (p : XPkt) : State :=
  let ps := s.paths part
  match ps[n % ps.length]? with
  | none => s
  | some x =>
    let p := { p with icrc := BitVec.ofNat 32 (pktCrc p) }
    (s.modFab (fun f => { f with out := f.out ++ [{ port := x.2, pkt := p }], tx := bump f.tx 1 })).modCuff (x.2 / 8)
      (fun c => { c with tx := bump c.tx 1 })

/-- The map of an ACK: bit i for `PSN` + 1 + i received (Table 12.4). -/
def RecvCtx.map (c : RecvCtx) : BitVec 128 :=
  BitVec.ofNat 128 ((List.range 128).foldl (fun m i =>
    if c.held.any (fun p => p.psn = c.expect + BitVec.ofNat 32 (i + 1)) then m + 2 ^ i else m) 0)

/-- Send an ACK of a receive context (R343). -/
def sendAck (s : State) (part ctx : Nat) : State :=
  let c := s.recvCtx part ctx
  let p := { s.blankPkt part 5 ctx with psn := c.expect, map := c.map, flags := if c.ce then 1 else 0 }
  (emit s part c.acks p).modRecv part ctx (fun c => { c with since := 0, oldest := 0, ce := false, acks := c.acks + 1 })

/-- Send a NAK that refuses a message (R354, R355). -/
def sendNak (s : State) (part ctx msg tag status : Nat) : State :=
  let c := s.recvCtx part ctx
  let p := { s.blankPkt part 6 ctx with
    psn := c.expect, map := c.map, msg := BitVec.ofNat 32 msg, status := BitVec.ofNat 16 status, tag := BitVec.ofNat 32 tag }
  ((emit s part c.acks p).modRecv part ctx (fun c => { c with acks := c.acks + 1 })).modFab (fun f => { f with nak := satAdd f.nak 1 })

/-- Put a message's packets into a send context with the next numbers; they leave as the window and the paths let them (R340,
R345). Nothing goes to a peer that is not armed. -/
def enqueue (s : State) (part ctx : Nat) (ps : List (XPkt × Option Nat)) (owner : Option Nat) (kind : XKind) (lcmpl : Word) (node : Option Nat)
    (bytes : Nat) : State :=
  if (s.peer part).st ≠ 1 then s
  else
    s.modSend part ctx (fun c =>
      let xs := ps.zipIdx.map (fun e =>
        { pkt := { e.1.1 with psn := c.next + BitVec.ofNat 32 e.2, msg := if e.1.1.typ = 3 then e.1.1.msg else c.msg }, src := e.1.2, owner := owner,
          attempts := 0, recent := false, seen := false, mid := c.msg.toNat : XSend })
      { c with
        next := c.next + BitVec.ofNat 32 ps.length
        msg := c.msg + 1
        queue := c.queue ++ xs
        progress := if c.unacked = [] && c.queue = [] then s.us else c.progress
        msgs := c.msgs ++ [{ id := c.msg.toNat, kind := kind, lcmpl := lcmpl, node := node, left := ps.length, bytes := bytes }] })

/-- Send the waiting packets of context 1, which carry their own payload, while the window of 512 has room (R341). -/
def pumpControl (s : State) (part : Nat) : Nat → State
  | 0 => s
  | k + 1 =>
    let c := s.sendCtx part 1
    match c.queue with
    | [] => s
    | x :: rest =>
      if 512 ≤ c.unacked.length || s.paths part = [] then s
      else pumpControl ((emit s part x.pkt.psn.toNat x.pkt).modSend part 1 (fun c => { c with queue := rest, unacked := c.unacked ++ [x] })) part k

/-- A control payload of 32 bytes in context 1 (Table 12.6). -/
def sendControl (s : State) (part typ tag : Nat) (node : Option Nat) (body : List Byte) : State :=
  let data := body ++ List.replicate (32 - body.length) 0
  let p := { s.blankPkt part typ 1 with tag := BitVec.ofNat 32 tag, mlen := 32, len := 32, data := data }
  pumpControl (enqueue s part 1 [(p, none)] none .other 0 node 0) part 513

/-! ## Faults of the fabric (Table 12.10) -/

/-- A fabric fault of a job on core `lc`, recorded in `XOB_LASTF` (R351). -/
def fabricFault (s : State) (lc code peer status : Nat) : State :=
  let s := s.modFab (fun f => { f with lastF := BitVec.ofNat 32 (peer % 1024 + status % 256 * 65536 + code * 2 ^ 24) })
  faultCore s lc 3 code (s.core lc).seq.next 0

/-- The parts of a job other than this one. -/
def State.otherParts (s : State) (j : Job) : List Nat := j.parts.filter (· ≠ s.partIndex)

/-- The engines after a halt of the job on a node: descriptors not started are discarded and counted, its queues stop (R364). -/
def stopQueues (s : State) (node : Nat) : State :=
  (s.fab.queues.filter (fun e => e.2.node = node && e.2.st = 1)).foldl (fun s e =>
    (s.modXq e.1 (fun q => { q with st := 2, todo := [] })).modFab (fun f => { f with disc := satAdd f.disc e.2.todo.length })) s

/-- Send `HALT` to every other part of a job that faulted here (R364). -/
def sendHalts (s : State) (j : Job) : State :=
  let lc := j.first.getD 0xFFFF
  let w := match j.first with
    | some k => (s.core k).seq.fault.toNat
    | none => 0
  if j.remote.isSome then s
  else (s.otherParts j).foldl (fun s p =>
    sendControl s p 8 j.tag (some j.node) ([1] ++ leBytes 3 0 ++ leBytes 4 w ++ leBytes 2 lc)) s

end Sys2Proof.Machine
end

