-- ==== Sys2Proof/Machine/SvBase.lean ====
section
/-! DEFINITION. The serving area as the batcher reads and writes it, the end of a binding, and what else ends with a job
("Attention, KV pages and bulk serving" R288 to R293, R305, R306; "Training, gradients and optimizer state" R319, R320). -/

namespace Sys2Proof.Machine

/-! ## Access to the serving area -/

/-- A batcher at work: the part, the core, the area's DA, and whether a read found a bad word (R306). -/
structure Sv where
  /-- the part -/
  st : State
  /-- logical core -/
  lc : Nat
  /-- DA of the area -/
  base : Nat
  /-- a read found an uncorrectable or poisoned word -/
  bad : Bool

/-- Steps of a batcher. -/
abbrev SvM := StateM Sv

/-- Read `n` bytes at an area offset. -/
def svGet (ofs n : Nat) : SvM Nat := fun v =>
  let f := memFetch v.st 0xFF none (v.base + ofs) n
  (leNat f.bytes, { v with st := f.st, bad := v.bad || f.bad.any id })

/-- Write `n` bytes at an area offset. -/
def svPut (ofs n x : Nat) : SvM Unit := fun v => ((), { v with st := memWrite v.st none (v.base + ofs) (leBytes n x) })

/-- Write bytes at a DA, some of which may be bad. -/
def svStoreBad (da : Nat) (bs : List Byte) (bad : List Bool) : SvM Unit := fun v => ((), { v with st := memWriteBad v.st none da bs bad })

/-- Write good bytes at a DA. -/
def svStore (da : Nat) (bs : List Byte) : SvM Unit := svStoreBad da bs []

/-- Add to a counter of `n` bytes. -/
def svAdd (ofs n x : Nat) : SvM Unit := do
  let y ← svGet ofs n
  svPut ofs n ((y + x) % 256 ^ n)

/-- A stream descriptor (Table 10.3). -/
structure SvStream where
  /-- `FMT` -/
  fmt : Nat
  /-- `RING` -/
  ring : Nat
  /-- `ENTRIES` -/
  entries : Nat
  /-- `BUDGET`, N -/
  budget : Nat
  /-- `WRITES`, W -/
  writes : Nat
  /-- `PT_OFS` -/
  pt : Nat
  /-- `AREA` -/
  area : Nat
  deriving DecidableEq, Repr

/-- e of R285. -/
def SvStream.e (g : SvStream) : Nat := if g.fmt = 0 then 2 else 1
/-- PB of R285. -/
def SvStream.pb (g : SvStream) : Nat := 16384 * g.e

/-- The serving header (Table 10.2) with its streams. -/
structure SvHead where
  /-- `SLOTS` -/
  slots : Nat
  /-- `KBLK` -/
  kblk : Nat
  /-- `QN` -/
  qn : Nat
  /-- `POOL_OFS` -/
  pool : Nat
  /-- `POOL_PAGES` -/
  pages : Nat
  /-- `HOT_PAGES` -/
  hots : Nat
  /-- `HOT_OFS` -/
  hot : Nat
  /-- `EXP_OFS` -/
  exp : Nat
  /-- `EXP_BYTES` -/
  expBytes : Nat
  /-- `BEXP` -/
  bexp : Nat
  /-- `LAND` -/
  land : Nat
  /-- `LAND_OFS` -/
  landOfs : Nat
  /-- `APP_SRC` -/
  app : Nat
  /-- `FILL_SRC` -/
  fill : Nat
  /-- `GL_OFS` -/
  gl : Nat
  /-- `ROW_BASE` -/
  rowBase : Nat
  /-- `ROW_STRIDE` -/
  rowStride : Nat
  /-- `SCRATCH` -/
  scratch : Nat
  /-- `PAD_CAN` -/
  padCan : Nat
  /-- `PAD_PLOT` -/
  padPlot : Nat
  /-- streams -/
  streams : List SvStream
  deriving DecidableEq, Repr

/-- The page step of the pool: PB, the largest where streams differ (log 30). -/
def SvHead.pb (h : SvHead) : Nat := h.streams.foldl (fun m g => max m g.pb) 16384

/-- A stream descriptor from its 64 bytes. -/
def parseStream (b : List Byte) : SvStream :=
  { fmt := leField b 3 3, ring := leField b 4 5, entries := leField b 6 7, budget := leField b 8 9, writes := leField b 10 11
    pt := leField b 12 15, area := leField b 16 19 }

/-- The header from the 256 bytes and the descriptors after them. -/
def parseHead (b : List Byte) : SvHead :=
  { slots := leField b 4 5, kblk := leField b 7 7, qn := leField b 8 11, pool := leField b 12 15, pages := leField b 16 17
    hots := leField b 18 19, hot := leField b 20 23, exp := leField b 24 27, expBytes := leField b 28 31, bexp := leField b 32 32
    land := leField b 33 33, landOfs := leField b 36 39, app := leField b 40 43, fill := leField b 44 47, gl := leField b 48 51
    rowBase := leField b 52 53, rowStride := leField b 54 55, scratch := leField b 56 59, padCan := leField b 60 63
    padPlot := leField b 64 67
    streams := (List.range (min 4 (leField b 6 6))).map (fun g => parseStream (b.drop (256 + 64 * g))) }

/-- Read header and descriptors. -/
def svHead : SvM SvHead := fun v =>
  let f := memFetch v.st 0xFF none v.base 512
  (parseHead f.bytes, { v with st := f.st, bad := v.bad || f.bad.any id })

/-- Run a batcher's work on the binding of a core. A bad word stops it: nothing of the work stays but the error's traces,
`STATE` becomes 2 and the host is notified (R306). -/
def svRun {α : Type} (s : State) (lc area : Nat) (m : SvM α) : Option α × State :=
  let r := m.run { st := s, lc := lc, base := area, bad := false }
  if r.2.bad then
    let t := r.2.st
    let t := { t with mem := { t.mem with bytes := s.mem.bytes, valid := s.mem.valid }, sv := s.sv }
    let t := memWrite t none (area + 68) (leBytes 4 2)
    let t := { t with sv := Tbl.modify none t.sv lc (fun b => b.map (fun b => { b with failed := true })) }
    (none, notify t 8 (leBytes 2 lc))
  else (some r.1, r.2.st)

/-! ## Slots (Table 10.5) -/

/-- Area offset of a slot record. -/
def slotOfs (i : Nat) : Nat := 0x4000 + 32 * i

/-- A post has been consumed: the head word has passed it (R293). -/
def consumed (head seq : Nat) : Bool := (head + 2 ^ 33 - seq - 1) % 2 ^ 32 < 2 ^ 31

/-- A slot with `LAST_SEQ` is busy (R293). -/
def slotBusy (head last : Nat) : Bool := last ≠ 0xFFFFFFFF && !consumed head last

/-! ## Ends (R288, R305, R319, R320) -/

/-- Open slots named by an unconsumed post become suspect, and the area reads unbound (R305). -/
def svSuspects (head : Nat) : SvM Unit := do
  let h ← svHead
  for i in List.range (min 1024 h.slots) do
    let st ← svGet (slotOfs i) 1
    let last ← svGet (slotOfs i + 12) 4
    if st = 1 && slotBusy head last then svPut (slotOfs i) 1 2
  svPut 68 4 0

/-- The head word of a site queue as it stands. -/
def headWord (s : State) (qn : Nat) : Nat :=
  leNat (memFetch s 0xFF none (Tbl.get SiteQueue.init s.tr.queues qn).headDa 4).bytes

/-- The serving binding of a core ends (R288, R305). -/
def svEnd (s : State) (lc : Nat) : State :=
  match Tbl.get none s.sv lc with
  | none => s
  | some b =>
    let s := if b.failed then s else (svRun s lc b.area (svSuspects (headWord s b.qn))).2
    { s with sv := Tbl.set none s.sv lc none }

/-- Training block of a node. -/
def State.training (s : State) (node : Nat) : Training := Tbl.get Training.init s.trn node

/-- The part with a training block changed. -/
def State.modTraining (s : State) (node : Nat) (f : Training → Training) : State :=
  { s with trn := Tbl.modify Training.init s.trn node f }

/-- Chunks held for the job of a node are discarded and their credits return (R319). -/
def dropChunks (s : State) (node : Nat) : State :=
  s.modFab (fun f => { f with
    deliver := f.deliver.filter (fun c => c.node ≠ node), landed := f.landed.filter (fun c => c.node ≠ node) })

/-- What ends with the job on a node when it ends or is torn down (R288, R319, R320), its collective instances included. -/
def jobGone (s : State) (j : Job) : State :=
  let s := j.cores.foldl svEnd (dropChunks s j.node)
  let s := s.modTraining j.node (fun t => { t with bound := false, reducing := false })
  s.modFab (fun f => { f with
    insts := f.insts.filter (fun i => (Tbl.get none f.groups i.group).any (fun g => g.node ≠ j.node))
    early := f.early.filter (fun e => (Tbl.get none f.groups e.group).any (fun g => g.node ≠ j.node)) })

/-- What ends when the job on a node is faulted: serving bindings, held chunks, queues; the other parts are told (R305, R319,
R364). -/
def jobStopped (s : State) (j : Job) : State :=
  sendHalts (stopQueues (j.cores.foldl svEnd (dropChunks s j.node)) j.node) j

end Sys2Proof.Machine
end

