-- ==== Sys2Proof/Machine/Jobs.lean ====
section
/-! DEFINITION. Jobs: their report, their end, their halt and their fault ("Schedule images and the timing contract", R148,
R154 to R159; "Host interface and command packets" R384, R389). -/

namespace Sys2Proof.Machine

/-! ## The contract block and the report (Tables 5.21, 13.11) -/

/-- `WAIT_STAGE` (Table 5.18). -/
def Core.waitStage (c : Core) : Nat :=
  if c.seq.gwaitLen = 0 then 0 else if c.seq.stage2 then 2 else if c.arr.level = 0 then 1 else 0

/-- `SEQ_STATE` (Table 5.21). -/
def Core.seqState (c : Core) : Word :=
  let q := c.seq
  BitVec.ofNat 32 (q.next + 2 ^ 13 * q.loops.length + 2 ^ 16 * b2n (0 < q.gwaitLen) + 2 ^ 17 * b2n q.paused + 2 ^ 18 * b2n q.ended
    + 2 ^ 19 * b2n q.faulted + 2 ^ 20 * c.waitStage
    + (q.frames.map (fun e => match e.2 with
        | .loading _ => 2 ^ (24 + e.1)
        | _ => 0)).sum)

/-- A core's record of the job report (Table 13.11). -/
def Core.reportRec (c : Core) (lc : Nat) : List Byte :=
  leBytes 4 lc ++ leBytes 4 c.seq.fault.toNat ++ leBytes 4 c.seqState.toNat ++ leBytes 4 c.mov.fault.toNat
    ++ (List.range 64).flatMap (fun g => leBytes 4 (c.gate g))

/-- The report of a job that ends or faults now (Table 13.11). -/
def Job.makeReport (j : Job) (s : State) (st : Nat) : List Byte :=
  leBytes 8 j.imageId.toNat ++ leBytes 4 j.tag ++ leBytes 1 j.node ++ leBytes 1 st ++ leBytes 2 j.cores.length
    ++ leBytes 2 (if j.halted then 0xFFFF else j.first.getD 0xFFFF) ++ leBytes 6 0 ++ leBytes 8 j.startUs ++ leBytes 8 s.us ++ leBytes 24 0
    ++ j.cores.flatMap (fun lc => (s.core lc).reportRec lc)

/-! ## The end of a job (R148, R263) -/

/-- The regions that the job on a node holds in bank mode: (stack, region). -/
def State.heldRegions (s : State) (node : Nat) : List (Nat × Nat) :=
  s.orgs.flatMap (fun t => (t.2.regions.filter (fun e => e.2.banked && e.2.holder = .job node)).map (fun e => (t.1, e.1)))

/-- A `VLD` or `VST` of the core is not over, or its bytes are on their way (Table 4.10). -/
def Core.storing (c : Core) : Bool := c.fv.acc.isSome || !c.fv.stores.isEmpty

/-- Every core of the job on a node has ended and its stores have arrived (R190): the regions it holds are released as with `ABORT`, and with the last release
the job ends and is reported (R148, R263, R389 class 0x01). -/
def jobEndCheck (s : State) (node : Nat) : State :=
  match s.jobAt node with
  | none => s
  | some j =>
    if j.phase = .running && j.cores.all (fun k => (s.core k).seq.ended && !(s.core k).storing) then
      let s := (s.heldRegions node).foldl (fun s e =>
        if (s.region e.1 e.2).bank = .entering then s else startRelease s e.1 e.2 true none []) s
      if s.heldRegions node = [] then
        notify (jobGone (s.modJob node (fun j => { j with phase := .ended, report := j.makeReport s 2 })) j) 1
          (leBytes 8 j.imageId.toNat ++ leBytes 1 node)
      else s
    else s

/-- A core's program has ended (R148). -/
def jobEndAt (s : State) (lc : Nat) : State :=
  match s.jobOf lc with
  | some j => jobEndCheck s j.node
  | none => s

/-- A region of a holder has changed its bank-mode state: the end of its job may be due (R263). -/
def holderCheck (s : State) (h : Holder) : State :=
  match h with
  | .job n => jobEndCheck s n
  | .host => s

/-! ## Halt and fault (R154, Table 5.17) -/

/-- Begin a halt of a running job without a first core: `JOB_HALT`, a reset, or a `HALT` packet (R364, R384, Table 16.8). -/
def beginHalt (s : State) (node : Nat) (remote : Option (Word × Nat)) : State :=
  broadcast (s.modJob node (fun j => { j with phase := .faulting, halted := true, remote := remote }))

/-- The halt broadcast reaches the cores of the job: every core that has not ended stops with `SOURCE` 6 unless it has stopped
already, and reads `FAULTED` (Table 5.17). -/
def haltCores (s : State) (j : Job) : State :=
  j.cores.foldl (fun s lc => s.modCore lc (fun c =>
    let c := if c.dead then c else c.stop (contractFault 6 false 0 c.seq.next) 0
    { c with seq := { c.seq with faulted := true } })) s

/-- `HALT`: the broadcast of a job's halt arrives (R154, R240). -/
def execHalt (node : Fin 64) (s : State) : Out :=
  match s.jobAt node with
  | none => .next s
  | some j => if j.phase = .faulting then .next (haltCores s j) else .next s

/-- Discard the transfers of a core that have not started, counted (Table 5.17). -/
def Core.dropQueued (c : Core) : Core :=
  (List.range 4).foldl (fun (c : Core) m =>
    let x := Tbl.get { queue := [], active := none } c.mov.movers m
    { c with mov := { c.mov with
        movers := Tbl.set { queue := [], active := none } c.mov.movers m { x with queue := [] }
        disc := satAdd c.mov.disc x.queue.length } }) c

/-- The `CONTRACT_FAULT` and logical core that the notification of a faulted job names (R389 class 0x02). -/
def Job.cause (j : Job) (s : State) : Nat × Nat :=
  if j.halted then (match j.remote with
    | some (w, lc) => (w.toNat, lc)
    | none => (0, 0xFFFF))
  else match j.first with
    | some lc => ((s.core lc).seq.fault.toNat, lc)
    | none => (0, 0xFFFF)

/-- The job of a node is faulted: its queued transfers go, the units of its stacks stop, its report is captured and the host
notified; commands that waited for the halt complete (R154, R263, R384, R389). -/
def jobFaulted (s : State) (j : Job) : State :=
  let s := { s with held := s.held.filter (fun i => !(slotCore i).any j.covers) }
  let s := j.cores.foldl (fun s lc => s.modCore lc (fun c => { c.dropQueued with seq := { c.seq with faulted := true } })) s
  let s := ((s.heldRegions j.node).map (·.1)).foldl (fun s k => stopUnits s k (fun _ => true)) s
  let s := s.modJob j.node (fun j => { j with phase := .faulted, report := j.makeReport s 3, halters := [] })
  let cause := j.cause s
  let s := jobStopped s j
  let s := notify s 2 (leBytes 8 j.imageId.toNat ++ leBytes 1 j.node ++ leBytes 3 0 ++ leBytes 4 cause.1 ++ leBytes 2 cause.2)
  j.halters.foldl (fun s r => completeCmd s r 0 false 0 0) s

/-- `JOB_FAULTED`: the last core of a faulting job has stopped, and stores already issued have arrived (R154, R190). -/
def execJobFaulted (node : Fin 64) (s : State) : Out :=
  match s.jobAt node with
  | none => .next s
  | some j =>
    if j.phase = .faulting && j.cores.all (fun lc => (s.core lc).dead && !(s.core lc).storing) then .next (jobFaulted s j) else .next s

/-! ## Waiting cores (R156) -/

/-- `WAIT_STAGE_2`: after 1,024 further waiting cycles at stage 1 the regulator target falls by 60 mV, with `WAIT_VDROP` set,
the movers idle and no segment load in flight; any pre-boost ends (R156, R399). -/
def execWaitStage2 (lc : Lc) (s : State) : Out :=
  let c := s.core lc
  let may := (s.jobOf lc).any (·.vdrop) && 1024 ≤ c.seq.stage1Cyc && 0 < c.seq.gwaitLen && c.seq.segLoads = []
    && c.mov.movers.all (fun e => e.2.queue = [] && e.2.active = none)
  if may then .next (s.modCore lc (fun c => { c with seq := { c.seq with stage2 := true, preboost := 0 } })) else .next s

/-! ## Pace (R158) -/

/-- A setting of 32 bits, its default where it has not been set (R388). -/
def State.paceSetting (s : State) (id dflt : Nat) : Nat := (Tbl.get none s.settings id).getD dflt

/-- The row of a site has a usable non-logical site. -/
def State.rowSpare (s : State) (cl : Nat) : Bool := (clusterSites cl).any (fun i => (s.site i).state ≠ 1 && (s.site i).usable)

/-- A fraction in 2^−16, at most 0xFFFF; it is rounded down (log 19). -/
def paceFrac (n d : Nat) : Nat := min 65535 (n * 65536 / d)

/-- Advance of a 64-bit counter. -/
def advance (now : Dword) (old : Nat) : Nat := (now.toNat + 2 ^ 64 - old) % 2 ^ 64

/-- The pace event of a core (Table 17.3 class 0x01). -/
def paceEvent (s : State) (j : Job) (lc sub lam rho run : Nat) : State :=
  healthEvent s 1 sub (leBytes 8 j.imageId.toNat ++ leBytes 1 j.node ++ leBytes 1 0 ++ leBytes 2 lc
    ++ leBytes 2 ((s.siteOf lc).getD 0xFFFF) ++ leBytes 2 lam ++ leBytes 2 rho ++ leBytes 2 (min 65535 run))

/-- One core's window (R158). -/
def paceCore (s : State) (j : Job) (lc : Nat) : State :=
  let c := s.core lc
  let p := Tbl.get PaceRec.init s.pace lc
  let dc := advance c.seq.cyc p.cyc
  let dl := advance c.seq.lag p.lag
  let dr := advance c.seq.rwait p.rwait
  let lagging := s.paceSetting 1 16384 * dc ≤ dl * 65536 && dr * 65536 ≤ s.paceSetting 2 1311 * dc
  let run := if dc = 0 then p.run else if lagging then p.run + 1 else 0
  let p : PaceRec := { cyc := c.seq.cyc.toNat, lag := c.seq.lag.toNat, rwait := c.seq.rwait.toNat, run := run }
  let s := { s with pace := Tbl.set PaceRec.init s.pace lc p }
  if dc = 0 || !lagging then s
  else
    let lam := paceFrac dl dc
    let rho := paceFrac dr dc
    let s := if run = s.paceSetting 3 10 then paceEvent s j lc 0 lam rho run else s
    if run = s.paceSetting 4 100 && s.paceSetting 5 1 = 1 then
      match s.siteOf lc with
      | none => s
      | some i =>
        if s.rowSpare (clusterOf lc) then
          let s := s.modSite i (fun x => { x with slow := true })
          paceEvent { s with rowPending := Tbl.set false s.rowPending (clusterOf lc) true } j lc 1 lam rho run
        else paceEvent s j lc 2 lam rho run
    else s

/-- `PACE_WINDOW`: a window of 10 ms ends for every running job (R158). -/
def execPaceWindow (s : State) : Out :=
  .next ((s.jobs.filter (fun j => j.isRunning)).foldl (fun s j => j.cores.foldl (fun s lc => paceCore s j lc) s) s)

end Sys2Proof.Machine
end

