-- ==== Sys2Proof/Machine/Clocks.lean ====
section
/-! DEFINITION. Clock slewing and the retuning of TSV bundles ("Layers, sites and clock regions" R38 to R44). -/

namespace Sys2Proof.Machine

/-- `CLOCK_SLEW_STEP`: the array clock of a region moves one code towards its effective target (R38). -/
def execClockSlewStep (region : Fin 5) (s : State) : Out :=
  let r := region.val
  let t := s.clkTarget r
  let c := s.clk r
  if !c.locked then .next s
  else if c.now < t then .next (s.modClk r (fun c => { c with now := c.now + 1 }))
  else if t < c.now then .next (s.modClk r (fun c => { c with now := c.now - 1 }))
  else .next s

/-! ## Retuning (R42 to R44, Table 1.10) -/

/-- Bundle at a position of a Seam. -/
def State.bundle (s : State) (k : Nat) : Bundle := Tbl.get Bundle.init s.bundles k

/-- The part with a bundle changed. -/
def State.modBundle (s : State) (k : Nat) (f : Bundle → Bundle) : State :=
  { s with bundles := Tbl.modify Bundle.init s.bundles k f }

/-- The compute layer whose vertical memory channel crosses a Seam, if one does (Table 1.9). -/
def channelLayer (seam : Nat) : Option Nat :=
  if seam = 1 || seam = 2 then some 0
  else if seam = 5 || seam = 6 then some 1
  else if seam = 8 || seam = 9 then some 2
  else if seam = 12 || seam = 13 then some 3
  else none

/-- Bundles of a Seam that retune now. -/
def State.retuningIn (s : State) (seam : Nat) : Nat :=
  (s.bundles.filter (fun e => e.1 / 220 = seam && e.2.retuning)).length

/-- The router blocks at the ends of the mesh or gateway link that a bundle carries (Tables 1.9, 8.2). -/
def bundleEnds (k : Nat) : List Nat :=
  let p := k % 220
  let seam := k / 220
  if seam ≤ 2 then [p, 880 + p / 22]
  else if seam ≤ 4 then [p, 220 + p]
  else if seam ≤ 9 then [220 + p, 440 + p]
  else if seam ≤ 11 then [440 + p, 660 + p]
  else []

/-- The routers whose ports a bundle's retune holds, or lets go (R43, `RTR_STATE`.`HELD`). -/
def holdPort (s : State) (k : Nat) (d : Nat → Nat) : State :=
  { s with tr := { s.tr with
      routers := (bundleEnds k).foldl (fun t b => Tbl.modify Router.init t b (fun r => { r with held := d r.held })) s.tr.routers } }

/-- A bundle at a site's position in one of some Seams retunes: it accepts no flits until its retune has ended (Table 1.10). -/
def State.seamsHeld (s : State) (seams : List Nat) (pos : Nat) : Bool := seams.any (fun j => (s.bundle (j * 220 + pos)).retuning)

/-- The vertical memory channel of a site is held by a retune (R42, R43, Table 1.9). -/
def State.channelHeld (s : State) (i : Nat) : Bool :=
  s.seamsHeld ((List.range 15).filter (fun j => channelLayer j = some (i / 220))) (i % 220)

/-- The vertical sister link between two sites is held by a retune (R42, R43, Table 1.9). -/
def State.sisterHeld (s : State) (i k : Nat) : Bool :=
  i / 220 ≠ k / 220 && s.seamsHeld (vertSeams (min (i / 220) (k / 220))) (i % 220)

/-- The site whose vertical channel serves a plot or a Commons plot. -/
def State.plotSite (s : State) (da : Nat) : Option Nat :=
  if daSpace da = 2 then s.siteOf (daUnit da) else if daSpace da = 3 then s.commonsSite (daUnit da) else none

/-- The plot of an address waits behind a vertical channel that retunes (R43). -/
def State.plotHeld (s : State) (da : Nat) : Bool := (s.plotSite da).any s.channelHeld

/-- A bundle begins its retune. -/
def startRetune (s : State) (k : Nat) : State :=
  holdPort (s.modBundle k (fun b => { b with retuning := true })) k (· + 1)

/-- Start waiting retunes of a Seam while it has room, in request order (R43). -/
def nextRetune (s : State) (seam : Nat) : State :=
  match s.retunes.find? (fun k => k / 220 = seam) with
  | none => s
  | some k => if s.retuningIn seam < 8 then startRetune { s with retunes := s.retunes.erase k } k else s

/-- Seam calibration has been done since the last whole-part reset; a request that comes before is superseded by it (R44). -/
def State.seamsTuned (s : State) : Bool := s.boot.ready || 5 < s.boot.phase

/-- A retune of a bundle is asked for: it starts, or waits behind eight others of its Seam; one that arrives during a
whole-part reset is discarded (R42 to R44). -/
def askRetune (s : State) (seam pos : Nat) : State :=
  let k := seam * 220 + pos
  let b := s.bundle k
  if !s.seamsTuned || !(s.clk 0).locked || b.failed || b.retuning || s.retunes.contains k then s
  else if s.retuningIn seam < 8 then startRetune s k
  else { s with retunes := s.retunes ++ [k] }

/-- `SEAM_MARGIN_LOW`: the margin of a bundle falls below 15 % of its unit interval, or its retune is requested (R42, R43). -/
def execSeamMarginLow (seam : Fin 15) (pos : Fin 220) (s : State) : Out := .next (askRetune s seam pos)

/-- The runs of passing codes from code `i` on: (first, length), `run` the length of the open one. -/
def windowsFrom (w : BitVec 64) : Nat → Nat → Nat → List (Nat × Nat)
  | 0, i, run => if run = 0 then [] else [(i - run, run)]
  | k + 1, i, run =>
    if w.getLsbD i then windowsFrom w k (i + 1) (run + 1)
    else (if run = 0 then [] else [(i - run, run)]) ++ windowsFrom w k (i + 1) 0

/-- The codes that are a centre of a widest passing window: one for an odd length, the two middle ones for an even
length, those of every window of that length (Table 1.10). -/
def centres (w : BitVec 64) : List Nat :=
  let ws := windowsFrom w 64 0 0
  let m := ws.foldl (fun m e => max m e.2) 0
  ((ws.filter (fun e => e.2 = m)).flatMap (fun e => [e.1 + (e.2 - 1) / 2, e.1 + e.2 / 2])).dedup

/-- The code a sweep sets: the centre of its widest window; which, of several, is free (log 16). -/
def sweepCode (draw : Nat) (w : BitVec 64) : Option Nat :=
  let cs := centres w
  if cs = [] then none else cs[Config.freeNat draw % cs.length]?

/-- A vertical channel fails at run time: the site reads `VCH_OK` = 0, its row's map has a pending change, and the failure is
raised (R43, R475, R476). -/
def channelFailed (s : State) (site : Nat) : State :=
  let cl := site / 22
  let s := s.modSite site (fun x => { x with vchOk := false })
  siteEvent { s with rowPending := Tbl.set false s.rowPending cl true } 1 site cl

/-- A bundle has failed two sweeps (R43, R460). -/
def bundleFailed (s : State) (k : Nat) : State :=
  let s := s.modBundle k (fun b => { b with failed := true })
  match channelLayer (k / 220) with
  | some l => channelFailed s (l * 220 + k % 220)
  | none => s

/-- The largest change of a bundle code of a Seam since the boot, and the retunes counted (Table 17.1). -/
def noteRetune (s : State) (k code : Nat) : State :=
  let b := s.bundle k
  let d := (code - b.boot) + (b.boot - code)
  { s with seams := Tbl.modify SeamHealth.init s.seams (k / 220) (fun x =>
      { x with drift := max x.drift d, retunes := min 255 (x.retunes + 1) }) }

/-- `RETUNE_END`: the sweep or sweeps of a retune are over: the bundle takes the code and its traffic goes on, or it is failed;
the next waiting retune of the Seam starts (R42, R43, Table 1.10). -/
def execRetuneEnd (seam : Fin 15) (pos : Fin 220) (sweep : BitVec 64) (ok : Bool) (sweep2 : BitVec 64) (ok2 : Bool) (s : State) : Out :=
  let k := seam.val * 220 + pos.val
  if !(s.bundle k).retuning then .next s
  else
    let first := if ok then sweepCode s.draws sweep else none
    let code := first.or (if ok2 then sweepCode (s.draws + 1) sweep2 else none)
    let s := holdPort ((s.drawn 2).modBundle k (fun b => { b with retuning := false, code := code.getD b.code })) k (· - 1)
    let s := match code with
      | some c => noteRetune s k c
      | none => bundleFailed s k
    .next (nextRetune s seam)

end Sys2Proof.Machine
end

