-- ==== Sys2Proof/Machine/Routes.lean ====
section
/-! DEFINITION. The Trellis as a graph: endpoints, links, levels, routes, and the links that fail after its start ("The Trellis
on-die network", R222 to R232, R247). -/

namespace Sys2Proof.Machine

/-! ## Endpoints, links and the graph (R222, R223, R229) -/

/-- Identifier of the base switch. -/
def baseSwitch : Nat := 0x3A0
/-- Identifier of row gateway g. -/
def rowGate (g : Nat) : Nat := 0x380 + g

/-- A Plinth endpoint that hangs on the base switch (Table 8.1). -/
def isPlinth (e : Nat) : Bool := (0x390 ≤ e && e ≤ 0x395) || (0x398 ≤ e && e ≤ 0x39D)

/-- An identifier of Table 8.1 other than the broadcast. -/
def isEndpoint (e : Nat) : Bool := e < 880 || (0x380 ≤ e && e ≤ 0x389) || isPlinth e || e = baseSwitch

/-- Layer, row and column of a site (R20). -/
def siteCoord (i : Nat) : Nat × Nat × Nat := (i / 220, i / 22 % 10, i % 22)

/-- The site at a layer, row and column. -/
def coordSite (l r c : Nat) : Nat := l * 220 + r * 22 + c

/-- The neighbour of a site's router through a port N, S, E, W, U, D (0 to 5), if connected (R222). -/
def portNeighbour (i port : Nat) : Option Nat :=
  let (l, r, c) := siteCoord i
  match port with
  | 0 => if r < 9 then some (i + 22) else none
  | 1 => if 0 < r then some (i - 22) else none
  | 2 => if c < 21 then some (i + 1) else none
  | 3 => if 0 < c then some (i - 1) else none
  | 4 => if l < 3 then some (i + 220) else none
  | _ => if 0 < l then some (i - 220) else some (rowGate r)

/-- Neighbours of an element. -/
def neighbours (e : Nat) : List Nat :=
  if e < 880 then (List.range 6).filterMap (portNeighbour e)
  else if 0x380 ≤ e && e ≤ 0x389 then (List.range 22).map (fun c => coordSite 0 (e - 0x380) c) ++ [baseSwitch]
  else if e = baseSwitch then (List.range 10).map rowGate
  else []

/-- The link between two elements passed training. -/
def Trellis.linkOk (t : Trellis) (a b : Nat) : Bool := !t.badLinks.contains (a, b) && !t.badLinks.contains (b, a)

/-- The element has a working router or switch. -/
def Trellis.works (t : Trellis) (e : Nat) : Bool := !t.dark.contains e

/-- One breadth-first round: elements next to the frontier that no level has yet. -/
def bfsRound (t : Trellis) (seen frontier : List Nat) : List Nat :=
  (frontier.flatMap (fun e => (neighbours e).filter (fun n => t.works n && t.linkOk e n && !seen.contains n))).dedup

/-- Levels: (element, distance from the base switch) (R229). -/
def bfsLevels (t : Trellis) : Nat → Nat → List Nat → List Nat → List (Nat × Nat)
  | 0, _, _, _ => []
  | k + 1, d, seen, frontier =>
    if frontier = [] then []
    else
      let next := bfsRound t seen frontier
      frontier.map (fun e => (e, d)) ++ bfsLevels t k (d + 1) (seen ++ next) next

/-- The routing graph with its levels. -/
def Trellis.levels (t : Trellis) : List (Nat × Nat) := bfsLevels t 900 0 [baseSwitch] [baseSwitch]

/-- The index of an element's router block (R251). -/
def routerBlock (e : Nat) : Nat := if e < 880 then e else if e = baseSwitch then 890 else 880 + (e - 0x380)

/-- The element of a router block. -/
def blockElement (b : Nat) : Nat := if b < 880 then b else if b = 890 then baseSwitch else 0x380 + (b - 880)

/-- Router block `b`. -/
def State.router (s : State) (b : Nat) : Router := Tbl.get Router.init s.tr.routers b

/-- The part with a router block changed. -/
def State.modRouter (s : State) (b : Nat) (f : Router → Router) : State :=
  { s with tr := { s.tr with routers := Tbl.modify Router.init s.tr.routers b f } }

/-- The element is in the routing graph: a router by `PRESENT`, a Plinth endpoint when the base switch is. -/
def State.inGraph (s : State) (e : Nat) : Bool :=
  if isPlinth e then (s.router 890).present else isEndpoint e && (s.router (routerBlock e)).present

/-! ## Routes (R230 to R232) -/

/-- The steps of a coordinate from a to b, b included. -/
def stepsTo (a b : Nat) : List Nat :=
  if a ≤ b then (List.range (b - a)).map (fun k => a + k + 1) else (List.range (a - b)).map (fun k => a - k - 1)

/-- The elements after the source on the lane 0 route between two sites (R230). -/
def lane0Sites (a b : Nat) : List Nat :=
  let (l, r, c) := siteCoord a
  let (l', r', c') := siteCoord b
  (stepsTo c c').map (coordSite l r) ++ (stepsTo r r').map (fun y => coordSite l y c')
    ++ (stepsTo l l').map (fun z => coordSite z r' c')

/-- Every element is in the graph and every link on the path passed training. -/
def State.passable (s : State) : Nat → List Nat → Bool
  | a, [] => s.inGraph a
  | a, b :: rest => s.inGraph a && s.tr.linkOk a b && s.passable b rest

/-- From a site down its column to its row gateway. -/
def downPath (l r c : Nat) : List Nat := (stepsTo l 0).map (fun z => coordSite z r c) ++ [rowGate r]

/-- From a site to its row gateway: down its column, or first along its row to the nearest passable column, the lower on a
tie (R230). -/
def State.gatePath (s : State) (a : Nat) : Option (List Nat) :=
  let (l, r, c) := siteCoord a
  let order := (List.range 22).flatMap (fun d => (if d ≤ c then [c - d] else []) ++ (if d ≠ 0 && c + d < 22 then [c + d] else []))
  match order.find? (fun k => s.passable (coordSite l r k) (downPath l r k)) with
  | none => none
  | some k => some ((stepsTo c k).map (coordSite l r) ++ downPath l r k)

/-- The lane 0 route from a site to an endpoint of the Plinth. -/
def State.sitePlinth (s : State) (a e : Nat) : Option (List Nat) :=
  let (_, r, _) := siteCoord a
  (s.gatePath a).map (fun p =>
    if e = rowGate r then p
    else if e = baseSwitch then p ++ [baseSwitch]
    else p ++ [baseSwitch, e])

/-- The lane 0 route between two endpoints as the elements after the source; the reverse path from the Plinth. -/
def State.lane0 (s : State) (a b : Nat) : Option (List Nat) :=
  if a < 880 && b < 880 then some (lane0Sites a b)
  else if a < 880 then s.sitePlinth a b
  else if b < 880 then (s.sitePlinth b a).map (fun p => ((b :: p).reverse).drop 1)
  else if a = baseSwitch then some [b]
  else if b = baseSwitch then some [b]
  else some [baseSwitch, b]

/-- The lane 0 route is passable. -/
def State.lane0Ok (s : State) (a b : Nat) : Bool :=
  match s.lane0 a b with
  | none => false
  | some p => s.passable a p

/-- An up move: to a lower level, or at one level to a lower identifier (R231). -/
def State.upMove (s : State) (a b : Nat) : Bool :=
  let x := (s.router (routerBlock a)).level
  let y := (s.router (routerBlock b)).level
  y < x || (y = x && b < a)

/-- Steps of a lane 1 path from (element, still going up). -/
def State.lane1Next (s : State) (e : Nat × Bool) : List (Nat × Bool) :=
  ((neighbours e.1).filter (fun n => s.inGraph n && s.tr.linkOk e.1 n)).flatMap (fun n =>
    if s.upMove e.1 n then (if e.2 then [(n, true)] else []) else [(n, false)])

/-- Length of the shortest path of up moves and then down moves. -/
def lane1Search (s : State) (b : Nat) : Nat → Nat → List (Nat × Bool) → List (Nat × Bool) → Option Nat
  | 0, _, _, _ => none
  | k + 1, d, seen, frontier =>
    if frontier.any (fun e => e.1 = b) then some d
    else if frontier = [] then none
    else
      let next := ((frontier.flatMap s.lane1Next).filter (fun e => !seen.contains e)).dedup
      lane1Search s b k (d + 1) (seen ++ next) next

/-- Lane and hop count of a route between endpoints of the graph (R232). -/
def State.route (s : State) (a b : Nat) : Nat × Nat :=
  if a = b then (0, 0)
  else if s.lane0Ok a b then (0, ((s.lane0 a b).getD []).length)
  else
    -- a Plinth endpoint reaches the graph by the base switch
    let x := if isPlinth a then baseSwitch else a
    let y := if isPlinth b then baseSwitch else b
    (1, (lane1Search s y 2000 0 [(x, true)] [(x, true)]).getD 0 + b2n (isPlinth a) + b2n (isPlinth b))

/-- The lane 1 route itself: of the shortest paths the one with the lowest sequence of identifiers; `n` steps are left (R231). -/
def State.lane1Walk (s : State) (b : Nat) : Nat → Nat × Bool → List Nat
  | 0, _ => []
  | n + 1, e =>
    match ((s.lane1Next e).filter (fun x => lane1Search s b 2000 0 [x] [x] = some n)).argmin (·.1) with
    | none => []
    | some x => x.1 :: s.lane1Walk b n x

/-- The route between two endpoints as the elements after the source (R230, R231). -/
def State.path (s : State) (a b : Nat) : List Nat :=
  if a = b then []
  else if s.lane0Ok a b then (s.lane0 a b).getD []
  else
    let x := if isPlinth a then baseSwitch else a
    let y := if isPlinth b then baseSwitch else b
    (if isPlinth a then [baseSwitch] else [])
      ++ s.lane1Walk y ((lane1Search s y 2000 0 [(x, true)] [(x, true)]).getD 0) (x, true) ++ (if isPlinth b then [b] else [])

/-- The sublinks of the link between two elements (Table 8.2). -/
def sublinks (a b : Nat) : Nat :=
  let lo := min a b
  let hi := max a b
  if hi < 0x380 || lo < 0x380 then 1
  else if 0x390 ≤ lo && lo ≤ 0x395 then 20
  else if lo = 0x398 then 2
  else if lo = 0x399 then 1
  else 16

/-- The sublink that the packets of a pair of endpoints use (R224). -/
def sublinkOf (src dst a b : Nat) : Nat := (src + dst) % sublinks a b

/-- The first element of a route whose next link has failed (R247). -/
def Trellis.cutOn (t : Trellis) (src dst : Nat) : Nat → List Nat → Option Nat
  | _, [] => none
  | a, b :: rest => if t.cut.contains (a, b, sublinkOf src dst a b) then some a else t.cutOn src dst b rest

/-- The element at which the packets between two endpoints are dropped, since a link of their route failed (R247). -/
def State.cutAt (s : State) (a b : Nat) : Option Nat := if s.tr.cut = [] then none else s.tr.cutOn a b a (s.path a b)

/-- Packets between two endpoints are dropped on their way. -/
def State.severed (s : State) (a b : Nat) : Bool := (s.cutAt a b).isSome

/-- The bundles of these two elements' link retune: the vertical mesh links and the gateway links cross Seams (Tables 1.9, 8.2). -/
def State.linkHeld (s : State) (a b : Nat) : Bool :=
  let lo := min a b
  let hi := max a b
  let l := lo / 220
  if 880 ≤ lo then false
  else if 0x380 ≤ hi then s.seamsHeld [0, 1, 2] (lo % 220)
  else if hi ≠ lo + 220 then false
  else s.seamsHeld (if l = 0 then [3, 4] else if l = 1 then [5, 6, 7, 8, 9] else [10, 11]) (lo % 220)

/-- Some link of a route is held. -/
def State.holdsOn (s : State) : Nat → List Nat → Bool
  | _, [] => false
  | a, b :: rest => s.linkHeld a b || s.holdsOn b rest

/-- The packets between two endpoints are held by a Seam retune (R43). -/
def State.routeHeld (s : State) (a b : Nat) : Bool := s.bundles.any (fun e => e.2.retuning) && s.holdsOn a (s.path a b)

/-- Some pair of the graph uses lane 1 (Table 8.10). -/
def State.lane1Used (s : State) : Bool :=
  !(s.tr.dark = [] && s.tr.badLinks = []) &&
    (List.range 880).any (fun a => s.inGraph a && (List.range 0x3A1).any (fun b => isEndpoint b && s.inGraph b && !s.lane0Ok a b))

/-- Site routers in the graph. -/
def State.routersUp (s : State) : Nat := ((List.range 880).filter (fun i => (s.router i).present)).length

/-- `TRELLIS_STATUS` (Table 8.10). -/
def trellisStatus (s : State) : Word :=
  BitVec.ofNat 32 (b2n s.tr.started + 2 * b2n s.tr.degraded + 4 * b2n s.lane1Used + 8 * s.routersUp + 2 ^ 13 * s.tr.failedLinks)

/-- `RTR_STATE` (Table 8.9). -/
def Router.state (r : Router) : Word :=
  BitVec.ofNat 32 (b2n r.present + 2 * r.portUp.toNat + 128 * r.portFail.toNat + 8192 * b2n (0 < r.held) + 16384 * r.level)

/-- Form the routing graph from the tests of Trellis start: router blocks, levels and trained ports (R229). -/
def formGraph (s : State) (dark : List Nat) (bad : List (Nat × Nat)) : State :=
  let t := { s.tr with dark := dark, badLinks := bad }
  let lv := t.levels
  let up := fun (e : Nat) => (List.range 6).foldl (fun (m : Nat) p =>
    match (if e < 880 then portNeighbour e p else none) with
    | some n => if t.works e && t.works n && t.linkOk e n then m + 2 ^ p else m
    | none => m) 0
  let rs := (List.range 891).foldl (fun (m : Tbl Router) b =>
    let e := blockElement b
    match lv.find? (fun x => x.1 = e) with
    | some x => Tbl.set Router.init m b { Router.init with present := true, level := x.2, portUp := BitVec.ofNat 6 (up e) }
    | none => m) []
  { s with tr := { t with started := true, routers := rs } }

/-- A row gateway whose links all failed training is not in the graph (R232). -/
def Trellis.cutOff (t : Trellis) (e : Nat) : Bool := 880 ≤ e && (neighbours e).all (fun n => !t.linkOk e n)

/-- The graph is connected: every working element has a level, but for a row gateway without a link. -/
def Trellis.connected (t : Trellis) : Bool :=
  let lv := t.levels
  ((List.range 880) ++ (List.range 10).map rowGate).all (fun e => !t.works e || t.cutOff e || lv.any (fun x => x.1 = e))

/-! ## Cores in reset (R249, R481) -/

/-- The core's network interface absorbs requests: a partial reset of the core has begun and not taken effect. -/
def State.absorbs (s : State) (lc : Nat) : Bool :=
  match s.rst with
  | some r => r.stage = .draining && r.cores.contains lc
  | none => false

/-- The logical core of a site, if it is one. -/
def State.lcOf (s : State) (i : Nat) : Option Nat :=
  let x := s.site i
  if x.state = 1 then some ((i / 220 * 10 + i / 22 % 10) * 20 + x.lcol.toNat) else none

/-- The Commons plot number of a gateway site. -/
def State.commonsOf (s : State) (i : Nat) : Option Nat :=
  (List.range 80).find? (fun n => s.commonsSite n = some i && s.commonsPresent n)

end Sys2Proof.Machine
end

