-- ==== Sys2Proof/Machine/Supply.lean ====
section
/-! DEFINITION. Core domains, Canopy switches, inrush permits, regulator targets and intent frames as other commands use
them ("Power delivery, regulation and capping" R396, R399, R402 to R406, R411, R412, R425). -/

namespace Sys2Proof.Machine

/-! ## Settings (R388, Table 14.10) -/

/-- The value of an expert setting of 32 bits, its default where it has not been set. -/
def State.setting (s : State) (id dflt : Nat) : Nat := (Tbl.get none s.settings id).getD dflt

/-- `GATE_IDLE_MS`. -/
def State.gateIdleMs (s : State) : Nat := s.setting 0x0100 10
/-- `PREBOOST_MV`. -/
def State.preboostMv (s : State) : Nat := s.setting 0x0101 15
/-- `DROOP_TRIP_MV`. -/
def State.droopTripMv (s : State) : Nat := s.setting 0x0102 35
/-- `PERMIT_MARGIN_MV`. -/
def State.permitMarginMv (s : State) : Nat := s.setting 0x0103 25
/-- `VRI_MIN_A`. -/
def State.vriMinA (s : State) : Nat := s.setting 0x0104 50

/-! ## Sites and zones -/

/-- Power of site `i`. -/
def State.sitePwr (s : State) (i : Nat) : SitePower := Tbl.get SitePower.init s.pwr.sites i

/-- The part with the power of a site changed. -/
def State.modSitePwr (s : State) (i : Nat) (f : SitePower → SitePower) : State :=
  { s with pwr := { s.pwr with sites := Tbl.modify SitePower.init s.pwr.sites i f } }

/-- The zone of a site (R396). -/
def zoneOf (i : Nat) : Nat := 2 * (i / 220) + (if i % 22 < 11 then 0 else 1)

/-- Zone `z`. -/
def State.zone (s : State) (z : Nat) : Zone := Tbl.get Zone.init s.pwr.zones z

/-- The part with a zone changed. -/
def State.modZone (s : State) (z : Nat) (f : Zone → Zone) : State :=
  { s with pwr := { s.pwr with zones := Tbl.modify Zone.init s.pwr.zones z f } }

/-- A request for a permit joins the requests of its zone, in arrival order (R405). -/
def requestPermit (s : State) (i : Nat) (canopy : Bool) : State :=
  s.modZone (zoneOf i) (fun z => { z with
    waiting := z.waiting ++ [{ site := i, canopy := canopy, waits := false, slow := false }] })

/-- A gated core domain asks to power up (R402). -/
def requestPower (s : State) (i : Nat) : State :=
  if (s.sitePwr i).dom = .gated then requestPermit (s.modSitePwr i (fun p => { p with dom := .powering })) i false else s

/-- A Canopy store at retention asks for full voltage (R404). -/
def requestCanopy (s : State) (i : Nat) : State :=
  if (s.sitePwr i).canopy = .retention then requestPermit (s.modSitePwr i (fun p => { p with canopy := .raising })) i true else s

/-- The core domain of a logical core is powered. -/
def State.corePowered (s : State) (lc : Nat) : Bool :=
  match s.siteOf lc with
  | some i => (s.sitePwr i).dom = .on
  | none => false

/-- The Canopy store of a logical core is at full voltage. -/
def State.canopyFull (s : State) (lc : Nat) : Bool :=
  match s.siteOf lc with
  | some i => (s.sitePwr i).canopy = .full
  | none => false

/-- What an access to a feeder store or a Canopy store meets: `none` when it is served at once, with its time noted; else
the part with the power-up or raise it causes, for which it waits (R402, R404). -/
def storeWait (s : State) (da : Nat) : Option State :=
  match s.siteOf (daUnit da) with
  | none => none
  | some i =>
    if daSpace da = 0 then
      if (s.sitePwr i).dom = .on then none else some (requestPower s i)
    else if daSpace da = 1 then
      if (s.sitePwr i).canopy = .full then none else some (requestCanopy s i)
    else none

/-- The time of an access to a store, from which idleness counts (R402, R404). -/
def touchStore (s : State) (da : Nat) : State :=
  match s.siteOf (daUnit da) with
  | none => s
  | some i =>
    if daSpace da = 0 then s.modSitePwr i (fun p => { p with idleSince := s.us })
    else if daSpace da = 1 then s.modSitePwr i (fun p => { p with canopyDue := s.us + 100 })
    else s

/-! ## Regulator targets (R399, R425) -/

/-- Ceiling to a multiple of 5 mV, in 5 mV steps, of a voltage in fifteenths of 1 mV. -/
def ceil5 (v15 : Int) : Nat := ((v15 + 74) / 75).toNat

/-- The sum of R46 for a site at a clock code, in mV, before the clamp. -/
def State.vSum (s : State) (i code : Nat) : Nat :=
  500 + 5 * Tbl.get 0 s.pwr.vf (i % 220 / 44 * 64 + code) + 5 * (s.site i).stress.toNat + (s.sitePwr i).ageGb

/-- `V_TARGET` of a site: R46 with pre-boost and wait drop, clamped to 0.55–0.85 V and rounded up; 0 while gated (R399, R425). -/
def State.vTarget (s : State) (i : Nat) : Nat :=
  if (s.sitePwr i).dom = .gated then 0
  else
    let q := (match (if (s.site i).state = 1 then some (i / 22 * 20 + (s.site i).lcol.toNat) else none) with
      | some lc => (s.core lc).seq
      | none => Core.init.seq)
    let v : Int := 15 * (s.vSum i (s.clk (i % 220 / 44)).now : Int) + q.preboost - (if q.stage2 then 900 else 0)
    ceil5 (max 8250 (min 12750 v)) - 100

/-! ## Intent frames (R412) -/

/-- The parity bit that makes a 32-bit frame even. -/
def evenParity (n : Nat) : Nat := (List.range 31).foldl (fun p i => if bit n i then 1 - p else p) 0

/-- The bits of an intent frame for VIN_A (Table 14.7): predicted change in A, lead in units of 0.25 µs. -/
def intentFrame (zone : Nat) (amps : Int) (lead seq kind : Nat) : Word :=
  let n := 4 * zone + 32 * b2n (amps < 0) + 64 * min 1023 (amps.natAbs / 4) + 2 ^ 16 * min 255 lead + 2 ^ 24 * (seq % 16) + 2 ^ 28 * kind
  BitVec.ofNat 32 (n + 2 ^ 31 * evenParity n)

/-- The predicted change of a zone is sent when it reaches `VRI_MIN_A` with at least 2 µs to go; the prediction is free
(R412, log 17). -/
def sendIntent (s : State) (zone lead kind : Nat) : State :=
  let amps := Config.predictedAmps s.draws
  let s := s.drawn 1
  if s.pwr.vriEn && s.vriMinA ≤ amps.natAbs && 8 ≤ lead then
    { s with pwr := { s.pwr with
        vri := s.pwr.vri ++ [intentFrame zone amps lead s.pwr.frames.toNat kind]
        frames := satAdd s.pwr.frames 1 } }
  else s

/-- Intent for every zone that holds one of the cores (R412). -/
def sendIntents (s : State) (lcs : List Nat) (lead kind : Nat) : State :=
  (((lcs.filterMap s.siteOf).map zoneOf).dedup).foldl (fun s z => sendIntent s z lead kind) s

end Sys2Proof.Machine
end

