-- ==== Sys2Proof/Machine/Orangery.lean ====
section
/-! DEFINITION. Orangery regions, paging and bank mode ("Memory tiers, addressing and movers" R167 to R171, R215,
"Orangery stacks and near-bank processing" R258 to R264, R279, R282). -/

namespace Sys2Proof.Machine

/-- DA of byte `ofs` of a region (R167). -/
def regionDa (k r ofs : Nat) : Nat := mkDa 4 k (r * 2 ^ 26 + ofs)

/-! ## Frames and paging (R168 to R171) -/

/-- Does the region hold a frame? -/
def Region.framed (r : Region) : Bool := r.st = .resident || r.st = .pageOut || r.st = .pageIn

/-- The lowest-numbered free frame (R167, R168, R217). -/
def Stack.freeFrame (t : Stack) : Option Nat :=
  let used := t.withdrawn ++ (t.regions.filter (fun e => e.2.framed)).map (fun e => e.2.frame)
  (List.range 1536).find? (fun f => !used.contains f)

/-- Payload "stack; region" of notifications 0x04 to 0x07 (R389). -/
def regionNote (k r : Nat) : List Byte := leBytes 2 k ++ leBytes 2 r

/-- Start a page-in of a spilled region, or let it wait for a frame with the spill-pressure notification (R170). -/
def startPageIn (s : State) (k r : Nat) : State :=
  match (s.stack k).freeFrame with
  | some f => s.modRegion k r (fun x => { x with st := .pageIn, frame := f })
  | none =>
    if (s.stack k).waitIn.contains r then s
    else notify (s.modStack k (fun t => { t with waitIn := t.waitIn ++ [r] })) 4 (regionNote k r)

/-- A frame has been freed: the oldest waiting page-in starts (R170). -/
def frameFreed (s : State) (k : Nat) : State :=
  match (s.stack k).waitIn with
  | [] => s
  | r :: rest =>
    match (s.stack k).freeFrame with
    | none => s
    | some f => (s.modStack k (fun t => { t with waitIn := rest })).modRegion k r (fun x => { x with st := .pageIn, frame := f })

/-- What an ordinary access to a region meets (Tables 6.3, 9.3). -/
inductive OrgAccess where
  /-- served from the frame -/
  | serve
  /-- waits for residency; the part with a page-in started where one is due -/
  | wait (st : State)
  /-- in bank mode -/
  | bank
  /-- `UNMAPPED` -/
  | unmapped
  deriving DecidableEq, Repr

/-- An ordinary access to region `r` of stack `k` (Tables 6.3, 9.3). -/
def orgAccess (s : State) (k r : Nat) : OrgAccess :=
  match (s.region k r).st with
  | .unmapped => .unmapped
  | .resident => if (s.region k r).banked then .bank else .serve
  | .pageOut => .wait s
  | .pageIn => .wait s
  | .spilled => .wait (startPageIn s k r)

/-- The regions of an Orangery range. -/
def regionsOf (da n : Nat) : List Nat :=
  if n = 0 then [] else (List.range (daRegion (da + n - 1) + 1 - daRegion da)).map (fun i => daRegion da + i)

/-- An address that is a window access: in a region that is `BANK`, below 0x002_0000 (R264). -/
def State.isWindow (s : State) (da : Nat) : Bool :=
  daSpace da = 4 && (s.region (daUnit da) (daRegion da)).bank = .bank && bits da 25 0 < 0x20000

/-- The first answer other than `serve` that the regions of a range give; a window access is served (R264). A feeder store
whose domain is gated and a Canopy store at retention make the access wait for their power, and a plot behind a vertical
channel that retunes for the end of the retune (R43, R402, R404). -/
def orgAccessRange (s : State) (da n : Nat) : OrgAccess :=
  if daSpace da ≤ 1 then (match storeWait s da with
    | some t => .wait t
    | none => .serve)
  else if s.plotHeld da then .wait s
  else if daSpace da ≠ 4 || (s.isWindow da && bits da 25 0 + n ≤ 0x20000) then .serve
  else (regionsOf da n).foldl (fun a r =>
    match a with
    | .serve => orgAccess s (daUnit da) r
    | _ => a) .serve

/-- The record queue of the stack has room for the records of a write of [da, da + n); a write of more than 64 records finds room in an
empty queue (R267, log 107). -/
def State.recordRoom (s : State) (da n : Nat) : Bool :=
  !s.isWindow da || s.recQueue (daUnit da) = 0 || s.recQueue (daUnit da) + n / 32 ≤ 64

/-- What a write meets: as `orgAccessRange`, and records wait for room in the record queue (R267). -/
def orgWriteRange (s : State) (da n : Nat) : OrgAccess := if s.recordRoom da n then orgAccessRange s da n else .wait s

/-- Close the merge entries of a region (Table 7.3). -/
def closeRegion (s : State) (k r : Nat) : State :=
  closeWhere s (fun e => regionDa k r 0 ≤ e.word && e.word < regionDa k (r + 1) 0)

/-- Everything that memory keeps of a region goes with its frame; queued write-backs to it are cancelled (R208). -/
def dropRegion (s : State) (k r : Nat) : State :=
  let lo := regionDa k r 0
  let hi := regionDa k r 0 + 2 ^ 26
  let s := cancelBacks s lo hi
  { s with mem := { s.mem with
      bytes := Tbl.clearRange s.mem.bytes lo hi
      valid := Tbl.clearRange s.mem.valid (lo / 64) (hi / 64)
      flaws := Tbl.clearRange s.mem.flaws lo hi
      mapFlaws := Tbl.clearRange s.mem.mapFlaws (lo / 64) (hi / 64)
      merges := s.mem.merges.filter (fun e => !(lo ≤ e.word && e.word < hi)) } }

/-- Some mover transfer whose requests are being served reaches the region; one that started after the page-out has none there. -/
def State.moverReaches (s : State) (k r : Nat) : Bool :=
  s.cores.any (fun c => (List.range 4).any (fun m => (c.2.mover m).active.any (fun x =>
    x.taken && overlaps (x.reads ++ x.writes) [(regionDa k r 0, 2 ^ 26)])))

/-- The words of a region that decode as uncorrectable or poisoned. -/
def badWords (s : State) (k r : Nat) : List Nat :=
  ((Tbl.slice s.mem.flaws (regionDa k r 0) (regionDa k r 0 + 2 ^ 26)).filter (fun e =>
    match decodeWord e.2 with
    | .uncorrectable => true
    | .poisoned => true
    | _ => false)).map (·.1)

/-- `PAGE_OUT_COMPLETE`: once no transfer in progress reaches the region, its bytes stand in the host buffer, bad words as
zero, the CRC-64 is recorded and the frame is free; a failed host write leaves the region `RESIDENT` (R169, R215, R386). -/
def execPageOutComplete (stack : Fin 6) (region : Fin 16384) (s : State) : Out :=
  let k := stack.val
  let r := region.val
  let g := s.region k r
  if g.st ≠ .pageOut || s.moverReaches k r || !s.hif.bme then .next s
  else
    let lo := regionDa k r 0
    let s := closeRegion (checkMaps s 7 none lo (lo + 2 ^ 26)) k r
    let done := fun (s : State) => s.modRegion k r (fun x => { x with cmd := [] })
    if s.hostFails g.buf (2 ^ 26) then
      .next (completeAll (done (s.modRegion k r (fun x => { x with st := .resident }))) g.cmd 0x0C 0)
    else
      -- reading corrects, poisons and logs the words in error
      let s := s.openRows lo (2 ^ 26)
      let s := ((Tbl.slice s.mem.flaws lo (lo + 2 ^ 26)).map (·.1)).foldl (fun s w => (fetchWord s 7 none w).2.2) s
      let bad := badWords s k r
      let good := ((Tbl.slice s.mem.bytes lo (lo + 2 ^ 26)).filter (fun e => !bad.contains (e.1 / 32 * 32))).map (fun e => (e.1 - lo, e.2))
      let crc := crc64Sparse (2 ^ 26) good
      let s := { s with hostMem := Tbl.splice s.hostMem g.buf (g.buf + 2 ^ 26) (good.map (fun e => (e.1 + g.buf, e.2))) }
      let s := dropRegion s k r
      let s := s.modRegion k r (fun x => { x with st := .spilled, crc := some (BitVec.ofNat 64 crc), poison := !bad.isEmpty })
      let s := if bad.isEmpty then s else notify s 6 (regionNote k r)
      .next (completeAll (done (frameFreed s k)) g.cmd 0 0)

/-- The lines of a region, by DA / 64. -/
def regionLines (k r : Nat) : Tbl Bool := (List.range (2 ^ 20)).map (fun i => (regionDa k r 0 / 64 + i, true))

/-- Poison every line of a region (R170, R197). -/
def poisonRegion (s : State) (k r : Nat) : State :=
  let lo := regionDa k r 0
  { s with mem := { s.mem with
      flaws := Tbl.splice s.mem.flaws lo (lo + 2 ^ 26) ((List.range (2 ^ 21)).map (fun i => (lo + 32 * i, poisonWord))) } }

/-- `PAGE_IN_COMPLETE`: the bytes of the host buffer stand in the frame and the region is `RESIDENT`; a failed host read, the
poison flag or a differing CRC-64 poisons every line and is notified (R170, R215, R386). -/
def execPageInComplete (stack : Fin 6) (region : Fin 16384) (hostErr : Bool) (s : State) : Out :=
  let k := stack.val
  let r := region.val
  let g := s.region k r
  if g.st ≠ .pageIn || !s.hif.bme then .next s
  else
    let lo := regionDa k r 0
    let src := (Tbl.slice s.hostMem g.buf (g.buf + 2 ^ 26)).map (fun e => (e.1 - g.buf, e.2))
    let err := hostErr || s.hostFails g.buf (2 ^ 26)
    let crcBad := g.crc.any (fun c => c.toNat ≠ crc64Sparse (2 ^ 26) src)
    let s := { s with mem := { s.mem with
      bytes := Tbl.splice s.mem.bytes lo (lo + 2 ^ 26) (src.map (fun e => (e.1 + lo, e.2)))
      valid := Tbl.splice s.mem.valid (lo / 64) (lo / 64 + 2 ^ 20) (regionLines k r) } }
    let s := if crcBad then logError s lo 7 7 0xFF 0 4 none 0 else s
    let s := if err || g.poison || crcBad then
        notify (poisonRegion s k r) 5 (regionNote k r ++ leBytes 1 (if err then 2 else if g.poison then 1 else 0))
      else s
    let s := (s.openRows lo (2 ^ 26)).modRegion k r (fun x => { x with st := .resident, poison := false, cmd := [] })
    .next (completeAll s g.cmd (if err then 0x0C else 0) g.frame)

/-! ## Bank mode (R258 to R263) -/

/-- `BANK_ENTRY_COMPLETE`: merge entries of the region close, the handle is bound, and the command completes with the
generation (R259). -/
def execBankEntryComplete (stack : Fin 6) (region : Fin 16384) (s : State) : Out :=
  let k := stack.val
  let r := region.val
  let g := s.region k r
  if g.bank ≠ .entering then .next s
  else
    let s := (closeRegion s k r).modRegion k r (fun x => { x with bank := .bank, cmd := [] })
    .next (holderCheck (completeAll s g.cmd 0 g.gen.toNat) g.holder)

/-- Add a completion increment to its gate; it comes from a unit other than a core (R267). -/
def applyCmpl (s : State) (c : Cmpl) : State := if c.n = 0 then s else incGate s c.lc c.gate c.n .unit

/-- `BANK_RELEASE_COMPLETE`: once every earlier record has taken effect and every unit of the stack executes nothing, the
handle is unbound, the generation advances and the region is `NORMAL` (R262). With `ABORT`, units that an earlier record has started
since stop too (log 106). -/
def execBankReleaseComplete (stack : Fin 6) (region : Fin 16384) (s : State) : Out :=
  let k := stack.val
  let r := region.val
  let g := s.region k r
  let s := if g.bank = .releasing && g.relWait = 0 && g.abort then stopUnits s k (fun _ => true) else s
  if g.bank ≠ .releasing || g.relWait ≠ 0 || !(s.stack k).allQuiet then .next s
  else
    let s := s.modRegion k r (fun x => { x with
      bank := .normal, handle := 0, holder := .host, gen := g.gen + 1, relCmpl := none, abort := false, cmd := [] })
    let s := match g.relCmpl with
      | some c => applyCmpl s c
      | none => s
    .next (holderCheck (completeAll s g.cmd 0 (g.gen + 1).toNat) g.holder)

/-- Some region that a transfer reaches is in bank mode. -/
def State.bankHeld (s : State) (x : Xfer) : Bool :=
  (x.reads ++ x.writes).any (fun e => match orgAccessRange s e.1 e.2 with
    | .bank => true
    | _ => false)

/-- The time of the first request of a transfer that bank mode holds; a release ends the hold (R261). -/
def noteHold (s : State) (lc m : Nat) : State :=
  match ((s.core lc).mover m).active with
  | none => s
  | some x =>
    let since := if s.bankHeld x then x.bankSince.or (some s.us) else none
    if since = x.bankSince then s
    else s.modCore lc (fun c => c.setMover m { (c.mover m) with active := some { x with bankSince := since } })

/-- `BANK_HOLD_TIMEOUT`: a transfer held by bank mode for 1 ms, measured from its first held request, faults its job with `SOURCE` 5
(R261). -/
def execBankHoldTimeout (lc : Lc) (m : Fin 4) (s : State) : Out :=
  let s := noteHold s lc m
  match ((s.core lc).mover m).active with
  | none => .next s
  | some x => .next (if s.bankHeld x && x.bankSince.any (· + 1000 ≤ s.us) then faultCore s lc 5 0 x.bundle 0 else s)

/-! ## Status (R264, R282, R283) -/

/-- The code of a unit state, outside refresh suspensions (Table 9.10). -/
def UnitState.code : UnitState → Nat
  | .idle => 0
  | .running => 1
  | .hot => 3
  | .chain => 4
  | .error => 5

/-- The unit status (Table 9.10). -/
def BUnit.status (x : BUnit) (u : Nat) : List Byte :=
  leBytes 1 x.pc ++ leBytes 1 (if 0 < x.refLeft then 2 else x.st.code) ++ leBytes 1 x.err ++ leBytes 1 0 ++ leBytes 4 x.errAddr.toNat
    ++ leBytes 8 (if isRowUnit u then 0 else x.ctr.toNat) ++ leBytes 8 x.steps.toNat ++ leBytes 4 x.wait.toNat ++ leBytes 4 0

/-- `HOLDER` and `NODE` (Tables 9.11, 9.14). -/
def Stack.holderCode (t : Stack) : Nat × Nat :=
  match t.holder with
  | none => (0, 0)
  | some (.job n) => (1, n)
  | some .host => (2, 0)

/-- Regions in bank mode. -/
def Stack.bankRegions (t : Stack) : Nat := (t.regions.filter (fun e => e.2.banked)).length

/-- The stack bank status read in region `r` (Table 9.11). -/
def bankStatus (s : State) (k r : Nat) : List Byte :=
  let t := s.stack k
  leBytes 1 t.holderCode.1 ++ leBytes 1 t.holderCode.2 ++ leBytes 2 (t.region r).gen.toNat ++ leBytes 2 t.bankRegions
    ++ leBytes 1 (min 64 (s.recQueue k)) ++ leBytes 1 0 ++ leBytes 4 (t.units.filter (fun e => e.2.st ≠ .idle)).length
    ++ leBytes 4 t.malformed.toNat ++ leBytes 16 0

/-- A byte of the window of region `r` (Table 9.4). -/
def windowByte (s : State) (k r ofs : Nat) : Byte :=
  let u := ofs / 32 % 1024
  if ofs < 0x20 then (bankStatus s k r).getD ofs 0
  else if ofs < 0x10000 then 0
  else if ofs < 0x18000 then (((s.stack k).unit u).status u).getD (ofs % 32) 0
  else (leBytes 32 ((s.stack k).unit u).mailbox.toNat).getD (ofs % 32) 0

/-- The port links to every stack that ranges reach are up (R255). -/
def State.orgLinked (s : State) (rs : List (Nat × Nat)) : Bool :=
  rs.all (fun e => daSpace e.1 ≠ 4 || (s.stack (daUnit e.1)).linkUp)

/-- The endpoint that serves an address. -/
def State.endpoint (s : State) (da : Nat) : Option Nat := if daSpace da = 4 then some (0x390 + daUnit da) else s.daSite da

/-- Packets from an endpoint to an address are dropped: a link of their route, or the link of the stack, has failed (R247, R255). -/
def State.unreachable (s : State) (from' da : Nat) : Bool :=
  (daSpace da = 4 && !(s.stack (daUnit da)).linkUp) || (s.endpoint da).any (s.severed from')

/-- Packets from an endpoint to an address are held by a Seam retune (R43). -/
def State.reachHeld (s : State) (from' da : Nat) : Bool := (s.endpoint da).any (s.routeHeld from')

/-- Count writes to the status area or stale records in `ORG_STALE`. -/
def countStale (s : State) (k n : Nat) : State := s.modStack k (fun t => { t with stale := satAdd t.stale n })

/-! ## Bytes in transit (R200, R246) -/

/-- Which of `n` bytes a receiver found uncorrectable in transit; the others of `te` it corrected (R200). -/
def transitMarks (n : Nat) (te : List (Nat × Bool)) : List Bool :=
  if te = [] then [] else (List.range n).map (fun i => te.any (fun e => e.1 = i && !e.2))

/-- Log the bytes that were uncorrectable in transit, at the addresses that `place` gives them (R200). -/
def transitLog (s : State) (place : Nat → Nat) (te : List (Nat × Bool)) : State :=
  (te.filter (!·.2)).foldl (fun s e => logError s (place e.1) 10 0xFF 0xFF 0 4 none 0) s

/-- Count the bytes that the receiving port corrected in transit (R200, R246). -/
def transitCe (s : State) (e : Nat) (te : List (Nat × Bool)) : State :=
  if te.all (!·.2) then s
  else s.modRouter (if isPlinth e then 890 else routerBlock e) (fun r => { r with ce := satAdd r.ce (te.filter (·.2)).length })

/-- Bytes marked bad, or bad in transit. -/
def joinMarks (bad marks : List Bool) : List Bool :=
  if marks = [] then bad else if bad = [] then marks else List.zipWith (· || ·) bad marks

/-- A malformed record or unit error: the job of the holder faults with the code, or the host is told (R266, R281). -/
def holderFault (s : State) (k : Nat) (source code : Nat) (host : State → State) : State :=
  match (s.stack k).holder with
  | some (.job n) =>
    match s.jobAt n with
    | some j => faultCore s j.lowest source code (s.core j.lowest).seq.next 0
    | none => s
  | _ => host s

/-- The lowest region index in bank mode, named by notification 0x07. -/
def Stack.bankRegion (t : Stack) : Nat := ((t.regions.find? (fun e => e.2.banked)).map (·.1)).getD 0

/-- A malformed record (R266): `BANK_RECORD` for a job, a count and a notification for the host. -/
def malformed (s : State) (k r : Nat) : State :=
  holderFault s k 3 0x0B (fun s =>
    notify (s.modStack k (fun t => { t with malformed := satAdd t.malformed 1 })) 7 (regionNote k r))

/-! ## Refresh and links (R255, R279) -/

/-- Writes to some die of the stack wait (R280). -/
def State.hotStack (s : State) (k : Nat) : Bool := (List.range 16).any (fun d => Tbl.get false s.mem.orgHot (k * 16 + d))

/-- Usable frames not holding a region. -/
def Stack.freeFrames (t : Stack) : Nat :=
  1536 - (t.withdrawn ++ (t.regions.filter (fun e => e.2.framed)).map (fun e => e.2.frame)).dedup.length

/-- `ORG_STATUS` (Table 9.13). -/
def orgStatus (s : State) (k : Nat) : Word :=
  let t := s.stack k
  BitVec.ofNat 32 (b2n t.linkUp + 2 * b2n (s.hotStack k) + 4 * b2n (t.fast.any (·.2))
    + (if t.trained then 16 * (1536 - t.withdrawn.length) + 65536 * t.freeFrames else 0))

/-- `ORG_BANK` (Table 9.14). -/
def orgBank (s : State) (k : Nat) : Word :=
  let t := s.stack k
  BitVec.ofNat 32 (t.holderCode.1 + 4 * t.holderCode.2 + 256 * t.bankRegions
    + 2 ^ 18 * (t.units.filter (fun e => isRowUnit e.1 && e.2.st ≠ .idle)).length)

/-- `FRAME_REPLAY`: a link frame fails its CRC and is replayed, `again` when it was itself a replay; a frame that fails 8
consecutive replays fails the link until the next whole-part reset (R255). -/
def execFrameReplay (stack : Fin 6) (again : Bool) (s : State) : Out :=
  let n := if again then (s.stack stack).replays + 1 else 0
  let s' := s.modStack stack (fun t => { t with rply := satAdd t.rply 1, replays := n, linkUp := t.linkUp && n < 8 })
  .next (if (s.stack stack).linkUp && 8 ≤ n then
    healthEvent s' 6 2 (leBytes 4 (orgStatus s' stack).toNat ++ leBytes 2 stack.val) else s')

end Sys2Proof.Machine
end

