-- ==== Sys2Proof/Machine/Window.lean ====
section
/-! DEFINITION. Compare windows and the skip of updates ("Training, gradients and optimizer state" R323, R326, R327). -/

namespace Sys2Proof.Machine

/-- DA of the compare window. -/
def Training.windowDa (t : Training) : Nat := regionDa t.stack t.region t.ofs

/-- The block has a compare window bound. -/
def Training.hasWindow (t : Training) : Bool := t.bound && t.stack ≠ 0xFF

/-- A difference or malformed arrival: recorded the first time, and the job faults with `DIGEST_MISMATCH` (R327, Table 11.11). -/
def cmpMismatch (s : State) (node w : Nat) (beyond form : Bool) (src : Nat) : State :=
  let t := s.training node
  let s := if t.cmpFault.getLsbD 14 then s else s.modTraining node (fun t => { t with
    cmpFault := BitVec.ofNat 32 (w + 2 ^ 12 * b2n beyond + 2 ^ 13 * b2n form + 2 ^ 14)
    cmpSrc := BitVec.ofNat 32 (Tbl.get 0 t.source w % 1024 + src % 1024 * 65536) })
  match s.jobAt node with
  | some j => faultCore s j.lowest 3 0x0E (s.core j.lowest).seq.next 0
  | none => s

/-- Every word has all its copies: the shard digest is recorded, and the round's increment applied (R326). -/
def cmpRound (s : State) (node : Nat) : State :=
  let t := s.training node
  if (List.range t.words).all (fun w => Tbl.get 0 t.arrivals w = t.replicas) then
    let shard := crc64From 0 (s.bytesAt t.windowDa (8 * t.words))
    let s := s.modTraining node (fun t => { t with
      shard := BitVec.ofNat 64 shard, rounds := satAdd t.rounds 1, arrivals := [] })
    applyCmpl s { lc := fld t.cmpCmpl 9 0, gate := fld t.cmpCmpl 15 10, n := fld t.cmpCmpl 23 16 }
  else s

/-- An aligned word of 8 bytes arrives in the window (R326). -/
def cmpWrite (s : State) (node w : Nat) (data : List Byte) (bad : List Bool) (src : Nat) : State :=
  let t := s.training node
  let da := t.windowDa + 8 * w
  let n := Tbl.get 0 t.arrivals w
  let s :=
    if n = 0 then
      (memWriteBad s none da data bad).modTraining node (fun t => { t with source := Tbl.set 0 t.source w src })
    else if t.replicas ≤ n || data ≠ s.bytesAt da 8 then cmpMismatch s node w (t.replicas ≤ n) false src
    else s
  cmpRound (s.modTraining node (fun t => { t with arrivals := Tbl.set 0 t.arrivals w (n + 1) })) node

/-- The node whose compare window meets a byte range. -/
def State.windowAt (s : State) (da n : Nat) : Option Nat :=
  (s.trn.find? (fun e => e.2.hasWindow && overlap (da, n) (e.2.windowDa, 8 * e.2.words))).map (·.1)

/-- Write bytes from a part: those in a compare window are handled word by word, a part of a word as a mismatch (R326). -/
def writeThrough (s : State) (lc : Option Nat) (da : Nat) (data : List Byte) (bad : List Bool) (src : Nat) : State :=
  match s.windowAt da data.length with
  | none => memWriteBad s lc da data bad
  | some node =>
    let t := s.training node
    let lo := max da t.windowDa
    let hi := min (da + data.length) (t.windowDa + 8 * t.words)
    let s := if da < lo then memWriteBad s lc da (data.take (lo - da)) (bad.take (lo - da)) else s
    let s := if hi < da + data.length then memWriteBad s lc hi (data.drop (hi - da)) (bad.drop (hi - da)) else s
    (List.range ((hi - t.windowDa + 7) / 8 - (lo - t.windowDa) / 8)).foldl (fun s i =>
      let w := (lo - t.windowDa) / 8 + i
      let a := t.windowDa + 8 * w
      if lo ≤ a && a + 8 ≤ hi then cmpWrite s node w ((data.drop (a - da)).take 8) ((bad.drop (a - da)).take 8) src
      else cmpMismatch s node w false true src) s

/-- `START` records of the job that holds the stack are skipped: the last verdict was 0 (R323). -/
def State.skipsStart (s : State) (k : Nat) : Option Nat :=
  match (s.stack k).holder with
  | some (.job n) => if (s.training n).bound && !(s.training n).verdict then some n else none
  | _ => none

end Sys2Proof.Machine
end

