-- ==== Sys2Proof/Machine/Records.lean ====
section
/-! DEFINITION. Orangery command records: windows, order, checks and effects ("Orangery stacks and near-bank processing",
R264 to R268, R278). A record is examined when its turn comes (log 13). -/

namespace Sys2Proof.Machine

/-! ## Fields of a record (Tables 9.5, 9.6) -/

/-- Bytes `lo` to `hi` of `ARGS`, counted from byte 16 of the record. -/
def recArg (r : OrgRec) (lo hi : Nat) : Nat := leField (leBytes 16 r.args.toNat) (lo - 16) (hi - 16)

/-- `CMPL` as a completion. -/
def recCmpl (r : OrgRec) : Cmpl := { lc := fld r.cmpl 9 0, gate := fld r.cmpl 15 10, n := fld r.cmpl 23 16 }

/-- The selected units (Table 9.5). -/
def recUnits (r : OrgRec) : List Nat :=
  (List.range 1024).filter (fun u => r.chmask.getLsbD (u / 32) && r.bkmask.getLsbD (u % 32))

/-- Both masks are zero. -/
def recNoMask (r : OrgRec) : Bool := r.chmask = 0 && r.bkmask = 0

/-- The far range of a copy or digest of `len` bytes lies in the holder's claims: a feeder store, a Canopy store or a plot of
a core of the job, or a Commons plot it claims (R266, R267). -/
def farOk (s : State) (k : Nat) (far len : Nat) : Bool :=
  match (s.stack k).holder with
  | some (.job n) =>
    match s.jobAt n with
    | some j => daSpace far ≤ 3 && far < 2 ^ 56 && (daSpace far = 3 || j.covers (daUnit far)) && j.gap far len = none
    | none => false
  | _ => false

/-- `CMPL` is used as a completion: its reserved bits are zero, a host holder takes no increment, and a job's increment
names a core of the job (R266). -/
def cmplOk (s : State) (k : Nat) (r : OrgRec) : Bool :=
  fld r.cmpl 31 24 = 0 &&
  (match (s.stack k).holder with
   | some (.job n) => (recCmpl r).n = 0 || (s.jobAt n).any (fun j => j.covers (recCmpl r).lc)
   | _ => (recCmpl r).n = 0)

/-- The length and offset of a copy (R266). -/
def copyOk (r : OrgRec) : Bool :=
  recArg r 24 27 % 32 = 0 && recArg r 28 31 % 32 = 0 && 0x20000 ≤ recArg r 28 31 && recArg r 28 31 + recArg r 24 27 ≤ 2 ^ 26

/-- The block count and offset of a digest: whole 1 MiB blocks of the region (R278). -/
def digestOk (r : OrgRec) : Bool := recArg r 28 31 % 2 ^ 20 = 0 && recArg r 28 31 + recArg r 24 27 * 2 ^ 20 ≤ 2 ^ 26

/-! ## Waits (R267) -/

/-- The bank of unit `u` holds a byte of [ofs, ofs + len) of a region (Table 9.1). -/
def touchesBank (u ofs len : Nat) : Bool :=
  let blk := u % 32 * 32 + u / 32
  let lo := ofs / 1024
  let hi := (ofs + len + 1023) / 1024
  len ≠ 0 && (1024 ≤ hi - lo || (blk + 1024 - lo % 1024) % 1024 < hi - lo)

/-- A copy or digest in progress touches the bank of unit `u`. -/
def RecJob.touches (u : Nat) : RecJob → Bool
  | .start _ _ => false
  | .stop _ _ => false
  | .copyIn _ _ len ofs _ => touchesBank u ofs len
  | .copyOut _ _ len ofs _ => touchesBank u ofs len
  | .digest _ _ n ofs _ => touchesBank u ofs (n * 2 ^ 20)

/-- `PLOAD`, `PSET`, `SEED` and `START` wait for their units and for copies on their banks. -/
def unitsWait (t : Stack) (us : List Nat) : Bool :=
  us.any (fun u => !(t.unit u).quiet || t.active.any (RecJob.touches u))

/-- Copies and digests wait for the units of every bank they touch. -/
def banksWait (t : Stack) (ofs len : Nat) : Bool := t.units.any (fun e => !e.2.quiet && touchesBank e.1 ofs len)

/-- A row unit of the stack executes. -/
def rowsBusy (t : Stack) : Bool := t.units.any (fun e => !e.2.quiet && isRowUnit e.1)

/-! ## A record's turn (R266, R267) -/

/-- A record: held behind an earlier one or a release record in progress; discarded as stale, or as malformed with its
consequences; held while `wait`; else it takes effect. A record to a region that is not in bank mode is an ordinary write
and no record (R264). -/
def runRecord (i : Instr) (k r : Nat) (x : OrgRec) (s : State) (bad wait : Bool) (act : State) : Out :=
  let g := s.region k r
  if s.recQueue k ≠ 0 || (s.stack k).regions.any (fun e => e.2.bank = .releasing && e.2.relCmpl.isSome) then .next (s.hold i)
  else if x.gen ≠ g.gen then .next (recordLeft (countStale s k 1) k)
  else if g.bank ≠ .bank && g.bank ≠ .releasing then .next (recordLeft s k)
  else if bad then .next (recordLeft (malformed s k r) k)
  else if wait then .next (s.hold i)
  else .next (recordLeft act k)

/-- `OP` 0x00: ignored (R266). -/
def execRecordNoOp (stack : Fin 6) (region : Fin 16384) (r : OrgRec) (s : State) : Out :=
  if s.recQueue stack ≠ 0 then .next (s.hold (.recordNoOp stack region r)) else .next (recordLeft s stack)

/-- `PLOAD`: four instructions into every selected unit (Table 9.6). -/
def execPload (stack : Fin 6) (region : Fin 16384) (r : OrgRec) (s : State) : Out :=
  let us := recUnits r
  let i := fld r.cmpl 7 0
  runRecord (.pload stack region r) stack region r s (r.rsv ≠ 0 || fld r.cmpl 31 8 ≠ 0 || i % 4 ≠ 0) (unitsWait (s.stack stack) us)
    (us.foldl (fun s u => s.modUnit stack u (fun x => { x with
      store := Tbl.setMany 0 x.store i ((List.range 4).map (fun j => BitVec.ofNat 32 (recArg r (16 + 4 * j) (19 + 4 * j)))) })) s)

/-- Register value of a bank unit after `PSET` (Table 9.6). -/
def psetReg (r : OrgRec) (old : BitVec 256) : BitVec 256 :=
  if (fld r.cmpl 7 7 = 1 : Bool) then BitVec.ofNat 256 ((List.range 8).foldl (fun a i => a + recArg r 16 19 * 2 ^ (32 * i)) 0)
  else if fld r.cmpl 6 6 = 1 then r.args ++ old.setWidth 128
  else (old.extractLsb' 128 128) ++ r.args

/-- `PSET`: a register of every selected unit (Table 9.6). -/
def execPset (stack : Fin 6) (region : Fin 16384) (r : OrgRec) (s : State) : Out :=
  let us := recUnits r
  runRecord (.pset stack region r) stack region r s (r.rsv ≠ 0 || fld r.cmpl 31 8 ≠ 0) (unitsWait (s.stack stack) us)
    (us.foldl (fun s u => s.modUnit stack u (fun x =>
      if isRowUnit u then { x with scalars := Tbl.set 0 x.scalars (fld r.cmpl 3 0) (BitVec.ofNat 32 (recArg r 16 19)) }
      else { x with regs := Tbl.modify 0 x.regs (fld r.cmpl 5 0) (psetReg r) })) s)

/-- `SEED`: key and salt of every selected bank unit, counter 0 (Table 9.6, R273). -/
def execSeed (stack : Fin 6) (region : Fin 16384) (r : OrgRec) (s : State) : Out :=
  let us := recUnits r
  runRecord (.seed stack region r) stack region r s (r.rsv ≠ 0 || r.cmpl ≠ 0 || recArg r 28 31 ≠ 0) (unitsWait (s.stack stack) us)
    (us.foldl (fun s u => s.modUnit stack u (fun x =>
      if isRowUnit u then x
      else { x with
        key0 := BitVec.ofNat 32 (recArg r 16 19), key1 := BitVec.ofNat 32 (recArg r 20 23)
        salt := BitVec.ofNat 32 (recArg r 24 27), ctr := 0 })) s)

/-- Put a record among those in progress. -/
def addActive (s : State) (k : Nat) (j : RecJob) : State := s.modStack k (fun t => { t with active := t.active ++ [j] })

/-- `START`: the selected units start at the index (Table 9.6, R274); skipped after a verdict of 0 (R323). -/
def execStart (stack : Fin 6) (region : Fin 16384) (r : OrgRec) (s : State) : Out :=
  let us := recUnits r
  runRecord (.start stack region r) stack region r s
    (r.rsv ≠ 0 || !cmplOk s stack r || 2 ≤ recArg r 17 17 || recArg r 18 31 ≠ 0)
    ((s.skipsStart stack).isNone && unitsWait (s.stack stack) us)
    (match s.skipsStart stack with
     | some n => applyCmpl (s.modTraining n (fun t => { t with skipStarts := satAdd t.skipStarts 1 })) (recCmpl r)
     | none =>
       addActive (us.foldl (fun s u => s.modUnit stack u (fun x => { x with
         pc := recArg r 16 16, st := .running, err := 0, span := recArg r 17 17 = 1 })) s) stack (.start us (recCmpl r)))

/-- `STOP`: the selected units stop at their next step boundary (Table 9.6). -/
def execStop (stack : Fin 6) (region : Fin 16384) (r : OrgRec) (s : State) : Out :=
  let us := recUnits r
  runRecord (.stop stack region r) stack region r s (r.rsv ≠ 0 || !cmplOk s stack r || r.args ≠ 0) false
    (addActive (stopUnits s stack us.contains) stack (.stop us (recCmpl r)))

/-- `COPYIN`: from the far DA into the region (Table 9.6). -/
def execCopyin (stack : Fin 6) (region : Fin 16384) (r : OrgRec) (s : State) : Out :=
  let far := recArg r 16 23
  let len := recArg r 24 27
  let ofs := recArg r 28 31
  runRecord (.copyin stack region r) stack region r s
    (r.rsv ≠ 0 || !recNoMask r || !cmplOk s stack r || !copyOk r || !farOk s stack far len) (banksWait (s.stack stack) ofs len)
    (addActive s stack (.copyIn region far len ofs (recCmpl r)))

/-- `COPYOUT`: from the region to the far DA (Table 9.6). -/
def execCopyout (stack : Fin 6) (region : Fin 16384) (r : OrgRec) (s : State) : Out :=
  let far := recArg r 16 23
  let len := recArg r 24 27
  let ofs := recArg r 28 31
  runRecord (.copyout stack region r) stack region r s
    (r.rsv ≠ 0 || !recNoMask r || !cmplOk s stack r || !copyOk r || !farOk s stack far len) (banksWait (s.stack stack) ofs len)
    (addActive s stack (.copyOut region far len ofs (recCmpl r)))

/-- `DIGEST`: one CRC-64 per 1 MiB block, written to the far DA (Table 9.6, R278). -/
def execDigest (stack : Fin 6) (region : Fin 16384) (r : OrgRec) (s : State) : Out :=
  let far := recArg r 16 23
  let n := recArg r 24 27
  let ofs := recArg r 28 31
  runRecord (.digest stack region r) stack region r s
    (r.rsv ≠ 0 || !recNoMask r || !cmplOk s stack r || !digestOk r || !farOk s stack far (8 * n))
    (banksWait (s.stack stack) ofs (n * 2 ^ 20) || rowsBusy (s.stack stack))
    (addActive s stack (.digest region far n ofs (recCmpl r)))

/-- `RELEASE`: the region leaves bank mode (Table 9.6, R262). -/
def execRelease (stack : Fin 6) (region : Fin 16384) (r : OrgRec) (s : State) : Out :=
  runRecord (.release stack region r) stack region r s
    (r.rsv ≠ 0 || !recNoMask r || !cmplOk s stack r || 2 ≤ recArg r 16 16 || recArg r 17 31 ≠ 0) false
    (startRelease s stack region (recArg r 16 16 = 1) (some (recCmpl r)) [])

/-! ## Completion (R267, R281) -/

/-- The die of a channel holds a temperature at which units may not write (R280). -/
def dieHot (s : State) (k c : Nat) : Bool := Tbl.get false s.mem.orgHot (k * 16 + c / 2)

/-- May a record in progress complete: all its units executing nothing; a copy into a hot bank waits (R267, R280). -/
def recReady (s : State) (k : Nat) : RecJob → Bool
  | .start us _ => us.all (fun u => ((s.stack k).unit u).quiet)
  | .stop us _ => us.all (fun u => ((s.stack k).unit u).quiet)
  | .copyIn _ _ len ofs _ => !(List.range 1024).any (fun u => touchesBank u ofs len && dieHot s k (u / 32))
  | .copyOut _ far len _ _ => s.mayWrite far len
  | .digest _ far n _ _ => s.mayWrite far (8 * n)

/-- Bad data met by a copy or digest of a job holder faults the job (R281). -/
def copyFault (s : State) (k : Nat) (bad : Bool) : State := if bad then holderFault s k 4 0 id else s

/-- Copy `n` bytes, poison included (R210). -/
def copyBytes (s : State) (k src dst n : Nat) : State :=
  let f := memFetch (s.openRows src n) 6 (s.holderCore k) src n
  copyFault (memWriteBad (f.st.openRows dst n) none dst f.bytes f.bad) k (f.bad.any id)

/-- The digest of a 1 MiB block at a DA (R278); reading it corrects, poisons and logs its words in error. -/
def digestBlock (s : State) (k da : Nat) : Nat × Bool × State :=
  let ws := (Tbl.slice s.mem.flaws da (da + 2 ^ 20)).map (·.1)
  let r := ws.foldl (fun (a : Bool × State) w =>
    let x := fetchWord a.2 6 (s.holderCore k) w
    (a.1 || x.2.1, x.2.2)) (false, closeWhere (checkMaps s 6 (s.holderCore k) da (da + 2 ^ 20)) (fun e => da ≤ e.word && e.word < da + 2 ^ 20))
  (crc64Sparse (2 ^ 20) ((Tbl.slice r.2.mem.bytes da (da + 2 ^ 20)).map (fun e => (e.1 - da, e.2))), r.1, r.2)

/-- Digests of `n` blocks, written in block order. -/
def digestBlocks (k : Nat) : Nat → Nat → Nat → State → State
  | 0, _, _, s => s
  | n + 1, da, far, s =>
    let d := digestBlock s k da
    let s := memWriteBad (d.2.2.openRows da (2 ^ 20)) none far (leBytes 8 d.1) (List.replicate 8 d.2.1)
    digestBlocks k n (da + 2 ^ 20) (far + 8) (copyFault s k d.2.1)

/-- The effect of a record that completes, and its increment. -/
def recEffect (s : State) (k : Nat) : RecJob → State
  | .start _ c => applyCmpl s c
  | .stop _ c => applyCmpl s c
  | .copyIn r far len ofs c => applyCmpl (copyBytes s k far (regionDa k r ofs) len) c
  | .copyOut r far len ofs c => applyCmpl (copyBytes s k (regionDa k r ofs) far len) c
  | .digest r far n ofs c => applyCmpl (digestBlocks k n (regionDa k r ofs) far s) c

/-- `BANK_RECORD_COMPLETE`: the oldest record in progress that is ready completes, once (R267). -/
def execBankRecordComplete (stack : Fin 6) (s : State) : Out :=
  let k := stack.val
  match (s.stack k).active.find? (recReady s k) with
  | none => .next s
  | some j => .next (recEffect (s.modStack k (fun t => { t with active := t.active.erase j })) k j)

/-! ## Window accesses (R264, R265) -/

/-- The record that 32 bytes spell, as the command it is; a reserved `OP` has none. -/
def decodeRecord (k : Fin 6) (r : Fin 16384) (bs : List Byte) : Option Instr :=
  let x : OrgRec := {
    rsv := bs.getD 1 0, gen := BitVec.ofNat 16 (leField bs 2 3), chmask := BitVec.ofNat 32 (leField bs 4 7)
    bkmask := BitVec.ofNat 32 (leField bs 8 11), cmpl := BitVec.ofNat 32 (leField bs 12 15)
    args := BitVec.ofNat 128 (leField bs 16 31) }
  match leField bs 0 0 with
  | 0 => some (.recordNoOp k r x)
  | 1 => some (.pload k r x)
  | 2 => some (.pset k r x)
  | 3 => some (.seed k r x)
  | 4 => some (.start k r x)
  | 5 => some (.stop k r x)
  | 6 => some (.copyin k r x)
  | 7 => some (.copyout k r x)
  | 8 => some (.digest k r x)
  | 9 => some (.release k r x)
  | _ => none

/-- One record arrives at the port: queued, or with a reserved `OP` examined at once (R266). -/
def arriveRecord (s : State) (k : Fin 6) (r : Fin 16384) (bs : List Byte) : State :=
  match decodeRecord k r bs with
  | some i => s.hold i
  | none => if leField bs 2 3 ≠ (s.region k r).gen.toNat then countStale s k 1 else malformed s k r

/-- Write bytes to the window of a region: records of 32 bytes in ascending order, a part of a record malformed, the status
area discarded and counted once per 32 bytes (R264, R265). -/
def windowWrite (s : State) (k : Fin 6) (r : Fin 16384) (ofs : Nat) (data : List Byte) : State :=
  (wordsOf ofs data.length).foldl (fun s w =>
    if 0x10000 ≤ w then countStale s k 1
    else if ofs ≤ w && w + 32 ≤ ofs + data.length then arriveRecord s k r ((data.drop (w - ofs)).take 32)
    else malformed s k r) s

/-- Write at an Orangery DA from a part: to the window where it is one, to a compare window, else to memory. -/
def orgWriteFrom (s : State) (lc : Option Nat) (da : Nat) (data : List Byte) (bad : List Bool) (src : Nat) : State :=
  if s.isWindow da then
    let n := 0x20000 - bits da 25 0
    let s := windowWrite s (Fin.ofNat 6 (daUnit da)) (Fin.ofNat 16384 (daRegion da)) (bits da 25 0) (data.take n)
    if data.length ≤ n then s else memWriteBad (s.openRows (da + n) (data.length - n)) lc (da + n) (data.drop n) (bad.drop n)
  else writeThrough (s.openRows da data.length) lc da data bad src

/-- Write at an Orangery DA by a unit of this part. -/
def orgWrite (s : State) (lc : Option Nat) (da : Nat) (data : List Byte) (bad : List Bool) : State :=
  orgWriteFrom s lc da data bad s.partIndex

/-- Read at an Orangery DA: from the window where it is one, else from memory. -/
def orgRead (s : State) (req : Nat) (lc : Option Nat) (da n : Nat) : Fetched :=
  if s.isWindow da then
    { bytes := (List.range n).map (fun i => windowByte s (daUnit da) (daRegion da) (bits da 25 0 + i))
      bad := List.replicate n false, st := s }
  else memFetch (s.openRows da n) req lc da n

/-! ## Posts to Orangery queues (R268) -/

/-- The stack and queue number of an Orangery queue's QN (Table 8.6). -/
def orgQueueOf (qn : Nat) : Option (Nat × Nat) :=
  if 0x7F000 ≤ qn && qn < 0x7FC00 then some ((qn - 0x7F000) / 512, (qn - 0x7F000) % 512) else none

/-- A post of two records: refused with `Q_DISABLED` (0x2B), waiting while the record queue has no room for two, or accepted
(R268). -/
inductive PostAns where
  /-- accepted -/
  | ok (st : State)
  /-- refused with a status -/
  | refused (st : State) (status : Nat)
  /-- waits for room -/
  | full (st : State)
  deriving DecidableEq, Repr

/-- Post 64 bytes to queue `n` of stack `k` (R268). -/
def orgPost (s : State) (k n : Nat) (data : List Byte) : PostAns :=
  let q := Tbl.get { region := 0, on := false, posts := 0 } (s.stack k).queues n
  if !q.on || (s.region k q.region).bank ≠ .bank then .refused s 0x2B
  else if 62 < s.recQueue k then .full s
  else
    let fk := Fin.ofNat 6 k
    let fr := Fin.ofNat 16384 q.region
    let s := arriveRecord (arriveRecord s fk fr (data.take 32)) fk fr ((data.drop 32).take 32)
    .ok (s.modStack k (fun t => { t with
      queues := Tbl.set { region := 0, on := false, posts := 0 } t.queues n { q with posts := q.posts + 1 } }))

end Sys2Proof.Machine
end

