-- ==== Sys2Proof/Machine/BankUnit.lean ====
section
/-! DEFINITION. Bank units: their operations, chains and errors ("Orangery stacks and near-bank processing", R269 to R274,
R280, R281, Tables 9.7, 9.10). -/

namespace Sys2Proof.Machine

/-! ## Executing one instruction -/

/-- What an instruction of a unit does. -/
inductive UnitStep where
  /-- done: the unit after it, and its branch distance if it branches -/
  | ok (st : State) (x : BUnit) (jump : Option Int)
  /-- waits in a state of Table 9.10 -/
  | wait (st : State) (state : UnitState)
  /-- waits for the refreshes of its bank (R279) -/
  | suspended (st : State)
  /-- stops with an error code and address, its destination unwritten -/
  | fail (st : State) (code : Nat) (addr : Word)
  /-- the program ends -/
  | done (st : State)

/-- The unit executes a program: it is neither idle nor in error. -/
def BUnit.runs (x : BUnit) : Bool := !x.quiet

/-- Log a unit error that read no bad data; the spec gives the record's `CLASS` no value (log 14). -/
def logUnitError (s : State) : State :=
  logAdd (s.drawn 1) false (logRecord s 0 (Config.freeByte s.draws 0).toNat 6 0xFF 0 1 0xFFFF 0xFF 0)

/-- A unit error: recorded in the unit's status; the holder job faults, with `SOURCE` 4 for bad data and `BANK_UNIT`
otherwise, or the host is notified with the status (R281). -/
def unitFail (s : State) (k u code : Nat) (addr : Word) : State :=
  let s := if code = 1 then s else logUnitError s
  let s := (s.modUnit k u (fun x => { x with st := .error, err := code, errAddr := addr })).modStack k (fun t => t.settle u none)
  holderFault s k (if code = 1 then 4 else 3) (if code = 1 then 0 else 0x0C)
    (fun s => notify s 7 (regionNote k (s.stack k).bankRegion ++ leBytes 12 0 ++ ((s.stack k).unit u).status u))

/-- The index of the next instruction. -/
def BUnit.nextPc (x : BUnit) (jump : Option Int) : Int := (x.pc : Int) + jump.getD 1

/-- A bank cycle of a refresh suspension (R279). -/
def BUnit.suspendCycle (x : BUnit) : BUnit := { x with refLeft := x.refLeft - 1, wait := satAdd x.wait 1 }

/-- One instruction of a running unit: a next index beyond 255 stops the unit at it, before any effect of it (R281); a wait holds the
command, and so does a refresh suspension (R279). -/
def unitRun (i : Instr) (k u : Nat) (s : State) (f : BUnit → UnitStep) : Out :=
  let x := (s.stack k).unit u
  if !x.runs then .next s
  else if 0 < x.refLeft then .next ((s.modUnit k u BUnit.suspendCycle).hold i)
  else
    match f x with
    | .ok t y jump =>
      let n := x.nextPc jump
      if n < 0 || 255 < n then .next (unitFail s k u 4 0)
      else .next (t.modUnit k u (fun _ => { y with pc := n.toNat, st := .running, steps := bump x.steps 1 }))
    | .wait t st => .next ((t.modUnit k u (fun x => { x with st := st, wait := satAdd x.wait 1 })).hold i)
    | .suspended t => .next (t.hold i)
    | .fail t code addr => .next (unitFail t k u code addr)
    | .done t => .next ((t.modUnit k u (fun x => { x with st := .idle, pc := x.pc + 1, steps := bump x.steps 1 })).modStack k
        (fun t => t.settle u none))

/-- A unit is about to access the row at a DA: on a row hit refreshes of the bank that fell due are postponed and counted; with some
waiting, a row change suspends the unit until they have run, 50 bank cycles each. Refreshes of banks it has turned from run
(R254, R279). -/
def unitRow (s : State) (k u da : Nat) (go : State → UnitStep) : UnitStep :=
  let b := daBank da
  let row := s.daRow da
  let s := s.modStack k (fun t => if isRowUnit u then t.settle u (some b) else t)
  let t := s.stack k
  let n := t.pendingRefresh b
  if n ≠ 0 && !t.rowOpen b row then
    .suspended ((s.modStack k (fun t => t.refreshed b)).modUnit k u (fun x => { x with refLeft := 50 * n }))
  else
    let d := Tbl.get 0 t.due b
    go (s.modStack k (fun t =>
      (if d = 0 then t
        else { t with owed := Tbl.set 0 t.owed b n, due := Tbl.set 0 t.due b 0, refPost := satAdd t.refPost d }).openRow b row))

/-- An instruction that changes only its unit. -/
def unitLocal (i : Instr) (k u : Nat) (s : State) (f : BUnit → BUnit) : Out := unitRun i k u s (fun x => .ok s (f x) none)

/-! ## Registers and addresses (R269, R270) -/

/-- Register `r`. -/
def BUnit.reg (x : BUnit) (r : Nat) : BitVec 256 := Tbl.get 0 x.regs r

/-- A unit with a register written. -/
def BUnit.setReg (x : BUnit) (r : Nat) (v : BitVec 256) : BUnit := { x with regs := Tbl.set 0 x.regs r v }

/-- Lane 0 as a 32-bit integer. -/
def BUnit.lane0 (x : BUnit) (r : Nat) : Word := (x.reg r).setWidth 32

/-- A 32-bit integer in lane 0, the other bits 0. -/
def scalarReg (w : Word) : BitVec 256 := w.setWidth 256

/-- The 8 binary32 lanes. -/
def lanes32 (v : BitVec 256) : List Word := (List.range 8).map (fun i => v.extractLsb' (32 * i) 32)

/-- The 16 binary16 lanes. -/
def lanes16 (v : BitVec 256) : List Half := (List.range 16).map (fun i => v.extractLsb' (16 * i) 16)

/-- A register of little-endian pieces of `w` bits. -/
def joinLanes (w : Nat) (ns : List Nat) : BitVec 256 :=
  BitVec.ofNat 256 (ns.foldr (fun n a => n + 2 ^ w * a) 0)

/-- The region bound to a handle (R258, R262). -/
def Stack.bound (t : Stack) (h : Nat) : Option Nat :=
  (t.regions.find? (fun e => (e.2.bank = .bank || e.2.bank = .releasing) && e.2.handle = h)).map (·.1)

/-- DA of the word at a bank-unit address (R270). -/
def bankDa (s : State) (u : BankUnit) (a : Word) : Option Nat :=
  ((s.stack u.stack).bound (fld a 19 11)).map (fun r =>
    regionDa u.stack r (fld a 10 5 * 2 ^ 20 + u.bk.val * 2 ^ 15 + u.ch.val * 2 ^ 10 + fld a 4 0 * 32))

/-! ## Control, memory, scalars -/

/-- `NOP`. -/
def execBuNop (u : BankUnit) (s : State) : Out := unitLocal (.buNop u) u.stack u.num s id

/-- `LD`: `D` ← word at address `A` (Table 9.7). -/
def execBuLd (u : BankUnit) (d a : Fin 64) (s : State) : Out :=
  unitRun (.buLd u d a) u.stack u.num s (fun x =>
    match bankDa s u (x.lane0 a) with
    | none => .fail s 2 (x.lane0 a)
    | some da => unitRow s u.stack u.num da (fun s =>
      let f := memFetch s 6 (s.holderCore u.stack) da 32
      if f.bad.any id then .fail f.st 1 (x.lane0 a)
      else .ok f.st (x.setReg d (BitVec.ofNat 256 (leNat f.bytes))) none))

/-- Count the start of a temperature wait (R280). -/
def countHot (s : State) (k : Nat) (x : BUnit) : State :=
  if x.st = .hot then s else s.modStack k (fun t => { t with hotWait := satAdd t.hotWait 1 })

/-- `ST`: word at address `A` ← `B`; waits while the die is too hot (Table 9.7, R280). -/
def execBuSt (u : BankUnit) (a b : Fin 64) (s : State) : Out :=
  unitRun (.buSt u a b) u.stack u.num s (fun x =>
    match bankDa s u (x.lane0 a) with
    | none => .fail s 2 (x.lane0 a)
    | some da =>
      if dieHot s u.stack u.ch then .wait (countHot s u.stack x) .hot
      else unitRow s u.stack u.num da (fun s => .ok (memWrite s none da (leBytes 32 (x.reg b).toNat)) x none))

/-- `LDI`. -/
def execBuLdi (u : BankUnit) (d : Fin 64) (imm : BitVec 20) (s : State) : Out :=
  unitLocal (.buLdi u d imm) u.stack u.num s (fun x => x.setReg d (imm.setWidth 256))

/-- `IADD`. -/
def execBuIadd (u : BankUnit) (d a b : Fin 64) (s : State) : Out :=
  unitLocal (.buIadd u d a b) u.stack u.num s (fun x => x.setReg d (scalarReg (x.lane0 a + x.lane0 b)))

/-- `IADDI`. -/
def execBuIaddi (u : BankUnit) (d a : Fin 64) (imm : BitVec 14) (s : State) : Out :=
  unitLocal (.buIaddi u d a imm) u.stack u.num s (fun x => x.setReg d (scalarReg (x.lane0 a + imm.signExtend 32)))

/-- `LOOP`: lane 0 of `A` counts down; a nonzero result branches. The other bits of `A` keep their values. -/
def execBuLoop (u : BankUnit) (a : Fin 64) (imm : BitVec 14) (s : State) : Out :=
  unitRun (.buLoop u a imm) u.stack u.num s (fun x =>
    let n := x.lane0 a - 1
    .ok s (x.setReg a ((x.reg a).extractLsb' 32 224 ++ n)) (if n = 0 then none else some imm.toInt))

/-- `BR`. -/
def execBuBr (u : BankUnit) (imm : BitVec 14) (s : State) : Out :=
  unitRun (.buBr u imm) u.stack u.num s (fun x => .ok s x (some imm.toInt))

/-- `END`. -/
def execBuEnd (u : BankUnit) (s : State) : Out := unitRun (.buEnd u) u.stack u.num s (fun _ => .done s)

/-! ## Arithmetic (R271) -/

/-- A binary16 value as the binary32 value it is. -/
def up16 (h : Half) : Word := (toBin32 (fp16 h)).1

/-- A lane operation in the format of `M`: `op32` on binary32 lanes, `op16` on binary16 lanes. -/
def laneOp (half : Bool) (op32 : List Word → Word) (op16 : List Half → Half) (vs : List (BitVec 256)) : BitVec 256 :=
  if half then joinLanes 16 ((List.range 16).map (fun i => (op16 (vs.map (fun v => (lanes16 v).getD i 0))).toNat))
  else joinLanes 32 ((List.range 8).map (fun i => (op32 (vs.map (fun v => (lanes32 v).getD i 0))).toNat))

/-- A rounded binary16 operation on exact values (R69). -/
def rounded16 (f : List Fp → Fp) (hs : List Half) : Half := (toBin16 (f (hs.map fp16))).1

/-- A binary16 operation whose result is one of its operands, 1.0, 0 or NaN, taken through binary32 exactly. -/
def selected16 (f : List Word → Word) (hs : List Half) : Half := (toBin16 (fp32 (f (hs.map up16)))).1

/-- Operand i of a lane operation. -/
def nth32 (l : List Word) (i : Nat) : Word := l.getD i 0
/-- Operand i of an exact operation. -/
def nthFp (l : List Fp) (i : Nat) : Fp := l.getD i .nan

/-- `FADD`. -/
def execBuFadd (u : BankUnit) (half : Bool) (d a b : Fin 64) (s : State) : Out :=
  unitLocal (.buFadd u half d a b) u.stack u.num s (fun x => x.setReg d
    (laneOp half (fun l => (add32 (nth32 l 0) (nth32 l 1)).1) (rounded16 (fun l => (nthFp l 0).add (nthFp l 1))) [x.reg a, x.reg b]))

/-- `FSUB`. -/
def execBuFsub (u : BankUnit) (half : Bool) (d a b : Fin 64) (s : State) : Out :=
  unitLocal (.buFsub u half d a b) u.stack u.num s (fun x => x.setReg d
    (laneOp half (fun l => (sub32 (nth32 l 0) (nth32 l 1)).1) (rounded16 (fun l => (nthFp l 0).add (nthFp l 1).neg)) [x.reg a, x.reg b]))

/-- `FMUL`. -/
def execBuFmul (u : BankUnit) (half : Bool) (d a b : Fin 64) (s : State) : Out :=
  unitLocal (.buFmul u half d a b) u.stack u.num s (fun x => x.setReg d
    (laneOp half (fun l => (mul32 (nth32 l 0) (nth32 l 1)).1) (rounded16 (fun l => (nthFp l 0).mul (nthFp l 1))) [x.reg a, x.reg b]))

/-- `FFMA`: rounded once. -/
def execBuFfma (u : BankUnit) (half : Bool) (d a b c : Fin 64) (s : State) : Out :=
  unitLocal (.buFfma u half d a b c) u.stack u.num s (fun x => x.setReg d
    (laneOp half (fun l => (fma32 (nth32 l 0) (nth32 l 1) (nth32 l 2)).1)
      (rounded16 (fun l => ((nthFp l 0).mul (nthFp l 1)).add (nthFp l 2))) [x.reg a, x.reg b, x.reg c]))

/-- `FMIN`. -/
def execBuFmin (u : BankUnit) (half : Bool) (d a b : Fin 64) (s : State) : Out :=
  let f := fun l => (min32 (nth32 l 0) (nth32 l 1)).1
  unitLocal (.buFmin u half d a b) u.stack u.num s (fun x => x.setReg d (laneOp half f (selected16 f) [x.reg a, x.reg b]))

/-- `FMAX`. -/
def execBuFmax (u : BankUnit) (half : Bool) (d a b : Fin 64) (s : State) : Out :=
  let f := fun l => (max32 (nth32 l 0) (nth32 l 1)).1
  unitLocal (.buFmax u half d a b) u.stack u.num s (fun x => x.setReg d (laneOp half f (selected16 f) [x.reg a, x.reg b]))

/-- `FCLT`: 1.0 where `A` < `B`, otherwise +0. -/
def execBuFclt (u : BankUnit) (half : Bool) (d a b : Fin 64) (s : State) : Out :=
  let f := fun l => (clt32 (nth32 l 0) (nth32 l 1)).1
  unitLocal (.buFclt u half d a b) u.stack u.num s (fun x => x.setReg d (laneOp half f (selected16 f) [x.reg a, x.reg b]))

/-- `FSEL`: `A` where `C` is nonzero and not a NaN, otherwise `B`. -/
def execBuFsel (u : BankUnit) (half : Bool) (d a b c : Fin 64) (s : State) : Out :=
  let f := fun l => (sel32 (nth32 l 0) (nth32 l 1) (nth32 l 2)).1
  unitLocal (.buFsel u half d a b c) u.stack u.num s (fun x => x.setReg d (laneOp half f (selected16 f) [x.reg a, x.reg b, x.reg c]))

/-- `FRCP`. -/
def execBuFrcp (u : BankUnit) (d a : Fin 64) (s : State) : Out :=
  unitLocal (.buFrcp u d a) u.stack u.num s (fun x => x.setReg d (laneOp false (fun l => (rcpfn (nth32 l 0)).1) (fun _ => 0) [x.reg a]))

/-- `FRSQ`. -/
def execBuFrsq (u : BankUnit) (d a : Fin 64) (s : State) : Out :=
  unitLocal (.buFrsq u d a) u.stack u.num s (fun x => x.setReg d (laneOp false (fun l => (rsqrtfn (nth32 l 0)).1) (fun _ => 0) [x.reg a]))

/-- `BCAST`: every lane ← lane 0 of `A`. -/
def execBuBcast (u : BankUnit) (half : Bool) (d a : Fin 64) (s : State) : Out :=
  unitLocal (.buBcast u half d a) u.stack u.num s (fun x => x.setReg d
    (if half then joinLanes 16 (List.replicate 16 ((x.reg a).setWidth 16).toNat)
     else joinLanes 32 (List.replicate 8 (x.lane0 a).toNat)))

/-! ## Conversion and random numbers (R271, R273) -/

/-- Packed size in bytes of 8 values of a format. -/
def packSize (fmt : Nat) : Nat := packBits fmt

/-- One Philox call of a unit: counter, salt and 0x0001_0000 + u (R273). -/
def unitPhilox (x : BUnit) (u : Nat) (ctr : Dword) : Word × Word × Word × Word :=
  philox (ctr.setWidth 32) ((ctr >>> 32).setWidth 32) x.salt (BitVec.ofNat 32 (0x10000 + u)) x.key0 x.key1

/-- `CVT`: the 8 lanes of `A` packed into `D` from byte `C` × s; a `C` too large makes it a reserved instruction (R271, log 12). -/
def execBuCvt (u : BankUnit) (d a : Fin 64) (fmt : Fin 6) (sat rnd : Bool) (c : Fin 8) (s : State) : Out :=
  unitRun (.buCvt u d a fmt sat rnd c) u.stack u.num s (fun x =>
    let sz := packSize fmt
    if 32 < (c.val + 1) * sz then .fail s 3 0
    else
      let o := unitPhilox x u.num x.ctr
      let codes := ((lanes32 (x.reg a)).zipIdx).map (fun e =>
        (convert fmt sat (if rnd then some (philoxDraw o e.2) else none) e.1).1)
      let v := codes.foldr (fun n acc => n + 2 ^ packBits fmt * acc) 0
      let bs := putBytes (leBytes 32 (x.reg d).toNat) (c.val * sz) (leBytes sz v)
      .ok s { x.setReg d (BitVec.ofNat 256 (leNat bs)) with ctr := if rnd then x.ctr + 1 else x.ctr } none)

/-- `EXT`: the 8 packed values at byte `C` × s of `A` as binary32 lanes of `D`. -/
def execBuExt (u : BankUnit) (d a : Fin 64) (fmt : Fin 6) (c : Fin 8) (s : State) : Out :=
  unitRun (.buExt u d a fmt c) u.stack u.num s (fun x =>
    let sz := packSize fmt
    if 32 < (c.val + 1) * sz then .fail s 3 0
    else
      let n := (x.reg a).toNat / 2 ^ (8 * (c.val * sz))
      .ok s (x.setReg d (joinLanes 32 ((List.range 8).map (fun i =>
        (extend32 fmt (n / 2 ^ (packBits fmt * i) % 2 ^ packBits fmt)).1.toNat)))) none)

/-- The 128 bits of a Philox call. -/
def philoxBits (o : Word × Word × Word × Word) : BitVec 128 := o.2.2.2 ++ o.2.2.1 ++ o.2.1 ++ o.1

/-- `RAND`: two Philox calls; the counter advances by 2. -/
def execBuRand (u : BankUnit) (d : Fin 64) (s : State) : Out :=
  unitLocal (.buRand u d) u.stack u.num s (fun x =>
    { x.setReg d (philoxBits (unitPhilox x u.num (x.ctr + 1)) ++ philoxBits (unitPhilox x u.num x.ctr)) with ctr := x.ctr + 2 })

/-- `PUT`: mailbox ← `A`. -/
def execBuPut (u : BankUnit) (a : Fin 64) (s : State) : Out :=
  unitLocal (.buPut u a) u.stack u.num s (fun x => { x with mailbox := x.reg a })

/-! ## Chains (R274) -/

/-- Where a `CSEND` delivers: the successor's unit number, or the mailbox it writes at the tail. -/
def chainNext (u : BankUnit) (span : Bool) : Nat ⊕ Nat :=
  if u.bk.val < 29 then .inl (u.num + 1)
  else if span && u.ch.val < 31 then .inl (32 * (u.ch.val + 1))
  else .inr (32 * u.ch.val + 30)

/-- `CSEND`: `A` to the successor, waiting while the link's two buffers are full; the tail writes a mailbox. -/
def execBuCsend (u : BankUnit) (a : Fin 64) (s : State) : Out :=
  unitRun (.buCsend u a) u.stack u.num s (fun x =>
    match chainNext u x.span with
    | .inl v =>
      if 2 ≤ ((s.stack u.stack).unit v).inbox.length then .wait s .chain
      else .ok (s.modUnit u.stack v (fun y => { y with inbox := y.inbox ++ [x.reg a] })) x none
    | .inr v => .ok (s.modUnit u.stack v (fun y => { y with mailbox := x.reg a })) x none)

/-- The unit is the head of its chain. -/
def chainHead (u : BankUnit) (span : Bool) : Bool := u.bk.val = 0 && (!span || u.ch.val = 0)

/-- `CRECV`: `D` ← the next register received; the head receives zero bits at once. -/
def execBuCrecv (u : BankUnit) (d : Fin 64) (s : State) : Out :=
  unitRun (.buCrecv u d) u.stack u.num s (fun x =>
    if chainHead u x.span then .ok s (x.setReg d 0) none
    else
      match x.inbox with
      | [] => .wait s .chain
      | v :: rest => .ok s { x.setReg d v with inbox := rest } none)

end Sys2Proof.Machine
end

