-- ==== Sys2Proof/Machine/Power.lean ====
section
/-! DEFINITION. Power gating, inrush permits, droop response, pre-boost and the capping loops ("Power delivery, regulation and
capping" R402 to R422). -/

namespace Sys2Proof.Machine

/-! ## Gating and permits (R402 to R408) -/

/-- `CORE_GATE`: a logical core without a job and without a feeder access for `GATE_IDLE_MS` is gated: its core domain loses
its contents, and its Canopy switch may move to retention 1 µs later (R402 to R404). -/
def execCoreGate (lc : Lc) (s : State) : Out :=
  match s.siteOf lc with
  | none => .next s
  | some i =>
    let p := s.sitePwr i
    if p.dom ≠ .on || (s.jobOf lc).isSome || s.us < p.idleSince + 1000 * s.gateIdleMs then .next s
    else
      let s := clearUnit (s.setCore lc Core.init) 0 lc
      .next (sendIntents (s.modSitePwr i (fun p => { p with dom := .gated, canopyDue := s.us + 1 })) [lc.val]
        (Config.freeNat s.draws) 4)

/-- `CANOPY_RETENTION`: the switch of a gated core moves to retention 1 µs after the gating, or after 100 µs without an access
(R404). -/
def execCanopyRetention (site : Site) (s : State) : Out :=
  let p := s.sitePwr site
  if p.dom ≠ .gated || p.canopy ≠ .full || s.us < p.canopyDue then .next s
  else .next (s.modSitePwr site (fun p => { p with canopy := .retention }))

/-- `INRUSH_PERMIT_GRANT`: the oldest request of a zone takes a free permit; a core power-up whose powered neighbours have less
than `PERMIT_MARGIN_MV` of margin waits for it (R405, R406). `margin` is the least neighbour margin in mV, none without a
powered neighbour. -/
def execInrushPermitGrant (zone : Fin 8) (margin : Option Byte) (s : State) : Out :=
  let z := s.zone zone
  match z.waiting with
  | [] => .next s
  | r :: rest =>
    if z.free = 0 then .next s
    else
      let waits := !r.canopy && margin.any (fun m => m.toNat < s.permitMarginMv)
      let s := s.modZone zone (fun z => { z with free := z.free - 1, waiting := rest, granted := z.granted ++ [{ r with waits := waits }] })
      .next (if waits then { s with pwr := { s.pwr with waits := satAdd s.pwr.waits 1 } } else s)

/-- `SLOW_RAMP`: a power-up that has waited 20 µs for margin ramps slowly (R406). -/
def execSlowRamp (site : Site) (s : State) : Out :=
  let z := zoneOf site
  if (s.zone z).granted.any (fun r => r.site = site.val && !r.canopy && r.waits && !r.slow) then
    let s := s.modZone z (fun z => { z with
      granted := z.granted.map (fun r => if r.site = site.val && !r.canopy then { r with slow := true } else r) })
    .next { s with pwr := { s.pwr with slows := satAdd s.pwr.slows 1 } }
  else .next s

/-- `POWER_GOOD`: the last stage of a power-up or Canopy raise has completed: the domain is usable and the permit returns
(R404, R405, R407, R408). -/
def execPowerGood (site : Site) (canopy : Bool) (s : State) : Out :=
  let z := zoneOf site
  match (s.zone z).granted.find? (fun r => r.site = site.val && r.canopy = canopy) with
  | none => .next s
  | some r =>
    let s := s.modZone z (fun z => { z with free := z.free + 1, granted := z.granted.erase r })
    .next (s.modSitePwr site (fun p =>
      if canopy then { p with canopy := .full, canopyDue := s.us + 100 } else { p with dom := .on, idleSince := s.us }))

/-! ## Droop (R409, R410) -/

/-- `DROOP_TRIP`: every array cycle of the region is stretched, by 1.25, or by 1.5 for a deeper dip (R409, Table 14.6). -/
def execDroopTrip (region : Fin 5) (deep : Bool) (s : State) : Out :=
  if !(s.clk region).locked then .next s
  else .next (s.modClk region (fun c => { c with stretch := max c.stretch (if deep then 2 else 1) }))

/-- `DROOP_RELEASE`: after 64 quiet cycles the array cycles are nominal again (R409). -/
def execDroopRelease (region : Fin 5) (s : State) : Out :=
  .next (s.modClk region (fun c => { c with stretch := 0 }))

/-! ## Pre-boost (R411) -/

/-- `PREBOOST_START`: the regulator target of a core with a hint of a heavier phase rises by `PREBOOST_MV` × (a_new − a) / 15;
`a` is the present level in fifteenths. Not during stage 2 (R399, R411). -/
def execPreboostStart (lc : Lc) (a : Fin 16) (s : State) : Out :=
  let q := (s.core lc).seq
  match q.phase with
  | none => .next s
  | some (new, _) =>
    if q.stage2 || new ≤ a.val || !s.corePowered lc then .next s
    else .next (s.modCore lc (fun c => { c with seq := { c.seq with preboost := s.preboostMv * (new - a.val) } }))

/-- `PREBOOST_END`: 2 µs after the phase began the pre-boost and its hint are over (R411). -/
def execPreboostEnd (lc : Lc) (s : State) : Out :=
  .next (s.modCore lc (fun c => { c with seq := { c.seq with preboost := 0, phase := none } }))

/-! ## Capping (R413 to R420) -/

/-- `VR_ALERT`: the board drives `VR_ALERT_N` low; the assertion is counted (R413). -/
def execVrAlert (s : State) : Out :=
  if s.pwr.alert then .next s
  else .next { s with pwr := { s.pwr with alert := true, alerts := satAdd s.pwr.alerts 1 } }

/-- `VR_ALERT_RELEASE`: the board releases `VR_ALERT_N` (R413). -/
def execVrAlertRelease (s : State) : Out := .next { s with pwr := { s.pwr with alert := false } }

/-- Actuator classes (R416). -/
inductive CutClass where
  /-- pause duty p -/
  | compute
  /-- memory limit m -/
  | memory
  /-- link limit l -/
  | links
  deriving DecidableEq, Repr

/-- The cut order of the part loop (Table 14.9). -/
def cutOrder : Nat → List CutClass
  | 0 => [.compute, .memory, .links]
  | 1 => [.compute, .links, .memory]
  | 2 => [.memory, .compute, .links]
  | 3 => [.memory, .links, .compute]
  | 4 => [.links, .compute, .memory]
  | _ => [.links, .memory, .compute]

/-- The present limit of a class is in force. -/
def PowerLoop.inForce (l : PowerLoop) : CutClass → Bool
  | .compute => 0 < l.p
  | .memory => l.m < 64
  | .links => l.l < 64

/-- w of a class from the last sample, never below 1 W; free for the compute class at p = 64, where R417 divides by 0
(log 18). -/
def PowerLoop.weight (l : PowerLoop) (draw : Nat) (x : PowerSample) : CutClass → Rat
  | .compute => if 64 ≤ l.p then max 1 (Config.freeNat draw : Rat) else max 1 (((x.compute : Rat) - x.leak) / ((64 - l.p : Nat) : Rat))
  | .memory => max 1 ((x.memory : Rat) / (l.m : Rat))
  | .links => max 1 ((x.link : Rat) / (l.l : Rat))

/-- A class tightened by `k` steps (R417). -/
def PowerLoop.tighten (l : PowerLoop) (k : Nat) : CutClass → PowerLoop
  | .compute => { l with p := min 64 (l.p + k) }
  | .memory => { l with m := max l.memFloor (l.m - k) }
  | .links => { l with l := max l.linkFloor (l.l - k) }

/-- A class relaxed by `k` steps (R417). -/
def PowerLoop.loosen (l : PowerLoop) (k : Nat) : CutClass → PowerLoop
  | .compute => { l with p := l.p - k }
  | .memory => { l with m := min 64 (l.m + k) }
  | .links => { l with l := min 64 (l.l + k) }

/-- The largest step of a cut of a class. -/
def cutStep : CutClass → Nat
  | .compute => 16
  | .memory => 8
  | .links => 8

/-- Cut classes in order until the need is met (R417). -/
def cutAll (draw : Nat) (x : PowerSample) : List CutClass → Rat → PowerLoop → PowerLoop
  | [], _, l => l
  | c :: cs, need, l =>
    let w := l.weight draw x c
    let k := min (cutStep c) (need / w).ceil.toNat
    let l := l.tighten k c
    if need - k * w ≤ 0 then l else cutAll draw x cs (need - k * w) l

/-- Relax the last class in force of a cut order by the largest of 1 to 4 steps that stays 1.5 % of the cap below the
setpoint (R417). -/
def relaxOne (draw : Nat) (x : PowerSample) (order : List CutClass) (sp cap : Rat) (l : PowerLoop) : PowerLoop :=
  match (order.filter l.inForce).getLast? with
  | none => l
  | some c =>
    match [4, 3, 2, 1].find? (fun k => (x.power : Rat) + (k : Nat) * l.weight draw x c < sp - cap * 15 / 1000) with
    | some k => l.loosen k c
    | none => l

/-- The samples since max(now − 10 ms, last change of the cap), with the new one. -/
def PowerLoop.addSample (l : PowerLoop) (now w : Nat) : List (Nat × Nat) :=
  (l.samples.filter (fun e => now ≤ e.1 + 10000)) ++ [(now, w)]

/-- The mean of a loop's samples, 0 without any. -/
def PowerLoop.mean (l : PowerLoop) : Rat :=
  if l.samples = [] then 0 else (((l.samples.map (·.2)).sum : Nat) : Rat) / (l.samples.length : Rat)

/-- A time from which a condition has held, plus one; 0 while it does not. -/
def sinceTime (old now : Nat) (holds : Bool) : Nat := if !holds then 0 else if old = 0 then now + 1 else old

/-- One step of a loop (R417). -/
def PowerLoop.step (l : PowerLoop) (part alert : Bool) (order : List CutClass) (now draw : Nat) (x : PowerSample) : PowerLoop :=
  let l := { l with samples := l.addSample now x.power, last := x.power }
  let a := l.mean
  let cap : Rat := l.cap
  let sp := cap + 4 * (cap - a)
  let sp := if part then min 6200 sp else sp
  let sp := if l.hard then min sp cap else sp
  let sp := if alert && part then min sp 2000 else sp
  let l := { l with setpoint := sp, exceeded := sp < (x.power : Rat) }
  let l :=
    if sp < (x.power : Rat) then cutAll draw x order ((x.power : Rat) - sp) l
    else if (x.power : Rat) < sp - cap * 3 / 100 && a ≤ cap && l.lastRelax + 100 ≤ now then
      { relaxOne draw x order sp cap l with lastRelax := now }
    else l
  { l with
    highSince := sinceTime l.highSince now (16 ≤ l.p)
    calmSince := sinceTime l.calmSince now (l.p = 0 && (x.power : Rat) < cap * 95 / 100) }

/-- The loop of node `n`; node 0 is the part's. -/
def State.loopOf (s : State) (n : Nat) : PowerLoop := if n = 0 then s.pwr.part else Tbl.get PowerLoop.init s.pwr.nodes n

/-- The part with a loop replaced. -/
def State.setLoop (s : State) (n : Nat) (l : PowerLoop) : State :=
  if n = 0 then { s with pwr := { s.pwr with part := l } }
  else { s with pwr := { s.pwr with nodes := Tbl.set PowerLoop.init s.pwr.nodes n l } }

/-- With expert floors, a sample above its setpoint with every class at its floor sets `CAP_UNMET` (R418). -/
def PowerLoop.capUnmet (l : PowerLoop) : Bool :=
  (l.memFloor ≠ 8 || l.linkFloor ≠ 16) && l.exceeded && l.p = 64 && l.m ≤ l.memFloor && l.l ≤ l.linkFloor

/-- The samples of package power of the last 10 s and the one before them, with a new one (R451). -/
def addPower (xs : List (Nat × Nat)) (now w : Nat) : List (Nat × Nat) :=
  let old := xs.filter (fun e => e.1 + 10000000 < now)
  (old.drop (old.length - 1)) ++ xs.filter (fun e => now ≤ e.1 + 10000000) ++ [(now, w)]

/-- A sample of a node's loop is formed: cap changes of the node are in force and complete (R32, R415). -/
def capsInForce (s : State) (n : Nat) : State :=
  (s.pwr.capRuns.filter (fun e => e.1 = n)).foldl (fun s e => completeCmd s e.2 0 false (s.loopOf n).cap 0)
    { s with
      busy := if s.pwr.capRuns.any (fun e => e.1 = n) then s.busy.filter (· ≠ n) else s.busy
      pwr := { s.pwr with capRuns := s.pwr.capRuns.filter (fun e => e.1 ≠ n) } }

/-- `LOOP_STEP`: the sample of the part or of a node with a cap, and what the loop does with it (R414, R417, R418). -/
def execLoopStep (node : Fin 64) (p : PowerSample) (s : State) : Out :=
  let part : Bool := node.val = 0
  let s := capsInForce s node
  let l := s.loopOf node
  if !part && (l.cap = 0 || !s.nodeValid node) then .next s
  else
    let order := if part then cutOrder s.pwr.order else [.compute, .memory]
    let l' := l.step part (s.pwr.alert && s.pwr.alertEn) order s.us s.draws p
    let s := (s.setLoop node l').drawn 1
    .next (if part then { s with
        pwr := { s.pwr with unmet := l'.capUnmet, overs := if l'.exceeded then satAdd s.pwr.overs 1 else s.pwr.overs }
        thm := { s.thm with power := addPower s.thm.power s.us p.power } } else s)

/-- `FREQ_LIM_STEP`: the capping clock limit falls by one code after 1 ms at p ≥ 16, and rises by one, up to 40, after 10 ms of
calm (R420). -/
def execFreqLimStep (s : State) : Out :=
  let l := s.pwr.part
  if s.pwr.noFreq then .next s
  else if l.highSince ≠ 0 && l.highSince - 1 + 1000 ≤ s.us then
    .next { s with pwr := { s.pwr with freqLim := s.pwr.freqLim - 1 } }
  else if l.calmSince ≠ 0 && l.calmSince - 1 + 10000 ≤ s.us then
    .next { s with pwr := { s.pwr with freqLim := min 40 (s.pwr.freqLim + 1) } }
  else .next s

/-! ## Pause frames (R155, R416, R417, R439) -/

/-- The duty of a core: the largest p among the part loop, the loops of its node and of every ancestor, and the thermal
duty of its region (R417). -/
def State.duty (s : State) (lc : Nat) : Nat :=
  let cl := clusterOf lc
  ((s.nodeUp (s.clusterNode cl)).map (fun n => (s.loopOf n).p)).foldl max (max s.pwr.part.p (s.therm (regionOf cl)).pt)

/-- `PAUSE_DUTY_FRAME`: a frame of 1,024 cycles begins in a region; its first 16p cycles are pauses for every core of a running
job, by the core's duty p (R155, R416). -/
def execPauseDutyFrame (region : Fin 5) (s : State) : Out :=
  let lcs := (s.jobs.filter Job.isRunning).flatMap Job.cores
  .next ((lcs.filter (fun lc => regionOf (clusterOf lc) = region.val)).foldl (fun s lc =>
    let d := 16 * s.duty lc
    s.modCore lc (fun c => { c with seq := { c.seq with paused := 0 < d, dutyLeft := d } })) s)

/-! ## Caps (R415, R419) -/

/-- A new cap of a loop: `hard` when it lies below the last sample, the mean starts again (R417, R419). -/
def PowerLoop.setCap (l : PowerLoop) (cap : Nat) : PowerLoop :=
  { l with cap := cap, hard := cap ≠ 0 && cap < l.last, samples := [], calmSince := 0 }

/-- The smallest memory limit that applies to a plot (R417). -/
def State.memLimit (s : State) (site : Nat) : Nat :=
  ((s.nodeUp (s.clusterNode (site / 22))).map (fun n => (s.loopOf n).m)).foldl min s.pwr.part.m

/-! ## Registers (Tables 14.11 to 14.16) -/

/-- The running jobs' declared mean draw exceeds the part cap (R421). -/
def State.meanExceeds (s : State) : Bool :=
  s.pwr.part.cap ≠ 0 && s.pwr.part.cap < ((s.jobs.filter (·.isRunning)).map (·.meanW)).sum

/-- `PWR_STATUS` (Table 14.12); `OVERSUB` is set at a job load and stays while the sum exceeds the cap (R421). -/
def pwrStatus (s : State) : Word :=
  let l := s.pwr.part
  BitVec.ofNat 32 (b2n (l.inForce .compute || l.inForce .memory || l.inForce .links || s.pwr.freqLim < 40)
    + 2 * b2n s.pwr.unmet + 4 * b2n (s.pwr.oversub && s.meanExceeds) + 8 * b2n s.pwr.alert + 2 ^ 8 * s.pwr.order)

/-- `PWR_CUT` (Table 14.14). -/
def pwrCut (s : State) : Word :=
  let l := s.pwr.part
  BitVec.ofNat 32 (l.p + 2 ^ 8 * l.m + 2 ^ 16 * l.l + 2 ^ 24 * s.pwr.freqLim)

/-- A power in whole W of 16 bits; free where the quantity is no such number, since no rounding is given (log 18). -/
def wattField (draw : Nat) (r : Rat) : Nat :=
  if r.den = 1 && 0 ≤ r && r < 65536 then r.num.toNat else Config.freeNat draw % 65536

/-- `NODE_CAP` of node `n` (Table 14.15). -/
def nodeCap (s : State) (n : Nat) : Word :=
  let l := if n = 0 then PowerLoop.init else s.loopOf n
  BitVec.ofNat 32 (l.cap + 2 ^ 16 * l.p + 2 ^ 24 * l.m + 2 ^ 31 * b2n l.exceeded)

/-- `PERMIT_Zz` (Table 14.11). -/
def permitZ (s : State) (z : Nat) : Word :=
  BitVec.ofNat 32 ((s.zone z).free + 2 ^ 8 * min 255 (s.zone z).waiting.length)

/-- `VREG_SITE` (Table 14.16); measured fields are free. -/
def vregSite (s : State) (i : Nat) : Dword :=
  let p := s.sitePwr i
  let lc := if (s.site i).state = 1 then some (i / 22 * 20 + (s.site i).lcol.toNat) else none
  let q := match lc with
    | some lc => (s.core lc).seq
    | none => Core.init.seq
  let st := match p.dom with
    | .gated => 0
    | .powering => 1
    | .on => if q.stage2 then 3 else 2
  let gated : Bool := p.dom = .gated
  BitVec.ofNat 64 (s.vTarget i + 2 ^ 8 * (if gated then 0 else Config.freeNat s.draws % 128) + 2 ^ 16 * st
    + 2 ^ 18 * b2n (p.canopy = .retention) + 2 ^ 19 * b2n (q.preboost ≠ 0)
    + 2 ^ 24 * (if gated then 0 else Config.freeNat (s.draws + 1) % 256)
    + 2 ^ 32 * (if gated then 0 else Config.freeNat (s.draws + 2) % 65536) + 2 ^ 48 * p.ageGb)

end Sys2Proof.Machine
end

