-- ==== Sys2Proof/Machine/Gate.lean ====
section
/-! DEFINITION. The GATE slot: gates, loops, segments, phases, planned slack and the end of a program ("Schedule images
and the timing contract", R141 to R148, R153, R156, R157). The GATE slot is the last of its bundle: its operation ends the
bundle (log 8). -/

namespace Sys2Proof.Machine

/-- The GATE slot operation issues and its bundle with it (R140). -/
def gateIssue (i : Instr) (lc : Nat) (s : State) (wait : Bool) (count : Core → Core) (act : State) : Out :=
  slotIssue i lc s wait count (act.modCore lc Core.endBundle)

/-- A hazard of Table 5.16 met at issue: the bundle is refused (R153). -/
def contractHazard (s : State) (lc code : Nat) (aux : Word) : State := faultCore s lc 3 code (s.core lc).seq.next aux

/-- A GATE slot operation with a hazard: refused with its code, or issued (R141, R153). -/
def gateChecked (i : Instr) (lc : Nat) (s : State) (wait : Bool) (hazard : Option Nat) (aux : Word) (act : State) : Out :=
  slotIssue i lc s wait id
    (match hazard with
     | some code => contractHazard s lc code aux
     | none => act.modCore lc Core.endBundle)

/-- `GNOP` (R141). -/
def execGnop (lc : Lc) (s : State) : Out := gateIssue (.gnop lc) lc s false id s

/-! ## Gate waits (R141, R142, R156, R157) -/

/-- A cycle in which the gate condition fails: counted in `PACE_GWAIT`, the wait grows, and a core at level 0 counts
towards wait stage 2 (R141, R156). -/
def Core.gateFail (c : Core) : Core :=
  { c with seq := { c.seq with
      gwait := bump c.seq.gwait 1
      gwaitLen := c.seq.gwaitLen + 1
      recent := []
      stage1Cyc := if c.arr.level = 0 then c.seq.stage1Cyc + 1 else 0 } }

/-- The cores of the job, other than `lc`, whose increments of gate g ended its wait (R157). -/
def remoteEnders (s : State) (lc g : Nat) : List Nat :=
  (s.core lc).seq.recent.filterMap (fun e =>
    match e.2 with
    | .core k =>
      if e.1 = g && k ≠ lc && (s.jobOf lc).any (fun j => j.covers k) then some k else none
    | .unit => none
    | .fabric => none)

/-- The regulator returns from wait stage 2: issue is held for at most 1.0 µs, by how far the voltage had fallen, which is free
(Table 5.18, log 94). -/
def Core.wakes (c : Core) (ticks free : Nat) : Core :=
  if c.seq.stage2 then { c with seq := { c.seq with wakeTill := ticks + free % 1601 } } else c

/-- The wait of a core is over: the counts of its waiting cycles end. -/
def Core.waitOver (c : Core) : Core :=
  { c with seq := { c.seq with gwaitLen := 0, waitTicks := 0, recent := [], stage1Cyc := 0, stage2 := false } }

/-- The first cycle in which the gate condition holds: the regulator begins to return, and no cycle counts as waiting from here on
(R156, R157, R159). -/
def gateHolds (s : State) (lc : Nat) : State :=
  if (s.core lc).seq.gwaitLen = 0 && (s.core lc).seq.recent = [] then s
  else (s.modCore lc (fun c => (c.wakes s.ticks (Config.freeNat s.draws)).waitOver)).drawn 1

/-- Account for a gate wait that ends: a remote-ended one counts in `PACE_RWAIT`, and from 64 cycles on sends a blame
record to the lowest-numbered ender (R157); a wait that the fabric ended counts for `XWAIT` (R365). -/
def accountWait (s : State) (lc g : Nat) : State :=
  let c := s.core lc
  let s := if c.seq.recent.any (fun e => e.1 = g && e.2 = .fabric) then
      s.modCore lc (fun c => { c with seq := { c.seq with xwait := bump c.seq.xwait c.seq.gwaitLen } })
    else s
  let es := remoteEnders s lc g
  if c.seq.gwaitLen = 0 then s
  else
    match es.min? with
    | none => s
    | some k =>
      let s' := s.modCore lc (fun c => { c with seq := { c.seq with rwait := bump c.seq.rwait c.seq.gwaitLen } })
      if 64 ≤ c.seq.gwaitLen then
        { s' with blames := s'.blames ++ [{ src := lc, dst := k, n := c.seq.gwaitLen }] }
      else s'

/-- The condition of gate g holds in this cycle: its wait, if there was one, is accounted for and over. -/
def endWait (s : State) (lc g : Nat) : State := gateHolds (accountWait s lc g) lc

/-- A cycle in which issue is held for the regulator counts in `PACE_GWAIT` (Table 5.18). -/
def Core.wakeCycle (c : Core) : Core := { c with seq := { c.seq with gwait := bump c.seq.gwait 1 } }

/-- The issue of `GWAIT` and `GPEEK`: while the gate holds less than N the bundle waits; then its wait is over, issue is held for
the regulator, and `take` is subtracted (R141, R142, R156, R157). -/
def gateTake (i : Instr) (lc g n take : Nat) (s : State) : Out :=
  if (s.core lc).gate g < n then slotIssue i lc s true Core.gateFail s
  else if (s.core lc).dead || s.blocked lc then slotIssue i lc s false id s
  else
    let t := endWait s lc g
    slotIssue i lc t (t.ticks < (t.core lc).seq.wakeTill) Core.wakeCycle
      (t.modCore lc (fun c => (c.setGate g (c.gate g - take)).endBundle))

/-- `GWAIT`: issues once the gate holds at least N, and subtracts N (R142). -/
def execGwait (lc : Lc) (g : Fin 64) (n : BitVec 24) (s : State) : Out := gateTake (.gwait lc g n) lc g n.toNat n.toNat s

/-- `GPEEK`: issues once the gate holds at least N, and subtracts nothing (R142). -/
def execGpeek (lc : Lc) (g : Fin 64) (n : BitVec 24) (s : State) : Out := gateTake (.gpeek lc g n) lc g n.toNat 0 s

/-- `GINC`: adds N to the core's own gate at the end of the cycle (R142). -/
def execGinc (lc : Lc) (g : Fin 64) (n : BitVec 24) (s : State) : Out :=
  slotIssue (.ginc lc g n) lc s false id
    (incGate (s.modCore lc Core.endBundle) lc g n.toNat (.core lc))

/-! ## Sends (R143) -/

/-- The sister neighbours of a core: across a row link that skips at most one non-logical site, or on a vertical link
between two logical sites whose bundles work (R25, R26, R179, R460). Bits of claim kind 0x05: 0 west, 1 east, 2 below, 3 above. -/
def State.sister (s : State) (lc dir : Nat) : Option Nat :=
  match s.siteOf lc with
  | none => none
  | some i =>
    match dir with
    | 0 => if lc % 20 = 0 then none else
        match s.siteOf (lc - 1) with
        | some k => if i - k ≤ 2 then some (lc - 1) else none
        | none => none
    | 1 => if lc % 20 = 19 then none else
        match s.siteOf (lc + 1) with
        | some k => if k - i ≤ 2 then some (lc + 1) else none
        | none => none
    | 2 => if i < 220 || s.vertDead (i / 220 - 1) (i % 220) then none else
        if (s.site (i - 220)).state = 1 then some (lc / 20 * 20 - 200 + (s.site (i - 220)).lcol.toNat) else none
    | _ => if 660 ≤ i || s.vertDead (i / 220) (i % 220) then none else
        if (s.site (i + 220)).state = 1 then some (lc / 20 * 20 + 200 + (s.site (i + 220)).lcol.toNat) else none

/-- The job of `lc` claims the sister link to its neighbour `k` (R143, claim kind 0x05). -/
def State.sisterClaimed (s : State) (lc k : Nat) : Bool :=
  match s.jobOf lc with
  | none => false
  | some j => (List.range 4).any (fun d => s.sister lc d = some k &&
      j.claims.any (fun c => c.kind = 5 && (bit c.flags 0 || c.lc = lc) && bit c.unit d))

/-- May `lc` send to core `k`: a core of its job on this part, or itself (R143). -/
def State.mayTarget (s : State) (lc k : Nat) : Bool := k = lc || (s.jobOf lc).any (fun j => j.covers k)

/-- Put a send in flight. -/
def State.send (s : State) (lc k g n : Nat) : State :=
  { s with sends := s.sends ++ [{ src := lc, dst := k, gate := g, n := n, sister := s.sisterClaimed lc k, cmpl := false }] }

/-- A transfer's completion adds `n` to a gate: at once to its own core's, behind the increments on their way to another core
(R183, R233). -/
def completionInc (s : State) (lc k g n : Nat) : State :=
  if n = 0 then s
  else if k = lc then incGate s lc g n (.core lc)
  else { s with sends := s.sends ++ [{ src := lc, dst := k, gate := g, n := n, sister := false, cmpl := true }] }

/-- `GSEND`: to itself as a `GINC`; else over a claimed sister link or the mesh, with one of 32 credits (R143, R151);
`GATE_TARGET` outside the job. -/
def execGsend (lc : Lc) (target : Fin 1024) (g : Fin 64) (n : BitVec 24) (s : State) : Out :=
  let mine := s.sends.filter (fun x => x.src = lc.val && !x.cmpl)
  slotIssue (.gsend lc target g n) lc s (s.mayTarget lc target && target.val ≠ lc && 32 ≤ mine.length) id
    (if !s.mayTarget lc target then contractHazard s lc 2 (BitVec.ofNat 32 (target.val + g.val * 65536))
     else if target.val = lc then incGate (s.modCore lc Core.endBundle) lc g n.toNat (.core lc)
     else (s.send lc target g n.toNat).modCore lc Core.endBundle)

/-! ## Loops and segments (R144, R145) -/

/-- `GLOOP`: opens a loop whose body runs from the next bundle to the target offset of its frame (R144). -/
def execGloop (lc : Lc) (depth : Fin 4) (iters : Half) (target : BitVec 13) (s : State) : Out :=
  let c := s.core lc
  let last := c.seq.next / 1024 * 1024 + target.toNat % 1024
  let bad := depth.val ≠ c.seq.loops.length || (match c.seq.loops with | l :: _ => l.last < last | [] => false)
  gateChecked (.gloop lc depth iters target) lc s false (if bad then some 4 else none) 0
    (s.modCore lc (fun c => { c with seq := { c.seq with
      loops := { first := c.seq.next + 1, last := last, left := iters.toNat, taken := 0 } :: c.seq.loops } }))

/-- The tag of a frame (R145). -/
def Core.frame (c : Core) (f : Nat) : FrameTag := Tbl.get .empty c.seq.frames f

/-- Is a frame loading? -/
def FrameTag.isLoading : FrameTag → Bool
  | .loading _ => true
  | _ => false

/-- `GJUMP`: waits while the target frame loads; `LOOP_JUMP` with a loop open, `SEG_MISMATCH` where the frame does not hold
the segment; the target issues no earlier than 2 cycles later, so one cycle passes without issue (R145). -/
def execGjump (lc : Lc) (seg : Byte) (target : BitVec 13) (s : State) : Out :=
  let c := s.core lc
  let tag := c.frame (target.toNat / 1024)
  slotIssue (.gjump lc seg target) lc s tag.isLoading id
    (if c.seq.loops ≠ [] then contractHazard s lc 5 0
     else if tag ≠ .holds seg.toNat then contractHazard s lc 6 0
     else s.modCore lc (fun c =>
       let c := c.endBundle
       { c with seq := { c.seq with next := target.toNat, frame := target.toNat / 1024, pauseLeft := 1 } }))

/-- The segment record of a core. -/
def State.segRec (s : State) (lc seg : Nat) : Option SegRec :=
  (s.jobOf lc).bind (fun j => j.segs.find? (fun r => r.lc = lc && r.seg = seg))

/-- The load that a `GSEG` starts. -/
def segLoadOf (s : State) (lc seg frame : Nat) : SegLoad :=
  match s.segRec lc seg with
  | some r =>
    { frame := frame, seg := seg, ofs := r.ofs, bundles := r.bundles, data := s.bytesAt (mkDa 1 lc r.ofs) (64 * r.bundles)
      bundle := (s.core lc).seq.next }
  | none => { frame := frame, seg := seg, ofs := 0, bundles := 0, data := [], bundle := (s.core lc).seq.next }

/-- A frame that a `GSEG` may not name: the issuing bundle's, or one with an open loop body (R145). -/
def Core.frameSelf (c : Core) (f : Nat) : Bool := c.seq.next / 1024 = f || c.seq.loops.any (fun l => l.first / 1024 = f)

/-- A `GSEG` issues: its frame is loading, its Canopy store asks for full voltage, and its bundle ends (R145, R404). -/
def gsegAct (lc seg frame : Nat) (s : State) : State :=
  if (s.core lc).frameSelf frame then contractHazard s lc 7 0
  else
    let l := segLoadOf s lc seg frame
    ((storeWait s (mkDa 1 lc 0)).getD s).modCore lc (fun c => { c with seq := { c.seq with
      frames := Tbl.set .empty c.seq.frames frame (.loading seg)
      segLoads := c.seq.segLoads ++ [l] } }.endBundle)

/-- `GSEG`: at most two loads run; a loading frame waits; `SEG_SELF` (R145). It waits behind an earlier transfer that writes
the segment's bytes (R188). -/
def execGseg (lc : Lc) (seg : Byte) (frame : Fin 8) (s : State) : Out :=
  let c := s.core lc
  let l := segLoadOf s lc seg.toNat frame
  let self := c.frameSelf frame
  slotIssue (.gseg lc seg frame) lc s
    (!self && (2 ≤ c.seq.segLoads.length || (c.frame frame).isLoading
      || c.orderWait [(mkDa 1 lc l.ofs, 64 * l.bundles)] false)) id (gsegAct lc seg.toNat frame s)

/-- The bundles of a byte string. -/
def bundlesOf (bs : List Byte) : List (BitVec 512) := (wordsOf64 bs).map (BitVec.ofNat 512)
where
  /-- 64-byte pieces as little-endian numbers. -/
  wordsOf64 (bs : List Byte) : List Nat := (List.range (bs.length / 64)).map (fun i => leNat ((bs.drop (i * 64)).take 64))

/-- The last bundle of a segment is written and the frame takes its tag; bytes that a write not ordered with the load has changed
since its issue are old or new (R150, R189); poisoned bytes leave the frame untagged and fault the
job (R145, Table 7.5). The load does not complete while the Canopy store is not at full voltage (R404). -/
def execGsegLoadComplete (lc : Lc) (frame : Fin 8) (s : State) : Out :=
  match (s.core lc).seq.segLoads.find? (fun l => l.frame = frame.val) with
  | none => .next s
  | some l =>
    if !s.canopyFull lc then .next s else
    let f := memFetch (touchStore s (mkDa 1 lc 0)) 3 (some lc.val) (mkDa 1 lc l.ofs) (64 * l.bundles)
    let s' := (f.st.drawn 1).modCore lc (fun c => { c with seq := { c.seq with segLoads := c.seq.segLoads.filter (fun x => x ≠ l) } })
    if f.bad.any id then
      .next (poisonFault (s'.modCore lc (fun c => { c with seq := { c.seq with
        frames := Tbl.set .empty c.seq.frames frame .empty } })) lc l.bundle)
    else
      .next (s'.modCore lc (fun c => { c.cleared (bundleKey (frame.val * 1024)) 65536 with seq := { c.seq with
        frames := Tbl.set .empty c.seq.frames frame (.holds l.seg)
        store := Tbl.setMany 0 c.seq.store (frame.val * 1024) (bundlesOf (mixBytes s.draws (mkDa 1 lc l.ofs) l.data f.bytes)) } }))

/-! ## Phases, slack, end (R146 to R148) -/

/-- The lead of a phase hint in units of 0.25 µs at a clock code (R39, R412). -/
def hintLead (cycles code : Nat) : Nat := cycles * 4 / (400 + 25 * code)

/-- `GPHASE`: the hint replaces an earlier one of the core: activity in fifteenths, and cycles until it begins; it ends a
pre-boost, may send an intent frame, and is ignored during stage 2 (R146, R399, R411, R412). -/
def execGphase (lc : Lc) (imm : Half) (s : State) : Out :=
  let t := 16 * (imm.toNat / 16)
  let code := (s.clk (regionOf (clusterOf lc))).now
  gateIssue (.gphase lc imm) lc s false id
    (if (s.core lc).seq.stage2 then s
     else sendIntents (s.modCore lc (fun c => { c with seq := { c.seq with phase := some (imm.toNat % 16, t), preboost := 0 } }))
       [lc.val] (hintLead t code) 0)

/-- `GPAUSE`: issue is held for N cycles after this bundle (R147). -/
def execGpause (lc : Lc) (n : BitVec 24) (s : State) : Out :=
  slotIssue (.gpause lc n) lc s false id
    (s.modCore lc (fun c => { c.endBundle with seq := { c.endBundle.seq with pauseLeft := n.toNat } }))

/-- What `GEND` waits for: transfers, sends and segment loads of the core (R148). -/
def State.endWaits (s : State) (lc : Nat) : Bool :=
  !(s.core lc).transfers.isEmpty || s.sends.any (fun x => x.src = lc && !x.cmpl) || !(s.core lc).seq.segLoads.isEmpty

/-- `GEND`: closes open loops and ends the program with its cycle, which counts (R148, R159). -/
def Core.endProgram (c : Core) : Core :=
  { c.passCycle with seq := { c.passCycle.seq with
      loops := [], ended := true, running := false, issue := bump c.seq.issue 1, gwaitLen := 0, recent := [] } }

/-- A `GEND` issues. DEDUCED: `NEXT` stays at its bundle (log 9). -/
def gendAct (lc : Nat) (s : State) : State := jobEndAt (s.modCore lc Core.endProgram) lc

/-- `GEND` (R148). -/
def execGend (lc : Lc) (s : State) : Out := slotIssue (.gend lc) lc s (s.endWaits lc) id (gendAct lc s)

/-- The level, n and the rise after `n` non-active cycles outside a pause: a rise goes up one level every six cycles, and from level
8 on, n counts and the level falls by Table 3.5 (R95). -/
def ArrayState.pass (a : ArrayState) (linger n : Nat) : ArrayState :=
  if n = 0 then a
  else if a.rising && a.level + (a.riseCyc + n) / 6 < 8 then
    { a with level := a.level + (a.riseCyc + n) / 6, riseCyc := (a.riseCyc + n) % 6, quiet := 0, fresh := false }
  else
    let q := if a.rising then a.riseCyc + n - 6 * (8 - a.level) else if a.fresh then n - 1 else a.quiet + n
    { a with
      level := min (if a.rising then 8 else a.level) (levelAfter q linger), rising := false, riseCyc := 0, quiet := q, fresh := false }

/-- `n` non-active cycles of planned slack: they count in `PACE_CYC` only (R147). -/
def Core.slack (c : Core) (n : Nat) : Core :=
  let now := c.seq.cycle + n
  { c with
    arr := { c.arr.pass c.linger n with
      port := c.arr.port.filter (fun p => now < p.till)
      load := c.arr.load.filter (fun l => now < l.till) }
    seq := { c.seq with pauseLeft := 0, cycle := now, cyc := if c.dead then c.seq.cyc else bump c.seq.cyc n } }

/-- The count of a `GPAUSE` expires: what is left of it has passed, and issue resumes (R147). -/
def execGpauseEnd (lc : Lc) (s : State) : Out :=
  .next (s.modCore lc (fun c => c.slack c.seq.pauseLeft))

/-- The next bundle of a core has failed its gate condition for the limit of its job, cycles of pauses left out (R153). -/
def State.stalled (s : State) (lc : Nat) : Bool :=
  let q := (s.core lc).seq
  0 < q.gwaitLen && !q.paused && !(s.core lc).dead && (s.jobOf lc).any (fun j => 1600000 * j.waitMs ≤ q.waitTicks)

/-- The gate-wait limit: `GATE_STALL` once it is reached, unless the core is paused, or not failing a gate condition (R153). -/
def execGateStall (lc : Lc) (s : State) : Out :=
  let c := s.core lc
  if s.stalled lc then
    .next (faultCore { s with held := s.held.filter (fun i => slotCore i ≠ some lc.val) } lc 3 3 c.seq.next 0)
  else .next s

end Sys2Proof.Machine
end

