-- ==== Sys2Proof/Machine/Feeder.lean ====
section
/-! DEFINITION. The FEED slots ("Feeders, tile queue and vector engine", R104 to R113). -/

namespace Sys2Proof.Machine

/-- A FEED slot with no operation (R104). -/
def execFnop (lc : Lc) (f : Feed) (s : State) : Out := slotIssue (.fnop lc f) lc s false id s

/-- A feeder that already holds two instructions (R112). -/
def Core.feedFull (c : Core) (f : Feed) : Bool := 2 ≤ (c.feeder f).instrs.length

/-- A cycle waited by R112, R116 or R128 counts in `FV_WAIT` (R130). -/
def Core.fvWait (c : Core) : Core := { c with fv := { c.fv with wait := bump c.fv.wait 1 } }

/-- Give a feeder an instruction; its first block may be read from the next cycle on (R112, Table 4.4). -/
def Core.feedPush (c : Core) (f : Feed) (op : FeedOp) : Core :=
  let i : FeedInstr := {
    op := op, seq := c.mov.seq, bundle := c.seq.next, start := c.seq.cycle + 1, q := 0, glist := [], cur := none, gone := none }
  let c := c.setFeeder f { c.feeder f with instrs := (c.feeder f).instrs ++ [i] }
  { c with mov := { c.mov with seq := c.mov.seq + 1 } }

/-- The issue of an operation that builds blocks: it waits while the feeder holds two instructions (R112). -/
def feedIssue (i : Instr) (lc : Nat) (f : Feed) (op : FeedOp) (s : State) : Out :=
  slotIssue i lc s ((s.core lc).feedFull f) Core.fvWait (s.modCore lc (fun c => c.feedPush f op))

/-- `FBLK`: the feeder builds `REP` + 1 blocks from the store (R106, R112). -/
def execFblk (lc : Lc) (f : Feed) (a : FBlkSlot) (s : State) : Out := feedIssue (.fblk lc f a) lc f (.blk a) s

/-- `FGATH`: the feeder builds `REP` + 1 blocks of gathered rows (R110, R112). -/
def execFgath (lc : Lc) (f : Feed) (a : FGathSlot) (s : State) : Out := feedIssue (.fgath lc f a) lc f (.gath a) s

/-- Is a command a `MAC` or `MACZ` of the core? -/
def isMac (lc : Nat) : Instr → Bool
  | .mac c .. => c.val = lc
  | .macz c .. => c.val = lc
  | _ => false

/-- A feeder emptied: blocks and instructions (R113). -/
def Core.flushFeed (c : Core) (f : Feed) : Core := c.setFeeder f { held := [], instrs := [] }

/-- `FFLUSH`: the feeder discards what it holds; while the ARRAY slot of the same bundle waits for this feeder's block, the
hazard `FEED_NO_INSTR` faults at once (R113, R129). -/
def execFflush (lc : Lc) (f : Feed) (s : State) : Out :=
  let c := s.core lc
  if s.held.any (isMac lc) && c.head f = none && !c.dead then
    .next (fvHazard { s with held := s.held.filter (fun i => slotCore i ≠ some lc.val) } lc 3 (f = .b) 0 0 c.seq.next)
  else
    slotIssue (.fflush lc f) lc s false id (s.modCore lc (fun c => c.flushFeed f))

/-! ## The pipeline (R100 to R102, R111, R112, R538, Table 4.4) -/

/-- The banks that `n` bytes at an offset lie in (R100). -/
def banksOf (ofs n : Nat) : List Nat :=
  if n = 0 then [] else (List.range ((ofs + n - 1) / 128 - ofs / 128 + 1)).map (fun i => (ofs / 128 + i) % 48)

/-- Some bank is in both lists. -/
def meetBanks (a b : List Nat) : Bool := a.any (fun x => b.contains x)

/-- The banks of a request. -/
def FeedReq.banks (r : FeedReq) : List Nat := banksOf r.ofs r.len

/-- A request goes to the first read cycle in which its banks are free: each further row in one bank adds a read cycle
(R111). -/
def placeReq (r : FeedReq) : List (List FeedReq) → List (List FeedReq)
  | [] => [[r]]
  | p :: ps => if p.any (fun x => meetBanks x.banks r.banks) then p :: placeReq r ps else (p ++ [r]) :: ps

/-- The read cycles that requests of one read cycle take. -/
def readCycles (rs : List FeedReq) : List (List FeedReq) := if rs = [] then [[]] else rs.foldl (fun ps r => placeReq r ps) []

/-- The two requests for the rotary descriptor of a block (R538). -/
def descReqs (rdesc : BitVec 15) (q : Nat) : List FeedReq :=
  let d := (rdesc.toNat + 4 * q) * 64
  [{ place := some (true, 0), ofs := d, len := 128, late := false }, { place := some (true, 128), ofs := d + 128, len := 128, late := false }]

/-- The requests for rows 8t to 8t + 7 of a gathered block (R111). -/
def rowReqs (rows : List (Option Int)) (t : Nat) : List FeedReq :=
  (List.range 8).filterMap (fun j => (rows.getD (8 * t + j) none).map (fun r =>
    { place := some (false, 64 * (8 * t + j)), ofs := r.toNat * 64, len := 64, late := false }))

/-- The read cycles of data or row requests `rs` with list and descriptor requests `xs` beside them; what comes after the cycles
that `rs` take alone has waited for a bank (R538). -/
def besideCycles (xs rs : List FeedReq) : List (List FeedReq) :=
  let n := (readCycles rs).length
  let ps := readCycles (xs ++ rs)
  ps.take n ++ (ps.drop n).map (fun p => p.map (fun r => { r with late := true }))

/-- The read cycles of block q: one for an `FBLK`, four for an `FGATH`, more where requests meet in a bank; a gather list is
read beside the first rows of block 0, a rotary descriptor in the first read cycle (R106, R111, R538). -/
def blockReqs (op : FeedOp) (glist : List Byte) (q : Nat) : List (List FeedReq) :=
  match op with
  | .blk a =>
    besideCycles (if a.rope then descReqs a.rdesc q else [])
      [{ place := some (false, 0), ofs := fblkAddr a q, len := blockBytes a.sfmt, late := false }]
  | .gath a =>
    let rows := gatherRows glist a.stride q
    let list : List FeedReq := if q = 0 then [{ place := none, ofs := a.glist.toNat * 64, len := 64, late := false }] else []
    besideCycles (list ++ (if a.rope then descReqs a.rdesc q else [])) (rowReqs rows 0)
      ++ (List.range 3).flatMap (fun t => readCycles (rowReqs rows (t + 1)))

/-- Number of blocks. -/
def FeedOp.count : FeedOp → Nat
  | .blk a => a.rep.toNat + 1
  | .gath a => a.rep.toNat + 1

/-- Bytes of a stored block. -/
def FeedOp.size : FeedOp → Nat
  | .blk a => blockBytes a.sfmt
  | .gath _ => 2048

/-- The block that the stored bytes make, and the flags of its decoding (R106). -/
def FeedOp.build (op : FeedOp) (f : Feed) (raw desc : List Byte) : Block × Flags :=
  match op with
  | .blk a => finishBlock f a.mode a.tr a.rope desc (decodeBlock a.sfmt raw)
  | .gath a => finishBlock f false a.tr a.rope desc (decodeBlock .bin16 raw)

/-- Every row address of block q is in range (R111). -/
def FeedOp.rowsOk (op : FeedOp) (glist : List Byte) (q : Nat) : Bool :=
  match op with
  | .blk _ => true
  | .gath a => (gatherRows glist a.stride q).all (fun r => match r with | some i => rowOk i | none => true)

/-- Offset in the feeder store of a `VLD` or `VST`. -/
def storeOfs (a : VSlot) : Nat := a.imm.toNat % 32768 * 64

/-- Bytes that a `VLD` or `VST` moves. -/
def storeLen (a : VSlot) : Nat := 4 * (a.cnt.toNat + 1)

/-- An access issued before order number `seq` still has to write some of these bytes (R102). -/
def Core.awaits (c : Core) (lc seq : Nat) (rs : List (Nat × Nat)) : Bool :=
  c.transfers.any (fun x => x.seq < seq && overlaps x.writes rs)
    || c.fv.stores.any (fun w => w.seq < seq && overlaps [(mkDa 0 lc w.ofs, w.bytes.length)] rs)
    || c.fv.acc.any (fun a => !a.load && a.seq < seq && overlaps [(mkDa 0 lc (storeOfs a.slot), storeLen a.slot)] rs)

/-- The list of a gather has not been read, and an access issued before it still has to write some of its bytes (R102). -/
def FeedInstr.listAwaits (i : FeedInstr) (c : Core) (lc : Nat) : Bool :=
  match i.op with
  | .gath a => i.glist = [] && c.awaits lc i.seq [(mkDa 0 lc (a.glist.toNat * 64), 64)]
  | .blk _ => false

/-- The ranges that a FEED instruction has still to read (R102); those of a gather whose list an earlier write has still to reach
are not known, and any row of the store may be one of them (log 93). -/
def FeedInstr.unread (s : State) (lc : Nat) (i : FeedInstr) : List (Nat × Nat) :=
  if i.listAwaits (s.core lc) lc then [(mkDa 0 lc 0, spaceSize 0)] else
  let g := match i.op with
    | .gath a => if i.glist = [] then s.bytesAt (mkDa 0 lc (a.glist.toNat * 64)) 64 else i.glist
    | .blk _ => []
  let now := match i.cur with
    | some r => r.left.flatten
    | none => []
  let later := (List.range i.op.count).drop (i.q + i.cur.toList.length)
  (now ++ later.flatMap (fun q => (blockReqs i.op g q).flatten)).map (fun r => (mkDa 0 lc r.ofs, r.len))

/-- A feeder instruction or a `VLD` issued before order number `seq` still has to read some of these bytes (R102). -/
def unreadBefore (s : State) (lc seq : Nat) (rs : List (Nat × Nat)) : Bool :=
  let c := s.core lc
  (c.fv.fa.instrs ++ c.fv.fb.instrs).any (fun i => i.seq < seq && overlaps (i.unread s lc) rs)
    || c.fv.acc.any (fun a => a.load && a.seq < seq
        && overlaps [(mkDa 0 lc (storeOfs a.slot + 1024 * a.beat), storeLen a.slot - 1024 * a.beat)] rs)

/-- An access of the core to its feeder store that was issued earlier still has to read the transfer's destination, or to
write bytes the transfer uses (R102). -/
def Xfer.storeHeld (x : Xfer) (s : State) (lc : Nat) : Bool :=
  unreadBefore s lc x.seq x.writes
    || (s.core lc).fv.stores.any (fun w => w.seq < x.seq && overlaps [(mkDa 0 lc w.ofs, w.bytes.length)] (x.reads ++ x.writes))
    || (s.core lc).fv.acc.any (fun a => !a.load && a.seq < x.seq
        && overlaps [(mkDa 0 lc (storeOfs a.slot), storeLen a.slot)] (x.reads ++ x.writes))

/-- The feeder store of a core in one cycle: the banks granted and whether a requester waited (R101, R130). -/
structure StoreCycle where
  /-- the part -/
  st : State
  /-- banks granted -/
  banks : List Nat
  /-- a requester waited -/
  conf : Bool

/-- A feeder's instruction replaced. -/
def Core.setInstr (c : Core) (f : Feed) (i : FeedInstr) : Core :=
  c.setFeeder f { c.feeder f with instrs := (c.feeder f).instrs.map (fun j => if j.seq = i.seq then i else j) }

/-- Bytes put into a byte string. -/
def patch (l : List Byte) (pos : Nat) (bs : List Byte) : List Byte := l.take pos ++ bs ++ l.drop (pos + bs.length)

/-- Read the requests of one read cycle into a block. -/
def readReqs (s : State) (lc bundle : Nat) (r : BlockRead) (rs : List FeedReq) : State × BlockRead :=
  rs.foldl (fun acc q =>
    match q.place with
    | none => acc
    | some (d, pos) =>
      let x := storeRead acc.1 1 lc bundle q.ofs q.len
      (x.st, if d then { acc.2 with desc := patch acc.2.desc pos x.bytes } else { acc.2 with raw := patch acc.2.raw pos x.bytes })) (s, r)

/-- A block that has been read is decoded two cycles later and can be taken six cycles later (Table 4.4). -/
def Core.stageBlock (c : Core) (f : Feed) (i : FeedInstr) (r : BlockRead) : Core :=
  let y := c.seq.cycle
  let b := i.op.build f r.raw r.desc
  let c := c.setFeeder f { c.feeder f with
    held := (c.feeder f).held ++ [{ block := b.1, ready := y + 6, flags := b.2, decodeAt := y + 2 }] }
  c.setInstr f { i with q := i.q + 1, start := y + 1, cur := none, gone := if i.op.count ≤ i.q + 1 then some (y + 5) else none }

/-- The next read cycle of a block: its requests are all granted, or it waits (R101, R102). -/
def serveRead (x : StoreCycle) (lc : Nat) (f : Feed) (i : FeedInstr) (r : BlockRead) : StoreCycle :=
  match r.left with
  | [] => x
  | p :: ps =>
    let keep (s : State) (r : BlockRead) : State := s.modCore lc (fun c => c.setInstr f { i with cur := some r })
    if p.any (fun q => meetBanks q.banks x.banks) || (x.st.core lc).awaits lc i.seq (p.map (fun q => (mkDa 0 lc q.ofs, q.len))) then
      { x with st := keep x.st r, conf := true }
    else
      let y := readReqs x.st lc i.bundle { r with left := ps } p
      let s := if ps = [] then y.1.modCore lc (fun c => c.stageBlock f i y.2) else keep y.1 y.2
      { x with st := s, banks := x.banks ++ p.flatMap FeedReq.banks, conf := x.conf || p.any (·.late) }

/-- A feeder starts a block; a row address out of range ends the gather and faults the job (R111, R129). -/
def startBlock (x : StoreCycle) (lc : Nat) (f : Feed) (i : FeedInstr) : StoreCycle :=
  if !i.op.rowsOk i.glist i.q then
    let s := x.st.modCore lc (fun c => c.setFeeder f { c.feeder f with instrs := (c.feeder f).instrs.filter (fun j => j.seq ≠ i.seq) })
    { x with st := fvHazard s lc 1 (f = .b) 0 i.q i.bundle }
  else
    serveRead x lc f i { left := blockReqs i.op i.glist i.q, raw := List.replicate i.op.size 0, desc := List.replicate 256 0 }

/-- A feeder that is about to start the first block of a gather reads the list (R538). -/
def startList (x : StoreCycle) (lc : Nat) (f : Feed) (i : FeedInstr) : StoreCycle :=
  match i.op with
  | .blk _ => startBlock x lc f i
  | .gath a =>
    if i.glist ≠ [] then startBlock x lc f i
    else if (x.st.core lc).awaits lc i.seq [(mkDa 0 lc (a.glist.toNat * 64), 64)] then { x with conf := true }
    else
      let g := storeRead x.st 1 lc i.bundle (a.glist.toNat * 64) 64
      let i := { i with glist := g.bytes }
      startBlock { x with st := g.st.modCore lc (fun c => c.setInstr f i) } lc f i

/-- A cycle of a feeder: an instruction whose last block has entered the output stage leaves; the block being read goes on,
or the next starts while fewer than 8 are held (R112). -/
def feedCycle (x : StoreCycle) (lc : Nat) (f : Feed) : StoreCycle :=
  let y := (x.st.core lc).seq.cycle
  let fd := (x.st.core lc).feeder f
  let left := fd.instrs.filter (fun i => !i.gone.any (fun g => g < y))
  let x := { x with st := x.st.modCore lc (fun c => c.setFeeder f { c.feeder f with instrs := left }) }
  match left.find? (fun i => i.gone = none) with
  | none => x
  | some i =>
    match i.cur with
    | some r => serveRead x lc f i r
    | none => if y < i.start || 8 ≤ fd.held.length then x else startList x lc f i

/-- Blocks whose decode cycle has come raise their flags (R55, R71). -/
def Core.decodeFlags (c : Core) (f : Feed) : Core :=
  let due := (c.feeder f).held.filter (fun b => b.decodeAt ≤ c.seq.cycle && b.flags ≠ 0)
  if due = [] then c
  else
    (c.setFeeder f { c.feeder f with held := (c.feeder f).held.map (fun b =>
      if b.decodeAt ≤ c.seq.cycle then { b with flags := 0 } else b) }).raise (orFlags (due.map (·.flags)))

end Sys2Proof.Machine
end

