-- ==== Sys2Proof/Machine/Vector.lean ====
section
/-! DEFINITION. The VECTOR slot ("Feeders, tile queue and vector engine", R118 to R129; dropout words R313, R314). -/

namespace Sys2Proof.Machine

/-- The element count n. -/
def vcount (a : VSlot) : Nat := a.cnt.toNat + 1

/-- A VECTOR slot with no operation (R120). -/
def execVnop (lc : Lc) (s : State) : Out := slotIssue (.vnop lc) lc s false id s

/-- A VECTOR instruction must wait: the engine is occupied, or the slot it reads is FILLING or DRAINING (R116, R128). -/
def Core.vecWait (c : Core) (a : VSlot) : Bool :=
  c.seq.cycle < c.fv.vfree || c.fv.acc.isSome || (a.asrc = .slot &&
    (Tbl.get .free c.fv.slots (a.va.val % 8) = .filling || Tbl.get .free c.fv.slots (a.va.val % 8) = .draining))

/-- A VECTOR instruction reads a slot that is FREE (Table 4.11). -/
def Core.slotIdle (c : Core) (a : VSlot) : Bool := a.asrc = .slot && Tbl.get .free c.fv.slots (a.va.val % 8) = .free

/-- The engine is occupied for k beats; a releasing read drains its slot (R116, R128, R130). -/
def Core.occupy (c : Core) (a : VSlot) (k : Nat) : Core :=
  let c := { c with fv := { c.fv with vfree := c.seq.cycle + k, beatsLeft := c.fv.beatsLeft + k } }
  if a.rel && a.asrc = .slot then
    { c with fv := { c.fv with
        slots := Tbl.set .free c.fv.slots (a.va.val % 8) .draining
        slotDue := Tbl.set 0 c.fv.slotDue (a.va.val % 8) (c.seq.cycle + k + 1) } }
  else c

/-- The bytes of operands a, b and c (Table 4.8). -/
def bytesA (a : VSlot) : Nat × Nat := operandBytes a.asrc a.va (vcount a)
/-- The bytes of operand b. -/
def bytesB (a : VSlot) : Nat × Nat := operandBytes a.bsrc a.vb (vcount a)
/-- The bytes of operand c. -/
def bytesC (a : VSlot) : Nat × Nat := operandBytes .reg a.vc (vcount a)

/-- The issue of a VECTOR instruction: waits, the hazard `VEC_SLOT_IDLE`, then its effect on the core, which reads the bytes `rs` of the
stores inside it (R120, R128, R129, R194). -/
def vecIssue (i : Instr) (lc : Nat) (a : VSlot) (k : Nat) (rs : List (Nat × Nat)) (act : Nat → Core → Core) (s : State) : Out :=
  let c := s.core lc
  slotIssue i lc s (c.vecWait a) Core.fvWait
    (if c.slotIdle a then fvHazard s lc 2 false (a.va.val % 8) 0 c.seq.next
     else
      let s := coreRead s 2 lc c.seq.next rs
      (s.modCore lc (fun c => (act s.draws c).occupy a k)).drawn 65536)

/-- Operand a, b or c of an instruction that reads `per` elements a beat (Table 4.8). -/
def opA (a : VSlot) (c : Core) (d per : Nat) : List Word := vecOperand c d 0 a.asrc a.va a.imm per (vcount a)
/-- Operand b. -/
def opB (a : VSlot) (c : Core) (d per : Nat) : List Word := vecOperand c d 4096 a.bsrc a.vb a.imm per (vcount a)
/-- Operand c, always a register. -/
def opC (a : VSlot) (c : Core) (d per : Nat) : List Word := vecOperand c d 8192 .reg a.vc a.imm per (vcount a)

/-- Write results at `VD` and raise their flags; readable `lat` cycles after the last beat (R120, Table 4.10). -/
def Core.vecResult (c : Core) (d : Nat) (a : VSlot) (k lat : Nat) (rs : List (Word × Flags)) : Core :=
  (c.writeVec d a.vd (rs.map (·.1)) k (c.seq.cycle + lat + k)).raise (resultFlags rs)

/-- Element-wise operations of one operand, 512 a beat. -/
def vecMap1 (i : Instr) (lc : Nat) (a : VSlot) (f : Word → Word × Flags) (s : State) : Out :=
  let k := cdiv (vcount a) 512
  vecIssue i lc a k [bytesA a] (fun d c => c.vecResult d a k 3 ((opA a c d 512).map f)) s

/-- Element-wise operations of two operands, 512 a beat. -/
def vecMap2 (i : Instr) (lc : Nat) (a : VSlot) (f : Word → Word → Word × Flags) (s : State) : Out :=
  let k := cdiv (vcount a) 512
  vecIssue i lc a k [bytesA a, bytesB a] (fun d c => c.vecResult d a k 3 (List.zipWith f (opA a c d 512) (opB a c d 512))) s

/-- Element-wise operations of three operands, 512 a beat. -/
def vecMap3 (i : Instr) (lc : Nat) (a : VSlot) (f : Word → Word → Word → Word × Flags) (s : State) : Out :=
  let k := cdiv (vcount a) 512
  vecIssue i lc a k [bytesA a, bytesB a, bytesC a] (fun d c => c.vecResult d a k 3
    (List.zipWith (fun x (yz : Word × Word) => f x yz.1 yz.2) (opA a c d 512) ((opB a c d 512).zip (opC a c d 512)))) s

/-- `VADD` (Table 4.9). -/
def execVadd (lc : Lc) (a : VSlot) (s : State) : Out := vecMap2 (.vadd lc a) lc a add32 s
/-- `VSUB`. -/
def execVsub (lc : Lc) (a : VSlot) (s : State) : Out := vecMap2 (.vsub lc a) lc a sub32 s
/-- `VMUL`. -/
def execVmul (lc : Lc) (a : VSlot) (s : State) : Out := vecMap2 (.vmul lc a) lc a mul32 s
/-- `VFMA`. -/
def execVfma (lc : Lc) (a : VSlot) (s : State) : Out := vecMap3 (.vfma lc a) lc a fma32 s
/-- `VMIN`. -/
def execVmin (lc : Lc) (a : VSlot) (s : State) : Out := vecMap2 (.vmin lc a) lc a min32 s
/-- `VMAX`. -/
def execVmax (lc : Lc) (a : VSlot) (s : State) : Out := vecMap2 (.vmax lc a) lc a max32 s
/-- `VCLT`. -/
def execVclt (lc : Lc) (a : VSlot) (s : State) : Out := vecMap2 (.vclt lc a) lc a clt32 s
/-- `VCEQ`. -/
def execVceq (lc : Lc) (a : VSlot) (s : State) : Out := vecMap2 (.vceq lc a) lc a ceq32 s
/-- `VSEL`. -/
def execVsel (lc : Lc) (a : VSlot) (s : State) : Out := vecMap3 (.vsel lc a) lc a sel32 s
/-- `VMOV`. -/
def execVmov (lc : Lc) (a : VSlot) (s : State) : Out := vecMap1 (.vmov lc a) lc a mov32 s

/-! ## Conversions (R121) -/

/-- The draw of element e of a stochastic conversion that starts at `SR_CTR` (R67). -/
def srDraw (c : Core) (e : Nat) : Nat :=
  let ctr := c.num.ctr + BitVec.ofNat 64 (e / 8)
  philoxDraw (philox (ctr.setWidth 32) ((ctr >>> 32).setWidth 32) c.num.salt 1 c.num.keyLo c.num.keyHi) (e % 8)

/-- The converted values of a `VCVT` with their flags (R63 to R67). -/
def cvtResults (c : Core) (a : VSlot) (xs : List Word) : List (Nat × Flags) :=
  xs.zipIdx.map (fun e => convert a.fmt a.sat (if a.rnd then some (srDraw c e.2) else none) e.1)

/-- The effect of a `VCVT`: packed results, flags, and `SR_CTR` advanced by ceil(n / 8) calls (R67, R121). -/
def cvtAct (a : VSlot) (d : Nat) (c : Core) : Core :=
  let k := cdiv (vcount a) 512
  let rs := cvtResults c a (opA a c d 512)
  let ws := packWords (packBits a.fmt) (rs.map (·.1)) (fun i => Tbl.get 0 c.fv.vregs (a.vd.val * 512 + i))
  let c := (c.writeVec d a.vd ws k (c.seq.cycle + 4 + k)).raise (orFlags (rs.map (·.2)))
  if a.rnd then { c with num := { c.num with ctr := bump c.num.ctr (cdiv (vcount a) 8) } } else c

/-- `VCVT` (R121). -/
def execVcvt (lc : Lc) (a : VSlot) (s : State) : Out := vecIssue (.vcvt lc a) lc a (cdiv (vcount a) 512) [bytesA a] (cvtAct a) s

/-- `VEXT`: packed values of register `VA` to binary32, exactly (R121). -/
def execVext (lc : Lc) (a : VSlot) (s : State) : Out :=
  let k := cdiv (vcount a) 512
  vecIssue (.vext lc a) lc a k [(vregKey a.va, cdiv (vcount a * packBits a.fmt) 8)] (fun d c => c.vecResult d a k 4
    ((List.range (vcount a)).map (fun e => extend32 a.fmt (unpackAt c d a.va (packBits a.fmt) e)))) s

/-! ## Special functions (R70) -/

/-- Special functions: 64 elements a beat. -/
def vecSpecial (i : Instr) (lc : Nat) (a : VSlot) (f : Word → Word × Flags) (s : State) : Out :=
  let k := cdiv (vcount a) 64
  vecIssue i lc a k [bytesA a] (fun d c => c.vecResult d a k 8 ((opA a c d 64).map f)) s

/-- `VEXP2`. -/
def execVexp2 (lc : Lc) (a : VSlot) (s : State) : Out := vecSpecial (.vexp2 lc a) lc a exp2fn s
/-- `VLOG2`. -/
def execVlog2 (lc : Lc) (a : VSlot) (s : State) : Out := vecSpecial (.vlog2 lc a) lc a log2fn s
/-- `VRCP`. -/
def execVrcp (lc : Lc) (a : VSlot) (s : State) : Out := vecSpecial (.vrcp lc a) lc a rcpfn s
/-- `VRSQRT`. -/
def execVrsqrt (lc : Lc) (a : VSlot) (s : State) : Out := vecSpecial (.vrsqrt lc a) lc a rsqrtfn s
/-- `VTANH`. -/
def execVtanh (lc : Lc) (a : VSlot) (s : State) : Out := vecSpecial (.vtanh lc a) lc a tanhfn s
/-- `VSIGM`. -/
def execVsigm (lc : Lc) (a : VSlot) (s : State) : Out := vecSpecial (.vsigm lc a) lc a sigmoidfn s

/-! ## Reductions (R122) -/

/-- Row i of an operand of rows of 32. -/
def rowOf (xs : List Word) (i : Nat) : List Word := (xs.drop (32 * i)).take 32

/-- Column j of an operand of rows of 32, in row order. -/
def colOf (xs : List Word) (j : Nat) : List Word := (List.range (xs.length / 32)).map (fun i => xs.getD (32 * i + j) 0)

/-- Reductions: the groups of the operand, each by the pairwise tree. A lone NaN element is a vector input too (R71). -/
def vecReduce (i : Instr) (lc : Nat) (a : VSlot) (lat : Nat) (groups : List Word → List (List Word))
    (f : Word → Word → Word × Flags) (s : State) : Out :=
  let k := cdiv (vcount a) 512
  vecIssue i lc a k [bytesA a] (fun d c =>
    let xs := opA a c d 512
    (c.vecResult d a k lat ((groups xs).map (tree32 f))).raise
      (if xs.any (fun x => (fp32 x).isNan) then flNanIn else 0)) s

/-- The rows of an operand. -/
def rowsOf (xs : List Word) : List (List Word) := (List.range (xs.length / 32)).map (rowOf xs)
/-- The 32 columns of an operand. -/
def colsOf (xs : List Word) : List (List Word) := (List.range 32).map (colOf xs)

/-- `VRSUMR`. -/
def execVrsumr (lc : Lc) (a : VSlot) (s : State) : Out := vecReduce (.vrsumr lc a) lc a 9 rowsOf add32 s
/-- `VRMAXR`. -/
def execVrmaxr (lc : Lc) (a : VSlot) (s : State) : Out := vecReduce (.vrmaxr lc a) lc a 9 rowsOf max32 s
/-- `VRSUMC`. -/
def execVrsumc (lc : Lc) (a : VSlot) (s : State) : Out := vecReduce (.vrsumc lc a) lc a 9 colsOf add32 s
/-- `VRMAXC`. -/
def execVrmaxc (lc : Lc) (a : VSlot) (s : State) : Out := vecReduce (.vrmaxc lc a) lc a 9 colsOf max32 s
/-- `VRSUM`. -/
def execVrsum (lc : Lc) (a : VSlot) (s : State) : Out := vecReduce (.vrsum lc a) lc a 16 (fun xs => [xs]) add32 s
/-- `VRMAX`. -/
def execVrmax (lc : Lc) (a : VSlot) (s : State) : Out := vecReduce (.vrmax lc a) lc a 16 (fun xs => [xs]) max32 s

/-! ## Softmax, masks and dropout (R123 to R126) -/

/-- New maximum and correction factor of one row (R123). -/
def smRow (row : List Word) (m : Word) : (Word × Word) × Flags :=
  let mx := tree32 max32 row
  let nan := row.any (fun x => (fp32 x).isNan) || (fp32 m).isNan
  if nan then ((nan32, nan32), flNanIn)
  else
    let m' := (max32 m mx.1).1
    if m' = m then ((m', one32), 0)
    else
      let d := sub32 m m'
      let e := exp2fn d.1
      ((m', e.1), d.2 ||| e.2)

/-- The effect of `VSMSTAT`: maxima at `VD`, factors at `VD` + 1 (R123). -/
def smstatAct (a : VSlot) (d : Nat) (c : Core) : Core :=
  let k := cdiv (vcount a) 512 + 1
  let xs := opA a c d 512
  let rs := (rowsOf xs).zipIdx.map (fun r => smRow r.1 (vregElem c d 4096 a.vb r.2 0))
  let at' := c.seq.cycle + 9 + k
  let c := c.writeVec d a.vd (rs.map (fun r => r.1.1)) k at'
  (c.writeVec d (a.vd.val + 1) (rs.map (fun r => r.1.2)) k at').raise (orFlags (rs.map (·.2)))

/-- `VSMSTAT` (R123). -/
def execVsmstat (lc : Lc) (a : VSlot) (s : State) : Out := vecIssue (.vsmstat lc a) lc a (cdiv (vcount a) 512 + 1) [bytesA a, operandBytes .row a.vb (vcount a)] (smstatAct a) s

/-- One probability: exp2(s − m′), +0 where s is −infinity; a NaN m′ is a vector input there too (R124, Table 2.9). -/
def smProb (x m : Word) : Word × Flags :=
  if x = negInf32 then (0, if (fp32 m).isNan then flNanIn else 0)
  else
    let d := sub32 x m
    let e := exp2fn d.1
    (e.1, d.2 ||| e.2)

/-- The effect of `VSMEXP`: probabilities at `VD`, row sums in the register after them (R124). -/
def smexpAct (a : VSlot) (d : Nat) (c : Core) : Core :=
  let k := cdiv (vcount a) 64
  let ms := vecOperand c d 4096 .row a.vb a.imm 64 (vcount a)
  let ps := List.zipWith smProb (opA a c d 64) ms
  let sums := (rowsOf (ps.map (·.1))).map (tree32 add32)
  let c := c.vecResult d a k 8 ps
  (c.writeVec d (a.vd.val + cdiv (vcount a) 512) (sums.map (·.1)) k (c.seq.cycle + 12 + k)).raise (resultFlags sums)

/-- `VSMEXP` (R124). -/
def execVsmexp (lc : Lc) (a : VSlot) (s : State) : Out := vecIssue (.vsmexp lc a) lc a (cdiv (vcount a) 64) [bytesA a, operandBytes .row a.vb (vcount a)] (smexpAct a) s

/-- Element e is masked, by the parameter words w0 to w4 (R125). -/
def maskHit (w0 w1 w2 w3 w4 : Word) (e : Nat) : Bool :=
  let tr := bit w3.toNat 1
  let q := (w0 + BitVec.ofNat 32 (if tr then e % 32 else e / 32)).toNat
  let k := (w1 + BitVec.ofNat 32 (if tr then e / 32 else e % 32)).toNat
  (bit w3.toNat 0 && q < k) || (w2 ≠ 0 && k ≤ q && w2.toNat ≤ q - k) || k < w4.toNat

/-- `VMASK` (R125). -/
def execVmask (lc : Lc) (a : VSlot) (s : State) : Out :=
  let k := cdiv (vcount a) 512
  vecIssue (.vmask lc a) lc a k [bytesA a, (vregKey a.vb, 20)] (fun d c =>
    let w (i : Nat) := vregElem c d 4096 a.vb i 0
    let xs := opA a c d 512
    c.vecResult d a k 3 (xs.zipIdx.map (fun e =>
      (if maskHit (w 0) (w 1) (w 2) (w 3) (w 4) e.2 then negInf32 else e.1,
        if (fp32 e.1).isNan then flNanIn else 0)))) s

/-- The forward index of element e (R314). -/
def dropIndex (d2 : Word) (e : Nat) : Nat :=
  if bit d2.toNat 0 then 1024 * (e / 1024) + 32 * (e % 32) + (e % 1024) / 32 else e

/-- The draw of forward index f from the dropout stream (R67, R314). -/
def dropDraw (c : Core) (d0 d1 : Word) (f : Nat) : Nat :=
  philoxDraw (philox (d0 + BitVec.ofNat 32 (f / 8)) d1 c.num.salt 2 c.num.keyLo c.num.keyHi) (f % 8)

/-- `VDROP`: kept elements are multiplied, dropped ones are +0 and set no flag; `SR_CTR` stays (R126, R313, R314). -/
def execVdrop (lc : Lc) (a : VSlot) (s : State) : Out :=
  let k := cdiv (vcount a) 512
  vecIssue (.vdrop lc a) lc a k [bytesA a, bytesB a, (vregKey 63, 12)] (fun d c =>
    let w (i : Nat) := vregElem c d 12288 63 i 0
    c.vecResult d a k 3 (((opA a c d 512).zip (opB a c d 512)).zipIdx.map (fun e =>
      if a.thr.toNat ≤ dropDraw c (w 0) (w 1) (dropIndex (w 2) e.2) then mul32 e.1.1 e.1.2 else (0, 0)))) s

/-! ## Loads and stores (R102, R114, R120, R128) -/

/-- A `VLD` or `VST` enters the engine: its first beat is due in the next cycle. -/
def Core.beginAcc (c : Core) (load : Bool) (a : VSlot) : Core :=
  { c with
    fv := { c.fv with acc := some { load := load, slot := a, seq := c.mov.seq, bundle := c.seq.next, beat := 0, bytes := [] } }
    mov := { c.mov with seq := c.mov.seq + 1 } }

/-- The issue of a `VLD` or `VST`: it waits while the engine is occupied (R128). -/
def accIssue (i : Instr) (lc : Nat) (load : Bool) (a : VSlot) (s : State) : Out :=
  let c := s.core lc
  slotIssue i lc s (c.seq.cycle < c.fv.vfree || c.fv.acc.isSome) Core.fvWait
    ((if load then s else coreRead s 2 lc c.seq.next [operandBytes .reg a.va (vcount a)]).modCore lc (fun c => c.beginAcc load a))

/-- `VLD`: 4n bytes of the feeder store into registers from `VD` (R120). -/
def execVld (lc : Lc) (a : VSlot) (s : State) : Out := accIssue (.vld lc a) lc true a s

/-- `VST`: registers from `VA` into the feeder store (R120). -/
def execVst (lc : Lc) (a : VSlot) (s : State) : Out := accIssue (.vst lc a) lc false a s

/-- Offset and length of the next beat of an access: at most 1,024 bytes (R114). -/
def StoreAcc.beatRange (a : StoreAcc) : Nat × Nat :=
  (storeOfs a.slot + 1024 * a.beat, min 1024 (storeLen a.slot - 1024 * a.beat))

/-- A beat must wait: its bytes are still to be written, or for a `VST` still to be read or written by a transfer, by an access
issued before it (R102); or one of its banks is granted (R101). -/
def accWaits (x : StoreCycle) (lc : Nat) (a : StoreAcc) : Bool :=
  let r := a.beatRange
  let rs := [(mkDa 0 lc r.1, r.2)]
  let c := x.st.core lc
  meetBanks (banksOf r.1 r.2) x.banks
    || (if a.load then c.awaits lc a.seq rs
        else unreadBefore x.st lc a.seq rs
          || c.transfers.any (fun t => t.seq < a.seq && (overlaps t.writes rs || overlaps t.reads rs)))

/-- The bytes that a beat of a `VST` takes from its registers, read in this cycle (R120, R128). -/
def vstBeat (c : Core) (draws : Nat) (a : StoreAcc) : List Byte :=
  (List.range (a.beatRange.2 / 4)).flatMap (fun j =>
    leBytes 4 (vregAt c draws 0 a.slot.va (256 * a.beat + j) c.seq.cycle).toNat)

/-- An access whose beats are over: loaded words are readable, and stored bytes written, four cycles later (Table 4.10). -/
def Core.endAcc (c : Core) (draws : Nat) (a : StoreAcc) : Core :=
  let y := c.seq.cycle
  let c := { c with fv := { c.fv with acc := none, vfree := y } }
  if a.load then c.writeVec draws a.slot.vd ((wordsLe 4 a.bytes).map (BitVec.ofNat 32)) a.beat (y + 4)
  else { c with fv := { c.fv with
      stores := c.fv.stores ++ [{ seq := a.seq, ofs := storeOfs a.slot, bytes := a.bytes, due := y + 4 }] } }

/-- A beat done, the last of which ends the access. -/
def accBeat (x : StoreCycle) (lc : Nat) (a : StoreAcc) : StoreCycle :=
  let r := a.beatRange
  let g : StoreRead := if a.load then storeRead x.st 2 lc a.bundle r.1 r.2
    else { bytes := vstBeat (x.st.core lc) x.st.draws a, st := x.st.drawn 65536 }
  let a := { a with beat := a.beat + 1, bytes := a.bytes ++ g.bytes }
  let s := g.st.modCore lc (fun c =>
    let c := { c with fv := { c.fv with acc := some a, beats := bump c.fv.beats 1 } }
    if storeLen a.slot ≤ 1024 * a.beat then c.endAcc g.st.draws a else c)
  { x with st := s.drawn 16384, banks := x.banks ++ banksOf r.1 r.2 }

/-- A cycle of the engine's access to the feeder store. -/
def accCycle (x : StoreCycle) (lc : Nat) : StoreCycle :=
  match (x.st.core lc).fv.acc with
  | none => x
  | some a => if accWaits x lc a then { x with conf := true } else accBeat x lc a

/-- Stored bytes whose cycle has come are in the feeder store at its end (Table 4.10). -/
def storesDue (s : State) (lc : Nat) : State :=
  let c := s.core lc
  let due := c.fv.stores.filter (fun w => w.due ≤ c.seq.cycle)
  if due = [] then s
  else
    due.foldl (fun s w => memWrite s (some lc) (mkDa 0 lc w.ofs) w.bytes)
      (s.modCore lc (fun c => { c with fv := { c.fv with stores := c.fv.stores.filter (fun w => c.seq.cycle < w.due) } }))

/-- A beat of the vector engine is executed and counted (R130). -/
def Core.beat (c : Core) : Core :=
  if c.fv.beatsLeft = 0 then c else { c with fv := { c.fv with beatsLeft := c.fv.beatsLeft - 1, beats := bump c.fv.beats 1 } }

/-- A transfer in progress on one of the core's movers waits behind an earlier access to its feeder store (R102). -/
def moversWait (s : State) (lc : Nat) : Bool :=
  (s.core lc).mov.movers.any (fun e => e.2.active.any (fun x => x.storeHeld s lc))

/-- A cycle of the feeder store: the A feeder, the B feeder, then the vector engine (R101); a cycle in which a requester waited
counts once in `FEED_CONF` (R130). -/
def storeCycle (s : State) (lc : Nat) : State :=
  let s := s.modCore lc (fun c => ((c.decodeFlags .a).decodeFlags .b).beat)
  let x := accCycle (feedCycle (feedCycle { st := s, banks := [], conf := moversWait s lc } lc .a) lc .b) lc
  let s := storesDue x.st lc
  if x.conf then s.modCore lc (fun c => { c with fv := { c.fv with conf := bump c.fv.conf 1 } }) else s

end Sys2Proof.Machine
end

