-- ==== Sys2Proof/Machine/Mover.lean ====
section
/-! DEFINITION. Movers: the MOVE slot, the start, checks and completion of a transfer ("Memory tiers, addressing and
movers", R176 to R190). -/

namespace Sys2Proof.Machine

/-! ## Issue (R181) -/

/-- Descriptor-queue credits taken on a mover, the transfer in progress included (Table 6.14). -/
def Mover.credits (m : Mover) : Nat := m.queue.length + m.active.toList.length

/-- Iteration index of the loop term: back edges of the loop at depth `lsel` − 1 (R177). -/
def Core.loopTerm (c : Core) (lsel : Nat) : Nat :=
  if lsel = 0 then 0
  else if lsel ≤ c.seq.loops.length then ((c.seq.loops[c.seq.loops.length - lsel]?).map (·.taken)).getD 0 else 0

/-- The descriptor captured at issue; bytes that an uncompleted transfer of any core writes are unspecified (R181). -/
def captureDesc (s : State) (bs : List Byte) (da : Nat) : List Byte :=
  let writers := s.cores.flatMap (fun c => c.2.transfers.filter (fun x => overlaps x.writes [(da, bs.length)]))
  bs.zipIdx.map (fun e => if writers.any (fun x => overlaps x.writes [(da + e.2, 1)]) then Config.freeByte s.draws e.2 else e.1)

/-- Queue a transfer on its mover with its captured descriptor; a poisoned descriptor faults the job (R181, R211). -/
def queueMove (s : State) (lc : Nat) (clear : Bool) (a : MSlot) : State :=
  let da := mkDa 1 lc (a.desc.toNat * 64)
  let f := memFetch s 0 (some lc) da 64
  let c := s.core lc
  let x : Xfer := {
    clear := clear, slot := a, iter := c.loopTerm a.lsel, desc := captureDesc f.st f.bytes da, seq := c.mov.seq
    bundle := c.seq.next, taken := false, data := [], bad := [], bankSince := none, posted := false }
  let s := (f.st.drawn 1).modCore lc (fun c =>
    let m := c.mover a.mover
    let c := c.setMover a.mover { m with queue := m.queue ++ [x] }
    { c with mov := { c.mov with seq := c.mov.seq + 1 } })
  if f.bad.any id then poisonFault s lc c.seq.next else s

/-- A cycle in which a MOVE bundle waits for a queue credit (R193). -/
def Core.countQwait (c : Core) : Core := { c with mov := { c.mov with qwait := bump c.mov.qwait 1 } }

/-- `MNOP` (Table 6.7). -/
def execMnop (lc : Lc) (s : State) : Out := slotIssue (.mnop lc) lc s false id s

/-- `MCOPY`: queued on its mover, waiting for one of its 16 descriptor credits (R181). -/
def execMcopy (lc : Lc) (a : MSlot) (s : State) : Out :=
  slotIssue (.mcopy lc a) lc s (16 ≤ ((s.core lc).mover a.mover).credits) Core.countQwait (queueMove s lc false a)

/-- `MCLEAR`: queued on its mover, waiting for one of its 16 descriptor credits (R178, R181). -/
def execMclear (lc : Lc) (a : MSlot) (s : State) : Out :=
  slotIssue (.mclear lc a) lc s (16 ≤ ((s.core lc).mover a.mover).credits) Core.countQwait (queueMove s lc true a)

/-! ## Checks at the start (R186) -/

/-- A failed check: reason, destination side, space, unit and offset of Tables 6.12 and 6.13. -/
structure MoveFail where
  /-- `REASON` -/
  reason : Nat
  /-- `SIDE`: destination -/
  dst : Bool
  /-- `SPACE` -/
  space : Nat
  /-- `UNIT` -/
  unit : Nat
  /-- `MFAULT_OFS` -/
  ofs : Nat
  deriving DecidableEq, Repr

/-- The first byte of row bytes [o, o + n) outside the unit's range or the job's claims, as an offset (reason 1). -/
def rowFail (s : State) (lc space unit : Nat) (o : Int) (n : Nat) : Option Nat :=
  let size := spaceSize space
  if o < 0 then some (wrapInt 40 o)
  else
    let o := o.toNat
    match (s.jobOf lc).bind (fun j => j.gap (mkDa space unit o) (min n (size - o))) with
    | some g => some (g - mkDa space unit 0)
    | none => if size < o + n then some (max o size % 2 ^ 40) else none

/-- Reason 1 for the rows, in row order, source before destination. -/
def rowsFail (s : State) (lc : Nat) (x : Xfer) : Option MoveFail :=
  (List.range x.rows).findSome? (fun r =>
    let src : Option MoveFail := if x.clear then none
      else (rowFail s lc (bits x.src 55 52) (bits x.src 51 40) (x.srcOfs r) x.rowLen).map
        (fun o => { reason := 1, dst := false, space := bits x.src 55 52, unit := bits x.src 51 40, ofs := o })
    src.or ((rowFail s lc (bits x.dst 55 52) (bits x.dst 51 40) (x.dstOfs r) x.rowLen).map
      (fun o => { reason := 1, dst := true, space := bits x.dst 55 52, unit := bits x.dst 51 40, ofs := o })))

/-- The ends of a transfer as (destination, space, unit); `MCLEAR` has only its destination. -/
def Xfer.ends (x : Xfer) : List (Bool × Nat × Nat) :=
  (if x.clear then [] else [(false, bits x.src 55 52, bits x.src 51 40)]) ++ [(true, bits x.dst 55 52, bits x.dst 51 40)]

/-- The first end that fails a condition, with its reason. -/
def endFail (x : Xfer) (reason : Nat) (bad : Nat → Nat → Bool) : Option MoveFail :=
  (x.ends.find? (fun e => bad e.2.1 e.2.2)).map (fun e => { reason := reason, dst := e.1, space := e.2.1, unit := e.2.2, ofs := 0 })

/-- Reason 5: no local end for `MCOPY`, or a plot end that is not the core's own (Table 6.10). With neither end local, the
source end is recorded (log 15). -/
def localFail (lc : Nat) (x : Xfer) : Option MoveFail :=
  let own := fun sp u => (sp = 0 || sp = 1) && u = lc
  let plot := fun sp u => sp = 2 && u = lc
  if !x.clear && !x.ends.any (fun e => own e.2.1 e.2.2) && !x.ends.all (fun e => plot e.2.1 e.2.2) then
    endFail x 5 (fun _ _ => true)
  else endFail x 5 (fun sp u => sp = 2 && u ≠ lc)

/-- The checks of Table 6.10 in the order of R186. -/
def moveCheck (s : State) (lc : Nat) (x : Xfer) : Option MoveFail :=
  let dofs := x.slot.desc.toNat * 64
  let own : MoveFail := { reason := 1, dst := false, space := 1, unit := lc, ofs := dofs }
  if ((s.jobOf lc).any (fun j => (j.gap (mkDa 1 lc dofs) 64).isSome)) then some own
  else if !x.reservedOk || x.rowLen = 0 || bits x.dst 55 52 ≠ x.slot.dspace.val
      || (if x.clear then x.src ≠ 0 else bits x.src 55 52 ≠ x.slot.sspace.val) then some { own with reason := 2 }
  else
    (endFail x 3 (fun sp u => !s.unitPresent sp u)).or
      ((endFail x 4 (fun sp u => sp ≤ 1 && !(s.jobOf lc).any (fun j => j.covers u))).or
        ((localFail lc x).or (rowsFail s lc x)))

/-- The value of `MOVE_FAULT` (Table 6.13). -/
def MoveFail.word (f : MoveFail) (mover : Nat) : Word :=
  BitVec.ofNat 32 (f.reason + b2n f.dst * 8 + mover * 16 + f.space % 16 * 64 + f.unit % 4096 * 65536)

/-- A transfer that fails its checks: recorded and faulting the job the first time, counted in `MOVE_DISC` after that (R186). -/
def moveFails (s : State) (lc mover : Nat) (x : Xfer) (f : MoveFail) : State :=
  if (s.core lc).mov.fault ≠ 0 then
    s.modCore lc (fun c => { c with mov := { c.mov with disc := c.mov.disc + 1 } })
  else
    faultCore (s.modCore lc (fun c => { c with mov := { c.mov with
      fault := f.word mover, faultOfs := BitVec.ofNat 40 f.ofs } })) lc 3 0x09 x.bundle 0

/-! ## Start (R181, R182) -/

/-- The four conditions of R181. -/
def mayStartMove (c : Core) (lc : Nat) (x : Xfer) (m : Nat) : Bool :=
  let earlier := c.transfers.filter (fun y => y.seq < x.seq)
  (c.mover m).active = none && (!x.slot.fence || earlier = []) &&
  !earlier.any (fun y => overlaps y.writes x.writes || overlaps y.writes x.reads || overlaps y.reads x.writes) &&
  !c.seq.segLoads.any (fun l => overlaps x.writes [(mkDa 1 lc l.ofs, 64 * l.bundles)])

/-- The regions of an Orangery range that are not served are being paged out. -/
def pagingOut (s : State) (da n : Nat) : Bool :=
  daSpace da = 4 && (regionsOf da n).all (fun r =>
    let g := s.region (daUnit da) r
    g.st = .pageOut || (g.st = .resident && !g.banked))

/-- The first part of a range list that is not served: waiting for residency or for bank mode. A page-out waits for a transfer that
was being served when it began (R169). -/
def xferAccess (s : State) (x : Xfer) : OrgAccess :=
  (x.reads ++ x.writes).foldl (fun a e =>
    match a with
    | .serve => if x.taken && pagingOut s e.1 e.2 then .serve else orgAccessRange s e.1 e.2
    | _ => a) .serve

/-- A mover's transfer is suspended by bank mode or by a region not resident. -/
def State.moverHeld (s : State) (c : Core) (m : Nat) : Bool :=
  (c.mover m).active.any (fun x => (x.reads ++ x.writes).any (fun e =>
    daSpace e.1 = 4 && !(x.taken && pagingOut s e.1 e.2) &&
      (match orgAccessRange s e.1 e.2 with
       | .serve => false
       | _ => true)))

/-- Read the ranges of a transfer's source. -/
def readSource (s : State) (lc : Nat) (rs : List (Nat × Nat)) : Fetched :=
  rs.foldl (fun f e =>
    let g := orgRead f.st 0 (some lc) e.1 e.2
    { bytes := f.bytes ++ g.bytes, bad := f.bad ++ g.bad, st := g.st }) { bytes := [], bad := [], st := s }

/-- Until a transfer completes, each unit of its destination holds its old bytes or those that the transfer brings (R150, R189,
R191, log 99). -/
def mixRanges (s : State) : List (Nat × Nat) → List Byte → State
  | [], _ => s
  | e :: es, data =>
    if s.isWindow e.1 then mixRanges s es (data.drop e.2)
    else
      let mixed := mixBytes s.draws e.1 (s.bytesAt e.1 e.2) (data.take e.2)
      mixRanges { s with mem := { s.mem with bytes := Tbl.setMany 0 s.mem.bytes e.1 mixed } } es (data.drop e.2)

/-- Put a transfer in progress: its source is read now where every region it reaches is served and no earlier access of the
core to its feeder store stands before it, and until it completes its destination holds old and new bytes. -/
def beginMove (s : State) (lc m : Nat) (x : Xfer) : State :=
  let put := fun (s : State) (x : Xfer) => s.modCore lc (fun c => c.setMover m { (c.mover m) with active := some x })
  match xferAccess s x with
  | .serve =>
    if x.storeHeld s lc then put s x
    else
      let f := readSource s lc x.reads
      let new := if x.clear then List.replicate (x.writes.map (·.2)).sum 0 else f.bytes
      put ((mixRanges f.st x.writes new).drawn 1) { x with taken := true, data := f.bytes, bad := f.bad }
  | .wait s => put s x
  | _ => put s x

/-- `MOVE_START`: the oldest queued transfer of the mover starts when the conditions of R181 hold, and is checked by R186. -/
def execMoveStart (lc : Lc) (m : Fin 4) (s : State) : Out :=
  let c := s.core lc
  let mv := c.mover m
  match mv.queue with
  | [] => .next s
  | x :: rest =>
    if mayStartMove c lc x m then
      let s' := s.modCore lc (fun c => c.setMover m { mv with queue := rest })
      match moveCheck s' lc x with
      | some f => .next (moveFails s' lc m x f)
      | none => .next (noteHold (beginMove s' lc m x) lc m)
    else .next s

/-! ## Completion (R183, R189) -/

/-- The bytes a transfer delivers: those read at its start, or where the source has changed since, each the old one or the new one
(R189). -/
def delivered (s : State) (x : Xfer) : List Byte :=
  let now := x.reads.flatMap (fun e => s.bytesAt e.1 e.2)
  if x.reads.any (fun e => s.isWindow e.1) || overlaps x.reads x.writes then x.data
  else ((x.data.zip now).zipIdx).map (fun e => if (Config.freeByte s.draws e.2).getLsbD 0 then e.1.2 else e.1.1)

/-- Write the rows of a transfer in ascending order. -/
def writeRows (s : State) (lc : Nat) (n : Nat) : List (Nat × Nat) → List Byte → List Bool → State
  | [], _, _ => s
  | e :: es, data, bad =>
    writeRows (orgWrite s (some lc) e.1 (data.take n) (bad.take n)) lc n es (data.drop n) (bad.drop n)

/-- Destination bytes that are also source bytes hold unspecified values (R178). -/
def spoilOverlap (s : State) (x : Xfer) : State :=
  if overlaps x.reads x.writes then
    let t := (x.writes.flatMap (fun e => (List.range e.2).map (e.1 + ·))).zipIdx.foldl (fun t e =>
      if overlaps x.reads [(e.1, 1)] then Tbl.set 0 t e.1 (Config.freeByte s.draws e.2) else t) s.mem.bytes
    { s with mem := { s.mem with bytes := t }, draws := s.draws + 1 }
  else s

/-- The destination address of byte `i` of a transfer. -/
def Xfer.placeOf (x : Xfer) (i : Nat) : Nat := x.dstDa (i / x.rowLen) + i % x.rowLen

/-- Move the bytes of a transfer (R178); bad source bytes poison the destination and fault the job (R210, R211), and `te` names those in
error in transit: corrected ones count at the router of the destination, the others arrive poisoned (R200). -/
def moveBytes (s : State) (lc : Nat) (x : Xfer) (te : List (Nat × Bool)) : State :=
  if x.clear then x.writes.foldl (fun s e => memClear s (some lc) e.1 e.2) s
  else
    let f : Fetched := if x.taken then { bytes := delivered s x, bad := x.bad, st := s.drawn 1 } else readSource s lc x.reads
    let s := spoilOverlap (writeRows f.st lc x.rowLen x.writes f.bytes (joinMarks f.bad (transitMarks x.length te))) x
    let s := transitLog (transitCe s ((s.endpoint (x.dstDa 0)).getD 890) te) x.placeOf (te.filter (fun e => e.1 < x.length))
    if f.bad.any id then poisonFault s lc x.bundle else s

/-- Every destination byte may be written at the present temperatures (R441, R442). -/
def xferCool (s : State) (x : Xfer) : Bool := x.writes.all (fun e => s.mayWrite e.1 e.2)

/-- The packets of a core's transfer pass: no link of a stack or of the mesh that they use has failed, and none is held; a claimed
sister link is no part of the mesh (R43, R236, R247, R255). -/
def State.meshOk (s : State) (lc : Nat) (rs : List (Nat × Nat)) : Bool :=
  s.orgLinked rs && rs.all (fun e => (daSpace e.1 ≤ 2 && s.sisterClaimed lc (daUnit e.1))
    || !(s.siteOf lc).any (fun i => s.unreachable i e.1 || s.reachHeld i e.1))

/-- Every record that a transfer has written stands in the record queue of its stack (R267). -/
def State.recordsIn (s : State) (x : Xfer) : Bool := x.writes.all (fun e => !s.isWindow e.1 || s.recQueue (daUnit e.1) ≤ 64)

/-- A transfer whose bytes are moved ends: counters, credit, completion increment (R183). -/
def endMove (s : State) (lc : Lc) (m : Fin 4) (x : Xfer) : State :=
  let s := s.modCore lc (fun c =>
    let c := c.setMover m { (c.mover m) with active := none }
    { c with mov := { c.mov with done := bump c.mov.done 1, bytes := bump c.mov.bytes x.length } })
  completionInc s lc x.slot.clc x.slot.cgate x.slot.cinc.toNat

/-- A transfer has moved its bytes: it ends, or its last records wait at a full record queue and it with them (R267). -/
def moved (s : State) (lc : Lc) (m : Fin 4) (x : Xfer) : State :=
  if s.recordsIn x then endMove s lc m x
  else s.modCore lc (fun c => c.setMover m { (c.mover m) with active := some { x with posted := true } })

/-- `MOVE_COMPLETE`: bytes, counters, credit and completion increment (R183); suspended while a region it reaches is in bank
mode or not resident (R186), its destination too hot to write, a plot's channel or a link of its route retunes (R43), or a link that
its packets use failed (R247, R255), while an earlier access to the feeder store stands before it (R102), and while a record queue
has no room for its records (R267). -/
def execMoveComplete (lc : Lc) (m : Sent (Fin 4)) (s : State) : Out :=
  let te := m.te
  let m := m.item
  match ((s.core lc).mover m).active with
  | none => .next s
  | some x =>
    if x.posted then .next (if s.recordsIn x then endMove s lc m x else s)
    else if (x.reads ++ x.writes).any (fun e => s.plotHeld e.1) then .next s
    else match xferAccess s x with
    | .serve =>
      if x.storeHeld s lc then .next s
      else if xferCool s x && s.meshOk lc (x.reads ++ x.writes) then .next (moved (moveBytes s lc x te) lc m x)
      else .next s
    | .wait s => .next s
    | _ => .next (noteHold s lc m)

/-- A cycle of mover m: a queued transfer that may start does; one that conditions 2 to 4 of R181 hold back counts in `MOVE_SWAIT`,
and a suspended transfer in progress in `MOVE_HOLD` (R181, R193). -/
def moverCycle (s : State) (lc : Lc) (m : Fin 4) : State :=
  let c := s.core lc
  match (c.mover m).active, (c.mover m).queue with
  | some x, _ =>
    if x.posted then moved s lc m x
    else
      let s := noteHold s lc m
      if s.moverHeld c m then s.modCore lc (fun c => { c with mov := { c.mov with hold := bump c.mov.hold 1 } }) else s
  | none, [] => s
  | none, x :: _ =>
    if mayStartMove c lc x m then
      match execMoveStart lc m s with
      | .next t => t
      | _ => s
    else s.modCore lc (fun c => { c with mov := { c.mov with swait := bump c.mov.swait 1 } })

end Sys2Proof.Machine
end

