-- ==== Sys2Proof/Machine/Packet.lean ====
section
/-! DEFINITION. Headers of Trellis packets ("The Trellis on-die network", R226, R246, Tables 8.3, 8.4). -/

namespace Sys2Proof.Machine

/-- The fields of a header (Table 8.3). -/
structure Header where
  /-- `CLASS`: 0 `REQ`, 1 `RSP`, 2 `GATE`, 3 `MGMT` -/
  cls : Nat
  /-- `LANE` -/
  lane : Nat
  /-- `TYPE` -/
  typ : Nat
  /-- `DST` -/
  dst : Nat
  /-- `SRC` -/
  src : Nat
  /-- `FLITS` -/
  flits : Nat
  /-- `BYTES` -/
  bytes : Nat
  /-- `TAG` -/
  tag : Nat
  /-- `SPACE` -/
  space : Nat
  /-- `OFFSET` -/
  ofs : Nat
  /-- `NODE`, none where the packet travels for no job -/
  node : Option Nat
  /-- `BSEQ` -/
  bseq : Nat
  deriving DecidableEq, Repr

/-- Bits [119:0] of a header. -/
def Header.low (h : Header) : Nat :=
  h.cls + 2 ^ 2 * h.lane + 2 ^ 3 * h.typ + 2 ^ 7 * h.dst + 2 ^ 17 * h.src + 2 ^ 27 * h.flits + 2 ^ 31 * h.bytes + 2 ^ 41 * h.tag
    + 2 ^ 49 * h.space + 2 ^ 53 * h.ofs + 2 ^ 93 * h.node.getD 0 + 2 ^ 99 * b2n h.node.isNone + 2 ^ 100 * h.bseq

/-- One bit of a CRC-8 with polynomial 0x07. -/
def crc8Step (c : Nat) (b : Bool) : Nat :=
  let x := 2 * (c % 128)
  if (128 ≤ c) != b then x ^^^ 7 else x

/-- `HCRC`: CRC-8 of bits [119:0], taken from bit 119 down, initial value 0 (log 102). -/
def hcrc (n : Nat) : Nat := (List.range 120).foldl (fun c i => crc8Step c (n.testBit (119 - i))) 0

/-- The 128 bits of a header. -/
def Header.word (h : Header) : BitVec 128 := BitVec.ofNat 128 (h.low + 2 ^ 120 * hcrc h.low)

/-- The types of a class that are not reserved (Table 8.4). -/
def typeKnown (cls typ : Nat) : Bool :=
  match cls with
  | 0 => 1 ≤ typ && typ ≤ 5
  | 1 => 1 ≤ typ && typ ≤ 4
  | 2 => typ = 1
  | _ => 1 ≤ typ && typ ≤ 8

/-- `HCRC` of a header is right (R246). -/
def headerRight (w : BitVec 128) : Bool := hcrc (w.toNat % 2 ^ 120) = w.toNat / 2 ^ 120

/-- The type of a header is reserved in its class (R226). -/
def headerReserved (w : BitVec 128) : Bool := !typeKnown (w.toNat % 4) (w.toNat / 8 % 16)

end Sys2Proof.Machine
end

