-- ==== Sys2Proof/Machine/Trellis.lean ====
section
/-! DEFINITION. The Trellis: packets that arrive at network interfaces, broadcasts, links and their failures
("The Trellis on-die network", R226 to R250). -/

namespace Sys2Proof.Machine

/-! ## Packets (R226, R233) -/

/-- Put a response in flight. -/
def sendRsp (s : State) (r : Rsp) : State := { s with tr := { s.tr with rsps := s.tr.rsps ++ [r] } }

/-- The answer to a request. -/
def answer (s : State) (p : Pkt) (kind : RspKind) (data : List (Option Byte)) : State :=
  sendRsp s { dst := p.src.toNat, src := p.dst.toNat, tag := p.tag.toNat, kind := kind, data := data, stale := false }

/-- The DA that a request names at the endpoint where it arrives, or the status of its refusal (R226, R234). -/
def State.pktDa (s : State) (p : Pkt) (n : Nat) : Nat ⊕ Nat :=
  let e := p.dst.toNat
  let sp := p.space.toNat
  let at' := fun (unit : Nat) => if p.ofs.toNat + n ≤ spaceSize sp then .inl (mkDa sp unit p.ofs.toNat) else .inr 0x22
  if e < 880 then
    if sp ≤ 2 then (match s.lcOf e with
      | some lc => at' lc
      | none => .inr 0x21)
    else if sp = 3 then (match s.commonsOf e with
      | some k => at' k
      | none => .inr 0x21)
    else .inr 0x23
  else if 0x390 ≤ e && e ≤ 0x395 && sp = 4 then at' (e - 0x390)
  else .inr 0x23

/-- A request arrives at the interface of a core in reset: absorbed with `TRESET` (R249). -/
def State.pktAbsorbed (s : State) (p : Pkt) : Bool :=
  p.dst.toNat < 880 && (match s.lcOf p.dst.toNat with
    | some lc => s.absorbs lc
    | none => false)

/-- Absorb a request. -/
def absorb (s : State) (p : Pkt) : State :=
  answer (s.modRouter p.dst.toNat (fun r => { r with absorb := satAdd r.absorb 1 })) p .treset []

/-- A request is dropped before its endpoint: a link of its route, or the link of the stack it is bound to, has failed (R247, R255). -/
def State.lost (s : State) (p : Pkt) (n : Nat) : Bool :=
  s.severed p.src.toNat p.dst.toNat || (match s.pktDa p n with
    | .inl da => !s.orgLinked [(da, n)]
    | .inr _ => false)

/-- Carry out a request that its target serves, or refuse it. One that was dropped on its way does not arrive (log 101); one held by a
Seam retune, or whose store is too hot to write, waits (R43, R441). -/
def servePkt (s : State) (p : Pkt) (n : Nat) (hold : Instr) (write : Bool) (act : Nat → State) : Out :=
  if s.lost p n then .next s
  else if s.routeHeld p.src.toNat p.dst.toNat then .next (s.hold hold)
  else if s.pktAbsorbed p then .next (absorb s p)
  else
    match s.pktDa p n with
    | .inr st => .next (answer s p (.rerr st) [])
    | .inl da =>
      match if write then orgWriteRange s da n else orgAccessRange s da n with
      | .serve => if write && !s.mayWrite da n then .next (s.hold hold) else .next (act da)
      | .wait s => .next (s.hold hold)
      | .bank => .next (s.hold hold)
      | .unmapped => .next (answer s p (.rerr 0x26) [])

/-- `WRITE`: data to a store, of which `te` names the bytes that were in error in transit, answered with `WACK` (R200, R226). -/
def execWrite (p : Pkt) (te : List (Nat × Bool)) (s : State) : Out :=
  servePkt s p p.data.length (.write p te) true (fun da =>
    answer (transitLog (orgWrite (transitCe s p.dst.toNat te) none da p.data (transitMarks p.data.length te)) (da + ·) te) p .wack [])

/-- `READ`: served with `RDATA`; bad units travel marked (R226, R246). -/
def execRead (p : Pkt) (s : State) : Out :=
  servePkt s p p.bytes.toNat (.read p) false (fun da =>
    let f := orgRead s 0xFF none da p.bytes.toNat
    answer f.st p .rdata ((f.bytes.zip f.bad).map (fun e => if e.2 then none else some e.1)))

/-- `CLEAR`: whole lines cleared by valid map, answered with `WACK` (R206, R226). -/
def execClear (p : Pkt) (len : Nat) (s : State) : Out :=
  servePkt s p len (.clear p len) true (fun da => answer (memClear s none da len) p .wack [])

/-- A packet between two endpoints does not arrive now: it has been dropped, or a retune holds it (R43, R247). -/
def State.stuck (s : State) (src dst : Nat) : Bool := s.severed src dst || s.routeHeld src dst

/-- A control response travels in class `MGMT`, every other in class `RSP` (Table 8.4). -/
def RspKind.mgmt : RspKind → Bool
  | .cresp _ => true
  | _ => false

/-- The next response of its class from a responder to a requester, if it has the tag and kind: a pair's packets of one class keep their
order (R233). -/
def State.findRsp (s : State) (dst src tag : Nat) (mgmt : Bool) (k : RspKind → Bool) : Option Rsp :=
  (s.tr.rsps.find? (fun r => r.dst = dst && r.src = src && r.kind.mgmt = mgmt)).filter (fun r => r.tag = tag && k r.kind)

/-- A response reaches its requester; one for a core in reset whose drain has ended is discarded and counted (R480). -/
def deliver (s : State) (dst src : BitVec 10) (tag : Byte) (mgmt : Bool) (k : RspKind → Bool)
    (bytes : State → Rsp → State × Rsp := fun s r => (s, r)) : Out :=
  match s.findRsp dst.toNat src.toNat tag.toNat mgmt k with
  | none => .next s
  | some r =>
    if s.stuck src.toNat dst.toNat then .next s else
    let s := { s with tr := { s.tr with rsps := s.tr.rsps.erase r } }
    let (s, r) := bytes s r
    if r.stale then .next { s with boot := { s.boot with absorb := satAdd s.boot.absorb 1 } }
    else .next { s with tr := { s.tr with inbox := s.tr.inbox ++ [r] } }

/-- The bytes of read data in error in transit: corrected and counted, or marked as poison travels and logged (R200, R246); the packet names
no address, so the record has the requester's endpoint for one (log 104). -/
def readTransit (te : List (Nat × Bool)) (s : State) (r : Rsp) : State × Rsp :=
  (transitLog (transitCe s r.dst te) (fun _ => r.dst) te,
    { r with data := if te = [] then r.data else r.data.zipIdx.map (fun e => if te.any (fun x => x.1 = e.2 && !x.2) then none else e.1) })

/-- `RDATA`. -/
def execRdata (dst src : BitVec 10) (tag : Sent Byte) (s : State) : Out :=
  deliver s dst src tag.item false (fun k => k = .rdata) (readTransit tag.te)
/-- `WACK`. -/
def execWack (dst src : BitVec 10) (tag : Byte) (s : State) : Out := deliver s dst src tag false (fun k => k = .wack)
/-- `TRESET`. -/
def execTreset (dst src : BitVec 10) (tag : Byte) (s : State) : Out := deliver s dst src tag false (fun k => k = .treset)
/-- `RERR`. -/
def execRerr (dst src : BitVec 10) (tag : Byte) (s : State) : Out :=
  deliver s dst src tag false (fun k => match k with
    | .rerr _ => true
    | _ => false)
/-- `CRESP`. -/
def execCresp (dst src : BitVec 10) (tag : Byte) (s : State) : Out :=
  deliver s dst src tag true (fun k => match k with
    | .cresp _ => true
    | _ => false)

/-- An increment does not arrive now: a retune holds the vertical sister link or the route that it takes, or it has been dropped (R42, R43,
R247). -/
def State.sendHeld (s : State) (x : Send) : Bool :=
  match s.siteOf x.src, s.siteOf x.dst with
  | some i, some k => if x.sister then s.sisterHeld i k else s.stuck i k
  | _, _ => false

/-- `INC`: the oldest increment in flight between two cores is applied, once no retune holds it (R43, R142, R233). -/
def execInc (src dst : Lc) (s : State) : Out :=
  match s.sends.find? (fun x => x.src = src.val && x.dst = dst.val) with
  | none => .next s
  | some x => if s.sendHeld x then .next s else .next (incGate { s with sends := s.sends.erase x } x.dst x.gate x.n (.core x.src))

/-- `BLAME`: the oldest record in flight between two cores is added to `PACE_LAG` (R157). -/
def execBlame (src dst : Lc) (s : State) : Out :=
  match s.blames.find? (fun x => x.src = src.val && x.dst = dst.val) with
  | none => .next s
  | some x =>
    if (s.siteOf x.src).any (fun i => (s.siteOf x.dst).any (s.stuck i)) then .next s
    else .next (({ s with blames := s.blames.erase x }).modCore dst
      (fun c => { c with seq := { c.seq with lag := bump c.seq.lag x.n } }))

/-- `MAPUPD`: an interface updates its tables and confirms; with the last confirmation the rows are free again (R235). -/
def execMapupd (site : Site) (s : State) : Out :=
  let left := s.tr.unconfirmed.filter (· ≠ site.val)
  .next { s with tr := { s.tr with unconfirmed := left, updRows := if left = [] then [] else s.tr.updRows } }

/-! ## Broadcasts (R239 to R241) -/

/-- The sites of a target set (R240). -/
def State.targetSites (s : State) (t : Target) : List Nat :=
  let all := List.range 880
  match t with
  | .all => all
  | .node n => all.filter (fun i => (s.lcOf i).any (fun lc => (s.nodeClusters n.val).contains (clusterOf lc)))
  | .cluster c => all.filter (fun i => i / 220 * 10 + i / 22 % 10 = c.val)
  | .layer l => all.filter (fun i => i / 220 = l.val)
  | .region r => all.filter (fun i => i / 22 % 10 / 2 = r.val)

/-- An interface of the graph acts on a broadcast other than a halt or a map update: its core is neither in reset nor gated (R240). -/
def State.heedsBcmd (s : State) (site : Nat) : Bool :=
  s.inGraph site && (match s.lcOf site with
    | some lc => !s.absorbs lc && (s.sitePwr site).dom = .on
    | none => true)

/-- `BDATA`: data to one offset of every target core while no job is loaded; else discarded and counted (R240, R241). -/
def execBdata (router : Fin 891) (t : Target) (ofs : BitVec 40) (data : List Byte) (s : State) : Out :=
  let s := broadcast s
  if s.jobs ≠ [] then .next (s.modRouter router.val (fun r => { r with drop := satAdd r.drop 1 }))
  else
    let fw := ((s.targetSites t).filter s.heedsBcmd).foldl (fun m i => Tbl.setMany 0 m (i * 2 ^ 40 + ofs.toNat) data) s.tr.coreFw
    .next { s with tr := { s.tr with coreFw := fw } }

/-! ## Links (R246, R247) -/

/-- The opposite port. -/
def oppositePort (p : Nat) : Nat := [1, 0, 3, 2, 5, 4].getD p 0

/-- The element and sublink at the other end of an output port: the six ports of a site's router; of a row gateway, its 22 gateway
links by column and its 16 sublinks to the base switch; of the base switch, the sublinks to the gateways, to the Orangery ports, to the
engines, to the PCIe controller and to the Kiosk, in this order (Table 8.2). -/
def portLink (b port : Nat) : Option (Nat × Nat) :=
  if b < 880 then (if port < 6 then (portNeighbour b port).map (fun n => (n, 0)) else none)
  else if b < 890 then
    if port < 22 then some (coordSite 0 (b - 880) port, 0) else if port < 38 then some (baseSwitch, port - 22) else none
  else if port < 160 then some (rowGate (port / 16), port % 16)
  else if port < 280 then some (0x390 + (port - 160) / 20, (port - 160) % 20)
  else if port < 344 then some (0x39A + (port - 280) / 16, (port - 280) % 16)
  else if port < 346 then some (0x398, port - 344)
  else some (0x399, 0)

/-- A site's router shows the failed port. -/
def failPort (s : State) (e port : Nat) : State :=
  if e < 880 then s.modRouter e (fun r => { r with portFail := r.portFail ||| BitVec.ofNat 6 (2 ^ port) }) else s

/-- The port of the element `n` that leads back from its neighbour's port. -/
def backPort (b port : Nat) : Nat := if b < 880 then oppositePort port else 5

/-- Mark the link at a port failed at both ends. -/
def failLink (s : State) (b port : Nat) : State :=
  let s := failPort (s.modRouter b (fun r => { r with again := Tbl.set 0 r.again port 0 })) (blockElement b) port
  match portLink b port with
  | some (n, k) =>
    let e := blockElement b
    failPort { s with tr := { s.tr with cut := s.tr.cut ++ [(e, n, k), (n, e, k)] } } n (backPort b port)
  | none => s

/-- The link at a port has failed. -/
def State.linkCut (s : State) (b port : Nat) : Bool :=
  (portLink b port).any (fun x => s.tr.cut.contains (blockElement b, x.1, x.2))

/-- A failed link degrades the part, and is reported to the host and as a health event (R247, R389, Table 17.3). -/
def linkFailed (s : State) (b port : Nat) : State :=
  let s := failLink s b port
  let s := { s with tr := { s.tr with degraded := true, failedLinks := min 255 (s.tr.failedLinks + 1) } }
  let st := leBytes 4 (trellisStatus s).toNat
  healthEvent (notify s 0x0A st) 6 0 (st ++ leBytes 2 b)

/-- A header that fails, or has a reserved type, counts at the router that received it (R226, R246, Table 8.8). -/
def crcCounted (s : State) (w : BitVec 128) (n : Nat) : State :=
  if (!headerRight w || headerReserved w) && (n < 880 || (0x380 ≤ n && n ≤ 0x389) || n = baseSwitch) then s.modRouter (routerBlock n) (fun r => { r with crc := satAdd r.crc 1 })
  else s

/-- `REPLAY`: a flit sent at a port is refused, for its `HCRC` or for an uncorrectable byte, and the sender replays from it; 8 consecutive failed replays of one flit fail the link (R246, R247). A packet of a reserved
type is discarded (R226). A port without a link sends nothing. -/
def execReplay (router : Fin 891) (port : Fin 347) (flit : Flit) (s : State) : Out :=
  let header := flit.header
  match portLink router port with
  | none => .next s
  | some (n', _) =>
    if s.linkCut router port then .next s
    else if headerRight header && headerReserved header then .next (crcCounted s header n')
    else
      let n := if flit.again then Tbl.get 0 (s.router router).again port + 1 else 0
      let s := (crcCounted s header n').modRouter router (fun r => { r with replay := satAdd r.replay 1, again := Tbl.set 0 r.again port n })
      .next (if 8 ≤ n then linkFailed s router port else s)

/-- The core that records a lost packet of a job: the one at its source, else the lowest-numbered (R247). -/
def lostRecorder (s : State) (j : Job) (src : Nat) : Nat :=
  match (if src < 880 then s.lcOf src else none) with
  | some lc => if j.covers lc then lc else j.lowest
  | none => j.lowest

/-- The packet that a report names is no longer in flight: the oldest increment, or else the oldest response, of its source on a route with a
failed link (R247, R250). -/
def dropFlight (s : State) (src : Nat) : State :=
  match s.sends.find? (fun x => !x.sister && s.siteOf x.src = some src && (s.siteOf x.dst).any (s.severed src)) with
  | some x => { s with sends := s.sends.erase x }
  | none =>
    match s.tr.rsps.find? (fun r => r.src = src && s.severed src r.dst) with
    | some r => { s with tr := { s.tr with rsps := s.tr.rsps.erase r } }
    | none => s

/-- `EVENT`: the report of a dropped packet reaches the Kiosk: the job of its node faults with `LINK_LOST`, or its host
command completes with `CMD_PATH_LOST` (R247, R390). -/
def execEvent (router : Fin 891) (src : BitVec 10) (node : Option (Fin 64)) (cmd : Option (BitVec 16 × Word)) (s : State) : Out :=
  let s := (dropFlight s src.toNat).modRouter router.val (fun r => { r with drop := satAdd r.drop 1 })
  match node with
  | some n =>
    match s.jobAt n.val with
    | some j =>
      let lc := lostRecorder s j src.toNat
      .next (faultCore s lc 3 0x0A (s.core lc).seq.next 0)
    | none => .next s
  | none =>
    match cmd with
    | some (q, cid) =>
      match (s.queue q.toNat).running.find? (fun r => r.cid = cid) with
      | some r => .next (completeCmd { s with held := s.held.filter (fun i => commandOf i ≠ some (q, r.e)) }
          { q := q.toNat, id := r.id } 0x07 false 0 0)
      | none => .next s
    | none => .next s

end Sys2Proof.Machine
end

