-- ==== Sys2Proof/Machine/Boot.lean ====
section
/-! DEFINITION. Power-on, the steps of bring-up, repair, and the whole-part reset ("Bring-up, sparing and reset" R456 to
R476, R484; "Package, pins and electrical limits" R510 to R519; "Host interface and command packets" R394). -/

namespace Sys2Proof.Machine

/-! ## The whole-part reset (R457, R484, R514) -/

/-- The part is held, or in bring-up before step 4 ends: a reset cause met now is not recorded (R514). DEDUCED: a part that has
stopped with `FATAL` is in neither (log 113). -/
def Boot.early (b : Boot) : Bool := (1 ≤ b.phase && b.phase ≤ 4 && !b.fatal) || b.railLost || b.clockLost

/-- The part is in step 1, or already waits before step 2: an assertion of `PCIE_PERST_N` restarts nothing (R457). -/
def Boot.waits (b : Boot) : Bool := !b.ready && !b.fatal && (b.phase ≤ 1 || (b.phase = 2 && b.perst))

/-- A programming under way leaves its copy spoiled (R535). -/
def spoilOwner (s : State) : List OwnerCopy :=
  match s.mgmt.prog with
  | .programs c _ => s.owner.set c .spoiled
  | _ => s.owner

/-- What stays of the boot state across a whole-part reset (Table 16.10), with the pins and rails as they are. -/
def Boot.kept (b : Boot) (ticks cause phase : Nat) : Boot :=
  { Boot.init with
    vinAux := b.vinAux, perst := b.perst, rails := b.rails, railsSeen := b.railsSeen, railLost := b.railLost
    clockLost := b.clockLost, auxLost := b.auxLost, cuffNorth := b.cuffNorth, cuffSouth := b.cuffSouth, kiosk := b.kiosk
    cause := if b.early then b.cause else cause, phase := phase, coldNext := b.coldNext, epoch := b.epoch + ticks
    lastDog := b.lastDog, dogFatal := b.dogFatal }

/-- Everything outside Table 16.10 returns to its reset value; `link` keeps the PCIe link and its configuration (R371). -/
def clearPart (s : State) (cause phase : Nat) (link : Bool) : State :=
  { State.reset with
    boot := s.boot.kept s.ticks cause phase
    flash := s.flash, owner := spoilOwner s, ksk := s.ksk, events := { State.reset.events with queue := s.events.queue }
    thm := { s.thm with regions := [], power := [] }
    mem := { MemState.init with hot := s.mem.hot, orgHot := s.mem.orgHot }
    pwr := { Power.init with alert := s.pwr.alert }
    hif := if link then { Hif.init with linkUp := s.hif.linkUp, bme := s.hif.bme, configured := s.hif.configured } else Hif.init
    hostMem := s.hostMem, hostBad := s.hostBad, draws := s.draws, pending := s.pending }

/-- A whole-part reset: bring-up starts again at step 2 (R457). -/
def wholeReset (s : State) (cause : Nat) (link : Bool) : State := clearPart s cause 2 link

/-- The part stands still by a rail loss, a lost system clock or a trip. -/
def State.down (s : State) : Bool := s.boot.railLost || s.boot.clockLost || s.thm.tripped || !s.boot.vinAux

/-- `READY_N` is released rather than low (R394, Table 18.7). -/
def State.readyN (s : State) : Bool := !s.boot.ready

/-- `NOFAULT_N` is released rather than low (R394, Table 18.7). -/
def State.noFaultN (s : State) : Bool := !s.boot.kiosk || s.boot.kioskFail || s.boot.fatal || s.down

/-- `THERMTRIP_N` is released rather than low (R446, R517). -/
def State.thermtripN (s : State) : Bool := !s.thm.tripped

/-! ## Rails, clocks and pins -/

/-- `VIN_AUX_ENTER`: all state of the VIN_AUX domain is new, and bring-up starts at step 1 (R437, R457). -/
def execVinAuxEnter (s : State) : Out :=
  if s.boot.vinAux then .next s
  else .next { State.reset with
    boot := { Boot.init with phase := 1 }, flash := s.flash, owner := s.owner, hostMem := s.hostMem, hostBad := s.hostBad
    draws := s.draws, pending := s.pending }

/-- `VIN_AUX_LEAVE`: all state but flash and fuses is lost, and the part is off (R511). -/
def execVinAuxLeave (s : State) : Out :=
  .next { State.reset with
    boot := { Boot.init with vinAux := false }, flash := s.flash, owner := spoilOwner s, hostMem := s.hostMem
    hostBad := s.hostBad, draws := s.draws, pending := s.pending }

/-- `MAIN_RAILS_IN_RANGE`: all four main rails reach their DC bands (R510); no lost rail restarts by this alone (R513). -/
def execMainRailsInRange (s : State) : Out :=
  if !s.boot.vinAux || s.boot.railLost then .next s
  else .next { s with boot := { s.boot with rails := true, railsSeen := true } }

/-- `MAIN_RAILS_REMOVED`: the board removes the main rails under R511 or R512. -/
def execMainRailsRemoved (s : State) : Out :=
  if s.boot.perst || s.thm.tripped then .next { s with boot := { s.boot with rails := false, railsSeen := false } } else .next s

/-- Stop everything without a restart: clocks, switches and regulators off, the link down (R446, R513, R516). -/
def stopPart (s : State) (cause : Nat) : State := clearPart s cause 0 false

/-- `MAIN_RAIL_LOST`: a main rail is lost, and the part stops until it restarts (R513). -/
def execMainRailLost (s : State) : Out :=
  if s.boot.railsSeen && !s.boot.perst && !s.thm.tripped && s.boot.vinAux then
    let t := stopPart s 7
    .next { t with boot := { t.boot with railLost := true, rails := false, railsSeen := false } }
  else .next s

/-- Bring-up starts at step 2 once nothing holds the part. -/
def restart (s : State) : State := if s.down then s else { s with boot := { s.boot with phase := 2, since := s.ticks } }

/-- `RAIL_LOSS_RESTART`: the main rails have been back for 10 ms (R513). -/
def execRailLossRestart (s : State) : Out :=
  if s.boot.railLost then
    .next (restart { s with boot := { s.boot with railLost := false, rails := true, railsSeen := true } })
  else .next s

/-- `REFCLK_SYS_LOST`: the part acts as on a rail loss (R516). -/
def execRefclkSysLost (s : State) : Out :=
  if s.boot.perst || s.thm.tripped || !s.boot.vinAux || s.boot.clockLost || !s.boot.railsSeen then .next s
  else
    let t := stopPart s 8
    .next { t with boot := { t.boot with clockLost := true } }

/-- `REFCLK_SYS_RESTORED`: the clock has been within its limits for 10 ms (R516). -/
def execRefclkSysRestored (s : State) : Out :=
  if s.boot.clockLost then .next (restart { s with boot := { s.boot with clockLost := false } }) else .next s

/-- `AUX_CLK_LOST`: the Kiosk moves to its internal oscillator until VIN_AUX next enters its range (R516). -/
def execAuxClkLost (s : State) : Out :=
  if s.boot.vinAux then .next { s with boot := { s.boot with auxLost := true } } else .next s

/-- `PCIE_PERST_N_ASSERT`: a whole-part reset; while the part already waits before step 2, is in step 1, or is held by a trip
or a lost rail, nothing restarts (R371, R457, R514). -/
def execPciePerstNAssert (s : State) : Out :=
  let t := { s with boot := { s.boot with perst := true } }
  if s.boot.waits || s.down then .next { t with hif := { t.hif with linkUp := false } }
  else .next (wholeReset t 1 false)

/-- `PCIE_PERST_N_DEASSERT`: the wait before step 2 ends (R457). -/
def execPciePerstNDeassert (s : State) : Out := .next { s with boot := { s.boot with perst := false } }

/-- `PCIE_LINK_UP`: the link finishes training (R371). -/
def execPcieLinkUp (s : State) : Out :=
  if s.boot.perst || s.down || !s.boot.rails then .next s else .next { s with hif := { s.hif with linkUp := true } }

/-- `HOT_RESET`: a hot reset of the link causes a whole-part reset (R371). -/
def execHotReset (s : State) : Out := if s.hif.linkUp then .next (wholeReset s 2 false) else .next s

/-- `LINK_LOST`: loss of the PCIe link causes a whole-part reset (R371). -/
def execLinkLost (s : State) : Out := if s.hif.linkUp then .next (wholeReset s 3 false) else .next s

/-- `RESET_SCOPE_3_BEGIN`: 10 µs after its completion, a scope-3 reset begins (R390). -/
def execResetScope3Begin (s : State) : Out :=
  match s.boot.scope3 with
  | some t => if t + 10 ≤ s.us then .next (wholeReset s 4 true) else .next s
  | none => .next s

/-- Sites usable for logical use. -/
def State.usableSites (s : State) : Nat := ((List.range 880).filter (fun i => (s.site i).usable)).length

/-- Withdrawn clusters, by `CLUSTER_DESC`. -/
def State.withdrawnCount (s : State) : Nat := ((List.range 40).filter (fun c => (clusterDesc s c).getLsbD 5)).length

/-- `SITE_COUNT` (Table 16.12). -/
def siteCount (s : State) : Word :=
  BitVec.ofNat 32 (s.usableSites + 2 ^ 10 * s.boot.coreFails.length + 2 ^ 20 * s.withdrawnCount)

/-- `TEST_FAULTS` (Table 16.12). -/
def testFaults (s : State) : Word := BitVec.ofNat 32 (s.boot.faults % 65536 + 65536 * (s.boot.spares % 65536))

/-- The boot event of Table 17.3. -/
def bootEvent (s : State) (sub : Nat) : State :=
  healthEvent s 10 sub (leBytes 1 s.boot.fail ++ leBytes 1 (b2n s.boot.warm) ++ leBytes 2 0 ++ leBytes 4 (siteCount s).toNat
    ++ leBytes 4 (testFaults s).toNat)

/-- `WATCHDOG_EXPIRY`: Torzan has not serviced the watchdog: the jobs halt and a whole-part reset follows; a second expiry
within one hour stops the bring-up that follows (R470). -/
def execWatchdogExpiry (s : State) : Out :=
  if !s.boot.kiosk || s.down || (s.boot.phase ≤ 3 && !s.boot.ready && !s.boot.fatal) then .next s
  else
    let again := s.boot.lastDog ≠ 0 && s.auxUs < s.boot.lastDog - 1 + 3600000000
    let s := bootEvent { s with boot := { s.boot with lastDog := s.auxUs + 1, dogFatal := again } } 2
    .next (wholeReset s 6 true)

/-! ## The steps of bring-up (Table 16.1) -/

/-- Bring-up is in step `n`. -/
def State.inStep (s : State) (n : Nat) : Bool := s.boot.phase = n && !s.boot.fatal && !s.boot.ready && !s.down

/-- Step `n` has ended: its duration in ms is written, and the next one begins (R456, R488; rounded down, log 19). -/
def endStep (s : State) (n : Nat) : State :=
  { s with boot := { s.boot with
      phase := n + 1, since := s.ticks, ms := Tbl.set 0 s.boot.ms n ((s.ticks - s.boot.since) / 1600000) } }

/-- Bring-up stops (R471, Table 16.4). -/
def bootFatal (s : State) (fail : Nat) : State :=
  bootEvent { s with
    boot := { s.boot with fatal := true, fail := fail }
    pwr := { s.pwr with sites := s.pwr.sites.map (fun e => (e.1, { e.2 with dom := .gated })) } } 1

/-- `AUX_START`, step 1: the Kiosk starts its boot ROM (R394, R456). -/
def execAuxStart (s : State) : Out :=
  if s.boot.vinAux && s.boot.phase ≤ 1 && !s.boot.kiosk && !s.boot.ready then
    .next (endStep { s with boot := { s.boot with kiosk := true } } 1)
  else .next s

/-- `KIOSK_BOOT`, step 2: self-test, and the boot record read, `copy` when a copy of it passes its CRC (R471, R473). -/
def execKioskBoot (selfTest copy : Bool) (s : State) : Out :=
  if !s.inStep 2 || s.boot.perst then .next s
  else if !selfTest || s.boot.dogFatal then
    .next (bootFatal { s with boot := { s.boot with kioskFail := !selfTest, dogFatal := false } } 5)
  else
    let seq := match (if copy then s.flash.boot else none) with
      | some r => r.seq + 1
      | none => 1
    .next (endStep { s with boot := { s.boot with recordRead := copy && s.flash.boot.isSome, seq := seq } } 2)

/-- The component `c` of the firmware. -/
def State.fw (s : State) (c : Nat) : FwComp := Tbl.get FwComp.init s.flash.fw c

/-- The bank that runs, `true` for B: the newest that verifies, else the other (R2, R393, R458). -/
def FwComp.pick (x : FwComp) (okA okB : Bool) : Option Bool :=
  let a := okA && x.a.isSome
  let b := okB && x.b.isSome
  if a && b then some x.bNewer else if b then some true else if a then some false else none

/-- `FIRMWARE_CHECK`, step 3: both banks of every component are checked; bit c of an operand is component c + 1 (R458). -/
def execFirmwareCheck (okA okB : BitVec 3) (s : State) : Out :=
  if !s.inStep 3 then .next s
  else
    let pick := fun c => (s.fw (c + 1)).pick (okA.getLsbD c) (okB.getLsbD c)
    match pick 0, pick 1, pick 2 with
    | none, _, _ => .next (bootFatal s 1)
    | some _, none, _ => .next (bootFatal s 2)
    | some _, some _, none => .next (bootFatal s 3)
    | some t, some c, some o =>
      let banks := (((Tbl.set false [] 0 t) |> fun m => Tbl.set false m 1 c) |> fun m => Tbl.set false m 2 o)
      let fw := s.flash.fw.map (fun e => (e.1, { e.2 with staged := false }))
      .next (endStep { s with
        boot := { s.boot with banks := banks }
        flash := { s.flash with fw := fw.filter (fun e => e.2 ≠ FwComp.init) } } 3)

/-- The fused and recorded fields of every site (R459, R494). -/
def loadSites (s : State) (m : FuseMap) (age : Nat → Option Nat) : State :=
  m.sites.zipIdx.foldl (fun s e =>
    let s := s.modSite e.2 (fun x => { x with stress := e.1.stress, fmax := e.1.fmax, retired := e.1.retired })
    s.modSitePwr e.2 (fun p => { p with ageGb := max e.1.ageGb0 ((age e.2).getD 0) })) s

/-- The boot record is accepted and the boot is warm (R474). -/
def Boot.isWarm (b : Boot) (m : FuseMap) (r : Option BootRecord) : Bool × Bool :=
  let ok := b.recordRead && r.any (fun r => r.serial = m.serial && r.fuseCrc = m.crc)
  (ok, ok && !b.coldNext)

/-- Lock the region PLLs at code 0 (R537). -/
def lockPlls (s : State) : State := (List.range 5).foldl (fun s r => s.modClk r (fun c => { c with locked := true, now := 0 })) s

/-- `FUSE_LOAD`, step 4: the first copy whose CRC matches is taken, the PCIe controller configured, and the boot chosen cold
or warm; `health` when a copy of the health record passes its CRC (R459, R474, R494). -/
def execFuseLoad (c0 c1 : Option FuseMap) (health : Bool) (s : State) : Out :=
  if !s.inStep 4 || !s.boot.rails then .next s
  else
    match c0.or c1 with
    | none => .next (bootFatal s 4)
    | some m =>
      let w := s.boot.isWarm m s.flash.boot
      let h := if health then s.flash.health.filter (fun h => h.serial = m.serial) else none
      let last := (h.bind (fun h => h.points.getLast?)).getD LifePoint.init
      let s := loadSites s m (fun i => h.map (fun h => Tbl.get 0 h.ageGb i))
      let s := { s with
        pwr := { s.pwr with vf := m.vf.foldl (fun t e => Tbl.set 0 t e.1 e.2) [] }
        hif := { s.hif with configured := true }
        hlt := { s.hlt with
          recordOk := h.isSome, firstUse := h.isNone, modelReady := h.any (fun h => 720 ≤ h.hours)
          base := { last with calendar := last.calendar + Config.offTime last.powered }
          baseAt := s.auxUs, accruedAt := s.auxUs, stress := last.stress }
        boot := { s.boot with
          fuse := some m, fuseCopy := c0.isNone, fuseBad := c0.isNone || c1.isNone, recordOk := w.1, warm := w.2
          -- a cold boot that reaches step 5 clears COLD_NEXT
          coldNext := false } }
      .next (lockPlls (endStep s 4))

/-- The codes that a warm boot sweeps: the 9 centred on the recorded code (R460). -/
def nearCodes (c : Nat) : BitVec 64 := BitVec.ofNat 64 ((List.range 64).foldl (fun m i => if c ≤ i + 4 && i ≤ c + 4 then m + 2 ^ i else m) 0)

/-- The code a bundle takes at a boot, if any sweep passes (R460). -/
def bootCode (s : State) (k : Nat) (x : Option SweepResult) : Option Nat :=
  let all := BitVec.allOnes 64
  let recd := match s.flash.boot with
    | some r => Tbl.get 0 r.seams k % 64
    | none => 0
  let near := (if s.boot.warm then (x.map (·.near)).getD all &&& nearCodes recd else 0)
  let draw := s.draws + k
  (sweepCode draw near).or ((sweepCode draw ((x.map (·.first)).getD all)).or (sweepCode draw ((x.map (·.second)).getD all)))

/-- Links of the routing graph that failed bundles cut: vertical mesh links and gateway links (R460, Table 1.9). -/
def deadLinks (s : State) : List (Nat × Nat) :=
  (List.range 220).flatMap (fun p =>
    ((List.range 3).filter (fun l => s.vertDead l p)).map (fun l => (l * 220 + p, (l + 1) * 220 + p)) ++
    (if [0, 1, 2].any (fun j => (s.bundle (j * 220 + p)).failed) then [(p, rowGate (p / 22))] else []))

/-- The Seams of a layer's vertical memory channels (Table 1.9). -/
def channelSeams (l : Nat) : List Nat := (List.range 15).filter (fun j => channelLayer j = some l)

/-- `SEAM_CALIBRATION`, step 5: every bundle takes the code of its sweep, or has failed; a bundle that is not listed passes at
every code. A bundle that has failed holds code 0 (R460, log 87). -/
def execSeamCalibration (sweeps : List SweepResult) (s : State) : Out :=
  if !s.inStep 5 then .next s
  else
    let t := (List.range 3300).foldl (fun t k =>
      let c := bootCode s k (sweeps.find? (fun x => x.seam.val * 220 + x.pos.val = k))
      t.modBundle k (fun _ => { code := c.getD 0, failed := c.isNone, retuning := false, boot := c.getD 0 })) (s.drawn 3300)
    let t := (List.range 880).foldl (fun t i => t.modSite i (fun x =>
      { x with vchOk := (channelSeams (i / 220)).all (fun j => !(t.bundle (j * 220 + i % 220)).failed) })) t
    .next (endStep { t with retunes := [], tr := { t.tr with badLinks := deadLinks t } } 5)

/-- `PLOT_AND_ORANGERY_TRAINING`, step 6 (R461). -/
def execPlotAndOrangeryTraining (badPlots : List Site) (badStacks : List (Fin 6)) (s : State) : Out :=
  if !s.inStep 6 then .next s
  else
    let s := badPlots.foldl (fun s i => s.modSite i (fun x => { x with vchOk := false })) s
    .next (endStep ((List.range 6).foldl (fun s k =>
      let ok := !badStacks.any (fun b => b.val = k)
      s.modStack k (fun t => { t with linkUp := ok, trained := ok })) s) 6)

/-- `TRELLIS_START`, step 7: every router, interface and link is tested, and the routing graph is formed; one that is not
connected stops bring-up (R229, R462). -/
def execTrellisStart (dark : List (BitVec 10)) (bad : List (BitVec 10 × BitVec 10)) (s : State) : Out :=
  if !s.inStep 7 then .next s
  else
    let t := formGraph s (dark.map (·.toNat)) (s.tr.badLinks ++ bad.map (fun e => (e.1.toNat, e.2.toNat)))
    if t.tr.connected then
      .next (endStep ((List.range 880).foldl (fun t i => t.modSite i (fun x => { x with niOk := (t.router i).present })) t) 7)
    else .next (bootFatal t 6)

/-- `CORE_FIRMWARE`, step 8: the image is broadcast; `fetched` sites took a bring-up copy, `bad` ones have no good copy (R463). -/
def execCoreFirmware (fetched bad : List Site) (s : State) : Out :=
  if !s.inStep 8 then .next s
  else .next (endStep { s with boot := { s.boot with
    fallback := (fetched.dedup).length, coreFails := (bad.map (·.val)).dedup } } 8)

/-! ## Memory test and repair (R464 to R467) -/

/-- Kind of the row entry of a store (Table 7.7). -/
def rowKind (store : Nat) : Nat := [1, 3, 5, 7].getD store 1
/-- Kind of the column-group entry of a store; a feeder store has none. -/
def colKind (store : Nat) : Nat := [2, 4, 6, 0].getD store 2

/-- A column group that fails in four or more rows of its bank (R466). -/
def columnFails (fs : List WordFault) (f : WordFault) : Bool :=
  f.store ≠ 3 && 4 ≤ (((fs.filter (fun g => g.store = f.store && g.unit = f.unit && g.bank = f.bank && g.col = f.col)).map (·.row)).dedup).length

/-- The test fault list of failing words (R466). -/
def faultList (fs : List WordFault) : List Repair :=
  (fs.map (fun f => if columnFails fs f then { kind := colKind f.store, unit := f.unit, bank := f.bank, index := f.col : Repair }
    else { kind := rowKind f.store, unit := f.unit, bank := f.bank, index := f.row })).dedup

/-- The soft repair map that a boot applies: the one accepted for it, else on a warm boot the stored one (R467). -/
def State.softMap (s : State) : List Repair := (s.boot.soft.or (if s.boot.warm then s.flash.soft else none)).getD []

/-- `MEMORY_TEST`, step 9: the sites that fail phase a, and the failing words of the phases c and d; memory reads zero at its
end (R464 to R466). -/
def execMemoryTest (failed : List Site) (words : List WordFault) (s : State) : Out :=
  if !s.inStep 9 then .next s
  else
    let bad := (List.range 880).filter (fun i =>
      !(s.router i).present || !(s.site i).vchOk || s.boot.coreFails.contains i || failed.any (fun x => x.val = i))
    let fuse := (s.boot.fuse.map (·.repairs)).getD []
    let list := faultList words
    let s := (List.range 880).foldl (fun s i => s.modSite i (fun x => { x with passed := !bad.contains i })) s
    let s := { s with
      boot := { s.boot with
        coreFails := bad, tests := list, faults := list.length
        verified := list.any (fun r => !fuse.contains r && !s.softMap.contains r) }
      mem := { s.mem with bytes := [], valid := [], flaws := [], byteFlaws := [], mapFlaws := [], merges := [], writeBacks := [], held := [] } }
    .next (endStep (bad.foldl (fun s i => siteEvent s 0 i (i / 22)) s) 9)

/-- Spare rows or column groups in a bank or macro (Table 7.6). -/
def sparesOf (kind : Nat) : Nat := [0, 32, 4, 64, 8, 8, 2, 2, 0].getD kind 0

/-- Spares of a kind taken in a bank. -/
def State.sparesTaken (s : State) (kind unit bank : Nat) : Nat :=
  (s.boot.repairs.filter (fun r => r.kind = kind && r.unit = unit && r.bank = bank)).length

/-- The frames that hold a row, or any row of a column group (R217, R253; log 23). -/
def repairFrames (r : Repair) : List Nat := if r.kind = 3 then [r.index / 64] else List.range 1536

/-- Apply one entry (R217). -/
def applyRepair (s : State) (r : Repair) : State :=
  if s.boot.repairs.contains r then s
  else if r.kind = 8 then
    (s.modSite r.unit (fun x => { x with retired := true }))
  else if s.sparesTaken r.kind r.unit r.bank < sparesOf r.kind then
    { s with boot := { s.boot with repairs := s.boot.repairs ++ [r] } }
  else
    let s := logError s (mkDa (if r.kind = 3 || r.kind = 4 then 4 else if r.kind = 7 then 0 else if r.kind ≤ 2 then 2 else 1) r.unit 0) 9 9 0xFF 0 0 none 0
    if r.kind = 3 || r.kind = 4 then
      s.modStack r.unit (fun t => { t with withdrawn := (t.withdrawn ++ repairFrames r).dedup })
    else s.modSite r.unit (fun x => { x with retired := true })

/-- `REPAIR`, step 10: fuse map, soft repair map, on a warm boot the recorded test list, and this boot's (R217, R467). -/
def execRepair (s : State) : Out :=
  if !s.inStep 10 then .next s
  else
    let first := (s.boot.fuse.map (·.repairs)).getD [] ++ s.softMap
      ++ (if s.boot.warm then (s.flash.boot.map (·.tests)).getD [] else [])
    let s := first.foldl applyRepair s
    let n := s.boot.repairs.length
    let s := s.boot.tests.foldl applyRepair s
    .next (endStep { s with boot := { s.boot with spares := s.boot.repairs.length - n } } 10)

/-! ## The logical map (R468, R475) -/

/-- The boot record of this boot (R473). -/
def bootRecord (s : State) (m : FuseMap) : BootRecord :=
  let old := if s.boot.warm then s.flash.boot else none
  { serial := m.serial, seq := s.boot.seq, fuseCrc := m.crc
    lastCold := match old with
      | some r => r.lastCold
      | none => s.boot.seq
    tests := ((old.map (·.tests)).getD [] ++ s.boot.tests).dedup.take 4096
    seams := (List.range 3300).foldl (fun t k =>
      let b := s.bundle k
      Tbl.set 0 t k (b.code + 64 * b2n b.failed)) [] }

/-- Health of site `i`. -/
def State.siteHlt (s : State) (i : Nat) : SiteHealth := Tbl.get SiteHealth.init s.hlt.sites i

/-- Change the health of a site. -/
def State.modSiteHlt (s : State) (i : Nat) (f : SiteHealth → SiteHealth) : State :=
  { s with hlt := { s.hlt with sites := Tbl.modify SiteHealth.init s.hlt.sites i f } }

/-- Insert into an ascending list. -/
def insertRat (x : Rat) : List Rat → List Rat
  | [] => [x]
  | y :: ys => if x ≤ y then x :: y :: ys else y :: insertRat x ys

/-- The middle of a list of measurements, the mean of the middle two of an even number. -/
def median (xs : List Rat) : Rat :=
  let ys := xs.foldl (fun a x => insertRat x a) []
  (ys.getD ((ys.length - 1) / 2) 0 + ys.getD (ys.length / 2) 0) / 2

/-- The drift of a site: the median of its last 5 measurements, never below 0 (R490). -/
def SiteHealth.drift (x : SiteHealth) : Rat := max 0 (median x.drifts)

/-- Where the spare rows of a bank are counted in a `LifePoint`; none for other repairs (Table 17.1). -/
def spareKey (r : Repair) : Option Nat :=
  if r.kind = 1 then some (r.unit * 32 + r.bank) else if r.kind = 3 then some (28160 + 1024 * r.unit + r.bank) else none

/-- The wear quantities as they stand, in powered and calendar time (R493, R495). -/
def State.lifePoint (s : State) : LifePoint :=
  { powered := s.hlt.base.powered + (s.auxUs - s.hlt.baseAt)
    calendar := s.hlt.base.calendar + (s.auxUs - s.hlt.baseAt)
    stress := s.hlt.stress
    spares := (s.boot.repairs.filterMap spareKey).foldl (fun t k => Tbl.modify 0 t k (· + 1)) []
    eff := (List.range 880).foldl (fun t i => Tbl.set 0 t i (s.siteHlt i).eff) []
    ratio := (List.range 15).foldl (fun t j => Tbl.set 0 t j (Tbl.get SeamHealth.init s.seams j).ratio) [] }

/-- One day in µs. -/
def dayUs : Nat := 86400000000

/-- The health record as it stands, going on from an earlier one: a point of this moment, and at every 30 days of powered time a
point of each site's drift (R493). -/
def healthRecord (s : State) (old : Option HealthRecord) : HealthRecord :=
  let p := s.lifePoint
  let points := (old.map (·.points)).getD [] ++ [p]
  let drifts := (old.map (·.drifts)).getD []
  let next := 1 + ((drifts.map (fun e => e.2.length)).foldl max 0)
  { serial := (s.boot.fuse.map (·.serial)).getD 0
    ageGb := (List.range 880).foldl (fun t i => Tbl.set 0 t i (s.sitePwr i).ageGb) []
    hours := (old.map (·.hours)).getD 0
    points := points.drop (((points.filter (fun x => x.powered + 365 * dayUs ≤ p.powered)).length) - 1)
    drifts := if next * 30 * dayUs ≤ p.powered then
        (List.range 880).foldl (fun t i => Tbl.modify [] t i (· ++ [(Tbl.get 0 p.stress i, (s.siteHlt i).drift)])) drifts
      else drifts
    life := (s.hlt.life, s.hlt.limit) }

/-- `LOGICAL_MAP_BUILD`, step 11: the map, clusters, `FMAX_REGION`, translation tables and both records; no cluster left stops
bring-up (R46, R468, R471, R493). -/
def execLogicalMapBuild (s : State) : Out :=
  if !s.inStep 11 then .next s
  else
    let s := (List.range 40).foldl assignRow s
    let s := (List.range 40).foldl (fun s c => { s with clusters := Tbl.set clusterDescReset s.clusters c (clusterWord s c) }) s
    let gone := (List.range 40).filter s.withdrawn
    let s := gone.foldl (fun s c => siteEvent s 3 (rowSite c 0) c) s
    if gone.length = 40 then .next (bootFatal s 7)
    else
      let s := sendMapUpd ((List.range 5).foldl setFmax s) (List.range 40)
      let s := (List.range 880).foldl (fun s i => s.modSitePwr i (fun p =>
        { p with dom := if (s.site i).state = 1 then .on else .gated, idleSince := s.us })) s
      .next (endStep { s with flash := { s.flash with
        boot := (s.boot.fuse.map (bootRecord s)).or s.flash.boot
        health := some (healthRecord s (if s.hlt.recordOk then s.flash.health else none)) } } 11)

/-- A loaded job occupies a node that covers the cluster, or claims a Commons plot numbered for it; an ended or faulted job
keeps its claims until its teardown (R166, R475, R536). -/
def State.rowTaken (s : State) (cl : Nat) : Bool :=
  s.jobs.any (fun j => (s.nodeClusters j.node).contains cl ||
    j.claims.any (fun c => c.kind = 3 && c.unit < 2 * cl + 2 && 2 * cl < c.unit + c.length))

/-- A site that leaves logical use is power-gated, and its requests for permits go; one that enters it stays gated until a
job or an access powers it (R24, R402). `s` is the part before the rebuild. -/
def gateRow (s t : State) (cl : Nat) : State :=
  ((clusterSites cl).filter (fun i => (s.site i).state = 1 && (t.site i).state ≠ 1)).foldl (fun t i =>
    (t.modSitePwr i (fun p => { p with dom := .gated, canopyDue := t.us + 1 })).modZone (zoneOf i) (fun z =>
      { z with waiting := z.waiting.filter (fun r => r.site ≠ i) })) t

/-- `JOB_BOUNDARY`: a row with a pending change reaches a job boundary, and its map is rebuilt (R475). -/
def execJobBoundary (cl : Fin 40) (s : State) : Out :=
  if !Tbl.get false s.rowPending cl || s.rowTaken cl || !s.boot.ready then .next s
  else
    let t := gateRow s (rebuildRow s cl) cl
    let moved := ((clusterSites cl).find? (fun i => (t.site i).state ≠ (s.site i).state || (t.site i).lcol ≠ (s.site i).lcol)).getD (rowSite cl 0)
    let t := sendMapUpd (setFmax t (regionOf cl)) [cl.val]
    let t := siteEvent t (if t.withdrawn cl && !s.withdrawn cl then 3 else 2) moved cl
    .next { t with
      rowPending := Tbl.set false t.rowPending cl false
      boot := { t.boot with remaps := satAdd t.boot.remaps 1 } }

end Sys2Proof.Machine
end

