-- ==== Sys2Proof/Machine/Serving.lean ====
section
/-! DEFINITION. The batcher: pages, serving state, batch expansion ("Attention, KV pages and bulk serving" R285 to R309). -/

namespace Sys2Proof.Machine

/-! ## Pages, ledger and free stack (R287, R295, R297) -/

/-- Reference count of a page. -/
def svCount (p : Nat) : SvM Nat := svGet (0xC000 + 2 * p) 2
/-- Attribute word of a page. -/
def svAttr (p : Nat) : SvM Nat := svGet (0x14000 + 2 * p) 2
/-- Area offset of entry `e` of slot `i` in a stream's page table (R290). -/
def pteOfs (g : SvStream) (i e : Nat) : Nat := g.pt + 2 * g.entries * i + 2 * e
/-- `TOP`. -/
def svTop : SvM Nat := svGet 0x1C000 4

/-- Take the page at the top of the free stack, with count 1 and no attributes. -/
def svPop : SvM Nat := do
  let t ← svTop
  let p ← svGet (0x1C004 + 2 * (t - 1)) 2
  svPut 0x1C000 4 (t - 1)
  svPut (0xC000 + 2 * p) 2 1
  svPut (0x14000 + 2 * p) 2 0
  pure p

/-- The binding's hot slot is free once the head word has passed every post accepted so far (R297). -/
def svFreeHot (slot : Nat) : SvM Unit := fun v =>
  ((), { v with st := { v.st with sv := Tbl.modify none v.st.sv v.lc (fun b => b.map (fun b =>
    { b with freed := b.freed.filter (fun e => e.1 ≠ slot) ++ [(slot, (Tbl.get SiteQueue.init v.st.tr.queues b.qn).tail)] })) } })

/-- Drop the hot copy of a page, if it has one, and clear `FULL` where asked (R295, R296, R297). -/
def svDropHot (p : Nat) (keepFull : Bool) : SvM Unit := do
  let a ← svAttr p
  if bit a 15 then svFreeHot (bits a 9 0)
  svPut (0x14000 + 2 * p) 2 (if keepFull then a % 2 ^ 15 / 2 ^ 14 * 2 ^ 14 else 0)

/-- Release one reference; a page without any returns to the free stack (R295). -/
def svRelease (p : Nat) : SvM Unit := do
  let n ← svCount p
  svPut (0xC000 + 2 * p) 2 (n - 1)
  if n = 1 then
    svDropHot p false
    let t ← svTop
    svPut (0x1C004 + 2 * t) 2 p
    svPut 0x1C000 4 (t + 1)
    svAdd (72 + 32) 8 1

/-- Copy bytes of the core's stores, poison included (R210, R297). -/
def svCopy (src dst n : Nat) : SvM Unit := fun v =>
  let f := memFetch v.st 0xFF none src n
  ((), { v with st := memWriteBad f.st none dst f.bytes f.bad })

/-- DA of a page (R287). -/
def pageDa (h : SvHead) (lc p : Nat) : Nat := mkDa 2 lc (h.pool + p * h.pb)

/-- Make the page of an entry writable: copied when its count is above 1; the answer is the page and whether it was copied
(R297). -/
def svOwn (h : SvHead) (g : SvStream) (lc i e : Nat) : SvM (Nat × Bool) := do
  let p ← svGet (pteOfs g i e) 2
  let n ← svCount p
  if n ≤ 1 then pure (p, false)
  else
    let a ← svAttr p
    let q ← svPop
    svCopy (pageDa h lc p) (pageDa h lc q) g.pb
    svPut (0x14000 + 2 * q) 2 (a % 2 ^ 15 / 2 ^ 14 * 2 ^ 14)
    svPut (0xC000 + 2 * p) 2 (n - 1)
    svPut (pteOfs g i e) 2 q
    svAdd 80 8 1
    pure (q, true)

/-- Set `FULL` of a page. -/
def svFull (p : Nat) : SvM Unit := do
  let a ← svAttr p
  svPut (0x14000 + 2 * p) 2 (a % 2 ^ 14 + 2 ^ 14 + a / 2 ^ 15 * 2 ^ 15)

/-! ## Rows (R300) -/

/-- A stream's ring is wrapped at length `l` (R296). -/
def SvStream.wrapped (g : SvStream) (l : Nat) : Bool := g.ring ≠ 0 && 64 * g.ring ≤ l

/-- Entry of position `p` (R296). -/
def SvStream.entry (g : SvStream) (p : Nat) : Nat := if g.ring = 0 then p / 64 else p / 64 % g.ring

/-- Pages fetched for a row at length `l` (R300). -/
def SvStream.fetches (g : SvStream) (fill : Bool) (l : Nat) : Nat :=
  if fill then l / 64 else if g.ring = 0 then l / 64 + 1 else min g.ring (l / 64 + 1)

/-- New pages that a row needs in a stream (R300). -/
def SvStream.news (g : SvStream) (fill : Bool) (l count : Nat) : Nat :=
  if fill then (count + 63) / 64 else if l % 64 = 0 && !g.wrapped l then 1 else 0

/-- `SV_RANGE` of a row in a stream (R300 step 2). -/
def SvStream.outOfRange (g : SvStream) (fill : Bool) (l count : Nat) : Bool :=
  if fill then l % 64 ≠ 0 || 64 * (if g.ring = 0 then g.entries else g.ring) < l + count || g.writes < (count + 63) / 64
  else g.ring = 0 && 64 * g.entries < l + 1

/-- Copies on write that a decode row at length `l` needs (R297). -/
def svCows (h : SvHead) (i l : Nat) (fill : Bool) : SvM Nat := do
  if fill then pure 0
  else
    h.streams.foldlM (fun n g => do
      if l % 64 = 0 && !g.wrapped l then pure n
      else
        let p ← svGet (pteOfs g i (g.entry l)) 2
        let c ← svCount p
        pure (if 1 < c then n + 1 else n)) 0

/-- Why a row is deferred; 0 when it passes (R300). -/
def svRowStatus (h : SvHead) (fill : Bool) (seen : List Nat) (i count : Nat) : SvM Nat := do
  if h.slots ≤ i || seen.contains i then pure 0x31
  else
    let st ← svGet (slotOfs i) 1
    let l ← svGet (slotOfs i + 4) 4
    let tenant ← svGet (slotOfs i + 1) 1
    if st ≠ 1 then pure 0x31
    else if h.streams.any (fun g => g.outOfRange fill l count) then pure 0x35
    else if h.streams.any (fun g => g.budget < g.fetches fill l) then pure 0x36
    else
      let news := (h.streams.map (fun g => g.news fill l count)).sum
      let quota ← svGet (0x200 + 16 * tenant) 4
      let used ← svGet (0x204 + 16 * tenant) 4
      if news ≠ 0 && quota < used + news then
        let r ← svGet (0x208 + 16 * tenant) 4
        svPut (0x208 + 16 * tenant) 4 (min 0xFFFFFFFF (r + 1))
        pure 0x32
      else
        let cows ← svCows h i l fill
        let top ← svTop
        pure (if top < news + cows then 0x33 else 0)

/-- Apply a row to one stream: pages allocated, recycled or copied; `FULL`; the counts of copies (R296, R297, R300). -/
def svApply (h : SvHead) (lc i l count : Nat) (fill : Bool) (g : SvStream) : SvM Nat := do
  if fill then
    for w in List.range ((count + 63) / 64) do
      let p ← svPop
      svAdd 96 8 1
      svPut (pteOfs g i (l / 64 + w)) 2 p
      if 64 * (w + 1) ≤ count then svFull p
    pure 0
  else
    let e := g.entry l
    let mut copied := false
    if l % 64 = 0 && !g.wrapped l then
      let p ← svPop
      svAdd 96 8 1
      svPut (pteOfs g i e) 2 p
    else
      let r ← svOwn h g lc i e
      copied := r.2
      -- an append at offset 0 recycles the entry's page in place (R296); a copy keeps `FULL` as R297 copied it (log 32)
      if l % 64 = 0 && !r.2 then svDropHot r.1 false
    if l % 64 = 63 then
      let p ← svGet (pteOfs g i e) 2
      svFull p
    pure (b2n copied)

/-! ## Outputs (R301, R302, R307) -/

/-- A descriptor (Table 6.8) of one row, or of rows with strides. -/
def svDesc (src dst len rows ss ds : Nat) : List Byte :=
  leBytes 8 src ++ leBytes 8 dst ++ leBytes 4 len ++ leBytes 4 rows ++ leBytes 4 ss ++ leBytes 4 ds ++ leBytes 32 0

/-- A mask record of Table 12: word 1 of each tile, word 4 of both (Table 10.12). -/
def svMask (a b w4 : Nat) : List Byte :=
  leBytes 4 0 ++ leBytes 4 a ++ leBytes 8 0 ++ leBytes 4 w4 ++ leBytes 12 0
    ++ leBytes 4 0 ++ leBytes 4 b ++ leBytes 8 0 ++ leBytes 4 w4 ++ leBytes 12 0

/-- Landing buffer of triple j (R302). -/
def landDa (h : SvHead) (g : SvStream) (lc j : Nat) : Nat := mkDa 0 lc (h.landOfs + j % h.land * g.pb)

/-- The dummy plot descriptor. -/
def svPlotDummy (h : SvHead) (lc : Nat) : List Byte := svDesc (mkDa 2 lc h.padPlot) (mkDa 0 lc h.scratch) 64 0 0 0
/-- The dummy Canopy descriptor. -/
def svCanDummy (h : SvHead) (lc : Nat) : List Byte := svDesc (mkDa 1 lc h.padCan) (mkDa 0 lc h.scratch) 64 0 0 0

/-- A pad triple (R302, R307). -/
def svPad (h : SvHead) (g : SvStream) (lc j : Nat) : List Byte :=
  svPlotDummy h lc ++ svDesc (mkDa 1 lc h.padCan) (landDa h g lc j) g.pb 0 0 0 ++ svMask 0 0 0xFFFFFFFF

/-- The mask record of a real triple (R307). -/
def svMaskOf (g : SvStream) (fill newest : Bool) (l : Nat) : List Byte :=
  let r := l % 64
  if !fill && newest && !g.wrapped l then svMask ((2 ^ 32 - r - 1) % 2 ^ 32) ((2 ^ 32 + 32 - r - 1) % 2 ^ 32) 64 else svMask 0 0 0

/-- A real triple: the page from the plot or from its hot slot (R302). -/
def svTriple (h : SvHead) (g : SvStream) (lc j p : Nat) (mask : List Byte) : SvM (List Byte) := do
  let a ← svAttr p
  let dst := landDa h g lc j
  if bit a 15 then
    pure (svPlotDummy h lc ++ svDesc (mkDa 1 lc (h.hot + bits a 9 0 * h.pb)) dst g.pb 0 0 0 ++ mask)
  else pure (svDesc (pageDa h lc p) dst g.pb 0 0 0 ++ svCanDummy h lc ++ mask)

/-- The fetch triples of a row at length `l` before the append (R302). -/
def svTriples (h : SvHead) (g : SvStream) (lc i l : Nat) (fill : Bool) : SvM (List Byte) := do
  let n := g.fetches fill l
  let first := if g.wrapped l && !fill then l / 64 + 1 else 0
  let pads := (List.range (g.budget - n)).flatMap (fun j => svPad h g lc j)
  (List.range n).foldlM (fun bs k => do
    let e := if g.ring = 0 then k else (first + k) % g.ring
    let p ← svGet (pteOfs g i e) 2
    let t ← svTriple h g lc (g.budget - n + k) p (svMaskOf g fill (k + 1 = n) l)
    pure (bs ++ t)) pads

/-- The dummy write descriptor. -/
def svWriteDummy (h : SvHead) (lc : Nat) : List Byte := svDesc (mkDa 0 lc h.scratch) (mkDa 2 lc h.padPlot) 64 0 0 0

/-- The write descriptors of row number `row` in stream number `gi` (R302). -/
def svWrites (h : SvHead) (g : SvStream) (gi lc row i l count : Nat) (fill : Bool) : SvM (List Byte) := do
  let real := if fill then (count + 63) / 64 else 1
  (List.range g.writes).foldlM (fun bs w => do
    if real ≤ w then pure (bs ++ svWriteDummy h lc)
    else
      let p ← svGet (pteOfs g i (if fill then l / 64 + w else g.entry l)) 2
      let da := pageDa h lc p
      if fill then pure (bs ++ svDesc (mkDa 0 lc h.fill) da g.pb 0 0 0)
      else
        let e := g.e
        let o := l % 64
        pure (bs ++ svDesc (mkDa 0 lc (h.app + (gi * 32 * h.kblk + row) * 256 * e)) (da + 1024 * e * 8 * (o / 32) + 32 * e * (o % 32))
          (32 * e) 7 (32 * e) (1024 * e))) []

/-- A row block of a pad row. -/
def svPadRow (h : SvHead) (g : SvStream) (lc : Nat) : List Byte :=
  (List.range g.budget).flatMap (fun j => svPad h g lc j) ++ (List.range g.writes).flatMap (fun _ => svWriteDummy h lc)

/-- Place of the row block of row `i` in a stream (Table 10.10). -/
def rowBlockDa (h : SvHead) (g : SvStream) (lc b row : Nat) : Nat :=
  mkDa 1 lc (h.exp + b * h.expBytes + g.area + row * (192 * g.budget + 64 * g.writes))

/-- Write the row blocks of a row that passed. -/
def svRowBlocks (h : SvHead) (lc b row i l count : Nat) (fill : Bool) : SvM Unit :=
  h.streams.zipIdx.forM (fun e => do
    let t ← svTriples h e.1 lc i l fill
    let w ← svWrites h e.1 e.2 lc row i l count fill
    svStore (rowBlockDa h e.1 lc b row) (t ++ w))

/-- What an expansion counts. -/
structure SvTally where
  /-- slots already seen -/
  seen : List Nat
  /-- rows deferred, with their reasons, in table order -/
  deferred : List (Nat × Nat)
  /-- empty rows -/
  empty : List Nat
  /-- copies on write -/
  cows : Nat
  /-- pages allocated -/
  allocs : Nat
  deriving DecidableEq, Repr

/-- One row of a batch: deferred, or applied to every stream and written out (R300 to R302). -/
def svRow (h : SvHead) (lc b seq : Nat) (fill : Bool) (t : SvTally) (row : Nat) (entry : Nat) : SvM SvTally := do
  let i := entry % 65536
  let count := entry / 65536
  let gl := mkDa 0 lc (h.gl + 64 * (b * h.kblk + row / 32) + 2 * (row % 32))
  let pad : SvM Unit := do
    svStore gl (leBytes 2 0xFFFF)
    h.streams.forM (fun g => svStore (rowBlockDa h g lc b row) (svPadRow h g lc))
  if i = 0xFFFF then
    pad
    pure { t with empty := t.empty ++ [row] }
  else
    let st ← svRowStatus h fill t.seen i count
    let t := { t with seen := t.seen ++ [i] }
    if st ≠ 0 then
      pad
      pure { t with deferred := t.deferred ++ [(row, st)] }
    else
      let l ← svGet (slotOfs i + 4) 4
      let tenant ← svGet (slotOfs i + 1) 1
      let refs ← svGet (slotOfs i + 8) 4
      let used ← svGet (0x204 + 16 * tenant) 4
      let news := (h.streams.map (fun g => g.news fill l count)).sum
      let cows ← h.streams.foldlM (fun n g => do
        let c ← svApply h lc i l count fill g
        pure (n + c)) 0
      svPut (slotOfs i + 8) 4 (refs + news)
      svPut (0x204 + 16 * tenant) 4 (used + news)
      svPut (slotOfs i + 4) 4 (if fill then l + count else l + 1)
      svPut (slotOfs i + 12) 4 seq
      svStore gl (leBytes 2 (h.rowBase + i * h.rowStride))
      svRowBlocks h lc b row i l count fill
      pure { t with cows := t.cows + cows, allocs := t.allocs + news }

/-- The batch table as 4-byte entries. -/
def svTable (ofs rows : Nat) : SvM (List Nat) := do
  (List.range rows).mapM (fun i => svGet (ofs + 4 * i) 4)

/-- A batch entry or table that R299 refuses. An empty row has no `COUNT` to check (log 31). -/
def svEntryBad (h : SvHead) (data : List Byte) : SvM Bool := do
  let kind := leField data 0 0
  let rows := leField data 2 3
  let ofs := leField data 4 7
  if data.getD 1 0 ≠ 0 || !allZero (data.drop 8) || (kind ≠ 1 && kind ≠ 2) || rows = 0 || 32 * h.kblk < rows
      || ofs % 4 ≠ 0 || ofs < 0x2000 || 0x4000 < ofs + 4 * rows then pure true
  else
    let es ← svTable ofs rows
    let w := h.streams.foldl (fun m g => min m g.writes) 64
    pure (es.any (fun e => e % 65536 ≠ 0xFFFF &&
      (if kind = 1 then e / 65536 ≠ 1 else e / 65536 = 0 || 64 * w < e / 65536)))

/-- The expansion of a batch post with its `SEQ` (R300 to R303). -/
def svExpand (data : List Byte) (seq lc : Nat) : SvM Unit := do
  let h ← svHead
  let fill := leField data 0 0 = 2
  let rows := leField data 2 3
  let b := seq % h.bexp
  let es ← svTable (leField data 4 7) rows
  let t ← es.zipIdx.foldlM (fun t e => svRow h lc b seq fill t e.2 e.1)
    { seen := [], deferred := [], empty := [], cows := 0, allocs := 0 }
  for k in List.range (32 * h.kblk - rows) do
    let row := rows + k
    svStore (mkDa 0 lc (h.gl + 64 * (b * h.kblk + row / 32) + 2 * (row % 32))) (leBytes 2 0xFFFF)
    h.streams.forM (fun g => svStore (rowBlockDa h g lc b row) (svPadRow h g lc))
  let map := (t.deferred.map (·.1) ++ t.empty).foldl (fun m i => m + 2 ^ i) 0
  let reason := (t.deferred.head?.map (·.2)).getD 0
  let record := leBytes 4 seq ++ leBytes 1 reason ++ leBytes 1 0 ++ leBytes 2 rows ++ leBytes 2 t.deferred.length ++ leBytes 2 t.cows
    ++ leBytes 2 t.allocs ++ leBytes 2 0 ++ leBytes 32 map ++ leBytes 16 0
  fun v => svStore (v.base + 0x800 + 64 * (seq % 64)) record v
  svAdd 72 8 1
  svAdd 88 8 t.deferred.length

end Sys2Proof.Machine
end

