-- ==== Sys2Proof/Machine/Posts.lean ====
section
/-! DEFINITION. Posts to site queues and Orangery queues, and the serving commands ("The Trellis on-die network" R242 to R245,
"Attention, KV pages and bulk serving" R288 to R306, "Orangery stacks and near-bank processing" R268). -/

namespace Sys2Proof.Machine

/-! ## Site queues (R242 to R245) -/

/-- Site queue `qn`. -/
def State.sq (s : State) (qn : Nat) : SiteQueue := Tbl.get SiteQueue.init s.tr.queues qn

/-- The part with a site queue changed. -/
def State.modSq (s : State) (qn : Nat) (f : SiteQueue → SiteQueue) : State :=
  { s with tr := { s.tr with queues := Tbl.modify SiteQueue.init s.tr.queues qn f } }

/-- A QN of a site queue (Table 8.6). -/
def isSiteQueue (qn : Nat) : Bool := qn < 880 * 512

/-- How a post ends (R244, R249, R268). -/
inductive PostEnd where
  /-- accepted -/
  | ok
  /-- refused with a status -/
  | refused (status : Nat)
  /-- absorbed by a core in reset -/
  | absorbed
  deriving DecidableEq, Repr

/-- The status of the host command that posted. -/
def PostEnd.status : PostEnd → Nat
  | .ok => 0
  | .refused n => n
  | .absorbed => 0x08

/-- The response packet to a post. -/
def PostEnd.rsp : PostEnd → RspKind
  | .ok => .wack
  | .refused n => .rerr n
  | .absorbed => .treset

/-- Answer a post from endpoint `e`: a host command completes, a packet gets its response, a Xobex message its acceptance or
NAK (R244, R249, R355). -/
def answerPost (s : State) (e : Nat) (src : PostSrc) (x : PostEnd) : State :=
  match src with
  | .host r => completeCmd s r x.status false 0 0
  | .pkt dst tag => sendRsp s { dst := dst, src := e, tag := tag, kind := x.rsp, data := [], stale := false }
  | .xob part msg =>
    match x with
    | .ok => s.modRecv part 0 (fun c => { c with msgs := c.msgs.map (fun m => if m.id = msg then { m with pending := m.pending - 1 } else m) })
    | _ =>
      let tag := 0
      let s := s.modRecv part 0 (fun c => { c with
        msgs := c.msgs.map (fun m => if m.id = msg then { m with pending := m.pending - 1, refused := true } else m) })
      sendNak s part 0 msg tag (match x with
        | .refused n => n
        | _ => 0x3E)
  | .kiosk => s

/-- The endpoint of a site queue or Orangery queue. -/
def queueEndpoint (qn : Nat) : Nat := if isSiteQueue qn then qn / 512 else 0x390 + (qn - 0x7F000) / 512

/-- The part with the binding of a queue changed. -/
def State.modBound (s : State) (qn : Nat) (f : Binding → Binding) : State :=
  let g := fun (e : Nat × Option Binding) => (e.1, e.2.map (fun b => if b.qn = qn then f b else b))
  { s with sv := s.sv.map g }

/-- Read the head word: `HEAD_SEEN`, or the head error of R244. -/
def refreshHead (s : State) (qn : Nat) : State :=
  let q := s.sq qn
  let f := memFetch s 4 none q.headDa 4
  let h := BitVec.ofNat 32 (leNat f.bytes)
  let s := f.st.modBound qn (fun b => { b with head := h })
  if (q.tail - h).toNat ≤ 2 ^ q.log2 then s.modSq qn (fun q => { q with headSeen := h })
  else s.modSq qn (fun q => { q with st := 2 })

/-- The batcher of a bound queue reads the head word for its own commands (R293). -/
def rereadBound (s : State) (qn : Nat) : State :=
  let f := memFetch s 0xFF none (s.sq qn).headDa 4
  f.st.modBound qn (fun b => { b with head := BitVec.ofNat 32 (leNat f.bytes) })

/-- Occupied entries. -/
def SiteQueue.occ (q : SiteQueue) : Nat := (q.tail - q.headSeen).toNat

/-- The binding of a queue with its core. -/
def State.bindingOf (s : State) (qn : Nat) : Option (Nat × Binding) :=
  s.sv.findSome? (fun e => match e.2 with
    | some b => if b.qn = qn then some (e.1, b) else none
    | none => none)

/-- Write an accepted post: the ring entry, on a bound queue the expansion, `TAIL`, the gate increment (R244, R300). -/
def acceptPost (s : State) (qn lc : Nat) (data : List Byte) (marks : List Bool) : PostEnd × State :=
  let q := s.sq qn
  let da := q.ring + 64 * (q.tail.toNat % 2 ^ q.log2)
  let finish := fun (s : State) =>
    let s := (s.modSq qn (fun q => { q with tail := q.tail + 1 })).modRouter (qn / 512) (fun r => { r with posts := satAdd r.posts 1 })
    (PostEnd.ok, incGate s lc q.gate 1 .unit)
  match s.bindingOf qn with
  | none => finish (memWriteBad s none da data marks)
  | some (k, b) =>
    if b.failed then (.refused 0x3B, s)
    else
      match svRun s k b.area (do
          let h ← svHead
          let bad ← svEntryBad h data
          if !bad then
            svStoreBad da data marks
            svExpand data q.tail.toNat lc
          pure bad) with
      | (none, s) => (.refused 0x3B, s)
      | (some true, _) => (.refused 0x39, s)
      | (some false, s) => finish s

/-- A post refused with `Q_FULL` or `Q_DISABLED` counts in `NI_QFULL` (Table 8.8). -/
def countFull (s : State) (qn : Nat) : State := s.modRouter (qn / 512) (fun r => { r with qfull := satAdd r.qfull 1 })

/-- One turn of the post procedure for a post (R244): an answer, or none while it waits for room, or for a Canopy store at retention
that it has made rise (R249, R404). -/
def tryPost (s : State) (qn : Nat) (data : List Byte) (bad : List Bool) : Option PostEnd × State :=
  match s.lcOf (qn / 512) with
  | none => (some (.refused 0x2B), countFull s qn)
  | some lc =>
    if s.absorbs lc then
      (some .absorbed, s.modRouter (qn / 512) (fun r => { r with absorb := satAdd r.absorb 1 }))
    else if (s.sq qn).st ≠ 1 then (some (.refused 0x2B), countFull s qn)
    else match (storeWait s (s.sq qn).ring).or (storeWait s (s.sq qn).headDa) with
    | some s => (none, s)
    | none =>
      let s := if (s.sq qn).quota ≤ (s.sq qn).occ then refreshHead s qn else s
      if (s.sq qn).st ≠ 1 then (some (.refused 0x2B), countFull s qn)
      else if (s.sq qn).quota ≤ (s.sq qn).occ then (none, s)
      else
        let r := acceptPost s qn lc data bad
        (some r.1, r.2)

/-- Remove the head of the line of a queue's batcher. -/
def popLine (s : State) (qn : Nat) : State := s.modBound qn (fun b => { b with line := b.line.tail })

/-- A serving command stands in front of the next post of a queue (R291). -/
def State.lineBlocks (s : State) (qn : Nat) : Bool :=
  match s.bindingOf qn with
  | some (_, b) => (match b.line.head? with
    | some (.cmd _ _) => true
    | _ => false)
  | none => false

/-- Serve the waiting posts of a queue in arrival order until one waits (R244). -/
def servePosts (qn : Nat) : Nat → State → State
  | 0, s => s
  | k + 1, s =>
    match s.tr.posts.find? (fun p => p.qn = qn) with
    | none => s
    | some p =>
      if s.lineBlocks qn then s
      else
        match tryPost s qn p.data p.bad with
        | (none, s) =>
          if (storeWait s (s.sq qn).ring).isSome || (storeWait s (s.sq qn).headDa).isSome then s
          else
            { s with tr := { s.tr with posts := s.tr.posts.map (fun x => if x = p && x.since = none then { x with since := some s.us } else x) } }
        | (some e, s) =>
          let s := popLine { s with tr := { s.tr with posts := s.tr.posts.erase p } } qn
          servePosts qn k (answerPost s (queueEndpoint qn) p.src e)

/-- Posts that stand in front of their queue's and wait for power are tried again. -/
def retryPosts (s : State) : State :=
  ((s.tr.posts.filter (fun p => p.since = none)).map (·.qn)).dedup.foldl (fun s qn =>
    if (s.tr.posts.find? (fun p => p.qn = qn)).any (fun p => p.since = none) then servePosts qn (s.tr.posts.length + 1) s else s) s

/-- Posts of a list that are for the NI of a site. -/
def postsFor (site : Nat) (ps : List Post) : Nat := (ps.filter (fun p => isSiteQueue p.qn && p.qn / 512 = site)).length

/-- Posts waiting in the NI of a site, or for it. -/
def State.niPosts (s : State) (site : Nat) : Nat := postsFor site s.tr.posts + postsFor site s.tr.outside

/-- A post enters the NI: behind those that wait, then served. -/
def enterPost (s : State) (p : Post) : State :=
  let s := { s with tr := { s.tr with posts := s.tr.posts ++ [p] } }
  let s := s.modBound p.qn (fun b => { b with line := b.line ++ [SvWait.post] })
  servePosts p.qn (s.tr.posts.length + 1) s

/-- A post arrives at a site queue: it enters the NI, or waits for it while 8 are held (R244). -/
def arrivePost (s : State) (qn : Nat) (data : List Byte) (src : PostSrc) (bad : List Bool := []) : State :=
  let p : Post := { qn := qn, data := data, src := src, since := none, bad := bad }
  if 8 ≤ s.niPosts (qn / 512) then { s with tr := { s.tr with outside := s.tr.outside ++ [p] } } else enterPost s p

/-- Posts that wait for an NI enter it while it holds fewer than 8 (R244). -/
def admitPosts (s : State) : State :=
  s.tr.outside.foldl (fun s p =>
    if 8 ≤ postsFor (p.qn / 512) s.tr.posts || 0 < postsFor (p.qn / 512) (s.tr.outside.takeWhile (· ≠ p)) then s
    else enterPost { s with tr := { s.tr with outside := s.tr.outside.erase p } } p) s

/-- Serve posts that wait for record-queue room in order (R268). -/
def serveOrgPosts (k : Nat) : Nat → State → State
  | 0, s => s
  | j + 1, s =>
    match (s.stack k).posts with
    | [] => s
    | p :: rest =>
      let pop := fun (s : State) => s.modStack k (fun t => { t with posts := rest })
      match orgPost s k ((p.qn - 0x7F000) % 512) p.data with
      | .ok s => serveOrgPosts k j (answerPost (pop s) (0x390 + k) p.src .ok)
      | .refused s st => serveOrgPosts k j (answerPost (pop s) (0x390 + k) p.src (.refused st))
      | .full s => s.modStack k (fun t => { t with
          posts := (match p.since with
            | none => { p with since := some s.us } :: rest
            | some _ => p :: rest) })

/-- A post arrives at an Orangery queue (R268). -/
def arriveOrgPost (s : State) (qn : Nat) (data : List Byte) (src : PostSrc) : State :=
  let k := (qn - 0x7F000) / 512
  let s := s.modStack k (fun t => { t with posts := t.posts ++ [{ qn := qn, data := data, src := src, since := none }] })
  serveOrgPosts k ((s.stack k).posts.length + 1) s

/-- Posts wait no longer where there is room: those of NIs, those for them, and those of the Orangery ports whose records have drained
(R244, R268). -/
def passPosts (s : State) : State :=
  let s := admitPosts (retryPosts s)
  (s.orgs.filter (fun e => e.2.posts ≠ [])).foldl (fun s e => serveOrgPosts e.1 (e.2.posts.length + 1) s) s

/-- A QN of an Orangery queue (Table 8.6). -/
def isOrgQueue (qn : Nat) : Bool := 0x7F000 ≤ qn && qn < 0x7FC00

/-- A post arrives at a queue of the part; another QN has none that takes posts. -/
def arriveAny (s : State) (qn : Nat) (data : List Byte) (src : PostSrc) (bad : List Bool := []) : State :=
  if isSiteQueue qn then arrivePost s qn data src bad
  else if isOrgQueue qn then arriveOrgPost s qn data src
  else answerPost s 0x380 src (.refused 0x2B)

/-- `POST`: a packet with a queue entry arrives at its endpoint, unless it was dropped on its way or a retune holds it (R43, R247); a
ninth waiting post is held back (R244). -/
def execPost (p : Sent Pkt) (s : State) : Out :=
  let te := p.te
  let p := p.item
  let qn := p.ofs.toNat % 2 ^ 19
  let src := PostSrc.pkt p.src.toNat p.tag.toNat
  if !(isSiteQueue qn || isOrgQueue qn) || queueEndpoint qn ≠ p.dst.toNat then .next (answerPost s p.dst.toNat src (.refused 0x2B))
  else if s.severed p.src.toNat p.dst.toNat || (isOrgQueue qn && !(s.stack ((qn - 0x7F000) / 512)).linkUp) then .next s
  else if s.routeHeld p.src.toNat p.dst.toNat || (isSiteQueue qn && 8 ≤ s.niPosts (qn / 512)) then .next (s.hold (.post ⟨p, te⟩))
  else .next (arriveAny (transitLog (transitCe s p.dst.toNat te) (fun i => (s.sq qn).ring + i) te) qn p.data src (transitMarks 64 te))

/-- `HEAD_WORD_REREAD`: the head word of a queue is read again; a waiting post or serving command may proceed. The
batcher of a bound queue reads it whatever the queue's state (R244, R293). -/
def execHeadWordReread (qn : BitVec 19) (s : State) : Out :=
  let q := qn.toNat
  if isSiteQueue q && ((s.sq q).st = 1 || (s.bindingOf q).isSome) then
    let s := if (s.sq q).st = 1 then refreshHead s q else rereadBound s q
    .next (servePosts q (s.tr.posts.length + 1) s)
  else .next (servePosts q (s.tr.posts.length + 1) s)

/-- `POST_TIMEOUT`: the post that waits for room for 100 µs is refused with `Q_FULL` (R244). -/
def execPostTimeout (qn : BitVec 19) (s : State) : Out :=
  let q := qn.toNat
  match s.tr.posts.find? (fun p => p.qn = q) with
  | none => .next s
  | some p =>
    match p.since with
    | none => .next s
    | some t =>
      if s.us < t + 100 then .next s
      else
        let s := popLine { s with tr := { s.tr with posts := s.tr.posts.erase p } } q
        let s := countFull s q
        .next (servePosts q (s.tr.posts.length + 1) (answerPost s (queueEndpoint q) p.src (.refused 0x2A)))

/-- `ORANGERY_POST_TIMEOUT`: the post that has waited 100 µs for record-queue room, and finds none, is refused with `Q_FULL` (R268). -/
def execOrangeryPostTimeout (stack : Fin 6) (s : State) : Out :=
  let s := serveOrgPosts stack ((s.stack stack).posts.length + 1) s
  match (s.stack stack).posts with
  | [] => .next s
  | p :: rest =>
    match p.since with
    | none => .next s
    | some t =>
      if s.us < t + 100 then .next s
      else
        let s := s.modStack stack (fun t => { t with posts := rest })
        let s := answerPost s (0x390 + stack.val) p.src (.refused 0x2A)
        .next (serveOrgPosts stack ((s.stack stack).posts.length + 1) s)

/-- What a batcher of a core writes for a command or a post: its plot, and the hot pages, pads and buffers of its Canopy store. -/
def svFoot (lc : Nat) : List Foot :=
  [{ da := mkDa 2 lc 0, len := spaceSize 2, write := true }, { da := mkDa 1 lc 0, len := spaceSize 1, write := true }]

/-- A post follows every earlier write of its queue, whose bytes its reader may use; it writes its ring entry, and on a bound queue
what the batcher writes (R190, R299, R377). -/
def postFoot (s : State) (qn : Nat) : List Foot :=
  { da := 0, len := 2 ^ 56, write := false } ::
    (if isSiteQueue qn then
      { da := (s.sq qn).ring, len := 64 * 2 ^ (s.sq qn).log2, write := true } :: ((s.bindingOf qn).map (fun b => svFoot b.1)).getD []
     else [])

/-- `QUEUE_POST`: posts the 64 bytes of its buffer (Table 13.9). -/
def execQueuePost (q : BitVec 16) (e : Entry) (s : State) : Out :=
  let k : CmdKind := { CmdKind.basic false false [4] (fun _ => false)
    (fun ps => isSiteQueue (leField ps 0 3) || isOrgQueue (leField ps 0 3)) with
    buf := fun _ => .input 64, foot := fun s ps => postFoot s (leField ps 0 3) }
  hostRun (.queuePost q e) k q e s (fun c s =>
    let qn := leField c.ps 0 3
    let e := queueEndpoint qn
    if s.severed 0x399 e || (isOrgQueue qn && !(s.stack (e - 0x390)).linkUp) then
      .status (s.modRouter ((s.cutAt 0x399 e).elim 890 routerBlock) (fun r => { r with drop := satAdd r.drop 1 })) 0x07
    else if s.routeHeld 0x399 e || (isSiteQueue qn && 8 ≤ s.niPosts (qn / 512)) then .wait
    else .later (arriveAny s qn c.data (.host c.ref)))

/-! ## Serving commands (R289, R292 to R298) -/

/-- End of the area. -/
def areaEnd (h : SvHead) : Nat := h.streams.foldl (fun m g => max m (g.pt + 2 * g.entries * h.slots)) 0x28000

/-- `MEM_CLAIMED` of a host write in a bound area outside its batch tables (R291). -/
def State.svOwned (s : State) (da n : Nat) : Bool :=
  s.sv.any (fun e => match e.2 with
    | some b => overlap (da, n) (b.area, 0x2000)
        || overlap (da, n) (b.area + 0x4000, areaEnd (parseHead (s.bytesAt b.area 512)) - 0x4000)
    | none => false)

/-- Wrong reserved or read-only bytes of the bind buffer. -/
def bindReserved (d : List Byte) : Bool :=
  !allZero ((d.drop 34).take 2) || !allZero ((d.drop 120).take 136)
    || (List.range (leField d 6 6)).any (fun g => !allZero ((d.drop (256 + 64 * g + 20)).take 44))

/-- Every field of the parameters lies in its range (Tables 10.2, 10.3). -/
def bindRanges (d : List Byte) (h : SvHead) : Bool :=
  leField d 0 3 = 0x56534B5A && 1 ≤ h.slots && h.slots ≤ 1024 && leField d 6 6 ≤ 4 && 1 ≤ h.kblk && h.kblk ≤ 8
    && h.pool % 64 = 0 && 1 ≤ h.pages && h.pages ≤ 16382 && h.hots ≤ 1024 && h.exp % 64 = 0 && leField d 28 31 = 0
    && 1 ≤ h.bexp && h.bexp ≤ 4 && 1 ≤ h.land && h.land ≤ 4 && h.landOfs % 2048 = 0 && h.fill % 2048 = 0 && h.gl % 64 = 0
    && allZero ((d.drop 68).take 52)
    && h.landOfs < 0x180000 && h.app < 0x180000 && h.fill < 0x180000 && h.gl + 64 * h.bexp * h.kblk ≤ 0x180000 && h.scratch < 0x180000
    && h.streams.all (fun g => g.fmt ≤ 2 && g.ring ≤ 1024 && (if g.ring = 0 then 1 ≤ g.entries && g.entries ≤ 2048 else g.entries = g.ring)
        && 1 ≤ g.budget && g.budget ≤ g.entries && 1 ≤ g.writes && g.writes ≤ 64 && g.pt = 0 && g.area = 0)

/-- `PT_OFS` and `AREA` of the streams in order (R290). -/
def placeStreams (h : SvHead) : List SvStream :=
  (h.streams.foldl (fun (acc : List SvStream × Nat × Nat) g =>
    (acc.1 ++ [{ g with pt := acc.2.1, area := acc.2.2 }],
      (acc.2.1 + 2 * g.entries * h.slots + 63) / 64 * 64,
      acc.2.2 + 32 * h.kblk * (192 * g.budget + 64 * g.writes))) ([], 0x28000, 0)).1

/-- `EXP_BYTES` (R290). -/
def expansionBytes (h : SvHead) : Nat := (h.streams.map (fun g => 32 * h.kblk * (192 * g.budget + 64 * g.writes))).sum

/-- The conditions of R289 on the job's claims: the whole area, page tables included, lies outside them; pool, pads and
buffers lie inside (log 33). -/
def bindClaims (j : Job) (lc ofs : Nat) (h : SvHead) : Bool :=
  let within := fun da n => n = 0 || (j.gap da n).isNone
  ofs + areaEnd h ≤ spaceSize 2 && !j.touches (mkDa 2 lc ofs) (areaEnd h)
    && h.pool + h.pages * h.pb ≤ spaceSize 2 && within (mkDa 2 lc h.pool) (h.pages * h.pb)
    && h.padPlot + 64 ≤ spaceSize 2 && within (mkDa 2 lc h.padPlot) 64
    && h.hot + h.hots * h.pb ≤ spaceSize 1 && within (mkDa 1 lc h.hot) (h.hots * h.pb)
    && h.exp + h.bexp * expansionBytes h ≤ spaceSize 1 && within (mkDa 1 lc h.exp) (h.bexp * expansionBytes h)
    && h.padCan + 32768 ≤ spaceSize 1 && within (mkDa 1 lc h.padCan) 32768

/-- The bound queue of R289. -/
def bindQueue (s : State) (lc : Nat) (h : SvHead) : Bool :=
  isSiteQueue h.qn && s.siteOf lc = some (h.qn / 512) && (s.sq h.qn).st = 1 && (s.sq h.qn).quota ≤ h.bexp

/-- The state in an area matches the parameters (R289); the batcher reads it (R306). -/
def bindMatches (d : List Byte) (h : SvHead) : SvM Bool := fun v =>
  let f := memFetch v.st 0xFF none v.base 512
  let b := f.bytes
  (leField b 0 3 = 0x56534B5A && leField b 4 5 = h.slots && leField b 16 17 = h.pages && leField b 6 6 = leField d 6 6
    && (List.range (leField d 6 6)).all (fun g => (b.drop (256 + 64 * g)).take 12 = (d.drop (256 + 64 * g)).take 12),
    { v with st := f.st, bad := v.bad || f.bad.any id })

/-- Write header and descriptors at a bind; the counters stay. -/
def svHeader (d : List Byte) (h : SvHead) (gs : List SvStream) : SvM Unit := do
  fun v => svStore v.base (putBytes (d.take 68) 28 (leBytes 4 (expansionBytes h))) v
  svPut 68 4 1
  gs.zipIdx.forM (fun e => fun v =>
    svStore (v.base + 256 + 64 * e.2) ((d.drop (256 + 64 * e.2)).take 12 ++ leBytes 4 e.1.pt ++ leBytes 4 e.1.area ++ List.replicate 44 0) v)

/-- Initialise the serving state (R289). -/
def svInit (h : SvHead) (gs : List SvStream) (lc : Nat) : SvM Unit := do
  for i in List.range h.slots do
    fun v => svStore (v.base + slotOfs i) (List.replicate 12 0 ++ leBytes 4 0xFFFFFFFF ++ List.replicate 16 0) v
  for t in List.range 64 do
    svPut (0x200 + 16 * t) 8 0
  fun v => svStore (v.base + 0xC000) (List.replicate 0x10000 0) v
  gs.forM (fun g => fun v => svStore (v.base + g.pt) (List.replicate (2 * g.entries * h.slots) 0xFF) v)
  svPut 0x1C000 4 h.pages
  fun v => svStore (v.base + 0x1C004) ((List.range h.pages).flatMap (fun x => leBytes 2 (h.pages - 1 - x))) v
  fun v => svStore (v.base + 72) (List.replicate 48 0) v
  svStore (mkDa 1 lc h.padCan) (List.replicate 32768 0)

/-- `SV_BIND` (R288, R289). -/
def execSvBind (q : BitVec 16) (e : Entry) (s : State) : Out :=
  let k : CmdKind := { CmdKind.basic false false [8]
    (fun _ => false) (fun ps => leField ps 0 1 < 800 && leField ps 4 7 % 64 = 0) with
    rsv := fun ps d => 2 ≤ leField ps 2 2 || leField ps 3 3 ≠ 0 || bindReserved d
    buf := fun _ => .front (256 + 64 * 255), foot := fun _ ps => svFoot (leField ps 0 1) }
  hostRun (.svBind q e) k q e s (fun c s =>
    let d := c.data
    let lc := leField c.ps 0 1
    let ofs := leField c.ps 4 7
    let area := mkDa 2 lc ofs
    let h := parseHead d
    let gs := placeStreams h
    let hp := { h with streams := gs }
    if s.mapBusy lc then .wait
    else if c.dlen ≠ 256 + 64 * leField d 6 6 then Act.status s 0x03
    else
      match s.jobOf lc with
      | none => Act.status s 0x3A
      | some j =>
        if j.phase ≠ .running || (Tbl.get none s.sv lc).isSome || !bindRanges d h || !bindClaims j lc ofs hp || !bindQueue s lc h
            || 0x6000 < h.rowBase + h.slots * h.rowStride then Act.status s 0x3A
        else
          let seen : Option Bool × State := if leField c.ps 2 2 = 1 then (some true, s) else svRun s lc area (bindMatches d h)
          match seen.1 with
          | none => Act.status seen.2 0x3B
          | some false => Act.status seen.2 0x3A
          | some true =>
          let s := seen.2
          let b : Binding := {
            area := area, qn := h.qn, head := BitVec.ofNat 32 (headWord s h.qn)
            line := (s.tr.posts.filter (fun p => p.qn = h.qn)).map (fun _ => SvWait.post), freed := [], failed := false }
          let s := { s with sv := Tbl.set none s.sv lc (some b) }
          let r := svRun s lc area (do
            if leField c.ps 2 2 = 1 then svInit h gs lc
            svHeader d h gs
            svAdd 112 8 1)
          Act.status r.2 (if r.1.isSome then 0 else 0x3B))

/-- What a serving command asks before its effect: the slots whose busy state it waits for, and its work, which answers a
status and leaves everything unchanged when that is not 0 (R292, R293). -/
structure SvCmd where
  /-- slots waited for -/
  slots : List Nat
  /-- its work -/
  run : SvHead → SvM Nat

/-- The reference and line of a command's binding with the command at its place. -/
def lineUp (s : State) (lc : Nat) (r : CmdRef) : State :=
  { s with sv := Tbl.modify none s.sv lc (fun b => b.map (fun b =>
    if b.line.any (fun w => match w with
      | .cmd x _ => x = r
      | .post => false) then b else { b with line := b.line ++ [.cmd r none] })) }

/-- A command leaves the line. -/
def lineOut (s : State) (lc : Nat) (r : CmdRef) : State :=
  { s with sv := Tbl.modify none s.sv lc (fun b => b.map (fun b => { b with line := b.line.filter (fun w => match w with
      | .cmd x _ => x ≠ r
      | .post => true) })) }

/-- The head of the line notes when it was found busy. -/
def lineBusy (s : State) (lc : Nat) : State :=
  { s with sv := Tbl.modify none s.sv lc (fun b => b.map (fun b => { b with line := (match b.line with
      | .cmd x none :: rest => .cmd x (some s.us) :: rest
      | l => l) })) }

/-- A serving command that has reached the batcher: in line behind earlier ones; waiting for busy slots; then done (R291 to
R293). -/
def svCommand (s : State) (c : CmdRun) (lc : Nat) (x : SvCmd) : Act :=
  match Tbl.get none s.sv lc with
  | none => Act.status s 0x30
  | some b =>
    let first := match b.line.head? with
      | none => true
      | some (.cmd r _) => r = c.ref
      | some .post => false
    if b.failed then Act.status (lineOut s lc c.ref) 0x3B
    else if !first then .wait
    else
      let busy := (svRun s lc b.area (do
        let h ← svHead
        x.slots.anyM (fun i => do
          if h.slots ≤ i then pure false
          else
            let last ← svGet (slotOfs i + 12) 4
            pure (slotBusy b.head.toNat last))))
      match busy.1 with
      | none => Act.status (lineOut busy.2 lc c.ref) 0x3B
      | some true => .wait
      | some false =>
        let r := svRun s lc b.area (do
          let h ← svHead
          let st ← x.run h
          if st = 0 then svAdd 112 8 1
          pure st)
        Act.status (lineOut r.2 lc c.ref) (r.1.getD 0x3B)

/-- Put a serving command in line where it must wait, and note that it waits. -/
def svHost (i : Instr) (k : CmdKind) (q : BitVec 16) (e : Entry) (s : State) (cmd : List Byte → SvCmd) : Out :=
  match hostRun i k q e s (fun c s =>
    let lc := leField c.ps 0 1
    if s.mapBusy lc then .wait else svCommand (if (Tbl.get none s.sv lc).isSome then lineUp s lc c.ref else s) c lc (cmd c.ps)) with
  | .next t =>
    let lc := leField (s.params e) 0 1
    -- a command that waits keeps its place in the line
    match (t.queue q.toNat).accepted e with
    | some id => .next (if t.held.contains i && (t.queue q.toNat).running.any (fun r => r.id = id && r.started)
        then lineBusy (lineUp t lc { q := q.toNat, id := id }) lc else t)
    | none => .next t
  | o => o

/-- The kind of a serving command. -/
def svKind (plen : Nat) (rsv : List Byte → Bool) (range : List Byte → Bool) : CmdKind :=
  { CmdKind.basic false false [plen] rsv (fun ps => leField ps 0 1 < 800 && range ps) with foot := fun _ ps => svFoot (leField ps 0 1) }

/-- State of a slot; closed and out of range alike are not open. -/
def svState (h : SvHead) (i : Nat) : SvM Nat := if i < h.slots then svGet (slotOfs i) 1 else pure 3

/-- `SV_OPEN` (Table 10.7). -/
def execSvOpen (q : BitVec 16) (e : Entry) (s : State) : Out :=
  svHost (.svOpen q e) (svKind 8 (fun ps => !allZero (ps.drop 5)) (fun ps => leField ps 4 4 < 64)) q e s (fun ps =>
    let i := leField ps 2 3
    { slots := [], run := fun h => do
        let st ← svState h i
        if st ≠ 0 then pure 0x31
        else
          svPut (slotOfs i) 1 1
          svPut (slotOfs i + 1) 1 (leField ps 4 4)
          svPut (slotOfs i + 4) 8 0
          svPut (slotOfs i + 12) 4 0xFFFFFFFF
          pure 0 })

/-- `SV_CLOSE`: releases every reference in stream and entry order (R295). -/
def execSvClose (q : BitVec 16) (e : Entry) (s : State) : Out :=
  svHost (.svClose q e) (svKind 4 (fun _ => false) (fun _ => true)) q e s (fun ps =>
    let i := leField ps 2 3
    { slots := [i], run := fun h => do
        let st ← svState h i
        if st ≠ 1 && st ≠ 2 then pure 0x31
        else
          for g in h.streams do
            for x in List.range g.entries do
              let p ← svGet (pteOfs g i x) 2
              if p ≠ 0xFFFF then
                svRelease p
                svPut (pteOfs g i x) 2 0xFFFF
          let tenant ← svGet (slotOfs i + 1) 1
          let refs ← svGet (slotOfs i + 8) 4
          let used ← svGet (0x204 + 16 * tenant) 4
          svPut (0x204 + 16 * tenant) 4 (used - refs)
          svPut (slotOfs i + 8) 4 0
          svPut (slotOfs i) 1 0
          pure 0 })

/-- Entries that a fork of `n` positions takes from a slot of length `l` (R294). -/
def forkEntries (g : SvStream) (l n : Nat) : Nat := if g.wrapped l then g.ring else (n + 63) / 64

/-- `SV_FORK` (R294). -/
def execSvFork (q : BitVec 16) (e : Entry) (s : State) : Out :=
  svHost (.svFork q e) (svKind 12 (fun ps => leField ps 7 7 ≠ 0) (fun ps => leField ps 6 6 < 64)) q e s (fun ps =>
    let a := leField ps 2 3
    let b := leField ps 4 5
    let tenant := leField ps 6 6
    let n := leField ps 8 11
    { slots := [a, b], run := fun h => do
        let sa ← svState h a
        let sb ← svState h b
        if sa ≠ 1 || sb ≠ 0 then pure 0x31
        else
          let l ← svGet (slotOfs a + 4) 4
          if l < n || h.streams.any (fun g => g.wrapped l && n ≠ l) then pure 0x35
          else
            let total := (h.streams.map (fun g => forkEntries g l n)).sum
            let quota ← svGet (0x200 + 16 * tenant) 4
            let used ← svGet (0x204 + 16 * tenant) 4
            if total ≠ 0 && quota < used + total then
              let r ← svGet (0x208 + 16 * tenant) 4
              svPut (0x208 + 16 * tenant) 4 (min 0xFFFFFFFF (r + 1))
              pure 0x32
            else
              let full ← h.streams.anyM (fun g => (List.range (forkEntries g l n)).anyM (fun x => do
                let p ← svGet (pteOfs g a x) 2
                let c ← svCount p
                pure (65535 ≤ c)))
              if full then pure 0x34
              else
                for g in h.streams do
                  for x in List.range (forkEntries g l n) do
                    let p ← svGet (pteOfs g a x) 2
                    svPut (pteOfs g b x) 2 p
                    svAdd (0xC000 + 2 * p) 2 1
                svPut (slotOfs b) 1 1
                svPut (slotOfs b + 1) 1 tenant
                svPut (slotOfs b + 4) 4 n
                svPut (slotOfs b + 8) 4 total
                svPut (slotOfs b + 12) 4 0xFFFFFFFF
                svPut (0x204 + 16 * tenant) 4 (used + total)
                pure 0 })

/-- The page that a slot, stream and entry name: a status, or the page (R297, Table 10.8). -/
def svNamed (h : SvHead) (i g x : Nat) : SvM (Nat × Nat) := do
  let st ← svState h i
  match h.streams[g]? with
  | none => pure (if st ≠ 1 then 0x31 else 0x35, 0)
  | some d =>
    if st ≠ 1 then pure (0x31, 0)
    else if d.entries ≤ x then pure (0x35, 0)
    else
      let p ← svGet (pteOfs d i x) 2
      pure (if p = 0xFFFF then 0x35 else 0, p)

/-- A hot slot that may be given to a page: used by none, and not freed too lately (R297); the lowest (log 34). -/
def svHotSlot (h : SvHead) : SvM (Option Nat) := do
  let used ← (List.range h.pages).filterMapM (fun p => do
    let a ← svAttr p
    pure (if bit a 15 then some (bits a 9 0) else none))
  fun v =>
    let b := Tbl.get none v.st.sv v.lc
    ((List.range h.hots).find? (fun k => !used.contains k && !(b.any (fun b => b.freed.any (fun e =>
      e.1 = k && !((b.head - e.2).toNat < 2 ^ 31))))), v)

/-- `SV_HOT` (R297). -/
def execSvHot (q : BitVec 16) (e : Entry) (s : State) : Out :=
  svHost (.svHot q e) (svKind 8 (fun ps => leField ps 5 5 ≠ 0) (fun _ => true)) q e s (fun ps =>
    let i := leField ps 2 3
    { slots := [i], run := fun h => do
        let r ← svNamed h i (leField ps 4 4) (leField ps 6 7)
        if r.1 ≠ 0 then pure r.1
        else
          let a ← svAttr r.2
          let k ← svHotSlot h
          if bit a 15 then pure 0
          else if !bit a 14 then pure 0x37
          else
            match k with
            | none => pure 0x37
            | some k =>
              fun v => svCopy (pageDa h v.lc r.2) (mkDa 1 v.lc (h.hot + k * h.pb)) ((h.streams.getD (leField ps 4 4) (parseStream [])).pb) v
              svPut (0x14000 + 2 * r.2) 2 (2 ^ 15 + 2 ^ 14 + k)
              pure 0 })

/-- `SV_COLD` (R297). -/
def execSvCold (q : BitVec 16) (e : Entry) (s : State) : Out :=
  svHost (.svCold q e) (svKind 8 (fun ps => leField ps 5 5 ≠ 0) (fun _ => true)) q e s (fun ps =>
    let i := leField ps 2 3
    { slots := [i], run := fun h => do
        let r ← svNamed h i (leField ps 4 4) (leField ps 6 7)
        if r.1 ≠ 0 then pure r.1
        else
          let a ← svAttr r.2
          if !bit a 15 then pure 0x37
          else
            svDropHot r.2 true
            pure 0 })

/-- `SV_QUOTA` (R298). -/
def execSvQuota (q : BitVec 16) (e : Entry) (s : State) : Out :=
  svHost (.svQuota q e) (svKind 8 (fun ps => leField ps 3 3 ≠ 0) (fun ps => leField ps 2 2 < 64)) q e s (fun ps =>
    { slots := [], run := fun _ => do
        svPut (0x200 + 16 * leField ps 2 2) 4 (leField ps 4 7)
        pure 0 })

/-- `SV_BUSY_TIMEOUT`: the serving command whose slot stayed busy for 100 ms completes with `SV_BUSY` (R293). -/
def execSvBusyTimeout (lc : Lc) (s : State) : Out :=
  match Tbl.get none s.sv lc with
  | none => .next s
  | some b =>
    match b.line with
    | .cmd r (some t) :: _ =>
      if s.us < t + 100000 then .next s
      else
        match (s.queue r.q).running.find? (fun x => x.id = r.id) with
        | none => .next (lineOut s lc r)
        | some x =>
          let s := { s with held := s.held.filter (fun i => commandOf i ≠ some (BitVec.ofNat 16 r.q, x.e)) }
          .next (completeCmd (lineOut s lc r) r 0x38 false 0 0)
    | _ => .next s

end Sys2Proof.Machine
end

