-- ==== Sys2Proof/Machine/Xobex.lean ====
section
/-! DEFINITION. The Xobex transport: sending, acknowledgement, retransmission, congestion, the receiving side, queues and
descriptors ("Cuffs, Ethernet and the Xobex transport" R339 to R356, R364). -/

namespace Sys2Proof.Machine

/-! ## Sending context 0 (R341, R344, R356) -/

/-- The map of bad 32-byte units of a payload (Table 12.4). -/
def badMap (bad : List Bool) : BitVec 128 :=
  BitVec.ofNat 128 ((List.range ((bad.length + 31) / 32)).foldl (fun m u =>
    if ((bad.drop (32 * u)).take 32).any id then m + 2 ^ u else m) 0)

/-- A packet with its payload read now: bad units travel as zero with their bits in `MAP`, and fault the sending job (R356). -/
def loadPayload (s : State) (x : XSend) : XPkt × State :=
  match x.src with
  | none => (x.pkt, s)
  | some da =>
    let f := orgRead s 5 (x.owner.map s.recorder) da x.pkt.len.toNat
    let m := badMap f.bad
    let data := f.bytes.zipIdx.map (fun e => if m.getLsbD (e.2 / 32) then 0 else e.1)
    ({ x.pkt with data := data, map := m },
      match x.owner with
      | some lc => if f.bad.any id then poisonJob f.st lc else f.st
      | none => f.st)

/-- What the read of a packet's source meets; no byte comes over the failed link of a stack (R255). -/
def payloadReady (s : State) (x : XSend) : OrgAccess :=
  match x.src with
  | none => .serve
  | some da => if s.orgLinked [(da, x.pkt.len.toNat)] then orgAccessRange s da x.pkt.len.toNat else .wait s

/-- The engine's access to a source is refused with `MEM_BANK_OWNED` or `MEM_UNMAPPED`: an answer to a read is a `NAK` instead, and of a
message of this part the job faults (R260, R355, log 108). -/
def payloadRefused (s : State) (part : Nat) (x : XSend) (status : Nat) : State :=
  if x.pkt.typ = 3 then sendNak s part 0 x.pkt.msg.toNat x.pkt.tag.toNat status
  else match x.owner with
    | some lc => fabricFault s lc 0x10 part status
    | none => s

/-- Transmit a packet for the first time, or again with `RETX` (R341, R344). -/
def transmit (s : State) (part : Nat) (x : XSend) (again : Bool) : State :=
  let r := loadPayload s x
  let p := if again then { r.1 with flags := r.1.flags ||| 2 } else r.1
  emit r.2 part (p.psn.toNat + x.attempts) p

/-- Send what waits in a context while the window of 512 has room, a path is usable and the bytes are served (R341). -/
def pumpData (part : Nat) : Nat → State → State
  | 0, s => s
  | k + 1, s =>
    let c := s.sendCtx part 0
    match c.queue with
    | [] => s
    | x :: rest =>
      if 512 ≤ c.unacked.length || s.paths part = [] then s
      else
        match payloadReady s x with
        | .serve => pumpData part k ((transmit s part x false).modSend part 0 (fun c => { c with queue := rest, unacked := c.unacked ++ [x] }))
        | .wait s => s
        | .bank => pumpData part k (payloadRefused (s.modSend part 0 (fun c => { c with queue := rest })) part x 0x25)
        | .unmapped => pumpData part k (payloadRefused (s.modSend part 0 (fun c => { c with queue := rest })) part x 0x26)

/-- Send what waits for a part. -/
def pump (s : State) (part : Nat) : State := pumpControl (pumpData part 513 s) part 513

/-- Retransmit a packet whose source is served (R344). -/
def resend (s : State) (part ctx : Nat) (x : XSend) : State :=
  if !(match payloadReady s x with
    | .serve => true
    | _ => false) then s
  else
  let x := { x with attempts := x.attempts + 1, recent := true }
  let s := transmit s part x true
  let s := s.modSend part ctx (fun c => { c with unacked := c.unacked.map (fun y => if y.pkt.psn = x.pkt.psn then x else y) })
  s.modFab (fun f => { f with retx := satAdd f.retx 1 })

/-! ## Jobs and faults -/

/-- The loaded job of a tag on this part. -/
def State.jobTag (s : State) (tag : Nat) : Option Job := s.jobs.find? (fun j => tag ≠ 0 && j.tag = tag)

/-- A job that takes part in traffic: running, and not halted (R354, R364). -/
def Job.live (j : Job) : Bool := j.isRunning && j.phase ≠ .faulting

/-- The core that records a fabric fault of a message: the owner of its queue, else the lowest of its job (R351). -/
def msgRecorder (s : State) (m : XMsg) : Option Nat :=
  match m.kind with
  | .write qn => some (s.xq qn).owner
  | .read qn _ => some (s.xq qn).owner
  | .fetch g n _ _ _ =>
    match s.fab.insts.find? (fun i => i.group = g && i.num = n) with
    | some i => some (s.xq i.qn).owner
    | none => none
  | .other => (m.node.bind s.jobAt).map (·.lowest)

/-- A message's job faults with a fabric code. -/
def msgFault (s : State) (m : XMsg) (code peer status : Nat) : State :=
  match msgRecorder s m with
  | some lc => fabricFault s lc code peer status
  | none => s

/-! ## Acknowledgement (R343, R344, R347) -/

/-- The packet number is before `p`. -/
def psnBefore (a p : Word) : Bool := a ≠ p && (p - a).toNat < 2 ^ 31

/-- Rate settings (R347, R388). -/
def State.ccMin (s : State) : Rat := (s.setting 0x15 1 : Nat)

/-- The rate of a context as an ACK with `ECE` leaves it, at most once per interval (R347). -/
def cutRate (s : State) (part : Nat) : State :=
  let c := s.sendCtx part 0
  if c.lastCut ≠ 0 && s.us < c.lastCut - 1 + s.setting 0x12 10 then s.modSend part 0 (fun c => { c with calm := s.us })
  else
    let r := c.rate.getD (s.rmax part)
    let f : Rat := (s.setting 0x11 49152 : Nat) / 65536
    s.modSend part 0 (fun c => { c with rate := some (max s.ccMin (r * f)), lastCut := s.us + 1, calm := s.us })

/-- What an ACK or NAK acknowledges: packets before its number go, the map marks others received, and missing ones behind three
received later are retransmitted (R344). -/
def applyAck (s : State) (part ctx : Nat) (p : XPkt) : State :=
  let c := s.sendCtx part ctx
  let gone := c.unacked.filter (fun x => psnBefore x.pkt.psn p.psn)
  let inMap := fun (n : Word) => psnBefore p.psn n && (n - p.psn).toNat ≤ 128 && p.map.getLsbD ((n - p.psn).toNat - 1)
  let s := s.modSend part ctx (fun c => { c with
    unacked := (c.unacked.filter (fun x => !psnBefore x.pkt.psn p.psn)).map (fun x => if inMap x.pkt.psn then { x with seen := true } else x)
    rto := if gone = [] then c.rto else 20
    progress := if gone = [] then c.progress else s.us
    msgs := (c.msgs.map (fun m => { m with left := m.left - (gone.filter (fun x => x.mid = m.id)).length })).filter (fun m =>
      !(m.left = 0 && m.bytes = 0 && (match m.kind with
        | .other => true
        | .fetch _ _ _ _ _ => true
        | _ => false))) })
  let c := s.sendCtx part ctx
  let lost := c.unacked.filter (fun x => !x.seen && !x.recent &&
    3 ≤ (c.unacked.filter (fun y => y.seen && psnBefore x.pkt.psn y.pkt.psn)).length)
  let s := lost.foldl (fun s x => resend s part ctx x) s
  let s := if p.flags.getLsbD 0 && ctx = 0 then cutRate s part else s
  pump s part

/-! ## Refusals (R354, R355) -/

/-- The status of the checks of R354 on bytes [da, da + n) of a job; 0 when they pass. -/
def xMemStatus (s : State) (j : Job) (da n : Nat) : Nat :=
  let sp := daSpace da
  if 2 ^ 56 ≤ da || sp < 1 || 4 < sp then 0x23
  else if !s.unitPresent sp (daUnit da) then 0x21
  else if spaceSize sp < daOfs da + n then 0x22
  else if (j.gap da n).isSome then 0x24
  else if sp ≤ 2 && s.absorbs (daUnit da) then 0x3E
  else
    match orgAccessRange s da n with
    | .unmapped => 0x26
    | .bank => 0x25
    | _ => 0

/-- The checks of R354 on a message: its job, its bytes and its completion. -/
def xStatus (s : State) (p : XPkt) (mem : Bool) : Nat :=
  match s.jobTag p.tag.toNat with
  | none => 0x3E
  | some j =>
    if !j.live then 0x3E
    else
      let st := if mem then xMemStatus s j (p.da.toNat - p.mofs.toNat) p.mlen.toNat else 0
      if st ≠ 0 then st
      else if fld p.cmpl 23 16 ≠ 0 && !j.covers (fld p.cmpl 9 0) then 0x22
      else 0

/-- Refuse a message: NAK, and the rest of it is discarded. -/
def refuse (s : State) (part : Nat) (p : XPkt) (status : Nat) : State :=
  let s := sendNak s part 0 p.msg.toNat p.tag.toNat status
  s.modRecv part 0 (fun c => { c with
    msgs := c.msgs.map (fun m => if m.id = p.msg.toNat then { m with refused := true } else m) })

/-- The message of a packet, opened at its first packet. -/
def openMsg (s : State) (part : Nat) (p : XPkt) (whole : Bool) : State :=
  let c := s.recvCtx part 0
  if c.msgs.any (fun m => m.id = p.msg.toNat) then
    s.modRecv part 0 (fun c => { c with msgs := c.msgs.map (fun m => if m.id = p.msg.toNat then { m with whole := m.whole || whole } else m) })
  else
    let m : RxMsg := { id := p.msg.toNat, cmpl := p.cmpl, node := (s.jobTag p.tag.toNat).map (·.node), pending := 0, whole := whole, refused := false }
    s.modRecv part 0 (fun c => { c with msgs := c.msgs ++ [m] })

/-- The message has been refused. -/
def State.msgRefused (s : State) (part : Nat) (p : XPkt) : Bool :=
  (s.recvCtx part 0).msgs.any (fun m => m.id = p.msg.toNat && m.refused)

/-- Change the pending count of a message. -/
def pendMsg (s : State) (part : Nat) (p : XPkt) (f : Nat → Nat) : State :=
  s.modRecv part 0 (fun c => { c with msgs := c.msgs.map (fun m => if m.id = p.msg.toNat then { m with pending := f m.pending } else m) })

/-- Bytes of a packet that arrived as bad units, or bad in transit (R200, Table 12.4). -/
def markedBytes (p : XPkt) : List Bool :=
  joinMarks ((List.range p.data.length).map (fun i => p.map.getLsbD (i / 32))) (transitMarks p.data.length p.te)

/-- Write the payload of a packet at a DA for a core, bad units poisoned; its errors in transit are counted and logged by the stack
(R200, R210, R356). -/
def putPayload (s : State) (lc : Option Nat) (part da : Nat) (p : XPkt) : State :=
  transitLog (transitCe (orgWriteFrom s lc da p.data (markedBytes p) part) ((s.endpoint da).getD 890) p.te) (da + ·) p.te

/-- Write the payload of a packet at a DA for its job. -/
def writePayload (s : State) (part da : Nat) (p : XPkt) : State :=
  putPayload s ((s.jobTag p.tag.toNat).map (·.lowest)) part da p

/-- Hand the payload of a committed `WRITE` to the stores, or let it wait for a page-in (R355); over the failed link of a stack it is
lost, and its message never completes (R247, R255). -/
def deliverWrite (s : State) (part : Nat) (p : XPkt) : State :=
  if !s.orgLinked [(p.da.toNat, p.data.length)] then pendMsg s part p (· + 1)
  else match orgWriteRange s p.da.toNat p.data.length with
  | .serve =>
    if s.mayWrite p.da.toNat p.data.length then writePayload s part p.da.toNat p
    else (pendMsg s part p (· + 1)).modRecv part 0 (fun c => { c with waiting := c.waiting ++ [p] })
  | .wait s => (pendMsg s part p (· + 1)).modRecv part 0 (fun c => { c with waiting := c.waiting ++ [p] })
  | .bank => refuse s part p 0x25
  | .unmapped => refuse s part p 0x26

/-- Commit a `WRITE` (R354). -/
def commitWrite (s : State) (part : Nat) (p : XPkt) : State :=
  let s := openMsg s part p (p.mlen.toNat ≤ p.mofs.toNat + p.len.toNat)
  if s.msgRefused part p then s
  else
    match xStatus s p true with
    | 0 => deliverWrite s part p
    | st => refuse s part p st

/-- An Orangery queue takes the posts of a transfer whose job claims it by kind 0x07 (R268). -/
def State.postClaimed (s : State) (tag qn : Nat) : Bool :=
  !isOrgQueue qn || (s.jobTag tag).any (fun j => j.claims.any (fun c => c.kind = 7 && c.base ≤ qn && qn < c.base + c.length))

/-- Commit a `POST` (R268, R354). -/
def commitPost (s : State) (part : Nat) (p : XPkt) : State :=
  let s := openMsg s part p true
  match xStatus s p false with
  | 0 =>
    if s.postClaimed p.tag.toNat (p.da.toNat % 2 ^ 19) then
      arriveAny (pendMsg s part p (· + 1)) (p.da.toNat % 2 ^ 19) p.data (.xob part p.msg.toNat)
    else refuse s part p 0x24
  | st => refuse s part p st

/-- Packets of an answer to a read: `MAXPAY` bytes each (R345). -/
def readPackets (s : State) (part : Nat) (p : XPkt) : List (XPkt × Option Nat) :=
  let n := p.mlen.toNat
  let m := s.maxPay
  (List.range ((n + m - 1) / m)).map (fun j =>
    let len := min m (n - j * m)
    ({ s.blankPkt part 3 0 with
        tag := p.tag, da := p.da + BitVec.ofNat 64 (j * m), msg := p.msg, mofs := BitVec.ofNat 32 (j * m), mlen := p.mlen
        len := BitVec.ofNat 16 len, flags := p.flags &&& 4 },
      some (p.da.toNat + j * m)))

/-- Commit an `RREQ`: its answer is sent (R354, Table 12.5). -/
def commitRead (s : State) (part : Nat) (p : XPkt) : State :=
  let s := openMsg s part p true
  match xStatus s p true with
  | 0 =>
    let j := s.jobTag p.tag.toNat
    pump (enqueue s part 0 (readPackets s part p) (j.map (·.lowest)) .other 0 (j.map (·.node)) 0) part
  | st => refuse s part p st

/-! ## Messages that complete (R352, R353) -/

/-- Apply a completion of the transport (R142, R353). -/
def fabricCmpl (s : State) (w : Word) : State :=
  if fld w 23 16 = 0 then s else incGate s (fld w 9 0) (fld w 15 10) (fld w 23 16) .fabric

/-- A message of a queue has ended. -/
def endQueueMsg (s : State) (qn : Nat) : State := s.modXq qn (fun q => { q with busy := q.busy - 1 })

/-- Bytes of an answer that have come to their reader; an instance's fetch ends with its last. -/
def takeRsp (s : State) (part : Nat) (p : XPkt) : State :=
  s.modSend part 0 (fun c => { c with
    msgs := (c.msgs.map (fun m => if m.id = p.msg.toNat then { m with bytes := m.bytes - p.len.toNat } else m)).filter (fun m =>
      !(m.left = 0 && m.bytes = 0 && (match m.kind with
        | .fetch _ _ _ _ _ => true
        | _ => false))) })

/-- An answer to an `XREAD` of a queue is written at `lda`, or waits as a `WRITE` does; a region in bank mode refuses it, and the job
faults (R260, R352, R355, log 108). -/
def landRead (s : State) (part qn lda : Nat) (p : XPkt) : State :=
  let da := lda + p.mofs.toNat
  let owner := (s.xq qn).owner
  let wait := fun (s : State) => s.modRecv part 0 (fun c => { c with waiting := c.waiting ++ [p] })
  if !s.orgLinked [(da, p.data.length)] then s
  else match orgWriteRange s da p.data.length with
  | .serve => if s.mayWrite da p.data.length then putPayload (takeRsp s part p) (some owner) part da p else wait s
  | .wait s => wait s
  | .bank => fabricFault s owner 0x10 part 0x25
  | .unmapped => fabricFault s owner 0x10 part 0x26

/-- Committed bytes that waited are written where their region is served now. -/
def flushWaiting (part : Nat) : Nat → State → State
  | 0, s => s
  | k + 1, s =>
    match (s.recvCtx part 0).waiting with
    | [] => s
    | p :: rest =>
      if p.typ = 3 then
        let s := s.modRecv part 0 (fun c => { c with waiting := rest })
        flushWaiting part k (match (s.sendCtx part 0).msgs.find? (fun m => m.id = p.msg.toNat) with
          | some m => (match m.kind with
            | .read qn lda => landRead s part qn lda p
            | _ => s)
          | none => s)
      else match orgWriteRange s p.da.toNat p.data.length with
      | .serve =>
        if s.mayWrite p.da.toNat p.data.length then
          let s := s.modRecv part 0 (fun c => { c with waiting := rest })
          flushWaiting part k (pendMsg (writePayload s part p.da.toNat p) part p (· - 1))
        else s
      | .wait s => s
      | _ => s

/-- `MESSAGE_LOCAL_COMPLETION`: the oldest message to a part whose packets are all acknowledged and whose bytes are all in
completes, and applies `LCMPL` (R352). -/
def execMessageLocalCompletion (part : Fin 1024) (s : State) : Out :=
  let s := flushWaiting part ((s.recvCtx part 0).waiting.length) s
  match (s.sendCtx part 0).msgs.find? (fun m => m.left = 0 && m.bytes = 0) with
  | none => .next s
  | some m =>
    let s := s.modSend part 0 (fun c => { c with msgs := c.msgs.erase m })
    match m.kind with
    | .write qn => .next (fabricCmpl (endQueueMsg s qn) m.lcmpl)
    | .read qn _ => .next (fabricCmpl (endQueueMsg s qn) m.lcmpl)
    | _ => .next s

/-- `MESSAGE_REMOTE_COMPLETION`: the oldest message from a part whose packets have committed and whose writes are accepted
completes, and applies `RCMPL` unless it was refused (R352, R353). -/
def execMessageRemoteCompletion (part : Fin 1024) (s : State) : Out :=
  let s := flushWaiting part ((s.recvCtx part 0).waiting.length) s
  match (s.recvCtx part 0).msgs with
  | [] => .next s
  | m :: rest =>
    if !m.whole || m.pending ≠ 0 then .next s
    else
      let s := s.modRecv part 0 (fun c => { c with msgs := rest })
      .next (if m.refused then s else fabricCmpl s m.cmpl)

/-! ## Timers (R343, R344, R346, R347) -/

/-- `ACK_TIMER` (R343). -/
def execAckTimer (part : Fin 1024) (ctx : Fin 2) (s : State) : Out :=
  let c := s.recvCtx part ctx
  if c.oldest ≠ 0 && c.oldest - 1 + 1600 ≤ s.ticks then .next (sendAck s part ctx) else .next s

/-- `RETRANSMISSION_TIMEOUT`: every packet unacknowledged and not known received is sent again, and the timeout doubles up to
2 ms (R344). -/
def execRetransmissionTimeout (part : Fin 1024) (ctx : Fin 2) (s : State) : Out :=
  let c := s.sendCtx part ctx
  if c.unacked = [] then .next s
  else
    let s := s.modFab (fun f => { f with rto := satAdd f.rto 1 })
    let s := s.modSend part ctx (fun c => { c with rto := min 2000 (2 * c.rto), unacked := c.unacked.map (fun x => { x with recent := false }) })
    .next (((s.sendCtx part ctx).unacked.filter (fun x => !x.seen)).foldl (fun s x => resend s part ctx x) s)

/-- `CONTEXT_LOST`: no ACK has advanced a context with unacknowledged packets for `LOST_MS`: the peer is lost, every unfinished
message of the pair ends, and their jobs fault with `PEER_LOST` (R346). -/
def execContextLost (part : Fin 1024) (ctx : Fin 2) (s : State) : Out :=
  let c := s.sendCtx part ctx
  if c.unacked = [] || s.us < c.progress + 1000 * s.setting 0x10 1000 then .next s
  else
    let msgs := (s.sendCtx part 0).msgs ++ (s.sendCtx part 1).msgs
    let s := s.modFab (fun f => { f with
      lost := satAdd f.lost 1, peers := Tbl.modify Peer.init f.peers part (fun p => { p with st := 2 }) })
    let s := msgs.foldl (fun s m => msgFault s m 0x0F part 0) s
    let clear := fun (s : State) (k : Nat) => s.modSend part k (fun c => { c with unacked := [], queue := [], msgs := [] })
    .next (clear (clear s 0) 1)

/-- `RATE_INCREASE`: an interval without `ECE` raises R by Rmax / `CC_INC_DIV`, up to Rmax (R347). -/
def execRateIncrease (part : Fin 1024) (s : State) : Out :=
  let c := s.sendCtx part 0
  match c.rate with
  | none => .next s
  | some r =>
    if s.us < c.calm + s.setting 0x13 20 then .next s
    else
      let top := s.rmax part
      let r' := r + top / (s.setting 0x14 32 : Nat)
      .next (s.modSend part 0 (fun c => { c with rate := if top ≤ r' then none else some r', calm := s.us }))

/-! ## Queues and descriptors (R349 to R352) -/

/-- The descriptor of 64 bytes. -/
def parseDesc (b : List Byte) : XDesc :=
  { op := b.getD 0 0, flags := b.getD 1 0, peer := BitVec.ofNat 16 (leField b 2 3), len := BitVec.ofNat 32 (leField b 4 7)
    lda := BitVec.ofNat 64 (leField b 8 15), rda := BitVec.ofNat 64 (leField b 16 23), lcmpl := BitVec.ofNat 32 (leField b 24 27)
    rcmpl := BitVec.ofNat 32 (leField b 28 31), dtype := b.getD 32 0, lstack := b.getD 33 0, lregion := BitVec.ofNat 16 (leField b 34 35)
    lofs := BitVec.ofNat 32 (leField b 36 39), rsv := BitVec.ofNat 192 (leField b 40 63) }

/-- A completion names no core outside the job, and its reserved bits are zero. -/
def cmplFits (j : Job) (w : Word) : Bool := fld w 31 24 = 0 && (fld w 23 16 = 0 || j.covers (fld w 9 0))

/-- Bytes per element of a collective. -/
def elemSize (d : XDesc) : Nat := if d.dtype = 6 then 4 else 2

/-- The shard of rank r in elements: from, to (R359). -/
def shardOf (n r k : Nat) : Nat × Nat := (k * n / r, (k + 1) * n / r)

/-- A DA that a descriptor may name (R351, R173). -/
def xSpace (da : Dword) : Bool := da.toNat < 2 ^ 56 && 1 ≤ daSpace da.toNat && daSpace da.toNat ≤ 4

/-- Collective operations. -/
def isColl (op : Byte) : Bool := op = 0x10 || op = 0x11 || op = 0x12

/-- A group and its entry. -/
def State.group (s : State) (g : Nat) : Option Group := Tbl.get none s.fab.groups g

/-- Checks of a collective descriptor (R351, R357), landing targets apart. -/
def collBad (s : State) (j : Job) (d : XDesc) : Bool :=
  match s.group (d.peer.toNat % 256) with
  | none => true
  | some g =>
    let r := g.parts.length
    let n := d.len.toNat
    let own := shardOf n r g.rank
    let lbytes := if d.op = 0x11 then (own.2 - own.1) * elemSize d else n * elemSize d
    let rbytes := if d.op = 0x10 then (own.2 - own.1) * elemSize d else n * elemSize d
    let landing := d.op = 0x10 && d.lstack ≠ 0xFF
    256 ≤ d.peer.toNat || g.node ≠ j.node || g.tag.toNat ≠ j.tag || (d.dtype ≠ 0 && d.dtype ≠ 6) || n % (8 * r) ≠ 0
      || g.parts.any (fun p => p ≠ s.partIndex && (s.peer p).st = 0)
      || d.rcmpl ≠ 0 || !xSpace d.lda || (j.gap d.lda.toNat lbytes).isSome
      || (if landing then d.rda ≠ 0 || d.lofs.toNat % 32 ≠ 0 || 2 ^ 26 < d.lofs.toNat + rbytes || 16384 ≤ d.lregion.toNat
            || (j.gap (mkDa 4 d.lstack.toNat (d.lregion.toNat * 2 ^ 26 + d.lofs.toNat)) rbytes).isSome
          else !xSpace d.rda || (j.gap d.rda.toNat rbytes).isSome || d.lregion ≠ 0 || d.lofs ≠ 0)

/-- A descriptor that R351 calls invalid. -/
def descBad (s : State) (j : Job) (d : XDesc) : Bool :=
  let peer := d.peer.toNat
  let noLand := d.dtype = 0 && d.lstack = 0 && d.lregion = 0 && d.lofs = 0
  let peerBad := 1024 ≤ peer || peer = s.partIndex || (s.peer peer).st = 0
  d.rsv ≠ 0 || 2 ≤ d.flags.toNat || !cmplFits j d.lcmpl ||
  (if d.op = 1 || d.op = 2 then
     !noLand || peerBad || d.len = 0 || 2 ^ 31 < d.len.toNat || !xSpace d.lda || !xSpace d.rda || fld d.rcmpl 31 24 ≠ 0
       || (j.gap d.lda.toNat d.len.toNat).isSome
   else if d.op = 3 then
     !noLand || peerBad || d.len ≠ 0 || d.rcmpl ≠ 0 || !xSpace d.lda || 2 ^ 19 ≤ d.rda.toNat || (j.gap d.lda.toNat 64).isSome
   else if isColl d.op then d.len = 0 || 2 ^ 31 < d.len.toNat || collBad s j d
   else if d.op = 0x13 then
     !noLand || peer ≠ 0 || d.len ≠ 0 || d.lda ≠ 0 || d.rda ≠ 0 || d.rcmpl ≠ 0 || d.lcmpl ≠ 0 || !(s.training j.node).bound
   else true)

/-- A collective names a landing target wrongly (R357): with another operation or `DTYPE`. All-gather and all-reduce name none
with 0 as with 0xFF (log 36). -/
def landBad (d : XDesc) : Bool :=
  isColl d.op && (if d.op = 0x10 then d.lstack ≠ 0xFF && (d.dtype ≠ 6 || 5 < d.lstack.toNat) else d.lstack ≠ 0xFF && d.lstack ≠ 0)

/-- A descriptor is examined: invalid, it faults the job; else it joins its queue. A nonzero reserved field comes before a wrong
landing target (R10, R351, R357). -/
def examine (s : State) (qn : Nat) (d : XDesc) : State :=
  let q := s.xq qn
  match s.jobAt q.node with
  | none => s
  | some j =>
    if q.st ≠ 1 || !j.live then s.modFab (fun f => { f with disc := satAdd f.disc 1 })
    else if d.rsv = 0 && d.flags.toNat < 2 && landBad d then fabricFault s j.lowest 0x0D 0 0
    else if descBad s j d then fabricFault s q.owner 0x12 (d.peer.toNat % 1024) 0
    else s.modXq qn (fun q => { q with todo := q.todo ++ [d] })

/-- Read and examine descriptors `k` of them from a ring. -/
def readDescs (qn : Nat) : Nat → State → State
  | 0, s => s
  | k + 1, s =>
    let q := s.xq qn
    if q.st ≠ 1 then s
    else
      let f := memFetch s 5 (some (s.recorder q.owner)) (q.ring + 64 * (q.consumed.toNat % 2 ^ q.log2)) 64
      let s := f.st.modXq qn (fun q => { q with consumed := q.consumed + 1 })
      if f.bad.any id then poisonJob s q.owner
      else readDescs qn k (examine s qn (parseDesc f.bytes))

/-- `XBELL`: the producer word is read, and the new descriptors with it (R350). -/
def execXbell (qn : BitVec 19) (s : State) : Out :=
  let q := s.xq qn.toNat
  if q.st ≠ 1 then .next s
  else
    let f := memFetch s 5 (some (s.recorder q.owner)) (mkDa 1 q.owner q.bell) 4
    let n := (BitVec.ofNat 32 (leNat f.bytes) - q.consumed).toNat
    if f.bad.any id then .next (poisonJob f.st q.owner)
    else if 2 ^ q.log2 < n then .next (fabricFault f.st q.owner 0x12 0 0)
    else .next (readDescs qn.toNat n f.st)

/-- A descriptor of an operation is read from a queue. -/
def readOp (qn : BitVec 19) (d : XDesc) (op : Byte) (s : State) : Out :=
  if (s.xq qn.toNat).st = 1 then .next (examine s qn.toNat { d with op := op }) else .next s

/-- `XWRITE` (Table 12.9). -/
def execXwrite (qn : BitVec 19) (d : XDesc) (s : State) : Out := readOp qn d 0x01 s
/-- `XREAD` (Table 12.9). -/
def execXread (qn : BitVec 19) (d : XDesc) (s : State) : Out := readOp qn d 0x02 s
/-- `XPOST` (Table 12.9). -/
def execXpost (qn : BitVec 19) (d : XDesc) (s : State) : Out := readOp qn d 0x03 s
/-- `XRS` (Table 12.9). -/
def execXrs (qn : BitVec 19) (d : XDesc) (s : State) : Out := readOp qn d 0x10 s
/-- `XAG` (Table 12.9). -/
def execXag (qn : BitVec 19) (d : XDesc) (s : State) : Out := readOp qn d 0x11 s
/-- `XAR` (Table 12.9). -/
def execXar (qn : BitVec 19) (d : XDesc) (s : State) : Out := readOp qn d 0x12 s
/-- `XFIN` (Table 12.9). -/
def execXfin (qn : BitVec 19) (d : XDesc) (s : State) : Out := readOp qn d 0x13 s

/-- The packets of a message of bytes (R345). -/
def writePackets (s : State) (part tag : Nat) (d : XDesc) : List (XPkt × Option Nat) :=
  let n := d.len.toNat
  let m := s.maxPay
  (List.range ((n + m - 1) / m)).map (fun j =>
    ({ s.blankPkt part 1 0 with
        tag := BitVec.ofNat 32 tag, da := d.rda + BitVec.ofNat 64 (j * m), mofs := BitVec.ofNat 32 (j * m), mlen := d.len
        len := BitVec.ofNat 16 (min m (n - j * m)), cmpl := d.rcmpl },
      some (d.lda.toNat + j * m)))

/-- Start a message between two parts (R352); one to a lost peer faults the job with `PEER_LOST` (R346). -/
def startMessage (s : State) (qn : Nat) (j : Job) (d : XDesc) : State :=
  let part := d.peer.toNat
  let q := s.xq qn
  if (s.peer part).st = 2 then fabricFault s q.owner 0x0F part 0
  else
    let s := s.modXq qn (fun q => { q with busy := q.busy + 1 })
    let send := fun ps kind bytes => pump (enqueue s part 0 ps (some q.owner) kind d.lcmpl (some j.node) bytes) part
    if d.op = 1 then send (writePackets s part j.tag d) (.write qn) 0
    else if d.op = 3 then
      send [({ s.blankPkt part 4 0 with tag := BitVec.ofNat 32 j.tag, da := d.rda, mlen := 64, len := 64 }, some d.lda.toNat)] (.write qn) 0
    else
      send [({ s.blankPkt part 2 0 with tag := BitVec.ofNat 32 j.tag, da := d.rda, mlen := d.len, cmpl := d.rcmpl }, none)]
        (.read qn d.lda.toNat) d.len.toNat

end Sys2Proof.Machine
end

