-- ==== Sys2Proof/Machine/Collective.lean ====
section
/-! DEFINITION. The collective engine, landing units, the finite reduction, the common start of a job, and what a received
datagram does ("Cuffs, Ethernet and the Xobex transport" R342, R343, R357 to R365; "Training, gradients and optimizer state"
R315 to R322). -/

namespace Sys2Proof.Machine

/-! ## Instances (R358 to R361) -/

/-- The instance of a group and number. -/
def State.inst (s : State) (g n : Nat) : Option CollInst := s.fab.insts.find? (fun i => i.group = g && i.num = n)

/-- Change an instance. -/
def modInst (s : State) (g n : Nat) (f : CollInst → CollInst) : State :=
  s.modFab (fun x => { x with insts := x.insts.map (fun i => if i.group = g && i.num = n then f i else i) })

/-- Elements of a chunk of 4,096 bytes. -/
def chunkElems (d : XDesc) : Nat := 4096 / elemSize d

/-- Chunks of a shard. -/
def shardChunks (d : XDesc) (r k : Nat) : Nat :=
  let x := shardOf d.len.toNat r k
  (x.2 - x.1 + chunkElems d - 1) / chunkElems d

/-- Bytes of chunk c of shard k. -/
def chunkBytes (d : XDesc) (r k c : Nat) : Nat :=
  let x := shardOf d.len.toNat r k
  min (chunkElems d) (x.2 - x.1 - c * chunkElems d) * elemSize d

/-- Byte offset of chunk c of shard k in the full vector. -/
def chunkOfs (d : XDesc) (r k c : Nat) : Nat := ((shardOf d.len.toNat r k).1 + c * chunkElems d) * elemSize d

/-- Ranks of a group other than this part's. -/
def Group.others (g : Group) : List Nat := (List.range g.parts.length).filter (· ≠ g.rank)

/-- A collective control payload to a rank. -/
def sendColl (s : State) (g : Group) (rank : Nat) (body : List Byte) : State :=
  sendControl s (g.parts.getD rank 0) 7 g.tag.toNat (some g.node) body

/-- `READY` of an instance to every other rank (R358, R360). -/
def sendReady (s : State) (g : Group) (i : CollInst) : State :=
  g.others.foldl (fun s k => sendColl s g k ([1, BitVec.ofNat 8 i.group, 0, 0] ++ leBytes 4 i.num ++ [i.d.op, i.d.dtype, 0, 0]
    ++ leBytes 4 i.d.len.toNat)) s

/-- A collective's job faults. -/
def collFault (s : State) (i : CollInst) (code peer : Nat) : State := fabricFault s (s.xq i.qn).owner code peer 0

/-- Fetch what may be fetched now: at most 64 requests outstanding, and in an all-reduce's gather only from ranks whose second
`READY` has arrived (R359, R360). The address that another rank's descriptor names is not in any message: it is free (log 35). -/
def issueFetches (grp n : Nat) : Nat → State → State
  | 0, s => s
  | k + 1, s =>
    match s.inst grp n, s.group grp with
    | some i, some g =>
      if 64 ≤ i.asked.length then s
      else
        match i.todo.find? (fun e => i.phase ≠ .gather || i.d.op ≠ 0x12 || i.ready2.contains e.1) with
        | none => s
        | some e =>
          let part := g.parts.getD e.1 0
          let shard := if i.phase = .gather then e.1 else g.rank
          let len := chunkBytes i.d g.parts.length shard e.2
          let p := { s.blankPkt part 2 0 with
            tag := g.tag, flags := 4, da := BitVec.ofNat 64 (Config.freeNat s.draws), mlen := BitVec.ofNat 32 len }
          let kind := XKind.fetch grp n (if i.phase = .gather then 1 else 0) e.1 e.2
          let s := enqueue (s.drawn 1) part 0 [(p, none)] (some (s.xq i.qn).owner) kind 0 (some g.node) len
          let s := modInst s grp n (fun i => { i with todo := i.todo.erase e, asked := i.asked ++ [e] })
          issueFetches grp n k (pump s part)
    | _, _ => s

/-- The k-th of a list of bytes with marks as elements: value and mark. -/
def chunkVals (d : XDesc) (bs : List (Option Byte)) : List (Word × Bool) :=
  let e := elemSize d
  (List.range (bs.length / e)).map (fun i =>
    let x := (bs.drop (i * e)).take e
    let v := leNat (x.map (·.getD 0))
    (if e = 4 then BitVec.ofNat 32 v else (toBin32 (fp16 (BitVec.ofNat 16 v))).1, x.any (·.isNone)))

/-- Combine the contributions of a chunk by the tree of R122 (R315). -/
def combineChunk (d : XDesc) (xs : List (List (Option Byte))) : List Byte × List Bool :=
  let vs := xs.map (chunkVals d)
  let n := (vs.headD []).length
  let r := (List.range n).map (fun i =>
    let col := vs.map (fun v => v.getD i (0, false))
    ((tree32 add32 (col.map (·.1))).1, col.any (·.2)))
  let e := elemSize d
  (r.flatMap (fun x => leBytes e (if e = 4 then x.1.toNat else (rne16 x.1).1.toNat)), r.flatMap (fun x => List.replicate e x.2))

/-- An element that is infinite or NaN (R321). -/
def notFinite (d : XDesc) (bs : List Byte) : Bool :=
  let e := elemSize d
  (List.range (bs.length / e)).any (fun i =>
    let v := leNat ((bs.drop (i * e)).take e)
    if e = 4 then bits v 30 23 = 0xFF else bits v 14 10 = 0x1F)

/-- A region refuses the engine's access, with `MEM_BANK_OWNED` or `MEM_UNMAPPED`: the job faults (R260, log 108). -/
def collRefused (s : State) (i : CollInst) (status : Nat) : State := fabricFault s (s.xq i.qn).owner 0x10 0 status

/-- The bytes that an instance waits to write, in order, as far as their regions take them (Tables 6.3, 9.3). -/
def flushOuts (grp n : Nat) : Nat → State → State
  | 0, s => s
  | k + 1, s =>
    match s.inst grp n with
    | none => s
    | some i =>
      match i.outs with
      | [] => s
      | (da, data, bad) :: rest =>
        match orgWriteRange s da data.length with
        | .serve =>
          if s.mayWrite da data.length && s.orgLinked [(da, data.length)] then
            flushOuts grp n k (modInst (orgWrite s (some (s.xq i.qn).owner) da data bad) grp n (fun i => { i with outs := rest }))
          else s
        | .wait s => s
        | .bank => collRefused (modInst s grp n (fun i => { i with outs := rest })) i 0x25
        | .unmapped => collRefused (modInst s grp n (fun i => { i with outs := rest })) i 0x26

/-- An instance writes bytes: at once, or behind those that wait. -/
def collWrite (s : State) (i : CollInst) (da : Nat) (data : List Byte) (bad : List Bool) : State :=
  let s := modInst s i.group i.num (fun i => { i with outs := i.outs ++ [(da, data, bad)] })
  flushOuts i.group i.num (((s.inst i.group i.num).map (·.outs.length)).getD 0) s

/-- Write a result chunk of a reduce-scatter or of an all-reduce's own shard: to memory, or to a landing target (R359, R316);
`FIN` (R321) and poison (R361). -/
def writeChunk (s : State) (i : CollInst) (g : Group) (c : Nat) (data : List Byte) (bad : List Bool) : State :=
  let owner := (s.xq i.qn).owner
  let s := if i.d.op = 0x10 && notFinite i.d data && (s.training g.node).bound then s.modTraining g.node (fun t => { t with fin := false }) else s
  let s := if bad.any id then poisonJob s owner else s
  let rel := c * chunkElems i.d * elemSize i.d
  if i.d.op = 0x10 && i.d.lstack ≠ 0xFF then
    let l : LandChunk := {
      node := g.node, stack := i.d.lstack.toNat, region := i.d.lregion.toNat, ofs := i.d.lofs.toNat + rel, data := data, bad := bad
      group := i.group, num := i.num, since := 0 }
    s.modFab (fun f => { f with deliver := f.deliver ++ [l] })
  else
    let ofs := if i.d.op = 0x12 then chunkOfs i.d g.parts.length g.rank c else rel
    modInst (collWrite s i (i.d.rda.toNat + ofs) data bad) i.group i.num (fun i => { i with left := i.left - 1 })

/-- Read bytes of this part's own contribution or shard and go on with them; a region not resident makes the read wait, to be tried
again (Tables 6.3, 9.3). -/
def ownBytes (s : State) (i : CollInst) (da n : Nat) (go : State → List (Option Byte) → State) : State :=
  match orgAccessRange s da n with
  | .serve =>
    if s.orgLinked [(da, n)] then
      let f := orgRead s 5 (some (s.recorder (s.xq i.qn).owner)) da n
      go f.st ((f.bytes.zip f.bad).map (fun e => if e.2 then none else some e.1))
    else s
  | .wait s => s
  | .bank => collRefused s i 0x25
  | .unmapped => collRefused s i 0x26

/-- Reduce a chunk of the own shard once every rank's contribution is in. -/
def reduceChunk (s : State) (i : CollInst) (g : Group) (c : Nat) : State :=
  let r := g.parts.length
  if !g.others.all (fun k => (Tbl.get [] i.got (c * 1024 + k)).length = chunkBytes i.d r g.rank c) then s
  else
    ownBytes s i (i.d.lda.toNat + chunkOfs i.d r g.rank c) (chunkBytes i.d r g.rank c) (fun s own =>
      let xs := (List.range r).map (fun k => if k = g.rank then own else Tbl.get [] i.got (c * 1024 + k))
      let v := combineChunk i.d xs
      let s := modInst s i.group i.num (fun i => { i with got := i.got.filter (fun e => e.1 / 1024 ≠ c), own := i.own.filter (· ≠ c) })
      writeChunk s i g c v.1 v.2)

/-- Send `FETCHED` to the ranks from which everything needed has been fetched (R359). -/
def sendFetched (s : State) (g : Group) (i : CollInst) (ks : List Nat) : State :=
  ks.foldl (fun s k => sendColl s g k ([2, BitVec.ofNat 8 i.group, 0, 0] ++ leBytes 4 i.num)) s

/-- (rank, chunk) pairs of a phase. -/
def fetchList (d : XDesc) (g : Group) (gather : Bool) : List (Nat × Nat) :=
  g.others.flatMap (fun k => (List.range (shardChunks d g.parts.length (if gather then k else g.rank))).map (fun c => (k, c)))

/-- Write this part's own shard of an all-gather, chunk by chunk, as far as its regions serve it. -/
def copyOwnShard (grp n : Nat) (g : Group) (s : State) : State :=
  (((s.inst grp n).map (·.own)).getD []).foldl (fun s c =>
    match s.inst grp n with
    | none => s
    | some i =>
      if !i.own.head?.any (· = c) then s
      else ownBytes s i (i.d.lda.toNat + c * 4096) (chunkBytes i.d g.parts.length g.rank c) (fun s bs =>
        let s := if bs.any (·.isNone) then poisonJob s (s.xq i.qn).owner else s
        let s := modInst s grp n (fun i => { i with own := i.own.drop 1 })
        collWrite s i (i.d.rda.toNat + chunkOfs i.d g.parts.length g.rank c) (bs.map (·.getD 0)) (bs.map (·.isNone)))) s

/-- Enter the gather phase of an all-reduce once the own shard is written (R360). -/
def startGather (s : State) (grp n : Nat) : State :=
  match s.inst grp n, s.group grp with
  | some i, some g =>
    if i.d.op = 0x12 && i.phase = .reduce && i.left = 0 && i.outs = [] then
      let todo := fetchList i.d g true
      let s := modInst s grp n (fun i => { i with phase := .gather, todo := todo, left := todo.length })
      issueFetches grp n 65 (sendReady s g i)
    else s
  | _, _ => s

/-- Every rank is ready: the instance begins its work (R359, R360). -/
def beginColl (s : State) (grp n : Nat) : State :=
  match s.inst grp n, s.group grp with
  | some i, some g =>
    if i.phase ≠ .ready || !g.others.all i.ready.contains then s
    else if i.d.op = 0x11 then
      let todo := fetchList i.d g true
      let s := modInst s grp n (fun i => { i with
        phase := .gather, todo := todo, left := todo.length, own := List.range (shardChunks i.d g.parts.length g.rank) })
      issueFetches grp n 65 (copyOwnShard grp n g s)
    else
      let todo := fetchList i.d g false
      let chunks := shardChunks i.d g.parts.length g.rank
      let s := modInst s grp n (fun i => { i with
        phase := .reduce, todo := todo, left := chunks, own := if g.others = [] then List.range chunks else [] })
      -- a group of one part reduces at once
      let s := if g.others = [] then (List.range chunks).foldl (fun s c =>
          match s.inst grp n with
          | some i => reduceChunk s i g c
          | none => s) s
        else issueFetches grp n 65 s
      startGather s grp n
  | _, _ => s

/-- Bytes fetched by a collective arrive (R359, R360). -/
def collArrive (s : State) (grp n phase rank c : Nat) (bs : List (Option Byte)) : State :=
  match s.inst grp n, s.group grp with
  | some i, some g =>
    let key := c * 1024 + rank
    let now := Tbl.get [] i.got key ++ bs
    let shard := if phase = 1 then rank else g.rank
    let s := modInst s grp n (fun i => { i with got := Tbl.set [] i.got key now })
    if now.length < chunkBytes i.d g.parts.length shard c then s
    else
      let s := modInst s grp n (fun i => { i with asked := i.asked.erase (rank, c) })
      let s := if phase = 1 then
          let owner := (s.xq i.qn).owner
          let bad := now.map (·.isNone)
          let s := if bad.any id then poisonJob s owner else s
          let s := collWrite s i (i.d.rda.toNat + chunkOfs i.d g.parts.length rank c) (now.map (·.getD 0)) bad
          modInst s grp n (fun i => { i with left := i.left - 1, got := Tbl.erase i.got key })
        else
          match s.inst grp n with
          | some i => reduceChunk s i g c
          | none => s
      let s := match s.inst grp n with
        | some j =>
          let last := !(j.todo ++ j.asked).any (fun e => e.1 = rank) && (j.d.op ≠ 0x12 || phase = 1)
          if last then sendFetched s g j [rank] else s
        | none => s
      startGather (issueFetches grp n 65 s) grp n
  | _, _ => s

/-- A `READY` from a rank meets the instance: a difference faults the job (R358); a second one opens the gather (R360). -/
def meetReady (s : State) (grp n rank : Nat) (what : Nat × Nat × Nat) : State :=
  match s.inst grp n, s.group grp with
  | some i, some g =>
    if what ≠ (i.d.op.toNat, i.d.dtype.toNat, i.d.len.toNat) then collFault s i 0x11 (g.parts.getD rank 0)
    else if i.ready.contains rank then
      issueFetches grp n 65 (modInst s grp n (fun i => { i with ready2 := i.ready2 ++ [rank] }))
    else
      let s := modInst s grp n (fun i => { i with ready := i.ready ++ [rank] })
      let all := g.others.all (fun k => k = rank || i.ready.contains k)
      let part := g.parts.getD rank 0
      let s := if all then s.modFab (fun f => { f with
          pace := Tbl.modify XPace.init f.pace g.node (fun p => { p with lates := p.lates ++ [(p.windows.toNat, part)] }) }) else s
      beginColl s grp n
  | _, _ => s

/-- Start a collective: instance n of its group, with `READY` to every other rank (R358). -/
def startColl (s : State) (qn : Nat) (d : XDesc) : State :=
  let grp := d.peer.toNat % 256
  match s.group grp with
  | none => s
  | some g =>
    let i : CollInst := {
      group := grp, num := g.count, qn := qn, d := d, phase := .ready, ready := [], ready2 := [], fetched := [], todo := [], asked := []
      got := [], left := 0, own := [], outs := [] }
    let s := s.modXq qn (fun q => { q with busy := q.busy + 1 })
    let s := s.modFab (fun f => { f with
      groups := Tbl.set none f.groups grp (some { g with count := g.count + 1 }), insts := f.insts ++ [i] })
    let s := beginColl (sendReady s g i) grp i.num
    let mine := s.fab.early.filter (fun e => e.group = grp && e.num = i.num)
    let s := s.modFab (fun f => { f with early := f.early.filter (fun e => !(e.group = grp && e.num = i.num)) })
    mine.foldl (fun s e =>
      match e.ready with
      | some w => meetReady s grp i.num e.rank w
      | none => modInst s grp i.num (fun i => { i with fetched := i.fetched ++ [e.rank] })) s

/-! ## The finite reduction (R321, R322, R362) -/

/-- The verdict of a finite reduction acts on this part, in the order of R322 (Table 11.5). -/
def applyVerdict (s : State) (node : Nat) (v : Bool) : State :=
  let s := s.modTraining node (fun t => { t with
    verdict := v, skips := if v then t.skips else bump t.skips 1, step := bump t.step 1, reducing := false })
  let t := s.training node
  let one := 0x3F800000
  let block := leBytes 4 (if v then one else 0) ++ leBytes 4 (if v then 0 else one) ++ leBytes 8 (t.step - 1).toNat
    ++ leBytes 8 t.step.toNat ++ leBytes 8 t.skips.toNat ++ List.replicate 32 0
  fabricCmpl (memWrite s none t.resultDa block) t.resultCmpl

/-- Rank 0 of a job: with every word in, the AND goes to every part (R362). -/
def decideVerdict (s : State) (j : Job) (n : Nat) : State :=
  let t := s.training j.node
  let ps := if j.parts = [] then [s.partIndex] else j.parts
  let ws := ps.map (fun p => Tbl.get 0 t.finWords (n * 1024 + p % 1024))
  if ws.contains 0 then s
  else
    let v := ws.all (· = 2)
    let s := s.modTraining j.node (fun t => { t with finWords := t.finWords.filter (fun e => e.1 / 1024 ≠ n) })
    let s := (s.otherParts j).foldl (fun s p =>
      sendControl s p 7 j.tag (some j.node) ([4, 0, 0, 0] ++ leBytes 4 n ++ [if v then 1 else 0])) s
    applyVerdict s j.node v

/-- `XFIN` starts on this part (R321, R362). -/
def startFin (s : State) (j : Job) : State :=
  let t := s.training j.node
  let n := t.started
  let s := s.modTraining j.node (fun t => { t with fin := true, reducing := true, started := t.started + 1 })
  let first := j.parts.headD s.partIndex
  if first = s.partIndex then
    let s := s.modTraining j.node (fun x => { x with finWords := Tbl.set 0 x.finWords (n * 1024 + s.partIndex % 1024) (1 + b2n t.fin) })
    decideVerdict s j n
  else sendControl s first 7 j.tag (some j.node) ([3, 0, 0, 0] ++ leBytes 4 n ++ [if t.fin then 1 else 0])

/-- May a queue start its next message: none it must be fenced behind, room for an instance of its group, and no finite reduction
in progress (R350, R352, R358)? -/
def mayStartNext (s : State) (q : XQueue) : Bool :=
  match q.todo with
  | [] => false
  | d :: _ =>
    q.st = 1 && !(bit d.flags.toNat 0 && q.busy ≠ 0)
      && !(isColl d.op && 4 ≤ (s.fab.insts.filter (fun i => i.group = d.peer.toNat % 256)).length)
      && !(d.op = 0x13 && (s.training q.node).reducing)

/-- `XOBEX_MESSAGE_START`: the next queue in round-robin order starts its next message (R352). -/
def execXobexMessageStart (s : State) : Out :=
  let ready := s.fab.queues.filter (fun e => mayStartNext s e.2)
  match (ready.filter (fun e => s.fab.turn < e.1) ++ ready).head? with
  | none => .next s
  | some (qn, q) =>
    match q.todo, s.jobAt q.node with
    | d :: rest, some j =>
      let s := (s.modXq qn (fun q => { q with todo := rest })).modFab (fun f => { f with turn := qn })
      if isColl d.op then
        match ((s.group (d.peer.toNat % 256)).map (·.parts)).bind (fun ps => ps.find? (fun p => p ≠ s.partIndex && (s.peer p).st = 2)) with
        | some p => .next (fabricFault s q.owner 0x0F p 0)
        | none => .next (startColl s qn d)
      else if d.op = 0x13 then .next (startFin s j)
      else .next (startMessage s qn j d)
    | _, _ => .next s

/-- What an instance waits for a region with is tried again: its own shard, its reductions, its writes (Table 6.3). -/
def retryColl (g : Group) (s : State) (i : CollInst) : State :=
  let s := flushOuts i.group i.num i.outs.length s
  startGather (if i.phase = .reduce then (i.own ++ (i.got.map (fun (e : Nat × List (Option Byte)) => e.1 / 1024)).dedup).foldl (fun s c =>
    match s.inst i.group i.num with
    | some i => if i.own.contains c || g.others.any (fun k => Tbl.get [] i.got (c * 1024 + k) ≠ []) then reduceChunk s i g c else s
    | none => s) s else copyOwnShard i.group i.num g s) i.group i.num

/-- `COLLECTIVE_COMPLETE`: everything of an instance is written and every other rank has fetched: `LCMPL` is applied (R361). -/
def execCollectiveComplete (group : Byte) (s : State) : Out :=
  match s.group group.toNat with
  | none => .next s
  | some g =>
    let s := (s.fab.insts.filter (fun i => i.group = group.toNat)).foldl (retryColl g) s
    let done := fun (i : CollInst) => i.group = group.toNat && i.todo = [] && i.asked = [] && i.left = 0 && i.own = [] && i.outs = []
      && g.others.all i.fetched.contains && (if i.d.op = 0x10 then i.phase = .reduce else i.phase = .gather)
    match s.fab.insts.find? done with
    | none => .next s
    | some i =>
      let s := s.modFab (fun f => { f with insts := f.insts.erase i, instCount := satAdd f.instCount 1 })
      .next (fabricCmpl (endQueueMsg s i.qn) i.d.lcmpl)

/-! ## Landing (R316 to R319) -/

/-- What Table 11.2 says of a chunk's region. -/
inductive Landing where
  /-- written -/
  | write
  /-- held; the part with a page-in started where one is due -/
  | hold (st : State)
  /-- discarded -/
  | discard
  deriving DecidableEq, Repr

/-- The outcome of a chunk by its region's state (Table 11.2). -/
def landing (s : State) (c : LandChunk) : Landing :=
  let r := s.region c.stack c.region
  let busy := !(s.stack c.stack).allQuiet || (s.stack c.stack).active.any (fun j => match j with
    | .copyIn g .. => g = c.region
    | .copyOut g .. => g = c.region
    | .digest g .. => g = c.region
    | _ => false)
  match r.st with
  | .unmapped => .discard
  | .spilled => .hold (startPageIn s c.stack c.region)
  | .pageOut => .hold s
  | .pageIn => .hold s
  | .resident =>
    if !(s.stack c.stack).linkUp then .hold s
    else if !s.mayWrite (regionDa c.stack c.region c.ofs) c.data.length then .hold s
    else if r.bank = .normal || (r.bank = .bank && !busy) then .write else .hold s

/-- Write a chunk into its region (R317, R319). -/
def landWrite (s : State) (c : LandChunk) : State :=
  let owner := ((s.jobAt c.node).map (·.lowest))
  let da := regionDa c.stack c.region c.ofs
  let s := writeThrough (s.openRows da c.data.length) owner da c.data c.bad s.partIndex
  let s := modInst s c.group c.num (fun i => { i with left := i.left - 1 })
  s.modTraining c.node (fun t => { t with
    landChunk := bump t.landChunk 1, landHold := bump t.landHold (if c.since = 0 then 0 else s.us + 1 - c.since) })

/-- `LANDING_CHUNK`: the next chunk for a stack takes a credit and arrives: written, held or discarded (R316, R317). -/
def execLandingChunk (stack : Fin 6) (s : State) : Out :=
  match s.fab.deliver.find? (fun c => c.stack = stack.val) with
  | none => .next s
  | some c =>
    if 2048 ≤ (s.fab.landed.filter (fun c => c.stack = stack.val)).length then .next s
    else
      let s := s.modFab (fun f => { f with deliver := f.deliver.erase c })
      -- chunks for one region are written in arrival order
      let behind := s.fab.landed.any (fun x => x.stack = c.stack && x.region = c.region)
      let held := fun (s : State) => s.modFab (fun f => { f with landed := f.landed ++ [{ c with since := s.us + 1 }] })
      match landing s c with
      | .write => .next (if behind then held s else landWrite s c)
      | .hold s => .next (held s)
      | .discard =>
        match s.jobAt c.node with
        | some j => .next (fabricFault s j.lowest 0x0D 0 0)
        | none => .next s

/-- `HELD_CHUNK_WRITE`: the oldest chunk held for a region is written once the region takes it (R317). -/
def execHeldChunkWrite (stack : Fin 6) (region : Fin 16384) (s : State) : Out :=
  match s.fab.landed.find? (fun c => c.stack = stack.val && c.region = region.val) with
  | none => .next s
  | some c =>
    match landing s c with
    | .write => .next (landWrite (s.modFab (fun f => { f with landed := f.landed.erase c })) c)
    | .hold s => .next s
    | .discard =>
      let s := s.modFab (fun f => { f with landed := f.landed.erase c })
      match s.jobAt c.node with
      | some j => .next (fabricFault s j.lowest 0x0D 0 0)
      | none => .next s

/-! ## The common start (R363) -/

/-- The common start of a tag. -/
def State.sync (s : State) (tag : Nat) : Option Sync := s.fab.syncs.find? (fun x => x.tag = tag)

/-- Change, or open, the common start of a tag. -/
def modSync (s : State) (tag : Nat) (f : Sync → Sync) : State :=
  let blank : Sync := { tag := tag, own := false, parts := [], ready := [], abort := none, go := false, aborted := false, since := 0, image := [] }
  s.modFab (fun x => { x with
    syncs := x.syncs.filter (fun y => y.tag ≠ tag) ++ [f ((x.syncs.find? (fun y => y.tag = tag)).getD blank)] })

/-- A `SYNC` payload to a part (Table 12.6). -/
def sendSync (s : State) (part tag kind image status : Nat) : State :=
  sendControl s part 9 tag none ([BitVec.ofNat 8 kind, 0, 0, 0] ++ leBytes 8 image ++ leBytes 1 status)

/-- Send `ABORT` to the other parts of a job and refuse the own load (R363). -/
def syncAbort (s : State) (tag status : Nat) : State :=
  match s.sync tag with
  | none => s
  | some y =>
    let s := (y.parts.filter (· ≠ s.partIndex)).foldl (fun s p => sendSync s p tag 3 0 status) s
    modSync s tag (fun y => { y with aborted := true, abort := some status })

/-- Rank 0 sends `GO` or `ABORT` when it can (R363). -/
def syncDecide (s : State) (tag : Nat) : State :=
  match s.sync tag with
  | none => s
  | some y =>
    if !y.own || y.go || y.aborted || y.parts.headD 0xFFFF ≠ s.partIndex then s
    else
      match y.abort with
      | some st => syncAbort s tag st
      | none =>
        let others := y.parts.filter (· ≠ s.partIndex)
        if others.all y.ready.contains then
          modSync (others.foldl (fun s p => sendSync s p tag 2 0 0) s) tag (fun y => { y with go := true })
        else s

/-- `SYNC_TIMEOUT`: 10 s have passed without the answer that the part waits for (R363). -/
def execSyncTimeout (tag : Word) (s : State) : Out :=
  match s.sync tag.toNat with
  | none => .next s
  | some y =>
    if !y.own || y.go || y.abort.isSome || s.us < y.since + 10000000 then .next s
    else if y.parts.headD 0xFFFF = s.partIndex then .next (syncAbort s tag.toNat 0x3F)
    else .next (modSync s tag.toNat (fun y => { y with abort := some 0x3F }))

/-! ## Arrival of datagrams (R342, R343) -/

/-- The checks of R342 on an arriving datagram. -/
def xAccepts (s : State) (d : XIn) : Bool :=
  d.pkt.icrc.toNat = pktCrc d.pkt && d.pkt.ver = 1 && 1 ≤ d.pkt.typ.toNat && d.pkt.typ.toNat ≤ 10
    && (s.peer (d.pkt.src.toNat % 1024)).paths.any (fun p => p.1 && p.2.1 = d.addr.toNat)

/-- The rank of a part in a group. -/
def Group.rankOf (g : Group) (part : Nat) : Nat := (g.parts.findIdx? (· = part)).getD 0

/-- Commit a `COLL` payload (Table 12.6). -/
def commitColl (s : State) (part : Nat) (p : XPkt) : State :=
  let grp := leField p.data 1 1
  let n := leField p.data 4 7
  let early := fun (s : State) (g : Group) (r : Option (Nat × Nat × Nat)) =>
    s.modFab (fun f => { f with early := f.early ++ [{ group := grp, num := n, rank := g.rankOf part, ready := r }] })
  match leField p.data 0 0 with
  | 1 =>
    match s.group grp with
    | none => s
    | some g =>
      let w := (leField p.data 8 8, leField p.data 9 9, leField p.data 12 15)
      if (s.inst grp n).isSome then meetReady s grp n (g.rankOf part) w else early s g (some w)
  | 2 =>
    match s.group grp with
    | none => s
    | some g =>
      if (s.inst grp n).isSome then modInst s grp n (fun i => { i with fetched := i.fetched ++ [g.rankOf part] }) else early s g none
  | 3 =>
    match s.jobTag p.tag.toNat with
    | none => s
    | some j =>
      let s := s.modTraining j.node (fun t => { t with
        finWords := Tbl.set 0 t.finWords (n * 1024 + part) (1 + leField p.data 8 8 % 2) })
      if (s.training j.node).bound then decideVerdict s j n else s
  | 4 =>
    match s.jobTag p.tag.toNat with
    | none => s
    | some j => if (s.training j.node).bound then applyVerdict s j.node (leField p.data 8 8 % 2 = 1) else s
  | _ => s

/-- Commit a `HALT`: the running job halts, and does not forward it; a job that has faulted ignores it (R364). -/
def commitHalt (s : State) (p : XPkt) : State :=
  match s.jobTag p.tag.toNat with
  | none => s
  | some j => if j.live then beginHalt s j.node (some (BitVec.ofNat 32 (leField p.data 4 7), leField p.data 8 9)) else s

/-- Commit a `SYNC` payload (R363). -/
def commitSync (s : State) (part : Nat) (p : XPkt) : State :=
  let tag := p.tag.toNat
  match leField p.data 0 0 with
  | 1 =>
    match s.sync tag with
    | some y =>
      if y.aborted then sendSync s part tag 3 (leField p.data 4 11) (y.abort.getD 0x3F)
      else syncDecide (modSync s tag (fun y => { y with ready := y.ready ++ [part] })) tag
    | none => modSync s tag (fun y => { y with ready := [part] })
  | 2 => modSync s tag (fun y => if y.abort.isSome then y else { y with go := true })
  | 3 => syncDecide (modSync s tag (fun y => { y with abort := some (y.abort.getD (leField p.data 12 12)) })) tag
  | _ => s

/-- Commit an `RRSP`: to memory for an `XREAD`, to the collective engine for a fetch (R352, R359). -/
def commitRsp (s : State) (part : Nat) (p : XPkt) : State :=
  match (s.sendCtx part 0).msgs.find? (fun m => m.id = p.msg.toNat) with
  | none => s
  | some m =>
    match m.kind with
    | .read qn lda => landRead s part qn lda p
    | .fetch g n ph rank c =>
      let bs := (p.data.zip (markedBytes p)).map (fun e => if e.2 then none else some e.1)
      collArrive (takeRsp s part p) g n ph rank c bs
    | _ => s

/-- The effect of a packet that commits (R342). -/
def commitPkt (s : State) (part : Nat) (p : XPkt) : State :=
  match p.typ.toNat with
  | 1 => commitWrite s part p
  | 2 => commitRead s part p
  | 3 => commitRsp s part p
  | 4 => commitPost s part p
  | 7 => commitColl s part p
  | 8 => commitHalt s p
  | 9 => commitSync s part p
  | 10 => s.modFab (fun f => { f with mgmt := f.mgmt ++ [(part, p.data)] })
  | _ => s

/-- The packet is the last of its message. -/
def lastOfMsg (p : XPkt) : Bool := p.typ ≠ 1 && p.typ ≠ 3 || p.mlen.toNat ≤ p.mofs.toNat + p.len.toNat

/-- Commit the packet with the next number, and those held behind it; ACKs as R343 asks. -/
def commitNext (part ctx : Nat) : Nat → State → XPkt → State
  | 0, s, _ => s
  | k + 1, s, p =>
    let s := (s.modRecv part ctx (fun c => { c with expect := c.expect + 1, since := c.since + 1 })).modFab (fun f => { f with rx := bump f.rx 1 })
    let s := commitPkt s part p
    let s := if lastOfMsg p || 16 ≤ (s.recvCtx part ctx).since then sendAck s part ctx else s
    let c := s.recvCtx part ctx
    match c.held.find? (fun x => x.psn = c.expect) with
    | none => s
    | some x => commitNext part ctx k (s.modRecv part ctx (fun c => { c with held := c.held.erase x })) x

/-- Bytes in the reorder memory of the engine that owns a peer: even-numbered peers north, odd south (R340, R342). -/
def State.reorderBytes (s : State) (part : Nat) : Nat :=
  ((s.fab.recv.filter (fun e => e.1 / 2 % 2 = part % 2)).map (fun e => (e.2.held.map (fun p => 64 + p.data.length)).sum)).sum

/-- An arrival that did not advance a context is acknowledged, at most once per 0.25 µs (R343). -/
def oooAck (s : State) (part ctx : Nat) : State :=
  let c := s.recvCtx part ctx
  if c.lastOoo ≠ 0 && s.ticks < c.lastOoo - 1 + 400 then s
  else (sendAck s part ctx).modRecv part ctx (fun c => { c with lastOoo := s.ticks + 1 })

/-- A numbered packet arrives in its context (R342). -/
def receive (s : State) (part ctx : Nat) (p : XPkt) (ce : Bool) : State :=
  let s := s.modRecv part ctx (fun c => { c with
    oldest := if c.oldest = 0 then s.ticks + 1 else c.oldest, ce := c.ce || ce })
  let c := s.recvCtx part ctx
  let ahead := (p.psn - c.expect).toNat
  if ahead = 0 then commitNext part ctx 257 s p
  else if 2 ^ 31 ≤ ahead then sendAck s part ctx
  else if 256 ≤ ahead || 2 ^ 24 < s.reorderBytes part + 64 + p.data.length then s.modFab (fun f => { f with reord := satAdd f.reord 1 })
  else
    let s := if c.held.any (fun x => x.psn = p.psn) then s else s.modRecv part ctx (fun c => { c with held := c.held ++ [p] })
    oooAck s part ctx

/-- A NAK faults the sending job with `XOBEX_REFUSED`; one with `X_NOJOB` for a job that has faulted changes nothing (R355). -/
def receiveNak (s : State) (part ctx : Nat) (p : XPkt) : State :=
  match (s.sendCtx part ctx).msgs.find? (fun m => m.id = p.msg.toNat) with
  | none => s
  | some m =>
    let faulted := (m.node.bind s.jobAt).any (fun j => j.phase = .faulting || j.phase = .faulted)
    if p.status = 0x3E && faulted then s else msgFault s m 0x10 part p.status.toNat

/-- A Xobex datagram of a type arrives: counted on its Cuff, checked, and handled (R342 to R344). -/
def arrive (typ : Nat) (d : XIn) (s : State) : Out :=
  let d := { d with pkt := { d.pkt with typ := BitVec.ofNat 8 typ } }
  let s := s.modCuff d.cuff (fun c => { c with rx := bump c.rx 1, ce := if d.ce then satAdd c.ce 1 else c.ce })
  let part := d.pkt.src.toNat % 1024
  let ctx := d.pkt.ctx.toNat % 2
  if !xAccepts s d then .next (s.modFab (fun f => { f with icrc := satAdd f.icrc 1 }))
  else if (s.peer part).st ≠ 1 then .next s
  else if typ = 5 then .next (applyAck s part ctx d.pkt)
  else if typ = 6 then .next (applyAck (receiveNak s part ctx d.pkt) part ctx d.pkt)
  else .next (pump (receive s part ctx d.pkt d.ce) part)

/-- A control payload of a kind arrives. -/
def arriveKind (typ kind : Nat) (d : XIn) (s : State) : Out :=
  arrive typ { d with pkt := { d.pkt with data := BitVec.ofNat 8 kind :: d.pkt.data.drop 1 } } s

/-- `XOB_WRITE` (R354). -/
def execXobWrite (d : XIn) (s : State) : Out := arrive 1 d s
/-- `RREQ` (R354). -/
def execRreq (d : XIn) (s : State) : Out := arrive 2 d s
/-- `RRSP` (R352). -/
def execRrsp (d : XIn) (s : State) : Out := arrive 3 d s
/-- `XOB_POST` (R354). -/
def execXobPost (d : XIn) (s : State) : Out := arrive 4 d s
/-- `ACK` (R344). -/
def execAck (d : XIn) (s : State) : Out := arrive 5 d s
/-- `NAK` (R355). -/
def execNak (d : XIn) (s : State) : Out := arrive 6 d s
/-- `COLL_READY` (R358). -/
def execCollReady (d : XIn) (s : State) : Out := arriveKind 7 1 d s
/-- `FETCHED` (R359). -/
def execFetched (d : XIn) (s : State) : Out := arriveKind 7 2 d s
/-- `FINWORD` (R362). -/
def execFinword (d : XIn) (s : State) : Out := arriveKind 7 3 d s
/-- `VERDICT` (R322). -/
def execVerdict (d : XIn) (s : State) : Out := arriveKind 7 4 d s
/-- `XOBEX_HALT` (R364). -/
def execXobexHalt (d : XIn) (s : State) : Out := arriveKind 8 1 d s
/-- `SYNC_READY` (R363). -/
def execSyncReady (d : XIn) (s : State) : Out := arriveKind 9 1 d s
/-- `SYNC_GO` (R363). -/
def execSyncGo (d : XIn) (s : State) : Out := arriveKind 9 2 d s
/-- `SYNC_ABORT` (R363). -/
def execSyncAbort (d : XIn) (s : State) : Out := arriveKind 9 3 d s
/-- `MGMT` (R339). -/
def execMgmt (d : XIn) (s : State) : Out := arrive 10 d s

end Sys2Proof.Machine
end

