-- ==== Sys2Proof/Machine/Thermal.lean ====
section
/-! DEFINITION. Temperature: sensors, the estimator, ruling values, limits, throttling, holds, the trip and the coolant
("Temperature, throttling and the coolant interface", R426 to R455). Temperatures are in units of 1/16 °C. -/

namespace Sys2Proof.Machine

/-! ## Points and cells (R426, R433, R434) -/

/-- The heat layers, by stack index. -/
def heatLayers : List Nat := [0, 1, 2, 3, 5, 6, 7, 8, 9, 10, 12, 13, 14]

/-- Kinds of heat layers (Table 1.1). -/
inductive HeatKind where
  /-- the Plinth -/
  | plinth
  /-- C0 to C3 -/
  | compute
  /-- S0 to S3 -/
  | canopy
  /-- D0 to D3 -/
  | dram
  deriving DecidableEq, Repr

/-- The kind of heat layer `h`, 0 to 12 (Table 1.1). -/
def heatKind (h : Nat) : HeatKind :=
  [.plinth, .dram, .canopy, .compute, .compute, .canopy, .dram, .dram, .canopy, .compute, .compute, .canopy, .dram].getD h .plinth

/-- The heat layer of Ck, Sk and Dk (Table 1.2). -/
def computeHeat (k : Nat) : Nat := [3, 4, 9, 10].getD k 3
/-- The heat layer of Sk. -/
def canopyHeat (k : Nat) : Nat := [2, 5, 8, 11].getD k 2
/-- The heat layer of Dk. -/
def dramHeat (k : Nat) : Nat := [1, 6, 7, 12].getD k 1

/-- Heat layer and position of a point of the central stack (Table 15.1). -/
def pointCell (p : Nat) : Option (Nat × Nat) :=
  if p < 880 then some (computeHeat (p / 220), p % 220)
  else if p < 1072 then some (dramHeat ((p - 880) / 48), Config.sensorPos p)
  else if p < 1168 then some (canopyHeat ((p - 1072) / 24), Config.sensorPos p)
  else if p < 1200 then some (0, Config.sensorPos p)
  else none

/-- The points of heat layer `h`, in index order. -/
def layerPoints (h : Nat) : List Nat := (List.range 1200).filter (fun p => (pointCell p).any (fun c => c.1 = h))

/-- The points of a cell. -/
def cellPoints (h x : Nat) : List Nat := (List.range 1200).filter (fun p => pointCell p = some (h, x))

/-- An Orangery point. -/
def isOrgPoint (p : Nat) : Bool := 1224 ≤ p && p < 1344

/-- Sensor `k` of point `p`: diodes A and B of a pair. -/
def State.sensor (s : State) (p k : Nat) : Sensor := Tbl.get Sensor.init s.thm.sensors (2 * p + k)

/-- Change a sensor. -/
def State.modSensor (s : State) (p k : Nat) (f : Sensor → Sensor) : State :=
  { s with thm := { s.thm with sensors := Tbl.modify Sensor.init s.thm.sensors (2 * p + k) f } }

/-- Point `p`. -/
def State.point (s : State) (p : Nat) : SensePoint := Tbl.get SensePoint.init s.thm.points p

/-- Change a point. -/
def State.modPoint (s : State) (p : Nat) (f : SensePoint → SensePoint) : State :=
  { s with thm := { s.thm with points := Tbl.modify SensePoint.init s.thm.points p f } }

/-- Cell (h, x). -/
def State.cell (s : State) (h x : Nat) : HeatCell := Tbl.get HeatCell.init s.thm.cells (220 * h + x)

/-- Change a cell. -/
def State.modCell (s : State) (h x : Nat) (f : HeatCell → HeatCell) : State :=
  { s with thm := { s.thm with cells := Tbl.modify HeatCell.init s.thm.cells (220 * h + x) f } }

/-- Nanoseconds since VIN_AUX entered its range (log 6). -/
def State.auxNs (s : State) : Nat := (s.boot.epoch + s.ticks) * 5 / 8

/-- Thermal control of a region changed. -/
def State.modTherm (s : State) (r : Nat) (f : ThermRegion → ThermRegion) : State :=
  { s with thm := { s.thm with regions := Tbl.modify ThermRegion.init s.thm.regions r f } }

/-- `TH_LOWER`. -/
def State.thLower (s : State) : Int := s.setting 0x0200 0
/-- `DEGR_WARN`. -/
def State.degrWarn (s : State) : Nat := s.setting 0x0201 1150
/-- `DEGR_SEVERE`. -/
def State.degrSevere (s : State) : Nat := s.setting 0x0202 1300
/-- `FLOW_WARN`. -/
def State.flowWarn (s : State) : Nat := s.setting 0x0203 45

/-! ## Values and ruling values (R432, R434, R437) -/

/-- The latest accepted reading of a sensor. -/
def Sensor.reading (x : Sensor) : Option Int := x.last.map (·.2)

/-- The value of a point: a pair's by R432, a single sensor's reading unless it is suspect or its input failed. -/
def State.pointValue (s : State) (p : Nat) : Option Int :=
  let a := s.sensor p 0
  if p < 880 then
    let b := s.sensor p 1
    if a.suspect && b.suspect then none
    else if a.suspect then b.reading
    else if b.suspect then a.reading
    else match a.reading, b.reading with
      | some v, some w => some (max v w)
      | v, w => v.or w
  else if (s.point p).failed || (a.suspect && p < 1200) then none
  else a.reading

/-- A point without 8 accepted readings is cold (R437). -/
def State.isCold (s : State) (p : Nat) : Bool := (s.point p).accepted < 8

/-- The mean of a list of rationals. -/
def ratMean (xs : List Rat) : Rat := if xs = [] then 0 else xs.foldl (· + ·) 0 / (xs.length : Rat)

/-- The correction of a layer for its cells without a point (R434). -/
def State.layerFix (s : State) (h : Nat) : Rat :=
  let ds := (layerPoints h).filterMap (fun p => match s.pointValue p, pointCell p with
    | some v, some c => some ((v : Rat) - (s.cell c.1 c.2).est)
    | _, _ => none)
  max (-128) (min 128 (ratMean ds))

/-- The ruling value of a cell with its rate source, and whether the estimate rules it; none before there is an estimate or a
reading (R434, R436). -/
structure Ruling where
  /-- value -/
  v : Rat
  /-- the point that supplies it -/
  src : Option Nat
  /-- it is T_est or T_est − 8 °C -/
  est : Bool
  deriving DecidableEq, Repr

/-- The candidates of the points of a cell that have a value: max(v, T_est − 8 °C). -/
def State.candidates (s : State) (h x : Nat) (ps : List Nat) : List Ruling :=
  let e := (s.cell h x).est
  ps.filterMap (fun p => (s.pointValue p).map (fun v =>
    if s.thm.estimated && (v : Rat) < e - 128 then { v := e - 128, src := some p, est := true }
    else { v := v, src := some p, est := false }))

/-- The ruling value of cell (h, x) (R434). -/
def State.ruling (s : State) (h x : Nat) : Option Ruling :=
  let ps := cellPoints h x
  let cs := s.candidates h x ps
  match cs with
  | c :: cs => some (cs.foldl (fun a b => if a.v < b.v then b else a) c)
  | [] =>
    if !s.thm.estimated then none
    else some { v := (s.cell h x).est + (if ps = [] then s.layerFix h else 0), src := none, est := true }

/-- The neighbours of an Orangery point in its stack (R434). -/
def orgNeighbours (p : Nat) : List Nat :=
  if p < 1320 then
    (if (p - 1224) % 16 = 0 then [] else [p - 1]) ++ (if (p - 1224) % 16 = 15 then [] else [p + 1])
  else ((List.range 4).map (fun n => (p - 1320) / 4 * 4 + 1320 + n)).filter (· ≠ p)

/-- The ruling value of an Orangery point, of a coolant-plane point or of an external input (R434). -/
def State.pointRuling (s : State) (p : Nat) : Option Rat :=
  if isOrgPoint p && (s.sensor p 0).suspect then
    match (orgNeighbours p).filterMap (fun q => (s.sensor q 0).reading) with
    | [] => none
    | v :: vs => some ((vs.foldl max v + 80 : Int) : Rat)
  else if (s.point p).failed then none
  else (s.sensor p 0).reading.map (fun v => (v : Rat))

/-- The ruling value at any point (Table 15.8). -/
def State.rulingAt (s : State) (p : Nat) : Option Rat :=
  match pointCell p with
  | some c => (s.ruling c.1 c.2).map (·.v)
  | none => s.pointRuling p

/-- A threshold of Table 15.3 in °C for a cell, 5 °C lower while one of its points is cold (R437). -/
def State.cellLimit (s : State) (h x : Nat) (c : Int) : Rat := 16 * c - (if (cellPoints h x).any s.isCold then 80 else 0)

/-- A threshold for a point. -/
def State.pointLimit (s : State) (p : Nat) (c : Int) : Rat := 16 * c - (if s.isCold p then 80 else 0)

/-! ## Codes and events (R453, R455) -/

/-- A temperature code of 16 bits; free where the value is no multiple of 1/16 °C, since no rounding is given (log 18). -/
def tempCode (draw : Nat) : Option Rat → Nat
  | none => 0x8000
  | some r => if r.den = 1 then wrapInt 16 r.num else Config.freeNat draw % 65536

/-- A thermal event at most once per `limit` µs and subject (Tables 15.6, 17.3). -/
def thermEvent (s : State) (sub subject limit point code region ratio : Nat) : State :=
  healthEventLimited s 7 sub subject limit
    (leBytes 2 point ++ leBytes 2 code ++ leBytes 1 region ++ leBytes 1 0 ++ leBytes 2 ratio)

/-- The point that a record of a cell names; free for a cell without one (log 26). -/
def cellPoint (draw h x : Nat) : Nat := (cellPoints h x).headD (Config.freeNat draw % 1348)

/-! ## The trip (R445 to R447) -/

/-- The trip threshold of a heat layer, °C (Table 15.3). -/
def tripLimit (h : Nat) : Int :=
  match heatKind h with
  | .plinth => 115
  | .dram => 110
  | _ => 112

/-- What trips: point, by estimate, cold, value. -/
structure TripAt where
  /-- index of the point -/
  point : Nat
  /-- the estimate rules -/
  est : Bool
  /-- the threshold was lowered -/
  cold : Bool
  /-- ruling value -/
  v : Rat
  deriving DecidableEq, Repr

/-- The first cell above its trip threshold. -/
def State.cellTrip (s : State) : Option TripAt :=
  ((List.range 13).flatMap (fun h => (List.range 220).map (fun x => (h, x)))).findSome? (fun c =>
    match s.ruling c.1 c.2 with
    | none => none
    | some r =>
      if s.cellLimit c.1 c.2 (tripLimit c.1) < r.v then
        some { point := r.src.getD (cellPoint s.draws c.1 c.2), est := r.est
               cold := (cellPoints c.1 c.2).any s.isCold, v := r.v }
      else none)

/-- The first Orangery point above its trip threshold. -/
def State.orgTrip (s : State) : Option TripAt :=
  ((List.range 120).map (1224 + ·)).findSome? (fun p =>
    match s.pointRuling p with
    | none => none
    | some v => if s.pointLimit p 105 < v then some { point := p, est := false, cold := s.isCold p, v := v } else none)

/-- `TRIP_CAUSE` (Table 15.10). -/
def TripAt.word (t : TripAt) (draw : Nat) : Word :=
  BitVec.ofNat 32 (t.point + 2 ^ 11 * b2n t.est + 2 ^ 12 * b2n t.cold + 2 ^ 15 + 2 ^ 16 * tempCode draw (some t.v))

/-- A trip: latched and reported, and everything stops (R446, R447). -/
def tripPart (s : State) (t : TripAt) : State :=
  let w := t.word (s.draws + 1)
  let s := thermEvent (s.drawn 2) 1 0 0 t.point (w.toNat / 65536) 0 0
  let s := stopPart s 5
  { s with thm := { s.thm with tripped := true, tripCause := w, tripCount := satAdd s.thm.tripCount 1, coolSince := 0 } }

/-! ## What follows from new ruling values -/

/-- The write limits of a plot are broken (R438, R441). -/
def State.plotHot (s : State) (i : Nat) : Bool :=
  let h := dramHeat (i / 220)
  match s.ruling h (i % 220) with
  | none => false
  | some r => s.cellLimit h (i % 220) 100 < r.v || r.v < s.cellLimit h (i % 220) 0

/-- A plot starts or stops holding writes (R441, R453). -/
def holdPlot (s : State) (i : Nat) : State :=
  let was := Tbl.get false s.mem.hot i
  let now := s.plotHot i
  if was = now then s
  else
    let s := { s with mem := { s.mem with hot := Tbl.set false s.mem.hot i now } }
    if now then
      let h := dramHeat (i / 220)
      let s' := { s with thm := { s.thm with holds := satAdd s.thm.holds 1 } }
      thermEvent (s'.drawn 2) 5 i 10000000 (cellPoint s.draws h (i % 220))
        (tempCode (s.draws + 1) ((s.ruling h (i % 220)).map (·.v))) (i / 22 % 10 / 2) 0
    else s

/-- An Orangery die starts or stops holding writes, and its refresh rate follows its temperature (R279, R442). -/
def holdDie (s : State) (d : Nat) : State :=
  let p := 1224 + d
  let v := s.pointRuling p
  let now := v.any (fun v => s.pointLimit p 95 < v)
  let fast := v.any (fun v => s.pointLimit p 85 < v)
  let was := Tbl.get false s.mem.orgHot d
  let s := if Tbl.get false (s.stack (d / 16)).fast (d % 16) = fast then s
    else s.modStack (d / 16) (fun t => { t with fast := Tbl.set false t.fast (d % 16) fast })
  if was = now then s
  else
    let s := { s with mem := { s.mem with orgHot := Tbl.set false s.mem.orgHot d now } }
    if now then
      let s' := { s with thm := { s.thm with holds := satAdd s.thm.holds 1 } }
      thermEvent (s'.drawn 1) 5 (1000 + d) 10000000 p (tempCode s.draws v) 0 0
    else s

/-- The inlet reading: the first valid of `THM_EXT0`, `THM_EXT1` and the lowest coolant-plane point (R448). -/
def State.inlet (s : State) : Option Int :=
  (s.pointValue 1344).or ((s.pointValue 1345).or
    (match ((List.range 24).map (1200 + ·)).filterMap s.pointValue with
     | [] => none
     | v :: vs => some (vs.foldl min v)))

/-- Both conditions of the restart hold (R448). -/
def State.cooled (s : State) : Bool :=
  s.inlet.any (· < 16 * 45) && (List.range 1344).all (fun p =>
    (s.sensor p 0).reading.any (· ≤ 16 * 70) && (880 ≤ p || (s.sensor p 1).reading.any (· ≤ 16 * 70)))

/-- Holds, inlet range, restart conditions and the trip, as the ruling values now stand. -/
def thermalUpdate (s : State) : State :=
  let s := (List.range 96).foldl holdDie ((List.range 880).foldl holdPlot s)
  let out := s.inlet.any (fun v => v < 16 * 20 || 16 * 40 < v)
  let s := { s with thm := { s.thm with
    inletSince := sinceTime s.thm.inletSince s.auxUs out
    inletRange := s.thm.inletRange && out
    coolSince := sinceTime s.thm.coolSince s.auxUs (s.thm.tripped && s.cooled) } }
  if s.thm.tripped then s
  else match s.cellTrip.or s.orgTrip with
    | some t => tripPart s t
    | none => s

/-! ## Rates of rise (R436) -/

/-- The least-squares slope of values at their times. -/
def slope (h : List (Nat × Rat)) : Rat :=
  let n : Rat := h.length
  let st := h.foldl (fun a e => a + (e.1 : Rat)) 0
  let sv := h.foldl (fun a e => a + e.2) 0
  let stv := h.foldl (fun a e => a + (e.1 : Rat) * e.2) 0
  let stt := h.foldl (fun a e => a + (e.1 : Rat) * (e.1 : Rat)) 0
  (n * stv - st * sv) / (n * stt - st * st)

/-- The rise limit of a heat layer in 1/16 °C per ns; none for the Plinth (Table 15.3). -/
def riseLimit (h : Nat) : Option Rat :=
  match heatKind h with
  | .plinth => none
  | .dram => some (24 / 1000000)
  | _ => some (96 / 1000000)

/-- Eight values whose slope exceeds a limit. -/
def steep (h : List (Nat × Rat)) (limit : Option Rat) : Bool := h.length = 8 && limit.any (fun l => l < slope h)

/-- The newest 8 of a list with one more. -/
def push8 {α : Type} (h : List α) (x : α) : List α := (h ++ [x]).drop (h.length - 7)

/-- A new value of the rate source of a cell (R436). -/
def HeatCell.note (c : HeatCell) (h : Nat) (src : Option Nat) (now : Nat) (v : Rat) : HeatCell :=
  let hist := if c.src = src then push8 c.hist (now, v) else [(now, v)]
  let ex := steep hist (riseLimit h)
  { c with src := src, hist := hist, rise := c.rose && ex && c.src = src, rose := ex }

/-! ## Sampling (R430, R431) -/

/-- The start of the 10 kHz and 50 kHz bands of a point, °C (Table 15.2). -/
def bandStarts (p : Nat) : Option (Int × Int) :=
  match pointCell p with
  | some c =>
    (match heatKind c.1 with
     | .dram => some (90, 105)
     | .plinth => some (100, 110)
     | _ => some (85, 107))
  | none => if isOrgPoint p then some (85, 100) else none

/-- The band that a ruling value asks for. -/
def bandOf (b : Option (Int × Int)) (v : Option Rat) : Nat :=
  match b, v with
  | some b, some v => if (16 * b.2 : Rat) ≤ v then 2 else if (16 * b.1 : Rat) ≤ v then 1 else 0
  | _, _ => 0

/-- The sampling rate of a point after a sample: higher at once, lower after 10 ms 2 °C below its band (R430; log 27). -/
def setRate (s : State) (p : Nat) : State :=
  let x := s.point p
  let v := s.rulingAt p
  let b := bandStarts p
  let lim := (pointCell p).bind (fun c => (riseLimit c.1).map (· / 2))
  let fast := steep (x.hist.map (fun e => (e.1, (e.2 : Rat)))) lim
  let want := if fast then 2 else bandOf b v
  if x.rate ≤ want then s.modPoint p (fun x => { x with rate := want, below := 0, rose := fast })
  else
    let start : Int := match b with
      | some b => if x.rate = 2 then b.2 else b.1
      | none => 0
    let low := !fast && v.any (fun v => v < ((16 * start - 32 : Int) : Rat))
    let since := sinceTime x.below s.auxNs low
    if low && since - 1 + 10000000 ≤ s.auxNs then s.modPoint p (fun x => { x with rate := want, below := 0, rose := fast })
    else s.modPoint p (fun x => { x with below := since, rose := fast })

/-- A sensor becomes suspect (R431, R435). -/
def markSuspect (s : State) (p k : Nat) : State :=
  if (s.sensor p k).suspect then s
  else thermEvent ((s.modSensor p k (fun x => { x with suspect := true })).drawn 1) 6 (2 * p + k) 0 p
    (tempCode s.draws (s.rulingAt p)) 0 0

/-- One reading of a sensor: discarded when it moves by more than 30 °C per ms, else accepted (R431, R435). -/
def readSensor (s : State) (p k : Nat) (v : Int) : State :=
  let now := s.auxNs
  let x := s.sensor p k
  let bad := x.last.any (fun l => 480 * (now - l.1) < (v - l.2).natAbs * 1000000)
  if bad then
    let s := { s with thm := { s.thm with discards := satAdd s.thm.discards 1 } }
    let s := s.modSensor p k (fun x => { x with discarded := x.discarded + 1 })
    if 8 ≤ x.discarded + 1 then markSuspect s p k else s
  else
    let low := match pointCell p with
      | some c => s.thm.estimated && (v : Rat) < (s.cell c.1 c.2).est - 128
      | none => false
    s.modSensor p k (fun x => { x with last := some (now, v), discarded := 0, trails := sinceTime x.trails now low })

/-- The sample times at which a pair disagrees with its flag (R432). -/
def countPair (s : State) (p : Nat) : State :=
  match (s.sensor p 0).reading, (s.sensor p 1).reading with
  | some a, some b =>
    let apart : Bool := 80 < (a - b).natAbs
    s.modPoint p (fun x => { x with pairRun := if apart ≠ x.pairDis then x.pairRun + 1 else 0 })
  | _, _ => s

/-- The value of a point enters its history and that of its cell (R436). -/
def noteValue (s : State) (p : Nat) (accepted : Bool) : State :=
  match (if accepted then s.pointValue p else none) with
  | none => s
  | some v =>
    let s := s.modPoint p (fun x => { x with hist := push8 x.hist (s.auxNs, v), accepted := min 8 (x.accepted + 1) })
    match pointCell p with
    | none => s
    | some c =>
      match s.ruling c.1 c.2 with
      | none => s
      | some r => if r.src = some p then s.modCell c.1 c.2 (fun x => x.note c.1 r.src s.auxNs v) else s

/-- `SENSOR_SAMPLE`: a point is sampled: codes of diodes A and B, of the single sensor, or the resistance in Ω of an external
input (R428, R430 to R432). -/
def execSensorSample (point : Fin 1348) (a b : Int) (s : State) : Out :=
  let p := point.val
  if !s.boot.vinAux then .next s
  else if 1344 ≤ p && (a < 300 || 150000 < a) then
    let s := if (s.point p).failed then s else thermEvent s 8 p 0 p 0x8000 0 0
    .next (thermalUpdate (s.modPoint p (fun x => { x with failed := true })))
  else
    let s := if 1344 ≤ p then s.modPoint p (fun x => { x with failed := false }) else s
    let s := readSensor s p 0 (if 1344 ≤ p then Config.ntcCode a.toNat else a)
    let s := if p < 880 then readSensor s p 1 b else s
    let ok : Bool := (s.sensor p 0).discarded = 0 || (p < 880 && (s.sensor p 1).discarded = 0)
    let s := noteValue (if p < 880 then countPair s p else s) p ok
    .next (thermalUpdate (setRate s p))

/-- `SENSOR_SUSPECT`: a sensor has trailed its estimate by more than 8 °C for 50 ms (R435). -/
def execSensorSuspect (point : Fin 1200) (diodeB : Bool) (s : State) : Out :=
  let k := b2n (diodeB && point.val < 880)
  let x := s.sensor point k
  if x.trails ≠ 0 && x.trails - 1 + 50000000 ≤ s.auxNs && !x.suspect then .next (thermalUpdate (markSuspect s point k))
  else .next s

/-- `PAIR_DIS`: after 100 sample times a pair is flagged as disagreeing, or its flag clears (R432). -/
def execPairDis (site : Site) (s : State) : Out :=
  let x := s.point site
  if x.pairRun < 100 then .next s
  else
    let s' := s.modPoint site (fun x => { x with pairDis := !x.pairDis, pairRun := 0 })
    if x.pairDis then .next s'
    else .next (thermEvent (s'.drawn 1) 7 site 0 site (tempCode s.draws (s.rulingAt site)) 0 0)

/-! ## The estimator (R433) -/

/-- The coolant plane of a heat layer: 0 Belt A, 1 Belt B, 2 the Mantle (R433). -/
def heatPlane (h : Nat) : Nat := if h ≤ 6 then 0 else if h ≤ 10 then 1 else 2

/-- Square of the distance between two positions, in sites (log 24). -/
def posDist (x y : Nat) : Nat :=
  let d := fun (a b : Nat) => ((a : Int) - b).natAbs
  d (x / 22) (y / 22) ^ 2 + d (x % 22) (y % 22) ^ 2

/-- The point of a plane nearest to a position, the lower index on a tie (R433). -/
def planePoint (p x : Nat) : Nat :=
  let ps := (List.range 8).map (1200 + 8 * p + ·)
  (ps.tail).foldl (fun a q => if posDist (Config.sensorPos q) x < posDist (Config.sensorPos a) x then q else a) (ps.headD 1200)

/-- The reading of a plane at a position; free before its point has one. -/
def State.planeTemp (s : State) (p x : Nat) : Rat :=
  match (s.sensor (planePoint p x) 0).reading with
  | some v => v
  | none => Config.freeRat s.draws

/-- The degradation scale a of a plane (R433, R451). -/
def State.planeScale (s : State) (p : Nat) : Rat := max 1 (Tbl.get Plane.init s.thm.planes p).ratio

/-- The steady value of a cell for powers in mW, listed by heat layer × 220 + position. -/
def State.steadyTemp (s : State) (mw : List Nat) (h x : Nat) : Rat :=
  let p := fun m => if s.boot.rails then (mw.getD (220 * m + x) 0 : Rat) / 1000 else 0
  s.planeTemp (heatPlane h) x
    + 16 * s.planeScale (heatPlane h) * Config.heatG x * ((List.range 13).map (fun m => Config.heatK h m * p m)).foldl (· + ·) 0

/-- Row and column neighbours of a position. -/
def posNeighbours (x : Nat) : List Nat :=
  (if 22 ≤ x then [x - 22] else []) ++ (if x + 22 < 220 then [x + 22] else []) ++ (if x % 22 ≠ 0 then [x - 1] else [])
    ++ (if x % 22 ≠ 21 then [x + 1] else [])

/-- The estimates after one update (R433). -/
def State.nextEst (s : State) (mw : List Nat) (h x : Nat) : Rat :=
  let step := fun y => (s.cell h y).est + 1 / (10 * Config.heatTau h) * (s.steadyTemp mw h y - (s.cell h y).est)
  if s.thm.estimated then 3 / 4 * step x + 1 / 4 * ratMean ((posNeighbours x).map step) else s.steadyTemp mw h x

/-- A cell whose ruling value the estimate supplies takes the new estimate into its rate source (R436). -/
def noteEst (s : State) (h x : Nat) : State :=
  match s.ruling h x with
  | none => s
  | some r =>
    if r.src = none then s.modCell h x (fun c => c.note h none s.auxNs c.est)
    else if (s.cell h x).src = r.src then s
    else s.modCell h x (fun c => { c with src := r.src, hist := [], rose := false, rise := false })

/-- 2^x: exact but for the part below the whole exponent (log 29). -/
def pow2 (x : Rat) : Rat :=
  let n := x.floor
  let f := x - (n : Rat)
  (if 0 ≤ n then ((2 ^ n.toNat : Nat) : Rat) else 1 / ((2 ^ (-n).toNat : Nat) : Rat)) * (if f = 0 then 1 else max 1 (min 2 (Config.pow2Part f)))

/-- The factor that a temperature in 1/16 °C gives (R495). -/
def heatFactor (t : Rat) : Rat := pow2 ((t / 16 - 85) / 10)

/-- Acceleration factors, by the keys of `LifePoint.stress`; 0 before there is a ruling value (R495). -/
def State.accel (s : State) (key : Nat) : Rat :=
  if key < 880 then
    let mv : Nat := if (s.sitePwr key).dom = .gated then 550 else 500 + 5 * s.vTarget key
    match s.rulingAt key with
    | some t => heatFactor t * pow2 (((mv : Rat) - 750) / 50)
    | none => 0
  else
    match (if key < 1760 then (s.ruling (dramHeat ((key - 880) / 220)) ((key - 880) % 220)).map (·.v)
      else s.pointRuling (1224 + (key - 1760))) with
    | some t => heatFactor t
    | none => 0

/-- Stress-equivalent time accrues up to now, at the factors that held since the last update of the estimator (R495, log 29). -/
def accrue (s : State) : State :=
  if s.boot.fuse = none then s
  else
    let dt : Rat := ((s.auxUs - s.hlt.accruedAt : Nat) : Rat)
    { s with hlt := { s.hlt with
      accruedAt := s.auxUs
      stress := (List.range 1856).foldl (fun t k => Tbl.modify 0 t k (· + s.accel k * dt)) s.hlt.stress } }

/-- `ESTIMATE_STEP`: every cell is updated from the powers of the last 100 µs, in mW, and stress accrues (R433,
R495). -/
def execEstimateStep (mw : List Nat) (s : State) : Out :=
  if !s.boot.vinAux then .next s
  else
    let cells := (List.range 13).flatMap (fun h => (List.range 220).map (fun x => (h, x)))
    let t := cells.foldl (fun t c => t.modCell c.1 c.2 (fun k => { k with est := s.nextEst mw c.1 c.2 })) ((accrue s).drawn 1)
    let t := { t with thm := { t.thm with estimated := true } }
    let t := (List.range 1200).foldl (fun t p => [0, 1].foldl (fun t k =>
      match (t.sensor p k).reading, pointCell p with
      | some v, some c => t.modSensor p k (fun x =>
          { x with trails := sinceTime x.trails t.auxNs ((v : Rat) < (t.cell c.1 c.2).est - 128) })
      | _, _ => t) t) t
    .next (thermalUpdate (cells.foldl (fun t c => noteEst t c.1 c.2) t))

/-! ## Throttling (R439, R440) -/

/-- The positions of rows 2r and 2r + 1. -/
def regionPos (r : Nat) : List Nat := (List.range 44).map (44 * r + ·)

/-- The compute and Canopy cells of a region. -/
def throttleCells (r : Nat) : List (Nat × Nat) :=
  (List.range 4).flatMap (fun k => [computeHeat k, canopyHeat k].flatMap (fun h => (regionPos r).map (fun x => (h, x))))

/-- The DRAM cells of a region. -/
def dramCells (r : Nat) : List (Nat × Nat) := (List.range 4).flatMap (fun k => (regionPos r).map (fun x => (dramHeat k, x)))

/-- The highest ruling value of cells. -/
def State.hottest (s : State) (cs : List (Nat × Nat)) : Option Rat :=
  match cs.filterMap (fun c => (s.ruling c.1 c.2).map (·.v)) with
  | [] => none
  | v :: vs => some (vs.foldl max v)

/-- Some throttle cell of a region is above a throttle threshold, lowered by `TH_LOWER` (R437 to R439). -/
def State.above (s : State) (r : Nat) (c : Int) : Bool :=
  (throttleCells r).any (fun k => (s.ruling k.1 k.2).any (fun v => s.cellLimit k.1 k.2 (c - s.thLower) < v.v))

/-- The floor of a rational temperature, for the region registers. -/
def codeOf (draw : Nat) (v : Option Rat) : Option Int := v.map (fun r => if r.den = 1 then r.num else sext 16 (Config.freeNat draw))

/-- `THERMAL_STEP` (R439). -/
def execThermalStep (region : Fin 5) (s : State) : Out :=
  let r := region.val
  if s.down then .next s
  else
    let x := s.therm r
    let t := s.hottest (throttleCells r)
    let rise := (throttleCells r ++ dramCells r).any (fun c => (s.cell c.1 c.2).rise)
    let until' := if rise then s.us + 10000 else x.riseUntil
    let second := s.above r 102 || s.us < until'
    let cool := t.any (fun v => v ≤ ((16 * (93 - s.thLower) : Int) : Rat)) && x.lastDown + 1000 ≤ s.us
    let pt := if second then max x.pt 48 else if s.above r 95 then min 64 (x.pt + 4) else if cool then x.pt - 2 else x.pt
    let down := if !second && !s.above r 95 && cool then s.us else x.lastDown
    let t' := s.modTherm r (fun x => { x with
      pt := pt, riseUntil := until', lastDown := down
      t := codeOf s.draws t, dram := codeOf (s.draws + 1) (s.hottest (dramCells r))
      highSince := sinceTime x.highSince s.us (16 ≤ pt)
      calmSince := sinceTime x.calmSince s.us (pt = 0 && t.any (fun v => v ≤ ((16 * (93 - s.thLower) : Int) : Rat))) })
    let t' := t'.drawn 2
    let code := tempCode s.draws t
    let t' := if x.pt = 0 && 0 < pt then
        let t' := { t' with thm := { t'.thm with throttles := satAdd t'.thm.throttles 1 } }
        thermEvent t' 3 r 10000000 0x7FF code r 0
      else t'
    .next (if second && x.pt < 48 && 48 ≤ pt then thermEvent t' 4 r 10000000 0x7FF code r 0 else t')

/-- `TCLK_LIM_STEP`: the thermal clock limit of a region falls every 1 ms, or rises every 10 ms (`ten`) (R440). -/
def execTclkLimStep (region : Fin 5) (ten : Bool) (s : State) : Out :=
  let x := s.therm region
  let set (n : Nat) : Out := .next (s.modTherm region (fun x => { x with lim := n }))
  if s.down then .next s
  else if s.above region 102 then set (x.lim - 4)
  else if x.highSince ≠ 0 && x.highSince - 1 + 10000 ≤ s.us then set (x.lim - 1)
  else if ten && x.calmSince ≠ 0 && x.calmSince - 1 + 10000 ≤ s.us then set (min 40 (x.lim + 1))
  else .next s

/-! ## Holds and refresh (R438, R441) -/

/-- `HELD_WRITE_DRAIN`: a plot may be written again and its held writes drain in arrival order (R441). -/
def execHeldWriteDrain (site : Site) (s : State) : Out :=
  if Tbl.get false s.mem.hot site then .next s
  else .next { s with mem := { s.mem with held := s.mem.held.filter (fun h => h.site ≠ site.val) } }

/-- The refresh interval of a plot in ns (R438). -/
def State.plotInterval (s : State) (i : Nat) : Nat :=
  let h := dramHeat (i / 220)
  if (s.ruling h (i % 220)).any (fun r => s.cellLimit h (i % 220) 85 < r.v) then 1950 else 3900

/-- The retention hold of the memory test in progress, numbered from 1: four of 50 s in phase d of a cold test, one of 20 s in that of a warm
one; four or one of 40 s in phase e, after its march. The phases follow one another in the times of Table 16.3 (R465, log 109). -/
def State.retentionHold (s : State) : Option Nat :=
  let ms := (s.ticks - s.boot.since) / 1600000
  if s.boot.phase ≠ 9 || s.boot.fatal || s.boot.ready || s.down then none
  else if s.boot.warm then (if 18000 ≤ ms && ms < 38000 then some 1 else if 46000 ≤ ms && ms < 86000 then some 2 else none)
  else if 42000 ≤ ms && ms < 242000 then some (1 + (ms - 42000) / 50000)
  else if 250000 ≤ ms && ms < 410000 then some (5 + (ms - 250000) / 40000)
  else none

/-- The exponent k of a retention hold that starts with ruling value `t`, in 1/16 °C (R465). -/
def holdExponent (t : Rat) : Nat := min 4 ((1360 - t) / 160).floor.toNat

/-- A refresh of a bank falls due and its timer starts again, with the interval `ns`, multiplied by 2^k in a retention hold: k is fixed by
the ruling value `t` with which the hold started, that of the bank's first refresh in it (R279, R438, R465, log 109). -/
def refreshDue (s : State) (bank ns : Nat) (t : Option Rat) : State :=
  let again (s : State) (k : Nat) : State := { s with thm := { s.thm with refresh := Tbl.set 0 s.thm.refresh bank (s.auxNs + ns * 2 ^ k) } }
  match s.retentionHold with
  | none => again s 0
  | some n =>
    let h := Tbl.get (0, 0) s.thm.retained bank
    if h.1 = n then again s h.2
    else
      let k := (t.map holdExponent).getD 0
      again { s with thm := { s.thm with retained := Tbl.set (0, 0) s.thm.retained bank (n, k) } } k

/-- `PLOT_REFRESH`: a refresh falls due; the plot keeps its contents and its timer starts again (R19, R438, R465). -/
def execPlotRefresh (site : Site) (s : State) : Out :=
  .next (refreshDue s site (s.plotInterval site) ((s.ruling (dramHeat (site / 220)) (site % 220)).map (·.v)))

/-- The refresh interval of the banks of an Orangery die in ns (R279). -/
def State.dieInterval (s : State) (k die : Nat) : Nat := if Tbl.get false (s.stack k).fast die then 1950 else 3900

/-- Every ruling value lies in the window of fuse programming (R444). -/
def State.fuseWindow (s : State) : Bool :=
  (List.range 13).all (fun h => (List.range 220).all (fun x => (s.ruling h x).any (fun r =>
    s.cellLimit h x 10 ≤ r.v && r.v ≤ s.cellLimit h x 70))) &&
  ((List.range 120).map (1224 + ·)).all (fun p => (s.pointRuling p).any (fun v => s.pointLimit p 10 ≤ v && v ≤ s.pointLimit p 70))

/-! ## Restart and coolant (R448 to R452) -/

/-- `TRIP_RESTART`: the part has been cool for 10 s: it releases `THERMTRIP_N` and restarts (R448, R514). -/
def execTripRestart (s : State) : Out :=
  if s.thm.tripped && s.thm.coolSince ≠ 0 && s.thm.coolSince - 1 + 10000000 ≤ s.auxUs then
    .next (restart { s with
      thm := { s.thm with tripped := false, restarted := true, coolSince := 0 }
      boot := { s.boot with cause := 5, railLost := false } })
  else .next s

/-- `INLET_RANGE`: the inlet has been out of range for 10 s (R450). -/
def execInletRange (s : State) : Out :=
  if s.thm.inletSince ≠ 0 && s.thm.inletSince - 1 + 10000000 ≤ s.auxUs && !s.thm.inletRange then
    .next (thermEvent ({ s with thm := { s.thm with inletRange := true } }) 9 0 0 1344 (tempCode 0 (s.inlet.map (fun v => (v : Rat)))) 0 0)
  else .next s

/-- Package power has been at or above 2,000 W for 10 s and has varied by less than 5 % of its lowest sample (R451; log 28). -/
def State.steadyPower (s : State) : Bool :=
  let ws := s.thm.power.map (·.2)
  let lo := ws.foldl min (ws.headD 0)
  s.thm.power.head?.any (fun e => e.1 + 10000000 ≤ s.us) && 2000 ≤ lo && (ws.foldl max 0 - lo) * 20 < lo

/-- The cells whose mean is T_hot of a plane (R451). -/
def hotCells (p : Nat) : List (Nat × Nat) :=
  (if p = 0 then [computeHeat 0, computeHeat 1] else if p = 1 then [computeHeat 2, computeHeat 3] else [dramHeat 3]).flatMap
    (fun h => (List.range 220).map (fun x => (h, x)))

/-- The flags of a plane at a new ratio (R451). -/
def Plane.judge (x : Plane) (now warn severe : Nat) (r : Rat) : Plane :=
  let hi : Bool := (warn : Rat) / 1000 ≤ r
  let sv : Bool := (severe : Rat) / 1000 ≤ r
  let ws := sinceTime x.warnSince now hi
  let wb := sinceTime x.warnBelow now (!hi)
  let sb := sinceTime x.severeBelow now (!sv)
  { x with
    ratio := r, warnSince := ws, warnBelow := wb, severeBelow := sb
    warn := if x.warn then !(wb ≠ 0 && wb - 1 + 600000000 ≤ now) else (ws ≠ 0 && ws - 1 + 600000000 ≤ now)
    severe := if x.severe then !(sb ≠ 0 && sb - 1 + 600000000 ≤ now) else sv }

/-- A ratio in per mille, 16 bits; free where it is no whole number (log 18). -/
def perMille (draw : Nat) (r : Rat) : Nat := wattField draw (1000 * r)

/-- `COOLANT_EVALUATION`: a plane's thermal resistance is evaluated from the power of its layers, in mW (R451). -/
def execCoolantEvaluation (plane : Fin 3) (mw : Nat) (s : State) : Out :=
  let p := plane.val
  let hs := (hotCells p).filterMap (fun c => (s.ruling c.1 c.2).map (·.v))
  match s.inlet, s.boot.fuse with
  | some ti, some f =>
    if !s.steadyPower || mw = 0 || hs.length ≠ (hotCells p).length || f.theta.getD p 0 = 0 then .next s
    else
      let now := s.auxUs
      let θ : Rat := (ratMean hs - ti) / 16 / ((mw : Rat) / 1000)
      let x := Tbl.get Plane.init s.thm.planes p
      let evals := (x.evals.filter (fun e => now ≤ e.1 + 600000000)) ++ [(now, θ * 100000 / (f.theta.getD p 0 : Rat))]
      let r := ratMean (evals.map (·.2))
      let y := { x with evals := evals }.judge now s.degrWarn s.degrSevere r
      let s := ({ s with thm := { s.thm with planes := Tbl.set Plane.init s.thm.planes p y } }).drawn 1
      let code := perMille s.draws r
      let s := if y.warn && !x.warn then thermEvent s 10 p 0 (1200 + 8 * p) 0x8000 0 code else s
      .next (if y.severe && !x.severe then thermEvent s 11 p 0 (1200 + 8 * p) 0x8000 0 code else s)
  | _, _ => .next s

/-- `FLOW_EVALUATION`: the implied coolant flow (R452). -/
def execFlowEvaluation (s : State) : Out :=
  match s.pointValue 1344, s.pointValue 1345 with
  | some i, some o =>
    let w := s.pwr.part.last
    if w < 2000 || o - i < 32 then .next { s with thm := { s.thm with flowRun := 0 } }
    else
      -- 0.015 × P / ΔT in L/min, in units of 0.01 L/min with ΔT in 1/16 °C
      let f : Rat := 24 * (w : Rat) / ((o - i : Int) : Rat)
      let low : Bool := f < 10 * (s.flowWarn : Rat)
      let run := if low ≠ s.thm.lowFlow then s.thm.flowRun + 1 else 0
      let flip : Bool := 60 ≤ run
      let s' := { s with thm := { s.thm with
        flow := f, flowRun := if flip then 0 else run, lowFlow := if flip then low else s.thm.lowFlow } }
      .next (if flip && low then thermEvent (s'.drawn 1) 12 0 0 1344 0x8000 0 (wattField s.draws f) else s')
  | _, _ => .next { s with thm := { s.thm with flow := 0, flowRun := 0 } }

/-! ## Registers (Tables 15.8 to 15.12) -/

/-- `THM_STATUS` (Table 15.9). -/
def thmStatus (s : State) : Word :=
  let rs := (List.range 5).map s.therm
  BitVec.ofNat 32 (b2n (rs.any (fun x => 0 < x.pt))
    + 2 * b2n ((List.range 5).any (fun r => s.above r 102 || s.us < (s.therm r).riseUntil))
    + 4 * b2n (s.mem.hot.any (·.2)) + 8 * b2n (s.mem.orgHot.any (·.2))
    + 16 * b2n ((List.range 1348).any s.isCold) + 32 * b2n (s.thm.sensors.any (fun e => e.2.suspect))
    + 64 * b2n (s.thm.points.any (fun e => e.2.pairDis)) + 128 * b2n (s.thm.planes.any (fun e => e.2.warn))
    + 256 * b2n (s.thm.planes.any (fun e => e.2.severe)) + 512 * b2n s.thm.lowFlow + 1024 * b2n s.thm.inletRange
    + 2048 * b2n (s.thm.points.any (fun e => e.2.failed)) + 4096 * b2n s.thm.restarted)

/-- `THM_RGN` of region `r` (Table 15.11). -/
def thmRgn (s : State) (r : Nat) : Word :=
  let x := s.therm r
  BitVec.ofNat 32 (x.pt + 2 ^ 8 * x.lim + 2 ^ 16 * b2n (s.above r 95) + 2 ^ 17 * b2n (s.above r 102)
    + 2 ^ 18 * b2n (s.us < x.riseUntil))

/-- A code register of two halves. -/
def codePair (lo hi : Nat) : Word := BitVec.ofNat 32 (lo + 65536 * hi)

/-- The code of an optional reading. -/
def readCode (v : Option Int) : Nat := match v with
  | none => 0x8000
  | some v => wrapInt 16 v

/-- `THM_RGT` of region `r`. -/
def thmRgt (s : State) (r : Nat) : Word := codePair (readCode (s.therm r).t) (readCode (s.therm r).dram)

/-- `TS_TEMP` of point `p`. -/
def tsTemp (s : State) (p : Nat) : Word :=
  codePair (tempCode s.draws (s.rulingAt p)) (match pointCell p with
    | some c => if s.thm.estimated then tempCode (s.draws + 1) (some (s.cell c.1 c.2).est) else 0x8000
    | none => 0x8000)

/-- `TS_MEAS` of point `p`. -/
def tsMeas (s : State) (p : Nat) : Word :=
  codePair (readCode (s.sensor p 0).reading) (if p < 880 then readCode (s.sensor p 1).reading else 0x8000)

/-- `TS_INFO` of point `p` (Table 15.12). -/
def tsInfo (s : State) (p : Nat) : Word :=
  let x := s.point p
  let est := (pointCell p).any (fun c => (s.ruling c.1 c.2).any (·.est))
  let pos := match pointCell p with
    | some c => c.2
    | none => if p < 1224 then (Config.sensorPos p).val else if p < 1320 then (p - 1224) % 16 else if p < 1344 then (p - 1320) % 4 else 0xFF
  let layer := match pointCell p with
    | some c => heatLayers.getD c.1 0
    | none => if p < 1208 then 4 else if p < 1216 then 11 else if p < 1224 then 15 else 0xF
  let stack := if p < 1224 then 7 else if p < 1320 then (p - 1224) / 16 else if p < 1344 then (p - 1320) / 4 else 7
  BitVec.ofNat 32 (b2n (s.sensor p 0).suspect + 2 * b2n (s.sensor p 1).suspect + 4 * b2n x.pairDis + 8 * b2n (8 ≤ x.accepted)
    + 16 * x.rate + 64 * b2n x.failed + 128 * b2n est + 2 ^ 8 * pos + 2 ^ 16 * layer + 2 ^ 20 * stack)

end Sys2Proof.Machine
end

