-- ==== Sys2Proof/Machine/Health.lean ====
section
/-! DEFINITION. Wear monitors, the ageing guardband, margin and life estimates ("Health, counters and end-of-life prediction",
R489 to R497, R503). -/

namespace Sys2Proof.Machine

/-- The fused fields of a site. -/
def State.siteFuse (s : State) (i : Nat) : SiteFuse :=
  match s.boot.fuse.bind (fun f => f.sites[i]?) with
  | some x => x
  | none => { stress := 0, fmax := 0, retired := false, ageGb0 := 0, ageSens := 0 }

/-- A drift in whole ppm of 16 bits, saturating; free where it is no whole number (log 18). -/
def ppmField (draw : Nat) (d : Rat) : Nat :=
  if 65535 ≤ d then 65535 else if d.den = 1 then d.num.toNat else Config.freeNat draw % 65536

/-- An ageing event, at most once per site or Seam, subtype and 24 h (Table 17.3). -/
def ageEvent (s : State) (sub who value gb fmax : Nat) : State :=
  healthEventLimited s 8 sub who 86400000000 (leBytes 2 who ++ leBytes 2 value ++ leBytes 1 gb ++ leBytes 1 fmax)

/-- The guardband that a drift asks for, mV (R491). -/
def ageTarget (f : SiteFuse) (d : Rat) : Nat :=
  min 60 (max f.ageGb0 (d * (f.ageSens : Rat) / 1000000).ceil.toNat)

/-- The next guardband: it never falls, and rises by at most 5 mV in 24 h; at the first measurement of a boot with a health
record it takes the larger of both (R491, R494). -/
def nextAge (s : State) (i : Nat) (d : Rat) : Nat :=
  let cur := (s.sitePwr i).ageGb
  let x := s.siteHlt i
  let used := ((x.rises.filter (fun e => s.auxUs < e.1 + 86400000000)).map (·.2)).sum
  let target := max cur (ageTarget (s.siteFuse i) d)
  if x.drifts.length ≤ 1 && s.hlt.recordOk then target else min target (cur + (5 - used))

/-- The highest clock code at which every logical core of a region stays within 0.85 V (R492). -/
def State.safeCode (s : State) (r : Nat) : Nat :=
  (((List.range 41).filter (fun c => (s.regionLogical r).all (fun i => s.vSum i c ≤ 850))).getLast?).getD 0

/-- A margin-short core: an ageing event, and the region's limit is lowered at once or at its next idle moment (R492). -/
def marginCheck (s : State) (i : Nat) : State :=
  let r := i % 220 / 44
  if (s.site i).state ≠ 1 || s.vSum i (s.clk r).now ≤ 850 then s
  else
    let c := s.safeCode r
    let s := ageEvent (s.drawn 1) 1 i (ppmField s.draws (s.siteHlt i).drift) (s.sitePwr i).ageGb c
    if (s.clk r).now ≤ c then s.modClk r (fun k => { k with fmax := c })
    else { s with hlt := { s.hlt with lower := Tbl.set 0 s.hlt.lower r (c + 1) } }

/-- `DRIFT_MEASUREMENT`: both oscillators of a site are counted: stressed and reference (R489 to R492). -/
def execDriftMeasurement (site : Site) (stress ref : Nat) (s : State) : Out :=
  let i := site.val
  if ref = 0 || ((s.sitePwr i).dom ≠ .on && !s.inStep 9) then .next s
  else
    let d : Rat := 1000000 * (1 - (stress : Rat) / (ref : Rat) / Config.driftR0 i)
    let s := s.modSiteHlt i (fun x => { x with drifts := (x.drifts ++ [d]).drop (x.drifts.length - 4) })
    let cur := (s.sitePwr i).ageGb
    let gb := nextAge s i (s.siteHlt i).drift
    let s := if cur < gb then
        let s := (s.modSitePwr i (fun p => { p with ageGb := gb })).modSiteHlt i (fun x =>
          { x with rises := x.rises ++ [(s.auxUs, gb - cur)] })
        ageEvent (s.drawn 1) 0 i (ppmField s.draws (s.siteHlt i).drift) gb (s.clk (i % 220 / 44)).fmax
      else s
    .next (marginCheck s i)

/-- `FMAX_REGION_LOWER`: the lowered limit of a region takes effect while no job occupies a row of it (R492). -/
def execFmaxRegionLower (region : Fin 5) (s : State) : Out :=
  let r := region.val
  let c := Tbl.get 0 s.hlt.lower r
  if c = 0 || (regionClusters r).any (fun cl => s.jobs.any (fun j => (s.nodeClusters j.node).contains cl)) then .next s
  else .next ({ s with hlt := { s.hlt with lower := Tbl.set 0 s.hlt.lower r 0 } }.modClk r (fun k => { k with fmax := c - 1 }))

/-- `TSV_CHAIN_MEASUREMENT`: the highest chain resistance of a Seam over its fused value, per mille (R489). -/
def execTsvChainMeasurement (seam : Fin 15) (ratio : Nat) (s : State) : Out :=
  let s := { s with seams := Tbl.modify SeamHealth.init s.seams seam (fun x => { x with ratio := min 4095 ratio }) }
  .next (if 1200 ≤ ratio then ageEvent s 2 seam (min 65535 ratio) 0 0 else s)

/-- `REGULATOR_EFFICIENCY_MEASUREMENT`: fused efficiency minus measured, in 0.1 percentage points (R489). -/
def execRegulatorEfficiencyMeasurement (site : Site) (drop : Nat) (s : State) : Out :=
  let s := s.modSiteHlt site (fun x => { x with eff := min 255 drop })
  .next (if 30 ≤ drop then ageEvent s 3 site (min 65535 drop) (s.sitePwr site).ageGb 0 else s)

/-! ## Registers (Tables 17.5 to 17.8) -/

/-- `HLT_STATUS` (Table 17.6). -/
def hltStatus (s : State) : Word :=
  BitVec.ofNat 32 (b2n s.hlt.recordOk + 2 * b2n s.hlt.firstUse + 4 * b2n s.hlt.modelReady + 8 * b2n s.hlt.lifeWarn
    + 16 * b2n (s.hlt.lower ≠ []) + 32 * b2n (s.seams.any (fun e => 1200 ≤ e.2.ratio)) + 64 * b2n (s.hlt.sites.any (fun e => 30 ≤ e.2.eff)))

/-- Fewest spare rows left in any bank of a site's plot (Table 17.8). -/
def State.plotSpares (s : State) (i : Nat) : Nat :=
  (List.range 32).foldl (fun m b => min m (32 - s.sparesTaken 1 i b)) 32

/-- `AGE_SITE` of site `i` (Table 17.8). -/
def ageSite (s : State) (i : Nat) : Dword :=
  let x := s.siteHlt i
  BitVec.ofNat 64 (ppmField s.draws x.drift + 2 ^ 16 * x.eff + 2 ^ 24 * (if s.boot.fuse.isSome then s.plotSpares i else 0)
    + 2 ^ 32 * x.life + 2 ^ 48 * x.bound)

/-- `SEAM_HLT` of Seam `j`. -/
def seamHlt (s : State) (j : Nat) : Word :=
  let x := Tbl.get SeamHealth.init s.seams j
  BitVec.ofNat 32 (x.ratio + 2 ^ 16 * min 255 x.drift + 2 ^ 24 * x.retunes)

end Sys2Proof.Machine
end

