-- ==== Sys2Proof/Machine/Life.lean ====
section
/-! DEFINITION. End-of-life estimates and the writing of the health record ("Health, counters and end-of-life prediction", R493 to
R497). Times are in months of 30 days (log 29); no life (`none`) means no limit. -/

namespace Sys2Proof.Machine

/-- A month in µs. -/
def monthUs : Nat := 30 * dayUs

/-- A time in µs, in months. -/
def months (us : Rat) : Rat := us / (monthUs : Rat)

/-- What the estimates look at: the history of the accepted record and the quantities of this moment. -/
structure LifeView where
  /-- points of the record -/
  points : List LifePoint
  /-- drift history -/
  drifts : Tbl (List (Rat × Rat))
  /-- this moment -/
  now : LifePoint

/-- The history that the estimates look at. -/
def State.lifeView (s : State) : LifeView :=
  { points := (s.flash.health.map (·.points)).getD [], drifts := (s.flash.health.map (·.drifts)).getD [], now := s.lifePoint }

/-- The point at which a window of the last days of powered time begins: the time since first use where that is shorter. -/
def LifeView.back (w : LifeView) (days : Nat) : LifePoint :=
  ((w.points.filter (fun p => p.powered + days * dayUs ≤ w.now.powered)).getLast?).getD (w.points.headD w.now)

/-- The mean acceleration factor of a key over a window; the present one where the window is empty (R495). -/
def LifeView.meanAf (w : LifeView) (s : State) (days key : Nat) : Rat :=
  let p := w.back days
  if w.now.powered ≤ p.powered then s.accel key
  else (Tbl.get 0 w.now.stress key - Tbl.get 0 p.stress key) / ((w.now.powered - p.powered : Nat) : Rat)

/-- The powered fraction of the last 30 days (R495). -/
def LifeView.fraction (w : LifeView) : Rat :=
  let p := w.back 30
  if w.now.calendar ≤ p.calendar then 1 else ((w.now.powered - p.powered : Nat) : Rat) / ((w.now.calendar - p.calendar : Nat) : Rat)

/-- A life with its 90 % lower bound, the mechanism that sets it and its index (Table 17.5). -/
structure Life where
  /-- months left; none without a limit -/
  life : Option Rat
  /-- lower bound -/
  bound : Option Rat
  /-- mechanism -/
  mech : Nat
  /-- row, stack or Seam -/
  index : Nat

/-- The shorter of two times. -/
def lessLife : Option Rat → Option Rat → Bool
  | some a, some b => a < b
  | some _, none => true
  | none, _ => false

/-- The least of two lives; each bound is the least bound (R496, R497). -/
def Life.least (a b : Life) : Life :=
  let x := if lessLife b.life a.life then b else a
  { x with bound := if lessLife b.bound a.bound then b.bound else a.bound }

/-- A life with the bound of R497 for a variance of its fit. -/
def lifeOf (mech : Nat) (var : Rat) (l : Option Rat) : Life :=
  { life := l, bound := l.map (fun x => x * max 0 (min 1 (Config.boundFactor var))), mech := mech, index := 0 }

/-- No limit. -/
def Life.none (mech : Nat) : Life := { life := .none, bound := .none, mech := mech, index := 0 }

/-- x^y: exact for a whole exponent (log 29). -/
def ratPow (x y : Rat) : Rat := if y.den = 1 && 0 ≤ y then x ^ y.num.toNat else Config.ratPow x y

/-- The variance of a fit's residuals; a single point leaves none (R497). -/
def fitVar (pts : List (Rat × Rat)) : Rat := if pts.length ≤ 1 then 0 else max 0 (Config.fitVar pts)

/-- The drift limit of a site in ppm (R491). -/
def State.driftLimit (s : State) (i : Nat) : Rat :=
  let gb : Int := (s.sitePwr i).ageGb
  (850 - ((s.vSum i 32 : Int) - gb) : Int) * 1000000 / ((s.siteFuse i).ageSens : Rat)

/-- Ageing of a site: the drift fit reaches its limit (R496). -/
def ageingLife (s : State) (w : LifeView) (i : Nat) : Life :=
  let pts := (Tbl.get [] w.drifts i).filterMap (fun p => if 0 < p.1 && 0 < p.2 then some (months p.1, p.2) else none)
  let lim := s.driftLimit i
  let n := Config.ageExp i
  let stop : Option Rat := match pts with
    | [] => .none
    | [p] => some (p.1 * ratPow (lim / p.2) (1 / n))
    | ps => some (Config.fitEnd n ps lim)
  let rate := w.meanAf s 30 i * w.fraction
  lifeOf 1 (fitVar pts) (if (s.siteFuse i).ageSens = 0 then .none else if lim ≤ (s.siteHlt i).drift then some 0 else if rate ≤ 0 then .none
    else stop.map (fun e => max 0 (e - months (Tbl.get 0 w.now.stress i)) / rate))

/-- A bank with its spares counted under a key and its stress under another, `all` spares in it (R496). -/
def spareLife (s : State) (w : LifeView) (mech key stress all : Nat) : Life :=
  let p := w.back 365
  let taken := Tbl.get 0 w.now.spares key
  let n := taken - Tbl.get 0 p.spares key
  let len := months ((w.now.powered - p.powered : Nat) : Rat)
  let af := w.meanAf s 365 stress
  let c := (n : Rat) / len * (if af = 0 then 1 else w.meanAf s 30 stress / af) * w.fraction
  if n = 0 || len ≤ 0 || c ≤ 0 then Life.none mech
  else lifeOf mech (1 / ((max 1 n : Nat) : Rat)) (some (((all - taken + 1 : Nat) : Rat) / c))

/-- A quantity extrapolated over the last 90 days of powered time to its limit (R496). -/
def linearLife (w : LifeView) (mech limit now was : Nat) (pts : List (Rat × Rat)) : Life :=
  let len := months ((w.now.powered - (w.back 90).powered : Nat) : Rat)
  let rate : Rat := ((now - was : Nat) : Rat) / len * w.fraction
  if limit ≤ now then lifeOf mech (fitVar pts) (some 0)
  else if len ≤ 0 || rate ≤ 0 then Life.none mech
  else lifeOf mech (fitVar pts) (some (((limit - now : Nat) : Rat) / rate))

/-- The points of a quantity in the last 90 days of powered time. -/
def LifeView.recent (w : LifeView) (f : LifePoint → Nat) : List (Rat × Rat) :=
  (w.points.filter (fun p => (w.back 90).powered ≤ p.powered)).map (fun p => (months ((p.powered : Nat) : Rat), ((f p : Nat) : Rat)))

/-- The life of a site: the least of its ageing, plot-spare and regulator lives (R496); until the model is ready the design life
minus the stress-equivalent months accrued, its bound 0.66 times that (R494). -/
def siteLife (s : State) (w : LifeView) (i : Nat) : Life :=
  if !s.hlt.modelReady then
    let l := max 0 ((((s.boot.fuse.map (fun (f : FuseMap) => f.life)).getD 0).toNat : Rat) - months (Tbl.get 0 w.now.stress i))
    { life := some l, bound := some (33 / 50 * l), mech := 1, index := 0 }
  else
    let eff := fun (p : LifePoint) => Tbl.get 0 p.eff i
    let reg := linearLife w 3 50 (eff w.now) (eff (w.back 90)) (w.recent eff)
    ((w.now.spares.filter (fun e => e.1 / 32 = i)).foldl (fun l e => l.least (spareLife s w 2 e.1 (880 + i) 32)) (ageingLife s w i)).least reg

/-- Insert into a list that rises by an order. -/
def insertBy {α : Type} (lt : α → α → Bool) (x : α) : List α → List α
  | [] => [x]
  | y :: ys => if lt y x then y :: insertBy lt x ys else x :: y :: ys

/-- A row with u usable sites lasts until the (u − 19)th smallest life among them, its bound the same order statistic of their
bounds; a withdrawn row sets no limit (R496, R497). -/
def rowLife (s : State) (lives : List Life) (row : Nat) : Life :=
  let ls := ((List.range 22).filter (fun c => (s.site (rowSite row c)).usable)).filterMap (fun c => lives[rowSite row c]?)
  let byLife := ls.foldl (fun a x => insertBy (fun y z => lessLife y.life z.life) x a) []
  let bounds := ls.foldl (fun a x => insertBy lessLife x.bound a) []
  match byLife[ls.length - 20]? with
  | some l => if ls.length < 20 then Life.none 1 else { l with bound := (bounds[ls.length - 20]?).bind id, index := row }
  | .none => Life.none 1

/-- A stack lasts until its smallest bank life (R496). -/
def stackLife (s : State) (w : LifeView) (k : Nat) : Life :=
  (w.now.spares.filter (fun e => 28160 + 1024 * k ≤ e.1 && e.1 < 28160 + 1024 * (k + 1))).foldl (fun l e =>
    { l.least (spareLife s w 5 e.1 (1760 + 16 * k + (e.1 - 28160) % 1024 / 64) 64) with index := k }) { Life.none 5 with index := k }

/-- The life of a Seam (R496). -/
def seamLife (w : LifeView) (j : Nat) : Life :=
  let q := fun (p : LifePoint) => Tbl.get 0 p.ratio j
  { linearLife w 4 1500 (q w.now) (q (w.back 90)) (w.recent q) with index := j }

/-- The part's life: the least over rows, stacks and Seams; only rows before the model is ready (R494, R496). -/
def partLife (s : State) (w : LifeView) (lives : List Life) : Life :=
  ((List.range 40).map (rowLife s lives) ++
    (if s.hlt.modelReady then (List.range 6).map (stackLife s w) ++ (List.range 15).map (seamLife w) else [])).foldl Life.least (Life.none 1)

/-- Months in units of 0.1 month, cut off below; 0xFFFF for 6,553.5 months or more (Table 17.5, worked example). -/
def tenths : Option Rat → Nat
  | .none => 0xFFFF
  | some m => min 0xFFFF (max 0 (10 * m)).floor.toNat

/-- A field for a value that may be no whole number: the rounding is free (log 29). -/
def roundField (draw cap : Nat) (x : Rat) : Nat :=
  min cap ((max 0 x).floor.toNat + (if x.den = 1 then 0 else Config.freeNat draw % 2))

/-- `HLT_DUTY`: the 30-day mean factor of the part's sites and the powered fraction (R495). -/
def dutyWord (s : State) (w : LifeView) : Nat :=
  roundField s.draws 0xFFFF (256 * ratMean ((List.range 880).map (w.meanAf s 30)))
    + 65536 * roundField (s.draws + 1) 1000 (1000 * w.fraction)

/-- The life registers and the life event, from the history and the present duty (R494 to R497, R503). -/
def recomputeLife (s : State) : State :=
  let w := s.lifeView
  let lives := (List.range 880).map (siteLife s w)
  let part := partLife s w lives
  let life := tenths part.life
  let bound := min life (tenths part.bound)
  let duty := dutyWord s w
  let warn : Bool := bound < 10 * s.hlt.warnMonths.toNat
  let sites := (List.range 880).foldl (fun t i => Tbl.modify SiteHealth.init t i (fun x =>
    let l := lives.getD i (Life.none 1)
    { x with life := tenths l.life, bound := min (tenths l.life) (tenths l.bound) })) s.hlt.sites
  let s := { s.drawn 2 with hlt := { s.hlt with
    sites := sites
    life := BitVec.ofNat 32 (life + 65536 * bound)
    limit := BitVec.ofNat 32 (part.mech + 65536 * part.index)
    duty := BitVec.ofNat 32 duty
    lifeWarn := warn } }
  healthEvent s 9 (b2n warn) (leBytes 2 life ++ leBytes 2 bound ++ leBytes 1 part.mech ++ leBytes 1 0 ++ leBytes 2 part.index
    ++ leBytes 2 (duty % 65536))

/-- `LIFE_RECOMPUTE` (R497). -/
def execLifeRecompute (s : State) : Out := if s.boot.ready then .next (recomputeLife s) else .next s

/-- `HEALTH_RECORD_WRITE`: after 24 h of powered time the record is written (R493, R494). -/
def execHealthRecordWrite (s : State) : Out :=
  if !s.boot.kiosk then .next s
  else
    let r := healthRecord s s.flash.health
    let r := { r with hours := r.hours + 24 }
    .next { s with
      flash := { s.flash with health := some r }
      hlt := { s.hlt with modelReady := 720 ≤ r.hours } }

end Sys2Proof.Machine
end

