-- ==== Sys2Proof/Machine/Cuffs.lean ====
section
/-! DEFINITION. Cuffs and ports: retraining, Ethernet answers, flow control, fabric pace, and the last step of bring-up
("Cuffs, Ethernet and the Xobex transport" R332 to R336, R348, R365 to R368; R469, R516). -/

namespace Sys2Proof.Machine

/-! ## Retraining (R366, Table 12.12) -/

/-- `CUFF_STATUS` (Table 12.15). -/
def cuffStatus (c : Cuff) : Word :=
  BitVec.ofNat 32 (c.portUp.toNat + 256 * b2n c.training + 512 * b2n c.failed + 1024 * b2n c.queued + 2048 * c.modeNow)

/-- The oldest waiting Cuff starts to retrain, unless one does already. -/
def nextRetrain (s : State) : State :=
  if (List.range 8).any (fun c => (s.cuff c).training) then s
  else
    match s.fab.line with
    | [] => s
    | c :: rest =>
      (s.modFab (fun f => { f with line := rest })).modCuff c (fun x => { x with
        queued := false, training := true, retrains := satAdd x.retrains 1 })

/-- Ask for a Cuff to retrain: at most one of the part does at a time, in request order. A Cuff that is dark or failed does not. -/
def askRetrain (s : State) (c : Nat) : State :=
  let x := s.cuff c
  if !x.enable || x.failed || x.training || x.queued then s
  else nextRetrain ((s.modFab (fun f => { f with line := f.line ++ [c] })).modCuff c (fun x => { x with queued := true }))

/-- `CUFF_LINK_LOSS`: a port loses its link, and its Cuff retrains. -/
def execCuffLinkLoss (port : Fin 64) (s : State) : Out :=
  let c := port.val / 8
  let i := port.val % 8
  if !(s.cuff c).portUp.getLsbD i then .next s
  else .next (askRetrain (s.modCuff c (fun x => { x with portUp := x.portUp &&& BitVec.ofNat 8 (255 - 2 ^ i) })) c)

/-- `FEC_ERROR_BURST`: more than 16 uncorrectable code words within 1 ms; they are counted, and the Cuff retrains. -/
def execFecErrorBurst (cuff : Fin 8) (n : Half) (s : State) : Out :=
  let s := s.modCuff cuff (fun c => { c with fecUe := satAdd c.fecUe n.toNat })
  .next (if 16 < n.toNat then askRetrain s cuff else s)

/-- `CUFF_RETRAIN`: `RETRAIN` is written. -/
def execCuffRetrain (cuff : Fin 8) (s : State) : Out := .next (askRetrain s cuff)

/-- The reference clock of a Cuff's edge is present. -/
def State.cuffClock (s : State) (c : Nat) : Bool := if c < 4 then s.boot.cuffNorth else s.boot.cuffSouth

/-- Ports of a Cuff mode, as a mask of their first lanes (Table 12.1). -/
def modePorts (mode : Nat) : BitVec 8 := [0x01, 0x11, 0x55, 0xFF, 0x01].getD mode 0x01

/-- Send what waits for any peer, paths having changed. -/
def pumpAll (s : State) : State := (s.fab.send.map (fun e => e.1 / 2)).dedup.foldl pump s

/-- `CUFF_RETRAIN_END`: the Cuff rejoins with the ports that came up, or its verification failed: it retrains again, and is
failed after the third in a row. -/
def execCuffRetrainEnd (cuff : Fin 8) (ok : Bool) (up : BitVec 8) (s : State) : Out :=
  let c := s.cuff cuff
  if !c.training then .next s
  else
    let up := up &&& modePorts c.mode
    if ok && s.cuffClock cuff && up ≠ 0 then
      .next (pumpAll (nextRetrain (s.modCuff cuff (fun c => { c with training := false, fails := 0, portUp := up, modeNow := c.mode }))))
    else
      let s := s.modCuff cuff (fun c => { c with training := false, fails := c.fails + 1, portUp := 0 })
      if 3 ≤ (s.cuff cuff).fails then
        let s := s.modCuff cuff (fun c => { c with failed := true })
        .next (nextRetrain (healthEvent s 6 1 (leBytes 4 (cuffStatus (s.cuff cuff)).toNat ++ leBytes 2 cuff.val)))
      else .next (nextRetrain (askRetrain s cuff))

/-- `ENABLE` written 1 lets a Cuff train and run, a failed one again; written 0 makes it dark (R366, R368). -/
def enableCuff (s : State) (c : Nat) (on : Bool) : State :=
  if on then
    if (s.cuff c).enable && !(s.cuff c).failed then s
    else askRetrain (s.modCuff c (fun c => { c with enable := true, failed := c.laneFail, fails := 0 })) c
  else
    let s := s.modFab (fun f => { f with line := f.line.filter (· ≠ c) })
    nextRetrain (s.modCuff c (fun c => { c with enable := false, portUp := 0, training := false, queued := false }))

/-- `CUFF_ENABLE`: `ENABLE` is written. -/
def execCuffEnable (cuff : Fin 8) (on : Bool) (s : State) : Out := .next (enableCuff s cuff on)

/-- The Cuffs of an edge. -/
def edgeCuffs (north : Bool) : List Nat := if north then [0, 1, 2, 3] else [4, 5, 6, 7]

/-- `CUFF_REFCLK_LOST`: the ports of the Cuffs it feeds go down, and each such Cuff retrains (R516). -/
def execCuffRefclkLost (north : Bool) (s : State) : Out :=
  let s := { s with boot := if north then { s.boot with cuffNorth := false } else { s.boot with cuffSouth := false } }
  .next ((edgeCuffs north).foldl (fun s c => askRetrain (s.modCuff c (fun x => { x with portUp := 0 })) c) s)

/-- `CUFF_REFCLK_RESTORED`: the clock is present again, and its Cuffs can train (Table 19.9). -/
def execCuffRefclkRestored (north : Bool) (s : State) : Out :=
  .next { s with boot := if north then { s.boot with cuffNorth := true } else { s.boot with cuffSouth := true } }

/-- `CUFF_TRAINING`, step 12: Cuffs with a failing lane are failed, and the part becomes ready (R456, R469, R453, R496). -/
def execCuffTraining (bad : List (Fin 64)) (s : State) : Out :=
  if !s.inStep 12 then .next s
  else
    let s := (bad.map (fun l => l.val / 8)).dedup.foldl (fun s c => s.modCuff c (fun x => { x with failed := true, laneFail := true })) s
    let s := endStep s 12
    let s := { s with boot := { s.boot with phase := 0, ready := true } }
    let s := bootEvent s 0
    -- a boot that a trip caused reports its restart with the trip's point and value (log 39)
    let s := if s.boot.cause = 5 then thermEvent s 2 0 0 (fld s.thm.tripCause 10 0) (fld s.thm.tripCause 31 16) 0 0 else s
    .next (recomputeLife s)

/-! ## Ethernet (R333, R334, R348) -/

/-- A frame arrives on a Cuff. -/
def rxFrame (s : State) (c : Nat) : State := s.modCuff c (fun x => { x with rx := bump x.rx 1 })

/-- A frame that is dropped. -/
def dropFrame (s : State) (c : Nat) : State := s.modCuff c (fun x => { x with rxDrop := satAdd x.rxDrop 1 })

/-- A frame answered from a port that is up. -/
def reply (s : State) (port : Nat) (r : NetReply) : State :=
  (s.modFab (fun f => { f with replies := f.replies ++ [r] })).modCuff (port / 8) (fun x => { x with tx := bump x.tx 1 })

/-- Addresses of a port. -/
def State.port (s : State) (p : Nat) : PortCfg := Tbl.get PortCfg.init s.fab.ports p

/-- `ARP_REQUEST`: answered for the port's own address; another is dropped (R334). -/
def execArpRequest (port : Fin 64) (mac : BitVec 48) (sender target : BitVec 32) (s : State) : Out :=
  let c := port.val / 8
  if !(s.cuff c).portUp.getLsbD (port.val % 8) then .next s
  else if (s.port port).ip4 = some target.toNat then .next (reply (rxFrame s c) port (.arp port.val mac.toNat sender.toNat))
  else .next (dropFrame (rxFrame s c) c)

/-- `NEIGHBOUR_SOLICITATION`: answered for the port's own address (R334). -/
def execNeighbourSolicitation (port : Fin 64) (mac : BitVec 48) (sender target : BitVec 128) (s : State) : Out :=
  let c := port.val / 8
  if !(s.cuff c).portUp.getLsbD (port.val % 8) then .next s
  else if (s.port port).ip6 = some target.toNat then .next (reply (rxFrame s c) port (.na port.val mac.toNat sender.toNat))
  else .next (dropFrame (rxFrame s c) c)

/-- `ECHO_REQUEST`: answered for the port's own addresses; IPv4 addresses are IPv4-mapped (R334). -/
def execEchoRequest (port : Fin 64) (sender target : BitVec 128) (data : List Byte) (s : State) : Out :=
  let c := port.val / 8
  let p := s.port port
  if !(s.cuff c).portUp.getLsbD (port.val % 8) then .next s
  else if p.ip6 = some target.toNat || p.ip4.any (fun a => 0xFFFF * 2 ^ 32 + a = target.toNat) then
    .next (reply (rxFrame s c) port (.echo port.val sender.toNat data))
  else .next (dropFrame (rxFrame s c) c)

/-- `UNACCEPTED_FRAME`: dropped and counted (R334). -/
def execUnacceptedFrame (cuff : Fin 8) (s : State) : Out := .next (dropFrame (rxFrame s cuff) cuff)

/-- `PAUSE_FRAME_RECEIVE`: counted and ignored (R333). -/
def execPauseFrameReceive (cuff : Fin 8) (s : State) : Out :=
  .next ((rxFrame s cuff).modCuff cuff (fun x => { x with pauses := x.pauses + 1 }))

/-- `PFC_FRAME`: an XOFF or XON for `PFC_PRIO` is obeyed while `PFC_EN` = 1 (R348). -/
def execPfcFrame (cuff : Fin 8) (off : Bool) (s : State) : Out :=
  .next ((rxFrame s cuff).modCuff cuff (fun x => { x with
    paused := if x.pfcEn then off else x.paused, pfcRx := if off then satAdd x.pfcRx 1 else x.pfcRx }))

/-- `XOFF_REPEAT`: the fill of a receive buffer in KiB: above 768 XOFF is sent, and again every 20 µs; below 512 XON (R348). -/
def execXoffRepeat (cuff : Fin 8) (kib : BitVec 11) (s : State) : Out :=
  let c := s.cuff cuff
  if !c.pfcEn then .next s
  else if 768 < kib.toNat then
    .next ((s.modFab (fun f => { f with replies := f.replies ++ [.pfc cuff.val true] })).modCuff cuff (fun x => { x with
      full := true, pfcTx := satAdd x.pfcTx 1, tx := bump x.tx 1 }))
  else if c.full && kib.toNat < 512 then
    .next ((s.modFab (fun f => { f with replies := f.replies ++ [.pfc cuff.val false] })).modCuff cuff (fun x => { x with
      full := false, tx := bump x.tx 1 }))
  else .next s

/-! ## Pace (R365, Table 12.16) -/

/-- The parts that were last most often, of a list of parts. -/
def mostFrequent (ps : List Nat) : List Nat :=
  let count := fun p => (ps.filter (· = p)).length
  let top := (ps.map count).foldl max 0
  ps.dedup.filter (fun p => count p = top)

/-- One job's window: `XWAIT`, `LATE_PART`, the count of windows, and once a second the pace event. Among parts that were last
equally often any may be named. -/
def xpaceJob (s : State) (j : Job) : State :=
  let p := Tbl.get XPace.init s.fab.pace j.node
  let cyc := (j.cores.map (fun lc => (s.core lc).seq.cyc.toNat)).sum
  let wait := (j.cores.map (fun lc => (s.core lc).seq.xwait.toNat)).sum
  let lates := p.lates.filter (fun e => p.windows.toNat ≤ e.1 + 99)
  let tops := mostFrequent (lates.map (·.2))
  let late := if tops = [] then p.late else tops.getD (Config.freeNat s.draws % tops.length) 0
  let q : XPace := {
    xwait := if cyc = p.base.1 then 0 else paceFrac (wait - p.base.2) (cyc - p.base.1), late := late, windows := p.windows + 1
    base := (cyc, wait), lates := lates }
  let s := (s.drawn 1).modFab (fun f => { f with pace := Tbl.set XPace.init f.pace j.node q })
  if q.windows.toNat % 100 = 0 then
    healthEvent s 2 0 (leBytes 8 j.imageId.toNat ++ leBytes 1 j.node ++ leBytes 1 0 ++ leBytes 2 q.xwait ++ leBytes 2 late)
  else s

/-- `XPACE_WINDOW`: every 10 ms the pace entries of the jobs on several parts are rewritten (R365, R369). -/
def execXpaceWindow (s : State) : Out :=
  .next ((s.jobs.filter (fun j => j.isRunning && j.parts ≠ [] && j.phase ≠ .loading)).foldl xpaceJob s)

end Sys2Proof.Machine
end

