-- ==== Sys2Proof/Machine/HostQueues.lean ====
section
/-! DEFINITION. Host queues: enabling and draining, doorbells, waiting completions, interrupts, notification entries, and the
PCIe function ("Host interface and command packets" R371 to R376, R389). -/

namespace Sys2Proof.Machine

/-! ## The admin queue (R373) -/

/-- The `ADM_` fields of the rings pass the checks of enabling. -/
def Hif.admOk (h : Hif) : Bool :=
  let a := h.admSq.toNat
  let b := h.admCq.toNat
  let sq := bits h.admCtrl.toNat 3 0
  let cq := bits h.admCtrl.toNat 7 4
  a % 4096 = 0 && b % 4096 = 0 && 4 ≤ sq && sq ≤ 12 && sq ≤ cq && cq ≤ 14

/-- A queue's rings begin again at their first entries, in the first pass of the completion ring (R374, R376). -/
def HostQueue.fresh (x : HostQueue) : HostQueue :=
  { x with sqHead := 0, sqTail := 0, cqSlot := 0, cqPhase := true, cqHead := 0, gathered := 0, coalAt := 0, err := 0 }

/-- Enable the admin queue: into state 1, or into state 2 with reason 5 when its fields are out of range. Its messages are
sent on vector 0 without coalescing (log 43). -/
def enableAdmin (s : State) : State :=
  let h := s.hif
  let s := { s with hif := { h with admCtrl := h.admCtrl ||| 0x100#9 } }
  s.modQueue 0 (fun x =>
    let x := { x.fresh with
      sqBase := h.admSq.toNat, cqBase := h.admCq.toNat, sqLog := bits h.admCtrl.toNat 3 0, cqLog := bits h.admCtrl.toNat 7 4
      vector := 0, irqEn := true, draining := false, reenable := false }
    if h.admOk then { x with st := .on } else { x with st := .err, err := 5 })

/-- A draining queue whose fetched commands have all completed and posted reads state 0; the admin queue is then enabled
again if that was asked (R373). -/
def drainDone (s : State) (q : Nat) : State :=
  let x := s.queue q
  if x.draining && x.running = [] && x.waiting = [] then
    let s := s.modQueue q (fun x => { x with st := .off, err := 0, draining := false, reenable := false })
    if q = 0 && x.reenable then enableAdmin s else s
  else s

/-- Stop fetching from a queue and let it drain (R373). -/
def disableQueue (s : State) (q : Nat) : State :=
  if (s.queue q).st = .off then s else drainDone (s.modQueue q (fun x => { x with draining := true })) q

/-- The `ADM_` fields can be written: `ENABLE` is 0 and the state reads 0 (R373). -/
def State.admFree (s : State) : Bool := !s.hif.admCtrl.getLsbD 8 && (s.queue 0).st = .off

/-- A write of `ADM_CTRL` (R373, Table 13.2). -/
def writeAdmCtrl (s : State) (v : Word) : State :=
  let on := v.getLsbD 8
  if s.admFree then
    let s := { s with hif := { s.hif with admCtrl := (v &&& 0xFF#32).setWidth 9 } }
    if on then enableAdmin s else s
  else if s.hif.admCtrl.getLsbD 8 then
    if on then s else disableQueue { s with hif := { s.hif with admCtrl := s.hif.admCtrl &&& 0x0FF#9 } } 0
  else s.modQueue 0 (fun x => { x with reenable := on })

/-- `ADMIN_QUEUE_ENABLE`: `ADM_CTRL`.`ENABLE` is set, with the ring sizes of the same write. -/
def execAdminQueueEnable (sqLog cqLog : BitVec 4) (s : State) : Out :=
  .next (writeAdmCtrl s (BitVec.ofNat 32 (256 + sqLog.toNat + 16 * cqLog.toNat)))

/-- `ADMIN_QUEUE_DISABLE`: `ADM_CTRL`.`ENABLE` is cleared. -/
def execAdminQueueDisable (s : State) : Out :=
  .next (writeAdmCtrl s (s.hif.admCtrl &&& 0x0FF#9 |>.setWidth 32))

/-- `QUEUE_DRAINED`: a disabled queue has posted its last completion. -/
def execQueueDrained (q : BitVec 16) (s : State) : Out := .next (drainDone s q.toNat)

/-! ## Doorbells (R374) -/

/-- Count a doorbell write that is ignored. -/
def ignoreBell (s : State) : State := { s with hif := { s.hif with dbIgn := satAdd s.hif.dbIgn 1 } }

/-- `SUBMISSION_TAIL_DOORBELL`. -/
def execSubmissionTailDoorbell (q tail : BitVec 16) (s : State) : Out :=
  let n := q.toNat
  let x := s.queue n
  if x.st ≠ .on || x.draining then .next (ignoreBell s)
  else if 2 ^ x.sqLog ≤ tail.toNat then .next (s.modQueue n (fun x => { x with st := .err, err := 1 }))
  else .next (s.modQueue n (fun x => { x with sqTail := tail.toNat }))

/-- A completion head is valid: inside the ring, and not past the next slot the part will write. -/
def HostQueue.headOk (x : HostQueue) (h : Nat) : Bool :=
  let n := 2 ^ x.cqLog
  h < n && (h + n - x.cqHead) % n ≤ (x.cqSlot + n - x.cqHead) % n

/-- `COMPLETION_HEAD_DOORBELL`. -/
def execCompletionHeadDoorbell (q head : BitVec 16) (s : State) : Out :=
  let n := q.toNat
  let x := s.queue n
  if x.st = .off then .next (ignoreBell s)
  else if x.headOk head.toNat then .next (s.modQueue n (fun x => { x with cqHead := head.toNat }))
  else if x.st = .err then .next (ignoreBell s)
  else .next (s.modQueue n (fun x => { x with st := .err, err := 4 }))

/-! ## Completions, interrupts and notification entries (R374, R376, R389) -/

/-- Write the oldest waiting completion of a queue if its ring has room. -/
def writeWaiting (s : State) (q : Nat) : State :=
  match (s.queue q).waiting with
  | [] => s
  | c :: rest =>
    if (s.queue q).hasRoom && s.hif.bme then
      let t := writeCpl (s.modQueue q (fun x => { x with waiting := [] })) q c true
      t.modQueue q (fun x => { x with waiting := x.waiting ++ rest })
    else s

/-- `COMPLETION_WRITE`: a completion that waited is written. -/
def execCompletionWrite (q : BitVec 16) (s : State) : Out := .next (drainDone (writeWaiting s q.toNat) q.toNat)

/-- `INTERRUPT_COALESCE_TIMER`: `COAL_US` has passed since the first gathered completion (R376). -/
def execInterruptCoalesceTimer (q : BitVec 16) (s : State) : Out :=
  let x := s.queue q.toNat
  if x.irqEn && 0 < x.gathered && x.coalUs ≠ 0 && x.coalAt + x.coalUs ≤ s.us then .next (sendIrq s q.toNat) else .next s

/-- The waiting notification entry (R389). -/
def State.noteEntry (s : State) : Cpl :=
  let last := s.notes.log.getLast?
  { cid := 0xFFFFFFFF#32, status := 0, ign := false
    r0 := (last.map (·.seq.toNat)).getD 0 + 2 ^ 16 * (last.map (·.cls)).getD 0, r1 := s.notes.fresh }

/-- Post the waiting notification entry when its queue is in state 1 and has room; no completion waits behind it. -/
def postNote (s : State) : State :=
  let q := s.hif.noteQ.toNat
  let x := s.queue q
  if s.notes.fresh ≠ 0 && x.st = .on && x.waiting = [] && x.hasRoom && s.hif.bme then
    let t := writeCpl s q s.noteEntry false
    if (t.queue q).st = .on then { t with notes := { t.notes with fresh := 0 } } else t
  else s

/-- `NOTIFICATION_POST`. -/
def execNotificationPost (s : State) : Out := .next (postNote s)

/-! ## The PCIe function (R371) -/

/-- `CONFIGURATION_REQUEST`: answered with Retry Status until the controller is configured from the fuses. -/
def execConfigurationRequest (s : State) : Out :=
  if s.hif.linkUp then .next { s with hif := { s.hif with cfgRetry := some (!s.hif.configured) } } else .next s

/-- `BUS_MASTER_ENABLE`: the bit changes; what needs host memory waits while it is 0. -/
def execBusMasterEnable (on : Bool) (s : State) : Out :=
  if s.hif.linkUp && s.hif.configured then .next { s with hif := { s.hif with bme := on } } else .next s

end Sys2Proof.Machine
end

