-- ==== Sys2Proof/Machine/Registers.lean ====
section
/-! DEFINITION. What every register reads: the core control areas (Tables 2.8, 3.6, 4.12, 5.19, 6.12, 7.10), the management
window (Table 19.1), and the registers of BAR0 (Table 13.2); and which bits of each are fields rather than reserved
("Management register reference" R523 to R535). Registers with a latched upper half are given as one 64-bit value, by the
offset of the lower half. -/

namespace Sys2Proof.Machine

/-- The upper word of a 64-bit value. -/
def hiWord (v : Dword) : Word := BitVec.ofNat 32 (v.toNat / 2 ^ 32)

/-- The lower word of a 64-bit value. -/
def loWord (v : Dword) : Word := BitVec.ofNat 32 v.toNat

/-- The word at an offset of a block of latched pairs and single words: both halves live. -/
def liveWord (wide : Nat → Option Dword) (word : Nat → Word) (o : Nat) : Word :=
  match wide o with
  | some v => loWord v
  | none =>
    match (if 4 ≤ o then wide (o - 4) else none) with
    | some v => hiWord v
    | none => word o

/-! ## Core control areas -/

/-- `ARRAY_SHAPE` (Table 3.7). -/
def Core.arrayShape (c : Core) : Word :=
  BitVec.ofNat 32 (b2n c.arr.ramp + 2 * b2n c.arr.forceRamp + 16 * c.arr.level + 256 * b2n c.arr.rising)

/-- `FV_STATE` (Table 4.14). -/
def Core.fvState (c : Core) : Word :=
  let v := c.fv
  let held (f : Feeder) : Nat := f.held.length + (f.instrs.filter (fun i => i.cur.isSome)).length
  BitVec.ofNat 32 (held v.fa + 16 * held v.fb + 256 * v.fa.instrs.length + 1024 * v.fb.instrs.length
    + ((List.range 8).map (fun i => 2 ^ (16 + 2 * i) * (Tbl.get .free v.slots i).code)).sum)

/-- `MOVE_STATE` (Table 6.14). -/
def moveState (s : State) (c : Core) : Word :=
  BitVec.ofNat 32 (((List.range 4).map (fun m =>
    2 ^ (5 * m) * (c.mover m).credits + 2 ^ (20 + m) * b2n (c.mover m).active.isSome + 2 ^ (24 + m) * b2n (s.moverHeld c m))).sum)

/-- The core's domain is gated or powering up: its control area reads reset values (R403). -/
def State.coreGated (s : State) (lc : Nat) : Bool :=
  match s.siteOf lc with
  | some i => (s.sitePwr i).dom ≠ .on
  | none => true

/-- The core that a control-area read shows (R403). -/
def State.shownCore (s : State) (lc : Nat) : Core := if s.coreGated lc then Core.init else s.core lc

/-- The error block that a core's control area shows: that of its site (R221). -/
def State.shownErr (s : State) (lc : Nat) : ErrBlock :=
  match s.siteOf lc with
  | some i => s.errBlock i
  | none => ErrBlock.init

/-- The latched pairs of a core control area. -/
def coreWide (s : State) (lc o : Nat) : Option Dword :=
  let c := s.shownCore lc
  match o with
  | 0x010 => some c.num.ctr
  | 0x108 => some c.arr.act
  | 0x110 => some c.arr.fill
  | 0x118 => some c.arr.rwait
  | 0x120 => some c.arr.cwait
  | 0x208 => some c.fv.conf
  | 0x210 => some c.fv.beats
  | 0x218 => some c.fv.wait
  | 0x408 => some c.seq.cyc
  | 0x410 => some c.seq.issue
  | 0x418 => some c.seq.gwait
  | 0x420 => some c.seq.rwait
  | 0x428 => some c.seq.pause
  | 0x430 => some c.seq.lag
  | 0x608 => some c.mov.done
  | 0x610 => some c.mov.bytes
  | 0x618 => some c.mov.qwait
  | 0x620 => some c.mov.swait
  | 0x628 => some c.mov.hold
  | 0x828 => some (s.shownErr lc).rmw
  | 0x830 => some (s.shownErr lc).merge
  | _ => none

/-- The single words of an error block. -/
def errWord (e : ErrBlock) (o : Nat) : Word :=
  match o with
  | 0x00 => e.sum.setWidth 32
  | 0x04 => e.canCe
  | 0x08 => e.canUe
  | 0x0C => e.fsCe
  | 0x10 => e.fsUe
  | 0x14 => e.plotCe
  | 0x18 => e.plotUe
  | 0x1C => e.poison
  | 0x20 => e.wb
  | 0x24 => e.wbCancel
  | 0x38 => BitVec.ofNat 32 e.da.toNat
  | 0x3C => BitVec.ofNat 32 (e.da.toNat / 2 ^ 32)
  | 0x40 => e.syn
  | _ => 0

/-- The single words of a core control area; an offset that no register occupies reads zero (R174). -/
def coreWord (s : State) (lc o : Nat) : Word :=
  let c := s.shownCore lc
  if 0x440 ≤ o && o < 0x540 then BitVec.ofNat 32 (c.gate ((o - 0x440) / 4))
  else if 0x800 ≤ o then errWord (s.shownErr lc) (o - 0x800)
  else match o with
  | 0x000 => c.num.keyLo
  | 0x004 => c.num.keyHi
  | 0x008 => c.num.salt
  | 0x018 => c.num.flags.setWidth 32
  | 0x01C => c.num.flushCount
  | 0x100 => c.arrayShape
  | 0x104 => c.arr.fault
  | 0x200 => c.fv.fault
  | 0x204 => c.fvState
  | 0x400 => c.seq.fault
  | 0x404 => c.seqState
  | 0x438 => c.seq.aux
  | 0x600 => c.mov.fault
  | 0x604 => moveState s c
  | 0x630 => c.mov.disc
  | 0x634 => BitVec.ofNat 32 c.mov.faultOfs.toNat
  | 0x638 => BitVec.ofNat 32 (c.mov.faultOfs.toNat / 2 ^ 32)
  | _ => 0

/-- The bits of a core control word that are fields. -/
def coreMask (o : Nat) : Word :=
  if 0x440 ≤ o && o < 0x540 then 0x00FFFFFF
  else if o = 0x00C || (0x020 ≤ o && o < 0x100) || (0x128 ≤ o && o < 0x200) || (0x220 ≤ o && o < 0x400) || o = 0x43C
    || (0x540 ≤ o && o < 0x600) || (0x63C ≤ o && o < 0x800) || 0x844 ≤ o then 0
  else match o with
  | 0x018 => 0x0000007F
  | 0x100 => 0x000001F3
  | 0x104 => 0x1FFF000F
  | 0x200 => 0x1FFFFFFF
  | 0x204 => 0xFFFF0FFF
  | 0x400 => 0x1FFF0FFF
  | 0x404 => 0xFF3FFFFF
  | 0x438 => 0x003F03FF
  | 0x600 => 0x0FFF03FF
  | 0x604 => 0x0FFFFFFF
  | 0x638 => 0x000000FF
  | 0x800 => 0x000001FF
  | 0x83C => 0x00FFFFFF
  | _ => 0xFFFFFFFF

/-! ## BAR0 (Tables 13.2 to 13.4) -/

/-- `HIF_STATUS` (Table 13.3). -/
def hifStatus (s : State) : Word :=
  let b := s.boot
  BitVec.ofNat 32 (b2n b.ready + 2 * b2n s.tr.degraded + 4 * b2n s.hif.expertEn + 8 * b2n b.fatal
    + 16 * (if b.phase ≤ 12 then b.phase else 0) + 256 * b.fail)

/-- `ADM_STATE` (Table 13.2); while a queue drains its state reads its previous value (R373). -/
def admState (s : State) : Word :=
  let x := s.queue 0
  BitVec.ofNat 32 ((match x.st with
    | .off => 0
    | .on => 1
    | .err => 2) + 256 * x.err)

/-- The latched pairs of BAR0. -/
def barWide (s : State) (o : Nat) : Option Dword :=
  match o with
  | 0x028 => some s.hif.acc
  | 0x030 => some s.hif.cpl
  | _ => none

/-- The single words of BAR0 (Table 13.2). -/
def barWord (s : State) (o : Nat) : Word :=
  match o with
  | 0x000 => 0x00010000
  | 0x004 => hifStatus s
  | 0x008 => BitVec.ofNat 32 (b2n s.hif.expertEn + 2 ^ 31 * b2n s.hif.lock)
  | 0x00C => s.hif.noteQ.setWidth 32
  | 0x010 => loWord s.hif.admSq
  | 0x014 => hiWord s.hif.admSq
  | 0x018 => loWord s.hif.admCq
  | 0x01C => hiWord s.hif.admCq
  | 0x020 => s.hif.admCtrl.setWidth 32
  | 0x024 => admState s
  | 0x038 => s.notes.lost
  | 0x03C => s.hif.dbIgn
  | _ => 0

/-! ## Global, Kiosk, clock, reset, boot and fuse blocks -/

/-- A fused value; zero until fuse load, when the window is not served (R11, R529). -/
def fused (s : State) (f : FuseMap → Nat) : Nat := (s.boot.fuse.map f).getD 0

/-- `GLB_STATE` (Table 19.4). -/
def glbState (s : State) : Word :=
  let t := thmStatus s
  let h := hltStatus s
  let p := pwrStatus s
  BitVec.ofNat 32 (b2n s.boot.ready + 2 * b2n s.tr.degraded + 4 * b2n s.boot.fatal + 8 * b2n s.hif.expertEn
    + 16 * fld (hifStatus s) 7 4 + 2 ^ 8 * b2n (p.getLsbD 0) + 2 ^ 9 * b2n (p.getLsbD 1) + 2 ^ 10 * b2n (t.getLsbD 0)
    + 2 ^ 11 * b2n (t.getLsbD 2 || t.getLsbD 3) + 2 ^ 12 * b2n (t.getLsbD 7 || t.getLsbD 9) + 2 ^ 13 * b2n (h.getLsbD 3)
    + 2 ^ 14 * b2n (h.getLsbD 4) + 2 ^ 16 * ((List.range 64).filter (fun n => (ptnNode s n).getLsbD 56)).length)

/-- `GLB_LOCKS` (Tables 19.2, 19.3). -/
def glbLocks (s : State) : Word :=
  BitVec.ofNat 32 (b2n s.hif.lock + 2 * b2n s.fab.lock + 4 * b2n s.pwr.lock + 8 * b2n s.mgmt.fuseLock)

/-- Torzan runs on the Kiosk: from the end of step 3 of a bring-up (R458). -/
def State.torzanUp (s : State) : Bool := s.boot.kiosk && !s.boot.kioskFail && !s.down && (s.boot.ready || 4 ≤ s.boot.phase)

/-- The running version of firmware component `c`, 1 to 3: that of its selected bank, once selected. -/
def State.fwVersion (s : State) (c : Nat) : Nat :=
  if !s.torzanUp then 0
  else (if Tbl.get false s.boot.banks (c - 1) then (s.fw c).b else (s.fw c).a).elim 0 BitVec.toNat

/-- `KSK_STATE` (Table 19.6). -/
def kskState (s : State) : Word :=
  BitVec.ofNat 32 ((if s.boot.fatal then 2 else if s.torzanUp then 1 else 0) + 4 * b2n s.torzanUp
    + 8 * b2n ([1, 2, 3].any (fun c => (s.fw c).staged)))

/-- The requests in the Kiosk's order (R34), the one in effect among them. -/
def State.kioskLine (s : State) : List Nat :=
  (s.hif.queues.flatMap (fun e => (e.2.running.filter (·.kiosk)).map (·.id)))

/-- `KSK_MCTP` (Table 19.6). -/
def kskMctp (s : State) : Word :=
  BitVec.ofNat 32 (s.ksk.eid.toNat + 2 ^ 8 * b2n s.boot.kiosk + 2 ^ 9 * b2n (s.hif.linkUp && s.hif.configured)
    + 2 ^ 10 * b2n s.ksk.receiver.isSome + 2 ^ 16 * min 64 (if s.ksk.receiver.isSome then 0 else s.events.queue.length))

/-- The limit that sets a region's effective target: the lowest code among those that share the lowest value (Table 19.8). -/
def State.clkLimit (s : State) (r : Nat) : Nat :=
  let e := s.clkTarget r
  if min (s.clk r).target.toNat 40 = e && 0 < (s.clk r).fmax then 0
  else if s.pwr.freqLim = e && 0 < (s.clk r).fmax then 1
  else if (s.therm r).lim = e && 0 < (s.clk r).fmax then 2 else 3

/-- `CLK_STATUS` (Table 19.9). -/
def clkStatus (s : State) : Word :=
  BitVec.ofNat 32 (b2n (s.boot.rails && !s.boot.clockLost) + 2 * b2n s.hif.linkUp + 4 * b2n s.boot.cuffNorth + 8 * b2n s.boot.cuffSouth
    + 16 * b2n (s.boot.kiosk && !s.boot.auxLost) + 32 * b2n s.boot.auxLost
    + ((List.range 6).map (fun k => 2 ^ (8 + k) * b2n (s.stack k).trained)).sum)

/-- The step of a partial reset (Tables 16.8, 19.11). -/
def ResetRun.step (r : ResetRun) : Nat :=
  match r.stage with
  | .halting => 1
  | .teardown => 2
  | .draining => 3

/-- `RST_STATE` (Table 19.11). -/
def rstState (s : State) : Word :=
  match s.rst with
  | none => 0
  | some r => BitVec.ofNat 32 (1 + 2 * r.scope + 8 * r.target + 2 ^ 13 * r.step)

/-- `BOOT_STATUS` (Table 16.13). -/
def bootStatus (s : State) : Word :=
  let b := s.boot
  BitVec.ofNat 32 (b2n b.warm + 2 * b2n b.recordOk + 4 * b2n (b.phase = 4 && !b.rails) + 8 * b2n (0 < b.fallback)
    + 16 * b2n (Tbl.get false b.banks 0) + 32 * b2n (Tbl.get false b.banks 1) + 64 * b2n (Tbl.get false b.banks 2)
    + 128 * b2n b.verified + 256 * b.fallback)

/-- The data of a valid owner copy. -/
def OwnerCopy.data : OwnerCopy → Option (BitVec 256)
  | .valid d => some d
  | .blank => none
  | .spoiled => none

/-- `FUSE_STATUS` (Table 19.13). -/
def fuseStatus (s : State) : Word :=
  BitVec.ofNat 32 (b2n s.boot.fuse.isSome + 2 * b2n s.boot.fuseCopy + 4 * b2n s.boot.fuseBad + 8 * b2n (s.mgmt.prog ≠ .idle)
    + 16 * (match s.mgmt.prog with
        | .waits _ => 1
        | _ => 0)
    + 32 * s.mgmt.fuseErr + 256 * (s.owner.filter (fun c => c.data.isSome)).length + 1024 * b2n (s.owner.contains .spoiled))

/-- `FUSE_OWNER` word `n` (R535). -/
def fuseOwner (s : State) (n : Nat) : Word :=
  match s.owner.findSome? OwnerCopy.data with
  | some d => BitVec.ofNat 32 (d.toNat / 2 ^ (32 * n))
  | none => 0

/-- The latched pairs of the blocks below 0x600. -/
def lowWide (s : State) (o : Nat) : Option Dword :=
  match o with
  | 0x004 => some (BitVec.ofNat 64 (fused s (fun m => m.serial.toNat)))
  | 0x018 => some (BitVec.ofNat 64 s.us)
  | 0x310 => some (BitVec.ofNat 64 ((s.busy.dedup.map (2 ^ ·)).sum))
  | _ => none

/-- The single words of the blocks below 0x600 (Tables 16.12, 19.3, 19.5, 19.7, 19.10, 19.12). -/
def lowWord (s : State) (o : Nat) : Word :=
  if 0x200 ≤ o && o < 0x214 then regionClk s ((o - 0x200) / 4)
  else if 0x220 ≤ o && o < 0x234 then
    let r := (o - 0x220) / 4
    BitVec.ofNat 32 (s.clkTarget r + 256 * s.clkLimit r)
  else if 0x410 ≤ o && o < 0x440 then BitVec.ofNat 32 (Tbl.get 0 s.boot.ms ((o - 0x410) / 4 + 1))
  else if 0x520 ≤ o && o < 0x540 then Tbl.get 0 s.mgmt.stage ((o - 0x520) / 4)
  else if 0x540 ≤ o && o < 0x560 then fuseOwner s ((o - 0x540) / 4)
  else match o with
  | 0x000 => BitVec.ofNat 32 (0x0880 + 2 ^ 16 * fused s (fun m => m.stepping.toNat))
  | 0x00C => BitVec.ofNat 32 (fused s (fun m => m.mac.toNat))
  | 0x010 => BitVec.ofNat 32 (fused s (fun m => m.mac.toNat / 2 ^ 32))
  | 0x014 => BitVec.ofNat 32 (s.fab.index.getD 0x3FF + 2 ^ 15 * b2n s.fab.index.isSome)
  | 0x020 => trellisStatus s
  | 0x024 => glbState s
  | 0x028 => BitVec.ofNat 32 (b2n s.mgmt.lockAll)
  | 0x02C => s.mgmt.scratch
  | 0x030 => glbLocks s
  | 0x034 => 0x000100C0
  | 0x100 => kskState s
  -- Torzan services the watchdog at least every 500 ms; when it last did is not the model's to know (log 40)
  | 0x104 => BitVec.ofNat 32 (if s.torzanUp then Config.freeNat s.draws % 501 else 0)
  | 0x108 => BitVec.ofNat 32 (min 256 s.torzanRunning + 2 ^ 16 * min 255 (s.kioskLine.length - 1))
  | 0x10C => BitVec.ofNat 32 ((s.tr.bcasts.filter (fun t => s.ticks < t + 320)).length + 2 ^ 16 * s.tr.bseq.toNat)
  | 0x110 => BitVec.ofNat 32 (s.fwVersion 1)
  | 0x114 => BitVec.ofNat 32 (s.fwVersion 2)
  | 0x118 => BitVec.ofNat 32 (s.fwVersion 3)
  | 0x11C => kskMctp s
  | 0x120 => s.ksk.dropped
  | 0x124 => BitVec.ofNat 32 (((s.notes.log.getLast?.map (·.seq.toNat)).getD 0) + 2 ^ 16 * b2n (s.notes.fresh ≠ 0))
  | 0x240 => clkStatus s
  | 0x300 => rstState s
  | 0x304 => s.mgmt.rstLast
  | 0x308 => BitVec.ofNat 32 (min 65535 s.mgmt.rstLastUs)
  | 0x400 => bootStatus s
  | 0x404 => BitVec.ofNat 32 (b2n s.boot.coldNext)
  | 0x408 => BitVec.ofNat 32 s.boot.cause
  | 0x40C => s.boot.seq
  | 0x440 => testFaults s
  | 0x444 => siteCount s
  | 0x448 => s.boot.partials
  | 0x44C => s.boot.discard
  | 0x450 => s.boot.absorb
  | 0x454 => s.boot.gateClr
  | 0x458 => s.boot.remaps
  | 0x45C => s.boot.descDisc
  | 0x500 => fuseStatus s
  | 0x504 => BitVec.ofNat 32 (fused s (fun m => m.crc.toNat))
  | 0x508 => BitVec.ofNat 32 (fused s (fun m => m.life.toNat))
  | 0x50C => BitVec.ofNat 32 (fused s (fun m => m.theta.getD 0 0 + 2 ^ 16 * m.theta.getD 1 0))
  | 0x510 => BitVec.ofNat 32 (fused s (fun m => m.theta.getD 2 0))
  | 0x514 => BitVec.ofNat 32 (2 ^ 31 * b2n s.mgmt.fuseLock)
  | _ => 0

/-- The field bits of the words below 0x600. -/
def lowMask (o : Nat) : Word :=
  if 0x200 ≤ o && o < 0x214 then 0x00FF3F3F
  else if 0x220 ≤ o && o < 0x234 then 0x0000033F
  else if 0x410 ≤ o && o < 0x440 then 0xFFFFFFFF
  else if 0x520 ≤ o && o < 0x560 then 0xFFFFFFFF
  else match o with
  | 0x000 => 0x00FFFFFF
  | 0x004 => 0xFFFFFFFF
  | 0x008 => 0xFFFFFFFF
  | 0x00C => 0xFFFFFFFF
  | 0x010 => 0x0000FFFF
  | 0x014 => 0x000083FF
  | 0x018 => 0xFFFFFFFF
  | 0x01C => 0xFFFFFFFF
  | 0x020 => 0x001FFFFF
  | 0x024 => 0x007F7FFF
  | 0x028 => 0x00000001
  | 0x02C => 0xFFFFFFFF
  | 0x030 => 0x0000000F
  | 0x034 => 0x00FFFFFF
  | 0x100 => 0x0000000F
  | 0x104 => 0x0000FFFF
  | 0x108 => 0x00FF01FF
  | 0x10C => 0xFFFF003F
  | 0x110 => 0xFFFFFFFF
  | 0x114 => 0xFFFFFFFF
  | 0x118 => 0xFFFFFFFF
  | 0x11C => 0x007F07FF
  | 0x120 => 0xFFFFFFFF
  | 0x124 => 0x0001FFFF
  | 0x240 => 0x00003F3F
  | 0x300 => 0x0000FFFF
  | 0x304 => 0x03FF3FFF
  | 0x308 => 0x0000FFFF
  | 0x310 => 0xFFFFFFFF
  | 0x314 => 0xFFFFFFFF
  | 0x400 => 0x0003FFFF
  | 0x404 => 0x00000001
  | 0x408 => 0x0000000F
  | 0x40C => 0xFFFFFFFF
  | 0x440 => 0xFFFFFFFF
  | 0x444 => 0x03FFFFFF
  | 0x448 => 0xFFFFFFFF
  | 0x44C => 0xFFFFFFFF
  | 0x450 => 0xFFFFFFFF
  | 0x454 => 0xFFFFFFFF
  | 0x458 => 0xFFFFFFFF
  | 0x45C => 0xFFFFFFFF
  | 0x500 => 0x000007FF
  | 0x504 => 0xFFFFFFFF
  | 0x508 => 0x0000FFFF
  | 0x50C => 0xFFFFFFFF
  | 0x510 => 0x0000FFFF
  | 0x514 => 0x80000001
  | _ => 0

/-! ## Orangery, Cuff and transport blocks -/

/-- A word of the Orangery block of stack `k` (Table 9.12). -/
def orgWord (s : State) (k o : Nat) : Word :=
  let t := s.stack k
  match o with
  | 0x00 => orgStatus s k
  | 0x04 => orgBank s k
  | 0x08 => t.rply
  | 0x0C => t.stale
  | 0x10 => t.refPost
  | 0x14 => t.refForce
  | 0x18 => t.hotWait
  | _ => 0

/-- `CUFF_CTRL` (Table 12.14). -/
def cuffCtrl (c : Cuff) : Word :=
  BitVec.ofNat 32 (c.mode + 8 * b2n c.enable + 32 * b2n c.pfcEn + 64 * b2n c.anEn + 256 * c.prio + 2 ^ 11 * c.media)

/-- The latched pairs of a Cuff block. -/
def cuffWide (c : Cuff) (o : Nat) : Option Dword :=
  match o with
  | 0x08 => some c.fec
  | 0x18 => some c.tx
  | 0x20 => some c.rx
  | _ => none

/-- The single words of a Cuff block (Table 12.13). -/
def cuffWord (c : Cuff) (o : Nat) : Word :=
  match o with
  | 0x00 => cuffCtrl c
  | 0x04 => cuffStatus c
  | 0x10 => c.fecUe
  | 0x14 => c.retrains
  | 0x28 => c.rxDrop
  | 0x2C => c.ce
  | 0x30 => c.pfcTx
  | 0x34 => c.pfcRx
  | _ => 0

/-- `XOB_CTRL` (Table 12.17). -/
def xobCtrl (f : Fabric) : Word :=
  BitVec.ofNat 32 (f.udpPort.toNat + 2 ^ 16 * f.maxPay.toNat + 2 ^ 18 * f.dscpData.toNat + 2 ^ 24 * f.dscpMgmt.toNat + 2 ^ 31 * b2n f.lock)

/-- The latched pairs of the transport block. -/
def xobWide (s : State) (o : Nat) : Option Dword :=
  if 0x040 ≤ o && o % 8 = 0 then
    let p := Tbl.get XPace.init s.fab.pace ((o - 0x40) / 8)
    some (BitVec.ofNat 64 (p.xwait + 2 ^ 16 * p.late + 2 ^ 32 * p.windows.toNat))
  else match o with
  | 0x008 => some s.fab.tx
  | 0x010 => some s.fab.rx
  | _ => none

/-- The single words of the transport block (Table 12.16). -/
def xobWord (s : State) (o : Nat) : Word :=
  match o with
  | 0x000 => xobCtrl s.fab
  | 0x004 => s.fab.lastF
  | 0x018 => s.fab.retx
  | 0x01C => s.fab.rto
  | 0x020 => s.fab.reord
  | 0x024 => s.fab.icrc
  | 0x028 => s.fab.nak
  | 0x02C => s.fab.disc
  | 0x030 => s.fab.instCount
  | 0x034 => s.fab.lost
  | _ => 0

/-! ## Power, training, health, thermal, error-log and router blocks -/

/-- A word of the power block (Table 14.11). -/
def powerWord (s : State) (o : Nat) : Word :=
  let l := s.pwr.part
  if 0x030 ≤ o && o < 0x050 then permitZ s ((o - 0x30) / 4)
  else if 0x050 ≤ o && o < 0x064 then (s.clk ((o - 0x50) / 4)).stretched
  else if 0x080 ≤ o && o < 0x180 then nodeCap s ((o - 0x80) / 4)
  else if 0x200 ≤ o && o < 0x2F0 then
    let r := (o - 0x200) / 48
    let c := (o - 0x200) % 48
    BitVec.ofNat 32 (leNat ((List.range 4).map (fun i =>
      if c + i ≤ 40 then BitVec.ofNat 8 (Tbl.get 0 s.pwr.vf (r * 64 + c + i)) else 0#8)))
  else match o with
  | 0x000 => pwrStatus s
  | 0x004 => BitVec.ofNat 32 (b2n s.pwr.vriEn + 2 * b2n s.pwr.alertEn + 2 ^ 31 * b2n s.pwr.lock)
  | 0x008 => BitVec.ofNat 32 (l.last % 65536)
  | 0x00C => BitVec.ofNat 32 (wattField s.draws l.mean)
  | 0x010 => pwrCut s
  | 0x014 => BitVec.ofNat 32 (l.cap + 2 ^ 16 * wattField (s.draws + 1) l.setpoint)
  | 0x018 => s.pwr.overs
  | 0x01C => s.pwr.alerts
  | 0x020 => s.pwr.waits
  | 0x024 => s.pwr.slows
  | 0x028 => s.pwr.frames
  | _ => 0

/-- The field bits of the power block. -/
def powerMask (o : Nat) : Word :=
  if 0x030 ≤ o && o < 0x050 then 0x0000FF1F
  else if 0x050 ≤ o && o < 0x064 then 0xFFFFFFFF
  else if 0x080 ≤ o && o < 0x180 then 0xFF7FFFFF
  else if 0x200 ≤ o && o < 0x2F0 then (if (o - 0x200) % 48 < 40 then 0xFFFFFFFF else if (o - 0x200) % 48 = 40 then 0x000000FF else 0)
  else match o with
  | 0x000 => 0x0000070F
  | 0x004 => 0x80000003
  | 0x008 => 0x0000FFFF
  | 0x00C => 0x0000FFFF
  | 0x010 => 0x3F7F7F7F
  | 0x02C => 0
  | _ => if o < 0x02C then 0xFFFFFFFF else 0

/-- `TRN_STATE` of node `n` (Table 11.10). -/
def trnState (s : State) (n : Nat) : Word :=
  let t := s.training n
  let bound := if !t.bound then 0 else if (s.jobAt n).any (fun j => j.phase = .faulted || j.phase = .faulting) then 2 else 1
  BitVec.ofNat 32 (bound + 4 * b2n t.fin + 8 * b2n t.verdict + 16 * b2n t.reducing + 32 * b2n (t.cmpFault.getLsbD 14)
    + 64 * b2n t.hasWindow + 2 ^ 16 * t.rank)

/-- The latched pairs of a training block. -/
def trnWide (s : State) (n o : Nat) : Option Dword :=
  let t := s.training n
  match o with
  | 0x08 => some t.step
  | 0x10 => some t.skips
  | 0x18 => some t.landChunk
  | 0x20 => some t.landHold
  | 0x30 => some t.shard
  | _ => none

/-- The single words of a training block (Table 11.9). -/
def trnWord (s : State) (n o : Nat) : Word :=
  let t := s.training n
  match o with
  | 0x00 => trnState s n
  | 0x04 => BitVec.ofNat 32 ((s.fab.landed ++ s.fab.deliver).filter (fun c => c.node = n)).length
  | 0x28 => t.skipStarts
  | 0x2C => t.rounds
  | 0x38 => t.cmpFault
  | 0x3C => t.cmpSrc
  | _ => 0

/-- Blocks of each set of Table 17.4: their count and size in bytes. -/
def snapSets : List (Nat × Nat) :=
  [(800, 2304), (891, 64), (9, 0), (1, 752), (1, 25664), (64, 64), (6, 32), (1, 96), (1, 7360), (1, 16)]

/-- The bytes of the blocks of set `k`; set 2 holds eight Cuff blocks and the transport block. -/
def setBytes (k : Nat) : Nat := if k = 2 then 8 * 64 + 576 else (snapSets.getD k (0, 0)).1 * (snapSets.getD k (0, 0)).2

/-- A length rounded up to a multiple of 64. -/
def pad64 (n : Nat) : Nat := (n + 63) / 64 * 64

/-- `SNAP_LEN`: the image length of a choice of sets (R502). -/
def snapLen (sets : BitVec 10) : Nat := 64 + (((List.range 10).filter (fun k => sets.getLsbD k)).map (fun k => pad64 (16 + setBytes k))).sum

/-- The latched pairs of the health block. -/
def healthWide (s : State) (o : Nat) : Option Dword :=
  if 0x100 ≤ o && o < 0x1C80 && o % 8 = 0 then some (ageSite s ((o - 0x100) / 8))
  else if o = 0x030 then some s.hlt.snapT else none

/-- The single words of the health block (Table 17.5). -/
def healthWord (s : State) (o : Nat) : Word :=
  let h := s.hlt
  if 0x1C80 ≤ o && o < 0x1CBC then seamHlt s ((o - 0x1C80) / 4)
  else match o with
  | 0x000 => hltStatus s
  | 0x004 => h.warnMonths.setWidth 32
  | 0x008 => h.life
  | 0x00C => h.limit
  | 0x010 => h.duty
  | 0x014 => BitVec.ofNat 32 (s.events.lastSeq.toNat + 2 ^ 16 * min 65535 s.events.discarded.toNat)
  | 0x018 => h.sets.setWidth 32
  | 0x01C => BitVec.ofNat 32 (b2n h.snap.isSome + 2 * b2n h.snapDone + 4 * b2n h.snapDropped + 8 * b2n h.snapErr)
  | 0x020 => loWord h.snapAddr
  | 0x024 => hiWord h.snapAddr
  | 0x028 => BitVec.ofNat 32 (snapLen h.sets)
  | 0x02C => h.snapSeq
  | _ => 0

/-- The field bits of the health block. -/
def healthMask (o : Nat) : Word :=
  if 0x100 ≤ o && o < 0x1C80 then 0xFFFFFFFF
  else if 0x1C80 ≤ o && o < 0x1CBC then 0xFFFF0FFF
  else match o with
  | 0x000 => 0x0000007F
  | 0x004 => 0x0000FFFF
  | 0x008 => 0xFFFFFFFF
  | 0x00C => 0x03FF000F
  | 0x010 => 0xFFFFFFFF
  | 0x014 => 0xFFFFFFFF
  | 0x018 => 0x800003FF
  | 0x01C => 0x0000000F
  | _ => if 0x020 ≤ o && o < 0x038 then 0xFFFFFFFF else 0

/-- A word of the thermal block (Tables 15.8 to 15.12). -/
def thermWord (s : State) (o : Nat) : Word :=
  let ratio := fun p => perMille (s.draws + p) (Tbl.get Plane.init s.thm.planes p).ratio
  let ext := fun k => readCode (if (s.point (1344 + k)).failed then none else (s.sensor (1344 + k) 0).reading)
  if 0x1000 ≤ o then
    let p := (o - 0x1000) / 16
    match o % 16 with
    | 0 => tsTemp s p
    | 4 => tsMeas s p
    | 8 => tsInfo s p
    | _ => 0
  else if 0x040 ≤ o && o < 0x068 then
    (if o % 8 = 0 then thmRgn s ((o - 0x40) / 8) else thmRgt s ((o - 0x40) / 8))
  else match o with
  | 0x000 => thmStatus s
  | 0x004 => s.thm.tripCause
  | 0x008 => s.thm.tripCount
  | 0x00C => codePair (ext 0) (ext 1)
  | 0x010 => codePair (ext 2) (ext 3)
  | 0x014 => BitVec.ofNat 32 (wattField s.draws s.thm.flow)
  | 0x018 => codePair (ratio 0) (ratio 1)
  | 0x01C => codePair (ratio 2) 0
  | 0x020 => s.thm.discards
  | 0x024 => s.thm.holds
  | 0x028 => s.thm.throttles
  | _ => 0

/-- The field bits of the thermal block. -/
def thermMask (o : Nat) : Word :=
  if 0x1000 ≤ o then
    (match o % 16 with
    | 0 => 0xFFFFFFFF
    | 4 => 0xFFFFFFFF
    | 8 => 0x007FFFFF
    | _ => 0)
  else if 0x040 ≤ o && o < 0x068 then (if o % 8 = 0 then 0x00073F7F else 0xFFFFFFFF)
  else match o with
  | 0x000 => 0x00001FFF
  | 0x004 => 0xFFFF9FFF
  | 0x014 => 0x0000FFFF
  | 0x01C => 0x0000FFFF
  | _ => if o < 0x02C then 0xFFFFFFFF else 0

/-- A word of the error-log block (Tables 7.8, 7.9, R220). -/
def logWord (s : State) (o : Nat) : Word :=
  let m := s.mem
  if 0x8000 ≤ o then BitVec.ofNat 32 (leField (Tbl.get [] m.log ((o - 0x8000) / 32)) (o % 32) (o % 32 + 3))
  else match o with
  | 0x0000 => BitVec.ofNat 32 ((m.logTail + m.logUsed) % 1024)
  | 0x0004 => BitVec.ofNat 32 m.logTail
  | 0x0008 => BitVec.ofNat 32 (m.logLostCe.toNat + 2 ^ 16 * m.logLost.toNat)
  | 0x000C => BitVec.ofNat 32 (b2n m.logRate)
  | _ => 0

/-- The field bits of the error-log block. -/
def logMask (o : Nat) : Word :=
  if 0x8000 ≤ o then
    (match o % 32 with
    | 20 => 0x00FFFFFF
    | 28 => 0x3FFFFFFF
    | _ => 0xFFFFFFFF)
  else match o with
  | 0x0000 => 0x000003FF
  | 0x0004 => 0x000003FF
  | 0x0008 => 0xFFFFFFFF
  | 0x000C => 0x00000001
  | _ => 0

/-- The latched pairs of a router block: the broadcasts and commands counted here, with a free number of packets and waiting cycles of
the fabric, whose transport is left out (log 86). -/
def routerWide (draws : Nat) (r : Router) (o : Nat) : Option Dword :=
  match o with
  | 0x10 => some (bump r.pkt (Config.freeNat (draws + 64)))
  | 0x18 => some (bump r.stall (Config.freeNat (draws + 65)))
  | _ => none

/-- The single words of a router block (Table 8.8). -/
def routerWord (r : Router) (o : Nat) : Word :=
  match o with
  | 0x00 => r.state
  | 0x04 => r.replay
  | 0x08 => r.crc
  | 0x0C => r.drop
  | 0x20 => r.ce
  | 0x24 => r.posts
  | 0x28 => r.qfull
  | 0x2C => r.absorb
  | 0x30 => r.bcast.setWidth 32
  | _ => 0

/-! ## The window (Table 19.1) -/

/-- The blocks of the window. -/
inductive WinBlock where
  /-- global, Kiosk, clock, reset, boot and fuse blocks -/
  | low
  /-- Orangery block of a stack -/
  | org (k : Nat)
  /-- Cuff block -/
  | cuff (c : Nat)
  /-- transport block -/
  | xob
  /-- power block -/
  | power
  /-- `CLUSTER_DESC` -/
  | cluster (c : Nat)
  /-- `COMMONS_DESC` -/
  | commons (n : Nat)
  /-- `PTN_NODE` -/
  | ptn (n : Nat)
  /-- `SITE_DESC` -/
  | site (i : Nat)
  /-- training block -/
  | trn (n : Nat)
  /-- health block -/
  | health
  /-- `VREG_SITE` -/
  | vreg (i : Nat)
  /-- thermal block -/
  | therm
  /-- error-log block -/
  | log
  /-- router block -/
  | router (b : Nat)
  /-- not assigned -/
  | empty
  deriving DecidableEq, Repr

/-- The block of a window offset, and the offset within it (Table 19.1). -/
def blockOf (o : Nat) : WinBlock × Nat :=
  if o < 0x460 then (.low, o)
  else if o < 0x500 then (.empty, 0)
  else if o < 0x600 then (.low, o)
  else if o < 0x6C0 then (.org ((o - 0x600) / 32), (o - 0x600) % 32)
  else if o < 0x700 then (.empty, 0)
  else if o < 0x900 then (.cuff ((o - 0x700) / 64), (o - 0x700) % 64)
  else if o < 0xB40 then (.xob, o - 0x900)
  else if o < 0xC00 then (.empty, 0)
  else if o < 0xEF0 then (.power, o - 0xC00)
  else if o < 0x1000 then (.empty, 0)
  else if o < 0x10A0 then (.cluster ((o - 0x1000) / 4), 0)
  else if o < 0x1100 then (.empty, 0)
  else if o < 0x1240 then (.commons ((o - 0x1100) / 4), 0)
  else if o < 0x1400 then (.empty, 0)
  else if o < 0x1600 then (.ptn ((o - 0x1400) / 8), o % 8)
  else if o < 0x2000 then (.empty, 0)
  else if o < 0x2DC0 then (.site ((o - 0x2000) / 4), 0)
  else if o < 0x3000 then (.empty, 0)
  else if o < 0x4000 then (.trn ((o - 0x3000) / 64), o % 64)
  else if o < 0x5CC0 then (.health, o - 0x4000)
  else if o < 0x6000 then (.empty, 0)
  else if o < 0x7B80 then (.vreg ((o - 0x6000) / 8), o % 8)
  else if o < 0x8000 then (.empty, 0)
  else if o < 0xE440 then (.therm, o - 0x8000)
  else if o < 0x10000 then (.empty, 0)
  else if o < 0x20000 then (.log, o - 0x10000)
  else if o < 0x2DEC0 then (.router ((o - 0x20000) / 64), o % 64)
  else (.empty, 0)

/-- The latched pairs of the window. -/
def winWide (s : State) (o : Nat) : Option Dword :=
  let x := blockOf o
  match x.1 with
  | .low => lowWide s x.2
  | .cuff c => cuffWide (s.cuff c) x.2
  | .xob => xobWide s x.2
  | .ptn n => if x.2 = 0 then some (ptnNode s n) else none
  | .trn n => trnWide s n x.2
  | .health => healthWide s x.2
  | .vreg i => if x.2 = 0 then some (vregSite s i) else none
  | .router b => routerWide s.draws (Tbl.get Router.init s.tr.routers b) x.2
  | _ => none

/-- The single words of the window; what Table 19.1 does not assign reads zero (R523). -/
def winWord (s : State) (o : Nat) : Word :=
  let x := blockOf o
  match x.1 with
  | .low => lowWord s x.2
  | .org k => orgWord s k x.2
  | .cuff c => cuffWord (s.cuff c) x.2
  | .xob => xobWord s x.2
  | .power => powerWord s x.2
  | .cluster c => clusterDesc s c
  | .commons n => commonsDesc s n
  | .site i => siteDesc s i
  | .trn n => trnWord s n x.2
  | .health => healthWord s x.2
  | .therm => thermWord s x.2
  | .log => logWord s x.2
  | .router b => routerWord (Tbl.get Router.init s.tr.routers b) x.2
  | _ => 0

/-- The field bits of a window word. -/
def winMask (o : Nat) : Word :=
  let x := blockOf o
  match x.1 with
  | .low => lowMask x.2
  | .org _ => (match x.2 with
    | 0x00 => 0x07FF7FF7
    | 0x04 => 0x0FFFFFFF
    | 0x1C => 0
    | _ => 0xFFFFFFFF)
  | .cuff _ => (match x.2 with
    | 0x00 => 0x00001F7F
    | 0x04 => 0x00003FFF
    | 0x38 => 0
    | 0x3C => 0
    | _ => 0xFFFFFFFF)
  | .xob => (match x.2 with
    | 0x000 => 0xBFFFFFFF
    | 0x004 => 0xFFFF03FF
    | 0x038 => 0
    | 0x03C => 0
    | o => if 0x40 ≤ o && o % 8 = 0 then 0x03FFFFFF else 0xFFFFFFFF)
  | .power => powerMask x.2
  | .cluster _ => 0x00001FFF
  | .commons _ => 0x0003FFFF
  | .ptn _ => if x.2 = 0 then 0xFFFFFFFF else 0x83FF3FFF
  | .site _ => 0x00FFF1F7
  | .trn _ => (match x.2 with
    | 0x00 => 0x03FF007F
    | 0x04 => 0x00003FFF
    | 0x38 => 0x00007FFF
    | 0x3C => 0x03FF03FF
    | _ => 0xFFFFFFFF)
  | .health => healthMask x.2
  | .vreg _ => if x.2 = 0 then 0xFF0F7F7F else 0x00FFFFFF
  | .therm => thermMask x.2
  | .log => logMask x.2
  | .router _ => (match x.2 with
    | 0x00 => 0x000FFFFF
    | 0x30 => 0x0000FFFF
    | 0x34 => 0
    | 0x38 => 0
    | 0x3C => 0
    | _ => 0xFFFFFFFF)
  | .empty => 0

/-! ## Reading with latches (R526) -/

/-- Who reads: host queues 0 to 65,535, the Kiosk, and the host through BAR0. -/
def kioskReader : Nat := 65536
/-- The host at BAR0, one requester (R526). -/
def barReader : Nat := 65537

/-- Read a word: a lower half latches its upper half for this requester; an upper half gives what this requester latched. `key`
names the register space. -/
def readLatched (s : State) (who key o : Nat) (wide : Nat → Option Dword) (word : Nat → Word) : Word × State :=
  let k := fun (o : Nat) => who * 2 ^ 52 + key * 2 ^ 32 + o
  match wide o with
  | some v => (loWord v, { s with mgmt := { s.mgmt with latches := Tbl.set 0 s.mgmt.latches (k (o + 4)) (hiWord v) } }.drawn 4)
  | none =>
    match (if 4 ≤ o then wide (o - 4) else none) with
    | some _ => (Tbl.get 0 s.mgmt.latches (k o), s)
    | none => (word o, s.drawn 4)

/-- Read a word of a sensing point at window offset `o`: `TS_TEMP` latches `TS_MEAS` and `TS_INFO` of the point for this requester, and
notes in the place of the reserved word that it has; until then both read as they stand (R455, R526, log 114). -/
def readPoint (s : State) (who o : Nat) : Word × State :=
  let k := fun (o : Nat) => who * 2 ^ 52 + 0xFFF * 2 ^ 32 + o
  let base := o / 16 * 16
  if o = base then
    let latch (n : Nat) (v : Word) (t : Tbl Word) : Tbl Word := Tbl.set 0 t (k (base + n)) v
    (winWord s o, { s with mgmt := { s.mgmt with
      latches := latch 12 1 (latch 8 (winWord s (base + 8)) (latch 4 (winWord s (base + 4)) s.mgmt.latches)) } }.drawn 4)
  else if o < base + 12 && Tbl.get 0 s.mgmt.latches (k (base + 12)) = 1 then (Tbl.get 0 s.mgmt.latches (k o), s)
  else (winWord s o, s.drawn 4)

/-- Read a window word. -/
def readWindow (s : State) (who o : Nat) : Word × State :=
  if (blockOf o).1 = .therm && 0x1000 ≤ (blockOf o).2 then readPoint s who o
  else readLatched s who 0xFFF o (winWide s) (winWord s)

/-- Read a word of a core control area. -/
def readCore (s : State) (who lc o : Nat) : Word × State := readLatched s who lc o (coreWide s lc) (coreWord s lc)

/-- Read a BAR0 register. -/
def readBar (s : State) (o : Nat) : Word × State := readLatched s barReader 0xFFE o (barWide s) (barWord s)

end Sys2Proof.Machine
end

