-- ==== Sys2Proof/Machine/RegWrite.lean ====
section
/-! DEFINITION. What a write to a register does, field by field: the core control areas, the management window and BAR0
("Management register reference" R523 to R528, R535; "Health" R500 to R502; "Host interface" R372). -/

namespace Sys2Proof.Machine

/-- The field bits of a write that are left unchanged and differ from what the register reads: `IGN` (R525). -/
def ignored (present mask taken v : Word) : Bool := (v ^^^ present) &&& mask &&& ~~~taken ≠ 0

/-! ## Core control areas (R99, R174, R403) -/

/-- Write a word of a core control area. A gated core ignores writes but for its site's error block (log 48). -/
def writeCore (s : State) (expert : Bool) (lc o : Nat) (v : Word) : State × Bool :=
  let ro := ignored (liveWord (coreWide s lc) (coreWord s lc) o) (coreMask o)
  if o = 0x800 then (s.modErr (s.siteOf lc) (fun e => { e with sum := e.sum &&& ~~~(v.setWidth 9) }), ro 0x1FF v)
  else if o < 0x800 && s.coreGated lc then (s, false)
  else if o = 0x018 then (s.modCore lc (fun c => { c with num := { c.num with flags := c.num.flags &&& ~~~(v.setWidth 7) } }), ro 0x7F v)
  else if o = 0x100 && expert then
    (s.modCore lc (fun c => { c with arr := { c.arr with forceRamp := v.getLsbD 1 } }), ro 2 v)
  else (s, ro 0 v)

/-! ## Owner fuses (R444, R534, R535) -/

/-- The staged words as one value. -/
def Mgmt.staged (m : Mgmt) : BitVec 256 :=
  BitVec.ofNat 256 (((List.range 8).map (fun n => (Tbl.get 0 m.stage n).toNat * 2 ^ (32 * n))).sum)

/-- Programming that waits starts once the window holds, on the lowest-numbered blank copy. -/
def fuseBegin (s : State) : State :=
  match s.mgmt.prog with
  | .waits _ =>
    if s.fuseWindow then { s with mgmt := { s.mgmt with
      prog := .programs ((s.owner.findIdx? (· = .blank)).getD 0) s.mgmt.staged } } else s
  | _ => s

/-- A write of 1 to `GO` (R535). -/
def fuseGo (s : State) : State :=
  if s.mgmt.fuseLock then { s with mgmt := { s.mgmt with fuseErr := 4 } }
  else if s.mgmt.prog ≠ .idle then s
  else if !s.owner.contains .blank then { s with mgmt := { s.mgmt with fuseErr := 2 } }
  else fuseBegin { s with mgmt := { s.mgmt with prog := .waits s.us } }

/-! ## Snapshots (R500 to R502) -/

/-- The bytes of a block of `n` bytes, every half live (R501). -/
def wordBytes (n : Nat) (word : Nat → Word) : List Byte := (List.range (n / 4)).flatMap (fun i => leBytes 4 (word (4 * i)).toNat)

/-- The window words from an offset on, every half live. -/
def winBytes (s : State) (o n : Nat) : List Byte := wordBytes n (fun i => liveWord (winWide s) (winWord s) (o + i))

/-- A core's block of set 0: its control area, with its state in byte 0x0FC; an absent core contributes zeros (R501). -/
def coreBytes (s : State) (lc : Nat) : List Byte :=
  if !s.unitPresent 8 lc then putBytes (leBytes 2304 0) 0xFC [2#8]
  else putBytes (wordBytes 2304 (liveWord (coreWide s lc) (coreWord s lc))) 0xFC [if s.coreGated lc then 0#8 else 1#8]

/-- The blocks of a set (Table 17.4). -/
def setBlocks (s : State) (k : Nat) : List Byte :=
  match k with
  | 0 => (List.range 800).flatMap (coreBytes s)
  | 1 => winBytes s 0x20000 (891 * 64)
  | 2 => winBytes s 0x700 (8 * 64) ++ winBytes s 0x900 576
  | 3 => winBytes s 0xC00 752
  | 4 => winBytes s 0x8000 25664
  | 5 => winBytes s 0x3000 (64 * 64)
  | 6 => winBytes s 0x600 (6 * 32)
  | 7 => winBytes s 0x400 96
  | 8 => winBytes s 0x4000 7360
  | _ => winBytes s 0x10000 16

/-- A section: its header and blocks, padded. Set 2 has blocks of two sizes; its header's count and size are free (log 45). -/
def snapSection (s : State) (k : Nat) : List Byte :=
  let cs := if k = 2 then (Config.freeNat s.draws, Config.freeNat (s.draws + 1)) else snapSets.getD k (0, 0)
  let b := leBytes 4 k ++ leBytes 4 cs.1 ++ leBytes 4 cs.2 ++ leBytes 4 0 ++ setBlocks s k
  b ++ List.replicate (pad64 b.length - b.length) 0#8

/-- The image of the chosen sets at this instant (R502). -/
def snapImage (s : State) : List Byte :=
  let body := ((List.range 10).filter (fun k => s.hlt.sets.getLsbD k)).flatMap (snapSection s)
  let h := leBytes 4 0x50414E53 ++ leBytes 4 (s.hlt.snapSeq.toNat + 1) ++ leBytes 8 s.us ++ leBytes 4 s.hlt.sets.toNat
    ++ leBytes 4 (64 + body.length) ++ leBytes 4 (crc32c body)
  h ++ List.replicate (64 - h.length) 0#8 ++ body

/-- A write of `GO` = 1: a snapshot is taken, or `DROPPED` is set while one is being written (R500). -/
def snapGo (s : State) : State :=
  if s.hlt.snap.isSome then { s with hlt := { s.hlt with snapDropped := true } }
  else ({ s with hlt := { s.hlt with snapDone := false, snap := some (s.hlt.snapAddr.toNat, s.us, snapImage s) } }).drawn 8

/-! ## The window (R523 to R528) -/

/-- Set every lock of Table 19.2. -/
def lockAll (s : State) : State :=
  { s with
    mgmt := { s.mgmt with lockAll := true, fuseLock := true }
    hif := { s.hif with lock := true }
    fab := { s.fab with lock := true }
    pwr := { s.pwr with lock := true } }

/-- A write of `CUFF_CTRL`: `MODE` and `MEDIA` only while `ENABLE` = 0, a reserved `MODE` never (R368). -/
def writeCuffCtrl (s : State) (c : Nat) (v : Word) : State × Word :=
  let x := s.cuff c
  let free := !x.enable
  let modeOk : Bool := free && fld v 2 0 ≤ 4
  let s := s.modCuff c (fun x => { x with
    mode := if modeOk then fld v 2 0 else x.mode
    media := if free then fld v 12 11 else x.media
    pfcEn := v.getLsbD 5, anEn := v.getLsbD 6, prio := fld v 10 8 })
  let s := enableCuff s c (v.getLsbD 3)
  let s := if v.getLsbD 4 then askRetrain s c else s
  (s, 0x778#32 ||| (if modeOk then 0x7#32 else 0) ||| (if free then 0x1800#32 else 0))

/-- A write of `XOB_CTRL`: its fields, then its lock (R527). -/
def writeXobCtrl (s : State) (v : Word) : State × Word :=
  let open' := !s.fab.lock
  let s := if open' then s.modFab (fun f => { f with
      udpPort := v.setWidth 16, maxPay := BitVec.ofNat 2 (fld v 17 16), dscpData := BitVec.ofNat 6 (fld v 23 18)
      dscpMgmt := BitVec.ofNat 6 (fld v 29 24) }) else s
  (s.modFab (fun f => { f with lock := f.lock || v.getLsbD 31 }), if open' then 0xBFFFFFFF#32 else 0x80000000#32)

/-- A write of `PWR_CTRL`: its fields, then its lock. -/
def writePwrCtrl (s : State) (v : Word) : State × Word :=
  let open' := !s.pwr.lock
  let p := if open' then { s.pwr with vriEn := v.getLsbD 0, alertEn := v.getLsbD 1 } else s.pwr
  ({ s with pwr := { p with lock := p.lock || v.getLsbD 31 } }, if open' then 0x80000003#32 else 0x80000000#32)

/-- Take records up to a new `ERRLOG_TAIL` (R220); a tail beyond the head counts forward round the ring (log 46). -/
def writeLogTail (s : State) (t : Nat) : State :=
  let m := s.mem
  let d := (t + 1024 - m.logTail) % 1024
  { s with mem := { m with logTail := t, logUsed := if d ≤ m.logUsed then m.logUsed - d else m.logUsed + 1024 - d } }

/-- The effect of a write on the fields that take it, with the mask of those fields. -/
def winTake (s : State) (expert : Bool) (o : Nat) (v : Word) : State × Word :=
  match (blockOf o).1 with
  | .cuff c => if (blockOf o).2 = 0 then writeCuffCtrl s c v else (s, 0)
  | .xob => if (blockOf o).2 = 0 then writeXobCtrl s v else (s, 0)
  | .low =>
    if 0x200 ≤ o && o < 0x214 then (s.modClk ((o - 0x200) / 4) (fun c => { c with target := v.setWidth 6 }), 0x3F)
    else if 0x520 ≤ o && o < 0x540 then
      if expert && !s.mgmt.fuseLock then
        ({ s with mgmt := { s.mgmt with stage := Tbl.set 0 s.mgmt.stage ((o - 0x520) / 4) v } }, 0xFFFFFFFF)
      else (s, 0)
    else (match o with
    | 0x028 => (if v.getLsbD 0 then lockAll s else s, 1)
    | 0x02C => ({ s with mgmt := { s.mgmt with scratch := v } }, 0xFFFFFFFF)
    | 0x404 => ({ s with boot := { s.boot with coldNext := v.getLsbD 0 } }, 1)
    | 0x514 =>
      let s := if v.getLsbD 0 && expert then fuseGo s else s
      ({ s with mgmt := { s.mgmt with fuseLock := s.mgmt.fuseLock || v.getLsbD 31 } },
        if expert then 0x80000001 else 0x80000000)
    | _ => (s, 0))
  | .power => if (blockOf o).2 = 4 then writePwrCtrl s v else (s, 0)
  | .health => (match (blockOf o).2 with
    | 0x004 => ({ s with hlt := { s.hlt with warnMonths := v.setWidth 16 } }, 0xFFFF)
    | 0x018 =>
      let s := { s with hlt := { s.hlt with sets := v.setWidth 10 } }
      (if v.getLsbD 31 then snapGo s else s, 0x800003FF)
    | 0x01C => ({ s with hlt := { s.hlt with
        snapDone := s.hlt.snapDone && !v.getLsbD 1
        snapDropped := s.hlt.snapDropped && !v.getLsbD 2
        snapErr := s.hlt.snapErr && !v.getLsbD 3 } }, 0xE)
    | 0x020 => ({ s with hlt := { s.hlt with snapAddr := (hiWord s.hlt.snapAddr) ++ v } }, 0xFFFFFFFF)
    | 0x024 => ({ s with hlt := { s.hlt with snapAddr := v ++ loWord s.hlt.snapAddr } }, 0xFFFFFFFF)
    | _ => (s, 0))
  | .therm => (match (blockOf o).2 with
    | 0x000 => ({ s with thm := { s.thm with restarted := s.thm.restarted && !v.getLsbD 12 } }, 0x1000)
    | 0x004 => ({ s with thm := { s.thm with tripCause := s.thm.tripCause &&& ~~~(v &&& 0x8000#32) } }, 0x8000)
    | _ => (s, 0))
  | .log => (match (blockOf o).2 with
    | 0x0004 => (writeLogTail s (fld v 9 0), 0x3FF)
    | 0x000C => ({ s with mem := { s.mem with logRate := v.getLsbD 0 } }, 1)
    | _ => (s, 0))
  | _ => (s, 0)

/-- Write a window word: the part, and `IGN`. -/
def writeWindow (s : State) (expert : Bool) (o : Nat) (v : Word) : State × Bool :=
  let t := winTake s expert o v
  (t.1, ignored (liveWord (winWide s) (winWord s) o) (winMask o) t.2 v)

/-! ## BAR0 (R372, R373) -/

/-- Write a BAR0 register. -/
def writeBar (s : State) (o : Nat) (v : Word) : State :=
  match o with
  | 0x008 =>
    let s := if s.hif.lock then s else { s with hif := { s.hif with expertEn := v.getLsbD 0 } }
    { s with hif := { s.hif with lock := s.hif.lock || v.getLsbD 31 } }
  | 0x00C => { s with hif := { s.hif with noteQ := v.setWidth 16 } }
  | 0x010 => if s.admFree then { s with hif := { s.hif with admSq := hiWord s.hif.admSq ++ v } } else s
  | 0x014 => if s.admFree then { s with hif := { s.hif with admSq := v ++ loWord s.hif.admSq } } else s
  | 0x018 => if s.admFree then { s with hif := { s.hif with admCq := hiWord s.hif.admCq ++ v } } else s
  | 0x01C => if s.admFree then { s with hif := { s.hif with admCq := v ++ loWord s.hif.admCq } } else s
  | 0x020 => writeAdmCtrl s v
  | _ => s

/-! ## The rows of single registers -/

/-- `REGISTER_WRITE`: the host writes BAR0, or the Kiosk a word of the window or of a core control area, which it may do at the
expert level; `FORCE_RAMP` is taken only with `EXPERT_EN` set (R99, R372, R379, R525). -/
def execRegisterWrite (r : RegName) (v : Word) (s : State) : Out :=
  match r with
  | .bar o => if s.hif.linkUp && s.hif.configured then .next (writeBar s (o.toNat * 4) v) else .next s
  | .window o => if s.torzanUp then .next (writeWindow s true (o.toNat * 4) v).1 else .next s
  | .core lc o => if s.torzanUp && s.unitPresent 8 lc then .next (writeCore s s.hif.expertEn lc (o.toNat * 4) v).1 else .next s

/-- `HIF_LOCK`: `HIF_CTRL`.`LOCK` is written. -/
def execHifLock (s : State) : Out := .next { s with hif := { s.hif with lock := true } }
/-- `XOB_LOCK`: `XOB_CTRL`.`LOCK` is written. -/
def execXobLock (s : State) : Out := .next (s.modFab (fun f => { f with lock := true }))
/-- `PWR_LOCK`: `PWR_CTRL`.`LOCK` is written. -/
def execPwrLock (s : State) : Out := .next { s with pwr := { s.pwr with lock := true } }
/-- `FUSE_LOCK`: `FUSE_PROG_CTRL`.`LOCK` is written. -/
def execFuseLock (s : State) : Out := .next { s with mgmt := { s.mgmt with fuseLock := true } }
/-- `LOCK_ALL`: `GLB_CTRL`.`LOCK_ALL` is written (R528). -/
def execLockAll (s : State) : Out := .next (lockAll s)

/-- `SNAP_GO`: `SNAP_CTRL` is written with `GO` = 1 and a choice of sets (R500). -/
def execSnapGo (sets : BitVec 10) (s : State) : Out := .next (snapGo { s with hlt := { s.hlt with sets := sets } })

/-- `SNAPSHOT_DONE`: the image is written to host memory, or PCIe fails and it is unspecified (R500). -/
def execSnapshotDone (s : State) : Out :=
  match s.hlt.snap with
  | none => .next s
  | some (a, t, img) =>
    if !s.hif.bme then .next s
    else if s.hostFails a img.length then
      .next (({ s with hlt := { s.hlt with snap := none, snapErr := true } }.hostPut a
        ((List.range img.length).map (Config.freeByte s.draws))).drawn 1)
    else
      .next ({ s with hlt := { s.hlt with
        snap := none, snapDone := true, snapSeq := s.hlt.snapSeq + 1, snapT := BitVec.ofNat 64 t } }.hostPut a img)

/-- `FUSE_GO`: `FUSE_PROG_CTRL` is written with `GO` = 1, by a requester at the expert level or not (R535). -/
def execFuseGo (expert : Bool) (s : State) : Out := if expert then .next (fuseGo s) else .next s

/-- `FUSE_PROGRAMMING_DONE`: programming ends and the copy is read back, `same` as programmed (R535). -/
def execFuseProgrammingDone (same : Bool) (s : State) : Out :=
  match s.mgmt.prog with
  | .programs c d =>
    .next { s with
      owner := s.owner.set c (if same then .valid d else .spoiled)
      mgmt := { s.mgmt with prog := .idle, fuseErr := if same then 0 else 3 } }
  | _ => .next s

/-- `FUSE_TEMP_TIMEOUT`: programming has waited 60 s outside the temperature window (R444, R535). -/
def execFuseTempTimeout (s : State) : Out :=
  match s.mgmt.prog with
  | .waits t => if t + 60000000 ≤ s.us then .next { s with mgmt := { s.mgmt with prog := .idle, fuseErr := 1 } } else .next s
  | _ => .next s

end Sys2Proof.Machine
end

