-- ==== Sys2Proof/Machine/HostCmds.lean ====
section
/-! DEFINITION. The host's commands of identity, queues, settings, notifications, repair, power caps, partitions and the fabric
("Host interface and command packets" R382, R385, R387 to R389; R32, R218, R415, R423, R454, R467). -/

namespace Sys2Proof.Machine

/-! ## Identity (Table 13.10) -/

/-- The identity block. -/
def identity (s : State) : List Byte :=
  leBytes 8 (fused s (fun m => m.serial.toNat)) ++ leBytes 6 (fused s (fun m => m.mac.toNat)) ++ leBytes 2 0x0100
    ++ leBytes 2 s.partIndex ++ leBytes 2 0 ++ leBytes 4 (s.fwVersion 1) ++ leBytes 4 (s.fwVersion 2) ++ leBytes 4 (s.fwVersion 3)
    ++ leBytes 4 0x00010000 ++ List.replicate 220 0

/-- `IDENTIFY`. -/
def execIdentify (q : BitVec 16) (e : Entry) (s : State) : Out :=
  let k : CmdKind := { CmdKind.basic true true [0] (fun _ => false) (fun _ => true) with buf := fun _ => .output 256 }
  hostRun (.identify q e) k q e s (fun c s =>
    if s.hostFails c.daddr 256 then .status s 0x0C else .status (s.hostPut c.daddr (identity s)) 0)

/-! ## Settings (Tables 13.12, 14.10, 15.7) -/

/-- Default, lowest and highest value of a setting; where the tables give no range, what its field can mean (log 50). -/
def settingInfo (s : State) (id : Nat) : Option (Nat × Nat × Nat) :=
  let top := 2 ^ 64 - 1
  match id with
  | 0x0001 => some (16384, 0, top)
  | 0x0002 => some (1311, 0, top)
  | 0x0003 => some (10, 1, 65535)
  | 0x0004 => some (100, 1, 65535)
  | 0x0005 => some (1, 0, 1)
  | 0x0010 => some (1000, 510, 60000)
  | 0x0011 => some (49152, 0, top)
  | 0x0012 => some (10, 0, top)
  | 0x0013 => some (20, 0, top)
  | 0x0014 => some (32, 1, top)
  | 0x0015 => some (1, 0, top)
  | 0x0100 => some (10, 1, 60000)
  | 0x0101 => some (15, 0, 30)
  | 0x0102 => some (35, 25, 60)
  | 0x0103 => some (25, 10, 50)
  | 0x0104 => some (50, 4, 1000)
  | 0x0200 => some (0, 0, 20)
  | 0x0201 => some (1150, 1050, 2000)
  | 0x0202 => some (1300, s.degrWarn, 2000)
  | 0x0203 => some (45, 0, 60)
  | _ => none

/-- `SETTING_SET` (R388). -/
def execSettingSet (q : BitVec 16) (e : Entry) (s : State) : Out :=
  let k : CmdKind := { CmdKind.basic true false [16] (fun ps => !allZero ((ps.drop 2).take 6)) (fun _ => true) with expert := true }
  hostRun (.settingSet q e) k q e s (fun c s =>
    let id := leField c.ps 0 1
    let v := leField c.ps 8 15
    match settingInfo s id with
    | none => .status s 0x03
    | some (d, lo, hi) =>
      if v < lo || hi < v then .status s 0x03
      else .status { s with settings := Tbl.set none s.settings id (if v = d then none else some v) } 0)

/-- `SETTING_GET` (R388). -/
def execSettingGet (q : BitVec 16) (e : Entry) (s : State) : Out :=
  hostRun (.settingGet q e) (CmdKind.basic true false [2] (fun _ => false) (fun _ => true)) q e s (fun c s =>
    match settingInfo s (leField c.ps 0 1) with
    | none => .status s 0x03
    | some (d, _) => .done s 0 false (s.setting (leField c.ps 0 1) d) 0)

/-! ## Notifications (R389, Table 13.13) -/

/-- The 128 bytes of a record. -/
def Note.bytes (n : Note) : List Byte :=
  let b := leBytes 2 n.seq.toNat ++ leBytes 1 n.cls ++ leBytes 5 0 ++ leBytes 8 n.time ++ n.payload.take 112
  b ++ List.replicate (128 - b.length) 0

/-- How many of the oldest records a `NOTE_READ` from `first` passes over: all of them when `first` is the next to be written. -/
def NoteState.skip (n : NoteState) (first : Half) : Nat :=
  let oldest := (n.log.head?.map (·.seq)).getD n.next
  if first = n.next then n.log.length
  else if (first - oldest).toNat < n.log.length then (first - oldest).toNat else 0

/-- `NOTE_READ` (R389). -/
def execNoteRead (q : BitVec 16) (e : Entry) (s : State) : Out :=
  let count := fun (ps : List Byte) => leField ps 2 3
  let k : CmdKind := { CmdKind.basic true true [4] (fun _ => false) (fun ps => 1 ≤ count ps && count ps ≤ 256) with
    buf := fun ps => .output (128 * count ps) }
  hostRun (.noteRead q e) k q e s (fun c s =>
    let k := s.notes.skip (BitVec.ofNat 16 (leField c.ps 0 1))
    let got := (s.notes.log.drop k).take (count c.ps)
    if s.hostFails c.daddr (128 * got.length) then .status s 0x0C
    else
      let s := s.hostPut c.daddr (got.flatMap Note.bytes)
      let s := { s with notes := { s.notes with
        log := s.notes.log.zipIdx.map (fun e => if k ≤ e.2 && e.2 < k + got.length then { e.1 with read := true } else e.1) } }
      .done s 0 false got.length 0)

/-! ## Queues (R385) -/

/-- A loaded job claims a queue (R536). -/
def State.queueClaimed (s : State) (qn : Nat) : Bool :=
  s.jobs.any (fun j => j.claims.any (fun c => c.kind = 7 && c.base ≤ qn && qn < c.base + c.length))

/-- A QN of a host or Xobex queue. -/
def isHostQn (qn : Nat) : Bool := 0x6E000 ≤ qn && qn < 0x7E000

/-- The context of a `QUEUE_CONFIG`. -/
def cfgCtx (ps : List Byte) : List Byte := ps.drop 8

/-- Reserved bytes and bits of a `QUEUE_CONFIG` (Tables 8.7, 12.7, 13.5, R268). -/
def cfgReserved (ps : List Byte) : Bool :=
  let qn := leField ps 0 3
  let x := cfgCtx ps
  !allZero ((ps.drop 5).take 3) ||
  (if isHostQn qn then
    (if leField ps 4 4 = 0 then 4 ≤ leField x 20 20 || leField x 23 23 ≠ 0 || leField x 28 31 ≠ 0
     else leField x 9 9 ≠ 0 || !allZero ((x.drop 26).take 6))
   else if isOrgQueue qn then !allZero ((x.drop 3).take 5) || !allZero ((x.drop 12).take 20)
   else isSiteQueue qn && !allZero ((x.drop 29).take 3))

/-- Configure host queue `q` (Table 13.5, R373, R385); `none` refuses it. -/
def cfgHost (s : State) (q : Nat) (x : List Byte) (expert : Bool) : Option State :=
  let old := s.queue q
  let sq := leField x 16 16
  let cq := leField x 17 17
  let vector := leField x 18 19
  let flags := leField x 20 20
  let soft := fun (y : HostQueue) => { y with
    vector := vector, expert := bit flags 0 && expert, irqEn := bit flags 1, coalCnt := leField x 24 25, coalUs := leField x 26 27 }
  let hard := fun (y : HostQueue) => { y with sqBase := leField x 0 7, cqBase := leField x 8 15, sqLog := sq, cqLog := cq }
  match leField x 21 21 with
  | 0 => some (if old.st = .off then s.modQueue q (fun y => soft (hard y)) else disableQueue s q)
  | 1 =>
    if leField x 0 7 % 4096 ≠ 0 || leField x 8 15 % 4096 ≠ 0 || sq < 4 || 12 < sq || cq < sq || 14 < cq || 2047 < vector then none
    else if old.st = .off then some (s.modQueue q (fun y => { (soft (hard y)).fresh with st := .on }))
    else if old.sqBase ≠ leField x 0 7 || old.cqBase ≠ leField x 8 15 || old.sqLog ≠ sq || old.cqLog ≠ cq then none
    else some (s.modQueue q soft)
  | _ => none

/-- The `BELL` words that a core watches, another queue's apart (R349). -/
def State.bells (s : State) (owner qn : Nat) : List Nat :=
  ((s.fab.queues.filter (fun e => e.1 ≠ qn && e.2.st ≠ 0 && e.2.owner = owner)).map (fun e => e.2.bell)).dedup

/-- A Xobex context lies in its ranges (Table 12.7). -/
def xqOk (s : State) (qn : Nat) (x : List Byte) : Bool :=
  let ring := leField x 0 7
  let owner := leField x 10 11
  let bell := leField x 12 15
  4 ≤ leField x 8 8 && leField x 8 8 ≤ 12 && owner < 800 && ring % 64 = 0 && ring < 2 ^ 56 && daSpace ring = 1 && daUnit ring = owner
    && daOfs ring + 64 * 2 ^ leField x 8 8 ≤ 0x800000 && bell % 4 = 0 && bell + 4 ≤ 0x800000 && leField x 24 24 < 64
    && ((s.bells owner qn).contains bell || (s.bells owner qn).length < 16)

/-- Configure a Xobex queue (Table 12.7, R349, R385); `none` refuses it. -/
def cfgXobex (s : State) (qn : Nat) (x : List Byte) : Option State :=
  let st := leField x 25 25
  let old := s.xq qn
  let new : XQueue := { old with
    ring := leField x 0 7, log2 := leField x 8 8, owner := leField x 10 11, bell := leField x 12 15
    tag := BitVec.ofNat 32 (leField x 20 23), node := leField x 24 24, st := st, todo := if st = 0 then [] else old.todo }
  if 1 < st || (s.queue (qn - 0x6E000)).st ≠ .off || (st = 1 && !xqOk s qn x) || (s.queueClaimed qn && new ≠ old) then none
  else some (s.modXq qn (fun _ => new))

/-- A DA of the Canopy store or plot of a core holds `n` bytes at an alignment (Table 8.7). -/
def ownStore (lc da n align : Nat) : Bool :=
  da < 2 ^ 56 && (daSpace da = 1 || daSpace da = 2) && daUnit da = lc && da % align = 0 && daOfs da + n ≤ spaceSize (daSpace da)

/-- A site queue context lies in its ranges, for a site that is a logical core (Table 8.7, R242). -/
def sqOk (s : State) (qn : Nat) (x : List Byte) : Bool :=
  let n := leField x 8 8
  match s.lcOf (qn / 512) with
  | none => false
  | some lc =>
    4 ≤ n && n ≤ 15 && leField x 9 9 < 64 && 1 ≤ leField x 10 11 && leField x 10 11 ≤ 2 ^ n
      && ownStore lc (leField x 0 7) (64 * 2 ^ n) 64 && ownStore lc (leField x 16 23) 4 4

/-- The quota of a bound serving queue would exceed its `BEXP` (R304). -/
def overBexp (s : State) (qn quota : Nat) : Bool :=
  match s.bindingOf qn with
  | some (_, b) => (parseHead (s.bytesAt b.area 512)).bexp < quota
  | none => false

/-- Configure a site queue (Table 8.7, R243, R385); `none` refuses it. Posts that wait are then served. -/
def cfgSite (s : State) (qn : Nat) (x : List Byte) : Option State :=
  let st := leField x 28 28
  let old := s.sq qn
  let new : SiteQueue := { old with
    ring := leField x 0 7, log2 := leField x 8 8, gate := leField x 9 9, quota := leField x 10 11, headDa := leField x 16 23, st := st }
  if 1 < st || (st = 1 && !sqOk s qn x) || (st = 1 && overBexp s qn new.quota)
      || (s.queueClaimed qn && { new with quota := old.quota, st := old.st } ≠ old) then none
  else some (servePosts qn 8 (s.modSq qn (fun _ => new)))

/-- Configure an Orangery queue (R268, R385); `none` refuses it. -/
def cfgOrg (s : State) (qn : Nat) (x : List Byte) : Option State :=
  let st := leField x 2 2
  let r := leField x 0 1
  if 1 < st || (st = 1 && 16384 ≤ r) then none
  else
    let k := (qn - 0x7F000) / 512
    some (serveOrgPosts k 8 (s.modStack k (fun t => { t with
      queues := Tbl.modify { region := 0, on := false, posts := 0 } t.queues ((qn - 0x7F000) % 512)
        (fun q => { q with region := r, on := st = 1 }) })))

/-- Write the context that a QN selects; `none` refuses it (R385). -/
def cfgQueue (s : State) (qn kind : Nat) (x : List Byte) (expert : Bool) : Option State :=
  if isHostQn qn then
    if qn = 0x6E000 then none
    else if kind = 1 then cfgXobex s qn x
    else if s.queueClaimed qn then none
    else (cfgHost s (qn - 0x6E000) x expert).map (fun s => s.modFab (fun f => { f with queues := Tbl.erase f.queues qn }))
  else if isSiteQueue qn then cfgSite s qn x
  else if isOrgQueue qn then cfgOrg s qn x
  else none

/-- `QUEUE_CONFIG` (R385). -/
def execQueueConfig (q : BitVec 16) (e : Entry) (s : State) : Out :=
  let qn := fun (ps : List Byte) => leField ps 0 3
  let k : CmdKind := { CmdKind.basic true true [40] cfgReserved
      (fun ps => qn ps < 2 ^ 19 && leField ps 4 4 < 2 && (leField ps 4 4 = 0 || isHostQn (qn ps))) with
    expertField := fun ps _ => isHostQn (qn ps) && leField ps 4 4 = 0 && leField (cfgCtx ps) 24 27 ≠ 0 }
  hostRun (.queueConfig q e) k q e s (fun c s =>
    match cfgQueue s (qn c.ps) (leField c.ps 4 4) (cfgCtx c.ps) c.expert with
    | none => .status s 0x40
    | some t => .status t 0)

/-! ## Repair map (R218, R467, Table 7.7) -/

/-- The 16 bytes of entry `n`. -/
def repairBytes (d : List Byte) (n : Nat) : List Byte := (d.drop (32 + 16 * n)).take 16

/-- An entry's reserved fields, and its zero fields for a retirement. -/
def repairReserved (b : List Byte) : Bool :=
  leField b 1 1 ≠ 0 || leField b 6 7 ≠ 0 || leField b 12 15 ≠ 0 || leField b 0 0 = 0 || 8 < leField b 0 0

/-- An entry's unit and bank lie in their ranges. -/
def repairRange (b : List Byte) : Bool :=
  let unit := leField b 2 3
  let bank := leField b 4 5
  match leField b 0 0 with
  | 1 => unit < 880 && bank < 32
  | 2 => unit < 880 && bank < 32
  | 3 => unit < 6 && bank < 1024
  | 4 => unit < 6 && bank < 1024
  | 5 => unit < 880 && bank < 16
  | 6 => unit < 880 && bank < 16
  | 7 => unit < 880 && bank < 48
  | _ => unit < 880 && bank = 0 && leField b 8 11 = 0

/-- An entry of a map. -/
def parseRepair (b : List Byte) : Repair :=
  { kind := leField b 0 0, unit := leField b 2 3, bank := leField b 4 5, index := leField b 8 11 }

/-- `REPAIR_MAP`: an accepted map is kept for warm boots, and applied at this boot while step 10 has not begun; a map whose
header does not match, or with a reserved field set, is refused whole and logged, and only fuse repairs apply at this boot (R218, R467). -/
def execRepairMap (q : BitVec 16) (e : Entry) (s : State) : Out :=
  let k : CmdKind := { CmdKind.basic true true [0] (fun _ => false) (fun _ => true) with buf := fun _ => .own }
  hostRun (.repairMap q e) k q e s (fun c s =>
    let d := s.hostBytes c.daddr (min c.dlen (32 + 16 * 4096))
    let n := leField d 4 5
    let bs := (List.range n).map (repairBytes d)
    let early := !s.boot.ready && !s.boot.fatal && s.boot.phase < 10
    let refuse := Act.status (logError (if early then { s with boot := { s.boot with soft := some [] } } else s) 0 8 4 0xFF 0 0 none 0) 0x02
    if s.hostFails c.daddr (min c.dlen (32 + 16 * 4096)) then .status s 0x0C
    else if c.dlen < 32 then .status s 0x03
    else if leField d 6 7 ≠ 0 || !allZero ((d.drop 20).take 12) then refuse
    else if 4096 < n || c.dlen ≠ 32 + 16 * n then .status s 0x03
    else if leField d 0 3 ≠ 0x50524D53 || leField d 8 15 ≠ fused s (fun m => m.serial.toNat) || leField d 16 19 ≠ crc32c (d.drop 32)
        || bs.any repairReserved then refuse
    else if bs.any (fun b => !repairRange b) then .status s 0x03
    else
      let map := bs.map parseRepair
      let s := { s with flash := { s.flash with soft := some map } }
      if early then
        .done { s with boot := { s.boot with soft := some map } } 0 false 1 0
      else .done s 0 false 0 0)

/-! ## Caps (R415, Table 14.9) -/

/-- The expert fields of a `PWR_CAP`: order, floors, flags; zero without them. -/
def capField (ps : List Byte) (k : Nat) : Nat := if ps.length < 16 then 0 else leField ps k k

/-- The fields of a `PWR_CAP` lie in their ranges. -/
def capRange (ps : List Byte) : Bool :=
  let cap := leField ps 2 3
  if leField ps 0 0 = 0 then
    2000 ≤ cap && cap ≤ 5500 && capField ps 4 ≤ 5 && capField ps 5 ≤ 64 && capField ps 6 ≤ 64
  else leField ps 0 0 < 64 && (cap = 0 || (50 ≤ cap && cap ≤ 5500)) && capField ps 5 ≤ 64
    && capField ps 4 = 0 && capField ps 6 = 0 && capField ps 7 = 0

/-- A loop with a new cap and floors: a limit below its floor rises to it. -/
def PowerLoop.recap (l : PowerLoop) (cap memFloor linkFloor : Nat) : PowerLoop :=
  { l.setCap cap with memFloor := memFloor, linkFloor := linkFloor, m := max l.m memFloor, l := max l.l linkFloor }

/-- `PWR_CAP`: the cap of the part or of a node, with its expert fields, in the Kiosk's order. The node
reads `BUSY`, and the command completes with the next sample of its loop (R32, R34, R415, R419). -/
def execPwrCap (q : BitVec 16) (e : Entry) (s : State) : Out :=
  let k : CmdKind := { CmdKind.basic true false [4, 16]
      (fun ps => leField ps 1 1 ≠ 0 || (ps.length = 16 && (2 ≤ leField ps 7 7 || !allZero (ps.drop 8)))) capRange with
    expertField := fun ps _ => capField ps 4 ≠ 0 || capField ps 5 ≠ 0 || capField ps 6 ≠ 0 || capField ps 7 ≠ 0
    kiosk := fun _ => true }
  hostRun (.pwrCap q e) k q e s (fun c s =>
    let n := leField c.ps 0 0
    let cap := leField c.ps 2 3
    let floor := fun k (d : Nat) => if capField c.ps k = 0 then d else capField c.ps k
    if !s.nodeValid n then .status s 0x09
    else
      let s := sendIntents s (s.nodeCores n) 8 3
      let s := if n = 0 then
          let s := s.setLoop 0 (s.pwr.part.recap cap (floor 5 8) (floor 6 16))
          let noFreq := bit (capField c.ps 7) 0
          { s with pwr := { s.pwr with
            order := capField c.ps 4, noFreq := noFreq, freqLim := if noFreq then 40 else s.pwr.freqLim } }
        else if cap = 0 then s.setLoop n { PowerLoop.init with memFloor := floor 5 8 }
        else s.setLoop n ((s.loopOf n).recap cap (floor 5 8) 16)
      .later { s with busy := s.busy ++ [n], pwr := { s.pwr with capRuns := s.pwr.capRuns ++ [(n, c.ref)] } })

/-! ## Partitions (R31, R32) -/

/-- Entry `n` of a partition configuration; one that is not valid reads zero. -/
def ptnEntry (d : List Byte) (n : Nat) : PtnNode :=
  let w := leField d (8 * n) (8 * n + 7)
  if bit w 63 && n ≠ 0 then { mask := BitVec.ofNat 40 w, parent := bits w 45 40, valid := true } else PtnNode.init

/-- The tree of a partition configuration. -/
def ptnTree (d : List Byte) : Tbl PtnNode :=
  (List.range 64).foldl (fun t n => Tbl.set PtnNode.init t n (ptnEntry d n)) []

/-- A new tree changes a node or cluster that a loaded job covers, or names a withdrawn cluster in a node that holds one. -/
def ptnConflict (s : State) (t : Tbl PtnNode) : Bool :=
  s.jobs.any (fun j =>
    (List.range 64).any (fun n => n ≠ 0 && treeNode s.ptn n ≠ treeNode t n
        && (((treeNode s.ptn n).valid && (treeUp s.ptn 64 n).contains j.node)
          || ((treeNode t n).valid && (treeUp t 64 n).contains j.node)))
    || (List.range 40).any (fun cl => j.mask.getLsbD cl && treeHome s.ptn cl ≠ treeHome t cl)
    || (j.node ≠ 0 && (List.range 40).any (fun cl => (treeNode t j.node).mask.getLsbD cl && s.withdrawn cl)))

/-- `PTN_CONFIG`: replaces the whole partition tree, or is refused without a change; a node that is no longer valid loses its
cap (R32, R415). -/
def execPtnConfig (q : BitVec 16) (e : Entry) (s : State) : Out :=
  let k : CmdKind := { CmdKind.basic true false [0] (fun _ => false) (fun _ => true) with
    buf := fun _ => .input 512
    rsv := fun _ d => (List.range 64).any (fun n => bits (leField d (8 * n) (8 * n + 7)) 62 46 ≠ 0)
    kiosk := fun _ => true }
  hostRun (.ptnConfig q e) k q e s (fun c s =>
    let t := ptnTree c.data
    if !treeOk t || ptnConflict s t then .status s 0x0B
    else .status { s with
      ptn := t, pwr := { s.pwr with nodes := s.pwr.nodes.filter (fun e => (treeNode t e.1).valid) } } 0)

/-! ## The fabric (R387) -/

/-- `SYS_INDEX`: sets this part's index. -/
def execSysIndex (q : BitVec 16) (e : Entry) (s : State) : Out :=
  hostRun (.sysIndex q e) (CmdKind.basic true false [2] (fun _ => false) (fun ps => leField ps 0 1 < 1024)) q e s (fun c s =>
    if s.jobs ≠ [] || s.fab.peers.any (fun e => e.2.st = 1) then .status s 0x0A
    else .status (s.modFab (fun f => { f with index := some (leField c.ps 0 1) })) 0)

/-- `PORT_CONFIG`: sets a port's addresses (R336). -/
def execPortConfig (q : BitVec 16) (e : Entry) (s : State) : Out :=
  let k := CmdKind.basic true false [32]
    (fun ps => 8 ≤ leField ps 1 1 || 4096 ≤ leField ps 2 3 || leField ps 30 31 ≠ 0) (fun ps => leField ps 0 0 < 64)
  hostRun (.portConfig q e) k q e s (fun c s =>
    let f := leField c.ps 1 1
    let p : PortCfg := {
      ip4 := if bit f 0 then some (leField c.ps 4 7) else none
      ip6 := if bit f 1 then some (leField c.ps 8 23) else none
      vlan := if bit f 2 then some (leField c.ps 2 3) else none
      nextHop := leField c.ps 24 29 }
    .status (s.modFab (fun x => { x with ports := Tbl.set PortCfg.init x.ports (leField c.ps 0 0) p })) 0)

/-- The paths of a peer entry (Table 12.3). -/
def peerPaths (d : List Byte) : List (Bool × Nat × Nat) :=
  (List.range 8).map (fun i =>
    if bit (leField d 0 0) i then (true, leField d (32 + 20 * i) (47 + 20 * i), leField d (48 + 20 * i) (48 + 20 * i)) else (false, 0, 0))

/-- `PEER_CONFIG`: arms or disarms a peer; its contexts start anew (R346, R387). -/
def execPeerConfig (q : BitVec 16) (e : Entry) (s : State) : Out :=
  let k : CmdKind := { CmdKind.basic true false [2] (fun _ => false) (fun ps => leField ps 0 1 < 1024) with
    buf := fun _ => .input 192
    rsv := fun _ d => !allZero ((d.drop 1).take 31) || (List.range 8).any (fun i => leField d (49 + 20 * i) (51 + 20 * i) ≠ 0) }
  hostRun (.peerConfig q e) k q e s (fun c s =>
    let p := leField c.ps 0 1
    let ps := peerPaths c.data
    if ps.any (fun e => 64 ≤ e.2.2) then .status s 0x03
    else if s.jobs.any (fun j => j.parts.contains p) then .status s 0x0A
    else
      let armed := leField c.data 0 0 ≠ 0
      .status (s.modFab (fun f => { f with
        peers := Tbl.set Peer.init f.peers p (if armed then { st := 1, paths := ps } else Peer.init)
        send := Tbl.erase (Tbl.erase f.send (2 * p)) (2 * p + 1)
        recv := Tbl.erase (Tbl.erase f.recv (2 * p)) (2 * p + 1) })) 0)

/-- The parts of a group entry (Table 12.11). -/
def groupParts (d : List Byte) : List Nat := (List.range (leField d 2 3)).map (fun k => leField d (16 + 2 * k) (17 + 2 * k))

/-- `COLL_GROUP`: writes or frees a collective group (R357, R387). -/
def execCollGroup (q : BitVec 16) (e : Entry) (s : State) : Out :=
  let k : CmdKind := { CmdKind.basic true false [1] (fun _ => false) (fun _ => true) with
    buf := fun _ => .front (16 + 2 * 1024)
    rsv := fun _ d => leField d 6 7 ≠ 0 || leField d 12 15 ≠ 0 }
  hostRun (.collGroup q e) k q e s (fun c s =>
    let g := leField c.ps 0 0
    let d := c.data
    let r := leField d 2 3
    if c.dlen < 16 || 1024 < r || c.dlen ≠ 16 + 2 * r || 1 < leField d 0 0 then .status s 0x03
    else if leField d 0 0 = 1 && (r = 0 || 64 ≤ leField d 1 1 || r ≤ leField d 4 5 || (groupParts d).any (1024 ≤ ·)) then .status s 0x03
    else if s.fab.insts.any (fun i => i.group = g) then .status s 0x0A
    else
      let new : Option Group := if leField d 0 0 = 0 then none else
        some { node := leField d 1 1, rank := leField d 4 5, tag := BitVec.ofNat 32 (leField d 8 11), parts := groupParts d, count := 0 }
      .status (s.modFab (fun f => { f with groups := Tbl.set none f.groups g new })) 0)

end Sys2Proof.Machine
end

