-- ==== Sys2Proof/WellFormed.lean ====
section
/-! DEFINITION. The static rules that a slot of a bundle obeys by itself (R81, R107, R127, R141, R144, R180): what an image
check refuses whatever surrounds the slot. Commands that are no slots are well-formed as they stand: their types leave out
every operand outside its range. -/

namespace Sys2Proof

/-- Size of the feeder store in 64-byte units (R100). -/
def feederUnits : Nat := 24576

/-- Block size of a storage format in 64-byte units (Table 4.2). -/
def SFmt.units : SFmt → Nat
  | .bin16 => 32
  | .e4m3 => 16
  | .e5m2 => 16
  | .int8 => 16
  | .int4 => 9
  | .e2m1 => 9
  | .bin32 => 16

/-- Required alignment of a block address, in 64-byte units (Table 4.2). -/
def SFmt.aligned (f : SFmt) (a : Nat) : Bool :=
  match f with
  | .bin16 => a % 32 = 0
  | .int4 => a % 32 ≤ 23
  | .e2m1 => a % 32 ≤ 23
  | _ => a % 16 = 0

/-- The rotary descriptors of an instruction lie in the store (R107, R108). -/
def rotaryOk (rope : Bool) (rdesc rep : Nat) : Bool := !rope || rdesc + 4 * rep + 4 ≤ feederUnits

/-- `FBLK` by R107. -/
def FBlkSlot.ok (a : FBlkSlot) : Bool :=
  (a.mode = decide (a.sfmt = .bin32)) && !(a.rope && a.mode) && rotaryOk a.rope a.rdesc.toNat a.rep.toNat &&
  (List.range (a.rep.toNat + 1)).all (fun q =>
    let x : Int := (a.addr.toNat : Int) + q * a.stride.toInt
    0 ≤ x && x + a.sfmt.units ≤ feederUnits && a.sfmt.aligned x.toNat)

/-- `FGATH` by R107. -/
def FGathSlot.ok (a : FGathSlot) : Bool := rotaryOk a.rope a.rdesc.toNat a.rep.toNat && a.glist.toNat < feederUnits

/-- How an operand of a vector operation is listed (Table 4.9). -/
inductive Listed where
  /-- not listed -/
  | no
  /-- any source of Table 4.8 -/
  | src
  /-- a register -/
  | reg
  deriving DecidableEq, Repr

/-- What Table 4.9 lists for a vector operation. -/
structure VRule where
  /-- operand a -/
  a : Listed
  /-- operand b -/
  b : Listed
  /-- operand c -/
  c : Bool
  /-- writes `VD` -/
  d : Bool
  /-- element count a multiple of 32 (R120) -/
  by32 : Bool
  /-- `FMT` -/
  fmt : Bool
  /-- `RND` and `SAT` -/
  conv : Bool
  /-- `IMM` as a store address -/
  store : Bool
  /-- `THR` -/
  thr : Bool
  deriving DecidableEq, Repr

/-- Operands a alone. -/
def VRule.one : VRule :=
  { a := .src, b := .no, c := false, d := true, by32 := false, fmt := false, conv := false, store := false, thr := false }

/-- Operands a and b. -/
def VRule.two : VRule := { VRule.one with b := .src }

/-- Registers that `n` elements of `w` bits occupy: 2 KiB each. -/
def vregs (n w : Nat) : Nat := (n * w + 16383) / 16384

/-- Registers that an operand of `n` elements occupies (Table 4.8). -/
def operandRegs (src : VSrc) (n : Nat) : Nat :=
  match src with
  | .reg => vregs n 32
  | .slot => 0
  | .row => vregs ((n + 31) / 32) 32
  | .col => 1
  | .scalar => 0

/-- Bits of a packed value of a narrow format (R121). -/
def narrowBits (fmt : Nat) : Nat := if fmt = 0 then 16 else if fmt ≤ 3 then 8 else 4

/-- A VECTOR slot by R127: unlisted fields zero, sources in range, and every register it reaches in the file. `dregs` is the
number of registers written from `VD`; `aregs` and `bregs` those of a and b where they are registers. Bits 5 to 3 of `VA` must be
zero where it names a slot, which uses bits 2 to 0 (log 95). -/
def VSlot.ok (r : VRule) (s : VSlot) (dregs aregs bregs : Nat) : Bool :=
  let n := s.cnt.toNat + 1
  (r.a ≠ .no || s.va = 0) && (r.a = .src || s.asrc = .reg) && (!s.rel || (r.a = .src && s.asrc = .slot)) &&
  (r.b ≠ .no || s.vb = 0) && (r.b = .src || s.bsrc = .reg) && s.bsrc ≠ .slot &&
  (r.c || s.vc = 0) && (r.d || s.vd = 0) && (r.fmt || s.fmt = 0) && (r.conv || (!s.rnd && !s.sat)) && (r.thr || s.thr = 0) &&
  (r.store || s.asrc = .scalar || s.bsrc = .scalar || s.imm = 0) &&
  (!r.store || (s.imm.toNat < 32768 && s.imm.toNat * 64 + 4 * n ≤ feederUnits * 64)) &&
  (!r.by32 || n % 32 = 0) && (s.asrc ≠ .slot || n ≤ 1024) &&
  (s.asrc ≠ .slot || s.va.val < 8) &&
  s.vd.val + dregs ≤ 64 &&
  (r.a = .no || s.va.val + (if r.a = .reg then aregs else operandRegs s.asrc n) ≤ 64) &&
  (r.b = .no || s.vb.val + (if r.b = .reg then bregs else operandRegs s.bsrc n) ≤ 64) &&
  (!r.c || s.vc.val + vregs n 32 ≤ 64)

/-- A slot of n results. -/
def VSlot.okN (r : VRule) (s : VSlot) : Bool := s.ok r (vregs (s.cnt.toNat + 1) 32) 0 0

/-- A MOVE slot by the rules of R180 that need no image. -/
def MSlot.ok (copy : Bool) (a : MSlot) : Bool :=
  a.share ≠ 0 && (a.cinc ≠ 0 || (a.cgate = 0 && a.clc = 0)) &&
  (if copy then a.sspace.val ≤ 1 || a.dspace.val ≤ 1 || (a.sspace = 2 && a.dspace = 2) else a.sspace = 0)

/-- The static rules of a slot, by itself. -/
def wellFormed : Instr → Bool
  | .fblk _ _ a => a.ok
  | .fgath _ _ a => a.ok
  | .vadd _ a => a.okN VRule.two
  | .vsub _ a => a.okN VRule.two
  | .vmul _ a => a.okN VRule.two
  | .vfma _ a => a.okN { VRule.two with c := true }
  | .vmin _ a => a.okN VRule.two
  | .vmax _ a => a.okN VRule.two
  | .vclt _ a => a.okN VRule.two
  | .vceq _ a => a.okN VRule.two
  | .vsel _ a => a.okN { VRule.two with c := true }
  | .vmov _ a => a.okN VRule.one
  | .vcvt _ a => a.ok { VRule.one with fmt := true, conv := true } (vregs (a.cnt.toNat + 1) (narrowBits a.fmt)) 0 0
  | .vext _ a => a.ok { VRule.one with a := .reg, fmt := true } (vregs (a.cnt.toNat + 1) 32)
      (vregs (a.cnt.toNat + 1) (narrowBits a.fmt)) 0
  | .vexp2 _ a => a.okN VRule.one
  | .vlog2 _ a => a.okN VRule.one
  | .vrcp _ a => a.okN VRule.one
  | .vrsqrt _ a => a.okN VRule.one
  | .vtanh _ a => a.okN VRule.one
  | .vsigm _ a => a.okN VRule.one
  | .vrsumr _ a => a.ok { VRule.one with by32 := true } (vregs ((a.cnt.toNat + 1) / 32) 32) 0 0
  | .vrmaxr _ a => a.ok { VRule.one with by32 := true } (vregs ((a.cnt.toNat + 1) / 32) 32) 0 0
  | .vrsumc _ a => a.ok { VRule.one with by32 := true } 1 0 0
  | .vrmaxc _ a => a.ok { VRule.one with by32 := true } 1 0 0
  | .vrsum _ a => a.ok { VRule.one with by32 := true } 1 0 0
  | .vrmax _ a => a.ok { VRule.one with by32 := true } 1 0 0
  | .vsmstat _ a => a.ok { VRule.one with b := .reg, by32 := true } 2 0 (vregs ((a.cnt.toNat + 1) / 32) 32)
  | .vsmexp _ a => a.bsrc = .row && a.ok { VRule.two with by32 := true } (vregs (a.cnt.toNat + 1) 32 + 1) 0 0
  | .vmask _ a => a.ok { VRule.one with b := .reg, by32 := true } (vregs (a.cnt.toNat + 1) 32) 0 1
  | .vdrop _ a => a.okN { VRule.two with thr := true }
  | .vld _ a => a.okN { VRule.one with a := .no, store := true }
  | .vst _ a => a.ok { VRule.one with a := .reg, d := false, store := true } 0 (vregs (a.cnt.toNat + 1) 32) 0
  | .gwait _ _ n => n ≠ 0
  | .gpeek _ _ n => n ≠ 0
  | .ginc _ _ n => n ≠ 0
  | .gsend _ _ _ n => n ≠ 0
  | .gpause _ n => n ≠ 0
  | .gloop _ _ _ t => t.toNat < 1024
  | .mcopy _ a => a.ok true
  | .mclear _ a => a.ok false
  | _ => true

end Sys2Proof
end

