-- ==== Sys2Proof/Machine/Slots.lean ====
section
/-! DEFINITION. From the 512 bits of a bundle to the commands of its slots, and from the words of the Orangery's units to
theirs (Tables 3.1, 4.1, 4.7, 5.8, 5.9, 6.7, 9.7, 9.9). Reserved values and bits have no command. -/

namespace Sys2Proof.Machine

/-- A field as a bounded number, `none` when out of range. -/
def fin? (n v : Nat) : Option (Fin n) := if h : v < n then some ⟨v, h⟩ else none

/-- ARRAY: the primary operation (Tables 3.1, 3.2). -/
def decodePrimary (lc : Lc) (n : Nat) : Option Instr :=
  let tile : Fin 4 := Fin.ofNat 4 (bits n 5 4)
  let rest := bits n 8 4
  match bits n 3 0 with
  | 0 => if rest = 0 then some (.anop lc) else none
  | 1 => some (.mac lc tile (bit n 6) (bit n 7) (bit n 8))
  | 2 => some (.macz lc tile (bit n 6) (bit n 7) (bit n 8))
  | 3 => if bits n 8 6 = 0 then some (.aclr lc tile) else none
  | 4 => if rest = 0 then some (.aramp lc) else none
  | _ => none

/-- ARRAY: the line-port transfer, if one starts (Table 3.1, R81). -/
def decodePort (lc : Lc) (n : Nat) : Option (List Instr) :=
  let tile : Fin 4 := Fin.ofNat 4 (bits n 15 14)
  let len : Fin 16 := Fin.ofNat 16 (bits n 21 18)
  if !bit n 12 then (if bits n 29 13 = 0 then some [] else none)
  else if !bit n 13 then
    if bits n 29 25 = 0 then some [.linePortReadout lc tile (bit n 16) (bit n 17) len (Fin.ofNat 8 (bits n 24 22))] else none
  else if bit n 17 || bits n 24 22 ≠ 0 then none
  else some [.linePortLoad lc tile (bit n 16) len (Fin.ofNat 32 (bits n 29 25))]

/-- ARRAY[47:0] (R80, R81). -/
def decodeArray (lc : Lc) (n : Nat) : Option (List Instr) :=
  if bits n 11 9 ≠ 0 || bits n 47 30 ≠ 0 then none
  else (decodePrimary lc n).bind (fun p => (decodePort lc n).map (fun q => p :: q))

/-- The storage format of a code (Table 4.2). -/
def sfmtOf : Nat → Option SFmt
  | 0 => some .bin16
  | 1 => some .e4m3
  | 2 => some .e5m2
  | 3 => some .int8
  | 4 => some .int4
  | 5 => some .e2m1
  | 6 => some .bin32
  | _ => none

/-- FEED[79:0] (R104, R107). -/
def decodeFeed (lc : Lc) (f : Feed) (n : Nat) : Option Instr :=
  if bit n 9 || bit n 79 then none
  else
    match bits n 2 0 with
    | 0 => if bits n 78 3 = 0 then some (.fnop lc f) else none
    | 1 => (sfmtOf (bits n 6 4)).bind (fun sf =>
        if bits n 78 64 ≠ 0 then none
        else some (.fblk lc f {
          mode := bit n 3, sfmt := sf, tr := bit n 7, rope := bit n 8, addr := BitVec.ofNat 15 (bits n 24 10)
          rep := BitVec.ofNat 8 (bits n 32 25), stride := BitVec.ofNat 16 (bits n 48 33)
          rdesc := BitVec.ofNat 15 (bits n 63 49) }))
    | 2 =>
      if bits n 6 3 ≠ 0 || bits n 24 10 ≠ 0 then none
      else some (.fgath lc f {
        tr := bit n 7, rope := bit n 8, rep := BitVec.ofNat 8 (bits n 32 25)
        stride := BitVec.ofNat 16 (bits n 48 33), rdesc := BitVec.ofNat 15 (bits n 63 49)
        glist := BitVec.ofNat 15 (bits n 78 64) })
    | 3 => if bits n 78 3 = 0 then some (.fflush lc f) else none
    | _ => none

/-- An operand source (Table 4.8). -/
def vsrcOf : Nat → Option VSrc
  | 0 => some .reg
  | 1 => some .slot
  | 2 => some .row
  | 3 => some .col
  | 4 => some .scalar
  | _ => none

/-- The vector operation of a code (Table 4.9). -/
def vectorOp (lc : Lc) (op : Nat) : Option (VSlot → Instr) :=
  match op with
  | 0x01 => some (.vadd lc)
  | 0x02 => some (.vsub lc)
  | 0x03 => some (.vmul lc)
  | 0x04 => some (.vfma lc)
  | 0x05 => some (.vmin lc)
  | 0x06 => some (.vmax lc)
  | 0x07 => some (.vclt lc)
  | 0x08 => some (.vceq lc)
  | 0x09 => some (.vsel lc)
  | 0x0A => some (.vmov lc)
  | 0x0B => some (.vcvt lc)
  | 0x0C => some (.vext lc)
  | 0x10 => some (.vexp2 lc)
  | 0x11 => some (.vlog2 lc)
  | 0x12 => some (.vrcp lc)
  | 0x13 => some (.vrsqrt lc)
  | 0x14 => some (.vtanh lc)
  | 0x15 => some (.vsigm lc)
  | 0x18 => some (.vrsumr lc)
  | 0x19 => some (.vrmaxr lc)
  | 0x1A => some (.vrsumc lc)
  | 0x1B => some (.vrmaxc lc)
  | 0x1C => some (.vrsum lc)
  | 0x1D => some (.vrmax lc)
  | 0x20 => some (.vsmstat lc)
  | 0x21 => some (.vsmexp lc)
  | 0x22 => some (.vmask lc)
  | 0x23 => some (.vdrop lc)
  | 0x28 => some (.vld lc)
  | 0x29 => some (.vst lc)
  | _ => none

/-- VECTOR[111:0] (Table 4.7). -/
def decodeVector (lc : Lc) (n : Nat) : Option Instr :=
  if bits n 63 55 ≠ 0 then none
  else if bits n 5 0 = 0 then (if bits n 111 6 = 0 then some (.vnop lc) else none)
  else
    (vectorOp lc (bits n 5 0)).bind (fun mk =>
    (vsrcOf (bits n 44 42)).bind (fun asrc =>
    (vsrcOf (bits n 47 45)).bind (fun bsrc =>
    (fin? 6 (bits n 54 52)).bind (fun fmt =>
      if 2 ≤ bits n 50 49 then none
      else some (mk {
        cnt := BitVec.ofNat 12 (bits n 17 6), vd := Fin.ofNat 64 (bits n 23 18), va := Fin.ofNat 64 (bits n 29 24)
        vb := Fin.ofNat 64 (bits n 35 30), vc := Fin.ofNat 64 (bits n 41 36), asrc := asrc, bsrc := bsrc, rel := bit n 48
        rnd := bit n 49, sat := bit n 51, fmt := fmt, imm := BitVec.ofNat 32 (bits n 95 64)
        thr := BitVec.ofNat 16 (bits n 111 96) })))))

/-- MOVE[111:0] (Table 6.7). -/
def decodeMove (lc : Lc) (n : Nat) : Option Instr :=
  if bits n 111 63 ≠ 0 then none
  else if bits n 3 0 = 0 then (if bits n 62 4 = 0 then some (.mnop lc) else none)
  else
    (fin? 5 (bits n 8 6)).bind (fun lsel =>
    (fin? 5 (bits n 30 27)).bind (fun ss =>
    (fin? 5 (bits n 34 31)).bind (fun ds =>
    (fin? 800 (bits n 54 45)).bind (fun clc =>
      let a : MSlot := {
        mover := Fin.ofNat 4 (bits n 5 4), lsel := lsel, fence := bit n 9, desc := BitVec.ofNat 17 (bits n 26 10), sspace := ss
        dspace := ds, share := BitVec.ofNat 4 (bits n 38 35), cgate := Fin.ofNat 64 (bits n 44 39), clc := clc
        cinc := BitVec.ofNat 8 (bits n 62 55) }
      match bits n 3 0 with
      | 1 => some (.mcopy lc a)
      | 2 => some (.mclear lc a)
      | _ => none))))

/-- The fields a GATE operation leaves zero: some of `GATE`, `N`, `LC`, `LOOP`, `IMM`, `TARGET` (Table 5.10). -/
def gateZero (n : Nat) (g c l o i t : Bool) : Bool :=
  (!g || bits n 9 4 = 0) && (!c || bits n 33 10 = 0) && (!l || bits n 43 34 = 0) && (!o || bits n 45 44 = 0) &&
  (!i || bits n 63 48 = 0) && (!t || bits n 76 64 = 0)

/-- GATE[79:0] (Tables 5.9, 5.10). A `GSEG` with nonzero `TARGET`[9:0] and a `GJUMP` or `GSEG` with nonzero `IMM`[15:8] have no
command; `gateStruct` tells them from reserved ones. -/
def decodeGate (lc : Lc) (n : Nat) : Option Instr :=
  let g : Fin 64 := Fin.ofNat 64 (bits n 9 4)
  let c : BitVec 24 := BitVec.ofNat 24 (bits n 33 10)
  let t : BitVec 13 := BitVec.ofNat 13 (bits n 76 64)
  let imm : Half := BitVec.ofNat 16 (bits n 63 48)
  if bits n 47 46 ≠ 0 || bits n 79 77 ≠ 0 then none
  else
    match bits n 3 0 with
    | 0x0 => if gateZero n true true true true true true then some (.gnop lc) else none
    | 0x1 => if gateZero n false false true true true true then some (.gwait lc g c) else none
    | 0x2 => if gateZero n false false true true true true then some (.gpeek lc g c) else none
    | 0x3 => if gateZero n false false true true true true then some (.ginc lc g c) else none
    | 0x4 => if gateZero n false false false true true true then some (.gsend lc (Fin.ofNat 1024 (bits n 43 34)) g c) else none
    | 0x5 => if gateZero n true true true false false false then some (.gloop lc (Fin.ofNat 4 (bits n 45 44)) imm t) else none
    | 0x6 => if gateZero n true true true true false false then some (.gjump lc (imm.setWidth 8) t) else none
    | 0x7 => if gateZero n true true true true false false then
        some (.gseg lc (imm.setWidth 8) (Fin.ofNat 8 (bits n 76 74))) else none
    | 0x8 => if gateZero n true true true true false true then some (.gphase lc imm) else none
    | 0x9 => if gateZero n true false true true true true then some (.gpause lc c) else none
    | 0xA => if gateZero n true true true true true true then some (.gend lc) else none
    | _ => none

/-- The rules of the GATE slot that validation reports with `IMG_STRUCT` (R141). -/
def gateStruct (n : Nat) : Bool :=
  match bits n 3 0 with
  | 0x6 => bits n 63 56 = 0
  | 0x7 => bits n 63 56 = 0 && bits n 73 64 = 0
  | _ => true

/-- A bundle as its slot commands, in slot order (R139, R140, Table 5.8). -/
def decodeBundle (lc : Lc) (b : BitVec 512) : Option (List Instr) :=
  let n := b.toNat
  (decodeArray lc (bits n 47 0)).bind (fun a =>
  (decodeFeed lc .a (bits n 127 48)).bind (fun fa =>
  (decodeFeed lc .b (bits n 207 128)).bind (fun fb =>
  (decodeVector lc (bits n 319 208)).bind (fun v =>
  (decodeMove lc (bits n 431 320)).bind (fun m =>
  (decodeGate lc (bits n 511 432)).map (fun g => a ++ [fa, fb, v, m, g]))))))

/-! ## Units of the Orangery (Tables 9.7, 9.9) -/

/-- A bank-unit instruction; `none` where it is reserved (R271). -/
def decodeBank (u : BankUnit) (w : Word) : Option Instr :=
  let d : Fin 64 := Fin.ofNat 64 (fld w 11 6)
  let a : Fin 64 := Fin.ofNat 64 (fld w 17 12)
  let b : Fin 64 := Fin.ofNat 64 (fld w 23 18)
  let c : Fin 64 := Fin.ofNat 64 (fld w 29 24)
  let half := fld w 30 30 = 1
  let zd := fld w 11 6 = 0
  let za := fld w 17 12 = 0
  let zb := fld w 23 18 = 0
  let zc := fld w 29 24 = 0
  let zm := fld w 31 30 = 0
  let i14 : BitVec 14 := BitVec.ofNat 14 (fld w 31 18)
  let lane (i : Instr) (ok : Bool) : Option Instr := if fld w 31 31 = 0 && ok then some i else none
  let plain (i : Instr) (ok : Bool) : Option Instr := if zm && ok then some i else none
  match fld w 5 0 with
  | 0x00 => plain (.buNop u) (zd && za && zb && zc)
  | 0x01 => plain (.buLd u d a) (zb && zc)
  | 0x02 => plain (.buSt u a b) (zd && zc)
  | 0x03 => some (.buLdi u d (BitVec.ofNat 20 (fld w 31 12)))
  | 0x04 => plain (.buIadd u d a b) zc
  | 0x05 => some (.buIaddi u d a i14)
  | 0x06 => if zd then some (.buLoop u a i14) else none
  | 0x07 => if zd && za then some (.buBr u i14) else none
  | 0x08 => plain (.buEnd u) (zd && za && zb && zc)
  | 0x10 => lane (.buFadd u half d a b) zc
  | 0x11 => lane (.buFsub u half d a b) zc
  | 0x12 => lane (.buFmul u half d a b) zc
  | 0x13 => lane (.buFfma u half d a b c) true
  | 0x14 => lane (.buFmin u half d a b) zc
  | 0x15 => lane (.buFmax u half d a b) zc
  | 0x16 => lane (.buFclt u half d a b) zc
  | 0x17 => lane (.buFsel u half d a b c) true
  | 0x18 => plain (.buFrcp u d a) (zb && zc)
  | 0x19 => plain (.buFrsq u d a) (zb && zc)
  | 0x1A => lane (.buBcast u half d a) (zb && zc)
  | 0x20 =>
    match fin? 6 (fld w 20 18), fin? 8 (fld w 29 24) with
    | some f, some k => plain (.buCvt u d a f (fld w 21 21 = 1) (fld w 22 22 = 1) k) (fld w 23 23 = 0)
    | _, _ => none
  | 0x21 =>
    match fin? 6 (fld w 20 18), fin? 8 (fld w 29 24) with
    | some f, some k => plain (.buExt u d a f k) (fld w 23 21 = 0)
    | _, _ => none
  | 0x28 => plain (.buRand u d) (za && zb && zc)
  | 0x29 => plain (.buPut u a) (zd && zb && zc)
  | 0x30 => plain (.buCsend u a) (zd && zb && zc)
  | 0x31 => plain (.buCrecv u d) (za && zb && zc)
  | _ => none

/-- A row-unit instruction; `none` where it is reserved (R276). -/
def decodeRow (u : RowUnit) (w : Word) : Option Instr :=
  let sd : Fin 16 := Fin.ofNat 16 (fld w 9 6)
  let sa : Fin 16 := Fin.ofNat 16 (fld w 13 10)
  let sb : Fin 16 := Fin.ofNat 16 (fld w 17 14)
  let z := fun (hi lo : Nat) => fld w hi lo = 0
  let imm : BitVec 10 := BitVec.ofNat 10 (fld w 31 22)
  let pd := fin? 8 (fld w 9 6)
  let pa := fin? 8 (fld w 13 10)
  let pb := fin? 8 (fld w 17 14)
  let pc := fin? 8 (fld w 21 18)
  let three (mk : Fin 8 → Fin 8 → Fin 8 → Instr) : Option Instr :=
    if z 31 18 then pd.bind (fun d => pa.bind (fun a => pb.map (fun b => mk d a b))) else none
  match fld w 5 0 with
  | 0x00 => if z 31 6 then some (.ruNop u) else none
  | 0x01 => if z 31 14 then pd.map (fun d => .ruRld u d sa) else none
  | 0x02 => if z 9 6 && z 31 18 then pb.map (fun b => .ruRst u sa b) else none
  | 0x03 => some (.ruSldi u sd (BitVec.ofNat 22 (fld w 31 10)))
  | 0x04 => if z 31 18 then some (.ruSadd u sd sa sb) else none
  | 0x05 => if z 21 14 then some (.ruSaddi u sd sa imm) else none
  | 0x06 => if z 9 6 && z 21 14 then some (.ruLoop u sa imm) else none
  | 0x07 => if z 21 6 then some (.ruBr u imm) else none
  | 0x08 => if z 31 6 then some (.ruEnd u) else none
  | 0x10 => three (.ruAnd u)
  | 0x11 => three (.ruOr u)
  | 0x12 => three (.ruXor u)
  | 0x13 => three (.ruAndn u)
  | 0x14 => if z 31 22 then pd.bind (fun d => pa.bind (fun a => pb.bind (fun b => pc.map (fun c => .ruMux u d a b c)))) else none
  | 0x15 => if z 31 14 then pd.bind (fun d => pa.map (fun a => .ruNot u d a)) else none
  | 0x16 => three (.ruFa u)
  | 0x17 => if z 31 6 then some (.ruCclr u) else none
  | 0x18 => if z 31 6 then some (.ruCset u) else none
  | 0x19 => if z 31 14 then pa.map (fun a => .ruPopc u sd a) else none
  | 0x1A => if z 31 14 then pa.map (fun a => .ruAnys u sd a) else none
  | 0x20 => if z 9 6 && z 31 18 then some (.ruTrin u sa sb) else none
  | 0x21 => if z 9 6 && z 31 18 then some (.ruTrout u sa sb) else none
  | 0x28 =>
    if z 31 14 then (if fld w 9 6 % 2 = 0 then (fin? 8 (fld w 9 6 / 2)).map (fun d => .ruCrc u d sa) else none) else none
  | 0x29 => if z 31 6 then some (.ruPut u) else none
  | _ => none

end Sys2Proof.Machine
end

