-- ==== Sys2Proof/Machine/Image.lean ====
section
/-! DEFINITION. Schedule images: their sections and records, and the checks of job load ("Schedule images and the timing
contract" R131 to R137). -/

namespace Sys2Proof.Machine

/-! ## Records (Tables 5.1 to 5.5) -/

/-- A section table entry (Table 5.2). -/
structure Section where
  /-- `TYPE` -/
  ty : Nat
  /-- `COUNT` -/
  count : Nat
  /-- `OFFSET` -/
  ofs : Nat
  /-- `LENGTH` -/
  len : Nat
  /-- reserved bytes are zero -/
  clean : Bool
  deriving DecidableEq, Repr

/-- `n` records of `k` bytes from an offset. -/
def pieces (d : List Byte) (ofs k n : Nat) : List (List Byte) := (List.range n).map (fun i => (d.drop (ofs + k * i)).take k)

/-- The section table (R132). -/
def imgSections (d : List Byte) : List Section :=
  (pieces d (leField d 56 63) 32 (leField d 44 45)).map (fun b =>
    { ty := leField b 0 1, count := leField b 4 7, ofs := leField b 8 15, len := leField b 16 23
      clean := leField b 2 3 = 0 && leField b 24 31 = 0 })

/-- Size of a record of a section. -/
def recordSize (ty : Nat) : Nat := if ty = 1 || ty = 3 then 64 else 32

/-- The records of a section, none where the section is missing; at most those that lie in the image. -/
def imgRecords (d : List Byte) (ty : Nat) : List (List Byte) :=
  match (imgSections d).find? (fun s => s.ty = ty) with
  | none => []
  | some s => pieces d s.ofs (recordSize ty) (min s.count ((d.length - s.ofs) / recordSize ty))

/-- Bundles of the segment bodies. -/
def imgBundles (d : List Byte) : List (BitVec 512) := (imgRecords d 3).map (fun b => BitVec.ofNat 512 (leNat b))

/-- A segment record, with the index of its first bundle (Table 5.4). -/
def segOf (b : List Byte) : SegRec × Nat :=
  ({ lc := leField b 0 1, seg := leField b 2 2, bundles := leField b 4 5, ofs := leField b 8 11 }, leField b 16 23)

/-- Segment records. -/
def imgSegs (d : List Byte) : List (SegRec × Nat) := (imgRecords d 2).map segOf

/-- Claim records (Table 5.5). -/
def imgClaims (d : List Byte) : List Claim :=
  (imgRecords d 4).map (fun b =>
    { kind := leField b 0 0, flags := leField b 1 1, lc := leField b 2 3, unit := leField b 4 7, base := leField b 8 15
      length := leField b 16 23 })

/-- Placements: DA, length, source offset (R136). -/
def imgPlacements (d : List Byte) : List (Nat × Nat × Nat) :=
  (imgRecords d 5).map (fun b => (leField b 0 7, leField b 8 15, leField b 16 23))

/-- `CLUSTER_MASK`. -/
def imgMask (d : List Byte) : BitVec 40 := BitVec.ofNat 40 (leField d 32 39)

/-- The logical cores of a mask in ascending order. -/
def maskCores (m : BitVec 40) : List Nat := (List.range 800).filter (fun lc => m.getLsbD (clusterOf lc))

/-! ## The checks of Table 5.7 -/

/-- Check 1: `MAGIC`, `HDR_SIZE`, and the section table within `IMAGE_SIZE` (DEDUCED: and the image as long as its size,
log 20). -/
def imgFormatOk (d : List Byte) : Bool :=
  leField d 0 3 = 0x3038385A && leField d 4 5 = 256 && leField d 16 23 = d.length && 256 ≤ d.length
    && leField d 56 63 + 32 * leField d 44 45 ≤ d.length

/-- Check 2: both CRCs. -/
def imgCrcOk (d : List Byte) : Bool :=
  crc32c (putBytes (d.take 256) 24 (leBytes 4 0)) = leField d 24 27 && crc32c (d.drop 256) = leField d 28 31

/-- The reserved fields of header, section table and records. -/
def imgRecordsClean (d : List Byte) : Bool :=
  allZero ((d.take 256).drop 64) && leField d 46 47 < 2 && (imgSections d).all (·.clean) &&
  (imgRecords d 1).all (fun b => leField b 3 3 = 0 && leField b 6 7 = 0 && leField b 20 23 = 0 && allZero (b.drop 32)) &&
  (imgRecords d 2).all (fun b => leField b 3 3 = 0 && leField b 6 7 = 0 && leField b 12 15 = 0 && leField b 24 31 = 0) &&
  (imgRecords d 4).all (fun b => leField b 24 31 = 0 && leField b 1 1 < (if leField b 0 0 = 4 then 4 else 2)) &&
  (imgRecords d 5).all (fun b => leField b 24 31 = 0)

/-- A loop at a depth is open at offset `p` of a segment: a `GLOOP` before it whose body reaches it (R144, R180). -/
def loopOpen (bs : List (BitVec 512)) (first p depth : Nat) : Bool :=
  (List.range p).any (fun i =>
    match decodeGate 0 (bits ((bs.getD (first + i) 0).toNat) 511 432) with
    | some (.gloop _ k _ t) => k.val = depth && p ≤ t.toNat % 1024
    | _ => false)

/-- The slots of a bundle decode and obey their own rules; those of the GATE slot's counts belong to check 5. -/
def bundleClean (mask : BitVec 40) (opened : Nat → Bool) (b : BitVec 512) : Bool :=
  match decodeBundle 0 b with
  | none => false
  | some is => is.all (fun i =>
      match i with
      | .mcopy _ a => wellFormed i && (a.cinc = 0 || mask.getLsbD (clusterOf a.clc)) && (a.lsel = 0 || opened (a.lsel.val - 1))
      | .mclear _ a => wellFormed i && (a.cinc = 0 || mask.getLsbD (clusterOf a.clc)) && (a.lsel = 0 || opened (a.lsel.val - 1))
      | .gwait .. => true
      | .gpeek .. => true
      | .ginc .. => true
      | .gsend .. => true
      | .gpause .. => true
      | .gloop .. => true
      | _ => wellFormed i)

/-- Check 4: reserved fields and the rules of the slots. -/
def imgReservedOk (d : List Byte) : Bool :=
  let bs := imgBundles d
  imgRecordsClean d &&
  bs.zipIdx.all (fun e => bundleClean (imgMask d) (fun depth => (imgSegs d).all (fun s =>
    !(s.2 ≤ e.2 && e.2 < s.2 + s.1.bundles) || loopOpen bs s.2 (e.2 - s.2) depth)) e.1)

/-- Two byte ranges are disjoint. -/
def disjoint (a b : Nat × Nat) : Bool := a.1 + a.2 ≤ b.1 || b.1 + b.2 ≤ a.1 || a.2 = 0 || b.2 = 0

/-- Every two ranges of a list are disjoint. -/
def allDisjoint : List (Nat × Nat) → Bool
  | [] => true
  | r :: rs => rs.all (disjoint r) && allDisjoint rs

/-- The field ranges of the header and the sections (Table 5.1, R132). -/
def imgSectionsOk (d : List Byte) : Bool :=
  let ss := imgSections d
  let so := leField d 56 63
  let count := fun (t : Nat) => (ss.filter (fun s => s.ty = t)).length
  1 ≤ leField d 42 43 && leField d 42 43 ≤ 1024 && (leField d 44 45 = 4 || leField d 44 45 = 5) && leField d 48 51 ≤ 600000 &&
  so % 32 = 0 && 256 ≤ so && leField d 37 39 = 0 &&
  [1, 2, 3, 4].all (fun t => count t = 1) && count 5 ≤ 1 && ss.all (fun s => 1 ≤ s.ty && s.ty ≤ 5) &&
  ss.all (fun s => s.len = s.count * recordSize s.ty && s.ofs % 64 = 0 && s.ofs + s.len ≤ d.length) &&
  allDisjoint ((0, 256) :: (so, 32 * ss.length) :: ss.map (fun s => (s.ofs, s.len)))

/-- A Canopy claim of the core holds the range (R134). -/
def canopyClaimed (cs : List Claim) (lc ofs len : Nat) : Bool :=
  cs.any (fun c => c.kind = 1 && (bit c.flags 0 || c.lc = lc) && c.base ≤ ofs && ofs + len ≤ c.base + c.length)

/-- Segment records and core entries (R133, R134). -/
def imgProgramsOk (d : List Byte) : Bool :=
  let segs := imgSegs d
  let keys := segs.map (fun s => (s.1.lc, s.1.seg))
  let lcs := (imgRecords d 1).map (fun b => leField b 0 1)
  (lcs.zip (lcs.drop 1)).all (fun p => p.1 < p.2) && keys.dedup.length = keys.length &&
  segs.all (fun s => 1 ≤ s.1.bundles && s.1.bundles ≤ 1024 && s.1.ofs % 64 = 0 && s.2 + s.1.bundles ≤ (imgBundles d).length
    && canopyClaimed (imgClaims d) s.1.lc s.1.ofs (64 * s.1.bundles)) &&
  (imgRecords d 1).all (fun b => segs.any (fun s =>
    s.1.lc = leField b 0 1 && s.1.seg = leField b 2 2 && leField b 4 5 < s.1.bundles))

/-- The forms of claims and placements (R135, R136, Table 5.6). -/
def imgFormsOk (d : List Byte) : Bool :=
  (imgClaims d).all (fun c =>
    1 ≤ c.kind && c.kind ≤ 7 && !(bit c.flags 0 && c.lc ≠ 0) &&
    (match c.kind with
     | 1 => c.unit = 0
     | 2 => c.unit = 0
     | 3 => c.base = 0
     | 5 => c.unit < 16 && c.base = 0 && c.length = 0
     | 6 => c.unit < 65536 && (c.unit / 256 = 1 || c.unit / 256 = 2) && c.base = 0
     | 7 => c.unit = 0
     | _ => true)) &&
  (imgPlacements d).all (fun p => p.1 < 2 ^ 56 && daSpace p.1 ≤ 4 && p.2.2 + p.2.1 ≤ d.length)

/-- The static control rules of one bundle at offset `i` of a segment (R141, R144, R145). -/
def controlOk (segs : List (SegRec × Nat)) (s : SegRec) (i : Nat) (b : BitVec 512) : Bool :=
  let seg := fun (n : Nat) => segs.find? (fun x => x.1.lc = s.lc && x.1.seg = n)
  match decodeGate 0 (bits b.toNat 511 432) with
  | some (.gloop _ _ _ t) => t.toNat < 1024 && i < t.toNat && t.toNat < s.bundles
  | some (.gseg _ n _) => (seg n.toNat).isSome
  | some (.gjump _ n t) => (seg n.toNat).any (fun x => t.toNat % 1024 < x.1.bundles)
  | _ => true

/-- Check 5: structure (R132 to R136) and the static control rules (R141, R144, R145). -/
def imgStructOk (d : List Byte) : Bool :=
  let bs := imgBundles d
  imgSectionsOk d && imgProgramsOk d && imgFormsOk d &&
  bs.all (fun b => gateStruct (bits b.toNat 511 432) &&
    (match decodeGate 0 (bits b.toNat 511 432) with
     | some (.gloop ..) => true
     | some i => wellFormed i
     | none => true)) &&
  (imgSegs d).all (fun s => (List.range s.1.bundles).all (fun i => controlOk (imgSegs d) s.1 i (bs.getD (s.2 + i) 0)))

/-- Check 6: the target node's clusters, the cores that the records name, no withdrawn cluster, and the parts count (R384). -/
def imgShapeOk (s : State) (node parts : Nat) (d : List Byte) : Bool :=
  let m := imgMask d
  let lcs := maskCores m
  (List.range 40).all (fun cl => m.getLsbD cl = (s.nodeClusters node).contains cl) && leField d 42 43 = parts &&
  leField d 40 41 = lcs.length && (imgRecords d 1).map (fun b => leField b 0 1) = lcs &&
  (imgSegs d).all (fun x => lcs.contains x.1.lc) && (imgClaims d).all (fun c => bit c.flags 0 || lcs.contains c.lc) &&
  (List.range 40).all (fun cl => !(m.getLsbD cl && s.withdrawn cl))

/-- A claim lies within capacity, an Orangery claim names mapped regions that are not in bank mode, a site queue a core of the
job (Table 5.6, R168, R242, Table 9.3). -/
def claimFits (s : State) (m : BitVec 40) (c : Claim) : Bool :=
  match c.kind with
  | 1 => c.base + c.length ≤ spaceSize 1
  | 2 => c.base + c.length ≤ spaceSize 2
  | 3 => c.unit + c.length ≤ 80 && (List.range c.length).all (fun i => s.commonsPresent (c.unit + i))
  | 4 => c.unit < 6 && c.base + c.length ≤ 16384 &&
      (List.range c.length).all (fun i => (s.region c.unit (c.base + i)).st ≠ .unmapped && !(s.region c.unit (c.base + i)).banked)
  | 7 => c.base + c.length ≤ 2 ^ 19 && (List.range c.length).all (fun i =>
      0x6E000 ≤ c.base + i || (match (if (s.site ((c.base + i) / 512)).state = 1 then
          some ((c.base + i) / 512 / 22 * 20 + (s.site ((c.base + i) / 512)).lcol.toNat) else none) with
        | some lc => m.getLsbD (clusterOf lc)
        | none => false))
  | _ => true

/-- Two claims of kinds 0x01 to 0x04 or 0x07 share something (Table 5.7). -/
def claimsMeet (a : Claim) (ja : List Nat) (b : Claim) (jb : List Nat) : Bool :=
  a.kind = b.kind &&
  (match a.kind with
   | 1 => ja.any jb.contains && !disjoint (a.base, a.length) (b.base, b.length)
   | 2 => ja.any jb.contains && !disjoint (a.base, a.length) (b.base, b.length)
   | 3 => !disjoint (a.unit, a.length) (b.unit, b.length)
   | 4 => a.unit = b.unit && !disjoint (a.base, a.length) (b.base, b.length)
   | 7 => !disjoint (a.base, a.length) (b.base, b.length)
   | _ => false)

/-- A placement lies wholly within one claim of its space; feeder stores of the job's cores need none (R136). -/
def placementOk (m : BitVec 40) (cs : List Claim) (p : Nat × Nat × Nat) : Bool :=
  let u := daUnit p.1
  let o := daOfs p.1
  let n := p.2.1
  let mine := u < 800 && m.getLsbD (clusterOf u)
  match daSpace p.1 with
  | 0 => mine && o + n ≤ spaceSize 0
  | 3 => o + n ≤ spaceSize 3 && cs.any (fun c => c.kind = 3 && c.unit ≤ u && u < c.unit + c.length)
  | 4 => cs.any (fun c => c.kind = 4 && c.unit = u && c.base * 2 ^ 26 ≤ o && o + n ≤ (c.base + c.length) * 2 ^ 26)
  | k => mine && o + n ≤ spaceSize k && cs.any (fun c => c.kind = k && (bit c.flags 0 || c.lc = u)
      && c.base ≤ o && o + n ≤ c.base + c.length)

/-- The cores that a claim of an image applies to. -/
def claimCores (m : BitVec 40) (c : Claim) : List Nat := if bit c.flags 0 then maskCores m else [c.lc]

/-- Check 7: claims and placements. -/
def imgClaimOk (s : State) (d : List Byte) : Bool :=
  let m := imgMask d
  let cs := imgClaims d
  cs.all (fun c => claimFits s m c && !s.jobs.any (fun j => j.claims.any (fun x => claimsMeet c (claimCores m c) x (x.coresOf j)))) &&
  (imgPlacements d).all (placementOk m cs)

/-- Check 8: every claimed sister link carries traffic in the present map (R25, R26). -/
def imgLinksOk (s : State) (d : List Byte) : Bool :=
  (imgClaims d).all (fun c => c.kind ≠ 5 || (claimCores (imgMask d) c).all (fun lc =>
    (List.range 4).all (fun k => !bit c.unit k || (s.sister lc k).isSome)))

/-- Credits of a shared pool (Table 5.14): a gateway or stack that is absent has none. -/
def poolSize (s : State) (unit : Nat) : Nat :=
  if unit / 256 = 1 then (if s.unitPresent 3 (unit % 256) then 48 else 0) else if s.unitPresent 4 (unit % 256) then 512 else 0

/-- Credits of a pool that claims declare. -/
def declared (unit : Nat) (cs : List (Claim × Nat)) : Nat :=
  (cs.map (fun e => if e.1.kind = 6 && e.1.unit = unit then e.1.length * e.2 else 0)).sum

/-- Check 9: the declared shares fit in what no loaded job holds (R152). -/
def imgCreditOk (s : State) (d : List Byte) : Bool :=
  let mine := (imgClaims d).map (fun c => (c, (claimCores (imgMask d) c).length))
  let held := s.jobs.flatMap (fun j => j.claims.map (fun c => (c, (c.coresOf j).length)))
  (imgClaims d).all (fun c => c.kind ≠ 6 || declared c.unit mine + declared c.unit held ≤ poolSize s c.unit)

/-- Validate an image: the status of the first check that fails, 0 when it passes (R137, Table 5.7). -/
def validateImage (s : State) (node parts : Nat) (d : List Byte) : Nat :=
  if !imgFormatOk d then 0x41
  else if !imgCrcOk d then 0x42
  else if leField d 6 7 ≠ 0x0100 then 0x43
  else if !imgReservedOk d then 0x44
  else if !imgStructOk d then 0x45
  else if !imgShapeOk s node parts d then 0x46
  else if !imgClaimOk s d then 0x47
  else if !imgLinksOk s d then 0x48
  else if !imgCreditOk s d then 0x49
  else 0

end Sys2Proof.Machine
end

