-- ==== Sys2Proof/Machine/JobCmds.lean ====
section
/-! DEFINITION. The job commands: load, halt, teardown, report ("Host interface and command packets" R384; "Schedule images and
the timing contract" R138; "Cuffs, Ethernet and the Xobex transport" R363). -/

namespace Sys2Proof.Machine

/-! ## Teardown (R384) -/

/-- Disable the Xobex queues of a node's job and free its groups; descriptors not started are discarded (R384, R364). -/
def freeQueues (s : State) (node : Nat) : State :=
  let s := (s.fab.queues.filter (fun e => e.2.node = node && e.2.st ≠ 0)).foldl (fun s e =>
    (s.modXq e.1 (fun q => { q with st := 0, todo := [] })).modFab (fun f => { f with disc := satAdd f.disc e.2.todo.length })) s
  s.modFab (fun f => { f with groups := f.groups.filter (fun e => e.2.all (fun g => g.node ≠ node)) })

/-- The steps of a teardown before its claims go: bindings, queues, groups and chunks end, bank-mode regions are being
released (R384 steps 1 to 4, R263). -/
def teardownBegin (s : State) (j : Job) : State :=
  let s := freeQueues (jobGone s j) j.node
  (s.heldRegions j.node).foldl (fun s e =>
    if (s.region e.1 e.2).bank = .entering then s else startRelease s e.1 e.2 true none []) s

/-- A core outside any job is at level 0 (R94). -/
def Core.quieten (c : Core) : Core := { c with arr := { c.arr with level := 0, rising := false, riseCyc := 0 } }

/-- The claims of a job are released and its node is free; its cores are idle from now, at level 0 (R94, R384 step 5, R402). -/
def teardownEnd (s : State) (j : Job) : State :=
  let s := s.modFab (fun f => { f with
    syncs := f.syncs.filter (fun y => y.tag ≠ j.tag), pace := Tbl.set XPace.init f.pace j.node XPace.init })
  let s := (j.cores.filterMap s.siteOf).foldl (fun s i => s.modSitePwr i (fun p => { p with idleSince := s.us })) s
  let s := j.cores.foldl (fun s lc => s.modCore lc Core.quieten) s
  { s with jobs := s.jobs.filter (fun x => x.node ≠ j.node) }

/-- As much of a teardown as can be done now, and whether it is complete. -/
def tearDown (s : State) (j : Job) : State × Bool :=
  let t := teardownBegin s j
  if t.heldRegions j.node = [] then (teardownEnd t j, true) else (t, false)

/-- A command that names a partition node alone (Table 13.9). -/
def nodeKind (buf : DataBuf) (kiosk : Bool) : CmdKind :=
  { CmdKind.basic true false [1] (fun _ => false) (fun ps => leField ps 0 0 < 64) with buf := fun _ => buf, kiosk := fun _ => kiosk }

/-- `JOB_TEARDOWN`: of a job that has ended or faulted; one in its fault sequence is waited for (R154, R384). -/
def execJobTeardown (q : BitVec 16) (e : Entry) (s : State) : Out :=
  hostRun (.jobTeardown q e) (nodeKind .none true) q e s (fun c s =>
    match s.jobAt (leField c.ps 0 0) with
    | none => .status s 0x0A
    | some j =>
      match j.phase with
      | .loading => .status s 0x0A
      | .running => .status s 0x0A
      | .faulting => .wait
      | _ => if (tearDown s j).2 then .status (tearDown s j).1 0 else .waits (tearDown s j).1)

/-- `JOB_HALT`: a running job is halted, and the command completes when it is faulted; a halt of a job in its fault sequence
waits and is then refused, one of a job being loaded waits for the load (R154, R384, log 51). -/
def execJobHalt (q : BitVec 16) (e : Entry) (s : State) : Out :=
  hostRun (.jobHalt q e) (nodeKind .none false) q e s (fun c s =>
    match s.jobAt (leField c.ps 0 0) with
    | none => .status s 0x0A
    | some j =>
      match j.phase with
      | .loading => .wait
      | .running => .later ((beginHalt s j.node none).modJob j.node (fun j => { j with halters := j.halters ++ [c.ref] }))
      | .faulting => .wait
      | _ => .status s 0x0A)

/-- `JOB_REPORT`: the report captured when the job ended or faulted (R384, Table 13.11). -/
def execJobReport (q : BitVec 16) (e : Entry) (s : State) : Out :=
  hostRun (.jobReport q e) (nodeKind .own false) q e s (fun c s =>
    match (s.jobAt (leField c.ps 0 0)).map (·.report) with
    | none => .status s 0x0A
    | some [] => .status s 0x0A
    | some r =>
      if c.dlen < r.length then .status s 0x03
      else if s.hostFails c.daddr r.length then .status s 0x0C
      else .done (s.hostPut c.daddr r) 0 false r.length 0)

/-! ## Load (R138, R363, R384) -/

/-- The part list of a load by rank; none where the list or an entry breaks R384. -/
def loadParts (s : State) (parts list : Nat) : Option (List Nat) :=
  if list % 2 = 1 || (list = 0 && parts ≠ 1) then none
  else if list = 0 then some [s.partIndex]
  else
    let es := (List.range parts).map (fun k => leNat (s.hostBytes (list + 2 * k) 2))
    if es.any (1024 ≤ ·) || es.dedup.length ≠ es.length || !es.contains s.partIndex then none else some es

/-- The refusals of R384 before the image is validated, 0 when there is none. -/
def loadRefusal (s : State) (node parts tag list : Nat) : Nat :=
  if s.tr.degraded then 0x06
  else if !s.nodeValid node || s.nodeTaken node then 0x09
  else if tag = 0 || s.jobs.any (fun j => j.tag = tag) then 0x03
  else if list ≠ 0 && list % 2 = 0 && s.hostFails list (2 * parts) then 0x0C
  else if (loadParts s parts list).isNone then 0x03
  else if 1 < parts && s.fab.index.isNone then 0x03
  else 0

/-- The shaping mode that a load fixes: ramp mode (R94). -/
def State.rampMode (s : State) (node : Nat) : Bool :=
  2 < (s.nodeClusters node).length || (s.nodeCores node).any (fun lc => (s.core lc).arr.forceRamp)

/-- The job of an image as it is loaded at step 1 of R138 (Tables 5.1, 5.3). -/
def jobOfImage (ref : CmdRef) (node tag : Nat) (parts : List Nat) (d : List Byte) : Job :=
  { node := node, mask := imgMask d, imageId := BitVec.ofNat 64 (leField d 8 15), phase := .loading, vdrop := bit (leField d 46 47) 0
    ramp := false, waitMs := if leField d 48 51 = 0 then 10000 else leField d 48 51, peakW := leField d 52 53, meanW := leField d 54 55
    parts := if parts.length ≤ 1 then [] else parts, tag := tag, claims := imgClaims d, segs := (imgSegs d).map (·.1), first := none
    remote := none, halted := false, placed := false, startAt := 0, startUs := 0, cmd := some ref, halters := [], report := []
    entries := (imgRecords d 1).map (fun b => (leField b 0 1, leField b 2 2, leField b 4 5)), image := d }

/-- Step 1 of R138: the node takes the job, the declared draw is compared with the cap, and every core's domain and Canopy
store asks for power (R33, R402, R404, R421). -/
def loadBegin (s : State) (j : Job) : State :=
  let s := { s with jobs := s.jobs ++ [{ j with ramp := s.rampMode j.node }] }
  let s := { s with pwr := { s.pwr with oversub := s.meanExceeds } }
  (j.cores.filterMap s.siteOf).foldl (fun s i => requestCanopy (requestPower s i) i) s

/-- A core as steps 2 and 3 of R138 leave it: clear but for `FORCE_RAMP`, its numeric block loaded from its entry (R71, R78,
R94, R99, R103, R115, R118, R133, R142, R159). -/
def Core.loaded (c : Core) (ramp : Bool) (b : List Byte) : Core :=
  { Core.init with
    num := { Core.init.num with
      keyLo := BitVec.ofNat 32 (leField b 8 11), keyHi := BitVec.ofNat 32 (leField b 12 15)
      salt := BitVec.ofNat 32 (leField b 16 19), ctr := BitVec.ofNat 64 (leField b 24 31) }
    arr := { Core.init.arr with ramp := ramp, forceRamp := c.arr.forceRamp } }

/-- What step 4 of R138 writes: segment bodies, then placements in record order, as (DA, bytes) (R134, R136). -/
def imgWrites (d : List Byte) : List (Nat × List Byte) :=
  (imgSegs d).map (fun x => (mkDa 1 x.1.lc x.1.ofs, (((imgRecords d 3).drop x.2).take x.1.bundles).flatten)) ++
  (imgPlacements d).map (fun p => (p.1, (d.drop p.2.2).take p.2.1))

/-- Step 5 of R138 for one core: its entry segment is loaded into frame 0 from the Canopy store; poisoned bytes fault the job
as those of a `GSEG` do (R145, Table 7.5). -/
def loadEntry (s : State) (j : Job) (e : Nat × Nat × Nat) : State :=
  match j.segs.find? (fun r => r.lc = e.1 && r.seg = e.2.1) with
  | none => s
  | some r =>
    let f := memFetch s 3 (some e.1) (mkDa 1 e.1 r.ofs) (64 * r.bundles)
    if f.bad.any id then poisonFault f.st e.1 0
    else f.st.modCore e.1 (fun c => { c.cleared (bundleKey 0) 65536 with seq := { c.seq with
      frames := Tbl.set .empty c.seq.frames 0 (.holds r.seg)
      store := Tbl.setMany 0 c.seq.store 0 (bundlesOf f.bytes) } })

/-- Steps 2 to 5 of R138, and the intent frame of the job start (R412, R421). -/
def loadPlace (s : State) (j : Job) : State :=
  let s := (imgRecords j.image 1).foldl (fun s b =>
    (clearUnit s 0 (leField b 0 1)).modCore (leField b 0 1) (fun c => c.loaded j.ramp b)) s
  let s := { s with pace := j.cores.foldl (fun t lc => Tbl.set PaceRec.init t lc PaceRec.init) s.pace }
  let s := (imgWrites j.image).foldl (fun s w => touchStore (memWrite s none w.1 w.2) w.1) s
  let s := j.entries.foldl (fun s e => loadEntry s j e) s
  let t := if j.peakW = 0 then s else sendIntents s j.cores 8 1
  let due := t.pwr.frames ≠ s.pwr.frames
  t.modJob j.node (fun j => { j with placed := true, image := [], startAt := if due then s.us + 2 else s.us })

/-- What the writes of a load meet: a region that is not resident, a store without power, or a destination too hot to write. -/
def loadAccess (s : State) (j : Job) : OrgAccess :=
  (imgWrites j.image).foldl (fun a w =>
    match a with
    | .serve =>
      if s.mayWrite w.1 w.2.length && s.orgLinked [(w.1, w.2.length)] then orgAccessRange s w.1 w.2.length else .bank
    | _ => a) .serve

/-- Every core of the job is powered, its Canopy store at full voltage. -/
def loadPowered (s : State) (j : Job) : Bool := j.cores.all (fun lc => s.corePowered lc && s.canopyFull lc)

/-- Step 6 of R138 may run: no region of the job slews down to a new `FMAX_REGION`, and 2 µs have passed since the intent
frame (R47, R412). -/
def mayStartJob (s : State) (j : Job) : Bool :=
  j.cores.all (fun lc => (s.clk (regionOf (clusterOf lc))).now ≤ (s.clk (regionOf (clusterOf lc))).fmax) && j.startAt ≤ s.us

/-- Step 6 of R138: every core is at its entry. -/
def startJob (s : State) (j : Job) : State :=
  let s := j.entries.foldl (fun s e => s.modCore e.1 (fun c => { c with seq := { c.seq with next := e.2.2, running := true } })) s
  let s := s.modFab (fun f => { f with pace := Tbl.set XPace.init f.pace j.node XPace.init })
  s.modJob j.node (fun j => { j with phase := .running, startUs := s.us, cmd := none })

/-- Steps 2 to 6 of R138 as far as they can go now. A job that was halted or faulted before step 6 completes its load
(log 51). -/
def loadGo (s : State) (j : Job) : Act :=
  if j.phase ≠ .loading then
    .done (s.modJob j.node (fun j => { j with cmd := none, image := [] })) 0 false j.imageId.toNat 0
  else if j.placed then
    if mayStartJob s j then .done (startJob s j) 0 false j.imageId.toNat 0 else .wait
  else if !loadPowered s j then .wait
  else match loadAccess s j with
    | .serve => .waits (loadPlace s j)
    | .wait t => .waits t
    | _ => .wait

/-- Rank 0 of a part list is this part. -/
def leads (s : State) (parts : List Nat) : Bool := parts.headD 0xFFFF = s.partIndex

/-- The own load of a job on several parts is refused after its validation: the other parts are told, and rank 0 refuses with
the status it sends (R363). -/
def syncRefuse (s : State) (tag image status : Nat) (parts : List Nat) : State × Nat :=
  if leads s parts then
    let st := match s.sync tag with
      | some y => if y.aborted then status else y.abort.getD status
      | none => status
    (syncAbort (modSync s tag (fun y => { y with parts := parts, own := false })) tag st, st)
  else (sendSync s (parts.headD 0xFFFF) tag 3 image status, status)

/-- The own load has passed its validation: `READY` to rank 0, or rank 0 waits for the others (R363). -/
def syncBegin (s : State) (tag : Nat) (parts : List Nat) (d : List Byte) : State :=
  if leads s parts then
    syncDecide (modSync s tag (fun y => { y with
      own := true, parts := parts, since := s.us, image := d, go := false, aborted := false
      ready := if y.aborted then [] else y.ready, abort := if y.aborted then none else y.abort })) tag
  else
    sendSync (modSync s tag (fun y => { y with
      own := true, parts := parts, since := s.us, image := d, go := false, aborted := false, ready := [], abort := none }))
      (parts.headD 0xFFFF) tag 1 (leField d 8 15) 0

/-- The common start of a tag is over here: rank 0 keeps that it has aborted (R363). -/
def syncEnd (s : State) (tag : Nat) : State :=
  s.modFab (fun f => { f with
    syncs := (f.syncs.filter (fun y => y.tag ≠ tag || y.aborted)).map (fun y => if y.tag = tag then { y with own := false, image := [] } else y) })

/-- A load that waits for the other parts of its job (R363). -/
def syncPoll (s : State) (ref : CmdRef) (node : Nat) (y : Sync) : Act :=
  if y.go then .waits (loadBegin (syncEnd s y.tag) (jobOfImage ref node y.tag y.parts y.image))
  else match y.abort with
    | some st => if leads s y.parts && !y.aborted then .wait else .status (syncEnd s y.tag) st
    | none => .wait

/-- A change to a row of the node's clusters is pending or under way: placements wait for it (R235, R475). -/
def nodeRowsBusy (s : State) (node : Nat) : Bool :=
  (s.nodeClusters node).any (fun cl => Tbl.get false s.rowPending cl || s.tr.updRows.contains cl)

/-- `JOB_LOAD` (R137, R138, R363, R384). -/
def execJobLoad (q : BitVec 16) (e : Entry) (s : State) : Out :=
  let k : CmdKind := { CmdKind.basic true false [16] (fun ps => leField ps 1 1 ≠ 0)
      (fun ps => leField ps 0 0 < 64 && 1 ≤ leField ps 2 3 && leField ps 2 3 ≤ 1024) with buf := fun _ => .own, kiosk := fun _ => true }
  hostRun (.jobLoad q e) k q e s (fun c s =>
    let node := leField c.ps 0 0
    let parts := leField c.ps 2 3
    let tag := leField c.ps 4 7
    let list := leField c.ps 8 15
    match s.jobs.find? (fun j => j.cmd = some c.ref), s.fab.syncs.find? (fun y => y.tag = tag && y.own) with
    | some j, _ => loadGo s j
    | none, some y => syncPoll s c.ref node y
    | none, none =>
      if c.dlen < 256 then .status s 0x03
      else if s.hostFails c.daddr 256 then .status s 0x0C
      else if leNat (s.hostBytes (c.daddr + 16) 8) ≠ c.dlen then .status s 0x03
      else if loadRefusal s node parts tag list ≠ 0 then .status s (loadRefusal s node parts tag list)
      else if nodeRowsBusy s node then .wait
      else if s.hostFails c.daddr c.dlen then .status s 0x0C
      else
        let d := s.hostBytes c.daddr c.dlen
        let ps := (loadParts s parts list).getD []
        let st := validateImage s node parts d
        if parts = 1 then
          if st ≠ 0 then .status s st else .waits (loadBegin s (jobOfImage c.ref node tag ps d))
        else if st ≠ 0 then .status (syncRefuse s tag (leField d 8 15) st ps).1 (syncRefuse s tag (leField d 8 15) st ps).2
        else .waits (syncBegin s tag ps d))

end Sys2Proof.Machine
end

