-- ==== Sys2Proof/Machine/Kiosk.lean ====
section
/-! DEFINITION. The board controller path: MCTP control, PLDM sensors and events, firmware update ("Host interface and command
packets" R391 to R393, Table 13.14). The messages' bytes follow standards outside the spec, so the model keeps what they say
(log 49). -/

namespace Sys2Proof.Machine

/-- The binding is served: I3C while the Kiosk runs on VIN_AUX; PCIe VDM while the link is up and configured (R391). -/
def State.mctpUp (s : State) (i3c : Bool) : Bool :=
  if i3c then s.boot.vinAux && s.boot.kiosk else s.hif.linkUp && s.hif.configured

/-- Answer a message on the binding it came by. -/
def mctpServe (s : State) (i3c : Bool) (src : Byte) (f : State → State) (b : MctpBody) : Out :=
  if s.mctpUp i3c then .next (sendMctp (f s) i3c src b) else .next s

/-- `MCTP_CONTROL`: the bus owner assigns the endpoint ID; other control messages are answered, other types as unsupported
(R391). -/
def execMctpControl (i3c : Bool) (src : Byte) (m : MctpReq) (s : State) : Out :=
  match m with
  | .setEid e => mctpServe s i3c src (fun s => { s with ksk := { s.ksk with eid := e } }) (.eid e)
  | .getEid => mctpServe s i3c src id (.eid s.ksk.eid)
  | .control code data => mctpServe s i3c src id (.answer 0 code data)
  | .other typ => mctpServe s i3c src id (.unsupported typ)

/-- `PLDM_REQUEST`: a request of type 0 or 2 is answered; a sensor reading gives the value last updated (R392). -/
def execPldmRequest (i3c : Bool) (src : Byte) (r : PldmReq) (s : State) : Out :=
  match r with
  | .reading k => mctpServe s i3c src id (.reading k.toNat (Tbl.get none s.ksk.sensors k.toNat))
  | .other platform code data => mctpServe s i3c src id (.answer (if platform then 2 else 0) code data)

/-! ## Sensors (Table 13.14) -/

/-- The highest of some optional values. -/
def topRat (vs : List (Option Rat)) : Option Rat :=
  vs.foldl (fun m v => match m, v with
    | some a, some b => some (max a b)
    | none, v => v
    | m, none => m) none

/-- Every cell of the layers of a kind. -/
def layerCells (hs : List Nat) : List (Nat × Nat) := hs.flatMap (fun h => (List.range 220).map (fun x => (h, x)))

/-- The value of a numeric sensor, temperatures in 1/16 °C; `draw` rounds a value between two codes (Table 13.14). -/
def sensorValue (s : State) (draw vinA vinM : Nat) (k : Nat) : Option Int :=
  match k with
  | 1 => s.pointValue 1344
  | 2 => s.pointValue 1345
  | 3 => s.pointValue 1346
  | 4 => s.pointValue 1347
  | 5 => codeOf draw (s.hottest (layerCells ((List.range 4).map computeHeat ++ (List.range 4).map canopyHeat)))
  | 6 => codeOf draw (s.hottest (layerCells ((List.range 4).map dramHeat)))
  | 7 => codeOf draw (topRat ((List.range 96).map (fun i => s.pointRuling (1224 + i))))
  | 8 => codeOf draw (s.hottest (layerCells [0]))
  | 9 => some s.pwr.part.last
  | 10 => some vinA
  | 11 => some vinM
  | 12 => some s.pwr.part.cap
  | 13 => some (perMille draw ((List.range 3).foldl (fun m p => max m (Tbl.get Plane.init s.thm.planes p).ratio) 0))
  | 14 => some (fld s.hlt.life 15 0 / 10)
  | _ => none

/-- The thresholds of a sensor by its own chapter, `true` for one crossed upwards: the inlet range (R450), the limits of Table
15.3, the cooling and life warnings (R451, R497). -/
def sensorLimits (s : State) (k : Nat) : List (Bool × Int) :=
  match k with
  | 1 => [(false, 20 * 16), (true, 40 * 16)]
  | 5 => [(true, 16 * (95 - s.thLower)), (true, 16 * (102 - s.thLower)), (true, 112 * 16)]
  | 6 => [(false, 0), (true, 85 * 16), (true, 100 * 16), (true, 110 * 16)]
  | 7 => [(true, 95 * 16), (true, 105 * 16)]
  | 8 => [(true, 115 * 16)]
  | 13 => [(true, s.degrWarn), (true, s.degrSevere)]
  | 14 => [(false, s.hlt.warnMonths.toNat)]
  | _ => []

/-- A reading lies beyond a threshold. -/
def beyond (v : Int) (l : Bool × Int) : Bool := if l.1 then l.2 < v else v < l.2

/-- Update a sensor; a reading that has crossed a threshold is sent as a sensor event (R392). -/
def updateSensor (vinA vinM : Nat) (s : State) (k : Nat) : State :=
  let v := sensorValue s s.draws vinA vinM k
  let old := Tbl.get none s.ksk.sensors k
  let s := { s.drawn 1 with ksk := { s.ksk with sensors := Tbl.set none s.ksk.sensors k v } }
  match old, v with
  | some a, some b => if (sensorLimits s k).any (fun l => beyond a l ≠ beyond b l) then queueEvent s (.sensor k b) else s
  | _, _ => s

/-- `SENSOR_UPDATE`: at 10 Hz the sensors update; the currents of VIN_A and VIN_M are measured (R392). -/
def execSensorUpdate (vinA vinM : Half) (s : State) : Out :=
  .next (((List.range 14).map (· + 1)).foldl (updateSensor vinA.toNat vinM.toNat) s)

/-! ## Events (R392) -/

/-- `SET_EVENT_RECEIVER`: events go to the named endpoint by the binding of the request, or to none. -/
def execSetEventReceiver (i3c : Bool) (src : Byte) (receiver : Option Byte) (s : State) : Out :=
  mctpServe s i3c src (fun s => keepEvents { s with ksk := { s.ksk with receiver := receiver.map (fun r => (i3c, r)) } }) .receiver

/-- `POLL_FOR_PLATFORM_EVENT_MESSAGE`: the oldest held event is returned and held no more; with a receiver none is held. -/
def execPollForPlatformEventMessage (i3c : Bool) (src : Byte) (s : State) : Out :=
  match s.ksk.receiver, s.events.queue with
  | none, x :: rest =>
    mctpServe s i3c src (fun s => { s with events := { s.events with queue := rest } }) (.poll (some x.ev))
  | _, _ => mctpServe s i3c src id (.poll none)

/-- `PLATFORM_EVENT_RESEND`: every event not accepted that was last sent 5 s ago or never is sent to the receiver. -/
def execPlatformEventResend (s : State) : Out :=
  match s.ksk.receiver with
  | none => .next s
  | some r =>
    let due := fun (x : QueuedEvent) => x.sentAt = 0 || x.sentAt - 1 + 5000000 ≤ s.auxUs
    let t := (s.events.queue.filter due).foldl (fun s x => sendMctp s r.1 r.2 (.event x.ev)) s
    .next { t with events := { t.events with
      queue := t.events.queue.map (fun x => if due x then { x with sentAt := s.auxUs + 1 } else x) } }

/-- `PLATFORM_EVENT_ACCEPT`: the receiver accepts the event at a place among those not accepted; its resending stops. -/
def execPlatformEventAccept (i : Half) (s : State) : Out :=
  if s.ksk.receiver.isSome then .next { s with events := { s.events with queue := s.events.queue.eraseIdx i.toNat } } else .next s

/-! ## Firmware update (R393, R458) -/

/-- The part with a firmware component changed. -/
def State.modFw (s : State) (c : Nat) (f : FwComp → FwComp) : State :=
  { s with flash := { s.flash with fw := Tbl.modify FwComp.init s.flash.fw c f } }

/-- Bank B of component `c` runs. -/
def State.runsB (s : State) (c : Nat) : Bool := Tbl.get false s.boot.banks (c - 1)

/-- The bank not in use holds a version, or is erased. -/
def FwComp.setIdle (x : FwComp) (runsB : Bool) (v : Option Word) : FwComp :=
  if runsB then { x with a := v } else { x with b := v }

/-- `FIRMWARE_UPDATE`: bytes of a component's image are written into the bank not in use, which is no longer a verified one;
a transfer starts with offset 0 (R393). -/
def execFirmwareUpdate (i3c : Bool) (src : Byte) (comp : Fin 3) (ofs : Word) (data : List Byte) (s : State) : Out :=
  let c := comp.val + 1
  mctpServe s i3c src (fun s => s.modFw c (fun x =>
    { x.setIdle (s.runsB c) none with
      staged := false, image := Tbl.setMany 0 (if ofs = 0 then [] else x.image) ofs.toNat data })) (.written c)

/-- `VERIFY_COMPLETE`: the signature of the transferred image is checked, `ok` its outcome: a verified bank waits for the next
whole-part reset; a failed one is erased and the running firmware stays (R393). -/
def execVerifyComplete (i3c : Bool) (src : Byte) (comp : Fin 3) (version : Word) (ok : Bool) (s : State) : Out :=
  let c := comp.val + 1
  mctpServe s i3c src (fun s => s.modFw c (fun x =>
    if ok then { x.setIdle (s.runsB c) (some version) with staged := true, bNewer := !s.runsB c, image := [] }
    else { x.setIdle (s.runsB c) none with staged := false, image := [] })) (.verified c ok)

end Sys2Proof.Machine
end

