-- ==== Sys2Proof/Machine/MemCmds.lean ====
section
/-! DEFINITION. Memory and control accesses of the host and of control packets, merge-buffer and write-back timers, command
broadcasts, route queries ("Memory tiers, addressing and movers" R172 to R174, R191; "Integrity of stored data" R202, R207,
R208, R213; "The Trellis on-die network" R228, R232, R240; "Host interface and command packets" R383). -/

namespace Sys2Proof.Machine

/-! ## Timers of the stores -/

/-- `MERGE_ENTRY_CLOSE`: the idle or age timer of the entry of a word runs out, and the entry closes (Table 7.3). -/
def execMergeEntryClose (da : Dword) (s : State) : Out :=
  let w := da.toNat / 32 * 32
  .next (closeWhere s (fun e => e.word = w))

/-- The store of a unit may not be written at its temperature (R208, R441, R442). -/
def State.tooHot (s : State) (da : Nat) : Bool :=
  if daSpace da = 4 then !s.mayWrite da 32
  else if 2 ≤ daSpace da then (s.daSite da).any (fun i => Tbl.get false s.mem.hot i) else false

/-- Write a word as its decoder corrected it: a right correction removes the error, a wrong one leaves the miscorrected data under good
check symbols; bytes that an open entry will write stay as merged (R196, R207). -/
def correctWord (s : State) (w : Nat) : State :=
  let err := Tbl.get [] s.mem.flaws w
  match decodeWord err with
  | .corrected p v =>
    let seen := seenWord (s.bytesAt w 32) (fixWord err (.corrected p v))
    let data := match s.mem.merges.find? (fun e => e.word = w) with
      | some e => fillWord s e seen
      | none => seen
    { s with mem := { s.mem with bytes := Tbl.setMany 0 s.mem.bytes w data, flaws := Tbl.erase s.mem.flaws w } }
  | _ => s

/-- Write a byte as its decoder corrected it (R199, R207). -/
def correctByte (s : State) (a : Nat) : State :=
  let e := Tbl.get 0 s.mem.byteFlaws a
  match decodeByte e with
  | .corrected p v =>
    { s with mem := { s.mem with
      bytes := Tbl.set 0 s.mem.bytes a (s.byte a ^^^ BitVec.ofNat 8 ((fixByte e (.corrected p v)).toNat % 256))
      byteFlaws := Tbl.erase s.mem.byteFlaws a } }
  | _ => s

/-- `WRITE_BACK`: the queued write-back of a unit is written, as corrected, or is cancelled and counted while the
store may not be written (R207, R208). The Canopy and the plots count write-backs (Table 7.10). -/
def execWriteBack (da : Dword) (s : State) : Out :=
  let a := da.toNat
  if !s.mem.writeBacks.contains a then .next s
  else if s.tooHot a then .next (cancelBacks s a (a + 1))
  else
    let s := { s with mem := { s.mem with writeBacks := s.mem.writeBacks.filter (· ≠ a) } }
    let s := if isDram a then correctWord s a else correctByte s a
    .next (if daSpace a = 1 || daSpace a = 2 then s.modErr (s.daSite a) (fun e => { e with wb := satAdd e.wb 1 }) else s)

/-! ## Host memory commands (R191, R213, R383) -/

/-- The regions of an Orangery range of which one is in bank mode, but for a window access. -/
def State.bankOwned (s : State) (window : Bool) (da n : Nat) : Bool :=
  daSpace da = 4 && (regionsOf da n).any (fun r => (s.region (daUnit da) r).banked)
    && !(window && s.isWindow da && bits da 25 0 + n ≤ 0x20000)

/-- The status with which a memory command is refused before any byte moves, 0 for none (Table 6.6, R247, R255, R383). -/
def memStatus (s : State) (write window : Bool) (da n : Nat) : Nat :=
  if 4 < daSpace da then 0x23
  else if !s.unitPresent (daSpace da) (daUnit da) then 0x21
  else if spaceSize (daSpace da) < daOfs da + n then 0x22
  else if write && (s.claimed da n || s.svOwned da n) then 0x24
  else if s.bankOwned window da n then 0x25
  else if daSpace da = 4 && (regionsOf da n).any (fun r => (s.region (daUnit da) r).st = .unmapped) then 0x26
  else if daSpace da ≤ 2 && s.absorbs (daUnit da) then 0x08
  else if s.unreachable 0x398 da then 0x07
  else 0

/-- What a refusal leaves: a request that a core in reset absorbs, or that a failed port link drops, is counted (R247, R249). -/
def memRefused (s : State) (da st : Nat) : State :=
  if st = 0x08 then
    match s.daSite da with
    | some i => s.modRouter i (fun r => { r with absorb := satAdd r.absorb 1 })
    | none => s
  else if st = 0x07 then
    s.modRouter (((s.endpoint da).bind (s.cutAt 0x398)).elim 890 routerBlock) (fun r => { r with drop := satAdd r.drop 1 })
  else s

/-- The command names a core whose row's map is being updated (R235). -/
def State.namesBusyRow (s : State) (da : Nat) : Bool := (daSpace da ≤ 2 || daSpace da = 8) && s.mapBusy (daUnit da)

/-- Carry out a memory command once its range is checked and its store may be reached. -/
def memCommand (s : State) (write window : Bool) (da n : Nat) (act : State → Act) : Act :=
  if s.namesBusyRow da then .wait
  else
    match memStatus s write window da n with
    | 0 =>
      match if write then orgWriteRange s da n else orgAccessRange s da n with
      | .wait t => .waits t
      | _ => if (write && !s.mayWrite da n) || s.reachHeld 0x398 da then .wait else act (touchStore s da)
    | st => .status (memRefused s da st) st

/-- The offset of the first word of a range that a narrow write meets poisoned or uncorrectable (R203, R213). -/
def narrowPoison (s : State) (da n : Nat) : Option Nat :=
  if !isDram da || s.isWindow da then none
  else ((wordsOf da n).find? (fun w => wordMask w da n ≠ BitVec.allOnes 32 &&
    (match decodeWord (Tbl.get [] s.mem.flaws w) with
     | .uncorrectable => true
     | .poisoned => true
     | _ => false))).map (fun w => max w da - da)

/-- The DA of a memory command. -/
def memDa (ps : List Byte) : Nat := leField ps 0 7
/-- Its length. -/
def memLen (ps : List Byte) : Nat := leField ps 8 11

/-- The kind of a memory command. -/
def memKind (write : Bool) (buf : List Byte → DataBuf) : CmdKind :=
  { CmdKind.basic false false [12] (fun ps => 2 ^ 56 ≤ memDa ps) (fun ps => 1 ≤ memLen ps && memLen ps ≤ 2 ^ 30) with
    buf := buf
    foot := fun _ ps => [{ da := memDa ps, len := memLen ps, write := write }] }

/-- No offset, in `RESULT0`. -/
def noOffset : Nat := 2 ^ 64 - 1

/-- `MEM_READ`: the bytes reach the host buffer, bad units as zero, with the offset of the first bad unit (R213). -/
def execMemRead (q : BitVec 16) (e : Entry) (s : State) : Out :=
  hostRun (.memRead q e) (memKind false (fun ps => .output (memLen ps))) q e s (fun c s =>
    let da := memDa c.ps
    let n := memLen c.ps
    memCommand s false true da n (fun s =>
      let f := orgRead s 4 none da n
      if f.st.hostFails c.daddr n then .status f.st 0x0C
      else
        let s := f.st.hostPut c.daddr (List.zipWith (fun (b : Byte) bad => if bad then 0 else b) f.bytes f.bad)
        match f.bad.findIdx? id with
        | some k => .done s 0x27 false k 0
        | none => .done s 0 false noOffset 0))

/-- `MEM_WRITE`: the bytes of the host buffer are written; a narrow write into a poisoned word leaves it poisoned (R213). -/
def execMemWrite (q : BitVec 16) (e : Entry) (s : State) : Out :=
  hostRun (.memWrite q e) (memKind true (fun ps => .input (memLen ps))) q e s (fun c s =>
    let da := memDa c.ps
    memCommand s true true da (memLen c.ps) (fun s =>
      let t := orgWrite s none da c.data []
      match narrowPoison s da (memLen c.ps) with
      | some k => .done t 0x27 false k 0
      | none => .done t 0 false noOffset 0))

/-- `MEM_CLEAR`: whole lines by valid map, the bytes of partial lines as written zeros (R206, R383). -/
def execMemClear (q : BitVec 16) (e : Entry) (s : State) : Out :=
  hostRun (.memClear q e) (memKind true (fun _ => .none)) q e s (fun c s =>
    let da := memDa c.ps
    let n := memLen c.ps
    memCommand s true false da n (fun s =>
      .status (memClear s none da n) (if (narrowPoison s da n).any (fun k =>
        !((da + 63) / 64 * 64 ≤ da + k && da + k < (da + n) / 64 * 64)) then 0x27 else 0)))

/-! ## Control accesses (R174, R379, R383, R524 to R526) -/

/-- The status with which a control access is refused, 0 for none (Table 6.6, R174, R524). -/
def ctrlStatus (s : State) (da : Nat) : Nat :=
  if daSpace da ≠ 8 then 0x23
  else if !s.unitPresent 8 (daUnit da) then 0x21
  else if daOfs da % 4 ≠ 0 || (if daUnit da = 0xFFF then 0x30000 else 0x1000) ≤ daOfs da then 0x22
  else 0

/-- Read a control word for a requester. -/
def ctrlRead (s : State) (who unit ofs : Nat) : Word × State :=
  if unit = 0xFFF then readWindow s who ofs else readCore s who unit ofs

/-- Write a control word, and say whether a field was ignored. -/
def ctrlWrite (s : State) (expert : Bool) (unit ofs : Nat) (v : Word) : State × Bool :=
  if unit = 0xFFF then writeWindow s expert ofs v else writeCore s expert unit ofs v

/-- The kind of a control command. -/
def ctrlKind (plen : Nat) (write : Bool) : CmdKind :=
  { CmdKind.basic false true [plen] (fun ps => 2 ^ 56 ≤ memDa ps) (fun _ => true) with
    foot := fun _ ps => [{ da := memDa ps, len := 4, write := write }] }

/-- The endpoint of a control space: the core's site, or the Kiosk for the window. -/
def State.ctrlEnd (s : State) (da : Nat) : Option Nat := if daUnit da = 0xFFF then some 0x399 else s.siteOf (daUnit da)

/-- Carry out a control access of the host, once no retune holds its route and unless a failed link drops its packets (R43, R235, R247). -/
def ctrlCommand (s : State) (da : Nat) (act : Act) : Act :=
  if s.namesBusyRow da then .wait
  else
    match ctrlStatus s da with
    | 0 =>
      match (s.ctrlEnd da).bind (s.cutAt 0x398) with
      | some b => .status (s.modRouter (routerBlock b) (fun r => { r with drop := satAdd r.drop 1 })) 0x07
      | none => if (s.ctrlEnd da).any (s.routeHeld 0x398) then .wait else act
    | st => .status s st

/-- `CTRL_READ` (R383). -/
def execCtrlRead (q : BitVec 16) (e : Entry) (s : State) : Out :=
  hostRun (.ctrlRead q e) (ctrlKind 8 false) q e s (fun c s =>
    let da := memDa c.ps
    ctrlCommand s da (let r := ctrlRead s q.toNat (daUnit da) (daOfs da); .done r.2 0 false r.1.toNat 0))

/-- `CTRL_WRITE` (R383). -/
def execCtrlWrite (q : BitVec 16) (e : Entry) (s : State) : Out :=
  hostRun (.ctrlWrite q e) (ctrlKind 12 true) q e s (fun c s =>
    let da := memDa c.ps
    ctrlCommand s da (let r := ctrlWrite s c.expert (daUnit da) (daOfs da) (BitVec.ofNat 32 (leField c.ps 8 11)); .done r.1 0 r.2 0 0))

/-- The DA of a control packet at its endpoint: the core of a site, or the Kiosk's window (R174, R524). -/
def State.ctrlDa (s : State) (dst : BitVec 10) (ofs : BitVec 18) : Option Nat :=
  if dst = 0x399 then some (mkDa 8 0xFFF ofs.toNat)
  else if dst.toNat < 880 then (s.lcOf dst.toNat).map (fun lc => mkDa 8 lc ofs.toNat)
  else none

/-- The endpoint that sent a control packet: the PCIe controller for a host queue, else the Kiosk. -/
def ctrlSource (queue : Option (BitVec 16)) : Nat := if queue.isSome then 0x398 else 0x399

/-- Answer a control packet. -/
def ctrlAnswer (s : State) (dst : BitVec 10) (tag : Byte) (queue : Option (BitVec 16)) (kind : RspKind) : State :=
  sendRsp s { dst := ctrlSource queue, src := dst.toNat, tag := tag.toNat, kind := kind, data := [], stale := false }

/-- `CREAD`: a control read reaches its endpoint and is answered, in reset too; one dropped or held on its way does not
arrive (R228, R247, R481). -/
def execCread (dst : BitVec 10) (tag : Byte) (queue : Option (BitVec 16)) (ofs : BitVec 18) (s : State) : Out :=
  if s.stuck (ctrlSource queue) dst.toNat then .next s
  else match s.ctrlDa dst ofs with
  | none => .next (ctrlAnswer s dst tag queue (.rerr 0x21))
  | some da =>
    match ctrlStatus s da with
    | 0 => let r := ctrlRead s ((queue.map (·.toNat)).getD kioskReader) (daUnit da) (daOfs da)
           .next (ctrlAnswer r.2 dst tag queue (.cresp r.1))
    | st => .next (ctrlAnswer s dst tag queue (.rerr st))

/-- `CWRITE`: a control write reaches its endpoint and is applied and answered, in reset too (R228, R481). The response
carries the ignored bit as its value. -/
def execCwrite (dst : BitVec 10) (tag : Byte) (queue : Option (BitVec 16)) (ofs : BitVec 18) (v : Word) (s : State) : Out :=
  if s.stuck (ctrlSource queue) dst.toNat then .next s
  else match s.ctrlDa dst ofs with
  | none => .next (ctrlAnswer s dst tag queue (.rerr 0x21))
  | some da =>
    match ctrlStatus s da with
    | 0 => let r := ctrlWrite s (queue.any (fun q => s.expertQueue q.toNat)) (daUnit da) (daOfs da) v
           .next (ctrlAnswer r.1 dst tag queue (.cresp (BitVec.ofNat 32 (b2n r.2))))
    | st => .next (ctrlAnswer s dst tag queue (.rerr st))

/-! ## Broadcast commands and route queries (R232, R240) -/

/-- `BCMD`: a command broadcast arrives. Pause duties, clock targets and limits are what the part's control loops hold, so
those broadcasts bring nothing new; a retune request asks the named bundle's sites in the target set (R240, R42). -/
def execBcmd (t : Target) (b : Bcmd) (s : State) : Out :=
  let s := broadcast s
  match b with
  | .pause => .next s
  | .clock => .next s
  | .cap => .next s
  | .retune seam pos =>
    .next (if (s.targetSites t).any (fun i => i % 220 = pos.val && s.heedsBcmd i) then askRetune s seam pos else s)

/-- `ROUTE_QUERY`: lane and hop count of a route (R232). -/
def execRouteQuery (q : BitVec 16) (e : Entry) (s : State) : Out :=
  let k := CmdKind.basic false false [4] (fun _ => false)
    (fun ps => isEndpoint (leField ps 0 1) && isEndpoint (leField ps 2 3))
  hostRun (.routeQuery q e) k q e s (fun c s =>
    let a := leField c.ps 0 1
    let b := leField c.ps 2 3
    if !s.inGraph a || !s.inGraph b then .status s 0x21
    else let r := s.route a b
         .done s 0 false (r.1 + 256 * (r.2 % 256)) 0)

end Sys2Proof.Machine
end

