-- ==== Sys2Proof/Machine/OrgCmds.lean ====
section
/-! DEFINITION. The host's Orangery commands ("Host interface and command packets" R386; "Memory tiers, addressing and movers"
R168 to R171; "Orangery stacks and near-bank processing" R258 to R262). -/

namespace Sys2Proof.Machine

/-- Stack and region of an Orangery command. -/
def orgStackOf (ps : List Byte) : Nat := leField ps 0 0
/-- Its region. -/
def orgRegionOf (ps : List Byte) : Nat := leField ps 2 3
/-- Stack and region lie in their ranges (Table 6.4, R167). -/
def orgNamed (ps : List Byte) : Bool := orgStackOf ps < 6 && orgRegionOf ps < 16384

/-- A loaded job claims the region (R536). -/
def State.regionClaimed (s : State) (k r : Nat) : Bool := s.jobs.any (fun j => (j.orgClaim k r).isSome)

/-- A compare window is bound in the region (R320). -/
def State.regionCompared (s : State) (k r : Nat) : Bool := s.trn.any (fun e => e.2.hasWindow && e.2.stack = k && e.2.region = r)

/-- `ORG_MAP`: an `UNMAPPED` region takes the lowest-numbered free frame and reads zero, or is mapped as spilled without a
recorded CRC-64 (R168, R386). -/
def execOrgMap (q : BitVec 16) (e : Entry) (s : State) : Out :=
  let k := CmdKind.basic true false [16] (fun ps => leField ps 4 7 ≠ 0) (fun ps => orgNamed ps && leField ps 1 1 < 2
    && (if leField ps 1 1 = 0 then leField ps 8 15 = 0 else leField ps 8 15 % 4096 = 0))
  hostRun (.orgMap q e) k q e s (fun c s =>
    let k := orgStackOf c.ps
    let r := orgRegionOf c.ps
    if (s.region k r).st ≠ .unmapped then .status s 0x29
    else if leField c.ps 1 1 = 1 then
      .done (s.modRegion k r (fun x => { x with st := .spilled, buf := leField c.ps 8 15, crc := none, poison := false })) 0 false 0xFFFF 0
    else
      match (s.stack k).freeFrame with
      | none => .status s 0x28
      | some f =>
        .done ((dropRegion s k r).modRegion k r (fun x => { x with st := .resident, frame := f, crc := none, poison := false })) 0 false f 0)

/-- `ORG_UNMAP`: frees the region's frame, after a page-in or page-out that runs (R168, R386). -/
def execOrgUnmap (q : BitVec 16) (e : Entry) (s : State) : Out :=
  let k := CmdKind.basic true false [4] (fun ps => leField ps 1 1 ≠ 0) orgNamed
  hostRun (.orgUnmap q e) k q e s (fun c s =>
    let k := orgStackOf c.ps
    let r := orgRegionOf c.ps
    let g := s.region k r
    if g.st = .unmapped then .status s 0x29
    else if s.regionClaimed k r || s.regionCompared k r then .status s 0x24
    else if g.banked then .status s 0x25
    else if g.st = .pageIn || g.st = .pageOut then .wait
    else
      let s := dropRegion (closeRegion s k r) k r
      let s := s.modRegion k r (fun x => { x with st := .unmapped, frame := 0, buf := 0, crc := none, poison := false, cmd := [] })
      let s := s.modStack k (fun t => { t with waitIn := t.waitIn.filter (· ≠ r) })
      -- a page-in command that waited for a frame finds no region to page in
      .status (frameFreed (completeAll s g.cmd 0x29 0) k) 0)

/-- `ORG_PAGE_OUT`: a `RESIDENT` and `NORMAL` region without a compare window starts its page-out (R169, R320, R386). -/
def execOrgPageOut (q : BitVec 16) (e : Entry) (s : State) : Out :=
  let k := CmdKind.basic true false [16] (fun ps => leField ps 1 1 ≠ 0 || leField ps 4 7 ≠ 0)
    (fun ps => orgNamed ps && leField ps 8 15 % 4096 = 0)
  hostRun (.orgPageOut q e) k q e s (fun c s =>
    let k := orgStackOf c.ps
    let r := orgRegionOf c.ps
    let g := s.region k r
    if g.st ≠ .resident then .status s 0x29
    else if g.banked then .status s 0x25
    else if s.regionCompared k r then .status s 0x24
    else .later (s.modRegion k r (fun x => { x with st := .pageOut, buf := leField c.ps 8 15, cmd := [c.ref] })))

/-- `ORG_PAGE_IN`: a `SPILLED` region is paged in, waiting for a frame where none is free (R170, R386). -/
def execOrgPageIn (q : BitVec 16) (e : Entry) (s : State) : Out :=
  let k := CmdKind.basic true false [4] (fun ps => leField ps 1 1 ≠ 0) orgNamed
  hostRun (.orgPageIn q e) k q e s (fun c s =>
    let k := orgStackOf c.ps
    let r := orgRegionOf c.ps
    if (s.region k r).st ≠ .spilled then .status s 0x29
    else .later ((startPageIn s k r).modRegion k r (fun x => { x with cmd := x.cmd ++ [c.ref] })))

/-- The holder that a `BANK_ENTER` names. -/
def enterHolder (ps : List Byte) : Holder := if leField ps 1 1 = 0 then .host else .job (leField ps 6 6)

/-- The holder may not take the region: a loaded job keeps its claims until its teardown (Table 9.2, R320, R536). -/
def enterDenied (s : State) (k r : Nat) (h : Holder) : Bool :=
  s.regionCompared k r ||
  (match h with
   | .host => s.regionClaimed k r
   | .job n =>
     match (s.jobAt n).bind (fun j => j.orgClaim k r) with
     | none => true
     | some c => !bit c.flags 1 || s.jobs.any (fun j => j.node ≠ n && (j.orgClaim k r).isSome))

/-- `BANK_ENTER`: the entry into bank mode begins (R258, R259, Table 9.2). -/
def execBankEnter (q : BitVec 16) (e : Entry) (s : State) : Out :=
  let k := CmdKind.basic true false [8] (fun ps => leField ps 7 7 ≠ 0)
    (fun ps => orgNamed ps && leField ps 1 1 < 2 && leField ps 4 5 < 512
      && (if leField ps 1 1 = 0 then leField ps 6 6 = 0 else leField ps 6 6 < 64))
  hostRun (.bankEnter q e) k q e s (fun c s =>
    let k := orgStackOf c.ps
    let r := orgRegionOf c.ps
    let g := s.region k r
    let h := enterHolder c.ps
    let handle := leField c.ps 4 5
    if g.st ≠ .resident || g.banked then .status s 0x2C
    else if (s.stack k).holder.any (· ≠ h) then .status s 0x2D
    else if (s.stack k).regions.any (fun e => e.2.banked && e.2.handle = handle) then .status s 0x2E
    else if enterDenied s k r h then .status s 0x2F
    else .later (s.modRegion k r (fun x => { x with bank := .entering, handle := handle, holder := h, cmd := [c.ref] })))

/-- `BANK_RELEASE`: the release of a region in bank mode begins, with `ABORT` stopping the stack's units (R262, R386). -/
def execBankRelease (q : BitVec 16) (e : Entry) (s : State) : Out :=
  let k := CmdKind.basic true false [4] (fun ps => 2 ≤ leField ps 1 1) orgNamed
  hostRun (.bankRelease q e) k q e s (fun c s =>
    let k := orgStackOf c.ps
    let r := orgRegionOf c.ps
    if (s.region k r).bank ≠ .bank then .status s 0x29
    else .later (startRelease s k r (leField c.ps 1 1 = 1) none [c.ref]))

end Sys2Proof.Machine
end

