-- ==== Sys2Proof/Machine/RowUnit.lean ====
section
/-! DEFINITION. Row units: their operations on planes, scalars and rows ("Orangery stacks and near-bank processing", R275
to R278, Table 9.9). -/

namespace Sys2Proof.Machine

/-! ## Planes, scalars, rows (R275) -/

/-- Plane `p`; plane 8 is the carry plane. -/
def BUnit.plane (x : BUnit) (p : Nat) : BitVec 8192 := Tbl.get 0 x.planes p

/-- A unit with a plane written. -/
def BUnit.setPlane (x : BUnit) (p : Nat) (v : BitVec 8192) : BUnit := { x with planes := Tbl.set 0 x.planes p v }

/-- The carry plane `pc`. -/
def BUnit.carry (x : BUnit) : BitVec 8192 := x.plane 8

/-- Scalar register `r`. -/
def BUnit.scalar (x : BUnit) (r : Nat) : Word := Tbl.get 0 x.scalars r

/-- A unit with a scalar register written. -/
def BUnit.setScalar (x : BUnit) (r : Nat) (v : Word) : BUnit := { x with scalars := Tbl.set 0 x.scalars r v }

/-- DA of the row `j` rows after the one at a row address (R275). -/
def rowDa (s : State) (u : RowUnit) (a : Word) (j : Nat) : Option Nat :=
  if fld a 31 20 ≠ 0 then none
  else ((s.stack u.stack).bound (fld a 19 11)).map (fun r =>
    regionDa u.stack r ((fld a 5 0 + j) * 2 ^ 20 + fld a 10 6 * 2 ^ 15 + u.ch.val * 2 ^ 10))

/-! ## Rows and scalars -/

/-- `NOP`. -/
def execRuNop (u : RowUnit) (s : State) : Out := unitLocal (.ruNop u) u.stack u.num s id

/-- `RLD`: plane `D` ← row at `sA`. -/
def execRuRld (u : RowUnit) (d : Fin 8) (a : Fin 16) (s : State) : Out :=
  unitRun (.ruRld u d a) u.stack u.num s (fun x =>
    match rowDa s u (x.scalar a) 0 with
    | none => .fail s 2 (x.scalar a)
    | some da => unitRow s u.stack u.num da (fun s =>
      let f := memFetch s 6 (s.holderCore u.stack) da 1024
      if f.bad.any id then .fail f.st 1 (x.scalar a)
      else .ok f.st (x.setPlane d (BitVec.ofNat 8192 (leNat f.bytes))) none))

/-- `RST`: row at `sA` ← plane `B`; waits while the die is too hot. -/
def execRuRst (u : RowUnit) (a : Fin 16) (b : Fin 8) (s : State) : Out :=
  unitRun (.ruRst u a b) u.stack u.num s (fun x =>
    match rowDa s u (x.scalar a) 0 with
    | none => .fail s 2 (x.scalar a)
    | some da =>
      if dieHot s u.stack u.ch then .wait (countHot s u.stack x) .hot
      else unitRow s u.stack u.num da (fun s => .ok (memWrite s none da (leBytes 1024 (x.plane b).toNat)) x none))

/-- `SLDI`. -/
def execRuSldi (u : RowUnit) (d : Fin 16) (imm : BitVec 22) (s : State) : Out :=
  unitLocal (.ruSldi u d imm) u.stack u.num s (fun x => x.setScalar d (imm.setWidth 32))

/-- `SADD`. -/
def execRuSadd (u : RowUnit) (d a b : Fin 16) (s : State) : Out :=
  unitLocal (.ruSadd u d a b) u.stack u.num s (fun x => x.setScalar d (x.scalar a + x.scalar b))

/-- `SADDI`. -/
def execRuSaddi (u : RowUnit) (d a : Fin 16) (imm : BitVec 10) (s : State) : Out :=
  unitLocal (.ruSaddi u d a imm) u.stack u.num s (fun x => x.setScalar d (x.scalar a + imm.signExtend 32))

/-- `LOOP`. -/
def execRuLoop (u : RowUnit) (a : Fin 16) (imm : BitVec 10) (s : State) : Out :=
  unitRun (.ruLoop u a imm) u.stack u.num s (fun x =>
    let n := x.scalar a - 1
    .ok s (x.setScalar a n) (if n = 0 then none else some imm.toInt))

/-- `BR`. -/
def execRuBr (u : RowUnit) (imm : BitVec 10) (s : State) : Out :=
  unitRun (.ruBr u imm) u.stack u.num s (fun x => .ok s x (some imm.toInt))

/-- `END`. -/
def execRuEnd (u : RowUnit) (s : State) : Out := unitRun (.ruEnd u) u.stack u.num s (fun _ => .done s)

/-! ## Planes -/

/-- `AND`. -/
def execRuAnd (u : RowUnit) (d a b : Fin 8) (s : State) : Out :=
  unitLocal (.ruAnd u d a b) u.stack u.num s (fun x => x.setPlane d (x.plane a &&& x.plane b))

/-- `OR`. -/
def execRuOr (u : RowUnit) (d a b : Fin 8) (s : State) : Out :=
  unitLocal (.ruOr u d a b) u.stack u.num s (fun x => x.setPlane d (x.plane a ||| x.plane b))

/-- `XOR`. -/
def execRuXor (u : RowUnit) (d a b : Fin 8) (s : State) : Out :=
  unitLocal (.ruXor u d a b) u.stack u.num s (fun x => x.setPlane d (x.plane a ^^^ x.plane b))

/-- `ANDN`: `A` and not `B`. -/
def execRuAndn (u : RowUnit) (d a b : Fin 8) (s : State) : Out :=
  unitLocal (.ruAndn u d a b) u.stack u.num s (fun x => x.setPlane d (x.plane a &&& ~~~(x.plane b)))

/-- `MUX`: (`A` and `C`) or (`B` and not `C`). -/
def execRuMux (u : RowUnit) (d a b c : Fin 8) (s : State) : Out :=
  unitLocal (.ruMux u d a b c) u.stack u.num s (fun x =>
    x.setPlane d ((x.plane a &&& x.plane c) ||| (x.plane b &&& ~~~(x.plane c))))

/-- `NOT`. -/
def execRuNot (u : RowUnit) (d a : Fin 8) (s : State) : Out :=
  unitLocal (.ruNot u d a) u.stack u.num s (fun x => x.setPlane d (~~~(x.plane a)))

/-- `FA`: sum and carry of `A`, `B` and `pc`. -/
def execRuFa (u : RowUnit) (d a b : Fin 8) (s : State) : Out :=
  unitLocal (.ruFa u d a b) u.stack u.num s (fun x =>
    let p := x.plane a
    let q := x.plane b
    let c := x.carry
    (x.setPlane d (p ^^^ q ^^^ c)).setPlane 8 ((p &&& q) ||| (p &&& c) ||| (q &&& c)))

/-- `CCLR`. -/
def execRuCclr (u : RowUnit) (s : State) : Out := unitLocal (.ruCclr u) u.stack u.num s (fun x => x.setPlane 8 0)

/-- `CSET`. -/
def execRuCset (u : RowUnit) (s : State) : Out :=
  unitLocal (.ruCset u) u.stack u.num s (fun x => x.setPlane 8 (BitVec.allOnes 8192))

/-- The number of ones of a plane. -/
def popCount (v : BitVec 8192) : Nat := (leBytes 1024 v.toNat).foldl (fun n b =>
  n + ((List.range 8).filter (fun i => b.getLsbD i)).length) 0

/-- `POPC`. -/
def execRuPopc (u : RowUnit) (d : Fin 16) (a : Fin 8) (s : State) : Out :=
  unitLocal (.ruPopc u d a) u.stack u.num s (fun x => x.setScalar d (BitVec.ofNat 32 (popCount (x.plane a))))

/-- `ANYS`. -/
def execRuAnys (u : RowUnit) (d : Fin 16) (a : Fin 8) (s : State) : Out :=
  unitLocal (.ruAnys u d a) u.stack u.num s (fun x => x.setScalar d (if x.plane a = 0 then 0 else 1))

/-! ## Transposition (R277) -/

/-- Binary32 values in ordinary order as 32 transposed rows: bit k of element e in bit e of row k. -/
def transposeIn (bs : List Byte) : List Byte :=
  let ws := (List.range 8192).map (fun e => leField bs (4 * e) (4 * e + 3))
  (List.range 32).flatMap (fun k => leBytes 1024 (ws.foldr (fun w a => b2n (bit w k) + 2 * a) 0))

/-- The inverse of `transposeIn`. -/
def transposeOut (bs : List Byte) : List Byte :=
  let rows := (List.range 32).map (fun k => leNat ((bs.drop (1024 * k)).take 1024))
  (List.range 8192).flatMap (fun e => leBytes 4 (rows.foldr (fun r a => b2n (bit r e) + 2 * a) 0))

/-- The 32 rows from an address, in ascending row order. -/
def unitRows (s : State) (u : RowUnit) (a : Word) : Option (List Nat) := (List.range 32).mapM (rowDa s u a)

/-- Two row addresses name the same bank and handle and overlapping blocks of 32 rows. -/
def rowBlocksMeet (a b : Word) : Bool :=
  fld a 19 6 = fld b 19 6 && fld a 5 0 < fld b 5 0 + 32 && fld b 5 0 < fld a 5 0 + 32

/-- Read 32 rows, transform, write 32 rows; bad addresses stop the unit (R276, R277, R281). -/
def transposeRows (i : Instr) (u : RowUnit) (a b : Fin 16) (s : State) (f : List Byte → List Byte) : Out :=
  unitRun i u.stack u.num s (fun x =>
    let sa := x.scalar a
    let sb := x.scalar b
    match unitRows s u sa, unitRows s u sb with
    | some ra, some rb =>
      if fld sa 5 0 % 32 ≠ 0 || rowBlocksMeet sa sb then .fail s 2 sa
      else if fld sb 5 0 % 32 ≠ 0 then .fail s 2 sb
      else if dieHot s u.stack u.ch then .wait (countHot s u.stack x) .hot
      else unitRow s u.stack u.num (ra.headD 0) (fun s => unitRow s u.stack u.num (rb.headD 0) (fun s =>
        let r := ra.foldl (fun (acc : List Byte × Bool × State) da =>
          let g := memFetch acc.2.2 6 (s.holderCore u.stack) da 1024
          (acc.1 ++ g.bytes, acc.2.1 || g.bad.any id, g.st)) ([], false, s)
        if r.2.1 then .fail r.2.2 1 sa
        else
          let out := f r.1
          let s := (ra ++ rb).foldl (fun s da => s.openRows da 1024) r.2.2
          .ok (rb.zipIdx.foldl (fun s e => memWrite s none e.1 ((out.drop (1024 * e.2)).take 1024)) s) x none))
    | none, _ => .fail s 2 sa
    | _, none => .fail s 2 sb)

/-- `TRIN`. -/
def execRuTrin (u : RowUnit) (a b : Fin 16) (s : State) : Out := transposeRows (.ruTrin u a b) u a b s transposeIn

/-- `TROUT`. -/
def execRuTrout (u : RowUnit) (a b : Fin 16) (s : State) : Out := transposeRows (.ruTrout u a b) u a b s transposeOut

/-! ## CRC and mailbox (R276, R278) -/

/-- `CRC`: `sD` (low) and `sD` + 1 (high), the CRC-64 state, advanced over a row; `D` is 2d. -/
def execRuCrc (u : RowUnit) (d : Fin 8) (a : Fin 16) (s : State) : Out :=
  unitRun (.ruCrc u d a) u.stack u.num s (fun x =>
    match rowDa s u (x.scalar a) 0 with
    | none => .fail s 2 (x.scalar a)
    | some da => unitRow s u.stack u.num da (fun s =>
      let f := memFetch s 6 (s.holderCore u.stack) da 1024
      if f.bad.any id then .fail f.st 1 (x.scalar a)
      else
        let lo := 2 * d.val
        let c := crc64From ((x.scalar lo).toNat + 2 ^ 32 * (x.scalar (lo + 1)).toNat) f.bytes
        .ok f.st ((x.setScalar lo (BitVec.ofNat 32 c)).setScalar (lo + 1) (BitVec.ofNat 32 (c / 2 ^ 32))) none))

/-- `PUT`: mailbox ← `s0` to `s7`. -/
def execRuPut (u : RowUnit) (s : State) : Out :=
  unitLocal (.ruPut u) u.stack u.num s (fun x =>
    { x with mailbox := joinLanes 32 ((List.range 8).map (fun i => (x.scalar i).toNat)) })

end Sys2Proof.Machine
end

