-- ==== Sys2Proof/Machine/Refresh.lean ====
section
/-! DEFINITION. Refreshes of the Orangery's banks ("Orangery stacks and near-bank processing" R279). -/

namespace Sys2Proof.Machine

/-- The row addresses of the next instruction of a row unit, where it accesses rows. -/
def BUnit.nextRows (x : BUnit) (k : Fin 6) (u : Nat) : List Word :=
  match decodeRow { stack := k, ch := Fin.ofNat 32 (u / 32), hi := u % 32 = 31 } (Tbl.get 0 x.store x.pc) with
  | some (.ruRld _ _ a) => [x.scalar a]
  | some (.ruRst _ a _) => [x.scalar a]
  | some (.ruCrc _ _ a) => [x.scalar a]
  | some (.ruTrin _ a b) => [x.scalar a, x.scalar b]
  | some (.ruTrout _ a b) => [x.scalar a, x.scalar b]
  | _ => []

/-- The running units that a refresh of a bank concerns: the bank's own, and the row units of its channel that are about to access it
(R275, R279). -/
def refreshUsers (t : Stack) (k : Fin 6) (b : Nat) : List Nat :=
  (if isRowUnit b || (t.unit b).quiet then [] else [b]) ++
  ([30, 31].map (fun i => b / 32 * 32 + i)).filter (fun u =>
    !(t.unit u).quiet && ((t.unit u).nextRows k u).any (fun a => fld a 10 6 = b % 32))

/-- `REFRESH`: a refresh of bank `bk` of channel 2 × `die` + `half` falls due. With no unit running on the bank it runs, and those owed
with it. Else it waits for the unit's next access, which postpones it or suspends the unit (`unitRow`); with four waiting, the unit is
suspended now until all five have run (R279). Its timer starts again, in a retention hold with the longer interval (R465). -/
def execRefresh (stack : Fin 6) (die : Fin 16) (half : Fin 2) (bk : Fin 32) (s : State) : Out :=
  let k := stack.val
  let b := 32 * (2 * die.val + half.val) + bk.val
  let s := refreshDue s (880 + 1024 * k + b) (s.dieInterval k die) (s.pointRuling (1224 + 16 * k + die.val))
  let t := s.stack k
  let us := refreshUsers t stack b
  if us = [] then .next (s.modStack k (fun t => t.refreshed b))
  else if t.pendingRefresh b < 4 then .next (s.modStack k (fun t => { t with due := Tbl.modify 0 t.due b (· + 1) }))
  else
    let s := s.modStack k (fun t => { t.refreshed b with refForce := satAdd t.refForce 1 })
    .next (us.foldl (fun s u => s.modUnit k u (fun x => { x with refLeft := 50 * (t.pendingRefresh b + 1) })) s)

end Sys2Proof.Machine
end

