-- ==== Sys2Proof/Machine/ResetCmds.lean ====
section
/-! DEFINITION. Resets of a core, a cluster, a partition or the part ("Bring-up, sparing and reset" R477 to R485; "Host interface
and command packets" R390). -/

namespace Sys2Proof.Machine

/-- The logical cores of a partial reset: those of clusters that are not withdrawn (Table 16.6). -/
def State.scopeCores (s : State) (scope target : Nat) : List Nat :=
  (match scope with
   | 0 => [target]
   | 1 => (List.range 20).map (fun j => target * 20 + j)
   | _ => s.nodeCores target).filter (fun lc => !s.withdrawn (clusterOf lc))

/-- The clusters of a partial reset. -/
def State.scopeClusters (s : State) (scope target : Nat) : List Nat :=
  match scope with
  | 0 => [clusterOf target]
  | 1 => [target]
  | _ => s.nodeClusters target

/-- The nodes that read `BUSY` while a partial reset runs: the node, or those covering the scope (Table 16.8). -/
def State.scopeNodes (s : State) (scope target : Nat) : List Nat :=
  match scope with
  | 2 => [target]
  | n => s.nodeUp (s.clusterNode ((s.scopeClusters n target).headD 0))

/-- A job occupies a node whose cluster set meets the clusters. -/
def State.jobMeets (s : State) (j : Job) (cls : List Nat) : Bool := (s.nodeClusters j.node).any cls.contains

/-- The refusals of Table 16.6, 0 when there is none (R477). -/
def resetRefusal (s : State) (scope target : Nat) : Nat :=
  if scope = 2 then
    if !s.nodeValid target || s.jobs.any (fun j => j.isRunning && j.node ≠ target && (s.nodeUp target).contains j.node) then 0x09 else 0
  else if s.scopeCores scope target = [] then 0x21
  else if s.jobs.any (fun j => j.isRunning && s.jobMeets j (s.scopeClusters scope target)) then 0x0A
  else 0

/-- A partial reset waits: for a covered job's fault sequence, a power-up in the scope, or a map update of one of its rows
(R477, R235, Table 16.9). -/
def resetWaits (s : State) (scope target : Nat) : Bool :=
  let cls := s.scopeClusters scope target
  s.jobs.any (fun j => j.phase = .faulting && s.jobMeets j cls) ||
  ((s.scopeCores scope target).filterMap s.siteOf).any (fun i => (s.sitePwr i).dom = .powering) ||
  cls.any s.tr.updRows.contains

/-- A Xobex message or a collective instance of the node's job is in progress (Table 16.8). -/
def State.messagesOpen (s : State) (node : Nat) : Bool :=
  s.fab.send.any (fun e => e.2.msgs.any (fun m => m.node = some node)) ||
  s.fab.recv.any (fun e => e.2.msgs.any (fun m => m.node = some node)) ||
  s.fab.insts.any (fun i => (Tbl.get none s.fab.groups i.group).any (fun g => g.node = node))

/-- The part with the stage of its partial reset changed. -/
def State.resetStage (s : State) (st : ResetStage) : State := { s with rst := s.rst.map (fun r => { r with stage := st }) }

/-- r0: every powered core of the scope stops issue, its queued descriptors are discarded and counted, and the interfaces
begin to absorb (Table 16.8). -/
def resetR0 (s : State) (r : ResetRun) : State :=
  let lcs := r.cores.filter s.corePowered
  let n := (lcs.map (fun lc => ((List.range 4).map (fun m => ((s.core lc).mover m).queue.length)).sum)).sum
  let s := lcs.foldl (fun s lc => s.modCore lc (fun c =>
    { c.dropQueued with seq := { c.seq with stopped := true, running := false, gwaitLen := 0 } })) s
  { s with
    held := s.held.filter (fun i => !(slotCore i).any lcs.contains)
    boot := { s.boot with descDisc := satAdd s.boot.descDisc n }
    rst := some { r with stage := .draining, r0 := s.ticks } }

/-- Tear down the jobs of a list in order, each as far as it can go; whether all are gone. -/
def tearDownAll (s : State) : List Job → State × Bool
  | [] => (s, true)
  | j :: js =>
    if s.messagesOpen j.node then (s, false)
    else if (tearDown s j).2 then tearDownAll (tearDown s j).1 js else ((tearDown s j).1, false)

/-- A partial reset goes as far as r0 as it can now (Table 16.8). -/
def resetGo (s : State) (r : ResetRun) : Act :=
  match r.stage with
  | .halting =>
    if r.scope = 2 then
      if (s.jobsUnder r.target).any (·.isRunning) then .wait else .waits (s.resetStage .teardown)
    else .later (resetR0 s r)
  | .teardown =>
    let t := tearDownAll s (s.jobsUnder r.target)
    if t.2 then .later (resetR0 t.1 r) else .waits t.1
  | .draining => .wait

/-- The Kiosk takes a partial reset: its nodes read `BUSY`, and the running jobs of a node are halted (Table 16.8). -/
def resetBegin (s : State) (ref : CmdRef) (scope target : Nat) : State :=
  let live := if scope = 2 then (s.jobsUnder target).filter (·.isRunning) else []
  let r : ResetRun := {
    q := ref.q, id := ref.id, scope := scope, target := target, cores := s.scopeCores scope target, stage := .halting
    halted := live ≠ [], since := s.ticks, r0 := 0 }
  live.foldl (fun s j => beginHalt s j.node none) { s with busy := s.scopeNodes scope target, rst := some r }

/-- `RESET` (R477 to R479, R390). -/
def execResetCmd (q : BitVec 16) (e : Entry) (s : State) : Out :=
  let k : CmdKind := { CmdKind.basic true true [4] (fun ps => leField ps 1 1 ≠ 0)
      (fun ps => leField ps 0 0 = 3 || (leField ps 0 0 < 3 && leField ps 2 3 < [800, 40, 64].getD (leField ps 0 0) 0)) with
    kiosk := fun ps => leField ps 0 0 < 3 }
  hostRun (.resetCmd q e) k q e s (fun c s =>
    let scope := leField c.ps 0 0
    let target := leField c.ps 2 3
    if scope = 3 then .status { s with boot := { s.boot with scope3 := some s.us } } 0
    else if !s.boot.ready || s.boot.fatal then .status s 0x05
    else match s.rst with
      | some r => if r.q = c.ref.q && r.id = c.ref.id then resetGo s r else .wait
      | none =>
        if resetWaits s scope target then .wait
        else if resetRefusal s scope target ≠ 0 then .status s (resetRefusal s scope target)
        else .waits (resetBegin s c.ref scope target))

/-- A transfer of one of the cores is in progress. -/
def State.draining (s : State) (lcs : List Nat) : Bool :=
  lcs.any (fun lc => (List.range 4).any (fun m => ((s.core lc).mover m).active.isSome))

/-- The core domains of a partial reset take their reset values; a gated core is left as it is (Table 16.7, R478, R481). -/
def resetCores (s : State) (lcs : List Nat) : State :=
  let gates := (lcs.map (fun lc => ((s.core lc).seq.gates.map (fun g => g.2.toNat)).sum)).sum
  let sites := lcs.filterMap s.siteOf
  let s := lcs.foldl (fun s lc => clearUnit (s.setCore lc Core.init) 0 lc) s
  { s with
    boot := { s.boot with gateClr := satAdd s.boot.gateClr gates }
    tr := { s.tr with rsps := s.tr.rsps.map (fun p => if sites.contains p.dst then { p with stale := true } else p) } }

/-- `RESET_DRAIN_END`: nothing of the scope is outstanding, or 50 µs have passed since r0. Requests not sent are discarded, the
cores take their reset values, `BUSY` clears and the command completes (Table 16.8, R480, R481, Table 19.11). -/
def execResetDrainEnd (unsent : Half) (s : State) : Out :=
  match s.rst with
  | none => .next s
  | some r =>
    let dt := s.ticks - r.r0
    let active := s.draining r.cores
    if r.stage ≠ .draining || (active && dt < 80000) then .next s
    else
      let n := if active then unsent.toNat else 0
      let s := resetCores s (r.cores.filter s.corePowered)
      let s := { s with
        boot := { s.boot with discard := satAdd s.boot.discard n, partials := satAdd s.boot.partials 1 }
        mgmt := { s.mgmt with
          rstLast := BitVec.ofNat 32 (r.scope + 4 * r.target + 2 ^ 12 * b2n r.halted + 2 ^ 13 * b2n (0 < n) + 2 ^ 16 * min 500 (dt / 160))
          rstLastUs := (s.ticks - r.since) / 1600 }
        rst := none
        busy := [] }
      .next (completeCmd s { q := r.q, id := r.id } 0 false 0 0)

end Sys2Proof.Machine
end

