-- ==== Sys2Proof/Machine/Training.lean ====
section
/-! DEFINITION. The training bind, the export of shards and the localisation of a digest mismatch ("Training, gradients and
optimizer state" R320, R325 to R330). -/

namespace Sys2Proof.Machine

/-! ## Bind (R320) -/

/-- A completion word names a core and an increment of at least 1 (Table 11.3). -/
def trCmplOk (w : Nat) : Bool := bits w 9 0 < 800 && 1 ≤ bits w 23 16

/-- The compare window of a binding is absent, or lies in one region that the job claims and that is `RESIDENT` and `NORMAL`. -/
def windowOk (s : State) (j : Job) (d : List Byte) : Bool :=
  let k := leField d 32 32
  let r := leField d 34 35
  let n := leField d 40 43
  if k = 0xFF then n = 0 && leField d 28 31 = 0 && r < 16384 && leField d 36 39 % 32 = 0 && leField d 36 39 ≤ 0x4000000
  else k < 6 && r < 16384 && n ≤ 4096 && leField d 36 39 % 32 = 0 && leField d 36 39 + 8 * n ≤ 0x4000000 && trCmplOk (leField d 28 31)
    && (j.orgClaim k r).isSome && (s.region k r).st = .resident && (s.region k r).bank = .normal

/-- The result block lies in the feeder or Canopy store of a core of the job, on a 64-byte boundary and within its claims. -/
def resultOk (j : Job) (da : Nat) : Bool :=
  da < 2 ^ 56 && daSpace da ≤ 1 && j.covers (daUnit da) && da % 64 = 0 && (j.gap da 64).isNone

/-- The fields of a binding lie in their ranges (Table 11.3). -/
def trFields (d : List Byte) : Bool :=
  leField d 0 3 = 0x4E52545A && 1 ≤ leField d 4 5 && leField d 4 5 ≤ 1024 && leField d 6 7 < leField d 4 5 && trCmplOk (leField d 24 27)

/-- Reserved bytes and bits of a binding. -/
def trReserved (d : List Byte) : Bool :=
  leField d 27 27 ≠ 0 || leField d 31 31 ≠ 0 || leField d 33 33 ≠ 0 || !allZero ((d.drop 44).take 20)

/-- The training block of a new binding: counters and fault fields cleared (R320, R321, R331). -/
def trBlock (d : List Byte) : Training :=
  { Training.init with
    bound := true, replicas := leField d 4 5, rank := leField d 6 7, resultDa := leField d 16 23
    resultCmpl := BitVec.ofNat 32 (leField d 24 27), cmpCmpl := BitVec.ofNat 32 (leField d 28 31), stack := leField d 32 32
    region := leField d 34 35, ofs := leField d 36 39, words := leField d 40 43, fin := true, verdict := true
    step := BitVec.ofNat 64 (leField d 8 15) }

/-- `TR_BIND`: binds the running job of a node, writes the initial result block and applies its increment (R320). -/
def execTrBind (q : BitVec 16) (e : Entry) (s : State) : Out :=
  let k : CmdKind := { CmdKind.basic true false [1] (fun _ => false) (fun ps => leField ps 0 0 < 64) with
    buf := fun _ => .input 64, rsv := fun _ d => trReserved d }
  hostRun (.trBind q e) k q e s (fun c s =>
    let node := leField c.ps 0 0
    let d := c.data
    match s.jobAt node with
    | none => .status s 0x3C
    | some j =>
      if !j.isRunning || j.phase = .loading || (s.training node).bound || !trFields d || !resultOk j (leField d 16 23)
          || !windowOk s j d then .status s 0x3C
      else
        let t := trBlock d
        let block := leBytes 4 0x3F800000 ++ leBytes 4 0 ++ leBytes 8 (t.step - 1).toNat ++ leBytes 8 t.step.toNat
          ++ leBytes 8 0 ++ List.replicate 32 0
        let s := memWrite (s.modTraining node (fun _ => t)) none t.resultDa block
        .status (applyCmpl s { lc := fld t.resultCmpl 9 0, gate := fld t.resultCmpl 15 10, n := fld t.resultCmpl 23 16 }) 0)

/-! ## Export (R329, R330) -/

/-- Bytes of an element of a shard, 0 for a format that is not allowed (Tables 4.2, 11.8). -/
def shardElem (fmt : Nat) : Nat :=
  match fmt with
  | 0 => 2
  | 1 => 1
  | 2 => 1
  | 3 => 1
  | 6 => 4
  | _ => 0

/-- Reserved bytes of a map entry, and those the part fills. -/
def mapReserved (h : List Byte) : Bool :=
  leField h 0 3 ≠ 0 || leField h 7 7 ≠ 0 || leField h 16 23 ≠ 0 || leField h 136 143 ≠ 0 || !allZero ((h.drop 144).take 48)

/-- The fields of a map entry agree with Table 11.8, and its source lies in the claims of the job. -/
def mapOk (j : Job) (h : List Byte) : Bool :=
  let dims := leField h 6 6
  let ofs := fun k => leField h (32 + 8 * k) (39 + 8 * k)
  let ext := fun k => leField h (80 + 8 * k) (87 + 8 * k)
  let n := ((List.range dims).map ext).foldl (· * ·) 1 * shardElem (leField h 5 5)
  let da := leField h 128 135
  leField h 4 4 = 1 && shardElem (leField h 5 5) ≠ 0 && 1 ≤ dims && dims ≤ 6
    && (List.range 6).all (fun k => if k < dims then 1 ≤ ext k else ofs k = 0 && ext k = 0)
    && leField h 24 31 = n && da < 2 ^ 56 && 2 ≤ daSpace da && daSpace da ≤ 4 && (j.gap da n).isNone

/-- A copy or digest in progress touches the region. -/
def Stack.recordTouches (t : Stack) (r : Nat) : Bool :=
  t.active.any (fun j => match j with
    | .copyIn g .. => g = r
    | .copyOut g .. => g = r
    | .digest g .. => g = r
    | _ => false)

/-- What the state of a source region does to an export: served, or it waits (R330, Table 11.2). -/
def exportRegion (s : State) (k r : Nat) : OrgAccess :=
  let g := s.region k r
  match g.st with
  | .unmapped => .unmapped
  | .spilled => .wait (startPageIn s k r)
  | .pageOut => .wait s
  | .pageIn => .wait s
  | .resident =>
    if g.bank = .normal || (g.bank = .bank && (s.stack k).allQuiet && !(s.stack k).recordTouches r) then .serve else .wait s

/-- What the states of the source regions of a range do to an export. -/
def exportAccess (s : State) (da n : Nat) : OrgAccess :=
  if daSpace da ≠ 4 then .serve
  else (regionsOf da n).foldl (fun a r =>
    match a with
    | .serve => exportRegion s (daUnit da) r
    | _ => a) .serve

/-- The first answer other than `serve` of some ranges. -/
def exportWait (s : State) (rs : List (Nat × Nat)) : OrgAccess :=
  rs.foldl (fun a e =>
    match a with
    | .serve => exportAccess s e.1 e.2
    | _ => a) .serve

/-- Records written so far: their bytes, whether a payload was poisoned, and the part. -/
structure Exported where
  /-- bytes of the records, gaps included -/
  bytes : List Byte
  /-- a unit was poisoned -/
  bad : Bool
  /-- the part after the reads -/
  st : State

/-- Write the record of one map entry behind those before it (R329, Table 11.8). -/
def exportOne (step : Dword) (x : Exported) (h : List Byte) : Exported :=
  let f := memFetch x.st 4 none (leField h 128 135) (leField h 24 31)
  let data := List.zipWith (fun (b : Byte) bad => if bad then 0 else b) f.bytes f.bad
  let bad := f.bad.any id
  let h := putBytes h 0 (leBytes 4 0x44524853)
  let h := putBytes h 7 (leBytes 1 (b2n bad))
  let h := putBytes h 16 (leBytes 8 (step - 1).toNat)
  let h := putBytes h 136 (leBytes 8 (crc64From 0 data))
  let h := putBytes h 188 (leBytes 4 (crc32c (h.take 188)))
  let gap := (64 - x.bytes.length % 64) % 64
  { bytes := x.bytes ++ List.replicate gap 0 ++ h ++ data, bad := x.bad || bad, st := f.st }

/-- Bytes of the records of a map. -/
def exportBytes (hs : List (List Byte)) : Nat := hs.foldl (fun n h => (n + 63) / 64 * 64 + 192 + leField h 24 31) 0

/-- `TR_EXPORT`: one shard record for each entry of the map (R329, R330). Poisoned units read as zero, are flagged in their
record and give the command `MEM_POISON` (R213). -/
def execTrExport (q : BitVec 16) (e : Entry) (s : State) : Out :=
  let k : CmdKind := { CmdKind.basic true false [16] (fun ps => !allZero ((ps.drop 1).take 3)) (fun ps => leField ps 0 0 < 64) with
    buf := fun _ => .own }
  hostRun (.trExport q e) k q e s (fun c s =>
    let node := leField c.ps 0 0
    let n := leField c.ps 4 7
    let map := leField c.ps 8 15
    match s.jobAt node with
    | none => .status s 0x3D
    | some j =>
      let hs := (List.range n).map (fun i => s.hostBytes (map + 192 * i) 192)
      if !(s.training node).bound then .status s 0x3D
      else if s.hostFails map (192 * n) then .status s 0x0C
      else if hs.any mapReserved then .status s 0x02
      else if hs.any (fun h => !mapOk j h) || c.dlen < exportBytes hs then .status s 0x03
      else
        match exportWait s (hs.map (fun h => (leField h 128 135, leField h 24 31))) with
        | .wait t => .waits t
        | .unmapped => .status s 0x26
        | _ =>
          let x := hs.foldl (exportOne (s.training node).step) { bytes := [], bad := false, st := s }
          if x.st.hostFails c.daddr x.bytes.length then .status x.st 0x0C
          else .done (x.st.hostPut c.daddr x.bytes) (if x.bad then 0x27 else 0) false x.bytes.length 0)

/-! ## Localisation (R328) -/

/-- The row values of a block on this part: the CRC-64 of each of its 1,024 rows. -/
def rowValues (s : State) (da : Nat) : List Dword :=
  (List.range 1024).map (fun i => BitVec.ofNat 64 (crc64From 0 (s.bytesAt (da + 1024 * i) 1024)))

/-- The replicas in rank order, this part at its rank. -/
def replicaSet (t : Training) (own : Replica) (others : List Replica) : List Replica :=
  others.take t.rank ++ [own] ++ others.drop t.rank

/-- The report of Table 11.7 for the first row whose values differ. -/
def mismatchReport (s : State) (j : Job) (t : Training) (stack region block : Nat) (set : List Replica) (n rows : Nat) : List Byte :=
  let value := fun (r : Replica) => (r.rows.getD n 0).toNat
  let top := mostFrequent (set.map value)
  let major := top.getD (Config.freeNat s.draws % top.length) 0
  let agree := (set.filter (fun r => value r = major)).length
  let two := set.length = 2
  let a := if two then set.head? else set.find? (fun r => value r ≠ major)
  let b := if two then set[1]? else set.find? (fun r => value r = major)
  let xs := List.zipWith (fun (x y : Byte) => x ^^^ y) ((a.map (·.bytes)).getD []) ((b.map (·.bytes)).getD [])
  let k := (xs.findIdx? (· ≠ 0)).getD 0
  leBytes 8 j.imageId.toNat ++ leBytes 8 (t.step - 1).toNat ++ leBytes 1 stack ++ leBytes 1 0 ++ leBytes 2 region
    ++ leBytes 4 (block * 2 ^ 20) ++ leBytes 1 (n % 32) ++ leBytes 1 (n / 32) ++ leBytes 2 rows
    ++ leBytes 4 (64 * (s.region stack region).frame + block) ++ leBytes 2 k ++ leBytes 1 (xs.getD k 0).toNat
    ++ leBytes 1 (min 255 (xs.filter (· ≠ 0)).length) ++ leBytes 2 ((a.map (·.part.toNat)).getD 0xFFFF)
    ++ leBytes 2 (if two then (b.map (·.part.toNat)).getD 0xFFFF else 0xFFFF) ++ leBytes 2 t.replicas ++ leBytes 2 agree
    ++ List.replicate 20 0

/-- `DIGEST_LOCALISATION`: after a `DIGEST_MISMATCH` fault the row values of the block and the first differing row are compared
across the replicas, and the difference is reported to the host and as a health event (R328). -/
def execDigestLocalisation (node : Fin 64) (stack : Fin 6) (region : Fin 16384) (block : Fin 64) (others : List Replica) (s : State) : Out :=
  match s.jobAt node with
  | none => .next s
  | some j =>
    let t := s.training node
    if j.isRunning || !t.cmpFault.getLsbD 14 then .next s
    else
      let da := regionDa stack region (block.val * 2 ^ 20)
      let mine := rowValues s da
      let diff := (List.range 1024).filter (fun n => others.any (fun o => o.rows.getD n 0 ≠ mine.getD n 0))
      match diff with
      | [] => .next s
      | n :: _ =>
        let own : Replica := { part := BitVec.ofNat 10 s.partIndex, rows := mine, bytes := s.bytesAt (da + 1024 * n) 1024 }
        let report := mismatchReport s j t stack region block (replicaSet t own others) n diff.length
        .next (healthEvent (notify (s.drawn 1) 9 report) 5 0 report)

end Sys2Proof.Machine
end

