-- ==== Sys2Proof/Machine/Dispatch.lean ====
section
/-! DEFINITION. The meaning of every command: one arm per constructor, each one direct call. -/

namespace Sys2Proof.Machine

/-- The effect of a command on everything but the queue. -/
def exec (i : Instr) (s : State) : Host.Outcome State Fault Refusal :=
  match i with
  | .identify q e => Sys2Proof.Machine.execIdentify q e s
  | .queueConfig q e => Sys2Proof.Machine.execQueueConfig q e s
  | .settingSet q e => Sys2Proof.Machine.execSettingSet q e s
  | .settingGet q e => Sys2Proof.Machine.execSettingGet q e s
  | .noteRead q e => Sys2Proof.Machine.execNoteRead q e s
  | .repairMap q e => Sys2Proof.Machine.execRepairMap q e s
  | .routeQuery q e => Sys2Proof.Machine.execRouteQuery q e s
  | .resetCmd q e => Sys2Proof.Machine.execResetCmd q e s
  | .pwrCap q e => Sys2Proof.Machine.execPwrCap q e s
  | .ptnConfig q e => Sys2Proof.Machine.execPtnConfig q e s
  | .jobLoad q e => Sys2Proof.Machine.execJobLoad q e s
  | .jobHalt q e => Sys2Proof.Machine.execJobHalt q e s
  | .jobTeardown q e => Sys2Proof.Machine.execJobTeardown q e s
  | .jobReport q e => Sys2Proof.Machine.execJobReport q e s
  | .memRead q e => Sys2Proof.Machine.execMemRead q e s
  | .memWrite q e => Sys2Proof.Machine.execMemWrite q e s
  | .memClear q e => Sys2Proof.Machine.execMemClear q e s
  | .ctrlRead q e => Sys2Proof.Machine.execCtrlRead q e s
  | .ctrlWrite q e => Sys2Proof.Machine.execCtrlWrite q e s
  | .queuePost q e => Sys2Proof.Machine.execQueuePost q e s
  | .orgMap q e => Sys2Proof.Machine.execOrgMap q e s
  | .orgUnmap q e => Sys2Proof.Machine.execOrgUnmap q e s
  | .orgPageOut q e => Sys2Proof.Machine.execOrgPageOut q e s
  | .orgPageIn q e => Sys2Proof.Machine.execOrgPageIn q e s
  | .bankEnter q e => Sys2Proof.Machine.execBankEnter q e s
  | .bankRelease q e => Sys2Proof.Machine.execBankRelease q e s
  | .svBind q e => Sys2Proof.Machine.execSvBind q e s
  | .svOpen q e => Sys2Proof.Machine.execSvOpen q e s
  | .svClose q e => Sys2Proof.Machine.execSvClose q e s
  | .svFork q e => Sys2Proof.Machine.execSvFork q e s
  | .svHot q e => Sys2Proof.Machine.execSvHot q e s
  | .svCold q e => Sys2Proof.Machine.execSvCold q e s
  | .svQuota q e => Sys2Proof.Machine.execSvQuota q e s
  | .trBind q e => Sys2Proof.Machine.execTrBind q e s
  | .trExport q e => Sys2Proof.Machine.execTrExport q e s
  | .sysIndex q e => Sys2Proof.Machine.execSysIndex q e s
  | .portConfig q e => Sys2Proof.Machine.execPortConfig q e s
  | .peerConfig q e => Sys2Proof.Machine.execPeerConfig q e s
  | .collGroup q e => Sys2Proof.Machine.execCollGroup q e s
  | .anop lc => Sys2Proof.Machine.execAnop lc s
  | .mac lc tile fp32 popa popb => Sys2Proof.Machine.execMac lc tile fp32 popa popb s
  | .macz lc tile fp32 popa popb => Sys2Proof.Machine.execMacz lc tile fp32 popa popb s
  | .aclr lc tile => Sys2Proof.Machine.execAclr lc tile s
  | .aramp lc => Sys2Proof.Machine.execAramp lc s
  | .linePortReadout lc tile axis clr len slot => Sys2Proof.Machine.execLinePortReadout lc tile axis clr len slot s
  | .linePortLoad lc tile axis len vpair => Sys2Proof.Machine.execLinePortLoad lc tile axis len vpair s
  | .tileSlotFull lc slot => Sys2Proof.Machine.execTileSlotFull lc slot s
  | .tileSlotFree lc slot => Sys2Proof.Machine.execTileSlotFree lc slot s
  | .activityLevelFall lc => Sys2Proof.Machine.execActivityLevelFall lc s
  | .activityLevelRise lc => Sys2Proof.Machine.execActivityLevelRise lc s
  | .fnop lc f => Sys2Proof.Machine.execFnop lc f s
  | .fblk lc f a => Sys2Proof.Machine.execFblk lc f a s
  | .fgath lc f a => Sys2Proof.Machine.execFgath lc f a s
  | .fflush lc f => Sys2Proof.Machine.execFflush lc f s
  | .vnop lc => Sys2Proof.Machine.execVnop lc s
  | .vadd lc a => Sys2Proof.Machine.execVadd lc a s
  | .vsub lc a => Sys2Proof.Machine.execVsub lc a s
  | .vmul lc a => Sys2Proof.Machine.execVmul lc a s
  | .vfma lc a => Sys2Proof.Machine.execVfma lc a s
  | .vmin lc a => Sys2Proof.Machine.execVmin lc a s
  | .vmax lc a => Sys2Proof.Machine.execVmax lc a s
  | .vclt lc a => Sys2Proof.Machine.execVclt lc a s
  | .vceq lc a => Sys2Proof.Machine.execVceq lc a s
  | .vsel lc a => Sys2Proof.Machine.execVsel lc a s
  | .vmov lc a => Sys2Proof.Machine.execVmov lc a s
  | .vcvt lc a => Sys2Proof.Machine.execVcvt lc a s
  | .vext lc a => Sys2Proof.Machine.execVext lc a s
  | .vexp2 lc a => Sys2Proof.Machine.execVexp2 lc a s
  | .vlog2 lc a => Sys2Proof.Machine.execVlog2 lc a s
  | .vrcp lc a => Sys2Proof.Machine.execVrcp lc a s
  | .vrsqrt lc a => Sys2Proof.Machine.execVrsqrt lc a s
  | .vtanh lc a => Sys2Proof.Machine.execVtanh lc a s
  | .vsigm lc a => Sys2Proof.Machine.execVsigm lc a s
  | .vrsumr lc a => Sys2Proof.Machine.execVrsumr lc a s
  | .vrmaxr lc a => Sys2Proof.Machine.execVrmaxr lc a s
  | .vrsumc lc a => Sys2Proof.Machine.execVrsumc lc a s
  | .vrmaxc lc a => Sys2Proof.Machine.execVrmaxc lc a s
  | .vrsum lc a => Sys2Proof.Machine.execVrsum lc a s
  | .vrmax lc a => Sys2Proof.Machine.execVrmax lc a s
  | .vsmstat lc a => Sys2Proof.Machine.execVsmstat lc a s
  | .vsmexp lc a => Sys2Proof.Machine.execVsmexp lc a s
  | .vmask lc a => Sys2Proof.Machine.execVmask lc a s
  | .vdrop lc a => Sys2Proof.Machine.execVdrop lc a s
  | .vld lc a => Sys2Proof.Machine.execVld lc a s
  | .vst lc a => Sys2Proof.Machine.execVst lc a s
  | .gnop lc => Sys2Proof.Machine.execGnop lc s
  | .gwait lc g n => Sys2Proof.Machine.execGwait lc g n s
  | .gpeek lc g n => Sys2Proof.Machine.execGpeek lc g n s
  | .ginc lc g n => Sys2Proof.Machine.execGinc lc g n s
  | .gsend lc target g n => Sys2Proof.Machine.execGsend lc target g n s
  | .gloop lc depth iters target => Sys2Proof.Machine.execGloop lc depth iters target s
  | .gjump lc seg target => Sys2Proof.Machine.execGjump lc seg target s
  | .gseg lc seg frame => Sys2Proof.Machine.execGseg lc seg frame s
  | .gphase lc imm => Sys2Proof.Machine.execGphase lc imm s
  | .gpause lc n => Sys2Proof.Machine.execGpause lc n s
  | .gend lc => Sys2Proof.Machine.execGend lc s
  | .gpauseEnd lc => Sys2Proof.Machine.execGpauseEnd lc s
  | .gsegLoadComplete lc frame => Sys2Proof.Machine.execGsegLoadComplete lc frame s
  | .preboostStart lc a => Sys2Proof.Machine.execPreboostStart lc a s
  | .preboostEnd lc => Sys2Proof.Machine.execPreboostEnd lc s
  | .mnop lc => Sys2Proof.Machine.execMnop lc s
  | .mcopy lc a => Sys2Proof.Machine.execMcopy lc a s
  | .mclear lc a => Sys2Proof.Machine.execMclear lc a s
  | .moveStart lc m => Sys2Proof.Machine.execMoveStart lc m s
  | .moveComplete lc m => Sys2Proof.Machine.execMoveComplete lc m s
  | .gateStall lc => Sys2Proof.Machine.execGateStall lc s
  | .jobFaulted node => Sys2Proof.Machine.execJobFaulted node s
  | .waitStage2 lc => Sys2Proof.Machine.execWaitStage2 lc s
  | .paceWindow => Sys2Proof.Machine.execPaceWindow s
  | .pauseDutyFrame region => Sys2Proof.Machine.execPauseDutyFrame region s
  | .write p te => Sys2Proof.Machine.execWrite p te s
  | .read p => Sys2Proof.Machine.execRead p s
  | .clear p len => Sys2Proof.Machine.execClear p len s
  | .post p => Sys2Proof.Machine.execPost p s
  | .bdata router t ofs data => Sys2Proof.Machine.execBdata router t ofs data s
  | .rdata dst src tag => Sys2Proof.Machine.execRdata dst src tag s
  | .wack dst src tag => Sys2Proof.Machine.execWack dst src tag s
  | .treset dst src tag => Sys2Proof.Machine.execTreset dst src tag s
  | .rerr dst src tag => Sys2Proof.Machine.execRerr dst src tag s
  | .inc src dst => Sys2Proof.Machine.execInc src dst s
  | .cread dst tag queue ofs => Sys2Proof.Machine.execCread dst tag queue ofs s
  | .cwrite dst tag queue ofs v => Sys2Proof.Machine.execCwrite dst tag queue ofs v s
  | .cresp dst src tag => Sys2Proof.Machine.execCresp dst src tag s
  | .blame src dst => Sys2Proof.Machine.execBlame src dst s
  | .halt node => Sys2Proof.Machine.execHalt node s
  | .bcmd t b => Sys2Proof.Machine.execBcmd t b s
  | .mapupd site => Sys2Proof.Machine.execMapupd site s
  | .event router src node cmd => Sys2Proof.Machine.execEvent router src node cmd s
  | .xbell qn => Sys2Proof.Machine.execXbell qn s
  | .replay router port flit => Sys2Proof.Machine.execReplay router port flit s
  | .seamMarginLow seam pos => Sys2Proof.Machine.execSeamMarginLow seam pos s
  | .retuneEnd seam pos sweep ok sweep2 ok2 => Sys2Proof.Machine.execRetuneEnd seam pos sweep ok sweep2 ok2 s
  | .clockSlewStep region => Sys2Proof.Machine.execClockSlewStep region s
  | .mergeEntryClose da => Sys2Proof.Machine.execMergeEntryClose da s
  | .writeBack da => Sys2Proof.Machine.execWriteBack da s
  | .plotRefresh site => Sys2Proof.Machine.execPlotRefresh site s
  | .refresh stack die half bk => Sys2Proof.Machine.execRefresh stack die half bk s
  | .pageOutComplete stack region => Sys2Proof.Machine.execPageOutComplete stack region s
  | .pageInComplete stack region hostErr => Sys2Proof.Machine.execPageInComplete stack region hostErr s
  | .bankEntryComplete stack region => Sys2Proof.Machine.execBankEntryComplete stack region s
  | .bankReleaseComplete stack region => Sys2Proof.Machine.execBankReleaseComplete stack region s
  | .bankHoldTimeout lc m => Sys2Proof.Machine.execBankHoldTimeout lc m s
  | .recordNoOp stack region r => Sys2Proof.Machine.execRecordNoOp stack region r s
  | .pload stack region r => Sys2Proof.Machine.execPload stack region r s
  | .pset stack region r => Sys2Proof.Machine.execPset stack region r s
  | .seed stack region r => Sys2Proof.Machine.execSeed stack region r s
  | .start stack region r => Sys2Proof.Machine.execStart stack region r s
  | .stop stack region r => Sys2Proof.Machine.execStop stack region r s
  | .copyin stack region r => Sys2Proof.Machine.execCopyin stack region r s
  | .copyout stack region r => Sys2Proof.Machine.execCopyout stack region r s
  | .digest stack region r => Sys2Proof.Machine.execDigest stack region r s
  | .release stack region r => Sys2Proof.Machine.execRelease stack region r s
  | .bankRecordComplete stack => Sys2Proof.Machine.execBankRecordComplete stack s
  | .orangeryPostTimeout stack => Sys2Proof.Machine.execOrangeryPostTimeout stack s
  | .buNop u => Sys2Proof.Machine.execBuNop u s
  | .buLd u d a => Sys2Proof.Machine.execBuLd u d a s
  | .buSt u a b => Sys2Proof.Machine.execBuSt u a b s
  | .buLdi u d imm => Sys2Proof.Machine.execBuLdi u d imm s
  | .buIadd u d a b => Sys2Proof.Machine.execBuIadd u d a b s
  | .buIaddi u d a imm => Sys2Proof.Machine.execBuIaddi u d a imm s
  | .buLoop u a imm => Sys2Proof.Machine.execBuLoop u a imm s
  | .buBr u imm => Sys2Proof.Machine.execBuBr u imm s
  | .buEnd u => Sys2Proof.Machine.execBuEnd u s
  | .buFadd u half d a b => Sys2Proof.Machine.execBuFadd u half d a b s
  | .buFsub u half d a b => Sys2Proof.Machine.execBuFsub u half d a b s
  | .buFmul u half d a b => Sys2Proof.Machine.execBuFmul u half d a b s
  | .buFfma u half d a b c => Sys2Proof.Machine.execBuFfma u half d a b c s
  | .buFmin u half d a b => Sys2Proof.Machine.execBuFmin u half d a b s
  | .buFmax u half d a b => Sys2Proof.Machine.execBuFmax u half d a b s
  | .buFclt u half d a b => Sys2Proof.Machine.execBuFclt u half d a b s
  | .buFsel u half d a b c => Sys2Proof.Machine.execBuFsel u half d a b c s
  | .buFrcp u d a => Sys2Proof.Machine.execBuFrcp u d a s
  | .buFrsq u d a => Sys2Proof.Machine.execBuFrsq u d a s
  | .buBcast u half d a => Sys2Proof.Machine.execBuBcast u half d a s
  | .buCvt u d a fmt sat rnd c => Sys2Proof.Machine.execBuCvt u d a fmt sat rnd c s
  | .buExt u d a fmt c => Sys2Proof.Machine.execBuExt u d a fmt c s
  | .buRand u d => Sys2Proof.Machine.execBuRand u d s
  | .buPut u a => Sys2Proof.Machine.execBuPut u a s
  | .buCsend u a => Sys2Proof.Machine.execBuCsend u a s
  | .buCrecv u d => Sys2Proof.Machine.execBuCrecv u d s
  | .ruNop u => Sys2Proof.Machine.execRuNop u s
  | .ruRld u d a => Sys2Proof.Machine.execRuRld u d a s
  | .ruRst u a b => Sys2Proof.Machine.execRuRst u a b s
  | .ruSldi u d imm => Sys2Proof.Machine.execRuSldi u d imm s
  | .ruSadd u d a b => Sys2Proof.Machine.execRuSadd u d a b s
  | .ruSaddi u d a imm => Sys2Proof.Machine.execRuSaddi u d a imm s
  | .ruLoop u a imm => Sys2Proof.Machine.execRuLoop u a imm s
  | .ruBr u imm => Sys2Proof.Machine.execRuBr u imm s
  | .ruEnd u => Sys2Proof.Machine.execRuEnd u s
  | .ruAnd u d a b => Sys2Proof.Machine.execRuAnd u d a b s
  | .ruOr u d a b => Sys2Proof.Machine.execRuOr u d a b s
  | .ruXor u d a b => Sys2Proof.Machine.execRuXor u d a b s
  | .ruAndn u d a b => Sys2Proof.Machine.execRuAndn u d a b s
  | .ruMux u d a b c => Sys2Proof.Machine.execRuMux u d a b c s
  | .ruNot u d a => Sys2Proof.Machine.execRuNot u d a s
  | .ruFa u d a b => Sys2Proof.Machine.execRuFa u d a b s
  | .ruCclr u => Sys2Proof.Machine.execRuCclr u s
  | .ruCset u => Sys2Proof.Machine.execRuCset u s
  | .ruPopc u d a => Sys2Proof.Machine.execRuPopc u d a s
  | .ruAnys u d a => Sys2Proof.Machine.execRuAnys u d a s
  | .ruTrin u a b => Sys2Proof.Machine.execRuTrin u a b s
  | .ruTrout u a b => Sys2Proof.Machine.execRuTrout u a b s
  | .ruCrc u d a => Sys2Proof.Machine.execRuCrc u d a s
  | .ruPut u => Sys2Proof.Machine.execRuPut u s
  | .landingChunk stack => Sys2Proof.Machine.execLandingChunk stack s
  | .heldChunkWrite stack region => Sys2Proof.Machine.execHeldChunkWrite stack region s
  | .digestLocalisation node stack region block others => Sys2Proof.Machine.execDigestLocalisation node stack region block others s
  | .xwrite qn d => Sys2Proof.Machine.execXwrite qn d s
  | .xread qn d => Sys2Proof.Machine.execXread qn d s
  | .xpost qn d => Sys2Proof.Machine.execXpost qn d s
  | .xrs qn d => Sys2Proof.Machine.execXrs qn d s
  | .xag qn d => Sys2Proof.Machine.execXag qn d s
  | .xar qn d => Sys2Proof.Machine.execXar qn d s
  | .xfin qn d => Sys2Proof.Machine.execXfin qn d s
  | .xobexMessageStart => Sys2Proof.Machine.execXobexMessageStart s
  | .xobWrite d => Sys2Proof.Machine.execXobWrite d s
  | .rreq d => Sys2Proof.Machine.execRreq d s
  | .rrsp d => Sys2Proof.Machine.execRrsp d s
  | .xobPost d => Sys2Proof.Machine.execXobPost d s
  | .ack d => Sys2Proof.Machine.execAck d s
  | .nak d => Sys2Proof.Machine.execNak d s
  | .collReady d => Sys2Proof.Machine.execCollReady d s
  | .fetched d => Sys2Proof.Machine.execFetched d s
  | .finword d => Sys2Proof.Machine.execFinword d s
  | .verdict d => Sys2Proof.Machine.execVerdict d s
  | .xobexHalt d => Sys2Proof.Machine.execXobexHalt d s
  | .syncReady d => Sys2Proof.Machine.execSyncReady d s
  | .syncGo d => Sys2Proof.Machine.execSyncGo d s
  | .syncAbort d => Sys2Proof.Machine.execSyncAbort d s
  | .syncTimeout tag => Sys2Proof.Machine.execSyncTimeout tag s
  | .mgmt d => Sys2Proof.Machine.execMgmt d s
  | .messageLocalCompletion part => Sys2Proof.Machine.execMessageLocalCompletion part s
  | .messageRemoteCompletion part => Sys2Proof.Machine.execMessageRemoteCompletion part s
  | .collectiveComplete group => Sys2Proof.Machine.execCollectiveComplete group s
  | .ackTimer part ctx => Sys2Proof.Machine.execAckTimer part ctx s
  | .retransmissionTimeout part ctx => Sys2Proof.Machine.execRetransmissionTimeout part ctx s
  | .contextLost part ctx => Sys2Proof.Machine.execContextLost part ctx s
  | .rateIncrease part => Sys2Proof.Machine.execRateIncrease part s
  | .pfcFrame cuff off => Sys2Proof.Machine.execPfcFrame cuff off s
  | .xoffRepeat cuff kib => Sys2Proof.Machine.execXoffRepeat cuff kib s
  | .pauseFrameReceive cuff => Sys2Proof.Machine.execPauseFrameReceive cuff s
  | .arpRequest port mac sender target => Sys2Proof.Machine.execArpRequest port mac sender target s
  | .neighbourSolicitation port mac sender target => Sys2Proof.Machine.execNeighbourSolicitation port mac sender target s
  | .echoRequest port sender target data => Sys2Proof.Machine.execEchoRequest port sender target data s
  | .cuffLinkLoss port => Sys2Proof.Machine.execCuffLinkLoss port s
  | .fecErrorBurst cuff n => Sys2Proof.Machine.execFecErrorBurst cuff n s
  | .cuffRetrainEnd cuff ok up => Sys2Proof.Machine.execCuffRetrainEnd cuff ok up s
  | .frameReplay stack again => Sys2Proof.Machine.execFrameReplay stack again s
  | .postTimeout qn => Sys2Proof.Machine.execPostTimeout qn s
  | .svBusyTimeout lc => Sys2Proof.Machine.execSvBusyTimeout lc s
  | .resetDrainEnd unsent => Sys2Proof.Machine.execResetDrainEnd unsent s
  | .resetScope3Begin => Sys2Proof.Machine.execResetScope3Begin s
  | .submissionTailDoorbell q tail => Sys2Proof.Machine.execSubmissionTailDoorbell q tail s
  | .completionHeadDoorbell q head => Sys2Proof.Machine.execCompletionHeadDoorbell q head s
  | .adminQueueEnable sqLog cqLog => Sys2Proof.Machine.execAdminQueueEnable sqLog cqLog s
  | .adminQueueDisable => Sys2Proof.Machine.execAdminQueueDisable s
  | .queueDrained q => Sys2Proof.Machine.execQueueDrained q s
  | .completionWrite q => Sys2Proof.Machine.execCompletionWrite q s
  | .interruptCoalesceTimer q => Sys2Proof.Machine.execInterruptCoalesceTimer q s
  | .notificationPost => Sys2Proof.Machine.execNotificationPost s
  | .configurationRequest => Sys2Proof.Machine.execConfigurationRequest s
  | .busMasterEnable on => Sys2Proof.Machine.execBusMasterEnable on s
  | .hifLock => Sys2Proof.Machine.execHifLock s
  | .xobLock => Sys2Proof.Machine.execXobLock s
  | .pwrLock => Sys2Proof.Machine.execPwrLock s
  | .fuseLock => Sys2Proof.Machine.execFuseLock s
  | .lockAll => Sys2Proof.Machine.execLockAll s
  | .cuffRetrain cuff => Sys2Proof.Machine.execCuffRetrain cuff s
  | .cuffEnable cuff on => Sys2Proof.Machine.execCuffEnable cuff on s
  | .snapGo sets => Sys2Proof.Machine.execSnapGo sets s
  | .snapshotDone => Sys2Proof.Machine.execSnapshotDone s
  | .fuseGo expert => Sys2Proof.Machine.execFuseGo expert s
  | .fuseProgrammingDone same => Sys2Proof.Machine.execFuseProgrammingDone same s
  | .fuseTempTimeout => Sys2Proof.Machine.execFuseTempTimeout s
  | .registerWrite reg v => Sys2Proof.Machine.execRegisterWrite reg v s
  | .loopStep node p => Sys2Proof.Machine.execLoopStep node p s
  | .freqLimStep => Sys2Proof.Machine.execFreqLimStep s
  | .vrAlert => Sys2Proof.Machine.execVrAlert s
  | .coreGate lc => Sys2Proof.Machine.execCoreGate lc s
  | .canopyRetention site => Sys2Proof.Machine.execCanopyRetention site s
  | .inrushPermitGrant zone margin => Sys2Proof.Machine.execInrushPermitGrant zone margin s
  | .slowRamp site => Sys2Proof.Machine.execSlowRamp site s
  | .powerGood site canopy => Sys2Proof.Machine.execPowerGood site canopy s
  | .droopTrip region deep => Sys2Proof.Machine.execDroopTrip region deep s
  | .droopRelease region => Sys2Proof.Machine.execDroopRelease region s
  | .sensorSample point a b => Sys2Proof.Machine.execSensorSample point a b s
  | .estimateStep mw => Sys2Proof.Machine.execEstimateStep mw s
  | .thermalStep region => Sys2Proof.Machine.execThermalStep region s
  | .tclkLimStep region ten => Sys2Proof.Machine.execTclkLimStep region ten s
  | .sensorSuspect point diodeB => Sys2Proof.Machine.execSensorSuspect point diodeB s
  | .pairDis site => Sys2Proof.Machine.execPairDis site s
  | .heldWriteDrain site => Sys2Proof.Machine.execHeldWriteDrain site s
  | .tripRestart => Sys2Proof.Machine.execTripRestart s
  | .inletRange => Sys2Proof.Machine.execInletRange s
  | .coolantEvaluation plane mw => Sys2Proof.Machine.execCoolantEvaluation plane mw s
  | .flowEvaluation => Sys2Proof.Machine.execFlowEvaluation s
  | .vinAuxEnter => Sys2Proof.Machine.execVinAuxEnter s
  | .vinAuxLeave => Sys2Proof.Machine.execVinAuxLeave s
  | .mainRailsInRange => Sys2Proof.Machine.execMainRailsInRange s
  | .mainRailLost => Sys2Proof.Machine.execMainRailLost s
  | .railLossRestart => Sys2Proof.Machine.execRailLossRestart s
  | .refclkSysLost => Sys2Proof.Machine.execRefclkSysLost s
  | .refclkSysRestored => Sys2Proof.Machine.execRefclkSysRestored s
  | .cuffRefclkLost north => Sys2Proof.Machine.execCuffRefclkLost north s
  | .auxClkLost => Sys2Proof.Machine.execAuxClkLost s
  | .pciePerstNAssert => Sys2Proof.Machine.execPciePerstNAssert s
  | .pciePerstNDeassert => Sys2Proof.Machine.execPciePerstNDeassert s
  | .hotReset => Sys2Proof.Machine.execHotReset s
  | .linkLost => Sys2Proof.Machine.execLinkLost s
  | .watchdogExpiry => Sys2Proof.Machine.execWatchdogExpiry s
  | .auxStart => Sys2Proof.Machine.execAuxStart s
  | .kioskBoot selfTest copy => Sys2Proof.Machine.execKioskBoot selfTest copy s
  | .firmwareCheck okA okB => Sys2Proof.Machine.execFirmwareCheck okA okB s
  | .fuseLoad c0 c1 health => Sys2Proof.Machine.execFuseLoad c0 c1 health s
  | .seamCalibration sweeps => Sys2Proof.Machine.execSeamCalibration sweeps s
  | .plotAndOrangeryTraining badPlots badStacks => Sys2Proof.Machine.execPlotAndOrangeryTraining badPlots badStacks s
  | .trellisStart dark bad => Sys2Proof.Machine.execTrellisStart dark bad s
  | .coreFirmware fetched bad => Sys2Proof.Machine.execCoreFirmware fetched bad s
  | .memoryTest failed words => Sys2Proof.Machine.execMemoryTest failed words s
  | .repair => Sys2Proof.Machine.execRepair s
  | .logicalMapBuild => Sys2Proof.Machine.execLogicalMapBuild s
  | .cuffTraining bad => Sys2Proof.Machine.execCuffTraining bad s
  | .jobBoundary cl => Sys2Proof.Machine.execJobBoundary cl s
  | .driftMeasurement site stress ref => Sys2Proof.Machine.execDriftMeasurement site stress ref s
  | .tsvChainMeasurement seam ratio => Sys2Proof.Machine.execTsvChainMeasurement seam ratio s
  | .regulatorEfficiencyMeasurement site drop => Sys2Proof.Machine.execRegulatorEfficiencyMeasurement site drop s
  | .fmaxRegionLower region => Sys2Proof.Machine.execFmaxRegionLower region s
  | .lifeRecompute => Sys2Proof.Machine.execLifeRecompute s
  | .healthRecordWrite => Sys2Proof.Machine.execHealthRecordWrite s
  | .xpaceWindow => Sys2Proof.Machine.execXpaceWindow s
  | .mctpControl i3c src m => Sys2Proof.Machine.execMctpControl i3c src m s
  | .sensorUpdate vinA vinM => Sys2Proof.Machine.execSensorUpdate vinA vinM s
  | .setEventReceiver i3c src receiver => Sys2Proof.Machine.execSetEventReceiver i3c src receiver s
  | .pollForPlatformEventMessage i3c src => Sys2Proof.Machine.execPollForPlatformEventMessage i3c src s
  | .platformEventResend => Sys2Proof.Machine.execPlatformEventResend s
  | .firmwareUpdate i3c src comp ofs data => Sys2Proof.Machine.execFirmwareUpdate i3c src comp ofs data s
  | .verifyComplete i3c src comp version ok => Sys2Proof.Machine.execVerifyComplete i3c src comp version ok s
  | .vrAlertRelease => Sys2Proof.Machine.execVrAlertRelease s
  | .mainRailsRemoved => Sys2Proof.Machine.execMainRailsRemoved s
  | .headWordReread qn => Sys2Proof.Machine.execHeadWordReread qn s
  | .pcieLinkUp => Sys2Proof.Machine.execPcieLinkUp s
  | .cuffRefclkRestored north => Sys2Proof.Machine.execCuffRefclkRestored north s
  | .pldmRequest i3c src r => Sys2Proof.Machine.execPldmRequest i3c src r s
  | .platformEventAccept idx => Sys2Proof.Machine.execPlatformEventAccept idx s
  | .unacceptedFrame cuff => Sys2Proof.Machine.execUnacceptedFrame cuff s

end Sys2Proof.Machine
end

