-- ==== Sys2Proof/Machine/Tick.lean ====
section
/-! DEFINITION. What one fabric cycle does without a command: time passes, the cores that run issue their bundles, units of the
Orangery run their programs, waiting commands are tried again, and the host's rings are served (log 2, log 6). -/

namespace Sys2Proof.Machine

/-- The state after a command that always answers one. -/
def after (o : Out) (s : State) : State :=
  match o with
  | .next t => t
  | _ => s

/-! ## Clocks (R35 to R39, R409) -/

/-- The part of an array cycle that a fabric cycle is, in 1/3840: the clock is 400 MHz plus 25 MHz for each step of its code,
and each cycle may be stretched by 1.25 or 1.5 (Table 14.6, log 6). -/
def ClockRegion.advance (c : ClockRegion) : Nat :=
  if !c.locked then 0
  else (16 + c.now) * (if c.stretch = 0 then 60 else if c.stretch = 1 then 48 else 40)

/-- An array cycle of the region ends with this fabric cycle. -/
def ClockRegion.cycles (c : ClockRegion) : Bool := 3840 ≤ c.acc + c.advance

/-- A region after a fabric cycle; stretched cycles are counted. -/
def ClockRegion.pass (c : ClockRegion) : ClockRegion :=
  if c.cycles then { c with
    acc := c.acc + c.advance - 3840, stretched := if c.stretch = 0 then c.stretched else satAdd c.stretched 1 }
  else { c with acc := c.acc + c.advance }

/-! ## Cycles of a core (R93, R95, R140, R141, R147, R155, R159) -/

/-- A cycle in which the bundle of a core does not issue; its activity counts as `fill` says. -/
def Core.holdCycle (c : Core) (fill : Bool) : Core := { c.cycleEnds fill with arr := { (c.cycleEnds fill).arr with opTile := c.arr.opTile } }

/-- A cycle in which the bundle of a core waits. -/
def Core.waitCycle (c : Core) : Core := c.holdCycle true

/-- A cycle of a core that runs no job: `PACE_CYC` counts from a job's start. -/
def Core.idleCycle (c : Core) : Core := { c.waitCycle with seq := { c.waitCycle.seq with cyc := c.seq.cyc } }

/-- A cycle of a pause; the level falls with every fourth, of a length that is a multiple of 16 (R97, R155). -/
def Core.pauseCycle (c : Core) : Core :=
  let d := c.seq.dutyLeft - 1
  { c.waitCycle with
    arr := { c.waitCycle.arr with fall := d % 4 = 0 }
    seq := { c.waitCycle.seq with pause := bump c.seq.pause 1, dutyLeft := d, paused := 0 < d } }

/-- A cycle of planned slack (R145, R147). -/
def Core.slackCycle (c : Core) : Core := { c.slack 1 with seq := { (c.slack 1).seq with pauseLeft := c.seq.pauseLeft - 1 } }

/-- Tile-queue slots and the activity level of a core move on where they are due (Table 4.6, R95). -/
def coreDue (s : State) (lc : Lc) : State :=
  let s := (List.range 8).foldl (fun s k =>
    let c := s.core lc
    if c.seq.cycle < Tbl.get 0 c.fv.slotDue k then s
    else after (execTileSlotFree lc (Fin.ofNat 8 k) (after (execTileSlotFull lc (Fin.ofNat 8 k) s) s)) s) s
  after (execActivityLevelRise lc (after (execActivityLevelFall lc s) s)) s

/-- The bundle that a core issues next; none where it would pass the end of the current segment (R145). -/
def nextBundle (s : State) (lc : Nat) : Option (BitVec 512) :=
  let q := (s.core lc).seq
  match (s.core lc).frame q.frame with
  | .holds seg =>
    if q.next / 1024 = q.frame && (s.segRec lc seg).any (fun r => q.next % 1024 < r.bundles) then some (Tbl.get 0 q.store q.next)
    else none
  | _ => none

/-- The bundle store delivers the next bundle: a byte of it in error is corrected, or faults the job (R194, Table 7.5). -/
def fetchChecked (s : State) (lc : Nat) : State :=
  let q := (s.core lc).seq
  coreRead s 0xFF lc q.next [(bundleKey q.next, 64)]

/-- The condition of a gate operation fails (R141 step 2). -/
def gateFails (c : Core) : Instr → Bool
  | .gwait _ g n => c.gate g < n.toNat
  | .gpeek _ g n => c.gate g < n.toNat
  | _ => false

/-- The gate that a gate operation waits on. -/
def gateOf : Instr → Option Nat
  | .gwait _ g _ => some g
  | .gpeek _ g _ => some g
  | _ => none

/-- The gate condition of the bundle has come to hold, or it has none: a wait is accounted for and over (R156, R157). -/
def gatesHeld (s : State) (lc : Nat) (is : List Instr) : State := (is.findSome? gateOf).elim s (endWait s lc)

/-- A slot operation of the core waits. -/
def State.slotHeld (s : State) (lc : Nat) : Bool := s.held.any (fun i => slotCore i = some lc)

/-- A slot of a bundle by itself would wait (R141 step 3). -/
def slotWaits (s : State) (lc : Nat) (i : Instr) : Bool := (after (exec i s) s).slotHeld lc

/-- A slot by itself is refused: its core stops with a hazard met at issue (R141 step 4, Table 5.16). -/
def hazardMet (c d : Core) : Bool :=
  let w := d.seq.fault.toNat
  !c.dead && d.seq.stopped && (bits w 2 0 = 1 || bits w 2 0 = 2 || (bits w 2 0 = 3 && 2 ≤ bits w 11 4))

/-- A waiting bundle: every slot that waits counts, each counter by at most one, and no slot takes effect (R99, R130, R140). -/
def countWaits (s : State) (lc : Nat) (is : List Instr) : State :=
  let c := s.core lc
  let t := is.foldl (fun t i =>
    let u := after (exec i t) t
    if u.slotHeld lc then { u with held := t.held } else t) s
  t.modCore lc (fun d => { d with
    arr := { d.arr with cwait := if d.arr.rwait = c.arr.rwait && d.arr.cwait ≠ c.arr.cwait then bump c.arr.cwait 1 else c.arr.cwait }
    fv := { d.fv with wait := if d.fv.wait = c.fv.wait then c.fv.wait else bump c.fv.wait 1 } })

/-- The tile of an operation on the array, and the mode that a multiplication takes (Table 3.1). -/
def tileOp : Instr → Option (Nat × Option Bool)
  | .mac _ t m _ _ => some (t, some m)
  | .macz _ t m _ _ => some (t, some m)
  | .aclr _ t => some (t, none)
  | _ => none

/-- The tile of a line-port transfer. -/
def portTile : Instr → Option Nat
  | .linePortReadout _ t .. => some t
  | .linePortLoad _ t .. => some t
  | _ => none

/-- The head block of a feeder has another tag than `m`. -/
def Core.tagDiffers (c : Core) (f : Feed) (m : Bool) : Bool := (c.head f).any (fun b => b.fp32 ≠ m)

/-- The hazard of Table 3.4 that a bundle meets, the first in the order of the table: its code and `TILE` (R91). -/
def arrayMet (c : Core) (is : List Instr) : Option (Nat × Nat) :=
  let op := is.findSome? tileOp
  let port := is.findSome? portTile
  match op, port with
  | some (t, m), p =>
    if c.tileBusy t || p = some t then some (1, t)
    else if p.isSome && c.portBusy then some (2, p.getD 0)
    else if m.any (fun m => c.tagDiffers .a m || c.tagDiffers .b m) then some (3, t)
    else none
  | none, some p => if c.portBusy then some (2, p) else none
  | none, none => none

/-- `FEED_NO_INSTR`: the feeder that a bundle flushes while its multiplication would wait for that feeder's block (R129). -/
def flushMet (c : Core) (is : List Instr) : Option Feed :=
  if is.any (fun i => (tileOp i).any (fun x => x.2.isSome)) then
    is.findSome? (fun i => match i with
      | .fflush _ f => if c.head f = none then some f else none
      | _ => none)
  else none

/-- The part after the first hazard that a bundle meets at issue: Table 3.4 before Table 4.11 before Table 5.16 (R141 step 4). -/
def refusedBy (s : State) (lc : Nat) (is : List Instr) : Option State :=
  match arrayMet (s.core lc) is with
  | some (code, tile) => some (arrayHazard s lc code tile)
  | none => (is.filter (fun i => (tileOp i).isNone && (portTile i).isNone)).findSome? (fun i =>
      let t := after (exec i s) s
      if hazardMet (s.core lc) (t.core lc) then some t else none)

/-- A slot of a bundle that issues takes effect; what it waits for was tested before any slot acted. -/
def slotActs (s : State) (i : Instr) : State :=
  match i with
  | .gend lc => gendAct lc s
  | .gseg lc seg frame => gsegAct lc seg.toNat frame s
  | i => after (exec i s) s

/-- The slots in the order in which they act: that of R140, but that a line-port transfer, which touches the vector registers four
cycles later, comes after the VECTOR slot whose results it may take (R87). -/
def actOrder (is : List Instr) : List Instr :=
  let last (i : Instr) : Bool := (portTile i).isSome
  let late (i : Instr) : Bool := match i with
    | .mnop _ => true
    | .mcopy .. => true
    | .mclear .. => true
    | _ => false
  is.takeWhile (fun i => !late i) |>.filter (fun i => !last i) |> (· ++ is.filter last ++ is.dropWhile (fun i => !late i))

/-- The bundle of a core after its gate condition: waits, then hazards, then issue (R141). -/
def issueBundle (s : State) (lc : Lc) (is : List Instr) : State :=
  if s.ticks < (s.core lc).seq.wakeTill then s.modCore lc (fun c => c.wakeCycle.holdCycle false)
  else match flushMet (s.core lc) is with
  | some f => fvHazard s lc 3 (f = .b) 0 0 (s.core lc).seq.next
  | none =>
    if is.any (slotWaits s lc) then (countWaits s lc is).modCore lc Core.waitCycle
    else (refusedBy s lc is).getD ((actOrder is).foldl slotActs s)

/-- The next bundle of a running core is examined (R140, R141). A bundle with a reserved slot, which no image holds, never
issues (log 52). -/
def examineBundle (s : State) (lc : Lc) : State :=
  let s := fetchChecked s lc
  if (s.core lc).dead then s.modCore lc Core.waitCycle
  else match nextBundle s lc with
  | none => contractHazard s lc 8 0
  | some b =>
    match decodeBundle lc b with
    | none => s.modCore lc Core.waitCycle
    | some is =>
      if is.any (gateFails (s.core lc)) then s.modCore lc (fun c => c.gateFail.holdCycle false)
      else issueBundle (gatesHeld s lc is) lc is

/-- The gate operation that a core's next bundle, or the slot operations given to it one by one, wait with. -/
def nextGate (s : State) (lc : Lc) : List Instr :=
  if s.slotHeld lc then s.held.filter (fun i => slotCore i = some lc.val)
  else if (s.core lc).seq.running then ((nextBundle s lc).bind (decodeBundle lc)).getD [] else []

/-- In a pause the increments of a cycle are told apart too: those of a cycle after which the gate condition fails end no wait, and
with the first cycle in which it holds the wait is over (R155, R157). -/
def pauseGate (s : State) (lc : Lc) : State :=
  let is := nextGate s lc
  if is.any (gateFails (s.core lc)) then s.modCore lc (fun c => { c with seq := { c.seq with recent := [] } })
  else gatesHeld s lc is

/-- The slot operations of a core that were given one by one and wait, tried again in order. -/
def retrySlots (s : State) (lc : Nat) : State :=
  let is := s.held.filter (fun i => slotCore i = some lc)
  is.foldl (fun t i => after (exec i t) t) { s with held := s.held.filter (fun i => slotCore i ≠ some lc) }

/-- The feeder store's cycle; with the last store of a core that has ended, its job may end (R148, R190). -/
def storePass (s : State) (lc : Nat) : State :=
  let t := storeCycle s lc
  if (s.core lc).storing && !(t.core lc).storing then jobEndAt t lc else t

/-- The sequencer's part of an array cycle of a core. -/
def sequencerCycle (s : State) (lc : Lc) : State :=
  let s := storePass (coreDue s lc) lc
  let q := (s.core lc).seq
  if q.paused then (pauseGate s lc).modCore lc Core.pauseCycle
  else if 0 < q.pauseLeft then s.modCore lc Core.slackCycle
  else if s.slotHeld lc then
    let t := retrySlots s lc
    if t.slotHeld lc then t.modCore lc (if q.running then Core.waitCycle else Core.idleCycle) else t
  else if q.running && !(s.core lc).dead then examineBundle s lc
  else s.modCore lc Core.idleCycle

/-- One array cycle of a core; its movers go on in every one (R155, R181). -/
def coreCycle (s : State) (lc : Lc) : State := (List.finRange 4).foldl (fun s m => moverCycle s lc m) (sequencerCycle s lc)

/-- Gate waits grow by a fabric cycle, and one that reaches its limit faults its job (R153). -/
def passWaits (s : State) : State :=
  let s : State := { s with cores := s.cores.map (fun e => (e.1, e.2.waitTick)) }
  ((s.cores.map (·.1)).filter (fun lc => lc < 800 && s.stalled lc)).foldl (fun s lc => after (execGateStall (Fin.ofNat 800 lc) s) s) s

/-- Every clock region passes a fabric cycle; the cores of the regions in which an array cycle ends have one, in ascending order,
so that of several that fault the lowest-numbered is first (R154). -/
def passClocks (s : State) : State :=
  let go := (List.range 5).filter (fun r => (s.clk r).cycles)
  let s := (List.range 5).foldl (fun s r => s.modClk r ClockRegion.pass) s
  ((s.cores.map (·.1)).filter (fun lc => lc < 800 && go.contains (regionOf (clusterOf lc)))).foldl
    (fun s lc => coreCycle s (Fin.ofNat 800 lc)) (passWaits s)

/-! ## Units of the Orangery (R269 to R281) -/

/-- The stack and number of the unit that a command is an instruction of. -/
def unitOf : Instr → Option (Nat × Nat)
  | .buNop u => some (u.stack, u.num)
  | .buLd u .. => some (u.stack, u.num)
  | .buSt u .. => some (u.stack, u.num)
  | .buLdi u .. => some (u.stack, u.num)
  | .buIadd u .. => some (u.stack, u.num)
  | .buIaddi u .. => some (u.stack, u.num)
  | .buLoop u .. => some (u.stack, u.num)
  | .buBr u .. => some (u.stack, u.num)
  | .buEnd u => some (u.stack, u.num)
  | .buFadd u .. => some (u.stack, u.num)
  | .buFsub u .. => some (u.stack, u.num)
  | .buFmul u .. => some (u.stack, u.num)
  | .buFfma u .. => some (u.stack, u.num)
  | .buFmin u .. => some (u.stack, u.num)
  | .buFmax u .. => some (u.stack, u.num)
  | .buFclt u .. => some (u.stack, u.num)
  | .buFsel u .. => some (u.stack, u.num)
  | .buFrcp u .. => some (u.stack, u.num)
  | .buFrsq u .. => some (u.stack, u.num)
  | .buBcast u .. => some (u.stack, u.num)
  | .buCvt u .. => some (u.stack, u.num)
  | .buExt u .. => some (u.stack, u.num)
  | .buRand u .. => some (u.stack, u.num)
  | .buPut u .. => some (u.stack, u.num)
  | .buCsend u .. => some (u.stack, u.num)
  | .buCrecv u .. => some (u.stack, u.num)
  | .ruNop u => some (u.stack, u.num)
  | .ruRld u .. => some (u.stack, u.num)
  | .ruRst u .. => some (u.stack, u.num)
  | .ruSldi u .. => some (u.stack, u.num)
  | .ruSadd u .. => some (u.stack, u.num)
  | .ruSaddi u .. => some (u.stack, u.num)
  | .ruLoop u .. => some (u.stack, u.num)
  | .ruBr u .. => some (u.stack, u.num)
  | .ruEnd u => some (u.stack, u.num)
  | .ruAnd u .. => some (u.stack, u.num)
  | .ruOr u .. => some (u.stack, u.num)
  | .ruXor u .. => some (u.stack, u.num)
  | .ruAndn u .. => some (u.stack, u.num)
  | .ruMux u .. => some (u.stack, u.num)
  | .ruNot u .. => some (u.stack, u.num)
  | .ruFa u .. => some (u.stack, u.num)
  | .ruCclr u => some (u.stack, u.num)
  | .ruCset u => some (u.stack, u.num)
  | .ruPopc u .. => some (u.stack, u.num)
  | .ruAnys u .. => some (u.stack, u.num)
  | .ruTrin u .. => some (u.stack, u.num)
  | .ruTrout u .. => some (u.stack, u.num)
  | .ruCrc u .. => some (u.stack, u.num)
  | .ruPut u => some (u.stack, u.num)
  | _ => none

/-- A running unit carries out the instruction at its `PC`, one per bank cycle (R272, log 53); a reserved one stops it with error 3
(R281). An instruction that waits is tried again. -/
def unitStep (s : State) (k u : Nat) : State :=
  let x := (s.stack k).unit u
  if !x.runs then s
  else if 0 < x.refLeft then s.modUnit k u BUnit.suspendCycle
  else
    let w := Tbl.get 0 x.store x.pc
    let i := if isRowUnit u then decodeRow { stack := Fin.ofNat 6 k, ch := Fin.ofNat 32 (u / 32), hi := u % 32 = 31 } w
      else decodeBank { stack := Fin.ofNat 6 k, ch := Fin.ofNat 32 (u / 32), bk := Fin.ofNat 30 (u % 32) } w
    match i with
    | none => unitFail s k u 3 0
    | some i => { after (exec i s) s with held := (after (exec i s) s).held.filter (fun i => unitOf i ≠ some (k, u)) }

/-- A bank cycle of 2 ns ends with fabric cycle `t` of 0.625 ns (R252). -/
def bankCycle (t : Nat) : Bool := 5 * t / 16 ≠ 5 * (t - 1) / 16

/-- A bank cycle of a running unit: an instruction given to it that waits is tried again, else its program goes on (R272). -/
def unitTurn (s : State) (k u : Nat) : State :=
  match s.held.find? (fun i => unitOf i = some (k, u)) with
  | some i =>
    let s : State := { s with held := s.held.erase i }
    after (exec i s) s
  | none => unitStep s k u

/-- The units that run have a step in every bank cycle. -/
def passUnits (s : State) : State :=
  if bankCycle s.ticks then
    (s.orgs.flatMap (fun e => (e.2.units.filter (fun x => x.2.runs)).map (fun x => (e.1, x.1)))).foldl (fun s e => unitTurn s e.1 e.2) s
  else s

/-! ## Waiting commands and the host's rings (R373 to R378) -/

/-- A command that waits is tried again in every fabric cycle: those of bundles and of units have cycles of their own. -/
def retried (i : Instr) : Bool := slotCore i = none && unitOf i = none

/-- The commands that wait are tried again in the order in which they came. -/
def retryHeld (s : State) : State :=
  (s.held.filter retried).foldl (fun t i => after (exec i t) t) { s with held := s.held.filter (!retried ·) }

/-- A command entry from its 64 bytes (Table 13.6). -/
def parseEntry (b : List Byte) : Entry :=
  { flags := BitVec.ofNat 8 (leField b 2 2), rsv3 := BitVec.ofNat 8 (leField b 3 3), cid := BitVec.ofNat 32 (leField b 4 7)
    plen := BitVec.ofNat 32 (leField b 8 11), rsv12 := BitVec.ofNat 32 (leField b 12 15), daddr := BitVec.ofNat 64 (leField b 16 23)
    dlen := BitVec.ofNat 64 (leField b 24 31), tail := BitVec.ofNat 256 (leField b 32 63) }

/-- The head of a submission ring moves past a fetched entry. -/
def fetched (s : State) (q : Nat) : State := s.modQueue q (fun x => { x with sqHead := (x.sqHead + 1) % 2 ^ x.sqLog })

/-- Fetch one entry of a queue that may fetch. A reserved opcode completes with `CMD_OPCODE`; a Torzan command above the limit
stays unfetched; a read that PCIe fails puts the queue in state 2 (R374, R378, R381, Table 13.5). -/
def fetchOne (s : State) (q : Nat) : State :=
  let x := s.queue q
  if x.st ≠ .on || x.draining || x.sqHead = x.sqTail || !s.hif.bme then s
  else
    let a := x.sqBase + 64 * x.sqHead
    if s.hostFails a 64 then s.modQueue q (fun x => { x with st := .err, err := 2 })
    else
      let b := s.hostBytes a 64
      match hostInstr (leField b 0 1) (BitVec.ofNat 16 q) (parseEntry b) with
      | none =>
        let id := s.hif.nextId
        completeCmd (startCmd (acceptCmd (fetched s q) false false [] q (parseEntry b)) { q := q, id := id }) { q := q, id := id } 1 false 0 0
      | some i =>
        let t := after (exec i (fetched s q)) (fetched s q)
        if t.hif.nextId = s.hif.nextId then s else t

/-- Waiting completions and messages go out, and a drained queue reads state 0 (R373, R374, R376). -/
def serveQueue (s : State) (q : Nat) : State :=
  after (execInterruptCoalesceTimer (BitVec.ofNat 16 q) (drainDone (writeWaiting s q) q)) (drainDone (writeWaiting s q) q)

/-- The host's queues are served. -/
def passHost (s : State) : State :=
  postNote ((s.hif.queues.map (·.1)).foldl (fun s q => serveQueue (fetchOne s q) q) s)

/-- One fabric cycle. -/
def tick (s : State) : State :=
  let s := { s with ticks := s.ticks + 1 }
  fuseBegin (pumpAll (passHost (passPosts (retryHeld (passUnits (passClocks s))))))

end Sys2Proof.Machine
end

