-- ==== Sys2Proof/Machine/Encode.lean ====
section
/-! DEFINITION. The words of the commands that the part itself decodes: the slots of a bundle and the instructions of the
Orangery's units, from the same tables as their decoders (Tables 3.1, 3.2, 4.1, 4.7, 4.9, 5.9, 5.10, 6.7, 9.7, 9.9). -/

namespace Sys2Proof.Machine

/-! ## Bundle slots -/

/-- ARRAY[11:0] of a primary operation (Tables 3.1, 3.2). -/
def encodePrimary : Instr → Option (Lc × Nat)
  | .anop lc => some (lc, 0)
  | .mac lc tile f pa pb => some (lc, 1 + tile.val * 2 ^ 4 + b2n f * 2 ^ 6 + b2n pa * 2 ^ 7 + b2n pb * 2 ^ 8)
  | .macz lc tile f pa pb => some (lc, 2 + tile.val * 2 ^ 4 + b2n f * 2 ^ 6 + b2n pa * 2 ^ 7 + b2n pb * 2 ^ 8)
  | .aclr lc tile => some (lc, 3 + tile.val * 2 ^ 4)
  | .aramp lc => some (lc, 4)
  | _ => none

/-- ARRAY[47:12] of a line-port transfer, in place (Table 3.1). -/
def encodePort : Instr → Option (Lc × Nat)
  | .linePortReadout lc tile axis clr len slot => some (lc,
      2 ^ 12 + tile.val * 2 ^ 14 + b2n axis * 2 ^ 16 + b2n clr * 2 ^ 17 + len.val * 2 ^ 18 + slot.val * 2 ^ 22)
  | .linePortLoad lc tile axis len pair => some (lc,
      2 ^ 12 + 2 ^ 13 + tile.val * 2 ^ 14 + b2n axis * 2 ^ 16 + len.val * 2 ^ 18 + pair.val * 2 ^ 25)
  | _ => none

/-- FEED[79:0] (Table 4.1). -/
def encodeFeed : Instr → Option (Lc × Feed × Nat)
  | .fnop lc f => some (lc, f, 0)
  | .fblk lc f a => some (lc, f, 1 + b2n a.mode * 2 ^ 3 + a.sfmt.code * 2 ^ 4 + b2n a.tr * 2 ^ 7 + b2n a.rope * 2 ^ 8
      + a.addr.toNat * 2 ^ 10 + a.rep.toNat * 2 ^ 25 + a.stride.toNat * 2 ^ 33 + a.rdesc.toNat * 2 ^ 49)
  | .fgath lc f a => some (lc, f, 2 + b2n a.tr * 2 ^ 7 + b2n a.rope * 2 ^ 8 + a.rep.toNat * 2 ^ 25
      + a.stride.toNat * 2 ^ 33 + a.rdesc.toNat * 2 ^ 49 + a.glist.toNat * 2 ^ 64)
  | .fflush lc f => some (lc, f, 3)
  | _ => none

/-- The code of an operand source (Table 4.8). -/
def vsrcCode : VSrc → Nat
  | .reg => 0
  | .slot => 1
  | .row => 2
  | .col => 3
  | .scalar => 4

/-- The core, the code and the fields of a vector operation (Table 4.9). -/
def vectorCode : Instr → Option (Lc × Nat × VSlot)
  | .vadd lc a => some (lc, 0x01, a)
  | .vsub lc a => some (lc, 0x02, a)
  | .vmul lc a => some (lc, 0x03, a)
  | .vfma lc a => some (lc, 0x04, a)
  | .vmin lc a => some (lc, 0x05, a)
  | .vmax lc a => some (lc, 0x06, a)
  | .vclt lc a => some (lc, 0x07, a)
  | .vceq lc a => some (lc, 0x08, a)
  | .vsel lc a => some (lc, 0x09, a)
  | .vmov lc a => some (lc, 0x0A, a)
  | .vcvt lc a => some (lc, 0x0B, a)
  | .vext lc a => some (lc, 0x0C, a)
  | .vexp2 lc a => some (lc, 0x10, a)
  | .vlog2 lc a => some (lc, 0x11, a)
  | .vrcp lc a => some (lc, 0x12, a)
  | .vrsqrt lc a => some (lc, 0x13, a)
  | .vtanh lc a => some (lc, 0x14, a)
  | .vsigm lc a => some (lc, 0x15, a)
  | .vrsumr lc a => some (lc, 0x18, a)
  | .vrmaxr lc a => some (lc, 0x19, a)
  | .vrsumc lc a => some (lc, 0x1A, a)
  | .vrmaxc lc a => some (lc, 0x1B, a)
  | .vrsum lc a => some (lc, 0x1C, a)
  | .vrmax lc a => some (lc, 0x1D, a)
  | .vsmstat lc a => some (lc, 0x20, a)
  | .vsmexp lc a => some (lc, 0x21, a)
  | .vmask lc a => some (lc, 0x22, a)
  | .vdrop lc a => some (lc, 0x23, a)
  | .vld lc a => some (lc, 0x28, a)
  | .vst lc a => some (lc, 0x29, a)
  | _ => none

/-- The fields of a VECTOR slot beside its operation, in place (Table 4.7). -/
def vectorFields (a : VSlot) : Nat :=
  a.cnt.toNat * 2 ^ 6 + a.vd.val * 2 ^ 18 + a.va.val * 2 ^ 24 + a.vb.val * 2 ^ 30 + a.vc.val * 2 ^ 36
    + vsrcCode a.asrc * 2 ^ 42 + vsrcCode a.bsrc * 2 ^ 45 + b2n a.rel * 2 ^ 48 + b2n a.rnd * 2 ^ 49 + b2n a.sat * 2 ^ 51
    + a.fmt.val * 2 ^ 52 + a.imm.toNat * 2 ^ 64 + a.thr.toNat * 2 ^ 96

/-- VECTOR[111:0] (Table 4.7). -/
def encodeVector (i : Instr) : Option (Lc × Nat) :=
  match i with
  | .vnop lc => some (lc, 0)
  | _ => (vectorCode i).map (fun x => (x.1, x.2.1 + vectorFields x.2.2))

/-- The fields of a MOVE slot beside its operation, in place (Table 6.7). -/
def moveFields (a : MSlot) : Nat :=
  a.mover.val * 2 ^ 4 + a.lsel.val * 2 ^ 6 + b2n a.fence * 2 ^ 9 + a.desc.toNat * 2 ^ 10 + a.sspace.val * 2 ^ 27
    + a.dspace.val * 2 ^ 31 + a.share.toNat * 2 ^ 35 + a.cgate.val * 2 ^ 39 + a.clc.val * 2 ^ 45 + a.cinc.toNat * 2 ^ 55

/-- MOVE[111:0] (Table 6.7). -/
def encodeMove : Instr → Option (Lc × Nat)
  | .mnop lc => some (lc, 0)
  | .mcopy lc a => some (lc, 1 + moveFields a)
  | .mclear lc a => some (lc, 2 + moveFields a)
  | _ => none

/-- GATE[79:0] (Tables 5.9, 5.10). -/
def encodeGate : Instr → Option (Lc × Nat)
  | .gnop lc => some (lc, 0x0)
  | .gwait lc g n => some (lc, 0x1 + g.val * 2 ^ 4 + n.toNat * 2 ^ 10)
  | .gpeek lc g n => some (lc, 0x2 + g.val * 2 ^ 4 + n.toNat * 2 ^ 10)
  | .ginc lc g n => some (lc, 0x3 + g.val * 2 ^ 4 + n.toNat * 2 ^ 10)
  | .gsend lc t g n => some (lc, 0x4 + g.val * 2 ^ 4 + n.toNat * 2 ^ 10 + t.val * 2 ^ 34)
  | .gloop lc depth iters t => some (lc, 0x5 + depth.val * 2 ^ 44 + iters.toNat * 2 ^ 48 + t.toNat * 2 ^ 64)
  | .gjump lc seg t => some (lc, 0x6 + seg.toNat * 2 ^ 48 + t.toNat * 2 ^ 64)
  | .gseg lc seg frame => some (lc, 0x7 + seg.toNat * 2 ^ 48 + frame.val * 2 ^ 74)
  | .gphase lc imm => some (lc, 0x8 + imm.toNat * 2 ^ 48)
  | .gpause lc n => some (lc, 0x9 + n.toNat * 2 ^ 10)
  | .gend lc => some (lc, 0xA)
  | _ => none

/-! ## Units of the Orangery -/

/-- A bank-unit word from its fields (R271). -/
def bankWord (op d a b c m : Nat) : Word :=
  BitVec.ofNat 32 (op + d * 2 ^ 6 + a * 2 ^ 12 + b * 2 ^ 18 + c * 2 ^ 24 + m * 2 ^ 30)

/-- The unit and the word of a bank-unit instruction (R271, Table 9.7). -/
def encodeBank : Instr → Option (BankUnit × Word)
  | .buNop u => some (u, bankWord 0x00 0 0 0 0 0)
  | .buLd u d a => some (u, bankWord 0x01 d a 0 0 0)
  | .buSt u a b => some (u, bankWord 0x02 0 a b 0 0)
  | .buLdi u d imm => some (u, BitVec.ofNat 32 (0x03 + d.val * 2 ^ 6 + imm.toNat * 2 ^ 12))
  | .buIadd u d a b => some (u, bankWord 0x04 d a b 0 0)
  | .buIaddi u d a imm => some (u, BitVec.ofNat 32 (0x05 + d.val * 2 ^ 6 + a.val * 2 ^ 12 + imm.toNat * 2 ^ 18))
  | .buLoop u a imm => some (u, BitVec.ofNat 32 (0x06 + a.val * 2 ^ 12 + imm.toNat * 2 ^ 18))
  | .buBr u imm => some (u, BitVec.ofNat 32 (0x07 + imm.toNat * 2 ^ 18))
  | .buEnd u => some (u, bankWord 0x08 0 0 0 0 0)
  | .buFadd u h d a b => some (u, bankWord 0x10 d a b 0 (b2n h))
  | .buFsub u h d a b => some (u, bankWord 0x11 d a b 0 (b2n h))
  | .buFmul u h d a b => some (u, bankWord 0x12 d a b 0 (b2n h))
  | .buFfma u h d a b c => some (u, bankWord 0x13 d a b c (b2n h))
  | .buFmin u h d a b => some (u, bankWord 0x14 d a b 0 (b2n h))
  | .buFmax u h d a b => some (u, bankWord 0x15 d a b 0 (b2n h))
  | .buFclt u h d a b => some (u, bankWord 0x16 d a b 0 (b2n h))
  | .buFsel u h d a b c => some (u, bankWord 0x17 d a b c (b2n h))
  | .buFrcp u d a => some (u, bankWord 0x18 d a 0 0 0)
  | .buFrsq u d a => some (u, bankWord 0x19 d a 0 0 0)
  | .buBcast u h d a => some (u, bankWord 0x1A d a 0 0 (b2n h))
  | .buCvt u d a fmt sat rnd c => some (u, bankWord 0x20 d a (fmt.val + 8 * b2n sat + 16 * b2n rnd) c 0)
  | .buExt u d a fmt c => some (u, bankWord 0x21 d a fmt c 0)
  | .buRand u d => some (u, bankWord 0x28 d 0 0 0 0)
  | .buPut u a => some (u, bankWord 0x29 0 a 0 0 0)
  | .buCsend u a => some (u, bankWord 0x30 0 a 0 0 0)
  | .buCrecv u d => some (u, bankWord 0x31 d 0 0 0 0)
  | _ => none

/-- A row-unit word from its fields (R276). -/
def rowWord (op d a b c imm : Nat) : Word :=
  BitVec.ofNat 32 (op + d * 2 ^ 6 + a * 2 ^ 10 + b * 2 ^ 14 + c * 2 ^ 18 + imm * 2 ^ 22)

/-- The unit and the word of a row-unit instruction (R276, Table 9.9). -/
def encodeRow : Instr → Option (RowUnit × Word)
  | .ruNop u => some (u, rowWord 0x00 0 0 0 0 0)
  | .ruRld u d a => some (u, rowWord 0x01 d a 0 0 0)
  | .ruRst u a b => some (u, rowWord 0x02 0 a b 0 0)
  | .ruSldi u d imm => some (u, BitVec.ofNat 32 (0x03 + d.val * 2 ^ 6 + imm.toNat * 2 ^ 10))
  | .ruSadd u d a b => some (u, rowWord 0x04 d a b 0 0)
  | .ruSaddi u d a imm => some (u, rowWord 0x05 d a 0 0 imm.toNat)
  | .ruLoop u a imm => some (u, rowWord 0x06 0 a 0 0 imm.toNat)
  | .ruBr u imm => some (u, rowWord 0x07 0 0 0 0 imm.toNat)
  | .ruEnd u => some (u, rowWord 0x08 0 0 0 0 0)
  | .ruAnd u d a b => some (u, rowWord 0x10 d a b 0 0)
  | .ruOr u d a b => some (u, rowWord 0x11 d a b 0 0)
  | .ruXor u d a b => some (u, rowWord 0x12 d a b 0 0)
  | .ruAndn u d a b => some (u, rowWord 0x13 d a b 0 0)
  | .ruMux u d a b c => some (u, rowWord 0x14 d a b c 0)
  | .ruNot u d a => some (u, rowWord 0x15 d a 0 0 0)
  | .ruFa u d a b => some (u, rowWord 0x16 d a b 0 0)
  | .ruCclr u => some (u, rowWord 0x17 0 0 0 0 0)
  | .ruCset u => some (u, rowWord 0x18 0 0 0 0 0)
  | .ruPopc u d a => some (u, rowWord 0x19 d a 0 0 0)
  | .ruAnys u d a => some (u, rowWord 0x1A d a 0 0 0)
  | .ruTrin u a b => some (u, rowWord 0x20 0 a b 0 0)
  | .ruTrout u a b => some (u, rowWord 0x21 0 a b 0 0)
  | .ruCrc u d a => some (u, rowWord 0x28 (2 * d.val) a 0 0 0)
  | .ruPut u => some (u, rowWord 0x29 0 0 0 0 0)
  | _ => none

end Sys2Proof.Machine
end

