-- ==== Sys2Proof/Safety.lean ====
section
/-! DEFINITION. The terms in which claims about the part are stated: when a slot operation can issue, and what a command
leaves as it was. -/

namespace Sys2Proof.Machine

/-- A slot operation of the core can issue: the core has neither ended nor stopped, no earlier operation of it waits, it is
neither paused nor in planned slack, and no byte of the stores inside it is in error (R140, R141, R147, R155, R194). -/
def SlotFree (s : State) (lc : Nat) : Prop := (s.core lc).dead = false ∧ s.blocked lc = false ∧ (s.core lc).flaws = []

/-- Of the whole part, only logical core `lc` and the count of free values may differ. -/
def OnlyCore (s t : State) (lc : Nat) : Prop :=
  t = { s with cores := t.cores, draws := t.draws } ∧ ∀ k, k ≠ lc → t.core k = s.core k

/-- Memory holds no error pattern, in its data or its valid bits, no open merge entry and no queued write-back (R195, R201, R204, R207). -/
def NoErrors (s : State) : Prop :=
  s.mem.flaws = [] ∧ s.mem.byteFlaws = [] ∧ s.mem.mapFlaws = [] ∧ s.mem.merges = [] ∧ s.mem.writeBacks = []

/-- Every byte of device memory outside the ranges `rs` of (DA, length) reads after as before. -/
def BytesKept (s t : State) (rs : List (Nat × Nat)) : Prop :=
  ∀ a, (∀ e ∈ rs, a < e.1 ∨ e.1 + e.2 ≤ a) → t.byte a = s.byte a

end Sys2Proof.Machine
end

