-- ==== Sys2Proof/Certificates/Slice0/Obligations.lean ====
section
/-! DEFINITION. The statements for the provers. A group of statements about one part of the machine is one obligation: the conjunction
of the definitions named in it, each with its own docstring. -/

open Sys2Proof Sys2Proof.Machine

/-! ## The queue and the part at reset -/

/-- A step takes the command at the front of the queue and carries it out on the part with the queue's rest: the model's own
queue of waiting commands, of which the spec says nothing. Every other statement speaks of `exec` and reaches a run through
this one. -/
def Obligations.StepTakesFront : Prop :=
  ∀ (s : State) (c : Instr) (rest : List Instr),
    step { s with pending := c :: rest } = exec c { s with pending := rest }

/-- No link of the Trellis has failed since its start and no bundle retunes: no route of it drops or holds a packet. -/
def Sys2Proof.Machine.Calm (s : State) : Prop := s.tr.cut = [] ∧ s.bundles.all (fun e => !e.2.retuning) = true

/-- Of the stacks of the Orangery, only their open rows may differ. -/
def Sys2Proof.Machine.OnlyRows (s t : State) : Prop := ∀ k, t.stack k = { s.stack k with rows := (t.stack k).rows }

/-- What bring-up starts from: no register of the boot block reads ready or fatal, no core runs a program, no job is loaded, no
region is mapped, every tile-queue slot is FREE, every accumulator and gate is zero and every core in ramp mode (R78, R99, R115,
R142, R168, R457). Which cause and phase stand there is the model's choice (log 1) and no part of this. -/
def Obligations.ResetLeaves : Prop :=
  State.reset.boot.ready = false ∧ State.reset.boot.fatal = false ∧ State.reset.jobs = [] ∧ State.reset.pending = [] ∧
  State.reset.held = [] ∧
  (∀ lc, (State.reset.core lc).seq.running = false ∧ (State.reset.core lc).arr.ramp = true ∧
    (∀ t i, (State.reset.core lc).tileElem t i = 0) ∧ (∀ k, (State.reset.core lc).slot k = .free) ∧
    (∀ g, (State.reset.core lc).gate g = 0) ∧ (State.reset.core lc).num.flags = 0) ∧
  (∀ k r, (State.reset.region k r).st = .unmapped) ∧ (∀ da, State.reset.byte da = 0)

/-! ## The ARRAY slot and the line port -/

/-- Row r of the A block with column c of the B block: the group sum of R57 and R62 for element 32r + c. -/
def Sys2Proof.Machine.cellSum (fp32 : Bool) (a b : Block) (i : Nat) : Word × Flags × Bool :=
  groupSum (window fp32) ((a.aRows.getD (i / 32) []).zip (b.bCols.getD (i % 32) []))

/-- What a `MAC` (`acc`) or `MACZ` that takes blocks a and b does to its core: elements of the tile, other tiles, pops, level,
flags that only grow, and nothing else of the core. -/
def Sys2Proof.Machine.MacDoes (acc : Bool) (tile : Nat) (popa popb : Bool) (a b : Block) (c d : Core) : Prop :=
  (∀ i, i < 1024 → d.tileElem tile i =
    if acc then (accAdd (c.tileElem tile i) (cellSum a.fp32 a b i).1).1 else (cellSum a.fp32 a b i).1) ∧
  (∀ j, j < tile * 1024 ∨ tile * 1024 + 1024 ≤ j → Tbl.get 0 d.arr.tiles j = Tbl.get 0 c.arr.tiles j) ∧
  d.feeder .a = { c.feeder .a with held := if popa then (c.feeder .a).held.tail else (c.feeder .a).held } ∧
  d.feeder .b = { c.feeder .b with held := if popb then (c.feeder .b).held.tail else (c.feeder .b).held } ∧
  d.arr = { c.arr with
    tiles := d.arr.tiles, opTile := some tile, active := true, level := 8, rising := false, riseCyc := 0
    load := if acc then c.arr.load else c.arr.load.filter (fun l => l.tile ≠ tile) } ∧
  d.num = { c.num with flags := d.num.flags, flushCount := d.num.flushCount } ∧
  d.num.flags ||| c.num.flags = d.num.flags ∧
  d.fv = { c.fv with fa := d.fv.fa, fb := d.fv.fb } ∧ d.seq = c.seq ∧ d.mov = c.mov

/-- `MAC` adds the group sums of the two head blocks into its tile and `MACZ` writes them without an addition; `POPA` and
`POPB` act after the operands are taken; a block that is not popped stays (R82, R83). Both complete once both heads are there
with the right tag, no ramp is waited for, and the tile is not busy (R89 to R91). -/
def Sys2Proof.Machine.MacUpdatesTile : Prop :=
  ∀ (s : State) (lc : Lc) (tile : Fin 4) (popa popb : Bool) (a b : Block),
    SlotFree s lc → (s.core lc).rampWait = false → (s.core lc).head .a = some a → (s.core lc).head .b = some b →
    a.fp32 = b.fp32 → (s.core lc).tileBusy tile = false →
    (∃ t, exec (.mac lc tile a.fp32 popa popb) s = .next t ∧ OnlyCore s t lc ∧
      MacDoes true tile popa popb a b (s.core lc) (t.core lc)) ∧
    (∃ t, exec (.macz lc tile a.fp32 popa popb) s = .next t ∧ OnlyCore s t lc ∧
      MacDoes false tile popa popb a b (s.core lc) (t.core lc))

/-- `MAC` and `MACZ` wait, and nothing of them takes effect but a waiting count, while a feeder has no block at its head or
the level is below 8 in ramp mode (R89). -/
def Sys2Proof.Machine.MacWaits : Prop :=
  ∀ (s : State) (lc : Lc) (tile : Fin 4) (fp32 popa popb : Bool),
    SlotFree s lc → ((s.core lc).head .a = none ∨ (s.core lc).head .b = none ∨
      ((s.core lc).arr.ramp = true ∧ (s.core lc).arr.level < 8)) →
    ∀ i, i = Instr.mac lc tile fp32 popa popb ∨ i = Instr.macz lc tile fp32 popa popb →
      ∃ t, exec i s = .next t ∧ t = { s with cores := t.cores, held := s.held ++ [i] } ∧ (∀ k : Nat, k ≠ lc.val → t.core k = s.core k) ∧
        t.core lc = { s.core lc with arr := (t.core lc).arr } ∧
        (t.core lc).arr.tiles = (s.core lc).arr.tiles ∧ (t.core lc).arr.level = (s.core lc).arr.level ∧
        (t.core lc).arr.fault = (s.core lc).arr.fault ∧ (t.core lc).arr.opTile = (s.core lc).arr.opTile

/-- A head block whose tag differs from `FMT` is a checked hazard: with no busy tile, `ARRAY_FAULT` records code 0b11 with the
tile and the bundle, no tile changes, and the core issues no further bundle (R83, R90, R91, R153). -/
def Sys2Proof.Machine.MacFormatHazard : Prop :=
  ∀ (s : State) (lc : Lc) (tile : Fin 4) (fp32 popa popb : Bool) (a b : Block) (j : Job),
    SlotFree s lc → (s.core lc).rampWait = false → (s.core lc).head .a = some a → (s.core lc).head .b = some b →
    (a.fp32 ≠ fp32 ∨ b.fp32 ≠ fp32) → (s.core lc).tileBusy tile = false →
    s.jobOf lc = some j → j.phase = .running →
    ∀ i, i = Instr.mac lc tile fp32 popa popb ∨ i = Instr.macz lc tile fp32 popa popb → ∃ t, exec i s = .next t ∧
      (t.core lc).arr = { (s.core lc).arr with fault := arrayFault 3 tile (s.core lc).seq.next } ∧
      (t.core lc).seq.stopped = true ∧ (t.core lc).seq.fault = contractFault 1 true 0 (s.core lc).seq.next ∧
      (t.core lc).fv = (s.core lc).fv ∧ (t.core lc).num = (s.core lc).num ∧ (t.core lc).mov = (s.core lc).mov

/-- `MAC` and `MACZ`: their effect, their waits and their checked hazard (R82, R83, R89 to R91). -/
def Obligations.ArrayMultiplies : Prop :=
  MacUpdatesTile ∧ MacWaits ∧ MacFormatHazard

/-- `ACLR` writes +0 into every element of its tile, sets no flag, and leaves everything else of the part as it was (R82). -/
def Sys2Proof.Machine.AclrClearsTile : Prop :=
  ∀ (s : State) (lc : Lc) (tile : Fin 4), SlotFree s lc → (s.core lc).tileBusy tile = false →
    ∃ t, exec (.aclr lc tile) s = .next t ∧ OnlyCore s t lc ∧ (∀ i, i < 1024 → (t.core lc).tileElem tile i = 0) ∧
      (∀ j, j < tile.val * 1024 ∨ tile.val * 1024 + 1024 ≤ j →
        Tbl.get 0 (t.core lc).arr.tiles j = Tbl.get 0 (s.core lc).arr.tiles j) ∧
      t.core lc = { s.core lc with
        arr := { (s.core lc).arr with
          tiles := (t.core lc).arr.tiles, opTile := some tile.val, load := (s.core lc).arr.load.filter (fun l => l.tile ≠ tile.val) } }

/-- The activity level: `ARAMP` in hold mode or at level 8 makes the level 8 and restarts n; below 8 in ramp mode it starts a
rise; a due step of a rise raises the level by one and ends the rise at 8; a fall that is due lowers it by one (R95,
Table 3.5). Nothing else of the part changes. -/
def Sys2Proof.Machine.LevelFollowsTable35 : Prop :=
  ∀ (s : State) (lc : Lc),
    (SlotFree s lc → ∃ t, exec (.aramp lc) s = .next t ∧ OnlyCore s t lc ∧
      t.core lc = { s.core lc with arr := (t.core lc).arr } ∧
      (if (s.core lc).arr.ramp = true ∧ (s.core lc).arr.level < 8 then
        (t.core lc).arr = { (s.core lc).arr with rising := true, riseCyc := (t.core lc).arr.riseCyc } ∧
        ((s.core lc).arr.rising = false → (t.core lc).arr.riseCyc = 0)
      else (t.core lc).arr = { (s.core lc).arr with level := 8, quiet := 0, rising := false, fresh := true })) ∧
    ((s.core lc).arr.rising = true → 6 ≤ (s.core lc).arr.riseCyc → (s.core lc).arr.level < 8 →
      ∃ t, exec (.activityLevelRise lc) s = .next t ∧ OnlyCore s t lc ∧
        t.core lc = { s.core lc with arr := (t.core lc).arr } ∧ (t.core lc).arr.level = (s.core lc).arr.level + 1 ∧
        ((t.core lc).arr.rising = false ↔ (t.core lc).arr.level = 8) ∧ (t.core lc).arr.tiles = (s.core lc).arr.tiles) ∧
    ((s.core lc).arr.rising = false → (s.core lc).seq.paused = false →
      (s.core lc).arr.level = levelAfter ((s.core lc).arr.quiet - 1) (s.core lc).linger →
      levelAfter (s.core lc).arr.quiet (s.core lc).linger < (s.core lc).arr.level →
      ∃ t, exec (.activityLevelFall lc) s = .next t ∧ OnlyCore s t lc ∧
        t.core lc = { s.core lc with arr := { (s.core lc).arr with level := (s.core lc).arr.level - 1, fall := false } } ∧
        (t.core lc).arr.level = levelAfter (s.core lc).arr.quiet (s.core lc).linger)

/-- A readout of n groups: the slot is FILLING and holds, in transfer order, exactly the tile's elements, and +0 beyond them;
with `CLR` the groups read are +0 after it, and everything else of the tiles stays; port and tile are busy for n cycles, and the
slot is due FULL at 6 + n (R84, R85, R90, R115, Table 4.6). -/
def Sys2Proof.Machine.ReadoutFillsSlot : Prop :=
  ∀ (s : State) (lc : Lc) (tile : Fin 4) (axis clr : Bool) (len : Fin 16) (slot : Fin 8),
    SlotFree s lc → (s.core lc).slot slot = .free → (s.core lc).portBusy = false → (s.core lc).arr.opTile ≠ some tile.val →
    ∃ t, exec (.linePortReadout lc tile axis clr len slot) s = .next t ∧ OnlyCore s t lc ∧
      (t.core lc).slot slot = .filling ∧ Tbl.get 0 (t.core lc).fv.slotDue slot = (s.core lc).seq.cycle + 6 + (len.val + 1) ∧
      (∀ e, e < 1024 → Tbl.get 0 (t.core lc).fv.slotData (slot.val * 1024 + e) =
        if e < 64 * (len.val + 1) then (s.core lc).tileElem tile (lineElem axis e) else 0) ∧
      (∀ i, i < 4096 → Tbl.get 0 (t.core lc).arr.tiles i =
        if clr = true ∧ ∃ e, e < 64 * (len.val + 1) ∧ i = tile.val * 1024 + lineElem axis e then 0
        else Tbl.get 0 (s.core lc).arr.tiles i) ∧
      (t.core lc).arr.port = some { tile := tile.val, till := (s.core lc).seq.cycle + (len.val + 1) } ∧
      (∀ k, k ≠ slot.val → (t.core lc).slot k = (s.core lc).slot k) ∧
      (t.core lc).num = (s.core lc).num ∧ (t.core lc).seq = (s.core lc).seq ∧ (t.core lc).mov = (s.core lc).mov ∧
      (t.core lc).fv.vregs = (s.core lc).fv.vregs

/-- A load of n groups writes each value of its register pair into the tile in transfer order, subnormals flushed and NaNs
canonical by R61, without a sticky flag but the flush; what it does not reach stays (R86, R90). Values of the pair that are not yet
readable are free (R128); here all are readable. -/
def Sys2Proof.Machine.LineLoadWritesTile : Prop :=
  ∀ (s : State) (lc : Lc) (tile : Fin 4) (axis : Bool) (len : Fin 16) (pair : Fin 32),
    SlotFree s lc → (s.core lc).portBusy = false → (s.core lc).arr.opTile ≠ some tile.val →
    (∀ r, Tbl.get 0 (s.core lc).fv.vready r ≤ (s.core lc).seq.cycle) →
    ∃ t, exec (.linePortLoad lc tile axis len pair) s = .next t ∧ OnlyCore s t lc ∧
      (∀ e, e < 64 * (len.val + 1) → (t.core lc).tileElem tile (lineElem axis e) =
        (accLoad (Tbl.get 0 (s.core lc).fv.vregs (2 * pair.val * 512 + e))).1) ∧
      (∀ i, (∀ e, e < 64 * (len.val + 1) → i ≠ tile.val * 1024 + lineElem axis e) →
        Tbl.get 0 (t.core lc).arr.tiles i = Tbl.get 0 (s.core lc).arr.tiles i) ∧
      (t.core lc).arr.port = some { tile := tile.val, till := (s.core lc).seq.cycle + (len.val + 1) } ∧
      (t.core lc).fv = (s.core lc).fv ∧ (t.core lc).seq = (s.core lc).seq ∧ (t.core lc).mov = (s.core lc).mov

/-- Line-port transfers: readouts and loads (R84 to R86, R90, R115, R128). -/
def Obligations.LinePortTransfers : Prop :=
  ReadoutFillsSlot ∧ LineLoadWritesTile

/-- A slot that is FILLING becomes FULL, and one that is DRAINING becomes FREE with its contents kept; nothing else of the part
changes, and in any other state the event changes nothing (R115, R117, Table 4.6). -/
def Sys2Proof.Machine.SlotStatesMove : Prop :=
  ∀ (s : State) (lc : Lc) (k : Fin 8),
    (∃ t, exec (.tileSlotFull lc k) s = .next t ∧ OnlyCore s t lc ∧
      (t.core lc).slot k = (if (s.core lc).slot k = .filling then .full else (s.core lc).slot k) ∧
      (∀ j, j ≠ k.val → (t.core lc).slot j = (s.core lc).slot j) ∧
      t.core lc = { s.core lc with fv := { (s.core lc).fv with slots := (t.core lc).fv.slots } }) ∧
    (∃ t, exec (.tileSlotFree lc k) s = .next t ∧ OnlyCore s t lc ∧
      (t.core lc).slot k = (if (s.core lc).slot k = .draining then .free else (s.core lc).slot k) ∧
      (∀ j, j ≠ k.val → (t.core lc).slot j = (s.core lc).slot j) ∧
      t.core lc = { s.core lc with fv := { (s.core lc).fv with slots := (t.core lc).fv.slots } })

/-- A slot with no operation changes nothing of the part: `ANOP`, `FNOP`, `VNOP` and `MNOP` (R80, R104, R120, R176). -/
def Sys2Proof.Machine.EmptySlotsDoNothing : Prop :=
  ∀ (s : State) (lc : Lc) (f : Feed), SlotFree s lc →
    exec (.anop lc) s = .next s ∧ exec (.fnop lc f) s = .next s ∧ exec (.vnop lc) s = .next s ∧ exec (.mnop lc) s = .next s

/-- `ACLR`, `ARAMP`, the activity level, the states of tile-queue slots, and slots without an operation (R80, R82, R95, R104, R115, R117, R120, R176). -/
def Obligations.ArrayStateMoves : Prop :=
  AclrClearsTile ∧ LevelFollowsTable35 ∧ SlotStatesMove ∧ EmptySlotsDoNothing

/-! ## The FEED slots -/

/-- A feeder with fewer than two instructions takes an `FBLK` or `FGATH`: it stands last among them, with block 0 next and its
first read no earlier than the next cycle (R106, R110, R112). Blocks held, the other feeder and the rest of the part stay; a
feeder with two makes the bundle wait, counted in `FV_WAIT` (R112, R130). -/
def Sys2Proof.Machine.FeederTakesInstruction : Prop :=
  ∀ (s : State) (lc : Lc) (f : Feed) (a : FBlkSlot) (g : FGathSlot) (i : Instr) (op : FeedOp),
    (i = .fblk lc f a ∧ op = .blk a) ∨ (i = .fgath lc f g ∧ op = .gath g) → SlotFree s lc →
    (((s.core lc).feeder f).instrs.length < 2 →
      ∃ t, exec i s = .next t ∧ OnlyCore s t lc ∧
        (t.core lc).feeder f = { (s.core lc).feeder f with
          instrs := ((s.core lc).feeder f).instrs ++ [{
            op := op, seq := (s.core lc).mov.seq, bundle := (s.core lc).seq.next, start := (s.core lc).seq.cycle + 1,
            q := 0, glist := [], cur := none, gone := none }] } ∧
        (∀ f', f' ≠ f → (t.core lc).feeder f' = (s.core lc).feeder f') ∧
        (t.core lc).fv = { (s.core lc).fv with fa := (t.core lc).fv.fa, fb := (t.core lc).fv.fb } ∧
        (t.core lc).arr = (s.core lc).arr ∧ (t.core lc).num = (s.core lc).num ∧ (t.core lc).seq = (s.core lc).seq ∧
        (t.core lc).mov = { (s.core lc).mov with seq := (s.core lc).mov.seq + 1 }) ∧
    (2 ≤ ((s.core lc).feeder f).instrs.length →
      ∃ t, exec i s = .next t ∧ t.held = s.held ++ [i] ∧
        t.core lc = { s.core lc with fv := { (s.core lc).fv with wait := bump (s.core lc).fv.wait 1 } })

/-- A block of an `FBLK` without rotation, in a cycle in which its banks are free and no earlier write to its bytes is due: the
block that joins the feeder's blocks is the decoding of the bytes that stand in the feeder store at its address, transposed if
`TR`, with the slot's tag; it can be taken six cycles later (R102, R106, R112, Table 4.4). The store holds no error here. -/
def Sys2Proof.Machine.BlockHoldsStoreBytes : Prop :=
  ∀ (x : StoreCycle) (lc : Lc) (f : Feed) (i : FeedInstr) (a : FBlkSlot),
    i.op = .blk a → a.rope = false → x.st.mem.byteFlaws = [] →
    meetBanks (banksOf (fblkAddr a i.q) (blockBytes a.sfmt)) x.banks = false →
    (x.st.core lc).awaits lc i.seq [(mkDa 0 lc (fblkAddr a i.q), blockBytes a.sfmt)] = false →
    ∃ b : Staged, ((startBlock x lc f i).st.core lc).feeder f =
        { held := ((x.st.core lc).feeder f).held ++ [b]
          instrs := (((startBlock x lc f i).st.core lc).feeder f).instrs } ∧
      b.ready = (x.st.core lc).seq.cycle + 6 ∧ b.block.fp32 = a.mode ∧
      b.block.elems = (let ws := (decodeBlock a.sfmt (x.st.bytesAt (mkDa 0 lc (fblkAddr a i.q)) (blockBytes a.sfmt))).map (·.1)
        if a.tr then transpose (ws.length / storedCols f a.mode a.tr) (storedCols f a.mode a.tr) ws else ws) ∧
      (startBlock x lc f i).st.mem = x.st.mem

/-- The feeders: instructions taken and blocks built (R102, R106, R110, R112, R130). -/
def Obligations.FeederBlocks : Prop :=
  FeederTakesInstruction ∧ BlockHoldsStoreBytes

/-- Within one bundle the ARRAY slot takes and pops its blocks before the FEED slots act: a bundle's commands are those of its ARRAY
slot, then those of its FEED slots, then the others, and are carried out in that order; `FFLUSH` discards every block that its feeder
then holds, with the feeder's instructions, so that none of them can be delivered, and changes nothing else (R113). -/
def Obligations.FlushEmptiesFeeder : Prop :=
  (∀ (lc : Lc) (b : BitVec 512) (cs : List Instr), decodeBundle lc b = some cs → ∃ (as : List Instr) (fa fb v m g : Instr),
    cs = as ++ [fa, fb, v, m, g] ∧ decodeArray lc (bits b.toNat 47 0) = some as ∧ decodeFeed lc .a (bits b.toNat 127 48) = some fa ∧
    decodeFeed lc .b (bits b.toNat 207 128) = some fb) ∧
  (∀ (s : State) (lc : Lc) (f : Feed), SlotFree s lc →
    ∃ t, exec (.fflush lc f) s = .next t ∧ OnlyCore s t lc ∧ (t.core lc).feeder f = { held := [], instrs := [] } ∧
      (∀ f', f' ≠ f → (t.core lc).feeder f' = (s.core lc).feeder f') ∧
      t.core lc = { s.core lc with fv := { (s.core lc).fv with fa := (t.core lc).fv.fa, fb := (t.core lc).fv.fb } })

/-! ## The VECTOR slot -/

/-- Element e of operand a, b or c of a VECTOR instruction that reads `per` elements a beat (Table 4.8). -/
def Sys2Proof.Machine.elemA (s : State) (lc : Nat) (a : VSlot) (per e : Nat) : Word := vecElem (s.core lc) s.draws 0 a.asrc a.va a.imm per e
/-- Operand b. -/
def Sys2Proof.Machine.elemB (s : State) (lc : Nat) (a : VSlot) (per e : Nat) : Word := vecElem (s.core lc) s.draws 4096 a.bsrc a.vb a.imm per e
/-- Operand c. -/
def Sys2Proof.Machine.elemC (s : State) (lc : Nat) (a : VSlot) (per e : Nat) : Word := vecElem (s.core lc) s.draws 8192 .reg a.vc a.imm per e

/-- A VECTOR instruction issues: the engine is free, and the slot it reads, if any, is FULL (R116, R128, Table 4.11). -/
def Sys2Proof.Machine.VecReady (s : State) (lc : Nat) (a : VSlot) : Prop :=
  SlotFree s lc ∧ (s.core lc).fv.vfree ≤ (s.core lc).seq.cycle ∧ (s.core lc).fv.acc = none ∧
    (a.asrc = .slot → (s.core lc).slot (a.va.val % 8) = .full)

/-- Words w 0 … w (n − 1) stand at register r and can be read from a cycle on, `c` the core before; a word whose place awaits a later
result can be read only with that, and its value is free (log 92). -/
def Sys2Proof.Machine.Wrote (c d : Core) (r n at' : Nat) (w : Nat → Word) : Prop :=
  ∀ e, e < n → Tbl.get 0 d.fv.vready (r * 512 + e) = max at' (Tbl.get 0 c.fv.vready (r * 512 + e)) ∧
    (Tbl.get 0 c.fv.vready (r * 512 + e) ≤ at' → Tbl.get 0 d.fv.vregs (r * 512 + e) = w e)

/-- A VECTOR instruction completes: it occupies the engine for k beats, counted as they are executed, writes nothing of the registers outside [r, r + m) words
at `VD`, raises the flags `fl` and drops none, drains its slot if it releases it, and changes nothing else, but for the tiles of a
line-port load whose source it overwrites (R92, R116, R120, R128). `P` says what it writes. -/
def Sys2Proof.Machine.VecDoes (i : Instr) (s : State) (lc : Nat) (a : VSlot) (k m : Nat) (fl : Flags) (P : Core → Prop) : Prop :=
  ∃ t, exec i s = .next t ∧ OnlyCore s t lc ∧ P (t.core lc) ∧
    (∀ j, j < a.vd.val * 512 ∨ a.vd.val * 512 + m ≤ j → Tbl.get 0 (t.core lc).fv.vregs j = Tbl.get 0 (s.core lc).fv.vregs j ∧
      Tbl.get 0 (t.core lc).fv.vready j = Tbl.get 0 (s.core lc).fv.vready j) ∧
    (t.core lc).num.flags = (s.core lc).num.flags ||| fl ∧
    (∀ q, (t.core lc).slot q =
      if a.rel = true ∧ a.asrc = .slot ∧ q = a.va.val % 8 then .draining else (s.core lc).slot q) ∧
    (t.core lc).fv.vfree = (s.core lc).seq.cycle + k ∧ (t.core lc).fv.beatsLeft = (s.core lc).fv.beatsLeft + k ∧
    (t.core lc).fv.beats = (s.core lc).fv.beats ∧
    (t.core lc).fv.slotData = (s.core lc).fv.slotData ∧ (t.core lc).fv.fa = (s.core lc).fv.fa ∧
    (t.core lc).fv.fb = (s.core lc).fv.fb ∧ (t.core lc).fv.stores = (s.core lc).fv.stores ∧
    (t.core lc).num = { (s.core lc).num with flags := (t.core lc).num.flags, ctr := (t.core lc).num.ctr } ∧
    ((s.core lc).arr.load = none → (t.core lc).arr = (s.core lc).arr) ∧
    (t.core lc).seq = (s.core lc).seq ∧ (t.core lc).mov = (s.core lc).mov

/-- The flags of n results. -/
def Sys2Proof.Machine.flagsOf (n : Nat) (f : Nat → Word × Flags) : Flags := resultFlags ((List.range n).map f)

/-- An element-wise result: f e at element e of `VD`, its flags raised, the counter of the generator left alone. -/
def Sys2Proof.Machine.VecElems (i : Instr) (s : State) (lc : Nat) (a : VSlot) (per lat : Nat) (f : Nat → Word × Flags) : Prop :=
  VecDoes i s lc a (cdiv (vcount a) per) (vcount a) (flagsOf (vcount a) f) (fun d =>
    Wrote (s.core lc) d a.vd (vcount a) ((s.core lc).seq.cycle + lat + cdiv (vcount a) per) (fun e => (f e).1) ∧
    d.num.ctr = (s.core lc).num.ctr)

/-- What an operand form of Table 4.8 reads: the e-th word at the register, the slot's element e, element floor(e / 32) for a row
broadcast, e mod 32 for a column broadcast, or `IMM` (registers readable, R118). -/
def Sys2Proof.Machine.OperandForms : Prop :=
  ∀ (s : State) (lc : Lc) (a : VSlot) (per e : Nat), (∀ r, Tbl.get 0 (s.core lc).fv.vready r ≤ (s.core lc).seq.cycle) →
    elemA s lc a per e = (match a.asrc with
      | .reg => Tbl.get 0 (s.core lc).fv.vregs (a.va.val * 512 + e)
      | .slot => Tbl.get 0 (s.core lc).fv.slotData (a.va.val % 8 * 1024 + e)
      | .row => Tbl.get 0 (s.core lc).fv.vregs (a.va.val * 512 + e / 32)
      | .col => Tbl.get 0 (s.core lc).fv.vregs (a.va.val * 512 + e % 32)
      | .scalar => a.imm)

/-- Element-wise arithmetic, comparison, selection and copy: element e of `VD` is the operation of Table 4.9 on element e of
the operands by R69, 512 elements a beat, readable 3 cycles after the last beat (R120, Tables 4.9, 4.10). -/
def Sys2Proof.Machine.VectorElementwise : Prop :=
  ∀ (s : State) (lc : Lc) (a : VSlot), VecReady s lc a →
    VecElems (.vadd lc a) s lc a 512 3 (fun e => add32 (elemA s lc a 512 e) (elemB s lc a 512 e)) ∧
    VecElems (.vsub lc a) s lc a 512 3 (fun e => sub32 (elemA s lc a 512 e) (elemB s lc a 512 e)) ∧
    VecElems (.vmul lc a) s lc a 512 3 (fun e => mul32 (elemA s lc a 512 e) (elemB s lc a 512 e)) ∧
    VecElems (.vfma lc a) s lc a 512 3 (fun e => fma32 (elemA s lc a 512 e) (elemB s lc a 512 e) (elemC s lc a 512 e)) ∧
    VecElems (.vmin lc a) s lc a 512 3 (fun e => min32 (elemA s lc a 512 e) (elemB s lc a 512 e)) ∧
    VecElems (.vmax lc a) s lc a 512 3 (fun e => max32 (elemA s lc a 512 e) (elemB s lc a 512 e)) ∧
    VecElems (.vclt lc a) s lc a 512 3 (fun e => clt32 (elemA s lc a 512 e) (elemB s lc a 512 e)) ∧
    VecElems (.vceq lc a) s lc a 512 3 (fun e => ceq32 (elemA s lc a 512 e) (elemB s lc a 512 e)) ∧
    VecElems (.vsel lc a) s lc a 512 3 (fun e => sel32 (elemA s lc a 512 e) (elemB s lc a 512 e) (elemC s lc a 512 e)) ∧
    VecElems (.vmov lc a) s lc a 512 3 (fun e => mov32 (elemA s lc a 512 e))

/-- Special functions, 64 elements a beat: each function of each element by R70, whose value this part fixes within the bound of
Table 2.7 (log 4) (R70, Tables 2.7, 4.10). -/
def Sys2Proof.Machine.VectorSpecial : Prop :=
  ∀ (s : State) (lc : Lc) (a : VSlot), VecReady s lc a →
    VecElems (.vexp2 lc a) s lc a 64 8 (fun e => exp2fn (elemA s lc a 64 e)) ∧
    VecElems (.vlog2 lc a) s lc a 64 8 (fun e => log2fn (elemA s lc a 64 e)) ∧
    VecElems (.vrcp lc a) s lc a 64 8 (fun e => rcpfn (elemA s lc a 64 e)) ∧
    VecElems (.vrsqrt lc a) s lc a 64 8 (fun e => rsqrtfn (elemA s lc a 64 e)) ∧
    VecElems (.vtanh lc a) s lc a 64 8 (fun e => tanhfn (elemA s lc a 64 e)) ∧
    VecElems (.vsigm lc a) s lc a 64 8 (fun e => sigmoidfn (elemA s lc a 64 e))

/-- VECTOR operand forms, element-wise operations and special functions (R69, R70, R118, R120). -/
def Obligations.VectorElements : Prop :=
  OperandForms ∧ VectorElementwise ∧ VectorSpecial

/-- Conversions: `VEXT` unpacks value e of `VA` exactly; `VCVT` packs the conversions of its elements from byte 0 of `VD`, the
bits beyond them in the last word unchanged, and advances `SR_CTR` by ceil(n / 8) only with `RND` (R63 to R67, R121). -/
def Sys2Proof.Machine.VectorConversions : Prop :=
  ∀ (s : State) (lc : Lc) (a : VSlot), VecReady s lc a →
    VecElems (.vext lc a) s lc a 512 4 (fun e => extend32 a.fmt (unpackAt (s.core lc) s.draws a.va (packBits a.fmt) e)) ∧
    (let rs := cvtResults (s.core lc) a ((List.range (vcount a)).map (elemA s lc a 512))
      let ws := packWords (packBits a.fmt) (rs.map (·.1)) (fun i => Tbl.get 0 (s.core lc).fv.vregs (a.vd.val * 512 + i))
      VecDoes (.vcvt lc a) s lc a (cdiv (vcount a) 512) ws.length (orFlags (rs.map (·.2))) (fun d =>
        Wrote (s.core lc) d a.vd ws.length ((s.core lc).seq.cycle + 4 + cdiv (vcount a) 512) (fun i => ws.getD i 0) ∧
        d.num.ctr = (if a.rnd then bump (s.core lc).num.ctr (cdiv (vcount a) 8) else (s.core lc).num.ctr)))

/-- A reduction: m results at `VD`, result g the pairwise tree over group g of the elements. -/
def Sys2Proof.Machine.VecReduced (i : Instr) (s : State) (lc : Nat) (a : VSlot) (lat m : Nat) (op : Word → Word → Word × Flags)
    (group : Nat → List Word) : Prop :=
  VecDoes i s lc a (cdiv (vcount a) 512) m
    (flagsOf m (fun g => tree32 op (group g)) |||
      (if (List.range (vcount a)).any (fun e => (fp32 (elemA s lc a 512 e)).isNan) then flNanIn else 0)) (fun d =>
    Wrote (s.core lc) d a.vd m ((s.core lc).seq.cycle + lat + cdiv (vcount a) 512) (fun g => (tree32 op (group g)).1) ∧
    d.num.ctr = (s.core lc).num.ctr)

/-- Row, column and whole reductions by the pairwise order of R122: row i is elements 32i to 32i + 31, column j is elements
32i + j in row order (R122). -/
def Sys2Proof.Machine.VectorReductions : Prop :=
  ∀ (s : State) (lc : Lc) (a : VSlot), VecReady s lc a → vcount a % 32 = 0 →
    let el := elemA s lc a 512
    let row (i : Nat) := (List.range 32).map (fun j => el (32 * i + j))
    let col (j : Nat) := (List.range (vcount a / 32)).map (fun i => el (32 * i + j))
    let all (_ : Nat) := (List.range (vcount a)).map el
    VecReduced (.vrsumr lc a) s lc a 9 (vcount a / 32) add32 row ∧
    VecReduced (.vrmaxr lc a) s lc a 9 (vcount a / 32) max32 row ∧
    VecReduced (.vrsumc lc a) s lc a 9 32 add32 col ∧
    VecReduced (.vrmaxc lc a) s lc a 9 32 max32 col ∧
    VecReduced (.vrsum lc a) s lc a 16 1 add32 all ∧
    VecReduced (.vrmax lc a) s lc a 16 1 max32 all

/-- Softmax: `VSMSTAT` writes m′[i], the maximum of m[i] and row i, at `VD` and α[i] at `VD` + 1, α[i] = 1.0 where m′[i] and m[i]
have the same bits and both NaN where the row or m[i] holds one; `VSMEXP` writes exp2(s − m′) with m′ by row broadcast, +0 at
−infinity, and the row sums after them (R123, R124). -/
def Sys2Proof.Machine.VectorSoftmax : Prop :=
  ∀ (s : State) (lc : Lc) (a : VSlot), VecReady s lc a → vcount a % 32 = 0 →
    let k := cdiv (vcount a) 512
    let row (i : Nat) := (List.range 32).map (fun j => elemA s lc a 512 (32 * i + j))
    let m (i : Nat) := vregElem (s.core lc) s.draws 4096 a.vb i 0
    let st (i : Nat) := smRow (row i) (m i)
    let p (e : Nat) := smProb (elemA s lc a 64 e) (vecElem (s.core lc) s.draws 4096 .row a.vb a.imm 64 e)
    let sum (i : Nat) := tree32 add32 ((List.range 32).map (fun j => (p (32 * i + j)).1))
    VecDoes (.vsmstat lc a) s lc a (k + 1) (512 + vcount a / 32) (orFlags ((List.range (vcount a / 32)).map (fun i => (st i).2)))
      (fun d => Wrote (s.core lc) d a.vd (vcount a / 32) ((s.core lc).seq.cycle + 9 + (k + 1)) (fun i => (st i).1.1) ∧
        Wrote (s.core lc) d (a.vd.val + 1) (vcount a / 32) ((s.core lc).seq.cycle + 9 + (k + 1)) (fun i => (st i).1.2)) ∧
    VecDoes (.vsmexp lc a) s lc a (cdiv (vcount a) 64) (k * 512 + vcount a / 32)
      (flagsOf (vcount a) p ||| flagsOf (vcount a / 32) sum)
      (fun d => Wrote (s.core lc) d a.vd (vcount a) ((s.core lc).seq.cycle + 8 + cdiv (vcount a) 64) (fun e => (p e).1) ∧
        Wrote (s.core lc) d (a.vd.val + k) (vcount a / 32) ((s.core lc).seq.cycle + 12 + cdiv (vcount a) 64) (fun i => (sum i).1))

/-- `VMASK` writes −infinity where the causal, window or block condition of R125 holds and the element unchanged elsewhere;
`VDROP` multiplies a kept element and writes +0, with no flag, for a dropped one, and never advances `SR_CTR` (R125, R126, R314). -/
def Sys2Proof.Machine.VectorMasks : Prop :=
  ∀ (s : State) (lc : Lc) (a : VSlot), VecReady s lc a →
    let w (i : Nat) := vregElem (s.core lc) s.draws 4096 a.vb i 0
    let dw (i : Nat) := vregElem (s.core lc) s.draws 12288 63 i 0
    VecElems (.vmask lc a) s lc a 512 3 (fun e =>
      (if maskHit (w 0) (w 1) (w 2) (w 3) (w 4) e then negInf32 else elemA s lc a 512 e,
        if (fp32 (elemA s lc a 512 e)).isNan then flNanIn else 0)) ∧
    VecElems (.vdrop lc a) s lc a 512 3 (fun e =>
      if a.thr.toNat ≤ dropDraw (s.core lc) (dw 0) (dw 1) (dropIndex (dw 2) e) then mul32 (elemA s lc a 512 e) (elemB s lc a 512 e)
      else (0, 0))

/-- The condition of R125 in its own terms: with w3 = 1 (causal, not transposed), no window and no lower bound, element (i, j)
is masked exactly where its key position w1 + j is beyond its query position w0 + i. -/
def Sys2Proof.Machine.CausalMask : Prop :=
  ∀ (w0 w1 : Word) (e : Nat), maskHit w0 w1 0 1 0 e =
    decide ((w0 + BitVec.ofNat 32 (e / 32)).toNat < (w1 + BitVec.ofNat 32 (e % 32)).toNat)

/-- VECTOR conversions, reductions, softmax and masks (R63 to R67, R121 to R126, R314). -/
def Obligations.VectorRows : Prop :=
  VectorConversions ∧ VectorReductions ∧ VectorSoftmax ∧ VectorMasks ∧ CausalMask

/-- A VECTOR instruction waits while the engine is occupied or its slot is FILLING or DRAINING, counted in `FV_WAIT`, with
nothing else of the core changed; one that reads a FREE slot faults: `FV_FAULT` records code 2 with the slot (R116, R128 to R130). -/
def Sys2Proof.Machine.VectorWaitsAndFaults : Prop :=
  ∀ (s : State) (lc : Lc) (a : VSlot), SlotFree s lc →
    (((s.core lc).seq.cycle < (s.core lc).fv.vfree ∨ (s.core lc).fv.acc.isSome = true ∨
        (a.asrc = .slot ∧ ((s.core lc).slot (a.va.val % 8) = .filling ∨ (s.core lc).slot (a.va.val % 8) = .draining))) →
      ∃ t, exec (.vadd lc a) s = .next t ∧ t.held = s.held ++ [.vadd lc a] ∧
        t.core lc = { s.core lc with fv := { (s.core lc).fv with wait := bump (s.core lc).fv.wait 1 } }) ∧
    ((s.core lc).fv.vfree ≤ (s.core lc).seq.cycle → (s.core lc).fv.acc = none → a.asrc = .slot →
      (s.core lc).slot (a.va.val % 8) = .free →
      ∀ j, s.jobOf lc = some j → j.phase = .running →
        ∃ t, exec (.vadd lc a) s = .next t ∧ (t.core lc).seq.stopped = true ∧
          (t.core lc).fv = { (s.core lc).fv with fault := fvFault 2 false (a.va.val % 8) 0 (s.core lc).seq.next } ∧
          (t.core lc).seq.fault = contractFault 2 true 0 (s.core lc).seq.next)

/-- `VLD` and `VST` enter the engine with the bytes that `IMM` names, their first beat due next cycle, and change nothing else
(R120, R128); the beats move the bytes (Table 4.10). -/
def Sys2Proof.Machine.StoreAccessBegins : Prop :=
  ∀ (s : State) (lc : Lc) (a : VSlot), SlotFree s lc → (s.core lc).fv.vfree ≤ (s.core lc).seq.cycle → (s.core lc).fv.acc = none →
    ∀ (load : Bool) (i : Instr), (i = .vld lc a ∧ load = true) ∨ (i = .vst lc a ∧ load = false) → ∃ t, exec i s = .next t ∧ OnlyCore s t lc ∧
      t.core lc = { s.core lc with
        fv := { (s.core lc).fv with acc := some {
          load := load, slot := a, seq := (s.core lc).mov.seq, bundle := (s.core lc).seq.next, beat := 0, bytes := [] } }
        mov := { (s.core lc).mov with seq := (s.core lc).mov.seq + 1 } }

/-- The last beat of a `VLD` of at most 256 words from a store without errors writes the stored words at `VD`, readable four
cycles later, frees the engine, and leaves memory as it was; that of a `VST` puts the words of `VA` on their way to the bytes that
`IMM` names, due four cycles later (R120, R128, Table 4.10). -/
def Sys2Proof.Machine.StoreAccessEnds : Prop :=
  ∀ (x : StoreCycle) (lc : Lc) (a : StoreAcc), (x.st.core lc).fv.acc = some a → a.beat = 0 → a.bytes = [] →
    a.slot.cnt.toNat < 256 → x.st.mem.byteFlaws = [] → accWaits x lc a = false →
    (∀ r, Tbl.get 0 (x.st.core lc).fv.vready r ≤ (x.st.core lc).seq.cycle) →
    let t := (accCycle x lc).st
    (t.core lc).fv.acc = none ∧ t.mem = x.st.mem ∧ (accCycle x lc).conf = x.conf ∧
    (a.load = true → (t.core lc).fv.stores = (x.st.core lc).fv.stores ∧
      Wrote (x.st.core lc) (t.core lc) a.slot.vd (vcount a.slot) ((x.st.core lc).seq.cycle + 4)
        (fun e => BitVec.ofNat 32 (leNat (x.st.bytesAt (mkDa 0 lc (storeOfs a.slot + 4 * e)) 4)))) ∧
    (a.load = false → (t.core lc).fv.vregs = (x.st.core lc).fv.vregs ∧
      ∃ w, (t.core lc).fv.stores = (x.st.core lc).fv.stores ++ [w] ∧ w.ofs = storeOfs a.slot ∧
        w.due = (x.st.core lc).seq.cycle + 4 ∧
        w.bytes = (List.range (vcount a.slot)).flatMap (fun e =>
          leBytes 4 (Tbl.get 0 (x.st.core lc).fv.vregs (a.slot.va.val * 512 + e)).toNat))

/-- VECTOR waits, faults and accesses to the feeder store (R116, R120, R128 to R130). -/
def Obligations.VectorAccesses : Prop :=
  VectorWaitsAndFaults ∧ StoreAccessBegins ∧ StoreAccessEnds

/-! ## The GATE slot -/

/-- A bundle issues completely: `PACE_ISSUE` counts it, the sequencer goes where `nextIndex` says, the gate wait is over and the
cycle passes, counted in `PACE_CYC`; the tiles, the feeders, the engine, the movers, the gates `g'` other than those named, the
numeric state and the frames stay (R140, R144, R159). -/
def Sys2Proof.Machine.BundleDone (c d : Core) (gates : Nat → Nat) : Prop :=
  d.seq.next = (nextIndex c.seq.next c.seq.loops).1 % 8192 ∧ d.seq.loops = (nextIndex c.seq.next c.seq.loops).2 ∧
  d.seq.issue = bump c.seq.issue 1 ∧ d.seq.cyc = bump c.seq.cyc 1 ∧ d.seq.cycle = c.seq.cycle + 1 ∧ d.seq.gwaitLen = 0 ∧
  (∀ g, d.gate g = gates g) ∧ d.num = c.num ∧ d.fv = c.fv ∧ d.mov = c.mov ∧ d.arr.tiles = c.arr.tiles ∧
  d.arr.fault = c.arr.fault ∧ d.seq.fault = c.seq.fault ∧ d.seq.stopped = false ∧ d.seq.ended = false ∧
  d.seq.frames = c.seq.frames ∧ d.seq.store = c.seq.store ∧ d.seq.segLoads = c.seq.segLoads

/-- Of the whole part only core `lc`, blame records and sends in flight, and power reports may differ. -/
def Sys2Proof.Machine.NearCore (s t : State) (lc : Nat) : Prop :=
  t = { s with cores := t.cores, blames := t.blames, sends := t.sends, pwr := t.pwr, draws := t.draws } ∧
    ∀ k, k ≠ lc → t.core k = s.core k

/-- `GWAIT` issues once its gate holds at least N, with the regulator up, and subtracts N; `GPEEK` subtracts nothing; `GNOP` needs no gate. Each ends its
bundle (R140 to R142). While the gate holds less, or
issue is held for the regulator after wait stage 2, the bundle waits, counted in `PACE_GWAIT`, and no gate changes (Table 5.18). -/
def Sys2Proof.Machine.GateWaits : Prop :=
  ∀ (s : State) (lc : Lc) (g : Fin 64) (n : BitVec 24), SlotFree s lc →
    let woken : Prop := (s.core lc).seq.stage2 = false ∧ (s.core lc).seq.wakeTill ≤ s.ticks
    (n.toNat ≤ (s.core lc).gate g → woken → ∃ t, exec (.gwait lc g n) s = .next t ∧ NearCore s t lc ∧
      BundleDone (s.core lc) (t.core lc) (fun g' => if g' = g then (s.core lc).gate g' - n.toNat else (s.core lc).gate g')) ∧
    (n.toNat ≤ (s.core lc).gate g → woken → ∃ t, exec (.gpeek lc g n) s = .next t ∧ NearCore s t lc ∧
      BundleDone (s.core lc) (t.core lc) (s.core lc).gate) ∧
    (∃ t, exec (.gnop lc) s = .next t ∧ OnlyCore s t lc ∧ BundleDone (s.core lc) (t.core lc) (s.core lc).gate) ∧
    (n.toNat ≤ (s.core lc).gate g → (s.core lc).seq.stage2 = false → s.ticks < (s.core lc).seq.wakeTill →
      ∀ i, i = Instr.gwait lc g n ∨ i = Instr.gpeek lc g n → ∃ t, exec i s = .next t ∧ t.held = s.held ++ [i] ∧
        (t.core lc).seq.gwait = bump (s.core lc).seq.gwait 1 ∧ (t.core lc).seq.gwaitLen = 0 ∧ (t.core lc).seq.gates = (s.core lc).seq.gates) ∧
    ((s.core lc).gate g < n.toNat → ∀ i, i = Instr.gwait lc g n ∨ i = Instr.gpeek lc g n →
      ∃ t, exec i s = .next t ∧ t.held = s.held ++ [i] ∧ (t.core lc).seq.gwait = bump (s.core lc).seq.gwait 1 ∧
        (t.core lc).seq.gates = (s.core lc).seq.gates ∧ (t.core lc).seq.next = (s.core lc).seq.next ∧
        (t.core lc).arr = (s.core lc).arr ∧ (t.core lc).fv = (s.core lc).fv ∧ (t.core lc).mov = (s.core lc).mov)

/-- `GINC`, and `GSEND` to the sending core itself, add N to the gate at the end of the issue cycle, exactly once; a sum above
16,777,215 is not applied: the gate stays, and with a running job the core records `GATE_OVERFLOW` (R142, R143). -/
def Sys2Proof.Machine.GateIncrements : Prop :=
  ∀ (s : State) (lc : Lc) (tgt : Fin 1024) (g : Fin 64) (n : BitVec 24), SlotFree s lc → tgt.val = lc.val →
    ∀ i, i = Instr.ginc lc g n ∨ i = Instr.gsend lc tgt g n →
      ((s.core lc).gate g + n.toNat ≤ 16777215 → ∃ t, exec i s = .next t ∧ OnlyCore s t lc ∧
        BundleDone (s.core lc) (t.core lc) (fun g' => if g' = g then (s.core lc).gate g' + n.toNat else (s.core lc).gate g')) ∧
      (16777215 < (s.core lc).gate g + n.toNat → ∀ j, s.jobOf lc = some j → j.phase = .running →
        ∃ t, exec i s = .next t ∧ (t.core lc).seq.gates = (s.core lc).seq.gates ∧ (t.core lc).seq.stopped = true ∧
          fld (t.core lc).seq.fault 2 0 = 3 ∧ fld (t.core lc).seq.fault 3 3 = 1 ∧ fld (t.core lc).seq.fault 7 4 = 1)

/-- `GSEND` to another core of the job, with fewer than 32 of its sends in flight, puts the increment on its way behind those
already there, and changes no gate yet; to a core outside the job it faults at issue with `GATE_TARGET`, and nothing is sent
(R143, R151, R153). -/
def Sys2Proof.Machine.GateSends : Prop :=
  ∀ (s : State) (lc : Lc) (tgt : Fin 1024) (g : Fin 64) (n : BitVec 24), SlotFree s lc → tgt.val ≠ lc.val →
    ∀ j, s.jobOf lc = some j → j.phase = .running →
    (j.covers tgt = true → (s.sends.filter (fun x => x.src = lc.val && !x.cmpl)).length < 32 →
      ∃ t, exec (.gsend lc tgt g n) s = .next t ∧ NearCore s t lc ∧ BundleDone (s.core lc) (t.core lc) (s.core lc).gate ∧
        ∃ x : Send, t.sends = s.sends ++ [x] ∧ x.src = lc.val ∧ x.dst = tgt.val ∧ x.gate = g.val ∧ x.n = n.toNat ∧ x.cmpl = false) ∧
    (j.covers tgt = false →
      ∃ t, exec (.gsend lc tgt g n) s = .next t ∧ t.sends = s.sends ∧ (t.core lc).seq.gates = (s.core lc).seq.gates ∧
        (t.core lc).seq.next = (s.core lc).seq.next ∧ (t.core lc).seq.stopped = true ∧ fld (t.core lc).seq.fault 7 4 = 2)

/-- An increment that arrives is applied to its target's gate, once, and no longer in flight, where no link has failed or retunes (R142, R43, R247). -/
def Sys2Proof.Machine.IncrementArrives : Prop :=
  ∀ (s : State) (src dst : Lc) (x : Send) (rest : List Send), s.sends = x :: rest → x.src = src.val → x.dst = dst.val → Calm s →
    (s.core dst).gate x.gate + x.n ≤ 16777215 →
    ∃ t, exec (.inc src dst) s = .next t ∧ t.sends = rest ∧ (t.core dst).gate x.gate = (s.core dst).gate x.gate + x.n ∧
      (∀ g, g ≠ x.gate → (t.core dst).gate g = (s.core dst).gate g) ∧ (∀ k : Nat, k ≠ dst.val → t.core k = s.core k) ∧ t.mem = s.mem

/-- Gates: waits, increments and sends (R140 to R144, R151, R153). -/
def Obligations.GateCounts : Prop :=
  GateWaits ∧ GateIncrements ∧ GateSends ∧ IncrementArrives

/-- `GLOOP` opens a loop at its depth: its body runs from the next bundle to the target offset of the same frame, with IMM more
iterations after the first; another depth than the present one, or a body that ends after the enclosing one, faults with
`LOOP_NEST` (R144, R153). -/
def Sys2Proof.Machine.LoopOpens : Prop :=
  ∀ (s : State) (lc : Lc) (depth : Fin 4) (iters : Half) (tgt : BitVec 13), SlotFree s lc →
    let c := s.core lc
    let last := c.seq.next / 1024 * 1024 + tgt.toNat % 1024
    let good := depth.val = c.seq.loops.length ∧ (∀ l ∈ c.seq.loops.head?, last ≤ l.last)
    (good → ∃ t, exec (.gloop lc depth iters tgt) s = .next t ∧ OnlyCore s t lc ∧
      (last ≠ c.seq.next → (t.core lc).seq.loops = { first := c.seq.next + 1, last := last, left := iters.toNat, taken := 0 } :: c.seq.loops ∧
        (t.core lc).seq.next = (c.seq.next + 1) % 8192) ∧
      (t.core lc).seq.issue = bump c.seq.issue 1 ∧ (t.core lc).num = c.num ∧ (t.core lc).fv = c.fv ∧ (t.core lc).mov = c.mov ∧
      (t.core lc).seq.gates = c.seq.gates) ∧
    (¬ good → ∀ j, s.jobOf lc = some j → j.phase = .running → ∃ t, exec (.gloop lc depth iters tgt) s = .next t ∧
      (t.core lc).seq.stopped = true ∧ fld (t.core lc).seq.fault 7 4 = 4 ∧ (t.core lc).seq.loops = c.seq.loops)

/-- When the last bundle of the innermost loop issues, an iteration that remains sends the sequencer to the body's first bundle;
otherwise the loop closes and the next one out is tested, and where no loop goes on, issue follows in index order (R144). -/
def Sys2Proof.Machine.LoopEnds : Prop :=
  ∀ (idx : Nat) (l : Loop) (ls : List Loop),
    nextIndex idx [] = (idx + 1, []) ∧
    (l.last = idx → 0 < l.left → nextIndex idx (l :: ls) = (l.first, { l with left := l.left - 1, taken := l.taken + 1 } :: ls)) ∧
    (l.last = idx → l.left = 0 → nextIndex idx (l :: ls) = nextIndex idx ls) ∧
    (l.last ≠ idx → nextIndex idx (l :: ls) = (idx + 1, l :: ls))

/-- `GSEG` marks its frame loading and starts the load of the segment record's bundles, at most two at once; `GJUMP` with no open
loop goes to its target in a frame that holds the segment, which issues after one more cycle, and that frame becomes current; with a loop open it
faults with `LOOP_JUMP`, and into a frame without the segment with `SEG_MISMATCH` (R145, R153). -/
def Sys2Proof.Machine.SegmentsLoadAndJump : Prop :=
  ∀ (s : State) (lc : Lc) (seg : Byte) (frame : Fin 8) (tgt : BitVec 13) (r : SegRec), SlotFree s lc →
    s.segRec lc seg.toNat = some r →
    ((s.core lc).frameSelf frame = false → (s.core lc).seq.segLoads.length < 2 → ((s.core lc).frame frame).isLoading = false →
      (s.core lc).orderWait [(mkDa 1 lc r.ofs, 64 * r.bundles)] false = false →
      ∃ t, exec (.gseg lc seg frame) s = .next t ∧ (t.core lc).frame frame = .loading seg.toNat ∧
        (t.core lc).seq.segLoads = (s.core lc).seq.segLoads ++ [{
          frame := frame, seg := seg.toNat, ofs := r.ofs, bundles := r.bundles, data := s.bytesAt (mkDa 1 lc r.ofs) (64 * r.bundles)
          bundle := (s.core lc).seq.next }] ∧
        (∀ f, f ≠ frame.val → (t.core lc).frame f = (s.core lc).frame f) ∧ (t.core lc).seq.store = (s.core lc).seq.store ∧
        (t.core lc).seq.issue = bump (s.core lc).seq.issue 1 ∧ (∀ k : Nat, k ≠ lc.val → t.core k = s.core k) ∧ t.mem = s.mem) ∧
    ((s.core lc).seq.loops = [] → (s.core lc).frame (tgt.toNat / 1024) = .holds seg.toNat →
      ∃ t, exec (.gjump lc seg tgt) s = .next t ∧ OnlyCore s t lc ∧ (t.core lc).seq.next = tgt.toNat ∧
        (t.core lc).seq.frame = tgt.toNat / 1024 ∧ (t.core lc).seq.cycle = (s.core lc).seq.cycle + 1 ∧ (t.core lc).seq.pauseLeft = 1 ∧
        (t.core lc).seq.gates = (s.core lc).seq.gates ∧ (t.core lc).fv = (s.core lc).fv ∧ (t.core lc).mov = (s.core lc).mov) ∧
    (∀ j, s.jobOf lc = some j → j.phase = .running → ((s.core lc).frame (tgt.toNat / 1024)).isLoading = false →
      ((s.core lc).seq.loops ≠ [] ∨ (s.core lc).frame (tgt.toNat / 1024) ≠ .holds seg.toNat) →
      ∃ t, exec (.gjump lc seg tgt) s = .next t ∧ (t.core lc).seq.stopped = true ∧ (t.core lc).seq.next = (s.core lc).seq.next ∧
        fld (t.core lc).seq.fault 7 4 = (if (s.core lc).seq.loops ≠ [] then 5 else 6))

/-- The load of a segment completes once the Canopy store is at full voltage and holds no bad byte there: the frame takes the
segment's tag, and bundle i of the frame is the 64 bytes at i × 64 of the segment (R145). -/
def Sys2Proof.Machine.SegmentLoadCompletes : Prop :=
  ∀ (s : State) (lc : Lc) (frame : Fin 8) (l : SegLoad), (s.core lc).seq.segLoads = [l] → l.frame = frame.val →
    s.canopyFull lc = true → s.mem.byteFlaws = [] → l.data = s.bytesAt (mkDa 1 lc l.ofs) (64 * l.bundles) →
    ∃ t, exec (.gsegLoadComplete lc frame) s = .next t ∧ (t.core lc).frame frame = .holds l.seg ∧ (t.core lc).seq.segLoads = [] ∧
      (∀ i, i < l.bundles → Tbl.get 0 (t.core lc).seq.store (frame.val * 1024 + i) =
        BitVec.ofNat 512 (leNat (s.bytesAt (mkDa 1 lc l.ofs + 64 * i) 64))) ∧
      (∀ f, f ≠ frame.val → (t.core lc).frame f = (s.core lc).frame f) ∧ t.mem.bytes = s.mem.bytes ∧
      (t.core lc).seq.gates = (s.core lc).seq.gates ∧ (t.core lc).fv = (s.core lc).fv ∧ (∀ k : Nat, k ≠ lc.val → t.core k = s.core k)

/-- `GPHASE` records its hint, activity and cycles, in place of an earlier one, outside wait stage 2; `GPAUSE` holds issue for N
cycles; the end of that count lets issue go on with those N cycles counted in `PACE_CYC` and in nothing else of the pace counters
(R146, R147). -/
def Sys2Proof.Machine.PhaseAndSlack : Prop :=
  ∀ (s : State) (lc : Lc) (imm : Half) (n : BitVec 24),
    (SlotFree s lc → (s.core lc).seq.stage2 = false → ∃ t, exec (.gphase lc imm) s = .next t ∧ NearCore s t lc ∧
      (t.core lc).seq.phase = some (imm.toNat % 16, 16 * (imm.toNat / 16)) ∧
      BundleDone (s.core lc) (t.core lc) (s.core lc).gate) ∧
    (SlotFree s lc → ∃ t, exec (.gpause lc n) s = .next t ∧ OnlyCore s t lc ∧ (t.core lc).seq.pauseLeft = n.toNat ∧
      BundleDone (s.core lc) (t.core lc) (s.core lc).gate) ∧
    ((s.core lc).dead = false → ∃ t, exec (.gpauseEnd lc) s = .next t ∧ OnlyCore s t lc ∧ (t.core lc).seq.pauseLeft = 0 ∧
      t.core lc = { s.core lc with
        arr := { (s.core lc).arr with
          level := (t.core lc).arr.level, rising := (t.core lc).arr.rising, fresh := (t.core lc).arr.fresh
          quiet := (t.core lc).arr.quiet, riseCyc := (t.core lc).arr.riseCyc, port := (t.core lc).arr.port, load := (t.core lc).arr.load }
        seq := { (s.core lc).seq with
          pauseLeft := 0, cycle := (s.core lc).seq.cycle + (s.core lc).seq.pauseLeft
          cyc := bump (s.core lc).seq.cyc (s.core lc).seq.pauseLeft } })

/-- `GEND` waits while the core has a transfer, a send or a segment load; then it closes the loops and ends the program; gate
counts stay as they are, and the other cores of a job that goes on are untouched. With the last core the job is ended (R148). -/
def Sys2Proof.Machine.ProgramEnds : Prop :=
  ∀ (s : State) (lc : Lc), SlotFree s lc →
    (s.endWaits lc = true → exec (.gend lc) s = .next ((s.modCore lc id).hold (.gend lc))) ∧
    (s.endWaits lc = false → ∀ j, s.jobOf lc = some j → s.jobAt j.node = some j → j.phase = .running →
      (∃ k ∈ j.cores, k ≠ lc.val ∧ (s.core k).seq.ended = false) →
      ∃ t, exec (.gend lc) s = .next t ∧ OnlyCore s t lc ∧ (t.core lc).seq.ended = true ∧ (t.core lc).seq.loops = [] ∧
        (t.core lc).seq.gates = (s.core lc).seq.gates ∧ (t.core lc).seq.issue = bump (s.core lc).seq.issue 1 ∧
        (t.core lc).fv = (s.core lc).fv ∧ (t.core lc).mov = (s.core lc).mov ∧ t.jobs = s.jobs)

/-- Loops, segments and the end of a program (R144, R145, R148, R153). -/
def Obligations.ProgramFlow : Prop :=
  LoopOpens ∧ LoopEnds ∧ SegmentsLoadAndJump ∧ SegmentLoadCompletes ∧ ProgramEnds

/-! ## Waiting, pauses, faults and pace -/

/-- Wait stage 2 is entered after 1,024 further waiting cycles at stage 1, with `WAIT_VDROP`, idle movers and no segment load, and
ends a pre-boost; a pre-boost of PREBOOST_MV × (a_new − a) / 15 applies to a heavier phase of a powered core, and its end clears it
with its hint (R156, R399, R411). Nothing else of the part changes. -/
def Sys2Proof.Machine.WaitAndBoost : Prop :=
  ∀ (s : State) (lc : Lc) (a : Fin 16) (new at' : Nat) (j : Job),
    (s.jobOf lc = some j → j.vdrop = true → 1024 ≤ (s.core lc).seq.stage1Cyc → 0 < (s.core lc).seq.gwaitLen →
      (s.core lc).seq.segLoads = [] → (∀ e ∈ (s.core lc).mov.movers, e.2.queue = [] ∧ e.2.active = none) →
      ∃ t, exec (.waitStage2 lc) s = .next t ∧ OnlyCore s t lc ∧
        t.core lc = { s.core lc with seq := { (s.core lc).seq with stage2 := true, preboost := 0 } }) ∧
    ((s.core lc).seq.phase = some (new, at') → a.val < new → (s.core lc).seq.stage2 = false → s.corePowered lc = true →
      ∃ t, exec (.preboostStart lc a) s = .next t ∧ OnlyCore s t lc ∧
        t.core lc = { s.core lc with seq := { (s.core lc).seq with preboost := s.preboostMv * (new - a.val) } }) ∧
    (∃ t, exec (.preboostEnd lc) s = .next t ∧ OnlyCore s t lc ∧
      t.core lc = { s.core lc with seq := { (s.core lc).seq with preboost := 0, phase := none } })

/-- A gate wait that reaches its limit on a core that is not paused faults its running job: the core stops with `CONTRACT_FAULT`
naming source 3, `FIRST`, code 3 and its bundle; its waiting bundle goes, and no gate, tile or byte of memory changes (R153, R154). -/
def Sys2Proof.Machine.GateStallFaults : Prop :=
  ∀ (s : State) (lc : Lc) (j : Job), 0 < (s.core lc).seq.gwaitLen → (s.core lc).seq.paused = false → (s.core lc).dead = false →
    s.jobOf lc = some j → j.phase = .running → 1600000 * j.waitMs ≤ (s.core lc).seq.waitTicks →
    ∃ t, exec (.gateStall lc) s = .next t ∧ (t.core lc).seq.stopped = true ∧
      (t.core lc).seq.fault = contractFault 3 true 3 (s.core lc).seq.next ∧ (t.core lc).seq.gates = (s.core lc).seq.gates ∧
      (t.core lc).arr = (s.core lc).arr ∧ (t.core lc).fv = (s.core lc).fv ∧ (t.core lc).mov = (s.core lc).mov ∧ t.mem = s.mem ∧
      (∀ i ∈ t.held, slotCore i ≠ some lc.val) ∧ (∀ k : Nat, k ≠ lc.val → t.core k = s.core k) ∧
      (∀ n, n ≠ j.node → t.jobAt n = s.jobAt n)

/-- The fields of `CONTRACT_FAULT` (Table 5.20): source, `FIRST`, code and bundle index, each where the table puts it. -/
def Sys2Proof.Machine.ContractFaultFields : Prop :=
  ∀ (source code bundle : Nat) (first : Bool), source < 8 → code < 16 → bundle < 8192 →
    let w := contractFault source first code bundle
    fld w 2 0 = source ∧ fld w 3 3 = (if first then 1 else 0) ∧ fld w 7 4 = code ∧ fld w 28 16 = bundle

/-- The halt broadcast of a faulting job reaches its cores: each core that has neither ended nor stopped stops with source 6, a
core that had ended keeps its `CONTRACT_FAULT`, and every core of the job reads `FAULTED`; cores outside the job are as before
(R154, Table 5.17). -/
def Sys2Proof.Machine.HaltReachesCores : Prop :=
  ∀ (s : State) (node : Fin 64) (j : Job), s.jobAt node = some j → j.phase = .faulting →
    ∃ t, exec (.halt node) s = .next t ∧
      (∀ lc, lc < 800 → j.covers lc = true → (t.core lc).seq.faulted = true ∧ (t.core lc).dead = true ∧
        (t.core lc).seq.fault = (if (s.core lc).dead then (s.core lc).seq.fault else contractFault 6 false 0 (s.core lc).seq.next) ∧
        (t.core lc).seq.gates = (s.core lc).seq.gates ∧ (t.core lc).arr = (s.core lc).arr ∧ (t.core lc).mov = (s.core lc).mov) ∧
      (∀ lc, j.covers lc = false → t.core lc = s.core lc) ∧ t.mem = s.mem ∧ t.jobs = s.jobs

/-- Once every core of a faulting job on one part has stopped and no store is on its way, the job is faulted: transfers that have not started are
discarded and counted, its cores read `FAULTED`, its job record is `faulted`, and a core of another job is as before (R154, R389). The
job here holds no region, no binding and no training block, and no command waits for it. -/
def Sys2Proof.Machine.JobBecomesFaulted : Prop :=
  ∀ (s : State) (node : Fin 64) (j : Job), s.jobs = [j] → j.node = node.val → j.phase = .faulting → s.sv = [] → j.halters = [] →
    (∀ lc ∈ j.cores, (s.core lc).dead = true ∧ (s.core lc).storing = false) →
    ∃ t, exec (.jobFaulted node) s = .next t ∧ (∀ k, t.jobAt node = some k → k.phase = .faulted ∧ k.mask = j.mask) ∧
      (∀ lc, j.covers lc = false → t.core lc = s.core lc) ∧
      (∀ lc ∈ j.cores, (t.core lc).seq.faulted = true ∧ (∀ m : Fin 4, ((t.core lc).mover m).queue = [] ∧
        ((t.core lc).mover m).active = ((s.core lc).mover m).active) ∧ (t.core lc).seq.gates = (s.core lc).seq.gates)

/-- The faults of a job: a stalled gate wait, the fields of `CONTRACT_FAULT`, the halt broadcast and the end of the fault sequence (R153, R154, R389). -/
def Obligations.JobFaults : Prop :=
  GateStallFaults ∧ ContractFaultFields ∧ HaltReachesCores ∧ JobBecomesFaulted

/-- A window of the pace evaluation records each core's counters at its end, counts a core's consecutive lagging windows by the
thresholds in force, leaves the run of a core whose `PACE_CYC` did not move as it was, and changes no core (R158). One running job
is taken here. -/
def Sys2Proof.Machine.PaceWindows : Prop :=
  ∀ (s : State) (j : Job), s.jobs = [j] → j.isRunning = true →
    ∃ t, exec .paceWindow s = .next t ∧ t.cores = s.cores ∧ t.jobs = s.jobs ∧ t.mem = s.mem ∧
      ∀ lc ∈ j.cores,
        let c := (s.core lc).seq
        let p := Tbl.get PaceRec.init s.pace lc
        let q := Tbl.get PaceRec.init t.pace lc
        let dc := advance c.cyc p.cyc
        q.cyc = c.cyc.toNat ∧ q.lag = c.lag.toNat ∧ q.rwait = c.rwait.toNat ∧
        q.run = (if dc = 0 then p.run
          else if s.paceSetting 1 16384 * dc ≤ advance c.lag p.lag * 65536 ∧ advance c.rwait p.rwait * 65536 ≤ s.paceSetting 2 1311 * dc
          then p.run + 1 else 0)

/-- A pause frame begins: the first 16p of its 1,024 cycles are pauses for every core of a running job of the region, with p the
core's duty; cores of other regions and cores without a running job are as before, and nothing else changes (R155, R416). -/
def Sys2Proof.Machine.PauseFrames : Prop :=
  ∀ (s : State) (r : Fin 5), ∃ t, exec (.pauseDutyFrame r) s = .next t ∧ t = { s with cores := t.cores } ∧
    ∀ lc, t.core lc =
      if (∃ j ∈ s.jobs, j.isRunning = true ∧ lc ∈ j.cores) ∧ regionOf (clusterOf lc) = r.val then
        { s.core lc with seq := { (s.core lc).seq with paused := decide (0 < 16 * s.duty lc), dutyLeft := 16 * s.duty lc } }
      else s.core lc

/-- Phase hints, planned slack, wait stages, pre-boosts, pause frames and pace windows (R146, R147, R155, R156, R158, R399, R411, R416). -/
def Obligations.PacingAndPauses : Prop :=
  PhaseAndSlack ∧ WaitAndBoost ∧ PauseFrames ∧ PaceWindows

/-! ## Movers -/

/-- `MCOPY` and `MCLEAR` join the queue of their mover with the 64 descriptor bytes that stand in the Canopy store at issue, and
change nothing else but the core's order count; with its 16 credits taken the bundle waits, counted in `MOVE_QWAIT` (R181, R193).
No transfer of any core writes the descriptor here, and memory holds no error. -/
def Sys2Proof.Machine.MovesQueue : Prop :=
  ∀ (s : State) (lc : Lc) (a : MSlot) (clear : Bool) (i : Instr),
    (i = .mcopy lc a ∧ clear = false) ∨ (i = .mclear lc a ∧ clear = true) → SlotFree s lc →
    let mv := (s.core lc).mover a.mover
    (mv.credits < 16 → NoErrors s → (∀ e ∈ s.cores, ∀ x ∈ e.2.transfers, overlaps x.writes [(mkDa 1 lc (a.desc.toNat * 64), 64)] = false) →
      ∃ t x, exec i s = .next t ∧ OnlyCore s t lc ∧ (t.core lc).mover a.mover = { mv with queue := mv.queue ++ [x] } ∧
        x = { clear := clear, slot := a, iter := (s.core lc).loopTerm a.lsel, desc := s.bytesAt (mkDa 1 lc (a.desc.toNat * 64)) 64
              seq := (s.core lc).mov.seq, bundle := (s.core lc).seq.next, taken := false, data := [], bad := [], bankSince := none, posted := false } ∧
        (∀ m, m ≠ a.mover.val → (t.core lc).mover m = (s.core lc).mover m) ∧
        t.core lc = { s.core lc with
          mov := { (s.core lc).mov with movers := (t.core lc).mov.movers, seq := (s.core lc).mov.seq + 1 } }) ∧
    (16 ≤ mv.credits → ∃ t, exec i s = .next t ∧ t.held = s.held ++ [i] ∧
      t.core lc = { s.core lc with mov := { (s.core lc).mov with qwait := bump (s.core lc).mov.qwait 1 } })

/-- A queued transfer whose conditions of R181 hold starts. With every check of R186 passed and its ranges in the stores, the
plots or the Commons, it is in progress with its source bytes as they stand; no byte outside its destination changes (log 99). With a
check failed, `MOVE_FAULT` and `MFAULT_OFS` record the failing check, the core stops with `CLAIM_RANGE` and the bundle that issued the MOVE, and no
byte moves. While a condition fails nothing starts, and each cycle of an idle mover counts in `MOVE_SWAIT` (R181, R186, R193). -/
def Sys2Proof.Machine.MovesStart : Prop :=
  ∀ (s : State) (lc : Lc) (m : Fin 4) (x : Xfer) (rest : List Xfer), ((s.core lc).mover m).queue = x :: rest →
    let s' := s.modCore lc (fun c => c.setMover m { (c.mover m) with queue := rest })
    (mayStartMove (s.core lc) lc x m = true → moveCheck s' lc x = none → NoErrors s →
      x.bankSince = none → xferAccess s' x = .serve → (∀ e ∈ x.reads ++ x.writes, daSpace e.1 ≤ 3) → x.storeHeld s' lc = false →
      ∃ t, exec (.moveStart lc m) s = .next t ∧ OnlyCore { s with mem := t.mem } t lc ∧
        (t.core lc).mover m = { queue := rest, active := some { x with
          taken := true, data := x.reads.flatMap (fun e => s.bytesAt e.1 e.2), bad := List.replicate (x.reads.map (·.2)).sum false } } ∧
        (∀ k, k ≠ m.val → (t.core lc).mover k = (s.core lc).mover k) ∧
        BytesKept s t x.writes ∧ t.mem = { s.mem with bytes := t.mem.bytes }) ∧
    (∀ f j, mayStartMove (s.core lc) lc x m = true → moveCheck s' lc x = some f → (s.core lc).mov.fault = 0 →
      s.jobOf lc = some j → j.phase = .running →
      ∃ t, exec (.moveStart lc m) s = .next t ∧ (t.core lc).mov.fault = f.word m ∧
        (t.core lc).mov.faultOfs = BitVec.ofNat 40 f.ofs ∧ (t.core lc).mover m = { ((s.core lc).mover m) with queue := rest } ∧
        (t.core lc).seq.stopped = true ∧ (t.core lc).seq.fault = contractFault 3 true 9 x.bundle ∧ t.mem = s.mem) ∧
    (mayStartMove (s.core lc) lc x m = false → exec (.moveStart lc m) s = .next s ∧
      (((s.core lc).mover m).active = none → OnlyCore s (moverCycle s lc m) lc ∧ (moverCycle s lc m).core lc =
        { s.core lc with mov := { (s.core lc).mov with swait := bump (s.core lc).mov.swait 1 } }))

/-- A transfer between stores of the core, served and with nothing before it, completes: `MCOPY` leaves its source bytes in the destination, a later row's
over an earlier one's, `MCLEAR` zeros; every other byte stays; the mover is idle, `MOVE_DONE` and `MOVE_BYTES` count it, and
`CINC` is added to the completion gate, of another core by an increment on its way behind those already there (R178, R183, R193, R233). -/
def Sys2Proof.Machine.MovesComplete : Prop :=
  ∀ (s : State) (lc : Lc) (m : Fin 4) (te : List (Nat × Bool)) (x : Xfer), (∀ e ∈ te, e.2 = true) → ((s.core lc).mover m).active = some x → x.posted = false → NoErrors s → s.trn = [] →
    Calm s → xferAccess s x = .serve → x.storeHeld s lc = false → (∀ e ∈ x.reads ++ x.writes, daSpace e.1 ≤ 1) →
    (∀ e ∈ x.writes, daSpace (e.1 + e.2) ≤ 1) →
    (x.clear = false → x.taken = true ∧ x.data = x.reads.flatMap (fun e => s.bytesAt e.1 e.2) ∧
      x.bad = List.replicate x.data.length false ∧ overlaps x.reads x.writes = false) →
    (x.slot.clc = lc.val → (s.core lc).gate x.slot.cgate + x.slot.cinc.toNat ≤ 16777215) →
    ∃ t, exec (.moveComplete lc ⟨m, te⟩) s = .next t ∧ BytesKept s t x.writes ∧
      (∀ r i, r < x.rows → i < x.rowLen →
        (∀ q, r < q → q < x.rows → x.dstDa r + i < x.dstDa q ∨ x.dstDa q + x.rowLen ≤ x.dstDa r + i) →
        t.byte (x.dstDa r + i) = if x.clear then 0 else s.byte (x.srcDa r + i)) ∧
      ((t.core lc).mover m).active = none ∧ ((t.core lc).mover m).queue = ((s.core lc).mover m).queue ∧
      (t.core lc).mov.done = bump (s.core lc).mov.done 1 ∧ (t.core lc).mov.bytes = bump (s.core lc).mov.bytes x.length ∧
      (x.slot.clc = lc.val → (t.core lc).gate x.slot.cgate = (s.core lc).gate x.slot.cgate + x.slot.cinc.toNat ∧ t.sends = s.sends) ∧
      (x.slot.clc ≠ lc.val → 0 < x.slot.cinc.toNat → ∃ y : Send, t.sends = s.sends ++ [y] ∧ y.src = lc.val ∧ y.dst = x.slot.clc ∧
        y.gate = x.slot.cgate ∧ y.n = x.slot.cinc.toNat ∧ y.cmpl = true) ∧
      (t.core lc).arr = (s.core lc).arr ∧ (t.core lc).num = (s.core lc).num ∧ t.jobs = s.jobs

/-- The bytes of a transfer: row r of length `ROWLEN` at offset OFFSET + i × LSTRIDE + r × RSTRIDE of its unit, exact and signed,
with i the back edges of the loop that `LSEL` names; rows 0 to `ROWS` (R177). -/
def Sys2Proof.Machine.TransferRows : Prop :=
  ∀ (x : Xfer) (r : Nat),
    x.dstOfs r = (bits x.dst 39 0 : Int) + x.iter * sext 40 (leField x.desc 40 44) + r * sext 32 (leField x.desc 28 31) ∧
    x.srcOfs r = (bits x.src 39 0 : Int) + x.iter * sext 40 (leField x.desc 32 36) + r * sext 32 (leField x.desc 24 27) ∧
    x.rows = leField x.desc 20 21 + 1 ∧ x.length = leField x.desc 16 18 * x.rows ∧
    x.writes.length = x.rows ∧ (∀ e ∈ x.writes, e.2 = leField x.desc 16 18)

/-- Movers: queueing, starting and completing a transfer, and the bytes it names (R177, R178, R181, R183, R186, R193). -/
def Obligations.MoverTransfers : Prop :=
  MovesQueue ∧ MovesStart ∧ MovesComplete ∧ TransferRows

/-! ## The Trellis -/

/-- The response to request `p`, on its way behind those already in flight (R226). -/
def Sys2Proof.Machine.rspTo (p : Pkt) (kind : RspKind) (data : List (Option Byte)) : Rsp :=
  { dst := p.src.toNat, src := p.dst.toNat, tag := p.tag.toNat, kind := kind, data := data, stale := false }

/-- Memory, the responses in flight and the counts of the routers apart, nothing differs. -/
def Sys2Proof.Machine.OnlyMemory (s t : State) : Prop :=
  t = { s with mem := t.mem, tr := { s.tr with rsps := t.tr.rsps, routers := t.tr.routers } } ∧ ∀ b, t.router b = s.router b

/-- A request at an endpoint that serves it, in memory without errors: `WRITE` puts its payload at the DA it names and is answered with
`WACK`; `READ` is answered with `RDATA` that carries the bytes that stand there, and changes no memory; `CLEAR` leaves +0 in its range
and is answered with `WACK`; every byte elsewhere is as before (R206, R226). A written byte that was uncorrectable in transit leaves
the word that holds it, where the write covers all of it, poisoned (R200). No
compare window or bank-mode window is written, no link has failed or retunes, and the target is not too hot to write. -/
def Sys2Proof.Machine.RequestsServed : Prop :=
  ∀ (s : State) (p : Pkt) (da n : Nat), Calm s → s.orgLinked [(da, n)] = true → s.mayWrite da n = true →
    s.pktAbsorbed p = false → NoErrors s → s.trn = [] → s.isWindow da = false →
    s.pktDa p n = .inl da → orgAccessRange s da n = .serve →
    (∀ te : List (Nat × Bool), n = p.data.length → ∃ t, exec (.write p te) s = .next t ∧
      (∀ i, i < n → t.byte (da + i) = p.data.getD i 0) ∧ BytesKept s t [(da, n)] ∧ t.tr.rsps = s.tr.rsps ++ [rspTo p .wack []] ∧
      t = { s with mem := t.mem, orgs := t.orgs, tr := { s.tr with rsps := t.tr.rsps, routers := t.tr.routers } } ∧ OnlyRows s t ∧
      (te = [] → ∀ b, t.router b = s.router b) ∧
      (∀ i w, (i, false) ∈ te → w = (da + i) / 32 * 32 → i < n → isDram da = true → da ≤ w → w + 32 ≤ da + n →
        Tbl.get [] t.mem.flaws w = poisonWord)) ∧
    (n = p.bytes.toNat → ∃ t, exec (.read p) s = .next t ∧ t = { s with orgs := t.orgs, tr := { s.tr with rsps := t.tr.rsps } } ∧ OnlyRows s t ∧
      t.tr.rsps = s.tr.rsps ++ [rspTo p .rdata ((s.bytesAt da n).map some)]) ∧
    (∃ t, exec (.clear p n) s = .next t ∧ OnlyMemory s t ∧ (∀ i, i < n → t.byte (da + i) = 0) ∧
      BytesKept s t [(da, n)] ∧ t.tr.rsps = s.tr.rsps ++ [rspTo p .wack []])

/-- A request that is not served changes no memory: a core in reset absorbs it with `TRESET`, counted at its router; an absent unit, a
range or a space that the endpoint does not hold is refused with `RERR` and its status, an unmapped region with 0x26; one that must
wait for residency, power or bank mode is held (R226, R234, R249, Table 6.3). No link has failed or retunes here; on a route with
a failed link nothing arrives (R247, log 101). -/
def Sys2Proof.Machine.RequestsRefused : Prop :=
  ∀ (s : State) (p : Pkt) (te : List (Nat × Bool)) (i : Instr) (n : Nat),
    (i = .write p te ∧ n = p.data.length) ∨ (i = .read p ∧ n = p.bytes.toNat) ∨ i = .clear p n →
    (s.severed p.src.toNat p.dst.toNat = true → exec i s = .next s) ∧ (Calm s →
    (s.pktAbsorbed p = true → (∀ da, s.pktDa p n = .inl da → s.orgLinked [(da, n)] = true) → ∃ t, exec i s = .next t ∧ t = { s with tr := { s.tr with rsps := t.tr.rsps, routers := t.tr.routers } } ∧
      t.tr.rsps = s.tr.rsps ++ [rspTo p .treset []] ∧
      (t.router p.dst.toNat).absorb = satAdd (s.router p.dst.toNat).absorb 1) ∧
    (s.pktAbsorbed p = false →
      (∀ st, s.pktDa p n = .inr st → ∃ t, exec i s = .next t ∧ t = { s with tr := { s.tr with rsps := t.tr.rsps } } ∧
        t.tr.rsps = s.tr.rsps ++ [rspTo p (.rerr st) []]) ∧
      (∀ da, s.pktDa p n = .inl da → s.orgLinked [(da, n)] = true → orgAccessRange s da n = .unmapped →
        ∃ t, exec i s = .next t ∧ t = { s with tr := { s.tr with rsps := t.tr.rsps } } ∧
          t.tr.rsps = s.tr.rsps ++ [rspTo p (.rerr 0x26) []]) ∧
      (∀ da, s.pktDa p n = .inl da → s.orgLinked [(da, n)] = true → (∃ u, orgAccessRange s da n = .wait u) ∨ orgAccessRange s da n = .bank →
        ∃ t, exec i s = .next t ∧ t.held.getLast? = some i ∧ t.mem = s.mem ∧ t.tr.rsps = s.tr.rsps)))

/-- A response packet of kind k comes by its own command. -/
def Sys2Proof.Machine.RspArrives (i : Instr) (dst src : BitVec 10) (tag : Byte) (k : RspKind) : Prop :=
  (i = .rdata dst src ⟨tag, []⟩ ∧ k = .rdata) ∨ (i = .wack dst src tag ∧ k = .wack) ∨ (i = .treset dst src tag ∧ k = .treset) ∨
    (i = .rerr dst src tag ∧ ∃ st, k = .rerr st) ∨ (i = .cresp dst src tag ∧ ∃ v, k = .cresp v)

/-- The oldest response in flight between two endpoints reaches its requester, and the others stay in flight; one whose
requester has been reset is discarded and counted in `RST_ABSORB` (R226, R480). Read data that was uncorrectable in transit
arrives marked as poison (R200, R246). -/
def Sys2Proof.Machine.ResponsesArrive : Prop :=
  (∀ (s : State) (i : Instr) (dst src : BitVec 10) (tag : Byte) (k : RspKind) (r : Rsp) (before after : List Rsp),
    RspArrives i dst src tag k → s.tr.rsps = before ++ r :: after →
    (∀ x ∈ before, x.dst ≠ dst.toNat ∨ x.src ≠ src.toNat) → Calm s →
    r.dst = dst.toNat → r.src = src.toNat → r.tag = tag.toNat → r.kind = k →
    exec i s = .next (if r.stale then
        { s with tr := { s.tr with rsps := before ++ after }, boot := { s.boot with absorb := satAdd s.boot.absorb 1 } }
      else { s with tr := { s.tr with rsps := before ++ after, inbox := s.tr.inbox ++ [r] } })) ∧
  (∀ (s : State) (dst src : BitVec 10) (tag : Byte) (te : List (Nat × Bool)) (r : Rsp) (after : List Rsp), s.tr.rsps = r :: after → Calm s →
    r.dst = dst.toNat → r.src = src.toNat → r.tag = tag.toNat → r.kind = .rdata → r.stale = false →
    ∃ t x, exec (.rdata dst src ⟨tag, te⟩) s = .next t ∧ t.tr.rsps = after ∧ t.tr.inbox = s.tr.inbox ++ [{ r with data := x }] ∧
      x.length = r.data.length ∧ ∀ i, i < r.data.length → x.getD i none = if (i, false) ∈ te then none else r.data.getD i none)

/-- Requests over the Trellis and their responses (R206, R226, R234, R249, R480). -/
def Obligations.TrellisRequests : Prop :=
  RequestsServed ∧ RequestsRefused ∧ ResponsesArrive

/-- Control packets at the Kiosk's window: a `CWRITE` of `GLB_SCRATCH` writes the word and a `CREAD` answers it; each is answered with a
`CRESP`, of which a write's carries the ignored bit (log 54); a unit that no endpoint holds is refused with `RERR` 0x21 (R228, R524). No link has failed or retunes here. -/
def Sys2Proof.Machine.ControlPackets : Prop :=
  ∀ (s : State) (dst : BitVec 10) (tag : Byte) (q : Option (BitVec 16)) (ofs : BitVec 18) (v : Word),
    let rsp (k : RspKind) : Rsp :=
      { dst := if q.isSome then 0x398 else 0x399, src := dst.toNat, tag := tag.toNat, kind := k, data := [], stale := false }
    Calm s → (dst = 0x399 → ofs = 0x2C →
      (∃ t, exec (.cread dst tag q ofs) s = .next t ∧
        t = { s with draws := t.draws, tr := { s.tr with rsps := s.tr.rsps ++ [rsp (.cresp s.mgmt.scratch)] } }) ∧
      (∃ t, exec (.cwrite dst tag q ofs v) s = .next t ∧
        t = { s with mgmt := { s.mgmt with scratch := v }, tr := { s.tr with rsps := s.tr.rsps ++ [rsp (.cresp 0)] } })) ∧
    (dst ≠ 0x399 → (dst.toNat < 880 → s.lcOf dst.toNat = none) → ∀ i, i = Instr.cread dst tag q ofs ∨ i = Instr.cwrite dst tag q ofs v →
      exec i s = .next { s with tr := { s.tr with rsps := s.tr.rsps ++ [rsp (.rerr 0x21)] } })

/-- A blame record in flight adds its cycles to `PACE_LAG` of its core and is gone (R157); an interface that takes a map update confirms
it, and with the last confirmation the rows are free (R235). -/
def Sys2Proof.Machine.BlamesAndMaps : Prop :=
  (∀ (s : State) (src dst : Lc) (x : Blame) (rest : List Blame), s.blames = x :: rest → x.src = src.val → x.dst = dst.val → Calm s →
    ∃ t, exec (.blame src dst) s = .next t ∧ t = { s with blames := rest, cores := t.cores } ∧
      (t.core dst) = { s.core dst with seq := { (s.core dst).seq with lag := bump (s.core dst).seq.lag x.n } } ∧
      (∀ k : Nat, k ≠ dst.val → t.core k = s.core k)) ∧
  (∀ (s : State) (i : Site), ∃ t, exec (.mapupd i) s = .next t ∧
    t = { s with tr := { s.tr with unconfirmed := t.tr.unconfirmed, updRows := t.tr.updRows } } ∧
    (∀ k, k ∈ t.tr.unconfirmed ↔ k ∈ s.tr.unconfirmed ∧ k ≠ i.val) ∧
    t.tr.updRows = (if t.tr.unconfirmed = [] then [] else s.tr.updRows))

/-- `BDATA` carries data to one offset in every target core; it is accepted only while no job is loaded on the part, and otherwise its
router discards it and counts it in `RTR_DROP` (R241). -/
def Obligations.BroadcastDataNeedsNoJob : Prop :=
  ∀ (s : State) (b : Fin 891) (tg : Target) (ofs : BitVec 40) (data : List Byte), ofs.toNat + data.length ≤ 2 ^ 40 →
  ∃ t, exec (.bdata b tg ofs data) s = .next t ∧ t = { s with tr := t.tr } ∧
    (s.jobs = [] → ∀ k, k < 880 → ∀ o, o < 2 ^ 40 → Tbl.get 0 t.tr.coreFw (k * 2 ^ 40 + o) =
      if k ∈ s.targetSites tg ∧ s.heedsBcmd k = true ∧ ofs.toNat ≤ o ∧ o < ofs.toNat + data.length then data.getD (o - ofs.toNat) 0
      else Tbl.get 0 s.tr.coreFw (k * 2 ^ 40 + o)) ∧
    (s.jobs ≠ [] → t.tr.coreFw = s.tr.coreFw ∧ (t.router b).drop = satAdd (s.router b).drop 1)

/-- A command broadcast gives every router of the graph its sequence number; one that asks for a retune starts the retune of its bundle where a site at
its position heeds it and the Seam has fewer than eight in progress (R42, R43, R239, R240). Pauses, clocks and caps bring
nothing else (log 55). -/
def Sys2Proof.Machine.CommandBroadcasts : Prop :=
  ∀ (s : State) (tg : Target) (seam : Fin 15) (pos : Fin 220),
    (∀ b, b = Bcmd.pause ∨ b = Bcmd.clock ∨ b = Bcmd.cap → ∃ t, exec (.bcmd tg b) s = .next t ∧ t = { s with tr := t.tr } ∧
      t.tr.bseq = s.tr.bseq + 1 ∧ t.tr.coreFw = s.tr.coreFw ∧ t.tr.rsps = s.tr.rsps ∧ t.tr.queues = s.tr.queues) ∧
    (let k := seam.val * 220 + pos.val;
      (∃ i ∈ s.targetSites tg, i % 220 = pos.val ∧ s.heedsBcmd i = true) → (s.clk 0).locked = true →
      (s.bundle k).failed = false → (s.bundle k).retuning = false → k ∉ s.retunes → s.retuningIn seam < 8 →
      ∃ t, exec (.bcmd tg (.retune seam pos)) s = .next t ∧ (t.bundle k).retuning = true ∧ t.tr.bseq = s.tr.bseq + 1 ∧
        (∀ m, m ≠ k → t.bundle m = s.bundle m) ∧ t.retunes = s.retunes ∧ t.cores = s.cores ∧ t.mem = s.mem)

/-- Control packets, blame records, map updates and command broadcasts (R42, R43, R157, R228, R235, R239, R240). -/
def Obligations.ControlAndBroadcasts : Prop :=
  ControlPackets ∧ BlamesAndMaps ∧ CommandBroadcasts

/-- `REPLAY` counts at its router, and a header whose CRC fails also at the receiver; the eighth consecutive failed replay of a flit fails the
link, which degrades the part; a link that has failed already, or a port without one, counts nothing, and a header of a reserved type
counts at its receiver alone (R226, R246, R247). The report of a packet lost for a job faults that job with `LINK_LOST`; the report of one
lost for a host command completes it with `CMD_PATH_LOST`, and both count a drop at the router; the oldest increment of its source on a route with a failed link is in flight no
more (R247, R250, R390). -/
def Obligations.LinksAndLosses : Prop :=
  (∀ (s : State) (b : Fin 891) (port : Fin 347) (h : BitVec 128) (again : Bool),
    (portLink b port = none ∨ s.linkCut b port = true → exec (.replay b port ⟨h, again⟩) s = .next s) ∧
    (∀ e k, portLink b port = some (e, k) → s.linkCut b port = false →
      (headerRight h = true → headerReserved h = true → e < 880 → ∃ t, exec (.replay b port ⟨h, again⟩) s = .next t ∧
        t = { s with tr := { s.tr with routers := t.tr.routers } } ∧ (t.router e).crc = satAdd (s.router e).crc 1 ∧
        (∀ m : Nat, m ≠ e → t.router m = s.router m)) ∧
      (headerRight h = false ∨ headerReserved h = false →
        let n := if again then Tbl.get 0 (s.router b).again port + 1 else 0
        ∃ t, exec (.replay b port ⟨h, again⟩) s = .next t ∧ (t.router b).replay = satAdd (s.router b).replay 1 ∧ t.mem = s.mem ∧ t.cores = s.cores ∧
          (n < 8 → t = { s with tr := { s.tr with routers := t.tr.routers } } ∧ Tbl.get 0 (t.router b).again port = n ∧
            (e < 880 → (t.router e).crc = if headerRight h then (s.router e).crc else satAdd (s.router e).crc 1) ∧
            (∀ m : Nat, m ≠ b.val → m ≠ routerBlock e → t.router m = s.router m)) ∧
          (8 ≤ n → t.linkCut b port = true ∧ t.tr.degraded = true ∧ t.tr.failedLinks = min 255 (s.tr.failedLinks + 1))))) ∧
  (∀ (s : State) (b : Fin 891) (src : BitVec 10) (x : Send) (rest : List Send) (k : Nat), s.sends = x :: rest → x.sister = false →
    s.siteOf x.src = some src.toNat → s.siteOf x.dst = some k → s.severed src.toNat k = true →
    ∃ t, exec (.event b src none none) s = .next t ∧ t = { s with sends := rest, tr := { s.tr with routers := t.tr.routers } } ∧
      (t.router b).drop = satAdd (s.router b).drop 1) ∧
  (∀ (s : State) (b : Fin 891) (src : BitVec 10) (node : Fin 64) (j : Job), s.jobAt node = some j → j.phase = .running →
    s.jobOf (lostRecorder s j src.toNat) = some j →
    ∃ t, exec (.event b src (some node) none) s = .next t ∧ (t.router b).drop = satAdd (s.router b).drop 1 ∧
      (t.core (lostRecorder s j src.toNat)).seq.stopped = true ∧
      (t.core (lostRecorder s j src.toNat)).seq.fault = contractFault 3 true 0x0A (s.core (lostRecorder s j src.toNat)).seq.next ∧
      t.mem = s.mem) ∧
  (∀ (s : State) (b : Fin 891) (src : BitVec 10) (q : BitVec 16) (cid : Word) (r : Running), (s.queue q.toNat).running = [r] → r.cid = cid →
    ∃ t, exec (.event b src none (some (q, cid))) s = .next t ∧ (t.router b).drop = satAdd (s.router b).drop 1 ∧
      (t.queue q.toNat).running = [] ∧ t.mem = s.mem ∧ t.cores = s.cores)

/-! ## Queues of cores -/

/-- A post to an enabled queue of a core that is not in reset, with room and nothing before it: its 64 bytes stand in the ring entry
that `TAIL` names, `TAIL` advances, the queue's gate counts one, and the post is answered with `WACK`; a post to a disabled queue is
refused with 0x2B; one to a queue with as many entries as its quota, and a head that has not moved, waits, with the time of its wait (R243, R244). The queue is not bound
for serving here, no link has failed or retunes, and the stores of the ring and of the head word have their power. -/
def Sys2Proof.Machine.PostsAccepted : Prop :=
  ∀ (s : State) (p : Pkt) (te : List (Nat × Bool)) (lc : Nat), let qn := p.ofs.toNat % 2 ^ 19
    (∀ e ∈ te, e.2 = true) →
    isSiteQueue qn = true → qn / 512 = p.dst.toNat → s.niPosts (qn / 512) < 8 → s.sv = [] → (∀ x ∈ s.tr.posts, x.qn ≠ qn) →
    s.lcOf (qn / 512) = some lc → s.absorbs lc = false → NoErrors s → p.data.length = 64 → p.dst.toNat < 880 → Calm s →
    storeWait s (s.sq qn).ring = none → storeWait s (s.sq qn).headDa = none →
    ((s.sq qn).st = 1 → (s.sq qn).occ < (s.sq qn).quota → (s.core lc).gate (s.sq qn).gate + 1 ≤ 16777215 →
      ∃ t, exec (.post ⟨p, te⟩) s = .next t ∧
        (let da := (s.sq qn).ring + 64 * ((s.sq qn).tail.toNat % 2 ^ (s.sq qn).log2);
          (∀ i, i < 64 → t.byte (da + i) = p.data.getD i 0) ∧ BytesKept s t [(da, 64)]) ∧
        t.sq qn = { s.sq qn with tail := (s.sq qn).tail + 1 } ∧ (∀ k, k ≠ qn → t.sq k = s.sq k) ∧
        (t.core lc).gate (s.sq qn).gate = (s.core lc).gate (s.sq qn).gate + 1 ∧
        (∀ k, k ≠ lc → t.core k = s.core k) ∧ (t.core lc).arr = (s.core lc).arr ∧ (t.core lc).fv = (s.core lc).fv ∧
        t.tr.posts = s.tr.posts ∧ t.tr.rsps = s.tr.rsps ++ [rspTo p .wack []] ∧ t.jobs = s.jobs) ∧
    ((s.sq qn).st ≠ 1 → ∃ t, exec (.post ⟨p, te⟩) s = .next t ∧ t = { s with tr := t.tr } ∧ t.tr.posts = s.tr.posts ∧
      t.tr.queues = s.tr.queues ∧ t.tr.rsps = s.tr.rsps ++ [rspTo p (.rerr 0x2B) []] ∧
      (t.router (qn / 512)).qfull = satAdd (s.router (qn / 512)).qfull 1) ∧
    ((s.sq qn).st = 1 → (s.sq qn).quota = (s.sq qn).occ → (s.sq qn).occ ≤ 2 ^ (s.sq qn).log2 →
      BitVec.ofNat 32 (leNat (s.bytesAt (s.sq qn).headDa 4)) = (s.sq qn).headSeen →
      ∃ t, exec (.post ⟨p, te⟩) s = .next t ∧ t.tr.rsps = s.tr.rsps ∧ t.sq qn = s.sq qn ∧ t.mem.bytes = s.mem.bytes ∧ t.cores = s.cores ∧
        t.tr.posts = s.tr.posts ++ [{ qn := qn, data := p.data, src := .pkt p.src.toNat p.tag.toNat, since := some s.us }])

/-- A read of the head word takes its value into `HEAD_SEEN`, or, where `TAIL` is more than the ring's size ahead of it, the queue stops in state 2 (R243, R244); a post that has waited 100 µs for room, of
a site queue or of an Orangery queue that still has none, is refused with `Q_FULL` (R244, R268). -/
def Sys2Proof.Machine.HeadsAndTimeouts : Prop :=
  (∀ (s : State) (qn : BitVec 19), isSiteQueue qn.toNat = true → (s.sq qn.toNat).st = 1 → NoErrors s → s.sv = [] →
    (∀ x ∈ s.tr.posts, x.qn ≠ qn.toNat) →
    let h := BitVec.ofNat 32 (leNat (s.bytesAt (s.sq qn.toNat).headDa 4))
    ∃ t, exec (.headWordReread qn) s = .next t ∧ t = { s with tr := { s.tr with queues := t.tr.queues } } ∧
      t.sq qn.toNat = (if ((s.sq qn.toNat).tail - h).toNat ≤ 2 ^ (s.sq qn.toNat).log2 then { s.sq qn.toNat with headSeen := h }
        else { s.sq qn.toNat with st := 2 }) ∧ (∀ k, k ≠ qn.toNat → t.sq k = s.sq k)) ∧
  (∀ (s : State) (qn : BitVec 19) (x : Post) (dst tag w : Nat), isSiteQueue qn.toNat = true → s.tr.posts = [x] → x.qn = qn.toNat →
    x.src = .pkt dst tag → x.since = some w → w + 100 ≤ s.us → s.sv = [] →
    ∃ t, exec (.postTimeout qn) s = .next t ∧ t = { s with tr := { s.tr with posts := [], rsps := t.tr.rsps, routers := t.tr.routers } } ∧
      t.tr.rsps = s.tr.rsps ++ [{ dst := dst, src := qn.toNat / 512, tag := tag, kind := .rerr 0x2A, data := [], stale := false }] ∧
      (t.router (qn.toNat / 512)).qfull = satAdd (s.router (qn.toNat / 512)).qfull 1) ∧
  (∀ (s : State) (k : Fin 6) (x : Post) (dst tag w : Nat), (s.stack k).posts = [x] → x.src = .pkt dst tag → x.since = some w →
    w + 100 ≤ s.us → orgPost s k ((x.qn - 0x7F000) % 512) x.data = .full s →
    ∃ t, exec (.orangeryPostTimeout k) s = .next t ∧ t = { s with orgs := t.orgs, tr := { s.tr with rsps := t.tr.rsps } } ∧
      t.stack k = { s.stack k with posts := [] } ∧ (∀ m : Nat, m ≠ k.val → t.stack m = s.stack m) ∧
      t.tr.rsps = s.tr.rsps ++ [{ dst := dst, src := 0x390 + k.val, tag := tag, kind := .rerr 0x2A, data := [], stale := false }])

/-- Posts to the queues of cores, head words and post timeouts (R243, R244, R268). -/
def Obligations.CoreQueues : Prop :=
  PostsAccepted ∧ HeadsAndTimeouts

/-! ## Clocks, Seams and the upkeep of memory -/

/-- An array clock in lock moves one code towards its effective target, and stays when it is there; no other region's does (R38). A bundle whose
margin is low starts its retune while fewer than eight of its Seam retune and waits behind them otherwise; a retune whose sweep
passes exactly the codes from `lo` to `lo` + 2m, and no more, sets the centre `lo` + m; one whose two sweeps fail leaves its bundle failed with its
code kept (R42, R43, Table 1.10). -/
def Sys2Proof.Machine.ClocksAndSeams : Prop :=
  (∀ (s : State) (r : Fin 5), (s.clk r).locked = true →
    ∃ t, exec (.clockSlewStep r) s = .next t ∧ t = { s with regions := t.regions } ∧
      t.clk r = { s.clk r with
        now := if (s.clk r).now < s.clkTarget r then (s.clk r).now + 1
          else if s.clkTarget r < (s.clk r).now then (s.clk r).now - 1 else (s.clk r).now } ∧
      (∀ k : Nat, k ≠ r.val → t.clk k = s.clk k)) ∧
  (∀ (s : State) (seam : Fin 15) (pos : Fin 220) (w w2 : BitVec 64) (ok ok2 : Bool) (lo m : Nat), let k := seam.val * 220 + pos.val
    ((s.clk 0).locked = true → (s.bundle k).failed = false → (s.bundle k).retuning = false → k ∉ s.retunes →
      (s.retuningIn seam < 8 → ∃ t, exec (.seamMarginLow seam pos) s = .next t ∧
        t = { s with bundles := t.bundles, tr := { s.tr with routers := t.tr.routers } } ∧
        t.bundle k = { s.bundle k with retuning := true } ∧ (∀ j, j ≠ k → t.bundle j = s.bundle j)) ∧
      (8 ≤ s.retuningIn seam → exec (.seamMarginLow seam pos) s = .next { s with retunes := s.retunes ++ [k] })) ∧
    ((s.bundle k).retuning = true → (∀ j ∈ s.retunes, j / 220 ≠ seam.val) →
      (ok = true → lo + 2 * m < 64 → (∀ i, i < 64 → w.getLsbD i = decide (lo ≤ i ∧ i ≤ lo + 2 * m)) →
        ∃ t, exec (.retuneEnd seam pos w ok w2 ok2) s = .next t ∧
          t = { s with bundles := t.bundles, seams := t.seams, draws := t.draws, tr := { s.tr with routers := t.tr.routers } } ∧
          t.bundle k = { s.bundle k with retuning := false, code := lo + m } ∧ (∀ j, j ≠ k → t.bundle j = s.bundle j)) ∧
      (ok = false → ok2 = false → ∃ t, exec (.retuneEnd seam pos w ok w2 ok2) s = .next t ∧
        t.bundle k = { s.bundle k with retuning := false, failed := true } ∧ (∀ j, j ≠ k → t.bundle j = s.bundle j) ∧
        (∀ l, channelLayer seam = some l → (t.site (l * 220 + pos.val)).vchOk = false) ∧ t.cores = s.cores ∧ t.mem = s.mem)))

/-- The entry of a word closes: in a word without an error its bytes stay as merged, and the entry is gone; in a poisoned word a partial mask leaves the
poison, logged (R202, R203). A queued write-back writes its unit as the decoder corrects it, and is then free of error, or is cancelled while the store may not be
written (R196, R199, R207, R208). A plot refresh keeps every byte (R438). -/
def Sys2Proof.Machine.MemoryUpkeep : Prop :=
  (∀ (s : State) (da : Dword) (e : MergeEntry), e.word = da.toNat / 32 * 32 → s.mem.merges = [e] → e.bad = 0 →
    (Tbl.get [] s.mem.flaws e.word = [] → ∃ t, exec (.mergeEntryClose da) s = .next t ∧ t = { s with mem := t.mem } ∧
      t.mem.merges = [] ∧ t.mem.bytes = s.mem.bytes ∧ Tbl.get [] t.mem.flaws e.word = []) ∧
    (Tbl.get [] s.mem.flaws e.word = poisonWord → e.mask ≠ BitVec.allOnes 32 → s.lineValid e.word = true → e.lc = none → s.mem.logUsed < 1024 →
      ∃ t, exec (.mergeEntryClose da) s = .next t ∧ t.mem.merges = [] ∧ (∀ a, t.byte a = s.byte a) ∧
        Tbl.get [] t.mem.flaws e.word = poisonWord ∧ t.mem.logUsed = s.mem.logUsed + 1 ∧ t.cores = s.cores)) ∧
  (∀ (s : State) (da : Dword), let a := da.toNat
    let err := Tbl.get [] s.mem.flaws a
    let e := Tbl.get 0 s.mem.byteFlaws a
    a ∈ s.mem.writeBacks → ∃ t, exec (.writeBack da) s = .next t ∧ t = { s with mem := t.mem } ∧ a ∉ t.mem.writeBacks ∧
      BytesKept s t [(a, 32)] ∧
      (s.tooHot a = true → t.mem.bytes = s.mem.bytes ∧ t.mem.flaws = s.mem.flaws ∧ t.mem.byteFlaws = s.mem.byteFlaws) ∧
      (s.tooHot a = false → s.mem.merges = [] → ∀ p v,
        (isDram a = true → decodeWord err = .corrected p v → Tbl.get [] t.mem.flaws a = [] ∧
          ∀ i, i < 32 → t.byte (a + i) = (seenWord (s.bytesAt a 32) (fixWord err (.corrected p v))).getD i 0) ∧
        (isDram a = false → decodeByte e = .corrected p v → Tbl.get 0 t.mem.byteFlaws a = 0 ∧
          t.byte a = s.byte a ^^^ BitVec.ofNat 8 ((fixByte e (.corrected p v)).toNat % 256)))) ∧
  (∀ (s : State) (i : Site), let cell := s.ruling (dramHeat (i.val / 220)) (i.val % 220)
    ∃ t, exec (.plotRefresh i) s = .next t ∧ t = { s with thm := { s.thm with refresh := t.thm.refresh, retained := t.thm.retained } } ∧
    (s.retentionHold = none → Tbl.get 0 t.thm.refresh i = s.auxNs + s.plotInterval i) ∧
    (∀ n (c : Int) d r, s.retentionHold = some n → (Tbl.get (0, 0) s.thm.retained i).1 ≠ n → cell = some { v := (c : Rat), src := d, est := r } →
      -- c is in 1/16 °C: k = min(4, max(0, floor((85 − T) / 10)))
      Tbl.get 0 t.thm.refresh i = s.auxNs + s.plotInterval i * 2 ^ min 4 ((1360 - c) / 160).toNat))

/-- Clock slews, Seam retunes, merge entries, write-backs and plot refresh (R38, R42, R43, R202, R203, R207, R208, R438). -/
def Obligations.ClocksSeamsMemory : Prop :=
  ClocksAndSeams ∧ MemoryUpkeep

/-! ## The Orangery -/

/-- Only region r of stack k, and the stack's open rows, may differ in the Orangery. -/
def Sys2Proof.Machine.OnlyRegion (s t : State) (k r : Nat) : Prop :=
  (∀ m, m ≠ k → t.stack m = s.stack m) ∧ t.stack k = { s.stack k with regions := (t.stack k).regions, rows := (t.stack k).rows } ∧
    ∀ q, q ≠ r → t.region k q = s.region k q

/-- A page-out that completes puts the region's 64 MiB in its host buffer, records their CRC-64 and leaves it `SPILLED` with its frame
free; a page-in that completes leaves it `RESIDENT` with the bytes of the host buffer, and where the recorded CRC-64 differs, or the host read failed, with every word poisoned
(R169, R170, R215). Memory holds no error here, and no command and no other region waits for either. -/
def Sys2Proof.Machine.PagesMove : Prop :=
  ∀ (s : State) (k : Fin 6) (r : Fin 16384), let g := s.region k r
    g.cmd = [] → s.hif.bme = true → NoErrors s → s.hostFails g.buf (2 ^ 26) = false →
    (g.st = .pageOut → s.moverReaches k r = false → (s.stack k).waitIn = [] →
      ∃ t, exec (.pageOutComplete k r) s = .next t ∧ OnlyRegion s t k r ∧
        t.region k r = { g with st := .spilled, crc := (t.region k r).crc, poison := false } ∧
        (t.region k r).crc = some (BitVec.ofNat 64 (crc64Sparse (2 ^ 26)
          ((Tbl.slice s.mem.bytes (regionDa k r 0) (regionDa k r (2 ^ 26))).map (fun e => (e.1 - regionDa k r 0, e.2))))) ∧
        (∀ o, o < 2 ^ 26 → Tbl.get 0 t.hostMem (g.buf + o) = s.byte (regionDa k r o)) ∧
        (∀ a, a < g.buf ∨ g.buf + 2 ^ 26 ≤ a → Tbl.get 0 t.hostMem a = Tbl.get 0 s.hostMem a) ∧
        BytesKept s t [(regionDa k r 0, 2 ^ 26)] ∧ t = { s with orgs := t.orgs, mem := t.mem, hostMem := t.hostMem }) ∧
    (g.st = .pageIn →
      let crc := crc64Sparse (2 ^ 26) ((Tbl.slice s.hostMem g.buf (g.buf + 2 ^ 26)).map (fun e => (e.1 - g.buf, e.2)))
      (∀ bad, ∃ t, exec (.pageInComplete k r bad) s = .next t ∧ OnlyRegion s t k r ∧
        t.region k r = { g with st := .resident, poison := false } ∧
        (∀ o, o < 2 ^ 26 → t.byte (regionDa k r o) = Tbl.get 0 s.hostMem (g.buf + o)) ∧ BytesKept s t [(regionDa k r 0, 2 ^ 26)] ∧
        t.hostMem = s.hostMem ∧ t.cores = s.cores ∧
        (bad = false → g.poison = false → (∀ c, g.crc = some c → c.toNat = crc) → t.mem.flaws = []) ∧
        (bad = true ∨ g.poison = true ∨ (∃ c, g.crc = some c ∧ c.toNat ≠ crc) →
          ∀ i, i < 2 ^ 21 → Tbl.get [] t.mem.flaws (regionDa k r 0 + 32 * i) = poisonWord)))

/-- Bank-mode entry completes with its region `BANK`; a release completes once every unit executes nothing: the region is `NORMAL` with its next
generation; a transfer that bank mode has held for 1 ms faults its job with `SOURCE` 5 (R258 to R263). The holder is the host, and no record waits. -/
def Sys2Proof.Machine.BankModeMoves : Prop :=
  (∀ (s : State) (k : Fin 6) (r : Fin 16384), let g := s.region k r
    g.cmd = [] → g.holder = .host →
    (g.bank = .entering → NoErrors s → ∃ t, exec (.bankEntryComplete k r) s = .next t ∧ t = { s with orgs := t.orgs } ∧ OnlyRegion s t k r ∧
      t.region k r = { g with bank := .bank }) ∧
    (g.bank = .releasing → (s.stack k).allQuiet = true → g.relWait = 0 → g.abort = false → g.relCmpl = none →
      ∃ t, exec (.bankReleaseComplete k r) s = .next t ∧ t = { s with orgs := t.orgs } ∧ OnlyRegion s t k r ∧
        t.region k r = { g with bank := .normal, handle := 0, gen := g.gen + 1 })) ∧
  (∀ (s : State) (lc : Lc) (m : Fin 4) (x : Xfer) (j : Job), ((s.core lc).mover m).active = some x → s.bankHeld x = true →
    ∀ since, x.bankSince = some since →
    (since + 1000 ≤ s.us → s.jobOf lc = some j → j.phase = .running →
      ∃ t, exec (.bankHoldTimeout lc m) s = .next t ∧ (t.core lc).seq.stopped = true ∧
        (t.core lc).seq.fault = contractFault 5 true 0 x.bundle ∧ (t.core lc).mov = (s.core lc).mov ∧ t.mem = s.mem ∧
        (∀ c : Nat, c ≠ lc.val → t.core c = s.core c)) ∧
    (s.us < since + 1000 → exec (.bankHoldTimeout lc m) s = .next s))

/-- Paging and bank mode of Orangery regions (R169, R170, R215, R258 to R263). -/
def Obligations.RegionsMove : Prop :=
  PagesMove ∧ BankModeMoves

/-- A record's turn has come: its region is in bank mode with its generation, and nothing of its stack waits. -/
def Sys2Proof.Machine.RecTurn (s : State) (k r : Nat) (x : OrgRec) : Prop :=
  s.recQueue k = 0 ∧ (∀ e ∈ (s.stack k).regions, e.2.bank ≠ .releasing ∧ e.2.relWait = 0) ∧ x.gen = (s.region k r).gen ∧ (s.region k r).bank = .bank

/-- Only units of stack k that record `x` selects may differ. -/
def Sys2Proof.Machine.OnlyUnits (s t : State) (k : Nat) (x : OrgRec) : Prop :=
  t = { s with orgs := t.orgs } ∧ (∀ m, m ≠ k → t.stack m = s.stack m) ∧
    t.stack k = { s.stack k with units := (t.stack k).units, active := (t.stack k).active } ∧
    ∀ u, u ∉ recUnits x → (t.stack k).unit u = (s.stack k).unit u

/-- Records that set up units, with quiet units and no copy in progress: `PLOAD` writes its four words from index i, `PSET` a register, `SEED` key,
salt and counter, `START` starts the units, `STOP` stops them, and a record of `OP` 0 does nothing (R266, R267, Table 9.6). -/
def Sys2Proof.Machine.RecordsSetUnits : Prop :=
  ∀ (s : State) (k : Fin 6) (r : Fin 16384) (x : OrgRec), RecTurn s k r x → x.rsv = 0 → s.skipsStart k = none →
    exec (.recordNoOp k r x) s = .next s ∧
    ((∀ u ∈ recUnits x, ((s.stack k).unit u).quiet = true) → (s.stack k).active = [] →
      (fld x.cmpl 31 8 = 0 → fld x.cmpl 7 0 % 4 = 0 → ∃ t, exec (.pload k r x) s = .next t ∧ OnlyUnits s t k x ∧ (t.stack k).active = [] ∧
        ∀ u ∈ recUnits x, (t.stack k).unit u = { (s.stack k).unit u with store := ((t.stack k).unit u).store } ∧
          ∀ i, Tbl.get 0 ((t.stack k).unit u).store i =
            if fld x.cmpl 7 0 ≤ i ∧ i < fld x.cmpl 7 0 + 4 then
              BitVec.ofNat 32 (recArg x (16 + 4 * (i - fld x.cmpl 7 0)) (19 + 4 * (i - fld x.cmpl 7 0)))
            else Tbl.get 0 ((s.stack k).unit u).store i) ∧
      (fld x.cmpl 31 8 = 0 → ∃ t, exec (.pset k r x) s = .next t ∧ OnlyUnits s t k x ∧ (t.stack k).active = [] ∧
        ∀ u ∈ recUnits x,
          (isRowUnit u = true → (t.stack k).unit u = ((s.stack k).unit u).setScalar (fld x.cmpl 3 0) (BitVec.ofNat 32 (recArg x 16 19))) ∧
          (isRowUnit u = false → (t.stack k).unit u = { (s.stack k).unit u with regs := ((t.stack k).unit u).regs } ∧
            ∀ q, ((t.stack k).unit u).reg q =
            if q = fld x.cmpl 5 0 then
              if fld x.cmpl 7 7 = 1 then joinLanes 32 (List.replicate 8 (recArg x 16 19))
              else if fld x.cmpl 6 6 = 1 then x.args ++ (((s.stack k).unit u).reg q).extractLsb' 0 128
              else (((s.stack k).unit u).reg q).extractLsb' 128 128 ++ x.args
            else ((s.stack k).unit u).reg q)) ∧
      (x.cmpl = 0 → recArg x 28 31 = 0 → ∃ t, exec (.seed k r x) s = .next t ∧ OnlyUnits s t k x ∧ (t.stack k).active = [] ∧
        ∀ u ∈ recUnits x, (t.stack k).unit u = if isRowUnit u then (s.stack k).unit u else { (s.stack k).unit u with
          key0 := BitVec.ofNat 32 (recArg x 16 19), key1 := BitVec.ofNat 32 (recArg x 20 23), salt := BitVec.ofNat 32 (recArg x 24 27), ctr := 0 }) ∧
      (cmplOk s k x = true → recArg x 17 17 < 2 → recArg x 18 31 = 0 → ∃ t, exec (.start k r x) s = .next t ∧ OnlyUnits s t k x ∧
        (t.stack k).active = [.start (recUnits x) (recCmpl x)] ∧
        ∀ u ∈ recUnits x, (t.stack k).unit u = { (s.stack k).unit u with
          pc := recArg x 16 16, st := .running, err := 0, span := decide (recArg x 17 17 = 1) })) ∧
    (cmplOk s k x = true → x.args = 0 → ∃ t, exec (.stop k r x) s = .next t ∧ OnlyUnits s t k x ∧
      (t.stack k).active = (s.stack k).active ++ [.stop (recUnits x) (recCmpl x)] ∧
      ∀ u ∈ recUnits x, ((t.stack k).unit u).quiet = true ∧
        (t.stack k).unit u = { (s.stack k).unit u with st := ((t.stack k).unit u).st })

/-- Records that move bytes or release, whose ranges are in order: `COPYIN`, `COPYOUT` and `DIGEST` are in progress with their ranges and completion, no byte
moved yet, once no unit of a bank they touch executes; `RELEASE` leaves its region `RELEASING` (R262, R266, R267). -/
def Sys2Proof.Machine.RecordsBegin : Prop :=
  ∀ (s : State) (k : Fin 6) (r : Fin 16384) (x : OrgRec), RecTurn s k r x → x.rsv = 0 → recNoMask x = true → cmplOk s k x = true →
    let far := recArg x 16 23
    let n := recArg x 24 27
    let ofs := recArg x 28 31
    (copyOk x = true → farOk s k far n = true → banksWait (s.stack k) ofs n = false →
      exec (.copyin k r x) s = .next (s.modStack k (fun t => { t with active := t.active ++ [.copyIn r far n ofs (recCmpl x)] })) ∧
      exec (.copyout k r x) s = .next (s.modStack k (fun t => { t with active := t.active ++ [.copyOut r far n ofs (recCmpl x)] }))) ∧
    (digestOk x = true → farOk s k far (8 * n) = true → banksWait (s.stack k) ofs (n * 2 ^ 20) = false → rowsBusy (s.stack k) = false →
      exec (.digest k r x) s = .next (s.modStack k (fun t => { t with active := t.active ++ [.digest r far n ofs (recCmpl x)] }))) ∧
    (recArg x 16 16 < 2 → recArg x 17 31 = 0 → ∃ t, exec (.release k r x) s = .next t ∧ t = { s with orgs := t.orgs } ∧
      (∀ m : Nat, m ≠ k.val → t.stack m = s.stack m) ∧
      t.region k r = { s.region k r with
        bank := .releasing, relCmpl := some (recCmpl x), relWait := 0, abort := decide (recArg x 16 16 = 1), cmd := [] } ∧
      (∀ q : Nat, q ≠ r.val → t.region k q = s.region k q) ∧
      (recArg x 16 16 = 0 → (t.stack k).units = (s.stack k).units) ∧
      (recArg x 16 16 = 1 → (t.stack k).allQuiet = true))

/-- Command records that take effect (R262, R266, R267). -/
def Obligations.RecordsTakeEffect : Prop :=
  RecordsSetUnits ∧ RecordsBegin

/-- Records that do not take effect: one of an earlier generation is discarded and counted in `ORG_STALE`; a malformed one of a job holder faults the job with
`BANK_RECORD`, one of the host is counted in `MALFORMED`, and neither changes a unit; one behind a waiting record is held (R266, R267). -/
def Sys2Proof.Machine.RecordsRefused : Prop :=
  ∀ (s : State) (k : Fin 6) (r : Fin 16384) (x : OrgRec) (i : Instr),
    i ∈ [Instr.pload k r x, .pset k r x, .seed k r x, .start k r x, .stop k r x, .copyin k r x, .copyout k r x, .digest k r x, .release k r x] →
    (s.recQueue k ≠ 0 → exec i s = .next { s with held := s.held ++ [i] }) ∧
    (s.recQueue k = 0 → (∀ e ∈ (s.stack k).regions, e.2.bank ≠ .releasing ∧ e.2.relWait = 0) → x.gen ≠ (s.region k r).gen →
      ∃ t, exec i s = .next t ∧ t = { s with orgs := t.orgs } ∧ (∀ m : Nat, m ≠ k.val → t.stack m = s.stack m) ∧
        t.stack k = { s.stack k with stale := satAdd (s.stack k).stale 1 }) ∧
    (RecTurn s k r x → x.rsv ≠ 0 →
      ((s.stack k).holder = some .host → ∃ t, exec i s = .next t ∧
        t.stack k = { s.stack k with malformed := satAdd (s.stack k).malformed 1 } ∧ t.cores = s.cores ∧ t.mem = s.mem) ∧
      (∀ n j, (s.stack k).holder = some (.job n) → s.jobAt n = some j → s.jobOf j.lowest = some j → j.phase = .running →
        ∃ t, exec i s = .next t ∧ (t.core j.lowest).seq.stopped = true ∧ t.orgs = s.orgs ∧
          (t.core j.lowest).seq.fault = contractFault 3 true 0x0B (s.core j.lowest).seq.next ∧ t.mem = s.mem))

/-- The record in progress completes: a `START` or `STOP` with its units quiet gives its increment; a `COPYIN` leaves the far bytes in the region,
a `COPYOUT` the region's bytes at the far address, a `DIGEST` the CRC-64 of its blocks; every other byte stays (R267, R278, Table 9.6). The record's increment is zero or fits its gate. -/
def Sys2Proof.Machine.RecordCompletes : Prop :=
  ∀ (s : State) (k : Fin 6) (job : RecJob) (c : Cmpl), (s.stack k).active = [job] → NoErrors s →
    (s.core c.lc).gate c.gate + c.n ≤ 16777215 →
    (recReady s k job = true → ∃ t, exec (.bankRecordComplete k) s = .next t ∧
      (∀ us, job = .start us c ∨ job = .stop us c → t.mem = s.mem ∧ (t.core c.lc).gate c.gate = (s.core c.lc).gate c.gate + c.n) ∧
      (∀ r far n ofs, job = .copyIn r far n ofs c → r < 16384 → far + n ≤ 2 ^ 54 → ofs + n ≤ 2 ^ 26 →
        (∀ i, i < n → t.byte (regionDa k r ofs + i) = s.byte (far + i)) ∧ BytesKept s t [(regionDa k r ofs, n)] ∧
        (t.core c.lc).gate c.gate = (s.core c.lc).gate c.gate + c.n) ∧
      (∀ r far n ofs, job = .copyOut r far n ofs c → r < 16384 → far + n ≤ 2 ^ 54 → ofs + n ≤ 2 ^ 26 →
        (∀ i, i < n → t.byte (far + i) = s.byte (regionDa k r ofs + i)) ∧ BytesKept s t [(far, n)] ∧
        (t.core c.lc).gate c.gate = (s.core c.lc).gate c.gate + c.n) ∧
      (∀ r far ofs, job = .digest r far 1 ofs c → r < 16384 → far + 8 ≤ 2 ^ 54 → ofs + 2 ^ 20 ≤ 2 ^ 26 →
        (∀ i, i < 8 → t.byte (far + i) = BitVec.ofNat 8 (crc64Sparse (2 ^ 20)
          ((Tbl.slice s.mem.bytes (regionDa k r ofs) (regionDa k r ofs + 2 ^ 20)).map (fun e => (e.1 - regionDa k r ofs, e.2))) / 256 ^ i)) ∧
        BytesKept s t [(far, 8)] ∧ (t.core c.lc).gate c.gate = (s.core c.lc).gate c.gate + c.n) ∧
      (t.stack k).active = [] ∧ (∀ m : Nat, m ≠ k.val → t.stack m = s.stack m) ∧ (t.stack k).units = (s.stack k).units)

/-- A refresh of a bank on which no unit runs runs, with those that waited, and closes the bank's rows. While the bank's unit runs it waits for the
unit's next access: one to an open row goes on, and the refreshes are owed and counted as postponed; another suspends the unit, which executes
nothing for 50 bank cycles each, counted in `WAIT`. With four waiting the fifth suspends the unit at once (R254, R279). A frame replay of a port link counts, and the eighth consecutive one fails the link (R255). -/
def Sys2Proof.Machine.RefreshAndReplay : Prop :=
  (∀ (s : State) (k : Fin 6) (die : Fin 16) (half : Fin 2) (bk : Fin 32), let b := 32 * (2 * die.val + half.val) + bk.val
    let n := Tbl.get 0 (s.stack k).owed b + Tbl.get 0 (s.stack k).due b
    let x := (s.stack k).unit b
    let rowUnits := ∀ i, i = 30 ∨ i = 31 → ((s.stack k).unit (b / 32 * 32 + i)).quiet = true
    ∃ t, exec (.refresh k die half bk) s = .next t ∧
      t = { s with orgs := t.orgs, thm := { s.thm with refresh := t.thm.refresh, retained := t.thm.retained } } ∧ (∀ m : Nat, m ≠ k.val → t.stack m = s.stack m) ∧
      (t.stack k).regions = (s.stack k).regions ∧ (∀ v, v ≠ b → rowUnits → (t.stack k).unit v = (s.stack k).unit v) ∧
      (x.quiet = true → rowUnits → Tbl.get 0 (t.stack k).owed b = 0 ∧ Tbl.get 0 (t.stack k).due b = 0 ∧
        (∀ row, (t.stack k).rowOpen b row = false) ∧ (t.stack k).unit b = x) ∧
      (x.quiet = false → bk.val < 30 → rowUnits →
        (n < 4 → (t.stack k).due = Tbl.modify 0 (s.stack k).due b (· + 1) ∧ (t.stack k).owed = (s.stack k).owed ∧ (t.stack k).unit b = x) ∧
        (4 ≤ n → Tbl.get 0 (t.stack k).owed b = 0 ∧ Tbl.get 0 (t.stack k).due b = 0 ∧ (∀ row, (t.stack k).rowOpen b row = false) ∧
          (t.stack k).refForce = satAdd (s.stack k).refForce 1 ∧ (t.stack k).unit b = { x with refLeft := 50 * (n + 1) }))) ∧
  (∀ (s : State) (u : BankUnit) (d a : Fin 64) (r : Nat), let x := (s.stack u.stack).unit u.num
    let w := x.lane0 a
    let da := regionDa u.stack r (fld w 10 5 * 2 ^ 20 + u.bk.val * 2 ^ 15 + u.ch.val * 2 ^ 10 + fld w 4 0 * 32)
    let n := Tbl.get 0 (s.stack u.stack).owed u.num + Tbl.get 0 (s.stack u.stack).due u.num
    x.runs = true → x.pc < 255 → NoErrors s →
    (0 < x.refLeft → ∃ t, exec (.buLd u d a) s = .next t ∧ t.held = s.held ++ [.buLd u d a] ∧ t.mem = s.mem ∧
      (t.stack u.stack).unit u.num = { x with refLeft := x.refLeft - 1, wait := satAdd x.wait 1 }) ∧
    (x.refLeft = 0 → (s.stack u.stack).bound (fld w 19 11) = some r → n ≠ 0 →
      ((s.stack u.stack).rowOpen u.num (s.daRow da) = true → ∃ t, exec (.buLd u d a) s = .next t ∧
        Tbl.get 0 (t.stack u.stack).owed u.num = n ∧ Tbl.get 0 (t.stack u.stack).due u.num = 0 ∧
        ((t.stack u.stack).unit u.num).pc = x.pc + 1) ∧
      ((s.stack u.stack).rowOpen u.num (s.daRow da) = false → ∃ t, exec (.buLd u d a) s = .next t ∧ t.held = s.held ++ [.buLd u d a] ∧
        Tbl.get 0 (t.stack u.stack).owed u.num = 0 ∧ Tbl.get 0 (t.stack u.stack).due u.num = 0 ∧
        (t.stack u.stack).unit u.num = { x with refLeft := 50 * n }))) ∧
  (∀ (s : State) (k : Fin 6) (again : Bool), let n := if again then (s.stack k).replays + 1 else 0
    ∃ t, exec (.frameReplay k again) s = .next t ∧ (∀ m : Nat, m ≠ k.val → t.stack m = s.stack m) ∧ t.mem = s.mem ∧ t.cores = s.cores ∧
      t.stack k = { s.stack k with
        rply := satAdd (s.stack k).rply 1, replays := n, linkUp := (s.stack k).linkUp && decide (n < 8) })

/-- Command records that do not take effect, completions, refreshes and frame replays (R255, R266, R267, R278, R279). -/
def Obligations.RecordsEnd : Prop :=
  RecordsRefused ∧ RecordCompletes ∧ RefreshAndReplay

/-! ## Bank units and row units -/

/-- Of the whole part, only unit u of stack k may differ. -/
def Sys2Proof.Machine.OnlyUnit (s t : State) (k u : Nat) : Prop :=
  t = { s with orgs := t.orgs } ∧ (∀ m, m ≠ k → t.stack m = s.stack m) ∧
    t.stack k = { s.stack k with units := (t.stack k).units } ∧ ∀ m, m ≠ u → (t.stack k).unit m = (s.stack k).unit m

/-- The unit executes a program, its next instruction lies in its store, and no refresh of a bank is under way or waits. -/
def Sys2Proof.Machine.UnitReady (s : State) (k u : Nat) : Prop :=
  ((s.stack k).unit u).runs = true ∧ ((s.stack k).unit u).pc < 255 ∧ ((s.stack k).unit u).refLeft = 0 ∧
    (s.stack k).owed = [] ∧ (s.stack k).due = []

/-- Memory and the open rows of stack k apart, nothing differs, and the row at `da` is open (R254). -/
def Sys2Proof.Machine.RowUsed (s s' : State) (k da : Nat) : Prop :=
  s' = { s with mem := s'.mem, orgs := s'.orgs } ∧ OnlyRows s s' ∧ (s'.stack k).rowOpen (daBank da) (s.daRow da) = true

/-- An instruction of a unit completes: the unit is y but for its index, which moves by `jump`, and its count of steps; only the
unit of the part changes, and `s'` is what it left of the rest. -/
def Sys2Proof.Machine.UnitDoes (i : Instr) (s s' : State) (k u : Nat) (y : BUnit) (jump : Int) : Prop :=
  ∃ t, exec i s = .next t ∧ OnlyUnit s' t k u ∧ (t.stack k).unit u =
    { y with pc := (((s.stack k).unit u).pc + jump).toNat, st := .running, steps := bump ((s.stack k).unit u).steps 1 }

/-- An instruction that changes its unit alone and goes on to the next. -/
def Sys2Proof.Machine.UnitTo (i : Instr) (s : State) (k u : Nat) (y : BUnit) : Prop := UnitDoes i s s k u y 1

/-- Bank units, scalars and control: lane 0 takes an immediate or a sum modulo 2^32 with the other bits 0; `LOOP` counts lane 0 down, keeps the other
bits, and branches while it is not 0; `BR` branches; `END` leaves the unit idle; `BCAST` copies lane 0; `PUT` writes the mailbox;
`RAND` takes two calls of the generator (R269 to R273, Table 9.7). -/
def Sys2Proof.Machine.BankUnitScalars : Prop :=
  ∀ (s : State) (u : BankUnit) (d a b : Fin 64) (i20 : BitVec 20) (i14 : BitVec 14) (half : Bool),
    let x := (s.stack u.stack).unit u.num
    let low (r : Nat) : Word := (x.reg r).setWidth 32
    let n := low a - 1
    UnitReady s u.stack u.num →
    UnitTo (.buNop u) s u.stack u.num x ∧
    UnitTo (.buLdi u d i20) s u.stack u.num (x.setReg d (i20.setWidth 256)) ∧
    UnitTo (.buIadd u d a b) s u.stack u.num (x.setReg d ((low a + low b).setWidth 256)) ∧
    UnitTo (.buIaddi u d a i14) s u.stack u.num (x.setReg d ((low a + i14.signExtend 32).setWidth 256)) ∧
    (0 ≤ x.pc + i14.toInt → x.pc + i14.toInt ≤ 255 →
      UnitDoes (.buLoop u a i14) s s u.stack u.num (x.setReg a ((x.reg a).extractLsb' 32 224 ++ n)) (if n = 0 then 1 else i14.toInt) ∧
      UnitDoes (.buBr u i14) s s u.stack u.num x i14.toInt) ∧
    (∃ t, exec (.buEnd u) s = .next t ∧ OnlyUnit s t u.stack u.num ∧
      (t.stack u.stack).unit u.num = { x with st := .idle, pc := x.pc + 1, steps := bump x.steps 1 }) ∧
    (∃ v, UnitTo (.buBcast u half d a) s u.stack u.num (x.setReg d v) ∧
      ∀ j, (half = true → j < 16 → v.extractLsb' (16 * j) 16 = (x.reg a).extractLsb' 0 16) ∧
        (half = false → j < 8 → v.extractLsb' (32 * j) 32 = low a)) ∧
    UnitTo (.buPut u a) s u.stack u.num { x with mailbox := x.reg a } ∧
    (∃ v, UnitTo (.buRand u d) s u.stack u.num { x.setReg d v with ctr := x.ctr + 2 } ∧
      ∀ h, h < 2 → v.extractLsb' (128 * h) 128 = philoxBits (philox ((x.ctr + BitVec.ofNat 64 h).setWidth 32)
        (((x.ctr + BitVec.ofNat 64 h) >>> 32).setWidth 32) x.salt (BitVec.ofNat 32 (0x10000 + u.num)) x.key0 x.key1))

/-- A lane operation: lane j of `D` is `f32 j` in binary32, or `f16 j` in binary16. -/
def Sys2Proof.Machine.LanesTo (i : Instr) (s : State) (u : BankUnit) (d : Fin 64) (half : Bool) (f32 : Nat → Word) (f16 : Nat → Half) : Prop :=
  ∃ v, UnitTo i s u.stack u.num (((s.stack u.stack).unit u.num).setReg d v) ∧
    ∀ j, (half = true → j < 16 → v.extractLsb' (16 * j) 16 = f16 j) ∧ (half = false → j < 8 → v.extractLsb' (32 * j) 32 = f32 j)

/-- Bank units, lane arithmetic: each lane of `D` is the operation on that lane of the operands, in the format of `M`: by R69 in
binary32, and in binary16 the exact result rounded once, or the operand that a comparison selects (R269, R271, Table 9.7). -/
def Sys2Proof.Machine.BankUnitLanes : Prop :=
  ∀ (s : State) (u : BankUnit) (half : Bool) (d a b c : Fin 64),
    let x := (s.stack u.stack).unit u.num
    let w (r : Nat) (j : Nat) : Word := (x.reg r).extractLsb' (32 * j) 32
    let h (r : Nat) (j : Nat) : Half := (x.reg r).extractLsb' (16 * j) 16
    let e (r : Nat) (j : Nat) : Fp := fp16 (h r j)
    let up (r : Nat) (j : Nat) : Word := (toBin32 (e r j)).1
    let down (v : Word) : Half := (toBin16 (fp32 v)).1
    UnitReady s u.stack u.num →
    LanesTo (.buFadd u half d a b) s u d half (fun j => (add32 (w a j) (w b j)).1) (fun j => (toBin16 ((e a j).add (e b j))).1) ∧
    LanesTo (.buFsub u half d a b) s u d half (fun j => (sub32 (w a j) (w b j)).1) (fun j => (toBin16 ((e a j).add (e b j).neg)).1) ∧
    LanesTo (.buFmul u half d a b) s u d half (fun j => (mul32 (w a j) (w b j)).1) (fun j => (toBin16 ((e a j).mul (e b j))).1) ∧
    LanesTo (.buFfma u half d a b c) s u d half (fun j => (fma32 (w a j) (w b j) (w c j)).1)
      (fun j => (toBin16 (((e a j).mul (e b j)).add (e c j))).1) ∧
    LanesTo (.buFmin u half d a b) s u d half (fun j => (min32 (w a j) (w b j)).1) (fun j => down (min32 (up a j) (up b j)).1) ∧
    LanesTo (.buFmax u half d a b) s u d half (fun j => (max32 (w a j) (w b j)).1) (fun j => down (max32 (up a j) (up b j)).1) ∧
    LanesTo (.buFclt u half d a b) s u d half (fun j => (clt32 (w a j) (w b j)).1) (fun j => down (clt32 (up a j) (up b j)).1) ∧
    LanesTo (.buFsel u half d a b c) s u d half (fun j => (sel32 (w a j) (w b j) (w c j)).1)
      (fun j => down (sel32 (up a j) (up b j) (up c j)).1) ∧
    LanesTo (.buFrcp u d a) s u d false (fun j => (rcpfn (w a j)).1) (fun _ => 0) ∧
    LanesTo (.buFrsq u d a) s u d false (fun j => (rsqrtfn (w a j)).1) (fun _ => 0)

/-- Bank units, conversions: `CVT` packs the conversions of the eight lanes of `A`, by R63 to R65, from byte `C` × s of `D`, whose other bytes stay,
with a draw of R67 for each lane and one step of the counter only with `RND`; `EXT` unpacks the eight values at byte `C` × s of `A`; a
`C` beyond 32 / s − 1 stops the unit with `ERR` 3 and `D` unwritten (R271, R273, R281). -/
def Sys2Proof.Machine.BankUnitConversions : Prop :=
  ∀ (s : State) (u : BankUnit) (d a : Fin 64) (fmt : Fin 6) (sat rnd : Bool) (c : Fin 8),
    let x := (s.stack u.stack).unit u.num
    let sz := packBits fmt
    let o := philox (x.ctr.setWidth 32) ((x.ctr >>> 32).setWidth 32) x.salt (BitVec.ofNat 32 (0x10000 + u.num)) x.key0 x.key1
    let code (j : Nat) := (convert fmt sat (if rnd then some (philoxDraw o j) else none) ((x.reg a).extractLsb' (32 * j) 32)).1
    UnitReady s u.stack u.num →
    ((c.val + 1) * sz ≤ 32 →
      (∃ v, UnitTo (.buCvt u d a fmt sat rnd c) s u.stack u.num { x.setReg d v with ctr := if rnd then x.ctr + 1 else x.ctr } ∧
        (∀ j, j < 8 → v.toNat / 2 ^ (8 * (c.val * sz) + sz * j) % 2 ^ sz = code j) ∧
        (∀ k, k < 32 → k < c.val * sz ∨ c.val * sz + sz ≤ k → v.extractLsb' (8 * k) 8 = (x.reg d).extractLsb' (8 * k) 8)) ∧
      (∃ v, UnitTo (.buExt u d a fmt c) s u.stack u.num (x.setReg d v) ∧
        ∀ j, j < 8 → v.extractLsb' (32 * j) 32 = (extend32 fmt ((x.reg a).toNat / 2 ^ (8 * (c.val * sz) + sz * j) % 2 ^ sz)).1)) ∧
    (32 < (c.val + 1) * sz → ∀ i, i = Instr.buCvt u d a fmt sat rnd c ∨ i = Instr.buExt u d a fmt c →
      ∃ t, exec i s = .next t ∧ (t.stack u.stack).unit u.num = { x with st := .error, err := 3, errAddr := 0 } ∧ t.mem.bytes = s.mem.bytes)

/-- Bank units: scalars, control, lane arithmetic and conversions (R269 to R273, R281). -/
def Obligations.BankUnitRegisters : Prop :=
  BankUnitScalars ∧ BankUnitLanes ∧ BankUnitConversions

/-- Bank units, memory: an address in a bound handle names the word of the unit's bank that R270 gives; `LD` takes its 32 bytes and
`ST` leaves the register's bytes there, once the die is not too hot, with every other byte as before; an address in no bound
handle stops the unit with `ERR` 2 and the address, nothing written (R270, R272, R280, R281). -/
def Sys2Proof.Machine.BankUnitMemory : Prop :=
  ∀ (s : State) (u : BankUnit) (d a b : Fin 64),
    let x := (s.stack u.stack).unit u.num
    let w := x.lane0 a
    UnitReady s u.stack u.num →
    (∀ r, (s.stack u.stack).bound (fld w 19 11) = some r → NoErrors s →
      let da := regionDa u.stack r (fld w 10 5 * 2 ^ 20 + u.bk.val * 2 ^ 15 + u.ch.val * 2 ^ 10 + fld w 4 0 * 32)
      (∃ v s', RowUsed s s' u.stack da ∧ s'.mem = s.mem ∧ UnitDoes (.buLd u d a) s s' u.stack u.num (x.setReg d v) 1 ∧ ∀ j, j < 32 → v.extractLsb' (8 * j) 8 = s.byte (da + j)) ∧
      (dieHot s u.stack u.ch = false → ∃ s', RowUsed s s' u.stack da ∧ UnitDoes (.buSt u a b) s s' u.stack u.num x 1 ∧
        (∀ j, j < 32 → s'.byte (da + j) = (x.reg b).extractLsb' (8 * j) 8) ∧ BytesKept s s' [(da, 32)]) ∧
      (dieHot s u.stack u.ch = true → ∃ t, exec (.buSt u a b) s = .next t ∧ t.held = s.held ++ [.buSt u a b] ∧ t.mem = s.mem ∧
        (t.stack u.stack).unit u.num = { x with st := .hot, wait := satAdd x.wait 1 })) ∧
    ((s.stack u.stack).bound (fld w 19 11) = none → ∀ i, i = Instr.buLd u d a ∨ i = Instr.buSt u a b →
      ∃ t, exec i s = .next t ∧ (t.stack u.stack).unit u.num = { x with st := .error, err := 2, errAddr := w } ∧ t.mem.bytes = s.mem.bytes)

/-- Chains: `CSEND` puts its register behind those that the successor has not taken, or waits while two are there, and at the tail writes the
mailbox of bank 30 of its channel, or of channel 31 in span 1; `CRECV` takes the oldest register received, waits while there is none,
and at the head of a chain reads zero (R274). -/
def Sys2Proof.Machine.BankUnitChains : Prop :=
  ∀ (s : State) (u : BankUnit) (d a : Fin 64),
    let x := (s.stack u.stack).unit u.num
    let k := u.stack
    UnitReady s k u.num →
    (∀ v, (u.bk.val < 29 ∧ v = u.num + 1) ∨ (u.bk.val = 29 ∧ x.span = true ∧ u.ch.val < 31 ∧ v = 32 * (u.ch.val + 1)) →
      (((s.stack k).unit v).inbox.length < 2 → ∃ s', UnitDoes (.buCsend u a) s s' k u.num x 1 ∧ OnlyUnit s s' k v ∧
        (s'.stack k).unit v = { (s.stack k).unit v with inbox := ((s.stack k).unit v).inbox ++ [x.reg a] }) ∧
      (2 ≤ ((s.stack k).unit v).inbox.length → ∃ t, exec (.buCsend u a) s = .next t ∧ t.held = s.held ++ [.buCsend u a] ∧
        (t.stack k).unit u.num = { x with st := .chain, wait := satAdd x.wait 1 })) ∧
    (u.bk.val = 29 → (x.span = false ∨ u.ch.val = 31) → ∃ s', UnitDoes (.buCsend u a) s s' k u.num x 1 ∧
      OnlyUnit s s' k (32 * u.ch.val + 30) ∧
      (s'.stack k).unit (32 * u.ch.val + 30) = { (s.stack k).unit (32 * u.ch.val + 30) with mailbox := x.reg a }) ∧
    (u.bk.val = 0 → (x.span = false ∨ u.ch.val = 0) → UnitTo (.buCrecv u d) s k u.num (x.setReg d 0)) ∧
    (u.bk.val ≠ 0 ∨ (x.span = true ∧ u.ch.val ≠ 0) →
      (∀ v rest, x.inbox = v :: rest → UnitTo (.buCrecv u d) s k u.num { x.setReg d v with inbox := rest }) ∧
      (x.inbox = [] → ∃ t, exec (.buCrecv u d) s = .next t ∧ t.held = s.held ++ [.buCrecv u d] ∧
        (t.stack k).unit u.num = { x with st := .chain, wait := satAdd x.wait 1 }))

/-- Bank units: memory and chains (R270, R272, R274, R280, R281). -/
def Obligations.BankUnitAccesses : Prop :=
  BankUnitMemory ∧ BankUnitChains

/-- Row units, scalars, control and planes: each operation of Table 9.9 on scalar registers, planes and the carry plane, bit by bit of
the planes (R275, R276). -/
def Sys2Proof.Machine.RowUnitPlanes : Prop :=
  ∀ (s : State) (u : RowUnit) (p q r m : Fin 8) (d a b : Fin 16) (i22 : BitVec 22) (i10 : BitVec 10),
    let x := (s.stack u.stack).unit u.num
    let k := u.stack
    let n := x.scalar a - 1
    let c := x.plane 8
    UnitReady s k u.num →
    UnitTo (.ruNop u) s k u.num x ∧ UnitTo (.ruSldi u d i22) s k u.num (x.setScalar d (i22.setWidth 32)) ∧
    UnitTo (.ruSadd u d a b) s k u.num (x.setScalar d (x.scalar a + x.scalar b)) ∧
    UnitTo (.ruSaddi u d a i10) s k u.num (x.setScalar d (x.scalar a + i10.signExtend 32)) ∧
    (0 ≤ x.pc + i10.toInt → x.pc + i10.toInt ≤ 255 →
      UnitDoes (.ruLoop u a i10) s s k u.num (x.setScalar a n) (if n = 0 then 1 else i10.toInt) ∧
      UnitDoes (.ruBr u i10) s s k u.num x i10.toInt) ∧
    (∃ t, exec (.ruEnd u) s = .next t ∧ OnlyUnit s t k u.num ∧
      (t.stack k).unit u.num = { x with st := .idle, pc := x.pc + 1, steps := bump x.steps 1 }) ∧
    UnitTo (.ruAnd u p q r) s k u.num (x.setPlane p (x.plane q &&& x.plane r)) ∧
    UnitTo (.ruOr u p q r) s k u.num (x.setPlane p (x.plane q ||| x.plane r)) ∧
    UnitTo (.ruXor u p q r) s k u.num (x.setPlane p (x.plane q ^^^ x.plane r)) ∧
    UnitTo (.ruAndn u p q r) s k u.num (x.setPlane p (x.plane q &&& ~~~(x.plane r))) ∧
    (∃ v, UnitTo (.ruMux u p q r m) s k u.num (x.setPlane p v) ∧
      ∀ j, j < 8192 → v.getLsbD j = if (x.plane m).getLsbD j then (x.plane q).getLsbD j else (x.plane r).getLsbD j) ∧
    UnitTo (.ruNot u p q) s k u.num (x.setPlane p (~~~(x.plane q))) ∧
    (∃ v y, UnitTo (.ruFa u p q r) s k u.num ((x.setPlane p v).setPlane 8 y) ∧
      ∀ j, j < 8192 → b2n (v.getLsbD j) + 2 * b2n (y.getLsbD j) =
        b2n ((x.plane q).getLsbD j) + b2n ((x.plane r).getLsbD j) + b2n (c.getLsbD j)) ∧
    UnitTo (.ruCclr u) s k u.num (x.setPlane 8 0) ∧ UnitTo (.ruCset u) s k u.num (x.setPlane 8 (BitVec.allOnes 8192)) ∧
    UnitTo (.ruPopc u d p) s k u.num (x.setScalar d (BitVec.ofNat 32 ((List.range 8192).filter (x.plane p).getLsbD).length)) ∧
    UnitTo (.ruAnys u d p) s k u.num (x.setScalar d (if x.plane p = 0 then 0 else 1)) ∧
    (∃ v, UnitTo (.ruPut u) s k u.num { x with mailbox := v } ∧ ∀ j, j < 8 → v.extractLsb' (32 * j) 32 = x.scalar j)

/-- Row units, rows: `RLD` takes the row at its address into a plane and `RST` leaves a plane there; `CRC` advances the CRC-64 in a pair
of scalar registers over the row; `TRIN` writes bit k of element e of 8,192 words as bit e of row k, and `TROUT` the inverse; every other
byte of memory stays, and a row address in no bound handle stops the unit with `ERR` 2 (R275 to R278, R281). -/
def Sys2Proof.Machine.RowUnitRows : Prop :=
  ∀ (s : State) (u : RowUnit) (p : Fin 8) (a b : Fin 16),
    let x := (s.stack u.stack).unit u.num
    let k := u.stack
    let wa := x.scalar a
    let wb := x.scalar b
    UnitReady s k u.num → NoErrors s → dieHot s k u.ch = false →
    (∀ r, fld wa 31 20 = 0 → (s.stack k).bound (fld wa 19 11) = some r →
      let row (j : Nat) := regionDa k r ((fld wa 5 0 + j) * 2 ^ 20 + fld wa 10 6 * 2 ^ 15 + u.ch.val * 2 ^ 10)
      (∃ v s', RowUsed s s' k (row 0) ∧ s'.mem = s.mem ∧ UnitDoes (.ruRld u p a) s s' k u.num (x.setPlane p v) 1 ∧ ∀ j, j < 1024 → v.extractLsb' (8 * j) 8 = s.byte (row 0 + j)) ∧
      (∃ s', RowUsed s s' k (row 0) ∧ UnitDoes (.ruRst u a p) s s' k u.num x 1 ∧
        (∀ j, j < 1024 → s'.byte (row 0 + j) = (x.plane p).extractLsb' (8 * j) 8) ∧ BytesKept s s' [(row 0, 1024)]) ∧
      (let c := crc64From ((x.scalar (2 * p.val)).toNat + 2 ^ 32 * (x.scalar (2 * p.val + 1)).toNat) (s.bytesAt (row 0) 1024);
        ∃ s', RowUsed s s' k (row 0) ∧ s'.mem = s.mem ∧ UnitDoes (.ruCrc u p a) s s' k u.num
          ((x.setScalar (2 * p.val) (BitVec.ofNat 32 c)).setScalar (2 * p.val + 1) (BitVec.ofNat 32 (c / 2 ^ 32))) 1) ∧
      (∀ r', fld wb 31 20 = 0 → (s.stack k).bound (fld wb 19 11) = some r' → fld wa 5 0 % 32 = 0 → fld wb 5 0 % 32 = 0 → rowBlocksMeet wa wb = false →
        r ≠ r' ∨ fld wa 10 6 ≠ fld wb 10 6 ∨ fld wa 5 0 ≠ fld wb 5 0 →
        let row' (j : Nat) := regionDa k r' ((fld wb 5 0 + j) * 2 ^ 20 + fld wb 10 6 * 2 ^ 15 + u.ch.val * 2 ^ 10)
        -- element e of 8,192 words in ordinary order stands in row e / 256, at byte 4 (e mod 256)
        let ordinary (st : State) (rw : Nat → Nat) (e i : Nat) : Bool := (st.byte (rw (e / 256) + 4 * (e % 256) + i / 8)).getLsbD (i % 8)
        let transposed (st : State) (rw : Nat → Nat) (e i : Nat) : Bool := (st.byte (rw i + e / 8)).getLsbD (e % 8)
        (∃ s', RowUsed s s' k (row' 31) ∧ UnitDoes (.ruTrin u a b) s s' k u.num x 1 ∧
          (∀ e i, e < 8192 → i < 32 → transposed s' row' e i = ordinary s row e i) ∧
          BytesKept s s' ((List.range 32).map (fun j => (row' j, 1024)))) ∧
        (∃ s', RowUsed s s' k (row' 31) ∧ UnitDoes (.ruTrout u a b) s s' k u.num x 1 ∧
          (∀ e i, e < 8192 → i < 32 → ordinary s' row' e i = transposed s row e i) ∧
          BytesKept s s' ((List.range 32).map (fun j => (row' j, 1024)))))) ∧
    (fld wa 31 20 ≠ 0 ∨ (s.stack k).bound (fld wa 19 11) = none → ∀ i ∈ [Instr.ruRld u p a, .ruRst u a p, .ruCrc u p a, .ruTrin u a b, .ruTrout u a b],
      ∃ t, exec i s = .next t ∧ (t.stack k).unit u.num = { x with st := .error, err := 2, errAddr := wa } ∧ t.mem.bytes = s.mem.bytes)

/-- Row units: scalars, control, planes and rows (R275 to R278, R281). -/
def Obligations.RowUnits : Prop :=
  RowUnitPlanes ∧ RowUnitRows

/-! ## Training -/

/-- The next chunk for a stack arrives and is written where its region is `RESIDENT` and `NORMAL` and none waits before it: its bytes stand
in the region, its instance has one chunk less to write and the node's counts move; with the region `SPILLED` it is held and a page-in starts; with the
region `UNMAPPED` it is gone and the job faults with `X_LAND`; a chunk held is written once its region takes it (R316, R317, Table 11.2). Its bytes are
good, no compare window is bound, and memory holds no error. -/
def Sys2Proof.Machine.ChunksLand : Prop :=
  ∀ (s : State) (k : Fin 6) (c : LandChunk), c.stack = k.val → NoErrors s → s.trn = [] → c.bad = List.replicate c.data.length false →
    let da := regionDa k c.region c.ofs
    let written (t : State) : Prop := (∀ i, i < c.data.length → t.byte (da + i) = c.data.getD i 0) ∧ BytesKept s t [(da, c.data.length)] ∧
      (∀ x, s.fab.insts = [x] → x.group = c.group → x.num = c.num → t.fab.insts = [{ x with left := x.left - 1 }]) ∧ t.cores = s.cores ∧
      (t.training c.node).landChunk = bump (s.training c.node).landChunk 1 ∧ OnlyRows s t
    (s.fab.deliver = [c] → s.fab.landed = [] → s.hotStack k = false → (s.stack k).linkUp = true →
      ((s.region k c.region).st = .resident → (s.region k c.region).bank = .normal →
        ∃ t, exec (.landingChunk k) s = .next t ∧ written t ∧ t.fab.deliver = [] ∧ t.fab.landed = []) ∧
      ((s.region k c.region).st = .spilled → (s.stack k).freeFrame.isSome → ∃ t, exec (.landingChunk k) s = .next t ∧ t.mem = s.mem ∧ t.cores = s.cores ∧
        t.fab.landed = [{ c with since := s.us + 1 }] ∧ t.fab.deliver = [] ∧ (t.region k c.region).st = .pageIn) ∧
      (∀ j, (s.region k c.region).st = .unmapped → s.jobAt c.node = some j → s.jobOf j.lowest = some j → j.phase = .running →
        ∃ t, exec (.landingChunk k) s = .next t ∧ t.mem = s.mem ∧ t.fab.deliver = [] ∧ t.fab.landed = [] ∧
          (t.core j.lowest).seq.fault = contractFault 3 true 0x0D (s.core j.lowest).seq.next)) ∧
    (∀ r : Fin 16384, r.val = c.region → s.fab.landed = [c] → (s.region k r).st = .resident → (s.region k r).bank = .normal → s.hotStack k = false → (s.stack k).linkUp = true →
      ∃ t, exec (.heldChunkWrite k r) s = .next t ∧ written t ∧ t.fab.landed = [])

/-- After a job stopped on a digest mismatch, the rows of the block are compared across the replicas, and where some differ the report
names the block, the first differing row and the number of them, to the host with class 9 and as a health event; memory and cores stay (R327, R328, Table 11.7). -/
def Sys2Proof.Machine.MismatchLocalised : Prop :=
  ∀ (s : State) (node : Fin 64) (k : Fin 6) (r : Fin 16384) (b : Fin 64) (others : List Replica) (j : Job) (n : Nat),
    s.jobAt node = some j → j.isRunning = false → (s.training node).cmpFault.getLsbD 14 = true →
    let row (i : Nat) := BitVec.ofNat 64 (crc64From 0 (s.bytesAt (regionDa k r (b.val * 2 ^ 20 + 1024 * i)) 1024))
    let differ (i : Nat) : Prop := ∃ o ∈ others, o.rows.getD i 0 ≠ row i
    n < 1024 → differ n → (∀ i, i < n → ¬ differ i) → s.notes.log = [] →
    ∃ t x, exec (.digestLocalisation node k r b others) s = .next t ∧ t.mem = s.mem ∧ t.cores = s.cores ∧ t.jobs = s.jobs ∧
      t.notes.log.head? = some x ∧ x.cls = 9 ∧ x.payload.length = 64 ∧ leField x.payload 0 7 = j.imageId.toNat ∧ leField x.payload 16 16 = k.val ∧
      leField x.payload 18 19 = r.val ∧ leField x.payload 20 23 = b.val * 2 ^ 20 ∧ leField x.payload 24 24 = n % 32 ∧ leField x.payload 25 25 = n / 32

/-- Landing of chunks and localisation of a digest mismatch (R316, R317, R327, R328). -/
def Obligations.TrainingArrivals : Prop :=
  ChunksLand ∧ MismatchLocalised

/-! ## The Xobex transport -/

/-- Fabric, Cuffs and what `P` allows apart, nothing differs. -/
def Sys2Proof.Machine.OnlyFabric (s t : State) : Prop := t = { s with fab := t.fab, cuffs := t.cuffs }

/-- A descriptor read from an enabled queue of a live job joins the descriptors that wait, last; a reserved field, or whatever else R351 calls invalid, faults the
job with `X_DESC` on the queue's owner; a landing target that its operation or format may not name faults it with `X_LAND`; on a job that
has halted it is discarded and counted (R349, R351, R357, R364). -/
def Sys2Proof.Machine.DescriptorsJoin : Prop :=
  ∀ (s : State) (qn : BitVec 19) (d : XDesc) (op : Byte) (i : Instr) (j : Job),
    (i = .xwrite qn d ∧ op = 1) ∨ (i = .xread qn d ∧ op = 2) ∨ (i = .xpost qn d ∧ op = 3) ∨ (i = .xrs qn d ∧ op = 0x10) ∨
      (i = .xag qn d ∧ op = 0x11) ∨ (i = .xar qn d ∧ op = 0x12) ∨ (i = .xfin qn d ∧ op = 0x13) →
    let d' := { d with op := op }
    let q := s.xq qn.toNat
    q.st = 1 → s.jobAt q.node = some j → s.jobOf q.owner = some j → s.jobOf j.lowest = some j →
    (j.live = true → landBad d' = false → descBad s j d' = false → ∃ t, exec i s = .next t ∧ t = { s with fab := { s.fab with queues := t.fab.queues } } ∧
      t.xq qn.toNat = { q with todo := q.todo ++ [d'] } ∧ ∀ k, k ≠ qn.toNat → t.xq k = s.xq k) ∧
    (j.phase = .running → (landBad d' = false ∧ descBad s j d' = true) ∨ d.rsv ≠ 0 → ∃ t, exec i s = .next t ∧ t.fab.queues = s.fab.queues ∧ t.mem = s.mem ∧
      (t.core q.owner).seq.fault = contractFault 3 true 0x12 (s.core q.owner).seq.next ∧ (t.core q.owner).seq.stopped = true) ∧
    (j.phase = .running → landBad d' = true → d.rsv = 0 → d.flags.toNat < 2 → ∃ t, exec i s = .next t ∧ t.fab.queues = s.fab.queues ∧ t.mem = s.mem ∧
      (t.core j.lowest).seq.fault = contractFault 3 true 0x0D (s.core j.lowest).seq.next) ∧
    (j.live = false → exec i s = .next { s with fab := { s.fab with disc := satAdd s.fab.disc 1 } })

/-- The bell of an enabled queue whose producer word is one ahead: the 64 bytes of the next ring entry are read as its descriptor and it is consumed (R349,
R350); with the producer word not ahead, nothing is read. -/
def Sys2Proof.Machine.BellReadsDescriptors : Prop :=
  ∀ (s : State) (qn : BitVec 19) (j : Job), let q := s.xq qn.toNat
    q.st = 1 → NoErrors s → s.jobAt q.node = some j → j.live = true →
    let producer := BitVec.ofNat 32 (leNat (s.bytesAt (mkDa 1 q.owner q.bell) 4))
    let d := parseDesc (s.bytesAt (q.ring + 64 * (q.consumed.toNat % 2 ^ q.log2)) 64)
    (producer = q.consumed → exec (.xbell qn) s = .next s) ∧
    (producer = q.consumed + 1 → landBad d = false → descBad s j d = false →
      ∃ t, exec (.xbell qn) s = .next t ∧ t = { s with fab := { s.fab with queues := t.fab.queues } } ∧
        t.xq qn.toNat = { q with consumed := q.consumed + 1, todo := q.todo ++ [d] } ∧ ∀ k, k ≠ qn.toNat → t.xq k = s.xq k)

/-- Xobex descriptors and the bell that reads them (R349 to R351, R357, R364). -/
def Obligations.XobexDescriptors : Prop :=
  DescriptorsJoin ∧ BellReadsDescriptors

/-- The only queue with a descriptor starts its message: an `XREAD` with one request packet and an `XWRITE` of one packet are in their context, counted and numbered,
with their message open; the finite reduction of a job on one part gives its verdict at once; a message to a lost peer faults the job with `PEER_LOST` (R321, R322, R345, R346, R352, R362). -/
def Sys2Proof.Machine.MessagesStart : Prop :=
  ∀ (s : State) (qn : Nat) (q : XQueue) (d : XDesc) (rest : List XDesc) (j : Job), s.fab.queues = [(qn, q)] → q.todo = d :: rest → q.st = 1 →
    (d.flags.getLsbD 0 = true → q.busy = 0) → s.jobAt q.node = some j → s.jobOf q.owner = some j → j.phase = .running →
    let c := s.sendCtx d.peer.toNat 0
    ((d.op = 1 ∧ 0 < d.len.toNat ∧ d.len.toNat ≤ s.maxPay) ∨ d.op = 2 → (s.peer d.peer.toNat).st = 1 → s.paths d.peer.toNat = [] → c.queue = [] →
      ∃ t x, exec .xobexMessageStart s = .next t ∧ t = { s with fab := t.fab } ∧ t.fab.out = s.fab.out ∧
        (t.xq qn).todo = rest ∧ (t.xq qn).busy = q.busy + 1 ∧
        t.sendCtx d.peer.toNat 0 = { c with
          next := c.next + 1, msg := c.msg + 1, queue := [x], progress := (t.sendCtx d.peer.toNat 0).progress,
          msgs := c.msgs ++ [{
            id := c.msg.toNat, kind := if d.op = 1 then .write qn else .read qn d.lda.toNat, lcmpl := d.lcmpl
            node := some j.node, left := 1, bytes := if d.op = 1 then 0 else d.len.toNat }] } ∧
        x.pkt.typ = (if d.op = 1 then 1 else 2) ∧ x.pkt.psn = c.next ∧ x.pkt.msg = c.msg ∧ x.pkt.da = d.rda ∧ x.pkt.mlen = d.len ∧ x.pkt.cmpl = d.rcmpl ∧
        x.pkt.tag = BitVec.ofNat 32 j.tag ∧ x.src = (if d.op = 1 then some d.lda.toNat else none)) ∧
    (d.op = 1 ∨ d.op = 2 ∨ d.op = 3 → (s.peer d.peer.toNat).st = 2 → ∃ t, exec .xobexMessageStart s = .next t ∧ t.mem = s.mem ∧
      (t.xq qn).todo = rest ∧ (t.core q.owner).seq.fault = contractFault 3 true 0x0F (s.core q.owner).seq.next) ∧
    (d.op = 0x13 → NoErrors s → j.parts = [] → j.node = q.node → (s.training q.node).reducing = false →
      let tr := s.training q.node
      fld tr.resultCmpl 23 16 = 0 →
      ∃ t, exec .xobexMessageStart s = .next t ∧ t.cores = s.cores ∧ (t.xq qn).todo = rest ∧
        (t.training q.node).verdict = tr.fin ∧ (t.training q.node).step = bump tr.step 1 ∧ (t.training q.node).reducing = false ∧
        (t.training q.node).skips = (if tr.fin then tr.skips else bump tr.skips 1) ∧
        BytesKept s t [(tr.resultDa, 64)] ∧ leNat (t.bytesAt tr.resultDa 4) = (if tr.fin then 0x3F800000 else 0) ∧
        leNat (t.bytesAt (tr.resultDa + 16) 8) = (bump tr.step 1).toNat)

/-- A received message that is whole and whose writes are all accepted applies `RCMPL` to its gate and leaves its context, oldest first; a message sent applies
`LCMPL` when every packet is acknowledged and every byte is in, and its queue has one message less; a collective instance that is wholly written and fetched applies `LCMPL` (R352, R353, R361). -/
def Sys2Proof.Machine.MessagesComplete : Prop :=
  (∀ (s : State) (part : Fin 1024) (m : RxMsg) (rest : List RxMsg), (s.recvCtx part 0).msgs = m :: rest → (s.recvCtx part 0).waiting = [] →
    m.whole = true → m.pending = 0 → m.refused = false →
    (s.core (fld m.cmpl 9 0)).gate (fld m.cmpl 15 10) + fld m.cmpl 23 16 ≤ 16777215 →
    ∃ t, exec (.messageRemoteCompletion part) s = .next t ∧ t = { s with fab := t.fab, cores := t.cores } ∧
      t.recvCtx part 0 = { s.recvCtx part 0 with msgs := rest } ∧
      (t.core (fld m.cmpl 9 0)).gate (fld m.cmpl 15 10) = (s.core (fld m.cmpl 9 0)).gate (fld m.cmpl 15 10) + fld m.cmpl 23 16 ∧
      ∀ k, k ≠ fld m.cmpl 9 0 → t.core k = s.core k) ∧
  (∀ (s : State) (part : Fin 1024) (m : XMsg) (rest : List XMsg) (qn lda : Nat), (s.sendCtx part 0).msgs = m :: rest → m.left = 0 → m.bytes = 0 →
    (s.recvCtx part 0).waiting = [] → m.kind = .write qn ∨ m.kind = .read qn lda →
    (s.core (fld m.lcmpl 9 0)).gate (fld m.lcmpl 15 10) + fld m.lcmpl 23 16 ≤ 16777215 →
    ∃ t, exec (.messageLocalCompletion part) s = .next t ∧ t = { s with fab := t.fab, cores := t.cores } ∧
      t.sendCtx part 0 = { s.sendCtx part 0 with msgs := rest } ∧ t.xq qn = { s.xq qn with busy := (s.xq qn).busy - 1 } ∧
      (t.core (fld m.lcmpl 9 0)).gate (fld m.lcmpl 15 10) = (s.core (fld m.lcmpl 9 0)).gate (fld m.lcmpl 15 10) + fld m.lcmpl 23 16) ∧
  (∀ (s : State) (grp : Byte) (g : Group) (i : CollInst), s.group grp.toNat = some g → s.fab.insts = [i] → i.group = grp.toNat →
    i.todo = [] → i.asked = [] → i.left = 0 → i.got = [] → i.own = [] → i.outs = [] → (∀ k ∈ g.others, k ∈ i.fetched) → i.phase = (if i.d.op = 0x10 then .reduce else .gather) →
    (s.core (fld i.d.lcmpl 9 0)).gate (fld i.d.lcmpl 15 10) + fld i.d.lcmpl 23 16 ≤ 16777215 →
    ∃ t, exec (.collectiveComplete grp) s = .next t ∧ t.fab.insts = [] ∧ t.fab.instCount = satAdd s.fab.instCount 1 ∧
      t.xq i.qn = { s.xq i.qn with busy := (s.xq i.qn).busy - 1 } ∧ t.mem = s.mem ∧
      (t.core (fld i.d.lcmpl 9 0)).gate (fld i.d.lcmpl 15 10) = (s.core (fld i.d.lcmpl 9 0)).gate (fld i.d.lcmpl 15 10) + fld i.d.lcmpl 23 16)

/-- Xobex messages: start and completion (R321, R322, R345, R346, R352, R353, R361, R362). -/
def Obligations.XobexMessages : Prop :=
  MessagesStart ∧ MessagesComplete

/-- A datagram of type `typ` passes the checks of R342 in its context, with the next number and none held behind it, from an armed peer, and nothing waits to be sent. -/
def Sys2Proof.Machine.NextPacket (s : State) (d : XIn) (typ ctx : Nat) : Prop :=
  let part := d.pkt.src.toNat % 1024
  d.pkt.typ = BitVec.ofNat 8 typ ∧ xAccepts s d = true ∧ (s.peer part).st = 1 ∧ d.pkt.ctx.toNat % 2 = ctx ∧
    d.pkt.psn = (s.recvCtx part ctx).expect ∧ (s.recvCtx part ctx).held = [] ∧
    (s.sendCtx part 0).queue = [] ∧ (s.sendCtx part 1).queue = []

/-- The packet has been taken: its context expects the next number, and the packet that ends a message is acknowledged (R342, R343). -/
def Sys2Proof.Machine.Taken (t s : State) (d : XIn) (ctx : Nat) : Prop :=
  let part := d.pkt.src.toNat % 1024
  (t.recvCtx part ctx).expect = (s.recvCtx part ctx).expect + 1 ∧ t.fab.rx = bump s.fab.rx 1 ∧
    (s.paths part ≠ [] → ∃ x ∈ t.fab.out, x.pkt.typ = 5 ∧ x.pkt.psn = (s.recvCtx part ctx).expect + 1 ∧ x.pkt.dst = BitVec.ofNat 16 part)

/-- Datagrams that reach memory: a `WRITE` of one packet whose job is live and whose bytes it claims leaves its payload at its DA and its message whole; the answer to an
`XREAD` leaves its bytes at the local address, and the message wants so many bytes less; a `POST` to an enabled queue of a core, with room, leaves its 64 bytes in the ring, `TAIL` advances
and the queue's gate counts one; an `RREQ` sends its answer behind what its context holds; every other byte stays (R244, R342, R345, R352, R354, R355). -/
def Obligations.XobexData : Prop :=
  ∀ (s : State) (d : XIn) (j : Job), let part := d.pkt.src.toNat % 1024
    let p := d.pkt
    NoErrors s → s.trn = [] → s.jobTag p.tag.toNat = some j → j.live = true → p.map = 0 → p.te = [] → p.mofs = 0 →
    (∀ m ∈ (s.recvCtx part 0).msgs, m.id ≠ p.msg.toNat) →
    (NextPacket s d 1 0 → p.mlen.toNat = p.len.toNat → s.mayWrite p.da.toNat p.data.length = true → s.isWindow p.da.toNat = false → p.data.length = p.len.toNat → xStatus s p true = 0 → orgAccessRange s p.da.toNat p.data.length = .serve →
      s.orgLinked [(p.da.toNat, p.data.length)] = true →
      ∃ t, exec (.xobWrite d) s = .next t ∧ Taken t s d 0 ∧ t = { s with fab := t.fab, cuffs := t.cuffs, mem := t.mem, orgs := t.orgs } ∧ OnlyRows s t ∧
        (∀ i, i < p.data.length → t.byte (p.da.toNat + i) = p.data.getD i 0) ∧ BytesKept s t [(p.da.toNat, p.data.length)] ∧
        (t.recvCtx part 0).msgs = (s.recvCtx part 0).msgs ++ [({ id := p.msg.toNat, cmpl := p.cmpl, node := some j.node, pending := 0, whole := true, refused := false } : RxMsg)]) ∧
    (NextPacket s d 3 0 → p.mlen.toNat = p.len.toNat → p.data.length = p.len.toNat → ∀ m qn lda, (s.sendCtx part 0).msgs = [m] → m.id = p.msg.toNat → m.kind = .read qn lda → s.isWindow lda = false →
      orgAccessRange s lda p.data.length = .serve → s.orgLinked [(lda, p.data.length)] = true → s.mayWrite lda p.data.length = true →
      ∃ t, exec (.rrsp d) s = .next t ∧ Taken t s d 0 ∧ (∀ i, i < p.data.length → t.byte (lda + i) = p.data.getD i 0) ∧
        BytesKept s t [(lda, p.data.length)] ∧ (t.sendCtx part 0).msgs = [{ m with bytes := m.bytes - p.len.toNat }] ∧ t.cores = s.cores) ∧
    (NextPacket s d 2 0 → p.len = 0 → p.data = [] → s.isWindow p.da.toNat = false → 0 < p.mlen.toNat → p.mlen.toNat ≤ s.maxPay → xStatus s p true = 0 → s.paths part = [] →
      ∃ t x, exec (.rreq d) s = .next t ∧ Taken t s d 0 ∧ OnlyFabric s t ∧ (t.sendCtx part 0).queue = [x] ∧ x.pkt.typ = 3 ∧ x.src = some p.da.toNat ∧
        x.pkt.len.toNat = p.mlen.toNat ∧ x.pkt.msg = p.msg ∧ x.pkt.psn = (s.sendCtx part 0).next) ∧
    (∀ lc, let qn := p.da.toNat % 2 ^ 19
      NextPacket s d 4 0 → p.mlen.toNat = p.len.toNat → xStatus s p false = 0 → isSiteQueue qn = true → s.lcOf (qn / 512) = some lc → s.absorbs lc = false → s.sv = [] →
      (∀ x ∈ s.tr.posts, x.qn ≠ qn) → (s.sq qn).st = 1 → (s.sq qn).occ < (s.sq qn).quota → p.data.length = 64 →
      (s.core lc).gate (s.sq qn).gate + 1 ≤ 16777215 →
      let da := (s.sq qn).ring + 64 * ((s.sq qn).tail.toNat % 2 ^ (s.sq qn).log2)
      ∃ t, exec (.xobPost d) s = .next t ∧ Taken t s d 0 ∧ (∀ i, i < 64 → t.byte (da + i) = p.data.getD i 0) ∧ BytesKept s t [(da, 64)] ∧
        t.sq qn = { s.sq qn with tail := (s.sq qn).tail + 1 } ∧ (t.core lc).gate (s.sq qn).gate = (s.core lc).gate (s.sq qn).gate + 1)

/-- Control datagrams: an `ACK` takes from its context the packets before its number; a `NAK` faults the sending job with `X_REFUSED`; `READY` and `FETCHED` reach their instance, or
are kept for one that has not started here; a word of the finite reduction is kept at rank 0, and a verdict of 0 writes its result block and counts a skip; a `HALT` halts the running job of its tag; `MGMT` hands its
payload on (R344, R355, R358 to R364, Table 12.6). -/
def Sys2Proof.Machine.XobexControl : Prop :=
  ∀ (s : State) (d : XIn) (j : Job) (g : Group) (grp n : Nat), let part := d.pkt.src.toNat % 1024
    let p := d.pkt
    let kind (k : Nat) : Prop := leField p.data 0 0 = k ∧ p.data ≠ []
    (d.pkt.typ = 5 → xAccepts s d = true → (s.peer part).st = 1 → p.flags = 0 → p.map = 0 → (s.sendCtx part 0).queue = [] → (s.sendCtx part 1).queue = [] →
      p.ctx.toNat % 2 = 0 → (∀ x ∈ (s.sendCtx part 0).unacked, x.seen = false) →
      ∃ t, exec (.ack d) s = .next t ∧ OnlyFabric s t ∧
        (t.sendCtx part 0).unacked = (s.sendCtx part 0).unacked.filter (fun x => !psnBefore x.pkt.psn p.psn)) ∧
    (d.pkt.typ = 6 → xAccepts s d = true → (s.peer part).st = 1 → p.ctx.toNat % 2 = 0 → p.flags = 0 → p.map = 0 → (s.sendCtx part 0).unacked = [] →
      (s.sendCtx part 0).queue = [] → (s.sendCtx part 1).queue = [] →
      ∀ m qn, (s.sendCtx part 0).msgs = [m] → m.id = p.msg.toNat → m.kind = .write qn → m.node = some j.node → s.jobAt j.node = some j → j.phase = .running →
      s.jobOf (s.xq qn).owner = some j →
      ∃ t, exec (.nak d) s = .next t ∧ t.mem = s.mem ∧ (t.core (s.xq qn).owner).seq.fault = contractFault 3 true 0x10 (s.core (s.xq qn).owner).seq.next ∧
        t.fab.lastF = BitVec.ofNat 32 (part + p.status.toNat % 256 * 65536 + 0x10 * 2 ^ 24)) ∧
    (NextPacket s d 7 1 → s.group grp = some g → leField p.data 1 1 = grp → leField p.data 4 7 = n →
      (kind 1 → s.fab.insts = [] → ∃ t, exec (.collReady d) s = .next t ∧ Taken t s d 1 ∧ OnlyFabric s t ∧
        t.fab.early = s.fab.early ++ [{
          group := grp, num := n, rank := g.rankOf part
          ready := some (leField p.data 8 8, leField p.data 9 9, leField p.data 12 15) }]) ∧
      (kind 1 → ∀ i, s.fab.insts = [i] → i.group = grp → i.num = n → i.phase = .ready → g.rankOf part ∉ i.ready →
        (leField p.data 8 8, leField p.data 9 9, leField p.data 12 15) = (i.d.op.toNat, i.d.dtype.toNat, i.d.len.toNat) →
        (∃ k ∈ g.others, k ≠ g.rankOf part ∧ k ∉ i.ready) →
        ∃ t, exec (.collReady d) s = .next t ∧ Taken t s d 1 ∧ OnlyFabric s t ∧ t.fab.insts = [{ i with ready := i.ready ++ [g.rankOf part] }]) ∧
      (kind 2 → ∀ i, s.fab.insts = [i] → i.group = grp → i.num = n →
        ∃ t, exec (.fetched d) s = .next t ∧ Taken t s d 1 ∧ OnlyFabric s t ∧ t.fab.insts = [{ i with fetched := i.fetched ++ [g.rankOf part] }])) ∧
    (NextPacket s d 7 1 → s.jobTag p.tag.toNat = some j →
      (kind 3 → (s.training j.node).bound = false → leField p.data 4 7 = n → ∃ t, exec (.finword d) s = .next t ∧ Taken t s d 1 ∧
        Tbl.get 0 (t.training j.node).finWords (n * 1024 + part) = 1 + leField p.data 8 8 % 2 ∧ t.cores = s.cores ∧ t.mem = s.mem) ∧
      (kind 4 → (s.training j.node).bound = true → fld (s.training j.node).resultCmpl 23 16 = 0 → leField p.data 8 8 = 0 →
        let tr := s.training j.node
        ∃ t, exec (.verdict d) s = .next t ∧ Taken t s d 1 ∧ BytesKept s t [(tr.resultDa, 64)] ∧ leNat (t.bytesAt tr.resultDa 4) = 0 ∧
          leNat (t.bytesAt (tr.resultDa + 4) 4) = 0x3F800000 ∧ (t.training j.node).skips = bump tr.skips 1 ∧ (t.training j.node).step = bump tr.step 1)) ∧
    (NextPacket s d 8 1 → kind 1 → s.jobTag p.tag.toNat = some j → s.jobs = [j] → j.live = true → ∃ t, exec (.xobexHalt d) s = .next t ∧ Taken t s d 1 ∧
      t.jobs = [{ j with phase := .faulting, halted := true, remote := some (BitVec.ofNat 32 (leField p.data 4 7), leField p.data 8 9) }] ∧ t.cores = s.cores ∧ t.mem = s.mem) ∧
    (NextPacket s d 10 1 → ∃ t, exec (.mgmt d) s = .next t ∧ Taken t s d 1 ∧ OnlyFabric s t ∧ t.fab.mgmt = s.fab.mgmt ++ [(part, p.data)])

/-- The common start: rank 0 keeps each part's `READY`, and answers `GO` when its own load is ready and every part is; another part takes `GO`, or an `ABORT` with its status; after 10 s
without an answer the own load is refused with 0x3F (R363). -/
def Sys2Proof.Machine.CommonStart : Prop :=
  (∀ (s : State) (d : XIn) (y : Sync), let part := d.pkt.src.toNat % 1024
    let p := d.pkt
    let kind (k : Nat) : Prop := leField p.data 0 0 = k ∧ p.data ≠ []
    NextPacket s d 9 1 → y.tag = p.tag.toNat →
    (kind 1 → s.fab.syncs = [] → ∃ t, exec (.syncReady d) s = .next t ∧ Taken t s d 1 ∧ OnlyFabric s t ∧
      ∃ z, t.fab.syncs = [z] ∧ z.tag = p.tag.toNat ∧ z.ready = [part] ∧ z.own = false ∧ z.go = false ∧ z.abort = none) ∧
    (kind 1 → s.fab.syncs = [y] → y.own = true → y.go = false → y.aborted = false → y.abort = none → y.parts = [s.partIndex, part] → part ≠ s.partIndex → y.ready = [] →
      (s.peer part).st = 1 → s.paths part ≠ [] → (s.sendCtx part 1).unacked = [] → ∃ t, exec (.syncReady d) s = .next t ∧ Taken t s d 1 ∧ t.fab.syncs = [{ y with ready := [part], go := true }] ∧
        ∃ x ∈ t.fab.out, x.pkt.typ = 9 ∧ x.pkt.data.head? = some 2 ∧ x.pkt.tag = p.tag) ∧
    (kind 2 → s.fab.syncs = [y] → y.abort = none → ∃ t, exec (.syncGo d) s = .next t ∧ Taken t s d 1 ∧ OnlyFabric s t ∧ t.fab.syncs = [{ y with go := true }]) ∧
    (kind 3 → s.fab.syncs = [y] → y.abort = none → y.parts.headD 0xFFFF ≠ s.partIndex →
      ∃ t, exec (.syncAbort d) s = .next t ∧ Taken t s d 1 ∧ OnlyFabric s t ∧ t.fab.syncs = [{ y with abort := some (leField p.data 12 12) }])) ∧
  (∀ (s : State) (tag : Word) (y : Sync), s.fab.syncs = [y] → y.tag = tag.toNat → y.own = true → y.go = false → y.abort = none →
    y.parts.headD 0xFFFF ≠ s.partIndex → y.since + 10000000 ≤ s.us →
    ∃ t, exec (.syncTimeout tag) s = .next t ∧ OnlyFabric s t ∧ t.fab.syncs = [{ y with abort := some 0x3F }])

/-- Control datagrams and the common start (R344, R355, R358 to R364). -/
def Obligations.XobexControlPackets : Prop :=
  XobexControl ∧ CommonStart

/-- Datagrams out of order: one that fails the checks of R342 is counted in `XOB_ICRC` and changes nothing else but its Cuff's counts; one ahead within the window is kept and not committed; one that has
been committed already changes no memory and no core; one too far ahead is discarded and counted (R342, R343). -/
def Sys2Proof.Machine.XobexOrder : Prop :=
  ∀ (s : State) (d : XIn) (i : Instr), let part := d.pkt.src.toNat % 1024
    let c := s.recvCtx part 0
    let ahead := (d.pkt.psn - c.expect).toNat
    (i = .xobWrite d ∧ d.pkt.typ = 1) ∨ (i = .rreq d ∧ d.pkt.typ = 2) ∨ (i = .rrsp d ∧ d.pkt.typ = 3) ∨ (i = .xobPost d ∧ d.pkt.typ = 4) →
    (xAccepts s d = false → ∃ t, exec i s = .next t ∧ t = { s with cuffs := t.cuffs, fab := { s.fab with icrc := satAdd s.fab.icrc 1 } }) ∧
    (xAccepts s d = true → (s.peer part).st = 1 → d.pkt.ctx.toNat % 2 = 0 → (s.sendCtx part 0).queue = [] → (s.sendCtx part 1).queue = [] →
      (1 ≤ ahead → ahead < 256 → s.reorderBytes part + 64 + d.pkt.data.length ≤ 2 ^ 24 → (∀ x ∈ c.held, x.psn ≠ d.pkt.psn) →
        ∃ t, exec i s = .next t ∧ OnlyFabric s t ∧ (t.recvCtx part 0).held = c.held ++ [d.pkt] ∧ (t.recvCtx part 0).expect = c.expect) ∧
      (256 ≤ ahead → ahead < 2 ^ 31 → ∃ t, exec i s = .next t ∧ OnlyFabric s t ∧ t.fab.reord = satAdd s.fab.reord 1 ∧
        (t.recvCtx part 0).held = c.held ∧ (t.recvCtx part 0).expect = c.expect) ∧
      (2 ^ 31 ≤ ahead → ∃ t, exec i s = .next t ∧ OnlyFabric s t ∧ (t.recvCtx part 0).held = c.held ∧ (t.recvCtx part 0).expect = c.expect))

/-- Timers of a context: an arrival not acknowledged for 1 µs is acknowledged; after the retransmission timeout each packet that is not known received is sent again, and the timeout doubles up to 2 ms; a context without
progress for `LOST_MS` loses its peer and drops what it held; an interval without congestion raises the rate by its step up to the sum of its paths (R343, R344, R346, R347). -/
def Sys2Proof.Machine.XobexTimers : Prop :=
  ∀ (s : State) (part : Fin 1024) (ctx : Fin 2), let c := s.sendCtx part ctx
    let r := s.recvCtx part ctx
    (r.oldest ≠ 0 → r.oldest + 1599 ≤ s.ticks → ∃ t, exec (.ackTimer part ctx) s = .next t ∧ OnlyFabric s t ∧
      t.recvCtx part ctx = { r with since := 0, oldest := 0, ce := false, acks := r.acks + 1 }) ∧
    (∀ x, c.unacked = [x] → x.src = none → x.seen = false → ∃ t, exec (.retransmissionTimeout part ctx) s = .next t ∧ OnlyFabric s t ∧
      t.sendCtx part ctx = { c with rto := min 2000 (2 * c.rto), unacked := [{ x with attempts := x.attempts + 1, recent := true }] } ∧
      t.fab.rto = satAdd s.fab.rto 1 ∧ t.fab.retx = satAdd s.fab.retx 1) ∧
    (c.unacked ≠ [] → c.progress + 1000 * s.setting 0x10 1000 ≤ s.us → (s.sendCtx part 0).msgs = [] → (s.sendCtx part 1).msgs = [] →
      ∃ t, exec (.contextLost part ctx) s = .next t ∧ OnlyFabric s t ∧ (t.peer part).st = 2 ∧ t.fab.lost = satAdd s.fab.lost 1 ∧
        ∀ k : Fin 2, (t.sendCtx part k).unacked = [] ∧ (t.sendCtx part k).queue = []) ∧
    (∀ rate, (s.sendCtx part 0).rate = some rate → (s.sendCtx part 0).calm + s.setting 0x13 20 ≤ s.us →
      let up := rate + s.rmax part / (s.setting 0x14 32 : Nat)
      ∃ t, exec (.rateIncrease part) s = .next t ∧ OnlyFabric s t ∧
        t.sendCtx part 0 = { s.sendCtx part 0 with rate := if s.rmax part ≤ up then none else some up, calm := s.us })

/-- Order and timers of the transport (R342 to R344, R346, R347). -/
def Obligations.XobexTransport : Prop :=
  XobexOrder ∧ XobexTimers

/-! ## Cuffs and Ethernet -/

/-- Retraining: a port that is lost, more than 16 uncorrectable code words, or a written `RETRAIN` makes an enabled Cuff retrain when no other does; a retrain that ends well brings the ports of its mode that came up, the third in a row that fails
leaves the Cuff failed; a Cuff disabled is dark; a reference clock lost takes the ports of its edge down (R366, R368, R516). -/
def Sys2Proof.Machine.CuffsRetrain : Prop :=
  (∀ (s : State) (c : Fin 8) (l : Fin 8) (n : Half), (∀ k, (s.cuff k).training = false) → s.fab.line = [] → (s.cuff c).enable = true → (s.cuff c).failed = false →
    (s.cuff c).queued = false →
    let going (x : Cuff) : Cuff := { x with training := true, retrains := satAdd x.retrains 1, queued := false }
    (∃ t, exec (.cuffRetrain c) s = .next t ∧ OnlyFabric s t ∧ t.cuff c = going (s.cuff c) ∧ (∀ k : Nat, k ≠ c.val → t.cuff k = s.cuff k)) ∧
    (∀ p : Fin 64, p.val = 8 * c.val + l.val → (s.cuff c).portUp.getLsbD l = true → ∃ t, exec (.cuffLinkLoss p) s = .next t ∧ OnlyFabric s t ∧
      (t.cuff c).training = true ∧ ∀ b : Nat, b < 8 → (t.cuff c).portUp.getLsbD b = ((s.cuff c).portUp.getLsbD b && decide (b ≠ l.val))) ∧
    (∃ t, exec (.fecErrorBurst c n) s = .next t ∧ OnlyFabric s t ∧
      t.cuff c = (if 16 < n.toNat then going { s.cuff c with fecUe := satAdd (s.cuff c).fecUe n.toNat } else { s.cuff c with fecUe := satAdd (s.cuff c).fecUe n.toNat })) ∧
    (∃ t, exec (.cuffEnable c false) s = .next t ∧ OnlyFabric s t ∧
      t.cuff c = { s.cuff c with enable := false, portUp := 0, training := false, queued := false } ∧ (∀ k : Nat, k ≠ c.val → t.cuff k = s.cuff k))) ∧
  (∀ (s : State) (c : Fin 8) (ok : Bool) (up : BitVec 8), (s.cuff c).training = true → s.fab.line = [] → s.fab.send = [] →
    (ok = true → s.cuffClock c = true → up &&& modePorts (s.cuff c).mode ≠ 0 → ∃ t, exec (.cuffRetrainEnd c ok up) s = .next t ∧ OnlyFabric s t ∧
      t.cuff c = { s.cuff c with training := false, fails := 0, portUp := up &&& modePorts (s.cuff c).mode, modeNow := (s.cuff c).mode }) ∧
    (ok = false → 2 ≤ (s.cuff c).fails → ∃ t, exec (.cuffRetrainEnd c ok up) s = .next t ∧
      t.cuff c = { s.cuff c with training := false, fails := (s.cuff c).fails + 1, portUp := 0, failed := true } ∧ t.mem = s.mem ∧ t.cores = s.cores)) ∧
  (∀ (s : State) (north : Bool), (∀ k, (s.cuff k).enable = false) →
    (∃ t, exec (.cuffRefclkLost north) s = .next t ∧ t = { s with boot := t.boot, cuffs := t.cuffs } ∧
      (if north then t.boot = { s.boot with cuffNorth := false } else t.boot = { s.boot with cuffSouth := false }) ∧
      ∀ c, t.cuff c = if (c < 4 ↔ north = true) ∧ c < 8 then { s.cuff c with portUp := 0 } else s.cuff c) ∧
    exec (.cuffRefclkRestored north) s = .next { s with
      boot := { s.boot with cuffNorth := s.boot.cuffNorth || north, cuffSouth := s.boot.cuffSouth || !north } })

/-- Frames of a port that is up: a request for the port's own address is answered on it, and one for another address is dropped and counted (R334). -/
def Sys2Proof.Machine.FramesAnswered : Prop :=
  ∀ (s : State) (p : Fin 64) (mac : BitVec 48) (a4 b4 : BitVec 32) (a6 b6 : BitVec 128) (data : List Byte), let c := p.val / 8
    (s.cuff c).portUp.getLsbD (p.val % 8) = true →
    let answered (i : Instr) (r : NetReply) : Prop := ∃ t, exec i s = .next t ∧ t = { s with fab := { s.fab with replies := s.fab.replies ++ [r] }, cuffs := t.cuffs } ∧
      t.cuff c = { s.cuff c with rx := bump (s.cuff c).rx 1, tx := bump (s.cuff c).tx 1 }
    let dropped (i : Instr) : Prop := ∃ t, exec i s = .next t ∧ t = { s with cuffs := t.cuffs } ∧
      t.cuff c = { s.cuff c with rx := bump (s.cuff c).rx 1, rxDrop := satAdd (s.cuff c).rxDrop 1 }
    (if (s.port p).ip4 = some b4.toNat then answered (.arpRequest p mac a4 b4) (.arp p mac.toNat a4.toNat) else dropped (.arpRequest p mac a4 b4)) ∧
    (if (s.port p).ip6 = some b6.toNat then answered (.neighbourSolicitation p mac a6 b6) (.na p mac.toNat a6.toNat) else dropped (.neighbourSolicitation p mac a6 b6)) ∧
    (if (s.port p).ip6 = some b6.toNat ∨ (∃ x, (s.port p).ip4 = some x ∧ b6.toNat = 0xFFFF * 2 ^ 32 + x) then
      answered (.echoRequest p a6 b6 data) (.echo p a6.toNat data) else dropped (.echoRequest p a6 b6 data)) ∧
    (∀ k : Fin 8, k.val = c → dropped (.unacceptedFrame k))

/-- Flow control: a pause frame is counted and ignored; an XOFF or XON is obeyed, and an XOFF counted, with `PFC_EN`; a receive buffer above 768 KiB sends XOFF, and one that was full and is below
512 KiB sends XON (R333, R348). The pace entries of jobs on several parts are rewritten every 10 ms with the fraction of their cycles that waited (R365). -/
def Sys2Proof.Machine.FlowAndPace : Prop :=
  (∀ (s : State) (c : Fin 8) (off : Bool) (kib : BitVec 11), let x := s.cuff c
    (∃ t, exec (.pauseFrameReceive c) s = .next t ∧ t = { s with cuffs := t.cuffs } ∧ t.cuff c = { x with rx := bump x.rx 1, pauses := x.pauses + 1 }) ∧
    (∃ t, exec (.pfcFrame c off) s = .next t ∧ t = { s with cuffs := t.cuffs } ∧ t.cuff c = { x with
      rx := bump x.rx 1, paused := (if x.pfcEn then off else x.paused), pfcRx := if off then satAdd x.pfcRx 1 else x.pfcRx }) ∧
    (∃ t, exec (.xoffRepeat c kib) s = .next t ∧ OnlyFabric s t ∧ (∀ k : Nat, k ≠ c.val → t.cuff k = s.cuff k) ∧
      (x.pfcEn = true → 768 < kib.toNat → t.fab.replies = s.fab.replies ++ [.pfc c true] ∧ t.cuff c = { x with full := true, pfcTx := satAdd x.pfcTx 1, tx := bump x.tx 1 }) ∧
      (x.pfcEn = true → kib.toNat < 512 → x.full = true → t.fab.replies = s.fab.replies ++ [.pfc c false] ∧ t.cuff c = { x with full := false, tx := bump x.tx 1 }) ∧
      (x.pfcEn = false ∨ (kib.toNat ≤ 768 ∧ (x.full = false ∨ 512 ≤ kib.toNat)) → t = s))) ∧
  (∀ (s : State) (j : Job), s.jobs = [j] → j.phase = .running → j.parts ≠ [] →
    let p := Tbl.get XPace.init s.fab.pace j.node
    let cyc := (j.cores.map (fun lc => (s.core lc).seq.cyc.toNat)).sum
    let wait := (j.cores.map (fun lc => (s.core lc).seq.xwait.toNat)).sum
    ∃ t, exec .xpaceWindow s = .next t ∧ t.cores = s.cores ∧ t.mem = s.mem ∧ t.jobs = s.jobs ∧
      (Tbl.get XPace.init t.fab.pace j.node).windows = p.windows + 1 ∧ (Tbl.get XPace.init t.fab.pace j.node).base = (cyc, wait) ∧
      (Tbl.get XPace.init t.fab.pace j.node).xwait = if cyc = p.base.1 then 0 else paceFrac (wait - p.base.2) (cyc - p.base.1))

/-- Cuffs, Ethernet frames, flow control and the pace of jobs on several parts (R333, R334, R348, R365, R366, R368, R516). -/
def Obligations.CuffsAndEthernet : Prop :=
  CuffsRetrain ∧ FramesAnswered ∧ FlowAndPace

/-! ## Command packets of the host -/

/-- Host queue `q` takes entry `e`, whose parameter block is `ps`, and starts it at once: the queue is enabled, nothing is in progress before it, and its
completion can be written (R371, R374 to R378). -/
def Sys2Proof.Machine.HostTakes (s : State) (q : BitVec 16) (e : Entry) (ps : List Byte) : Prop :=
  let x := s.queue q.toNat
  (x.st = .on ∧ x.draining = false ∧ x.running = [] ∧ x.waiting = [] ∧ x.hasRoom = true ∧ s.hostFails (x.cqBase + 32 * x.cqSlot) 32 = false) ∧
  (s.hif.bme = true ∧ s.torzanRunning < 256 ∧ ∀ id, s.kioskBusy id = false) ∧
  s.params e = ps ∧ e.plen.toNat = ps.length ∧
  (if entInline e then ps.length ≤ 32 else leField (entTail e) 0 7 % 8 = 0 ∧ s.hostFails (leField (entTail e) 0 7) ps.length = false)

/-- It also passes the checks of the entry and of readiness (R381). -/
def Sys2Proof.Machine.HostReady (s : State) (q : BitVec 16) (e : Entry) (ps : List Byte) : Prop :=
  HostTakes s q e ps ∧ entReserved e = false ∧ s.boot.ready = true ∧ s.boot.fatal = false

/-- The entry names no data buffer. -/
def Sys2Proof.Machine.NoBuffer (e : Entry) : Prop := e.daddr = 0 ∧ e.dlen = 0

/-- Its data buffer has `n` bytes that the host answers. -/
def Sys2Proof.Machine.HasBuffer (s : State) (e : Entry) (n : Nat) : Prop := e.dlen.toNat = n ∧ s.hostFails e.daddr.toNat n = false

/-- The command has completed with these values: the host's memory holds the bytes `ws` written for it and then its completion entry in the next slot; it is
counted and no longer in progress; no other host queue and nothing else of the host's memory has changed (R374, R376, R381, Table 13.7). -/
def Sys2Proof.Machine.Replied (s t : State) (q : BitVec 16) (e : Entry) (status : Nat) (ign : Bool) (r0 r1 : Nat) (ws : List (Nat × List Byte)) : Prop :=
  let x := s.queue q.toNat
  let y := t.queue q.toNat
  let entry := leBytes 4 e.cid.toNat ++ leBytes 1 status ++ leBytes 1 (b2n ign) ++ leBytes 2 x.sqHead ++ leBytes 8 r0 ++ leBytes 8 r1 ++
    leBytes 7 0 ++ leBytes 1 (128 * b2n x.cqPhase)
  let last := x.cqSlot + 1 = 2 ^ x.cqLog
  t.hostMem = ((ws.foldl (fun u w => u.hostPut w.1 w.2) s).hostPut (x.cqBase + 32 * x.cqSlot) entry).hostMem ∧
  (∀ k, k ≠ q.toNat → t.queue k = s.queue k) ∧
  y = { x with cqSlot := if last then 0 else x.cqSlot + 1, cqPhase := if last then !x.cqPhase else x.cqPhase, gathered := y.gathered, coalAt := y.coalAt } ∧
  t.hif = { s.hif with
    queues := t.hif.queues, irqs := t.hif.irqs, acc := bump s.hif.acc 1, cpl := bump s.hif.cpl 1, nextId := s.hif.nextId + 1 } ∧
  (if x.irqEn = true ∧ max 1 x.coalCnt ≤ x.gathered + 1 then y.gathered = 0 ∧ Tbl.get 0 t.hif.irqs x.vector = Tbl.get 0 s.hif.irqs x.vector + 1
    else y.gathered = x.gathered + 1 ∧ t.hif.irqs = s.hif.irqs)

/-- It is in progress, started, and completes later: the last of the commands of its queue, which was empty (R376, R377). -/
def Sys2Proof.Machine.InProgress (s t : State) (q : BitVec 16) (e : Entry) (held : Bool) : Prop :=
  (∃ r, (t.queue q.toNat).running = [r] ∧ r.id = s.hif.nextId ∧ r.cid = e.cid ∧ r.e = e ∧ r.started = true ∧ r.held = held) ∧
  (t.queue q.toNat).waiting = [] ∧ (∀ k, k ≠ q.toNat → t.queue k = s.queue k) ∧ t.hostMem = s.hostMem ∧
  t.hif = { s.hif with queues := t.hif.queues, acc := bump s.hif.acc 1, nextId := s.hif.nextId + 1 }

/-- Every command packet: a queue that is not enabled, or drains, takes none; an entry with a reserved field set completes with `CMD_RESERVED` and does nothing else; a command that the part does not serve before it is
ready completes with `CMD_NOT_READY`; an expert command without an effective flag completes with `CMD_EXPERT` (R373, R379, R381, Table 13.8). -/
def Obligations.HostPackets : Prop :=
  (∀ (s : State) (i : Instr) (q : BitVec 16) (e : Entry), commandOf i = some (q, e) →
    ((s.queue q.toNat).accepted e = none → ((s.queue q.toNat).st ≠ .on ∨ (s.queue q.toNat).draining = true) → exec i s = .next s) ∧
    (∀ ps, HostTakes s q e ps → entReserved e = true →
      ∃ t, exec i s = .next t ∧ t = { s with hif := t.hif, hostMem := t.hostMem } ∧ Replied s t q e 0x02 false 0 0 [])) ∧
  (∀ (s : State) (q : BitVec 16) (e : Entry) (ps : List Byte), HostTakes s q e ps → entReserved e = false →
    (∀ i, i = Instr.settingGet q e ∨ i = .sysIndex q e ∨ i = .jobHalt q e ∨ i = .jobTeardown q e ∨ i = .jobReport q e ∨ i = .routeQuery q e →
      s.boot.ready = false ∨ s.boot.fatal = true →
      ∃ t, exec i s = .next t ∧ t = { s with hif := t.hif, hostMem := t.hostMem } ∧ Replied s t q e 0x05 false 0 0 []) ∧
    (s.expertQueue q.toNat = false → ps.length = 16 → (ps.drop 2).take 6 = List.replicate 6 0 →
      ∃ t, exec (.settingSet q e) s = .next t ∧ t = { s with hif := t.hif, hostMem := t.hostMem } ∧ Replied s t q e 0x04 false 0 0 []))

/-- Identity, settings and notifications: `IDENTIFY` writes the identity block; `SETTING_SET` with a value in its range sets it, and `SETTING_GET` answers it; an
unknown setting or a value out of range is refused with `CMD_PARAM`; `NOTE_READ` from the oldest record returns every record it has room for, in order, and
marks them read (R388, R389, Tables 13.10, 13.12, 13.13). -/
def Sys2Proof.Machine.HostIdentity : Prop :=
  ∀ (s : State) (q : BitVec 16) (e : Entry) (ps : List Byte), HostReady s q e ps →
    (ps = [] → HasBuffer s e 256 → ∃ t bs, exec (.identify q e) s = .next t ∧ t = { s with hif := t.hif, hostMem := t.hostMem } ∧
      Replied s t q e 0 false 0 0 [(e.daddr.toNat, bs)] ∧ bs.length = 256 ∧ leField bs 0 7 = fused s (fun m => m.serial.toNat) ∧
      leField bs 8 13 = fused s (fun m => m.mac.toNat) ∧ leField bs 16 17 = s.partIndex % 65536 ∧ leField bs 20 23 = s.fwVersion 1 % 2 ^ 32) ∧
    (ps.length = 16 → (ps.drop 2).take 6 = List.replicate 6 0 → NoBuffer e → s.expertQueue q.toNat = true →
      (∀ d lo hi, settingInfo s (leField ps 0 1) = some (d, lo, hi) → lo ≤ leField ps 8 15 → leField ps 8 15 ≤ hi →
        ∃ t, exec (.settingSet q e) s = .next t ∧ t = { s with hif := t.hif, hostMem := t.hostMem, settings := t.settings } ∧
          Replied s t q e 0 false 0 0 [] ∧ t.setting (leField ps 0 1) d = leField ps 8 15 ∧
          ∀ k, k ≠ leField ps 0 1 → ∀ x, t.setting k x = s.setting k x) ∧
      (settingInfo s (leField ps 0 1) = none ∨ (∃ d lo hi, settingInfo s (leField ps 0 1) = some (d, lo, hi) ∧ (leField ps 8 15 < lo ∨ hi < leField ps 8 15)) →
        ∃ t, exec (.settingSet q e) s = .next t ∧ t = { s with hif := t.hif, hostMem := t.hostMem } ∧ Replied s t q e 0x03 false 0 0 [])) ∧
    (ps.length = 2 → NoBuffer e → ∀ d lo hi, settingInfo s (leField ps 0 1) = some (d, lo, hi) →
      ∃ t, exec (.settingGet q e) s = .next t ∧ t = { s with hif := t.hif, hostMem := t.hostMem } ∧
        Replied s t q e 0 false (s.setting (leField ps 0 1) d) 0 []) ∧
    (ps.length = 4 → 1 ≤ leField ps 2 3 → leField ps 2 3 ≤ 256 → HasBuffer s e (128 * leField ps 2 3) → s.notes.log.length ≤ leField ps 2 3 →
      (∃ n, s.notes.log.head? = some n ∧ n.seq.toNat = leField ps 0 1 ∧ n.seq ≠ s.notes.next) →
      ∃ t, exec (.noteRead q e) s = .next t ∧ t = { s with hif := t.hif, hostMem := t.hostMem, notes := t.notes } ∧
        Replied s t q e 0 false s.notes.log.length 0 [(e.daddr.toNat, s.notes.log.flatMap Note.bytes)] ∧
        t.notes = { s.notes with log := s.notes.log.map (fun n => { n with read := true }) })

/-- The commands that reach memory, in a unit that is present and holds no error: `MEM_READ` writes the bytes that stand at the DA into the host's buffer and changes no byte; `MEM_WRITE` puts the
buffer's bytes there and `MEM_CLEAR` zeros, where no job and no serving area claims them; a space, unit or range that does not exist is refused with its
status and moves nothing (R191, R213, R383, Table 6.6). -/
def Obligations.HostMemory : Prop :=
  ∀ (s : State) (q : BitVec 16) (e : Entry) (ps : List Byte), let da := memDa ps
    let n := memLen ps
    HostReady s q e ps → Calm s → ps.length = 12 → da < 2 ^ 56 → 1 ≤ n → n ≤ 2 ^ 30 → s.namesBusyRow da = false →
    (NoErrors s → memStatus s false true da n = 0 → orgAccessRange s da n = .serve → s.isWindow da = false → s.trn = [] →
      let frame (t : State) : Prop := OnlyRows s t ∧
        t = { s with hif := t.hif, hostMem := t.hostMem, mem := t.mem, orgs := t.orgs, pwr := { s.pwr with sites := t.pwr.sites } }
      (HasBuffer s e n → ∃ t, exec (.memRead q e) s = .next t ∧ frame t ∧ t.mem = s.mem ∧
        Replied s t q e 0 false (2 ^ 64 - 1) 0 [(e.daddr.toNat, s.bytesAt da n)]) ∧
      (HasBuffer s e n → memStatus s true true da n = 0 → s.mayWrite da n = true → ∃ t, exec (.memWrite q e) s = .next t ∧ frame t ∧
        (∀ i, i < n → t.byte (da + i) = Tbl.get 0 s.hostMem (e.daddr.toNat + i)) ∧ BytesKept s t [(da, n)] ∧
        Replied s t q e 0 false (2 ^ 64 - 1) 0 []) ∧
      (NoBuffer e → memStatus s true false da n = 0 → s.mayWrite da n = true → ∃ t, exec (.memClear q e) s = .next t ∧ frame t ∧
        (∀ i, i < n → t.byte (da + i) = 0) ∧ BytesKept s t [(da, n)] ∧ Replied s t q e 0 false 0 0 [])) ∧
    (HasBuffer s e n → memStatus s false true da n ∈ [0x21, 0x22, 0x23, 0x24, 0x25, 0x26] → ∃ t, exec (.memRead q e) s = .next t ∧
      t = { s with hif := t.hif, hostMem := t.hostMem } ∧ Replied s t q e (memStatus s false true da n) false 0 0 []) ∧
    (NoBuffer e → memStatus s true false da n ∈ [0x21, 0x22, 0x23, 0x24, 0x25, 0x26] → ∃ t, exec (.memClear q e) s = .next t ∧
      t = { s with hif := t.hif, hostMem := t.hostMem } ∧ Replied s t q e (memStatus s true false da n) false 0 0 [])

/-- Control accesses, routes and posts: a `CTRL_WRITE` of `GLB_SCRATCH` writes the word unless `LOCK_ALL` holds, and a `CTRL_READ` answers it; an address that is not a word of the register space is
refused; `ROUTE_QUERY` answers lane and hops; `QUEUE_POST` writes its 64 bytes into the queue's ring and counts one at its gate (R174, R232, R244, R383, R524). -/
def Sys2Proof.Machine.HostControl : Prop :=
  ∀ (s : State) (q : BitVec 16) (e : Entry) (ps : List Byte), HostReady s q e ps →
    (NoBuffer e → Calm s → s.namesBusyRow (memDa ps) = false →
      (memDa ps = mkDa 8 0xFFF 0x2C →
        (ps.length = 8 → ∃ t, exec (.ctrlRead q e) s = .next t ∧ t = { s with hif := t.hif, hostMem := t.hostMem, draws := t.draws } ∧
          Replied s t q e 0 false s.mgmt.scratch.toNat 0 []) ∧
        (ps.length = 12 → ∃ t, exec (.ctrlWrite q e) s = .next t ∧
          t = { s with hif := t.hif, hostMem := t.hostMem, mgmt := { s.mgmt with scratch := BitVec.ofNat 32 (leField ps 8 11) } } ∧
          Replied s t q e 0 false 0 0 [])) ∧
      (∀ i, (ps.length = 8 ∧ i = Instr.ctrlRead q e) ∨ (ps.length = 12 ∧ i = .ctrlWrite q e) → memDa ps < 2 ^ 56 → ctrlStatus s (memDa ps) ≠ 0 →
        ∃ t, exec i s = .next t ∧ t = { s with hif := t.hif, hostMem := t.hostMem } ∧ Replied s t q e (ctrlStatus s (memDa ps)) false 0 0 [])) ∧
    (ps.length = 4 → NoBuffer e → isEndpoint (leField ps 0 1) = true → isEndpoint (leField ps 2 3) = true →
      ∃ t, exec (.routeQuery q e) s = .next t ∧ t = { s with hif := t.hif, hostMem := t.hostMem } ∧
        (s.inGraph (leField ps 0 1) = true → s.inGraph (leField ps 2 3) = true →
          Replied s t q e 0 false ((s.route (leField ps 0 1) (leField ps 2 3)).1 + 256 * ((s.route (leField ps 0 1) (leField ps 2 3)).2 % 256)) 0 []) ∧
        (s.inGraph (leField ps 0 1) = false ∨ s.inGraph (leField ps 2 3) = false → Replied s t q e 0x21 false 0 0 [])) ∧
    (∀ lc, ps.length = 4 → HasBuffer s e 64 → Calm s → let qn := leField ps 0 3
      let x := s.sq qn
      storeWait s x.ring = none → storeWait s x.headDa = none →
      isSiteQueue qn = true → s.niPosts (qn / 512) < 8 → s.sv = [] → (∀ p ∈ s.tr.posts, p.qn ≠ qn) → s.lcOf (qn / 512) = some lc → s.absorbs lc = false → NoErrors s →
      (x.st = 1 → x.occ < x.quota → (s.core lc).gate x.gate + 1 ≤ 16777215 → ∃ t, exec (.queuePost q e) s = .next t ∧
        Replied s t q e 0 false 0 0 [] ∧ (∀ i, i < 64 → t.byte (x.ring + 64 * (x.tail.toNat % 2 ^ x.log2) + i) = Tbl.get 0 s.hostMem (e.daddr.toNat + i)) ∧
        BytesKept s t [(x.ring + 64 * (x.tail.toNat % 2 ^ x.log2), 64)] ∧ t.sq qn = { x with tail := x.tail + 1 } ∧
        (t.core lc).gate x.gate = (s.core lc).gate x.gate + 1 ∧ (∀ k, k ≠ lc → t.core k = s.core k) ∧ t.tr.posts = s.tr.posts) ∧
      (x.st ≠ 1 → ∃ t, exec (.queuePost q e) s = .next t ∧ Replied s t q e 0x2B false 0 0 [] ∧ t.mem = s.mem ∧ t.cores = s.cores ∧ t.tr.queues = s.tr.queues))

/-- Identity, settings, notifications, control accesses, routes and posts of the host (R174, R232, R244, R383, R388, R389, R524). -/
def Obligations.HostIdentityAndControl : Prop :=
  HostIdentity ∧ HostControl

/-- The jobs: a `JOB_LOAD` of one part whose image is valid gives the node its job and stays in progress until the cores are powered and placed; one that R384 or the
validation refuses changes nothing; `JOB_HALT` of a running job begins its fault sequence; `JOB_TEARDOWN` of one that has ended frees its node; `JOB_REPORT` writes the
captured report; each of the three on a node without such a job is refused with `CMD_JOB` (R137, R138, R154, R384). -/
def Sys2Proof.Machine.HostJobs : Prop :=
  ∀ (s : State) (q : BitVec 16) (e : Entry) (ps : List Byte), HostReady s q e ps → let node := leField ps 0 0
    (ps.length = 16 → leField ps 1 1 = 0 → node < 64 → leField ps 2 3 = 1 → 256 ≤ e.dlen.toNat → s.hostFails e.daddr.toNat e.dlen.toNat = false →
      leNat (s.hostBytes (e.daddr.toNat + 16) 8) = e.dlen.toNat → (∀ j ∈ s.jobs, j.cmd = none) → s.fab.syncs = [] → nodeRowsBusy s node = false →
      let d := s.hostBytes e.daddr.toNat e.dlen.toNat
      let st := validateImage s node 1 d
      (loadRefusal s node 1 (leField ps 4 7) (leField ps 8 15) = 0 → st = 0 → ∃ t j, exec (.jobLoad q e) s = .next t ∧ InProgress s t q e true ∧
        t.held = s.held ++ [.jobLoad q e] ∧ t.jobs = s.jobs ++ [j] ∧ j.node = node ∧ j.imageId.toNat = leField d 8 15 ∧ j.phase = .loading ∧ j.placed = false ∧
        j.tag = leField ps 4 7 ∧ j.parts = [] ∧ t.mem = s.mem ∧ t.cores = s.cores) ∧
      (loadRefusal s node 1 (leField ps 4 7) (leField ps 8 15) ≠ 0 → ∃ t, exec (.jobLoad q e) s = .next t ∧ t = { s with hif := t.hif, hostMem := t.hostMem } ∧
        Replied s t q e (loadRefusal s node 1 (leField ps 4 7) (leField ps 8 15)) false 0 0 []) ∧
      (loadRefusal s node 1 (leField ps 4 7) (leField ps 8 15) = 0 → st ≠ 0 → ∃ t, exec (.jobLoad q e) s = .next t ∧
        t = { s with hif := t.hif, hostMem := t.hostMem } ∧ Replied s t q e st false 0 0 [])) ∧
    (ps.length = 1 → node < 64 →
      (∀ j, NoBuffer e → s.jobs = [j] → j.node = node → j.phase = .running → ∃ t, exec (.jobHalt q e) s = .next t ∧ InProgress s t q e false ∧
        t.jobs = [{ j with phase := .faulting, halted := true, remote := none, halters := j.halters ++ [{ q := q.toNat, id := s.hif.nextId }] }] ∧
        t.mem = s.mem ∧ t.cores = s.cores) ∧
      (∀ j, NoBuffer e → s.jobs = [j] → j.node = node → j.phase = .ended ∨ j.phase = .faulted → s.heldRegions node = [] → s.fab.queues = [] → s.sv = [] →
        ∃ t, exec (.jobTeardown q e) s = .next t ∧ Replied s t q e 0 false 0 0 [] ∧ t.jobs = [] ∧ t.mem = s.mem ∧ t.cores = s.cores ∧ t.orgs = s.orgs ∧
          (t.training node).bound = false) ∧
      (∀ j, s.jobs = [j] → j.node = node → j.report ≠ [] → j.report.length ≤ e.dlen.toNat → s.hostFails e.daddr.toNat j.report.length = false →
        ∃ t, exec (.jobReport q e) s = .next t ∧ t = { s with hif := t.hif, hostMem := t.hostMem } ∧
          Replied s t q e 0 false j.report.length 0 [(e.daddr.toNat, j.report)]) ∧
      (s.jobs = [] → ∀ i, (i = Instr.jobHalt q e ∧ NoBuffer e) ∨ (i = .jobTeardown q e ∧ NoBuffer e) ∨ i = .jobReport q e →
        ∃ t, exec i s = .next t ∧ t = { s with hif := t.hif, hostMem := t.hostMem } ∧ Replied s t q e 0x0A false 0 0 []))

/-- The load goes on as its command is taken again: with every core powered, the cores clear, the images' segments and placements stand in memory, and nothing outside them and the feeder stores
has changed; then, the time of an intent frame over, every core is at its entry, the job runs and its command completes with the image's identity (R138, R384, R412). -/
def Sys2Proof.Machine.LoadCompletes : Prop :=
  ∀ (s : State) (q : BitVec 16) (e : Entry) (ps : List Byte) (j : Job) (r : Running), let x := s.queue q.toNat
    x.running = [r] → r.e = e → r.held = true → r.cid = e.cid → x.waiting = [] → x.hasRoom = true → s.hostFails (x.cqBase + 32 * x.cqSlot) 32 = false → s.hif.bme = true →
    (∀ id, s.kioskBusy id = true → r.id < id) → s.params e = ps → ps.length = 16 → e.plen.toNat = 16 → entReserved e = false → entInline e = true → s.boot.ready = true →
    s.boot.fatal = false → leField ps 0 0 < 64 → leField ps 1 1 = 0 → leField ps 2 3 = 1 → s.jobs = [j] → j.cmd = some { q := q.toNat, id := r.id } → j.phase = .loading →
    (j.placed = false → loadPowered s j = true → loadAccess s j = .serve → s.mem.flaws = [] → s.mem.byteFlaws = [] →
      ∃ t k, exec (.jobLoad q e) s = .next t ∧ t.jobs = [{ j with placed := true, image := [], startAt := k }] ∧ k ≤ s.us + 2 ∧ t.held.getLast? = some (.jobLoad q e) ∧
        BytesKept s t ((imgRecords j.image 1).map (fun b => (mkDa 0 (leField b 0 1) 0, spaceSize 0)) ++ (imgWrites j.image).map (fun w => (w.1, w.2.length))) ∧
        (∀ w ∈ imgWrites j.image, (imgWrites j.image).Pairwise (fun a b => a.1 + a.2.length ≤ b.1 ∨ b.1 + b.2.length ≤ a.1) → 1 ≤ daSpace w.1 →
          ∀ i, i < w.2.length → t.byte (w.1 + i) = w.2.getD i 0) ∧
        (∀ lc, lc ∉ (imgRecords j.image 1).map (fun b => leField b 0 1) → lc ∉ j.entries.map (·.1) → t.core lc = s.core lc)) ∧
    (j.placed = true → mayStartJob s j = true → (j.entries.map (·.1)).Nodup →
      ∃ t, exec (.jobLoad q e) s = .next t ∧ t.jobs = [{ j with phase := .running, startUs := s.us, cmd := none }] ∧ t.mem = s.mem ∧
        (∀ k ∈ j.entries, t.core k.1 = { s.core k.1 with seq := { (s.core k.1).seq with next := k.2.2, running := true } }) ∧
        (∀ lc, lc ∉ j.entries.map (·.1) → t.core lc = s.core lc) ∧ (t.queue q.toNat).running = [] ∧
        ∃ bs, t.hostMem = (s.hostPut (x.cqBase + 32 * x.cqSlot) bs).hostMem ∧ bs.length = 32 ∧ leField bs 0 3 = e.cid.toNat ∧ leField bs 4 4 = 0 ∧
          leField bs 8 15 = j.imageId.toNat)

/-- The job commands and the course of a load (R137, R138, R154, R384, R412). -/
def Obligations.HostJobCommands : Prop :=
  HostJobs ∧ LoadCompletes

/-! ## Resets, configuration, Orangery, serving and training -/

/-- Resets: `RESET` of the part completes and begins 10 µs later; a partial `RESET` that nothing refuses or delays marks its nodes `BUSY` and stays in progress, one that Table 16.6 refuses changes
nothing; with nothing of its cores outstanding, the cores take their reset values, their feeder stores read zero, `BUSY` clears and it completes (R390, R477 to R481, Tables 16.6 to 16.8). -/
def Obligations.Resets : Prop :=
  (∀ (s : State) (q : BitVec 16) (e : Entry) (ps : List Byte), HostReady s q e ps → ps.length = 4 → NoBuffer e → leField ps 1 1 = 0 →
    let scope := leField ps 0 0
    let target := leField ps 2 3
    (scope = 3 → ∃ t, exec (.resetCmd q e) s = .next t ∧
      t = { s with hif := t.hif, hostMem := t.hostMem, boot := { s.boot with scope3 := some s.us } } ∧ Replied s t q e 0 false 0 0 []) ∧
    (scope < 3 → target < [800, 40, 64].getD scope 0 → s.rst = none → resetWaits s scope target = false →
      (resetRefusal s scope target = 0 → s.jobs = [] → ∃ t, exec (.resetCmd q e) s = .next t ∧ InProgress s t q e true ∧ t.held = s.held ++ [.resetCmd q e] ∧
        t.busy = s.scopeNodes scope target ∧ t.cores = s.cores ∧ t.mem = s.mem ∧
        ∃ r, t.rst = some r ∧ r.stage = .halting ∧ r.scope = scope ∧ r.target = target ∧ r.cores = s.scopeCores scope target ∧ r.halted = false) ∧
      (resetRefusal s scope target ≠ 0 → ∃ t, exec (.resetCmd q e) s = .next t ∧ t = { s with hif := t.hif, hostMem := t.hostMem } ∧
        Replied s t q e (resetRefusal s scope target) false 0 0 []))) ∧
  (∀ (s : State) (n : Half) (r : ResetRun) (x : Running), s.rst = some r → r.stage = .draining → s.draining r.cores = false →
    (s.queue r.q).running = [x] → x.id = r.id → s.mem.merges = [] → ∃ t, exec (.resetDrainEnd n) s = .next t ∧ t.rst = none ∧ t.busy = [] ∧ (t.queue r.q).running = [] ∧
      (∀ lc, t.core lc = if lc ∈ r.cores ∧ s.corePowered lc = true then Core.init else s.core lc) ∧
      (∀ lc, lc ∈ r.cores → s.corePowered lc = true → ∀ o, o < spaceSize 0 → t.byte (mkDa 0 lc o) = 0) ∧
      BytesKept s t (r.cores.map (fun lc => (mkDa 0 lc 0, spaceSize 0))) ∧ t.orgs = s.orgs ∧ t.jobs = s.jobs) ∧
  (∀ s : State, (∀ u, s.boot.scope3 = some u → u + 10 ≤ s.us → ∃ t, exec .resetScope3Begin s = .next t ∧ t.cores = [] ∧ t.jobs = [] ∧ t.boot.ready = false ∧
      t.boot.phase = 2 ∧ t.flash = s.flash ∧ t.pending = s.pending) ∧
    (s.boot.scope3 = none → exec .resetScope3Begin s = .next s))

/-- Partitions, caps, repair and queues: `PTN_CONFIG` replaces the tree where it is well-formed and changes nothing of a loaded job, and is refused otherwise; `PWR_CAP` sets the cap of the part or of a node, which reads `BUSY` until the next sample of its loop;
`REPAIR_MAP` keeps an accepted map; `QUEUE_CONFIG` writes the context that its QN selects (R31, R32, R218, R385, R415, R419, R467). -/
def Obligations.HostConfiguration : Prop :=
  ∀ (s : State) (q : BitVec 16) (e : Entry) (ps : List Byte), HostReady s q e ps →
    (ps = [] → HasBuffer s e 512 → let d := s.hostBytes e.daddr.toNat 512
      (∀ n, n < 64 → bits (leField d (8 * n) (8 * n + 7)) 62 46 = 0) →
      (treeOk (ptnTree d) = true → ptnConflict s (ptnTree d) = false → ∃ t, exec (.ptnConfig q e) s = .next t ∧
        t = { s with hif := t.hif, hostMem := t.hostMem, ptn := t.ptn, pwr := { s.pwr with nodes := t.pwr.nodes } } ∧ Replied s t q e 0 false 0 0 [] ∧
        ∀ n, 0 < n → n < 64 → let w := leField d (8 * n) (8 * n + 7)
          (treeNode t.ptn n).valid = bit w 63 ∧ (bit w 63 = true → (treeNode t.ptn n).mask = BitVec.ofNat 40 w ∧ (treeNode t.ptn n).parent = bits w 45 40) ∧
          (bit w 63 = false → t.loopOf n = PowerLoop.init)) ∧
      (treeOk (ptnTree d) = false ∨ ptnConflict s (ptnTree d) = true → ∃ t, exec (.ptnConfig q e) s = .next t ∧
        t = { s with hif := t.hif, hostMem := t.hostMem } ∧ Replied s t q e 0x0B false 0 0 [])) ∧
    (ps.length = 4 → NoBuffer e → leField ps 1 1 = 0 → let n := leField ps 0 0
      let cap := leField ps 2 3
      (s.nodeValid n = true → (if n = 0 then 2000 ≤ cap ∧ cap ≤ 5500 else n < 64 ∧ 50 ≤ cap ∧ cap ≤ 5500) → ∃ t, exec (.pwrCap q e) s = .next t ∧
        t = { s with hif := t.hif, hostMem := t.hostMem, pwr := t.pwr, busy := s.busy ++ [n], draws := t.draws } ∧ InProgress s t q e false ∧
        t.pwr.capRuns = s.pwr.capRuns ++ [(n, { q := q.toNat, id := s.hif.nextId })] ∧ (t.loopOf n).cap = cap ∧
        (t.loopOf n).samples = [] ∧ (t.loopOf n).hard = decide (cap < (s.loopOf n).last) ∧ (∀ k, k ≠ n → t.loopOf k = s.loopOf k)) ∧
      (0 < n → n < 64 → s.nodeValid n = false → 50 ≤ cap → cap ≤ 5500 → ∃ t, exec (.pwrCap q e) s = .next t ∧
        t = { s with hif := t.hif, hostMem := t.hostMem } ∧ Replied s t q e 0x09 false 0 0 [])) ∧
    (∀ n, ps = [] → n ≤ 4096 → HasBuffer s e (32 + 16 * n) → let d := s.hostBytes e.daddr.toNat (32 + 16 * n)
      leField d 4 5 = n → leField d 6 7 = 0 → ((d.drop 20).take 12).all (· = 0) = true → leField d 0 3 = 0x50524D53 →
      leField d 8 15 = fused s (fun m => m.serial.toNat) → leField d 16 19 = crc32c (d.drop 32) →
      (∀ k, k < n → repairReserved (repairBytes d k) = false ∧ repairRange (repairBytes d k) = true) →
      ∃ t, exec (.repairMap q e) s = .next t ∧ Replied s t q e 0 false 0 0 [] ∧ t = { s with hif := t.hif, hostMem := t.hostMem, flash := t.flash } ∧
        t.flash = { s.flash with soft := some ((List.range n).map (fun k => parseRepair (repairBytes d k))) }) ∧
    (ps.length = 40 → NoBuffer e → cfgReserved ps = false → let qn := leField ps 0 3
      let x := ps.drop 8
      let refused : Prop := ∃ t, exec (.queueConfig q e) s = .next t ∧ t = { s with hif := t.hif, hostMem := t.hostMem } ∧ Replied s t q e 0x40 false 0 0 []
      let h := qn - 0x6E000
      (isHostQn qn = true → leField ps 4 4 = 0 → leField x 24 27 = 0 → 0 < h → h ≠ q.toNat → s.queueClaimed qn = false → leField x 21 21 = 1 →
        leField x 0 7 % 4096 = 0 → leField x 8 15 % 4096 = 0 → 4 ≤ leField x 16 16 → leField x 16 16 ≤ 12 → leField x 16 16 ≤ leField x 17 17 → leField x 17 17 ≤ 14 →
        leField x 18 19 ≤ 2047 → (s.queue h).st = .off → ∃ t, exec (.queueConfig q e) s = .next t ∧ (t.queue q.toNat).running = [] ∧
          t.queue h = { (s.queue h).fresh with
            sqBase := leField x 0 7, cqBase := leField x 8 15, sqLog := leField x 16 16, cqLog := leField x 17 17, vector := leField x 18 19, st := .on
            expert := bit (leField x 20 20) 0 && s.expertQueue q.toNat, irqEn := bit (leField x 20 20) 1, coalCnt := 0, coalUs := 0 } ∧
          (∀ k, k ≠ h → k ≠ q.toNat → t.queue k = s.queue k) ∧ t.mem = s.mem ∧ t.cores = s.cores) ∧
      (isSiteQueue qn = true → leField ps 4 4 = 0 → leField x 28 28 = 1 → sqOk s qn x = true → s.queueClaimed qn = false → s.sv = [] → (∀ p ∈ s.tr.posts, p.qn ≠ qn) →
        ∃ t, exec (.queueConfig q e) s = .next t ∧ t = { s with hif := t.hif, hostMem := t.hostMem, tr := { s.tr with queues := t.tr.queues } } ∧
          Replied s t q e 0 false 0 0 [] ∧ (∀ k, k ≠ qn → t.sq k = s.sq k) ∧
          t.sq qn = { s.sq qn with
            ring := leField x 0 7, log2 := leField x 8 8, gate := leField x 9 9, quota := leField x 10 11, headDa := leField x 16 23, st := 1 }) ∧
      (isHostQn qn = true → leField ps 4 4 = 1 → 0 < h → leField x 25 25 = 1 → (s.queue h).st = .off → xqOk s qn x = true → s.queueClaimed qn = false →
        ∃ t, exec (.queueConfig q e) s = .next t ∧ t = { s with hif := t.hif, hostMem := t.hostMem, fab := { s.fab with queues := t.fab.queues } } ∧
          Replied s t q e 0 false 0 0 [] ∧ (∀ k, k ≠ qn → t.xq k = s.xq k) ∧
          t.xq qn = { s.xq qn with
            ring := leField x 0 7, log2 := leField x 8 8, owner := leField x 10 11, bell := leField x 12 15
            tag := BitVec.ofNat 32 (leField x 20 23), node := leField x 24 24, st := 1 }) ∧
      (qn < 2 ^ 19 → isSiteQueue qn = false → isHostQn qn = false → isOrgQueue qn = false → leField ps 4 4 = 0 → refused) ∧
      (isSiteQueue qn = true → leField ps 4 4 = 0 → 1 < leField x 28 28 ∨ (leField x 28 28 = 1 ∧ sqOk s qn x = false) → refused))

/-- The fabric: `SYS_INDEX` sets the index while no peer is armed and no job loaded; `PORT_CONFIG` the addresses of a port; `PEER_CONFIG` arms or disarms a peer and starts its contexts anew; `COLL_GROUP` writes or frees a
group that no instance uses; in the states that R387 names each is refused with `CMD_JOB` (R336, R346, R357, R387, Tables 12.3, 12.11). -/
def Obligations.HostFabric : Prop :=
  ∀ (s : State) (q : BitVec 16) (e : Entry) (ps : List Byte), HostReady s q e ps →
    let frame (t : State) : Prop := t = { s with hif := t.hif, hostMem := t.hostMem, fab := t.fab }
    let same (t : State) : Prop := t = { s with hif := t.hif, hostMem := t.hostMem }
    (ps.length = 2 → NoBuffer e → leField ps 0 1 < 1024 →
      (s.jobs = [] → (∀ x ∈ s.fab.peers, x.2.st ≠ 1) → ∃ t, exec (.sysIndex q e) s = .next t ∧
        frame t ∧ t.fab = { s.fab with index := some (leField ps 0 1) } ∧ Replied s t q e 0 false 0 0 []) ∧
      (s.jobs ≠ [] → ∃ t, exec (.sysIndex q e) s = .next t ∧ same t ∧ Replied s t q e 0x0A false 0 0 [])) ∧
    (ps.length = 32 → NoBuffer e → leField ps 0 0 < 64 → leField ps 1 1 < 8 → leField ps 2 3 < 4096 → leField ps 30 31 = 0 → ∃ t, exec (.portConfig q e) s = .next t ∧
      frame t ∧ t.fab = { s.fab with ports := t.fab.ports } ∧ Replied s t q e 0 false 0 0 [] ∧ (∀ k, k ≠ leField ps 0 0 → t.port k = s.port k) ∧
      t.port (leField ps 0 0) = {
        ip4 := if bit (leField ps 1 1) 0 then some (leField ps 4 7) else none, ip6 := if bit (leField ps 1 1) 1 then some (leField ps 8 23) else none
        vlan := if bit (leField ps 1 1) 2 then some (leField ps 2 3) else none, nextHop := leField ps 24 29 }) ∧
    (ps.length = 2 → leField ps 0 1 < 1024 → HasBuffer s e 192 → let d := s.hostBytes e.daddr.toNat 192
      let p := leField ps 0 1
      (d.drop 1).take 31 = List.replicate 31 0 → (∀ i, i < 8 → leField d (49 + 20 * i) (51 + 20 * i) = 0 ∧ leField d (48 + 20 * i) (48 + 20 * i) < 64) →
      ((∀ j ∈ s.jobs, p ∉ j.parts) → ∃ t, exec (.peerConfig q e) s = .next t ∧
        frame t ∧ Replied s t q e 0 false 0 0 [] ∧ (∀ k, k ≠ p → t.peer k = s.peer k) ∧
        (t.peer p).st = (if leField d 0 0 = 0 then 0 else 1) ∧ (∀ c, c < 2 → t.sendCtx p c = SendCtx.init ∧ t.recvCtx p c = RecvCtx.init) ∧
        (leField d 0 0 ≠ 0 → ∀ i, i < 8 → bit (leField d 0 0) i = true → (t.peer p).paths[i]? = some (true, leField d (32 + 20 * i) (47 + 20 * i), leField d (48 + 20 * i) (48 + 20 * i)))) ∧
      ((∃ j ∈ s.jobs, p ∈ j.parts) → ∃ t, exec (.peerConfig q e) s = .next t ∧ same t ∧ Replied s t q e 0x0A false 0 0 [])) ∧
    (∀ r, ps.length = 1 → r ≤ 1024 → HasBuffer s e (16 + 2 * r) → let d := s.hostBytes e.daddr.toNat (16 + 2 * r)
      let g := leField ps 0 0
      leField d 2 3 = r → leField d 6 7 = 0 → leField d 12 15 = 0 → leField d 0 0 ≤ 1 →
      (leField d 0 0 = 1 → 0 < r ∧ leField d 1 1 < 64 ∧ leField d 4 5 < r ∧ ∀ k, k < r → leField d (16 + 2 * k) (17 + 2 * k) < 1024) →
      ((∀ i ∈ s.fab.insts, i.group ≠ g) → ∃ t, exec (.collGroup q e) s = .next t ∧
        frame t ∧ Replied s t q e 0 false 0 0 [] ∧ (∀ k, k ≠ g → t.group k = s.group k) ∧
        t.group g = (if leField d 0 0 = 0 then none else some {
          node := leField d 1 1, rank := leField d 4 5, tag := BitVec.ofNat 32 (leField d 8 11), count := 0
          parts := (List.range r).map (fun k => leField d (16 + 2 * k) (17 + 2 * k)) })) ∧
      ((∃ i ∈ s.fab.insts, i.group = g) → ∃ t, exec (.collGroup q e) s = .next t ∧ same t ∧ Replied s t q e 0x0A false 0 0 []))

/-- The Orangery commands: `ORG_MAP` gives an `UNMAPPED` region the lowest free frame, which reads zero, or maps it as spilled; `ORG_UNMAP` frees a region that nothing claims; `ORG_PAGE_OUT`, `ORG_PAGE_IN`, `BANK_ENTER` and
`BANK_RELEASE` begin and stay in progress; a region in another state is refused with its status and stays as it is (R168 to R171, R258 to R262, R386, Table 9.2). -/
def Obligations.HostOrangery : Prop :=
  ∀ (s : State) (q : BitVec 16) (e : Entry) (ps : List Byte), let k := leField ps 0 0
    let r := leField ps 2 3
    let g := s.region k r
    let ref : CmdRef := { q := q.toNat, id := s.hif.nextId }
    HostReady s q e ps → NoBuffer e → k < 6 → r < 16384 →
    let orgs (t : State) : Prop := t = { s with hif := t.hif, hostMem := t.hostMem, orgs := t.orgs } ∧ OnlyRegion s t k r
    let refused (i : Instr) (st : Nat) : Prop := ∃ t, exec i s = .next t ∧ t = { s with hif := t.hif, hostMem := t.hostMem } ∧ Replied s t q e st false 0 0 []
    (ps.length = 16 → leField ps 4 7 = 0 →
      (leField ps 1 1 = 0 → leField ps 8 15 = 0 → g.st = .unmapped → NoErrors s →
        (∀ f, (s.stack k).freeFrame = some f → ∃ t, exec (.orgMap q e) s = .next t ∧ Replied s t q e 0 false f 0 [] ∧ OnlyRegion s t k r ∧
          t.region k r = { g with st := .resident, frame := f, crc := none, poison := false } ∧ (∀ o, o < 2 ^ 26 → t.byte (regionDa k r o) = 0) ∧
          BytesKept s t [(regionDa k r 0, 2 ^ 26)] ∧ t = { s with hif := t.hif, hostMem := t.hostMem, orgs := t.orgs, mem := t.mem }) ∧
        ((s.stack k).freeFrame = none → refused (.orgMap q e) 0x28)) ∧
      (leField ps 1 1 = 1 → leField ps 8 15 % 4096 = 0 → g.st = .unmapped → ∃ t, exec (.orgMap q e) s = .next t ∧ orgs t ∧
        Replied s t q e 0 false 0xFFFF 0 [] ∧ t.region k r = { g with st := .spilled, buf := leField ps 8 15, crc := none, poison := false }) ∧
      (leField ps 1 1 = 0 → leField ps 8 15 = 0 → g.st ≠ .unmapped → refused (.orgMap q e) 0x29) ∧
      (leField ps 1 1 = 0 → leField ps 8 15 % 4096 = 0 →
        (g.st = .resident → g.banked = false → s.regionCompared k r = false → ∃ t, exec (.orgPageOut q e) s = .next t ∧ orgs t ∧ InProgress s t q e false ∧
          t.region k r = { g with st := .pageOut, buf := leField ps 8 15, cmd := [ref] }) ∧
        (g.st ≠ .resident → refused (.orgPageOut q e) 0x29) ∧ (g.st = .resident → g.banked = true → refused (.orgPageOut q e) 0x25))) ∧
    (ps.length = 4 → leField ps 1 1 = 0 →
      (g.st = .resident ∨ g.st = .spilled → s.regionClaimed k r = false → s.regionCompared k r = false → g.banked = false → g.cmd = [] → (s.stack k).waitIn = [] → NoErrors s →
        ∃ t, exec (.orgUnmap q e) s = .next t ∧ Replied s t q e 0 false 0 0 [] ∧ OnlyRegion s t k r ∧
          t.region k r = { g with st := .unmapped, frame := 0, buf := 0, crc := none, poison := false, cmd := [] } ∧ BytesKept s t [(regionDa k r 0, 2 ^ 26)] ∧
          t.cores = s.cores) ∧
      (g.st = .unmapped → refused (.orgUnmap q e) 0x29) ∧ (g.st ≠ .unmapped → s.regionClaimed k r = true → refused (.orgUnmap q e) 0x24) ∧
      (∀ f, g.st = .spilled → (s.stack k).freeFrame = some f → ∃ t, exec (.orgPageIn q e) s = .next t ∧ orgs t ∧ InProgress s t q e false ∧
        t.region k r = { g with st := .pageIn, frame := f, cmd := g.cmd ++ [ref] }) ∧
      (g.st ≠ .spilled → refused (.orgPageIn q e) 0x29) ∧
      (g.bank = .bank → ∃ t, exec (.bankRelease q e) s = .next t ∧ orgs t ∧ InProgress s t q e false ∧
        t.region k r = { g with bank := .releasing, relCmpl := none, relWait := s.recQueue k, abort := false, cmd := [ref] }) ∧
      (g.bank ≠ .bank → refused (.bankRelease q e) 0x29)) ∧
    (ps.length = 8 → leField ps 7 7 = 0 → leField ps 1 1 = 0 → leField ps 4 5 < 512 → leField ps 6 6 = 0 →
      let free := ∀ x ∈ (s.stack k).regions, x.2.banked = true → x.2.handle ≠ leField ps 4 5
      (g.st = .resident → g.banked = false → (∀ x, (s.stack k).holder = some x → x = .host) →
        (free → enterDenied s k r .host = false → ∃ t, exec (.bankEnter q e) s = .next t ∧ orgs t ∧ InProgress s t q e false ∧
          t.region k r = { g with bank := .entering, handle := leField ps 4 5, holder := .host, cmd := [ref] }) ∧
        (¬ free → refused (.bankEnter q e) 0x2E) ∧ (free → enterDenied s k r .host = true → refused (.bankEnter q e) 0x2F)) ∧
      (g.st ≠ .resident ∨ g.banked = true → refused (.bankEnter q e) 0x2C) ∧
      (g.st = .resident → g.banked = false → (∃ x, (s.stack k).holder = some x ∧ x ≠ .host) → refused (.bankEnter q e) 0x2D))

/-- Core `lc` is bound by `b` to a serving area at `ofs` of its plot, whose header reads `h`; its line is empty and memory holds no error. -/
def Sys2Proof.Machine.Bound (s : State) (lc : Nat) (b : Binding) (h : SvHead) (ofs : Nat) : Prop :=
  Tbl.get none s.sv lc = some b ∧ b.failed = false ∧ b.line = [] ∧ b.area = mkDa 2 lc ofs ∧ ofs + areaEnd h ≤ spaceSize 2 ∧ NoErrors s ∧
    h = parseHead (s.bytesAt b.area 512) ∧ ∀ g ∈ h.streams, 0x28000 ≤ g.pt

/-- A field of `n` bytes of a serving area. -/
def Sys2Proof.Machine.areaWord (s : State) (b : Binding) (ofs n : Nat) : Nat := leNat (s.bytesAt (b.area + ofs) n)

/-- A serving command has done its work: its counter has advanced, it is out of the line, and outside the area's byte ranges `rs` and the counter no byte of memory has changed. -/
def Sys2Proof.Machine.Served (s t : State) (b : Binding) (rs : List (Nat × Nat)) : Prop :=
  areaWord t b 112 8 = (areaWord s b 112 8 + 1) % 2 ^ 64 ∧ BytesKept s t ((b.area + 112, 8) :: rs.map (fun x => (b.area + x.1, x.2))) ∧ t.cores = s.cores ∧ t.jobs = s.jobs

/-- The serving commands on a bound core with their slots idle: open, quota, close, fork, hot and cold copies, as Table 10.7 and R293 to R298 give them; on a core that is not bound each is refused with `SV_UNBOUND`; a command whose slot is busy
waits in line, and is refused with `SV_BUSY` after 100 ms. One stream of one entry stands for the pages here. -/
def Sys2Proof.Machine.HostServing : Prop :=
  (∀ (s : State) (q : BitVec 16) (e : Entry) (ps : List Byte), let lc := leField ps 0 1
    let i := leField ps 2 3
    let rec0 := slotOfs i
    HostReady s q e ps → NoBuffer e → lc < 800 →
    let refused (c : Instr) (st : Nat) : Prop := ∃ t, exec c s = .next t ∧ BytesKept s t [] ∧ Replied s t q e st false 0 0 [] ∧ t.cores = s.cores ∧ t.jobs = s.jobs
    (Tbl.get none s.sv lc = none → ∀ c, (ps.length = 8 ∧ leField ps 5 7 = 0 ∧ leField ps 4 4 < 64 ∧ c = Instr.svOpen q e) ∨ (ps.length = 4 ∧ c = .svClose q e) ∨
      (ps.length = 12 ∧ leField ps 7 7 = 0 ∧ leField ps 6 6 < 64 ∧ c = .svFork q e) ∨ (ps.length = 8 ∧ leField ps 5 5 = 0 ∧ (c = .svHot q e ∨ c = .svCold q e)) ∨
      (ps.length = 8 ∧ leField ps 3 3 = 0 ∧ leField ps 2 2 < 64 ∧ c = .svQuota q e) → refused c 0x30) ∧
    (∀ b h ofs, Bound s lc b h ofs →
      (ps.length = 8 → (ps.drop 5).all (· = 0) = true → leField ps 4 4 < 64 → i < h.slots → h.slots ≤ 1024 →
        (areaWord s b rec0 1 = 0 → ∃ t, exec (.svOpen q e) s = .next t ∧ Replied s t q e 0 false 0 0 [] ∧ Served s t b [(rec0, 16)] ∧
          areaWord t b rec0 1 = 1 ∧ areaWord t b (rec0 + 1) 1 = leField ps 4 4 ∧ areaWord t b (rec0 + 4) 8 = 0 ∧ areaWord t b (rec0 + 12) 4 = 0xFFFFFFFF) ∧
        (areaWord s b rec0 1 ≠ 0 → refused (.svOpen q e) 0x31)) ∧
      (ps.length = 8 → leField ps 3 3 = 0 → leField ps 2 2 < 64 → ∃ t, exec (.svQuota q e) s = .next t ∧ Replied s t q e 0 false 0 0 [] ∧
        Served s t b [(0x200 + 16 * leField ps 2 2, 4)] ∧ areaWord t b (0x200 + 16 * leField ps 2 2) 4 = leField ps 4 7) ∧
      (∀ g, h.streams = [g] → g.entries = 1 → h.slots ≤ 1024 → i < h.slots →
        let p := areaWord s b (g.pt + 2 * i) 2
        let c := areaWord s b (0xC000 + 2 * p) 2
        let top := areaWord s b 0x1C000 4
        let tenant := areaWord s b (rec0 + 1) 1
        p < 16382 → top < 16382 → tenant < 64 →
        let used := areaWord s b (0x204 + 16 * tenant) 4
        let refs := areaWord s b (rec0 + 8) 4
        let attr := areaWord s b (0x14000 + 2 * p) 2
        (ps.length = 4 → areaWord s b rec0 1 = 1 ∨ areaWord s b rec0 1 = 2 → refs ≤ used → 0 < c →
          (slotBusy b.head.toNat (areaWord s b (rec0 + 12) 4) = false → attr < 2 ^ 15 →
            ∃ t, exec (.svClose q e) s = .next t ∧ Replied s t q e 0 false 0 0 [] ∧
            Served s t b [(rec0, 16), (g.pt + 2 * i, 2), (0xC000 + 2 * p, 2), (0x14000 + 2 * p, 2), (0x1C000, 4), (0x1C004 + 2 * top, 2), (104, 8), (0x204 + 16 * tenant, 4)] ∧
            areaWord t b rec0 1 = 0 ∧ areaWord t b (rec0 + 8) 4 = 0 ∧ areaWord t b (g.pt + 2 * i) 2 = 0xFFFF ∧ areaWord t b (0xC000 + 2 * p) 2 = c - 1 ∧
            areaWord t b (0x204 + 16 * tenant) 4 = used - refs ∧
            (if c = 1 then areaWord t b 0x1C000 4 = top + 1 ∧ areaWord t b (0x1C004 + 2 * top) 2 = p ∧ areaWord t b (104) 8 = (areaWord s b 104 8 + 1) % 2 ^ 64 ∧
                areaWord t b (0x14000 + 2 * p) 2 = 0
              else areaWord t b 0x1C000 4 = top ∧ areaWord t b 104 8 = areaWord s b 104 8 ∧ areaWord t b (0x14000 + 2 * p) 2 = attr)) ∧
          (slotBusy b.head.toNat (areaWord s b (rec0 + 12) 4) = true → ∃ t, exec (.svClose q e) s = .next t ∧ InProgress s t q e true ∧ BytesKept s t [] ∧
            Tbl.get none t.sv lc = some { b with line := [.cmd { q := q.toNat, id := s.hif.nextId } (some s.us)] } ∧ t.held = s.held ++ [.svClose q e])) ∧
        (ps.length = 12 → leField ps 7 7 = 0 → let j := leField ps 4 5
          let m := leField ps 6 6
          let n := leField ps 8 11
          m < 64 → j < h.slots → i ≠ j → 1 ≤ n → n ≤ 64 →
          g.ring = 0 → n ≤ areaWord s b (rec0 + 4) 4 → c < 65535 → areaWord s b rec0 1 = 1 → areaWord s b (slotOfs j) 1 = 0 → areaWord s b (rec0 + 12) 4 = 0xFFFFFFFF →
          areaWord s b (slotOfs j + 12) 4 = 0xFFFFFFFF →
          let had := areaWord s b (0x204 + 16 * m) 4
          (had + 1 ≤ areaWord s b (0x200 + 16 * m) 4 → ∃ t, exec (.svFork q e) s = .next t ∧ Replied s t q e 0 false 0 0 [] ∧
            Served s t b [(slotOfs j, 16), (g.pt + 2 * j, 2), (0xC000 + 2 * p, 2), (0x204 + 16 * m, 4)] ∧ areaWord t b (g.pt + 2 * j) 2 = p ∧
            areaWord t b (0xC000 + 2 * p) 2 = c + 1 ∧ areaWord t b (slotOfs j) 1 = 1 ∧ areaWord t b (slotOfs j + 1) 1 = m ∧ areaWord t b (slotOfs j + 4) 4 = n ∧
            areaWord t b (slotOfs j + 8) 4 = 1 ∧ areaWord t b (0x204 + 16 * m) 4 = had + 1) ∧
          (areaWord s b (0x200 + 16 * m) 4 < had + 1 → ∃ t, exec (.svFork q e) s = .next t ∧ Replied s t q e 0x32 false 0 0 [] ∧
            BytesKept s t [(b.area + 0x208 + 16 * m, 4)])) ∧
        (ps.length = 8 → leField ps 5 5 = 0 → leField ps 4 4 = 0 → leField ps 6 7 = 0 → areaWord s b rec0 1 = 1 → areaWord s b (rec0 + 12) 4 = 0xFFFFFFFF →
          (attr = 2 ^ 14 → (∀ y, y < h.pages → areaWord s b (0x14000 + 2 * y) 2 < 2 ^ 15) → b.freed = [] → 0 < h.hots → h.hot + g.pb ≤ spaceSize 1 →
            ∃ t, exec (.svHot q e) s = .next t ∧ Replied s t q e 0 false 0 0 [] ∧ areaWord t b (0x14000 + 2 * p) 2 = 2 ^ 15 + 2 ^ 14 ∧
              (∀ o, o < g.pb → t.byte (mkDa 1 lc h.hot + o) = s.byte (pageDa h lc p + o)) ∧
              BytesKept s t [(b.area + 112, 8), (b.area + 0x14000 + 2 * p, 2), (mkDa 1 lc h.hot, g.pb)]) ∧
          (attr = 0 → refused (.svHot q e) 0x37) ∧
          (∀ k, attr = 2 ^ 15 + 2 ^ 14 + k → k < 1024 → ∃ t, exec (.svCold q e) s = .next t ∧ Replied s t q e 0 false 0 0 [] ∧
            Served s t b [(0x14000 + 2 * p, 2)] ∧ areaWord t b (0x14000 + 2 * p) 2 = 2 ^ 14 ∧
            Tbl.get none t.sv lc = some { b with freed := b.freed.filter (fun x => x.1 ≠ k) ++ [(k, (s.sq b.qn).tail)] }) ∧
          (attr < 2 ^ 15 → refused (.svCold q e) 0x37))))) ∧
  (∀ (s : State) (lc : Lc) (b : Binding) (r : CmdRef) (u : Nat) (x : Running) (rest : List SvWait), Tbl.get none s.sv lc = some b → b.line = .cmd r (some u) :: rest →
    u + 100000 ≤ s.us → (s.queue r.q).running = [x] → x.id = r.id → (∀ w ∈ rest, ∀ y, w ≠ .cmd r y) → (s.queue r.q).waiting = [] → (s.queue r.q).hasRoom = true → s.hif.bme = true →
    let a := (s.queue r.q).cqBase + 32 * (s.queue r.q).cqSlot
    s.hostFails a 32 = false → ∃ t bs, exec (.svBusyTimeout lc) s = .next t ∧ (t.queue r.q).running = [] ∧ Tbl.get none t.sv lc = some { b with line := rest } ∧
      t.mem = s.mem ∧ t.cores = s.cores ∧ t.hostMem = (s.hostPut a bs).hostMem ∧ bs.length = 32 ∧ leField bs 0 3 = x.cid.toNat ∧ leField bs 4 4 = 0x38)

/-- `SV_BIND` with `INIT`, where every condition of R289 holds, binds the core and initialises its serving state: every slot closed, quotas zero, every page-table entry 0xFFFF, the whole pool on
the free stack, the counters clear but for this command; where one does not hold it changes nothing (R288 to R290). -/
def Sys2Proof.Machine.ServingBinds : Prop :=
  ∀ (s : State) (q : BitVec 16) (e : Entry) (ps : List Byte), HostReady s q e ps → ps.length = 8 → leField ps 2 2 = 1 → leField ps 3 3 = 0 → leField ps 0 1 < 800 →
    leField ps 4 7 % 64 = 0 → s.hostFails e.daddr.toNat e.dlen.toNat = false →
    let lc := leField ps 0 1
    let area := mkDa 2 lc (leField ps 4 7)
    let d := s.hostBytes e.daddr.toNat e.dlen.toNat
    let gs := placeStreams (parseHead d)
    let h := { parseHead d with streams := gs }
    bindReserved d = false → e.dlen.toNat = 256 + 64 * leField d 6 6 →
    (∀ j, s.jobOf lc = some j → j.phase = .running → Tbl.get none s.sv lc = none → NoErrors s → bindRanges d (parseHead d) = true → bindClaims j lc (leField ps 4 7) h = true →
      bindQueue s lc (parseHead d) = true → h.rowBase + h.slots * h.rowStride ≤ 0x6000 → ∃ t b, exec (.svBind q e) s = .next t ∧ Replied s t q e 0 false 0 0 [] ∧
        Tbl.get none t.sv lc = some b ∧ b.area = area ∧ b.qn = h.qn ∧ (∀ k, k ≠ lc → Tbl.get none t.sv k = Tbl.get none s.sv k) ∧
        areaWord t b 0 4 = 0x56534B5A ∧ areaWord t b 68 4 = 1 ∧ (∀ x, x < h.slots → areaWord t b (slotOfs x) 1 = 0) ∧
        (∀ m, m < 64 → areaWord t b (0x200 + 16 * m) 8 = 0) ∧ areaWord t b 0x1C000 4 = h.pages ∧
        (∀ x, x < h.pages → areaWord t b (0x1C004 + 2 * x) 2 = h.pages - 1 - x ∧ areaWord t b (0xC000 + 2 * x) 2 = 0 ∧ areaWord t b (0x14000 + 2 * x) 2 = 0) ∧
        (∀ g ∈ gs, ∀ x, x < g.entries * h.slots → areaWord t b (g.pt + 2 * x) 2 = 0xFFFF) ∧ areaWord t b 28 4 = expansionBytes h % 2 ^ 32 ∧
        areaWord t b 72 8 = 0 ∧ areaWord t b 112 8 = 1 ∧ BytesKept s t [(area, areaEnd h), (mkDa 1 lc h.padCan, 32768)] ∧ t.cores = s.cores) ∧
    (s.jobOf lc = none ∨ (Tbl.get none s.sv lc).isSome = true ∨ bindRanges d (parseHead d) = false ∨ bindQueue s lc (parseHead d) = false →
      ∃ t, exec (.svBind q e) s = .next t ∧ t = { s with hif := t.hif, hostMem := t.hostMem } ∧ Replied s t q e 0x3A false 0 0 [])

/-- The serving commands (R288 to R298). -/
def Obligations.Serving : Prop :=
  HostServing ∧ ServingBinds

/-- `TR_BIND` of a running job clears its counters, writes the initial result block and applies its increment; `TR_EXPORT` writes one record for the entry of its map, with its CRCs and the payload, of a source that
holds no error; without a binding, or for one that R320 does not allow, they are refused (R320, R329, R330, Tables 11.3, 11.4, 11.8). -/
def Obligations.HostTraining : Prop :=
  ∀ (s : State) (q : BitVec 16) (e : Entry) (ps : List Byte), HostReady s q e ps → NoErrors s → leField ps 0 0 < 64 → let node := leField ps 0 0
    let refused (i : Instr) (st : Nat) : Prop := ∃ t, exec i s = .next t ∧ t = { s with hif := t.hif, hostMem := t.hostMem } ∧ Replied s t q e st false 0 0 []
    (ps.length = 1 → HasBuffer s e 64 → let d := s.hostBytes e.daddr.toNat 64
      trReserved d = false →
      (∀ j, s.jobAt node = some j → j.phase = .running → (s.training node).bound = false → trFields d = true → resultOk j (leField d 16 23) = true → windowOk s j d = true →
        let lc := leField d 24 27 % 1024
        let n := leField d 24 27 / 65536 % 256
        (s.core lc).gate (leField d 24 27 / 1024 % 64) + n ≤ 16777215 →
        ∃ t, exec (.trBind q e) s = .next t ∧ Replied s t q e 0 false 0 0 [] ∧ (t.training node).bound = true ∧ (t.training node).step.toNat = leField d 8 15 ∧
          (t.training node).replicas = leField d 4 5 ∧ (t.training node).rank = leField d 6 7 ∧ (∀ k, k ≠ node → t.training k = s.training k) ∧
          leNat (t.bytesAt (leField d 16 23) 4) = 0x3F800000 ∧ leNat (t.bytesAt (leField d 16 23 + 16) 8) = leField d 8 15 ∧ BytesKept s t [(leField d 16 23, 64)] ∧
          (t.core lc).gate (leField d 24 27 / 1024 % 64) = (s.core lc).gate (leField d 24 27 / 1024 % 64) + n ∧ (∀ k, k ≠ lc → t.core k = s.core k)) ∧
      ((s.jobAt node = none ∨ (s.training node).bound = true ∨ trFields d = false) → refused (.trBind q e) 0x3C)) ∧
    (ps.length = 16 → (ps.drop 1).take 3 = List.replicate 3 0 → let map := leField ps 8 15
      (∀ j, s.jobAt node = some j → (s.training node).bound = true → leField ps 4 7 = 1 → s.hostFails map 192 = false → let h := s.hostBytes map 192
        let n := leField h 24 31
        let da := leField h 128 135
        mapReserved h = false → mapOk j h = true → 192 + n ≤ e.dlen.toNat → exportAccess s da n = .serve → s.hostFails e.daddr.toNat (192 + n) = false →
        ∃ t bs, exec (.trExport q e) s = .next t ∧ t = { s with hif := t.hif, hostMem := t.hostMem } ∧ Replied s t q e 0 false (192 + n) 0 [(e.daddr.toNat, bs)] ∧
          bs.length = 192 + n ∧ bs.drop 192 = s.bytesAt da n ∧ leField bs 0 3 = 0x44524853 ∧ leField bs 136 143 = crc64From 0 (s.bytesAt da n) ∧
          leField bs 188 191 = crc32c (bs.take 188) ∧ leField bs 16 23 = ((s.training node).step - 1).toNat ∧ (bs.drop 24).take 112 = (h.drop 24).take 112) ∧
      ((s.jobAt node = none ∨ (s.training node).bound = false) → refused (.trExport q e) 0x3D))

/-! ## Host queues, registers and power -/

/-- Host queues: a tail doorbell inside the ring sets the tail, and one outside stops the queue with reason 1; a head doorbell inside what the part has written sets the head, and another stops the queue with reason 4; doorbells of a
queue that is off are counted; a completion that waited is written, first in, first out, once there is room; the notification entry and the coalesced message go out; a drained queue reads off (R373, R374, R376, R389). -/
def Sys2Proof.Machine.HostQueueEvents : Prop :=
  ∀ (s : State) (q v : BitVec 16), let x := s.queue q.toNat
    let only (t : State) (y : HostQueue) : Prop := t = { s with hif := { s.hif with queues := t.hif.queues } } ∧ t.queue q.toNat = y ∧ ∀ k, k ≠ q.toNat → t.queue k = s.queue k
    let bell (i : Instr) (y : HostQueue) : Prop := ∃ t, exec i s = .next t ∧ only t y
    let ahead := (v.toNat + 2 ^ x.cqLog - x.cqHead) % 2 ^ x.cqLog ≤ (x.cqSlot + 2 ^ x.cqLog - x.cqHead) % 2 ^ x.cqLog
    (x.st = .on → x.draining = false → v.toNat < 2 ^ x.sqLog → bell (.submissionTailDoorbell q v) { x with sqTail := v.toNat }) ∧
    (x.st = .on → x.draining = false → 2 ^ x.sqLog ≤ v.toNat → bell (.submissionTailDoorbell q v) { x with st := .err, err := 1 }) ∧
    (x.st = .on → v.toNat < 2 ^ x.cqLog → ahead → bell (.completionHeadDoorbell q v) { x with cqHead := v.toNat }) ∧
    (x.st = .on → ¬ (v.toNat < 2 ^ x.cqLog ∧ ahead) → bell (.completionHeadDoorbell q v) { x with st := .err, err := 4 }) ∧
    (x.st = .off → exec (.submissionTailDoorbell q v) s = .next { s with hif := { s.hif with dbIgn := satAdd s.hif.dbIgn 1 } } ∧
      exec (.completionHeadDoorbell q v) s = .next { s with hif := { s.hif with dbIgn := satAdd s.hif.dbIgn 1 } }) ∧
    (∀ c rest, x.waiting = c :: rest → x.st = .on → x.draining = false → x.hasRoom = true → s.hif.bme = true → x.irqEn = false → let a := x.cqBase + 32 * x.cqSlot
      s.hostFails a 32 = false → ∃ t, exec (.completionWrite q) s = .next t ∧ t.hostMem = (s.hostPut a (x.entry c)).hostMem ∧ (t.queue q.toNat).waiting = rest ∧
        (t.queue q.toNat).cqSlot = (if x.cqSlot + 1 = 2 ^ x.cqLog then 0 else x.cqSlot + 1) ∧ t.hif.cpl = bump s.hif.cpl 1 ∧ ∀ k, k ≠ q.toNat → t.queue k = s.queue k) ∧
    (x.irqEn = true → 0 < x.gathered → 0 < x.coalUs → x.coalAt + x.coalUs ≤ s.us → ∃ t, exec (.interruptCoalesceTimer q) s = .next t ∧
      t = { s with hif := { s.hif with queues := t.hif.queues, irqs := t.hif.irqs } } ∧ t.queue q.toNat = { x with gathered := 0 } ∧
      Tbl.get 0 t.hif.irqs x.vector = Tbl.get 0 s.hif.irqs x.vector + 1) ∧
    (x.draining = true → x.running = [] → x.waiting = [] → x.reenable = false → bell (.queueDrained q) { x with st := .off, err := 0, draining := false }) ∧
    (x.draining = true → x.running ≠ [] → exec (.queueDrained q) s = .next s) ∧
    (∀ n, s.notes.log.getLast? = some n → s.hif.noteQ = q → s.notes.fresh ≠ 0 → x.st = .on → x.waiting = [] → x.hasRoom = true → s.hif.bme = true → let a := x.cqBase + 32 * x.cqSlot
      s.hostFails a 32 = false → ∃ t, exec .notificationPost s = .next t ∧ t = { s with hif := t.hif, hostMem := t.hostMem, notes := { s.notes with fresh := 0 } } ∧
        ∃ bs, t.hostMem = (s.hostPut a bs).hostMem ∧ bs.length = 32 ∧ leField bs 0 3 = 0xFFFFFFFF ∧ leField bs 8 9 = n.seq.toNat ∧ leField bs 10 10 = n.cls % 256 ∧
          leField bs 16 23 = s.notes.fresh % 2 ^ 64)

/-- The admin queue: enabled with rings in range it is on and empty, and otherwise stops with reason 5; disabled it stops fetching and is off once its commands have completed (R373, Tables 13.2, 13.5). The PCIe function answers
configuration requests from a link that is up, with Retry Status until it is configured, and takes the bus-master bit once it is (R371). -/
def Sys2Proof.Machine.AdminQueue : Prop :=
  ∀ (s : State) (a b : BitVec 4) (on : Bool), let x := s.queue 0
    (s.admFree = true → ∃ t, exec (.adminQueueEnable a b) s = .next t ∧ (∀ k, k ≠ 0 → t.queue k = s.queue k) ∧ t.mem = s.mem ∧ t.hif.admCtrl = BitVec.ofNat 9 (256 + a.toNat + 16 * b.toNat) ∧
      (let ok := s.hif.admSq.toNat % 4096 = 0 ∧ s.hif.admCq.toNat % 4096 = 0 ∧ 4 ≤ a.toNat ∧ a.toNat ≤ 12 ∧ a.toNat ≤ b.toNat ∧ b.toNat ≤ 14;
        (ok → (t.queue 0).st = .on ∧ (t.queue 0).err = 0) ∧ (¬ ok → (t.queue 0).st = .err ∧ (t.queue 0).err = 5)) ∧
      (t.queue 0).sqBase = s.hif.admSq.toNat ∧ (t.queue 0).cqBase = s.hif.admCq.toNat ∧ (t.queue 0).sqLog = a.toNat ∧ (t.queue 0).cqLog = b.toNat ∧
      (t.queue 0).sqHead = 0 ∧ (t.queue 0).sqTail = 0 ∧ (t.queue 0).cqSlot = 0 ∧ (t.queue 0).cqHead = 0 ∧ (t.queue 0).cqPhase = true) ∧
    (s.hif.admCtrl.getLsbD 8 = true → x.st = .on → ∃ t, exec .adminQueueDisable s = .next t ∧ t.hif.admCtrl.getLsbD 8 = false ∧ (∀ k, k ≠ 0 → t.queue k = s.queue k) ∧
      (x.running = [] → x.waiting = [] → x.reenable = false → t.queue 0 = { x with st := .off, err := 0, draining := false }) ∧
      (x.running ≠ [] → t.queue 0 = { x with draining := true })) ∧
    (s.hif.linkUp = true → exec .configurationRequest s = .next { s with hif := { s.hif with cfgRetry := some (!s.hif.configured) } }) ∧
    (s.hif.linkUp = true → s.hif.configured = true → exec (.busMasterEnable on) s = .next { s with hif := { s.hif with bme := on } }) ∧
    (s.hif.linkUp = false → exec .configurationRequest s = .next s ∧ exec (.busMasterEnable on) s = .next s)

/-- Host queues, the admin queue and the PCIe function (R371, R373, R374, R376, R389). -/
def Obligations.HostQueues : Prop :=
  HostQueueEvents ∧ AdminQueue

/-- Registers and locks: `HIF_CTRL` sets `EXPERT_EN` until its lock holds, and the lock stays; `GLB_SCRATCH` holds what is written; a core's `ARR_CTRL` takes `FORCE_RAMP` while the core is powered; each lock row sets its lock and nothing else, and
`LOCK_ALL` every lock (R99, R372, R403, R524 to R528). -/
def Obligations.RegistersAndLocks : Prop :=
  ∀ (s : State) (v : Word) (lc : Lc),
    (s.hif.linkUp = true → s.hif.configured = true → exec (.registerWrite (.bar 2) v) s = .next { s with hif := { s.hif with
      expertEn := if s.hif.lock then s.hif.expertEn else v.getLsbD 0, lock := s.hif.lock || v.getLsbD 31 } }) ∧
    (s.torzanUp = true → exec (.registerWrite (.window 0xB) v) s = .next { s with mgmt := { s.mgmt with scratch := v } }) ∧
    (s.torzanUp = true → s.unitPresent 8 lc = true → s.coreGated lc = false → ∃ t, exec (.registerWrite (.core lc 0x40) v) s = .next t ∧ t = { s with cores := t.cores } ∧
      t.core lc = { s.core lc with arr := { (s.core lc).arr with forceRamp := v.getLsbD 1 } } ∧ ∀ k : Nat, k ≠ lc.val → t.core k = s.core k) ∧
    exec .hifLock s = .next { s with hif := { s.hif with lock := true } } ∧
    exec .xobLock s = .next { s with fab := { s.fab with lock := true } } ∧
    exec .pwrLock s = .next { s with pwr := { s.pwr with lock := true } } ∧
    exec .fuseLock s = .next { s with mgmt := { s.mgmt with fuseLock := true } } ∧
    exec .lockAll s = .next { s with
      mgmt := { s.mgmt with lockAll := true, fuseLock := true }, hif := { s.hif with lock := true }, fab := { s.fab with lock := true }, pwr := { s.pwr with lock := true } }

/-- Snapshots and owner fuses: `GO` takes the image of the chosen sets, with its header, while none is being written, and otherwise sets `DROPPED`; when it is written its bytes stand at the snapshot address and `SNAP_SEQ` has advanced. Programming is
refused with its reason while locked or without a blank copy, starts on the lowest blank copy inside the temperature window, waits outside it for at most 60 s, and ends with the copy valid or spoiled (R444, R500 to R502, R535). -/
def Obligations.SnapshotsAndFuses : Prop :=
  (∀ (s : State) (sets : BitVec 10), (s.hlt.snap = none → ∃ t img, exec (.snapGo sets) s = .next t ∧
      t = { s with hlt := { s.hlt with sets := sets, snapDone := false, snap := some (s.hlt.snapAddr.toNat, s.us, img) }, draws := t.draws } ∧
      64 ≤ img.length ∧ leField img 0 3 = 0x50414E53 ∧ leField img 4 7 = (s.hlt.snapSeq.toNat + 1) % 2 ^ 32 ∧ leField img 8 15 = s.us % 2 ^ 64 ∧ leField img 16 19 = sets.toNat ∧
      leField img 24 27 = crc32c (img.drop 64)) ∧
    (s.hlt.snap.isSome = true → exec (.snapGo sets) s = .next { s with hlt := { s.hlt with sets := sets, snapDropped := true } }) ∧
    (∀ a u img, s.hlt.snap = some (a, u, img) → s.hif.bme = true → s.hostFails a img.length = false → ∃ t, exec .snapshotDone s = .next t ∧
      t = { s with hostMem := t.hostMem, hlt := { s.hlt with snap := none, snapDone := true, snapSeq := s.hlt.snapSeq + 1, snapT := BitVec.ofNat 64 u } } ∧
      (∀ i, i < img.length → Tbl.get 0 t.hostMem (a + i) = img.getD i 0) ∧ ∀ x, x < a ∨ a + img.length ≤ x → Tbl.get 0 t.hostMem x = Tbl.get 0 s.hostMem x)) ∧
  (∀ (s : State) (same : Bool),
    (s.mgmt.fuseLock = true → exec (.fuseGo true) s = .next { s with mgmt := { s.mgmt with fuseErr := 4 } }) ∧ exec (.fuseGo false) s = .next s ∧
    (s.mgmt.fuseLock = false → s.mgmt.prog = .idle → .blank ∉ s.owner → exec (.fuseGo true) s = .next { s with mgmt := { s.mgmt with fuseErr := 2 } }) ∧
    (∀ n, s.mgmt.fuseLock = false → s.mgmt.prog = .idle → s.owner[n]? = some .blank → (∀ i, i < n → s.owner[i]? ≠ some .blank) →
      (s.fuseWindow = true → exec (.fuseGo true) s = .next { s with mgmt := { s.mgmt with prog := .programs n s.mgmt.staged } }) ∧
      (s.fuseWindow = false → exec (.fuseGo true) s = .next { s with mgmt := { s.mgmt with prog := .waits s.us } })) ∧
    (∀ c d, s.mgmt.prog = .programs c d → exec (.fuseProgrammingDone same) s = .next { s with
      owner := s.owner.set c (if same then .valid d else .spoiled), mgmt := { s.mgmt with prog := .idle, fuseErr := if same then 0 else 3 } }) ∧
    (∀ u, s.mgmt.prog = .waits u → exec .fuseTempTimeout s = .next (if u + 60000000 ≤ s.us then { s with mgmt := { s.mgmt with prog := .idle, fuseErr := 1 } } else s)))

/-- Gating and permits: an idle core's domain is gated and loses its contents, and its Canopy store keeps its own and moves to retention after 1 µs; a zone grants its oldest request while a permit is free, with a wait where a powered neighbour lacks margin; after 20 µs of it the ramp is
slow; power good makes the domain usable and returns the permit (R402 to R408). -/
def Obligations.GatingAndPermits : Prop :=
  (∀ (s : State) (lc : Lc) (i : Nat), s.siteOf lc = some i → s.mem.merges = [] →
    ((s.sitePwr i).dom = .on → s.jobOf lc = none → (s.sitePwr i).idleSince + 1000 * s.gateIdleMs ≤ s.us → ∃ t, exec (.coreGate lc) s = .next t ∧ t.core lc = Core.init ∧
      (∀ k : Nat, k ≠ lc.val → t.core k = s.core k) ∧ (t.sitePwr i).dom = .gated ∧ (t.sitePwr i).canopyDue = s.us + 1 ∧ (∀ o, o < spaceSize 0 → t.byte (mkDa 0 lc o) = 0) ∧
      BytesKept s t [(mkDa 0 lc 0, spaceSize 0)] ∧ t.jobs = s.jobs) ∧
    ((s.sitePwr i).dom ≠ .on ∨ (s.jobOf lc).isSome = true ∨ s.us < (s.sitePwr i).idleSince + 1000 * s.gateIdleMs → exec (.coreGate lc) s = .next s)) ∧
  (∀ (s : State) (i : Site), let p := s.sitePwr i
    let z := zoneOf i
    let only (t : State) (p' : SitePower) (z' : Zone) : Prop := t.sitePwr i = p' ∧ t.zone z = z' ∧ (∀ k : Nat, k ≠ i.val → t.sitePwr k = s.sitePwr k) ∧ (∀ k, k ≠ z → t.zone k = s.zone k)
    (p.dom = .gated → p.canopy = .full → p.canopyDue ≤ s.us → ∃ t, exec (.canopyRetention i) s = .next t ∧ t = { s with pwr := { s.pwr with sites := t.pwr.sites } } ∧
      only t { p with canopy := .retention } (s.zone z)) ∧
    (∀ r, (s.zone z).granted = [r] → r.site = i.val →
      (r.canopy = false → r.waits = true → r.slow = false → ∃ t, exec (.slowRamp i) s = .next t ∧
        t = { s with pwr := { s.pwr with zones := t.pwr.zones, slows := satAdd s.pwr.slows 1 } } ∧ only t p { s.zone z with granted := [{ r with slow := true }] }) ∧
      (∃ t, exec (.powerGood i r.canopy) s = .next t ∧ t = { s with pwr := { s.pwr with zones := t.pwr.zones, sites := t.pwr.sites } } ∧
        only t (if r.canopy then { p with canopy := .full, canopyDue := s.us + 100 } else { p with dom := .on, idleSince := s.us })
          { s.zone z with free := (s.zone z).free + 1, granted := [] }))) ∧
  (∀ (s : State) (k : Fin 8) (m : Option Byte) (r : PermitReq) (rest : List PermitReq), let z := s.zone k
    z.waiting = r :: rest →
    (z.free = 0 → exec (.inrushPermitGrant k m) s = .next s) ∧
    (0 < z.free → let w := !r.canopy && m.any (fun x => x.toNat < s.permitMarginMv)
      ∃ t, exec (.inrushPermitGrant k m) s = .next t ∧
        t = { s with pwr := { s.pwr with zones := t.pwr.zones, waits := if w then satAdd s.pwr.waits 1 else s.pwr.waits } } ∧
        t.zone k = { z with free := z.free - 1, waiting := rest, granted := z.granted ++ [{ r with waits := w }] } ∧ ∀ j : Nat, j ≠ k.val → t.zone j = s.zone j))

/-- Droop and capping: a trip stretches the array cycles of its region and the release ends it; `VR_ALERT_N` is counted once per assertion; a sample above the setpoint of its loop, whose first class is compute and suffices, raises p by the steps of R417, and
one in the dead band changes no limit; the clock limit falls by one code after 1 ms at p ≥ 16 and rises by one after 10 ms of calm (R409, R413 to R420). -/
def Obligations.DroopAndCapping : Prop :=
  (∀ (s : State) (r : Fin 5) (deep : Bool), ((s.clk r).locked = true → ∃ t, exec (.droopTrip r deep) s = .next t ∧ t = { s with regions := t.regions } ∧
      t.clk r = { s.clk r with stretch := max (s.clk r).stretch (if deep then 2 else 1) } ∧ ∀ k : Nat, k ≠ r.val → t.clk k = s.clk k) ∧
    (∃ t, exec (.droopRelease r) s = .next t ∧ t = { s with regions := t.regions } ∧ t.clk r = { s.clk r with stretch := 0 } ∧ ∀ k : Nat, k ≠ r.val → t.clk k = s.clk k) ∧
    exec .vrAlert s = .next (if s.pwr.alert then s else { s with pwr := { s.pwr with alert := true, alerts := satAdd s.pwr.alerts 1 } }) ∧
    exec .vrAlertRelease s = .next { s with pwr := { s.pwr with alert := false } } ∧
    (s.pwr.noFreq = false → let l := s.pwr.part
      (l.highSince ≠ 0 → l.highSince - 1 + 1000 ≤ s.us → exec .freqLimStep s = .next { s with pwr := { s.pwr with freqLim := s.pwr.freqLim - 1 } }) ∧
      (l.highSince = 0 → l.calmSince ≠ 0 → l.calmSince - 1 + 10000 ≤ s.us → exec .freqLimStep s = .next { s with pwr := { s.pwr with freqLim := min 40 (s.pwr.freqLim + 1) } })) ∧
    (s.pwr.noFreq = true → exec .freqLimStep s = .next s)) ∧
  (∀ (s : State) (n : Fin 64) (x : PowerSample), let l := s.loopOf n
    let cap : Rat := l.cap
    let kept := l.samples.filter (fun e => s.us ≤ e.1 + 10000)
    let a : Rat := (((kept.map (·.2)).sum + x.power : Nat) : Rat) / ((kept.length + 1 : Nat) : Rat)
    let sp : Rat := if n.val = 0 then min 6200 (cap + 4 * (cap - a)) else cap + 4 * (cap - a)
    l.cap ≠ 0 → s.nodeValid n = true → l.hard = false → s.pwr.alert = false → (n.val = 0 → s.pwr.order = 0) →
    ∃ t, exec (.loopStep n x) s = .next t ∧ (∀ r, s.pwr.capRuns = [(n.val, r)] → t.pwr.capRuns = [] ∧ n.val ∉ t.busy ∧
        ∀ y, (s.queue r.q).running = [y] → y.id = r.id → (t.queue r.q).running = []) ∧ (t.loopOf n).samples = kept ++ [(s.us, x.power)] ∧ (t.loopOf n).setpoint = sp ∧ (t.loopOf n).cap = l.cap ∧
      (∀ k : Nat, k ≠ n.val → t.loopOf k = s.loopOf k) ∧ t.cores = s.cores ∧ t.mem = s.mem ∧
      (sp < (x.power : Rat) → l.p < 64 → let w : Rat := max 1 (((x.compute : Rat) - x.leak) / ((64 - l.p : Nat) : Rat))
        let k := min 16 ((((x.power : Rat) - sp) / w).ceil.toNat)
        (x.power : Rat) - sp ≤ k * w → (t.loopOf n).p = min 64 (l.p + k) ∧ (t.loopOf n).m = l.m ∧ (t.loopOf n).l = l.l) ∧
      ((x.power : Rat) ≤ sp → sp - cap * 3 / 100 ≤ (x.power : Rat) → (t.loopOf n).p = l.p ∧ (t.loopOf n).m = l.m ∧ (t.loopOf n).l = l.l))

/-! ## Rails, clocks, resets and bring-up -/

/-- A whole-part reset with a cause has begun: everything outside Table 16.10 has its reset value and bring-up is at `phase`; flash, the host's memory and the commands that wait are as they were (R457, R484, R514). -/
def Sys2Proof.Machine.Restarted (s t : State) (cause phase : Nat) : Prop :=
  t.cores = [] ∧ t.jobs = [] ∧ t.orgs = [] ∧ t.mem.bytes = [] ∧ t.mem.flaws = [] ∧ t.fab = State.reset.fab ∧ t.notes = State.reset.notes ∧ t.hlt = State.reset.hlt ∧
    t.boot.phase = phase ∧ t.boot.ready = false ∧ t.boot.fatal = false ∧ t.boot.cause = (if s.boot.early then s.boot.cause else cause) ∧ t.boot.fuse = none ∧
    t.boot.coldNext = s.boot.coldNext ∧ t.flash = s.flash ∧ t.hostMem = s.hostMem ∧ t.pending = s.pending ∧ t.held = [] ∧ t.ticks = 0

/-- Rails, clocks and resets: VIN_AUX entering its range starts at step 1 with nothing but flash and the owner's fuses kept, and leaving it takes the part off; a lost main rail or system clock stops the part until it restarts at step 2; `PERST_N`, a hot reset, a lost link and
a watchdog expiry reset the whole part; the link comes up with the rails in range (R371, R457, R470, R510 to R516). -/
def Obligations.RailsAndResets : Prop :=
  ∀ s : State,
    (s.boot.vinAux = false → ∃ t, exec .vinAuxEnter s = .next t ∧ t.boot.phase = 1 ∧ t.boot.vinAux = true ∧ t.boot.kiosk = false ∧ t.cores = [] ∧ t.mem.bytes = [] ∧ t.flash = s.flash ∧
      t.owner = s.owner ∧ t.pending = s.pending) ∧
    (s.boot.vinAux = true → exec .vinAuxEnter s = .next s) ∧
    (∃ t, exec .vinAuxLeave s = .next t ∧ t.boot.vinAux = false ∧ t.boot.ready = false ∧ t.cores = [] ∧ t.mem.bytes = [] ∧ t.flash = s.flash ∧ t.pending = s.pending) ∧
    (s.boot.vinAux = true → s.boot.railLost = false → exec .mainRailsInRange s = .next { s with boot := { s.boot with rails := true, railsSeen := true } }) ∧
    (s.boot.perst = true ∨ s.thm.tripped = true → exec .mainRailsRemoved s = .next { s with boot := { s.boot with rails := false, railsSeen := false } }) ∧
    (s.boot.railsSeen = true → s.boot.perst = false → s.thm.tripped = false → s.boot.vinAux = true →
      (∃ t, exec .mainRailLost s = .next t ∧ Restarted s t 7 0 ∧ t.boot.railLost = true ∧ t.boot.rails = false ∧ t.hif.linkUp = false) ∧
      (s.boot.clockLost = false → ∃ t, exec .refclkSysLost s = .next t ∧ Restarted s t 8 0 ∧ t.boot.clockLost = true ∧ t.hif.linkUp = false)) ∧
    (s.boot.railLost = true → s.boot.clockLost = false → s.thm.tripped = false → s.boot.vinAux = true → exec .railLossRestart s = .next { s with boot := { s.boot with
      railLost := false, rails := true, railsSeen := true, phase := 2, since := s.ticks } }) ∧
    (s.boot.clockLost = true → s.boot.railLost = false → s.thm.tripped = false → s.boot.vinAux = true →
      exec .refclkSysRestored s = .next { s with boot := { s.boot with clockLost := false, phase := 2, since := s.ticks } }) ∧
    (s.boot.vinAux = true → exec .auxClkLost s = .next { s with boot := { s.boot with auxLost := true } }) ∧
    (s.down = false → 2 < s.boot.phase ∨ s.boot.ready = true ∨ s.boot.fatal = true ∨ (s.boot.phase = 2 ∧ s.boot.perst = false) → ∃ t, exec .pciePerstNAssert s = .next t ∧ Restarted s t 1 2 ∧ t.boot.perst = true ∧ t.hif.linkUp = false) ∧
    (s.down = true ∨ (s.boot.ready = false ∧ s.boot.fatal = false ∧ (s.boot.phase ≤ 1 ∨ (s.boot.phase = 2 ∧ s.boot.perst = true))) →
      exec .pciePerstNAssert s = .next { s with boot := { s.boot with perst := true }, hif := { s.hif with linkUp := false } }) ∧
    exec .pciePerstNDeassert s = .next { s with boot := { s.boot with perst := false } } ∧
    (s.boot.perst = false → s.down = false → s.boot.rails = true → exec .pcieLinkUp s = .next { s with hif := { s.hif with linkUp := true } }) ∧
    (s.hif.linkUp = true → (∃ t, exec .hotReset s = .next t ∧ Restarted s t 2 2 ∧ t.hif.linkUp = false) ∧ ∃ t, exec .linkLost s = .next t ∧ Restarted s t 3 2 ∧ t.hif.linkUp = false) ∧
    (s.hif.linkUp = false → exec .hotReset s = .next s ∧ exec .linkLost s = .next s) ∧
    (s.boot.kiosk = true → s.down = false → 3 < s.boot.phase ∨ s.boot.ready = true ∨ s.boot.fatal = true → ∃ t, exec .watchdogExpiry s = .next t ∧ Restarted s t 6 2 ∧
      t.boot.dogFatal = decide (s.boot.lastDog ≠ 0 ∧ s.auxUs < s.boot.lastDog - 1 + 3600000000) ∧ t.boot.lastDog = s.auxUs + 1)

/-- Step `n` of bring-up has ended, with its duration, and the next begins; nothing has failed. -/
def Sys2Proof.Machine.StepEnded (s t : State) (n : Nat) : Prop :=
  t.boot.phase = n + 1 ∧ t.boot.since = s.ticks ∧ Tbl.get 0 t.boot.ms n = (s.ticks - s.boot.since) / 1600000 ∧ t.boot.fatal = false ∧ t.boot.ready = false ∧ t.boot.fail = s.boot.fail

/-- Bring-up has stopped with its failure code. -/
def Sys2Proof.Machine.StepFailed (t : State) (fail : Nat) : Prop := t.boot.fatal = true ∧ t.boot.fail = fail ∧ ∀ i, (t.sitePwr i).dom = .gated

/-- Steps 1 to 8 of bring-up: each ends with what it found, and stops bring-up with its code where it must: the Kiosk's self-test, the banks of the firmware, the fuses, the Seams, the stacks and plots, the routing graph, the cores' firmware (R456 to R463, R471, R474, Table 16.1). -/
def Sys2Proof.Machine.BringUpStarts : Prop :=
  ∀ s : State,
    (s.boot.vinAux = true → s.boot.phase ≤ 1 → s.boot.kiosk = false → s.boot.ready = false → s.boot.fatal = false → ∃ t, exec .auxStart s = .next t ∧ t = { s with boot := t.boot } ∧ StepEnded s t 1 ∧ t.boot.kiosk = true) ∧
    (s.inStep 2 = true → s.boot.perst = false →
      (s.boot.dogFatal = false → ∃ t, exec (.kioskBoot true false) s = .next t ∧ t = { s with boot := t.boot } ∧ StepEnded s t 2 ∧ t.boot.seq = 1) ∧
      (∀ r, s.boot.dogFatal = false → s.flash.boot = some r → ∃ t, exec (.kioskBoot true true) s = .next t ∧ t = { s with boot := t.boot } ∧ StepEnded s t 2 ∧ t.boot.seq = r.seq + 1) ∧
      (∀ c, ∃ t, exec (.kioskBoot false c) s = .next t ∧ StepFailed t 5)) ∧
    (s.inStep 3 = true → ∀ a b : BitVec 3,
      ((∀ c : Nat, c < 3 → (a.getLsbD c = true ∧ (s.fw (c + 1)).a.isSome = true) ∨ (b.getLsbD c = true ∧ (s.fw (c + 1)).b.isSome = true)) →
        ∃ t, exec (.firmwareCheck a b) s = .next t ∧ StepEnded s t 3 ∧ ∀ c : Nat, c < 3 → let x := s.fw (c + 1)
          Tbl.get false t.boot.banks c = (if b.getLsbD c = true ∧ x.b.isSome = true then (if a.getLsbD c = true ∧ x.a.isSome = true then x.bNewer else true) else false)) ∧
      (∀ c : Nat, c < 3 → (∀ k : Nat, k < c → a.getLsbD k = true ∧ (s.fw (k + 1)).a.isSome = true) → a.getLsbD c = false ∨ (s.fw (c + 1)).a = none → b.getLsbD c = false ∨ (s.fw (c + 1)).b = none →
        ∃ t, exec (.firmwareCheck a b) s = .next t ∧ StepFailed t (c + 1))) ∧
    (s.inStep 4 = true → s.boot.rails = true → ∀ c0 c1 : Option FuseMap, ∀ h,
      (∀ m, c0 = some m ∨ (c0 = none ∧ c1 = some m) → ∃ t, exec (.fuseLoad c0 c1 h) s = .next t ∧ StepEnded s t 4 ∧ t.boot.fuse = some m ∧ t.hif.configured = true ∧
        (∀ r : Nat, r < 5 → (t.clk r).locked = true ∧ (t.clk r).now = 0) ∧ t.boot.coldNext = false ∧ t.cores = s.cores ∧ t.mem = s.mem) ∧
      (c0 = none → c1 = none → ∃ t, exec (.fuseLoad c0 c1 h) s = .next t ∧ StepFailed t 4)) ∧
    (s.inStep 5 = true → s.boot.warm = false → ∀ x : SweepResult, x.first = 0 → x.second = 0 → ∃ t, exec (.seamCalibration [x]) s = .next t ∧ StepEnded s t 5 ∧
      (t.bundle (x.seam.val * 220 + x.pos.val)).failed = true ∧ ∀ k, k < 3300 → k ≠ x.seam.val * 220 + x.pos.val → (t.bundle k).failed = false ∧ (t.bundle k).retuning = false) ∧
    (s.inStep 6 = true → ∀ (ps : List Site) (ks : List (Fin 6)), ∃ t, exec (.plotAndOrangeryTraining ps ks) s = .next t ∧ StepEnded s t 6 ∧
      (∀ i : Site, (t.site i).vchOk = ((s.site i).vchOk && decide (i ∉ ps))) ∧ ∀ k : Fin 6, (t.stack k).linkUp = decide (k ∉ ks)) ∧
    (s.inStep 7 = true → ∀ (dark : List (BitVec 10)) (bad : List (BitVec 10 × BitVec 10)),
      let g := formGraph s (dark.map (·.toNat)) (s.tr.badLinks ++ bad.map (fun e => (e.1.toNat, e.2.toNat)))
      (g.tr.connected = true → ∃ t, exec (.trellisStart dark bad) s = .next t ∧ StepEnded s t 7 ∧ t.tr = g.tr ∧ ∀ i, i < 880 → (t.site i).niOk = (g.router i).present)) ∧
    (s.inStep 8 = true → ∀ got bad : List Site, ∃ t, exec (.coreFirmware got bad) s = .next t ∧ t = { s with boot := t.boot } ∧ StepEnded s t 8 ∧ t.boot.fallback = got.dedup.length ∧
      ∀ i : Site, i.val ∈ t.boot.coreFails ↔ i ∈ bad)

/-- A routing graph that is not connected at step 7 stops bring-up with `FATAL` and `FAIL` = 0x06 (R462). -/
def Obligations.UnconnectedGraphFails : Prop :=
  ∀ (s : State) (dark : List (BitVec 10)) (bad : List (BitVec 10 × BitVec 10)), s.inStep 7 = true →
    (formGraph s (dark.map (·.toNat)) (s.tr.badLinks ++ bad.map (fun e => (e.1.toNat, e.2.toNat)))).tr.connected = false →
    ∃ t, exec (.trellisStart dark bad) s = .next t ∧ StepFailed t 6

/-- The row's map assigns its lowest 20 usable sites in column order to its logical columns, or none where fewer are usable (R23, R24). -/
def Sys2Proof.Machine.RowMapped (s t : State) (cl : Nat) : Prop :=
  let us := (List.range 22).filter (fun c => (s.site (rowSite cl c)).usable)
  ∀ c, c < 22 → ((t.site (rowSite cl c)).state = 1 ↔ 20 ≤ us.length ∧ c ∈ us.take 20) ∧
    ((t.site (rowSite cl c)).state = 1 → us[(t.site (rowSite cl c)).lcol.toNat]? = some c)

/-- Steps 9 to 12: the memory test leaves memory zero and each site passed or failed; a fault found takes a spare where its bank has one; the logical map assigns every row, and fails bring-up with code 7 where none is left; training of the Cuffs ends with the part ready. A row with a
pending change is mapped again at its next job boundary (R23, R464 to R469, R475). -/
def Sys2Proof.Machine.BringUpEnds : Prop :=
  ∀ s : State,
    (s.inStep 9 = true → ∀ (failed : List Site) (ws : List WordFault), ∃ t, exec (.memoryTest failed ws) s = .next t ∧ StepEnded s t 9 ∧ (∀ a, t.byte a = 0) ∧ NoErrors t ∧
      t.boot.tests = faultList ws ∧ t.boot.faults = (faultList ws).length ∧
      ∀ i : Site, (t.site i).passed = ((s.router i).present && (s.site i).vchOk && !s.boot.coreFails.contains i.val && decide (i ∉ failed))) ∧
    (s.inStep 10 = true → (∀ m, s.boot.fuse = some m → m.repairs = []) → s.softMap = [] → s.boot.warm = false → ∀ r, s.boot.tests = [r] → r ∉ s.boot.repairs →
      (r.kind < 8 → s.sparesTaken r.kind r.unit r.bank < sparesOf r.kind → ∃ t, exec .repair s = .next t ∧ t = { s with boot := t.boot } ∧ StepEnded s t 10 ∧
        t.boot.repairs = s.boot.repairs ++ [r] ∧ t.boot.spares = 1) ∧
      (r.kind = 8 → ∃ t, exec .repair s = .next t ∧ StepEnded s t 10 ∧ (t.site r.unit).retired = true ∧ ∀ i, i ≠ r.unit → t.site i = s.site i)) ∧
    (s.inStep 11 = true →
      ((∃ cl, cl < 40 ∧ 20 ≤ ((List.range 22).filter (fun c => (s.site (rowSite cl c)).usable)).length) → ∃ t, exec .logicalMapBuild s = .next t ∧ StepEnded s t 11 ∧
        (∀ cl, cl < 40 → RowMapped s t cl) ∧ (∀ i, i < 880 → ((t.sitePwr i).dom = .on ↔ (t.site i).state = 1)) ∧ (∀ r, r < 5 → (t.clk r).fmax = t.fmaxRule r) ∧ t.mem = s.mem) ∧
      ((∀ cl, cl < 40 → ((List.range 22).filter (fun c => (s.site (rowSite cl c)).usable)).length < 20) → ∃ t, exec .logicalMapBuild s = .next t ∧ StepFailed t 7)) ∧
    (s.inStep 12 = true → ∀ bad : List (Fin 64), ∃ t, exec (.cuffTraining bad) s = .next t ∧ t.boot.ready = true ∧ t.boot.phase = 0 ∧ t.boot.fatal = false ∧ t.cores = s.cores ∧ t.mem = s.mem ∧
      ∀ c : Nat, (t.cuff c).failed = ((s.cuff c).failed || bad.any (fun l => l.val / 8 = c))) ∧
    (∀ cl : Fin 40, (Tbl.get false s.rowPending cl = true → s.rowTaken cl = false → s.boot.ready = true → s.mem.merges = [] → ∃ t, exec (.jobBoundary cl) s = .next t ∧ RowMapped s t cl ∧
        t.rowPending = Tbl.set false s.rowPending cl false ∧ t.boot.remaps = satAdd s.boot.remaps 1 ∧ cl.val ∈ t.tr.updRows ∧ (t.clk (regionOf cl)).fmax = t.fmaxRule (regionOf cl) ∧ t.jobs = s.jobs) ∧
      (Tbl.get false s.rowPending cl = false ∨ s.rowTaken cl = true → exec (.jobBoundary cl) s = .next s))

/-- Bring-up, step by step (R23, R24, R456 to R469, R471, R474, R475). -/
def Obligations.BringUp : Prop :=
  BringUpStarts ∧ BringUpEnds

/-! ## Temperature, health and the board controller -/

/-- Samples and estimates: a reading that has not moved by more than 30 °C per ms is accepted as its sensor's latest, and another is discarded, the eighth in a row making the sensor suspect; an external input out of range has failed; an Orangery point above its trip threshold trips the part; an
update gives every cell its estimate, mixed with its neighbours' once there is one (R430 to R436, R445, R446). -/
def Sys2Proof.Machine.SamplesAndEstimates : Prop :=
  (∀ (s : State) (p : Fin 1348) (a b : Int), s.boot.vinAux = true → let x := s.sensor p 0
    let moved := x.last.any (fun l => 480 * (s.auxNs - l.1) < (a - l.2).natAbs * 1000000)
    (p.val < 1344 → moved = false → ∃ t, exec (.sensorSample p a b) s = .next t ∧ (t.sensor p 0).last = some (s.auxNs, a) ∧ (t.sensor p 0).discarded = 0 ∧ t.flash = s.flash) ∧
    (p.val < 1344 → moved = true → ∃ t, exec (.sensorSample p a b) s = .next t ∧ (t.sensor p 0).last = x.last ∧ (t.sensor p 0).discarded = x.discarded + 1 ∧
      (t.sensor p 0).suspect = (x.suspect || decide (8 ≤ x.discarded + 1)) ∧ t.thm.discards.toNat ≥ min 0xFFFFFFFF (s.thm.discards.toNat + 1)) ∧
    (1344 ≤ p.val → a < 300 ∨ 150000 < a → ∃ t, exec (.sensorSample p a b) s = .next t ∧ (t.point p).failed = true) ∧
    (1224 ≤ p.val → p.val < 1344 → moved = false → x.suspect = false → (s.point p).failed = false → 8 ≤ (s.point p).accepted → s.thm.tripped = false → 16 * 105 < a →
      ∃ t, exec (.sensorSample p a b) s = .next t ∧ t.thm.tripped = true ∧ t.thm.tripCause.getLsbD 15 = true ∧ t.cores = [] ∧ t.jobs = [] ∧ t.hif.linkUp = false ∧ t.boot.ready = false)) ∧
  (∀ (s : State) (mw : List Nat), s.boot.vinAux = true → ∃ t, exec (.estimateStep mw) s = .next t ∧ t.thm.estimated = true ∧ ∀ h x, h < 13 → x < 220 →
    let step (y : Nat) : Rat := (s.cell h y).est + 1 / (10 * Config.heatTau h) * (s.steadyTemp mw h y - (s.cell h y).est)
    (t.cell h x).est = if s.thm.estimated then 3 / 4 * step x + 1 / 4 * ratMean ((posNeighbours x).map step) else s.steadyTemp mw h x)

/-- Throttling: a region without a steep rise raises its duty by 4 above the first threshold and to 48 above the second, and lowers it by 2 when it has been cool for 1 ms; its clock limit falls by 4 codes above the second threshold, by one after 10 ms at duty 16, and rises by one after 10 ms of calm (R439, R440). -/
def Sys2Proof.Machine.Throttling : Prop :=
  ∀ (s : State) (r : Fin 5) (ten : Bool), s.down = false → let x := s.therm r
    let cool := (s.hottest (throttleCells r)).any (fun v => v ≤ ((16 * (93 - s.thLower) : Int) : Rat))
    ((∀ c ∈ throttleCells r ++ dramCells r, (s.cell c.1 c.2).rise = false) → x.riseUntil ≤ s.us → ∃ t, exec (.thermalStep r) s = .next t ∧
      (t.therm r).pt = (if s.above r 102 = true then max x.pt 48 else if s.above r 95 = true then min 64 (x.pt + 4) else if cool = true ∧ x.lastDown + 1000 ≤ s.us then x.pt - 2 else x.pt) ∧
      (∀ k : Nat, k ≠ r.val → t.therm k = s.therm k) ∧ t.cores = s.cores ∧ t.mem = s.mem ∧ t.regions = s.regions) ∧
    (∃ t, exec (.tclkLimStep r ten) s = .next t ∧ t = { s with thm := { s.thm with regions := t.thm.regions } } ∧ (∀ k : Nat, k ≠ r.val → t.therm k = s.therm k) ∧
      t.therm r = { x with lim := if s.above r 102 = true then x.lim - 4 else if x.highSince ≠ 0 ∧ x.highSince - 1 + 10000 ≤ s.us then x.lim - 1
        else if ten = true ∧ x.calmSince ≠ 0 ∧ x.calmSince - 1 + 10000 ≤ s.us then min 40 (x.lim + 1) else x.lim })

/-- Temperature samples, estimates and throttling (R430 to R436, R439, R440, R445, R446). -/
def Obligations.Temperatures : Prop :=
  SamplesAndEstimates ∧ Throttling

/-- Holds, flags and the restart: a sensor that has trailed its estimate for 50 ms is suspect; a pair's flag flips after 100 samples against it; held writes drain once their plot may be written; the inlet warning rises after 10 s out of range; a tripped part that has been cool for 10 s restarts at step 2
(R431 to R435, R441, R448, R450). -/
def Sys2Proof.Machine.HoldsAndRestart : Prop :=
  ∀ s : State,
    (∀ (p : Fin 1200) (b : Bool), let k := b2n (b && p.val < 880)
      let x := s.sensor p k
      (x.trails ≠ 0 → x.trails - 1 + 50000000 ≤ s.auxNs → ∃ t, exec (.sensorSuspect p b) s = .next t ∧ (t.sensor p k).suspect = true) ∧
      (x.trails = 0 ∨ s.auxNs < x.trails - 1 + 50000000 → exec (.sensorSuspect p b) s = .next s)) ∧
    (∀ i : Site, (100 ≤ (s.point i).pairRun → ∃ t, exec (.pairDis i) s = .next t ∧ t.point i = { s.point i with pairDis := !(s.point i).pairDis, pairRun := 0 } ∧
        (∀ k : Nat, k ≠ i.val → t.point k = s.point k) ∧ t.cores = s.cores ∧ t.mem = s.mem) ∧ ((s.point i).pairRun < 100 → exec (.pairDis i) s = .next s)) ∧
    (∀ i : Site, exec (.heldWriteDrain i) s = .next (if Tbl.get false s.mem.hot i then s else { s with mem := { s.mem with held := s.mem.held.filter (fun h => h.site ≠ i.val) } })) ∧
    (s.thm.inletSince ≠ 0 → s.thm.inletSince - 1 + 10000000 ≤ s.auxUs → s.thm.inletRange = false → ∃ t, exec .inletRange s = .next t ∧ t.thm = { s.thm with inletRange := true } ∧ t.cores = s.cores ∧ t.mem = s.mem) ∧
    (s.thm.tripped = true → s.thm.coolSince ≠ 0 → s.thm.coolSince - 1 + 10000000 ≤ s.auxUs → s.boot.vinAux = true → s.boot.clockLost = false → exec .tripRestart s = .next { s with
      thm := { s.thm with tripped := false, restarted := true, coolSince := 0 }, boot := { s.boot with cause := 5, railLost := false, phase := 2, since := s.ticks } }) ∧
    (s.thm.tripped = false → exec .tripRestart s = .next s)

/-- Coolant: a plane's first evaluation in steady power gives its ratio from the mean of its hot cells over the inlet, and the flags of R451 follow it; the implied flow follows package power over the rise of the coolant, and the low-flow flag flips after 60 evaluations against it (R451, R452). -/
def Sys2Proof.Machine.Coolant : Prop :=
  (∀ (s : State) (p : Fin 3) (mw : Nat) (ti : Int) (f : FuseMap), let hs := (hotCells p).filterMap (fun c => (s.ruling c.1 c.2).map (·.v))
    let x := Tbl.get Plane.init s.thm.planes p
    s.inlet = some ti → s.boot.fuse = some f → s.steadyPower = true → 0 < mw → hs.length = (hotCells p).length → 0 < f.theta.getD p 0 → x.evals = [] →
    let r : Rat := (ratMean hs - ti) / 16 / ((mw : Rat) / 1000) * 100000 / (f.theta.getD p 0 : Rat)
    ∃ t, exec (.coolantEvaluation p mw) s = .next t ∧ (Tbl.get Plane.init t.thm.planes p).ratio = r ∧ (∀ k : Nat, k ≠ p.val → Tbl.get Plane.init t.thm.planes k = Tbl.get Plane.init s.thm.planes k) ∧
      (x.severe = false → (Tbl.get Plane.init t.thm.planes p).severe = decide ((s.degrSevere : Rat) / 1000 ≤ r)) ∧ t.cores = s.cores ∧ t.mem = s.mem) ∧
  (∀ (s : State) (i o : Int), s.pointValue 1344 = some i → s.pointValue 1345 = some o →
    (s.pwr.part.last < 2000 ∨ o - i < 32 → exec .flowEvaluation s = .next { s with thm := { s.thm with flowRun := 0 } }) ∧
    (2000 ≤ s.pwr.part.last → 32 ≤ o - i → let f : Rat := 24 * (s.pwr.part.last : Rat) / ((o - i : Int) : Rat)
      let low := decide (f < 10 * (s.flowWarn : Rat))
      ∃ t, exec .flowEvaluation s = .next t ∧ t.cores = s.cores ∧ t.mem = s.mem ∧ t.thm = { s.thm with
        flow := f, flowRun := if low = s.thm.lowFlow ∨ 59 ≤ s.thm.flowRun then 0 else s.thm.flowRun + 1
        lowFlow := if low ≠ s.thm.lowFlow ∧ 59 ≤ s.thm.flowRun then low else s.thm.lowFlow }))

/-- Wear: a drift measurement enters the last five of its site, and the guardband never falls, never exceeds the larger of itself and 60 mV, and rises by at most 5 mV; chain and regulator measurements are kept, saturating; a lowered limit takes effect while no job occupies its region; the life's bound never exceeds the
life; the health record gains 24 h and is a model from 720 h on (R489 to R497, R503). -/
def Sys2Proof.Machine.Wear : Prop :=
  ∀ s : State,
    (∀ (i : Site) (a b : Nat), 0 < b → (s.sitePwr i).dom = .on → s.hlt.recordOk = false → let d : Rat := 1000000 * (1 - (a : Rat) / (b : Rat) / Config.driftR0 i)
      let gb := (s.sitePwr i).ageGb
      ∃ t, exec (.driftMeasurement i a b) s = .next t ∧ (t.siteHlt i).drifts = ((s.siteHlt i).drifts ++ [d]).drop ((s.siteHlt i).drifts.length - 4) ∧
        gb ≤ (t.sitePwr i).ageGb ∧ (t.sitePwr i).ageGb ≤ gb + 5 ∧ (t.sitePwr i).ageGb ≤ max gb 60 ∧ (∀ k : Nat, k ≠ i.val → t.sitePwr k = s.sitePwr k ∧ t.siteHlt k = s.siteHlt k) ∧
        t.cores = s.cores ∧ t.mem = s.mem ∧ t.jobs = s.jobs) ∧
    (∀ (j : Fin 15) (n : Nat), ∃ t, exec (.tsvChainMeasurement j n) s = .next t ∧ (Tbl.get SeamHealth.init t.seams j) = { Tbl.get SeamHealth.init s.seams j with ratio := min 4095 n } ∧
      (∀ k : Nat, k ≠ j.val → Tbl.get SeamHealth.init t.seams k = Tbl.get SeamHealth.init s.seams k) ∧ (n < 1200 → t = { s with seams := t.seams })) ∧
    (∀ (i : Site) (n : Nat), ∃ t, exec (.regulatorEfficiencyMeasurement i n) s = .next t ∧ t.siteHlt i = { s.siteHlt i with eff := min 255 n } ∧ (∀ k : Nat, k ≠ i.val → t.siteHlt k = s.siteHlt k) ∧
      (n < 30 → t = { s with hlt := { s.hlt with sites := t.hlt.sites } })) ∧
    (∀ r : Fin 5, let c := Tbl.get 0 s.hlt.lower r
      (c ≠ 0 → s.jobs = [] → ∃ t, exec (.fmaxRegionLower r) s = .next t ∧ t.clk r = { s.clk r with fmax := c - 1 } ∧ (∀ k : Nat, k ≠ r.val → t.clk k = s.clk k) ∧ Tbl.get 0 t.hlt.lower r = 0) ∧
      (c = 0 → exec (.fmaxRegionLower r) s = .next s)) ∧
    (s.boot.ready = true → ∃ t, exec .lifeRecompute s = .next t ∧ fld t.hlt.life 31 16 ≤ fld t.hlt.life 15 0 ∧ (∀ i, i < 880 → (t.siteHlt i).bound ≤ (t.siteHlt i).life) ∧ t.cores = s.cores ∧ t.mem = s.mem) ∧
    (s.boot.kiosk = true → let hours := (s.flash.health.map (·.hours)).getD 0 + 24
      ∃ t r, exec .healthRecordWrite s = .next t ∧ t = { s with flash := { s.flash with health := some r }, hlt := { s.hlt with modelReady := decide (720 ≤ hours) } } ∧ r.hours = hours ∧
        ∀ i, i < 880 → Tbl.get 0 r.ageGb i = (s.sitePwr i).ageGb)

/-- Holds and restarts, the coolant, and wear (R431 to R435, R441, R448, R450 to R452, R489 to R497, R503). -/
def Obligations.HoldsCoolantWear : Prop :=
  HoldsAndRestart ∧ Coolant ∧ Wear

/-- The board controller path on a binding that is served: assignments and queries of the endpoint ID, other requests and readings are answered to their sender by the binding they came by; the event receiver is set and polls return the oldest held event; an image's bytes land in the bank not in use, which a verification makes the
newer one, and a failed one erases; sensors update with their measured values; held events are sent again after 5 s until accepted (R391 to R393). -/
def Obligations.BoardController : Prop :=
  ∀ (s : State) (i3c : Bool) (src : Byte),
    (s.mctpUp i3c = true →
      let answered (i : Instr) (u : State) (b : MctpBody) : Prop :=
        exec i s = .next { u with ksk := { u.ksk with sent := u.ksk.sent ++ [{ i3c := i3c, dst := src, body := b }] } }
      (∀ e, answered (.mctpControl i3c src (.setEid e)) { s with ksk := { s.ksk with eid := e } } (.eid e)) ∧ answered (.mctpControl i3c src .getEid) s (.eid s.ksk.eid) ∧
      (∀ c d, answered (.mctpControl i3c src (.control c d)) s (.answer 0 c d)) ∧ (∀ y, answered (.mctpControl i3c src (.other y)) s (.unsupported y)) ∧
      (∀ k, answered (.pldmRequest i3c src (.reading k)) s (.reading k.toNat (Tbl.get none s.ksk.sensors k.toNat))) ∧
      (∀ (p : Bool) c d, answered (.pldmRequest i3c src (.other p c d)) s (.answer (if p then 2 else 0) c d)) ∧
      (∀ r : Byte, answered (.setEventReceiver i3c src (some r)) { s with ksk := { s.ksk with receiver := some (i3c, r) } } .receiver) ∧
      (∀ x rest, s.ksk.receiver = none → s.events.queue = x :: rest →
        answered (.pollForPlatformEventMessage i3c src) { s with events := { s.events with queue := rest } } (.poll (some x.ev))) ∧
      (s.ksk.receiver.isSome = true ∨ s.events.queue = [] → answered (.pollForPlatformEventMessage i3c src) s (.poll none)) ∧
      (∀ (c : Fin 3), let n := c.val + 1
        let x := s.fw n
        (∀ (o : Word) (d : List Byte), ∃ t, exec (.firmwareUpdate i3c src c o d) s = .next t ∧ (∀ k, k ≠ n → t.fw k = s.fw k) ∧ (t.fw n).staged = false ∧
          (if s.runsB n then (t.fw n).a = none ∧ (t.fw n).b = x.b else (t.fw n).b = none ∧ (t.fw n).a = x.a) ∧
          ∀ i, Tbl.get 0 (t.fw n).image i = if o.toNat ≤ i ∧ i < o.toNat + d.length then d.getD (i - o.toNat) 0 else if o = 0 then 0 else Tbl.get 0 x.image i) ∧
        (∀ (v : Word) (ok : Bool), ∃ t, exec (.verifyComplete i3c src c v ok) s = .next t ∧ (∀ k, k ≠ n → t.fw k = s.fw k) ∧
          t.fw n = (if s.runsB n then { x with a := if ok then some v else none, staged := ok, bNewer := if ok then false else x.bNewer, image := [] }
            else { x with b := if ok then some v else none, staged := ok, bNewer := if ok then true else x.bNewer, image := [] })))) ∧
    (s.mctpUp i3c = false → exec (.mctpControl i3c src .getEid) s = .next s ∧ exec (.pollForPlatformEventMessage i3c src) s = .next s ∧
      exec (.setEventReceiver i3c src none) s = .next s) ∧
    (∀ a b : Half, ∃ t, exec (.sensorUpdate a b) s = .next t ∧ t.thm = s.thm ∧ t.pwr = s.pwr ∧ t.cores = s.cores ∧ t.mem = s.mem ∧ Tbl.get none t.ksk.sensors 1 = s.pointValue 1344 ∧
      Tbl.get none t.ksk.sensors 2 = s.pointValue 1345 ∧ Tbl.get none t.ksk.sensors 9 = some (s.pwr.part.last : Int) ∧ Tbl.get none t.ksk.sensors 10 = some (a.toNat : Int) ∧
      Tbl.get none t.ksk.sensors 11 = some (b.toNat : Int) ∧ Tbl.get none t.ksk.sensors 12 = some (s.pwr.part.cap : Int)) ∧
    (∀ r x, s.ksk.receiver = some r → s.events.queue = [x] → let due := x.sentAt = 0 ∨ x.sentAt - 1 + 5000000 ≤ s.auxUs
      (due → exec .platformEventResend s = .next { s with ksk := { s.ksk with sent := s.ksk.sent ++ [{ i3c := r.1, dst := r.2, body := .event x.ev }] }, events := { s.events with
        queue := [{ x with sentAt := s.auxUs + 1 }] } }) ∧
      (¬ due → exec .platformEventResend s = .next s)) ∧
    (∀ i : Half, s.ksk.receiver.isSome = true → exec (.platformEventAccept i) s = .next { s with events := { s.events with queue := s.events.queue.eraseIdx i.toNat } })

/-! ## The whole part -/

/-- The words of bank units and row units: a word decodes to a command of a unit exactly when it is that command's encoding, so every
operand at every value comes back, and no bit of a word is dropped (R271, R276, Tables 9.7, 9.9). -/
def Obligations.UnitWordsRoundTrip : Prop :=
  (∀ (w : Word) (u : BankUnit) (i : Instr), decodeBank u w = some i ↔ encodeBank i = some (u, w)) ∧
  (∀ (w : Word) (u : RowUnit) (i : Instr), decodeRow u w = some i ↔ encodeRow i = some (u, w))

/-- The slots of a bundle: a slot's bits decode to a command of the core exactly when they are that command's encoding, for the ARRAY
slot with and without a line-port transfer, either FEED slot, the VECTOR, MOVE and GATE slots; of the GATE slot, for words that pass
the rules that validation reports with `IMG_STRUCT` (R80, R81, R104, R139 to R141, Tables 3.1, 4.1, 4.7, 5.9, 5.10, 6.7). -/
def Obligations.BundleSlotsRoundTrip : Prop :=
  (∀ (lc : Lc) (n : Nat) (cs : List Instr), n < 2 ^ 48 → (decodeArray lc n = some cs ↔ ∃ p x, encodePrimary p = some (lc, x) ∧
    ((cs = [p] ∧ n = x) ∨ ∃ q y, encodePort q = some (lc, y) ∧ cs = [p, q] ∧ n = x + y))) ∧
  (∀ (lc : Lc) (f : Feed) (n : Nat) (i : Instr), n < 2 ^ 80 → (decodeFeed lc f n = some i ↔ encodeFeed i = some (lc, f, n))) ∧
  (∀ (lc : Lc) (n : Nat) (i : Instr), n < 2 ^ 112 → (decodeVector lc n = some i ↔ encodeVector i = some (lc, n))) ∧
  (∀ (lc : Lc) (n : Nat) (i : Instr), n < 2 ^ 112 → (decodeMove lc n = some i ↔ encodeMove i = some (lc, n))) ∧
  (∀ (lc : Lc) (n : Nat) (i : Instr), n < 2 ^ 80 → (decodeGate lc n = some i ∧ gateStruct n = true ↔ encodeGate i = some (lc, n)))

/-- No command stops the part: every command answers a next state, and leaves the queue of waiting commands as it was. The queue is
the model's own; that every command has an effect is the spec's. -/
def Obligations.EveryCommandCompletes : Prop :=
  ∀ (c : Instr) (s : State), ∃ t, exec c s = .next t ∧ t.pending = s.pending

/-- Every step keeps device memory and the host's memory in canonical form: addresses rise strictly and no entry equals what an
unlisted address reads as. The form is the model's own; it makes equal memories equal data. -/
def Obligations.StepKeepsMemory : Prop :=
  ∀ s t : State, Memory.wf s.mem = true → Tbl.wf 0 s.hostMem = true → step s = .next t →
    Memory.wf t.mem = true ∧ Tbl.wf 0 t.hostMem = true

/-- The memories that the part starts from have that form. -/
def Obligations.ResetMemory : Prop := Memory.wf State.reset.mem = true ∧ Tbl.wf 0 State.reset.hostMem = true
end

