-- ==== Sys2Proof/Laws/Tbl.lean ====
section
/-! SUPPORT. Laws of sparse tables: what a read gives after a write, and that every table operation keeps the canonical form
(keys strictly rising, no entry equal to the default). -/

namespace Sys2Proof.Machine

variable {α : Type}

/-! ## Reads after writes -/

@[simp] theorem Tbl.get_nil (d : α) (k : Nat) : Tbl.get d [] k = d := rfl

theorem Tbl.get_erase_same (d : α) (t : Tbl α) (k : Nat) : Tbl.get d (Tbl.erase t k) k = d := by
  induction t with
  | nil => rfl
  | cons e t ih =>
    obtain ⟨a, v⟩ := e
    by_cases h : a = k
    · simpa [Tbl.erase, h] using ih
    · simpa [Tbl.erase, h, Tbl.get] using ih

theorem Tbl.get_erase_other (d : α) (t : Tbl α) {k j : Nat} (h : j ≠ k) : Tbl.get d (Tbl.erase t k) j = Tbl.get d t j := by
  induction t with
  | nil => rfl
  | cons e t ih =>
    obtain ⟨a, v⟩ := e
    by_cases ha : a = k
    · subst ha
      simpa [Tbl.erase, Tbl.get, Ne.symm h] using ih
    · by_cases hj : a = j
      · simp [Tbl.erase, Tbl.get, hj, h]
      · simpa [Tbl.erase, ha, Tbl.get, hj] using ih

theorem Tbl.get_insert_same (d : α) (t : Tbl α) (k : Nat) (v : α) : Tbl.get d (Tbl.insert k v t) k = v := by
  induction t with
  | nil => simp [Tbl.insert, Tbl.get]
  | cons e t ih =>
    obtain ⟨a, w⟩ := e
    by_cases h : k ≤ a
    · simp [Tbl.insert, h, Tbl.get]
    · have ha : a ≠ k := by omega
      simpa [Tbl.insert, h, Tbl.get, ha] using ih

theorem Tbl.get_insert_other (d : α) (t : Tbl α) {k j : Nat} (v : α) (h : j ≠ k) :
    Tbl.get d (Tbl.insert k v t) j = Tbl.get d t j := by
  induction t with
  | nil => simp [Tbl.insert, Tbl.get, Ne.symm h]
  | cons e t ih =>
    obtain ⟨a, w⟩ := e
    by_cases hk : k ≤ a
    · simp [Tbl.insert, hk, Tbl.get, Ne.symm h]
    · by_cases hj : a = j
      · subst hj
        simp [Tbl.insert, hk, Tbl.get]
      · simpa [Tbl.insert, hk, Tbl.get, hj] using ih

variable [DecidableEq α]

/-- A read of the key just written gives the value written. -/
@[simp] theorem Tbl.get_set_same (d : α) (t : Tbl α) (k : Nat) (v : α) : Tbl.get d (Tbl.set d t k v) k = v := by
  by_cases h : v = d
  · simp [Tbl.set, h, Tbl.get_erase_same]
  · simp [Tbl.set, h, Tbl.get_insert_same]

/-- A write leaves every other key alone. -/
theorem Tbl.get_set_other (d : α) (t : Tbl α) {k j : Nat} (v : α) (h : j ≠ k) :
    Tbl.get d (Tbl.set d t k v) j = Tbl.get d t j := by
  by_cases hv : v = d
  · simp [Tbl.set, hv, Tbl.get_erase_other d t h]
  · simp [Tbl.set, hv, Tbl.get_insert_other d _ v h, Tbl.get_erase_other d t h]

theorem Tbl.get_set (d : α) (t : Tbl α) (k j : Nat) (v : α) :
    Tbl.get d (Tbl.set d t k v) j = if j = k then v else Tbl.get d t j := by
  by_cases h : j = k
  · subst h; simp
  · simp [h, Tbl.get_set_other d t v h]

theorem Tbl.get_modify (d : α) (t : Tbl α) (k j : Nat) (f : α → α) :
    Tbl.get d (Tbl.modify d t k f) j = if j = k then f (Tbl.get d t k) else Tbl.get d t j := Tbl.get_set d t k j _

/-- What a read gives after a run of values was written: the value of the run inside it, the old value outside. -/
theorem Tbl.get_setMany (d : α) (vs : List α) (t : Tbl α) (k j : Nat) :
    Tbl.get d (Tbl.setMany d t k vs) j = if h : k ≤ j ∧ j < k + vs.length then vs[j - k]'(by omega) else Tbl.get d t j := by
  induction vs generalizing t k with
  | nil =>
    have h : ¬ (k ≤ j ∧ j < k + ([] : List α).length) := by simp
    rw [dif_neg h]
    rfl
  | cons v vs ih =>
    rw [Tbl.setMany, ih]
    by_cases h1 : k + 1 ≤ j ∧ j < k + 1 + vs.length
    · have h2 : k ≤ j ∧ j < k + (v :: vs).length := by simp; omega
      rw [dif_pos h1, dif_pos h2]
      have e : j - k = (j - (k + 1)) + 1 := by omega
      simp [e]
    · rw [dif_neg h1, Tbl.get_set]
      by_cases hk : j = k
      · subst hk; simp
      · have h2 : ¬ (k ≤ j ∧ j < k + (v :: vs).length) := by simp; omega
        rw [dif_neg h2]; simp [hk]

/-! ## The canonical form -/

theorem Tbl.wf_nil (d : α) : Tbl.wf d ([] : Tbl α) = true := rfl

theorem Tbl.wf_cons (d : α) (k : Nat) (v : α) (t : Tbl α) :
    Tbl.wf d ((k, v) :: t) = true ↔ v ≠ d ∧ (∀ e ∈ t, k < e.1) ∧ Tbl.wf d t = true := by
  simp [Tbl.wf, and_assoc]

theorem Tbl.wf_filter (d : α) (p : Nat × α → Bool) (t : Tbl α) (h : Tbl.wf d t = true) : Tbl.wf d (t.filter p) = true := by
  induction t with
  | nil => rfl
  | cons e t ih =>
    obtain ⟨k, v⟩ := e
    rw [Tbl.wf_cons] at h
    by_cases hp : p (k, v) = true
    · rw [List.filter_cons_of_pos hp, Tbl.wf_cons]
      exact ⟨h.1, fun e he => h.2.1 e (List.mem_filter.mp he).1, ih h.2.2⟩
    · rw [List.filter_cons_of_neg hp]
      exact ih h.2.2

omit [DecidableEq α] in
theorem Tbl.mem_insert {k : Nat} {v : α} {t : Tbl α} {e : Nat × α} (h : e ∈ Tbl.insert k v t) : e = (k, v) ∨ e ∈ t := by
  induction t with
  | nil => simpa [Tbl.insert] using h
  | cons x t ih =>
    obtain ⟨a, w⟩ := x
    by_cases hk : k ≤ a
    · simpa [Tbl.insert, hk] using h
    · simp only [Tbl.insert, hk, if_false, List.mem_cons] at h
      rcases h with h | h
      · exact .inr (by simp [h])
      · rcases ih h with h | h
        · exact .inl h
        · exact .inr (by simp [h])

theorem Tbl.wf_insert (d : α) {k : Nat} {v : α} {t : Tbl α} (hv : v ≠ d) (hk : ∀ e ∈ t, e.1 ≠ k) (h : Tbl.wf d t = true) :
    Tbl.wf d (Tbl.insert k v t) = true := by
  induction t with
  | nil => simp [Tbl.insert, hv, Tbl.wf]
  | cons x t ih =>
    obtain ⟨a, w⟩ := x
    have hw := (Tbl.wf_cons d a w t).mp h
    have hak : a ≠ k := hk (a, w) (by simp)
    by_cases hle : k ≤ a
    · rw [show Tbl.insert k v ((a, w) :: t) = (k, v) :: (a, w) :: t by simp [Tbl.insert, hle], Tbl.wf_cons]
      refine ⟨hv, ?_, h⟩
      intro e he
      rcases List.mem_cons.mp he with rfl | he
      · exact Nat.lt_of_le_of_ne hle (Ne.symm hak)
      · have := hw.2.1 e he
        omega
    · rw [show Tbl.insert k v ((a, w) :: t) = (a, w) :: Tbl.insert k v t by simp [Tbl.insert, hle], Tbl.wf_cons]
      refine ⟨hw.1, ?_, ih (fun e he => hk e (by simp [he])) hw.2.2⟩
      intro e he
      rcases Tbl.mem_insert he with rfl | he
      · omega
      · exact hw.2.1 e he

/-- A write keeps the canonical form. -/
theorem Tbl.wf_set (d : α) (t : Tbl α) (k : Nat) (v : α) (h : Tbl.wf d t = true) : Tbl.wf d (Tbl.set d t k v) = true := by
  by_cases hv : v = d
  · rw [Tbl.set, if_pos hv]
    exact Tbl.wf_filter d _ t h
  · rw [Tbl.set, if_neg hv]
    refine Tbl.wf_insert d hv ?_ (Tbl.wf_filter d _ t h)
    intro e he
    simpa using (List.mem_filter.mp he).2

theorem Tbl.wf_modify (d : α) (t : Tbl α) (k : Nat) (f : α → α) (h : Tbl.wf d t = true) :
    Tbl.wf d (Tbl.modify d t k f) = true := Tbl.wf_set d t k _ h

theorem Tbl.wf_setMany (d : α) (vs : List α) (t : Tbl α) (k : Nat) (h : Tbl.wf d t = true) :
    Tbl.wf d (Tbl.setMany d t k vs) = true := by
  induction vs generalizing t k with
  | nil => exact h
  | cons v vs ih => exact ih _ _ (Tbl.wf_set d t k v h)

theorem Tbl.wf_clearRange (d : α) (t : Tbl α) (lo hi : Nat) (h : Tbl.wf d t = true) :
    Tbl.wf d (Tbl.clearRange t lo hi) = true := Tbl.wf_filter d _ t h

theorem Tbl.wf_append (d : α) (t u : Tbl α) (ht : Tbl.wf d t = true) (hu : Tbl.wf d u = true)
    (h : ∀ a ∈ t, ∀ b ∈ u, a.1 < b.1) : Tbl.wf d (t ++ u) = true := by
  induction t with
  | nil => exact hu
  | cons x t ih =>
    obtain ⟨k, v⟩ := x
    have hw := (Tbl.wf_cons d k v t).mp ht
    rw [List.cons_append, Tbl.wf_cons]
    refine ⟨hw.1, ?_, ih hw.2.2 (fun a ha b hb => h a (by simp [ha]) b hb)⟩
    intro e he
    rcases List.mem_append.mp he with he | he
    · exact hw.2.1 e he
    · exact h (k, v) (by simp) e he

/-- A segment of rising keys in [lo, hi) put in place of what stood there keeps the canonical form. -/
theorem Tbl.wf_splice (d : α) (t seg : Tbl α) (lo hi : Nat) (h : Tbl.wf d t = true) (hs : Tbl.wf d seg = true)
    (hr : ∀ e ∈ seg, lo ≤ e.1 ∧ e.1 < hi) (hle : lo ≤ hi) : Tbl.wf d (Tbl.splice t lo hi seg) = true := by
  refine Tbl.wf_append d _ _ (Tbl.wf_append d _ _ (Tbl.wf_filter d _ t h) hs ?_) (Tbl.wf_filter d _ t h) ?_
  · intro a ha b hb
    have := of_decide_eq_true (List.mem_filter.mp ha).2
    have := (hr b hb).1
    omega
  · intro a ha b hb
    have h2 := of_decide_eq_true (List.mem_filter.mp hb).2
    rcases List.mem_append.mp ha with ha | ha
    · have := of_decide_eq_true (List.mem_filter.mp ha).2
      omega
    · have := (hr a ha).2
      omega

end Sys2Proof.Machine
end

