-- ==== Sys2Proof/Laws/State.lean ====
section
/-! SUPPORT. What the named updates of the state leave alone, field by field, and what a read gives after one. -/

namespace Sys2Proof.Machine

/-! ## Fields that an update does not name -/

/-! ### `State.setCore` changes `cores` alone -/

@[simp] theorem State.setCore_sites (s : State) (lc : Nat) (c : Core) : (s.setCore lc c).sites = s.sites := rfl
@[simp] theorem State.setCore_jobs (s : State) (lc : Nat) (c : Core) : (s.setCore lc c).jobs = s.jobs := rfl
@[simp] theorem State.setCore_pace (s : State) (lc : Nat) (c : Core) : (s.setCore lc c).pace = s.pace := rfl
@[simp] theorem State.setCore_sends (s : State) (lc : Nat) (c : Core) : (s.setCore lc c).sends = s.sends := rfl
@[simp] theorem State.setCore_blames (s : State) (lc : Nat) (c : Core) : (s.setCore lc c).blames = s.blames := rfl
@[simp] theorem State.setCore_mem (s : State) (lc : Nat) (c : Core) : (s.setCore lc c).mem = s.mem := rfl
@[simp] theorem State.setCore_orgs (s : State) (lc : Nat) (c : Core) : (s.setCore lc c).orgs = s.orgs := rfl
@[simp] theorem State.setCore_boot (s : State) (lc : Nat) (c : Core) : (s.setCore lc c).boot = s.boot := rfl
@[simp] theorem State.setCore_flash (s : State) (lc : Nat) (c : Core) : (s.setCore lc c).flash = s.flash := rfl
@[simp] theorem State.setCore_hlt (s : State) (lc : Nat) (c : Core) : (s.setCore lc c).hlt = s.hlt := rfl
@[simp] theorem State.setCore_mgmt (s : State) (lc : Nat) (c : Core) : (s.setCore lc c).mgmt = s.mgmt := rfl
@[simp] theorem State.setCore_owner (s : State) (lc : Nat) (c : Core) : (s.setCore lc c).owner = s.owner := rfl
@[simp] theorem State.setCore_ksk (s : State) (lc : Nat) (c : Core) : (s.setCore lc c).ksk = s.ksk := rfl
@[simp] theorem State.setCore_clusters (s : State) (lc : Nat) (c : Core) : (s.setCore lc c).clusters = s.clusters := rfl
@[simp] theorem State.setCore_rowPending (s : State) (lc : Nat) (c : Core) : (s.setCore lc c).rowPending = s.rowPending := rfl
@[simp] theorem State.setCore_regions (s : State) (lc : Nat) (c : Core) : (s.setCore lc c).regions = s.regions := rfl
@[simp] theorem State.setCore_bundles (s : State) (lc : Nat) (c : Core) : (s.setCore lc c).bundles = s.bundles := rfl
@[simp] theorem State.setCore_seams (s : State) (lc : Nat) (c : Core) : (s.setCore lc c).seams = s.seams := rfl
@[simp] theorem State.setCore_retunes (s : State) (lc : Nat) (c : Core) : (s.setCore lc c).retunes = s.retunes := rfl
@[simp] theorem State.setCore_ptn (s : State) (lc : Nat) (c : Core) : (s.setCore lc c).ptn = s.ptn := rfl
@[simp] theorem State.setCore_busy (s : State) (lc : Nat) (c : Core) : (s.setCore lc c).busy = s.busy := rfl
@[simp] theorem State.setCore_pwr (s : State) (lc : Nat) (c : Core) : (s.setCore lc c).pwr = s.pwr := rfl
@[simp] theorem State.setCore_thm (s : State) (lc : Nat) (c : Core) : (s.setCore lc c).thm = s.thm := rfl
@[simp] theorem State.setCore_settings (s : State) (lc : Nat) (c : Core) : (s.setCore lc c).settings = s.settings := rfl
@[simp] theorem State.setCore_rst (s : State) (lc : Nat) (c : Core) : (s.setCore lc c).rst = s.rst := rfl
@[simp] theorem State.setCore_tr (s : State) (lc : Nat) (c : Core) : (s.setCore lc c).tr = s.tr := rfl
@[simp] theorem State.setCore_hif (s : State) (lc : Nat) (c : Core) : (s.setCore lc c).hif = s.hif := rfl
@[simp] theorem State.setCore_sv (s : State) (lc : Nat) (c : Core) : (s.setCore lc c).sv = s.sv := rfl
@[simp] theorem State.setCore_trn (s : State) (lc : Nat) (c : Core) : (s.setCore lc c).trn = s.trn := rfl
@[simp] theorem State.setCore_cuffs (s : State) (lc : Nat) (c : Core) : (s.setCore lc c).cuffs = s.cuffs := rfl
@[simp] theorem State.setCore_fab (s : State) (lc : Nat) (c : Core) : (s.setCore lc c).fab = s.fab := rfl
@[simp] theorem State.setCore_hostMem (s : State) (lc : Nat) (c : Core) : (s.setCore lc c).hostMem = s.hostMem := rfl
@[simp] theorem State.setCore_hostBad (s : State) (lc : Nat) (c : Core) : (s.setCore lc c).hostBad = s.hostBad := rfl
@[simp] theorem State.setCore_notes (s : State) (lc : Nat) (c : Core) : (s.setCore lc c).notes = s.notes := rfl
@[simp] theorem State.setCore_events (s : State) (lc : Nat) (c : Core) : (s.setCore lc c).events = s.events := rfl
@[simp] theorem State.setCore_ticks (s : State) (lc : Nat) (c : Core) : (s.setCore lc c).ticks = s.ticks := rfl
@[simp] theorem State.setCore_held (s : State) (lc : Nat) (c : Core) : (s.setCore lc c).held = s.held := rfl
@[simp] theorem State.setCore_draws (s : State) (lc : Nat) (c : Core) : (s.setCore lc c).draws = s.draws := rfl
@[simp] theorem State.setCore_pending (s : State) (lc : Nat) (c : Core) : (s.setCore lc c).pending = s.pending := rfl

/-! ### `State.modCore` changes `cores` alone -/

@[simp] theorem State.modCore_sites (s : State) (lc : Nat) (f : Core → Core) : (s.modCore lc f).sites = s.sites := rfl
@[simp] theorem State.modCore_jobs (s : State) (lc : Nat) (f : Core → Core) : (s.modCore lc f).jobs = s.jobs := rfl
@[simp] theorem State.modCore_pace (s : State) (lc : Nat) (f : Core → Core) : (s.modCore lc f).pace = s.pace := rfl
@[simp] theorem State.modCore_sends (s : State) (lc : Nat) (f : Core → Core) : (s.modCore lc f).sends = s.sends := rfl
@[simp] theorem State.modCore_blames (s : State) (lc : Nat) (f : Core → Core) : (s.modCore lc f).blames = s.blames := rfl
@[simp] theorem State.modCore_mem (s : State) (lc : Nat) (f : Core → Core) : (s.modCore lc f).mem = s.mem := rfl
@[simp] theorem State.modCore_orgs (s : State) (lc : Nat) (f : Core → Core) : (s.modCore lc f).orgs = s.orgs := rfl
@[simp] theorem State.modCore_boot (s : State) (lc : Nat) (f : Core → Core) : (s.modCore lc f).boot = s.boot := rfl
@[simp] theorem State.modCore_flash (s : State) (lc : Nat) (f : Core → Core) : (s.modCore lc f).flash = s.flash := rfl
@[simp] theorem State.modCore_hlt (s : State) (lc : Nat) (f : Core → Core) : (s.modCore lc f).hlt = s.hlt := rfl
@[simp] theorem State.modCore_mgmt (s : State) (lc : Nat) (f : Core → Core) : (s.modCore lc f).mgmt = s.mgmt := rfl
@[simp] theorem State.modCore_owner (s : State) (lc : Nat) (f : Core → Core) : (s.modCore lc f).owner = s.owner := rfl
@[simp] theorem State.modCore_ksk (s : State) (lc : Nat) (f : Core → Core) : (s.modCore lc f).ksk = s.ksk := rfl
@[simp] theorem State.modCore_clusters (s : State) (lc : Nat) (f : Core → Core) : (s.modCore lc f).clusters = s.clusters := rfl
@[simp] theorem State.modCore_rowPending (s : State) (lc : Nat) (f : Core → Core) : (s.modCore lc f).rowPending = s.rowPending := rfl
@[simp] theorem State.modCore_regions (s : State) (lc : Nat) (f : Core → Core) : (s.modCore lc f).regions = s.regions := rfl
@[simp] theorem State.modCore_bundles (s : State) (lc : Nat) (f : Core → Core) : (s.modCore lc f).bundles = s.bundles := rfl
@[simp] theorem State.modCore_seams (s : State) (lc : Nat) (f : Core → Core) : (s.modCore lc f).seams = s.seams := rfl
@[simp] theorem State.modCore_retunes (s : State) (lc : Nat) (f : Core → Core) : (s.modCore lc f).retunes = s.retunes := rfl
@[simp] theorem State.modCore_ptn (s : State) (lc : Nat) (f : Core → Core) : (s.modCore lc f).ptn = s.ptn := rfl
@[simp] theorem State.modCore_busy (s : State) (lc : Nat) (f : Core → Core) : (s.modCore lc f).busy = s.busy := rfl
@[simp] theorem State.modCore_pwr (s : State) (lc : Nat) (f : Core → Core) : (s.modCore lc f).pwr = s.pwr := rfl
@[simp] theorem State.modCore_thm (s : State) (lc : Nat) (f : Core → Core) : (s.modCore lc f).thm = s.thm := rfl
@[simp] theorem State.modCore_settings (s : State) (lc : Nat) (f : Core → Core) : (s.modCore lc f).settings = s.settings := rfl
@[simp] theorem State.modCore_rst (s : State) (lc : Nat) (f : Core → Core) : (s.modCore lc f).rst = s.rst := rfl
@[simp] theorem State.modCore_tr (s : State) (lc : Nat) (f : Core → Core) : (s.modCore lc f).tr = s.tr := rfl
@[simp] theorem State.modCore_hif (s : State) (lc : Nat) (f : Core → Core) : (s.modCore lc f).hif = s.hif := rfl
@[simp] theorem State.modCore_sv (s : State) (lc : Nat) (f : Core → Core) : (s.modCore lc f).sv = s.sv := rfl
@[simp] theorem State.modCore_trn (s : State) (lc : Nat) (f : Core → Core) : (s.modCore lc f).trn = s.trn := rfl
@[simp] theorem State.modCore_cuffs (s : State) (lc : Nat) (f : Core → Core) : (s.modCore lc f).cuffs = s.cuffs := rfl
@[simp] theorem State.modCore_fab (s : State) (lc : Nat) (f : Core → Core) : (s.modCore lc f).fab = s.fab := rfl
@[simp] theorem State.modCore_hostMem (s : State) (lc : Nat) (f : Core → Core) : (s.modCore lc f).hostMem = s.hostMem := rfl
@[simp] theorem State.modCore_hostBad (s : State) (lc : Nat) (f : Core → Core) : (s.modCore lc f).hostBad = s.hostBad := rfl
@[simp] theorem State.modCore_notes (s : State) (lc : Nat) (f : Core → Core) : (s.modCore lc f).notes = s.notes := rfl
@[simp] theorem State.modCore_events (s : State) (lc : Nat) (f : Core → Core) : (s.modCore lc f).events = s.events := rfl
@[simp] theorem State.modCore_ticks (s : State) (lc : Nat) (f : Core → Core) : (s.modCore lc f).ticks = s.ticks := rfl
@[simp] theorem State.modCore_held (s : State) (lc : Nat) (f : Core → Core) : (s.modCore lc f).held = s.held := rfl
@[simp] theorem State.modCore_draws (s : State) (lc : Nat) (f : Core → Core) : (s.modCore lc f).draws = s.draws := rfl
@[simp] theorem State.modCore_pending (s : State) (lc : Nat) (f : Core → Core) : (s.modCore lc f).pending = s.pending := rfl

/-! ### `State.modSite` changes `sites` alone -/

@[simp] theorem State.modSite_cores (s : State) (i : Nat) (f : SiteRec → SiteRec) : (s.modSite i f).cores = s.cores := rfl
@[simp] theorem State.modSite_jobs (s : State) (i : Nat) (f : SiteRec → SiteRec) : (s.modSite i f).jobs = s.jobs := rfl
@[simp] theorem State.modSite_pace (s : State) (i : Nat) (f : SiteRec → SiteRec) : (s.modSite i f).pace = s.pace := rfl
@[simp] theorem State.modSite_sends (s : State) (i : Nat) (f : SiteRec → SiteRec) : (s.modSite i f).sends = s.sends := rfl
@[simp] theorem State.modSite_blames (s : State) (i : Nat) (f : SiteRec → SiteRec) : (s.modSite i f).blames = s.blames := rfl
@[simp] theorem State.modSite_mem (s : State) (i : Nat) (f : SiteRec → SiteRec) : (s.modSite i f).mem = s.mem := rfl
@[simp] theorem State.modSite_orgs (s : State) (i : Nat) (f : SiteRec → SiteRec) : (s.modSite i f).orgs = s.orgs := rfl
@[simp] theorem State.modSite_boot (s : State) (i : Nat) (f : SiteRec → SiteRec) : (s.modSite i f).boot = s.boot := rfl
@[simp] theorem State.modSite_flash (s : State) (i : Nat) (f : SiteRec → SiteRec) : (s.modSite i f).flash = s.flash := rfl
@[simp] theorem State.modSite_hlt (s : State) (i : Nat) (f : SiteRec → SiteRec) : (s.modSite i f).hlt = s.hlt := rfl
@[simp] theorem State.modSite_mgmt (s : State) (i : Nat) (f : SiteRec → SiteRec) : (s.modSite i f).mgmt = s.mgmt := rfl
@[simp] theorem State.modSite_owner (s : State) (i : Nat) (f : SiteRec → SiteRec) : (s.modSite i f).owner = s.owner := rfl
@[simp] theorem State.modSite_ksk (s : State) (i : Nat) (f : SiteRec → SiteRec) : (s.modSite i f).ksk = s.ksk := rfl
@[simp] theorem State.modSite_clusters (s : State) (i : Nat) (f : SiteRec → SiteRec) : (s.modSite i f).clusters = s.clusters := rfl
@[simp] theorem State.modSite_rowPending (s : State) (i : Nat) (f : SiteRec → SiteRec) : (s.modSite i f).rowPending = s.rowPending := rfl
@[simp] theorem State.modSite_regions (s : State) (i : Nat) (f : SiteRec → SiteRec) : (s.modSite i f).regions = s.regions := rfl
@[simp] theorem State.modSite_bundles (s : State) (i : Nat) (f : SiteRec → SiteRec) : (s.modSite i f).bundles = s.bundles := rfl
@[simp] theorem State.modSite_seams (s : State) (i : Nat) (f : SiteRec → SiteRec) : (s.modSite i f).seams = s.seams := rfl
@[simp] theorem State.modSite_retunes (s : State) (i : Nat) (f : SiteRec → SiteRec) : (s.modSite i f).retunes = s.retunes := rfl
@[simp] theorem State.modSite_ptn (s : State) (i : Nat) (f : SiteRec → SiteRec) : (s.modSite i f).ptn = s.ptn := rfl
@[simp] theorem State.modSite_busy (s : State) (i : Nat) (f : SiteRec → SiteRec) : (s.modSite i f).busy = s.busy := rfl
@[simp] theorem State.modSite_pwr (s : State) (i : Nat) (f : SiteRec → SiteRec) : (s.modSite i f).pwr = s.pwr := rfl
@[simp] theorem State.modSite_thm (s : State) (i : Nat) (f : SiteRec → SiteRec) : (s.modSite i f).thm = s.thm := rfl
@[simp] theorem State.modSite_settings (s : State) (i : Nat) (f : SiteRec → SiteRec) : (s.modSite i f).settings = s.settings := rfl
@[simp] theorem State.modSite_rst (s : State) (i : Nat) (f : SiteRec → SiteRec) : (s.modSite i f).rst = s.rst := rfl
@[simp] theorem State.modSite_tr (s : State) (i : Nat) (f : SiteRec → SiteRec) : (s.modSite i f).tr = s.tr := rfl
@[simp] theorem State.modSite_hif (s : State) (i : Nat) (f : SiteRec → SiteRec) : (s.modSite i f).hif = s.hif := rfl
@[simp] theorem State.modSite_sv (s : State) (i : Nat) (f : SiteRec → SiteRec) : (s.modSite i f).sv = s.sv := rfl
@[simp] theorem State.modSite_trn (s : State) (i : Nat) (f : SiteRec → SiteRec) : (s.modSite i f).trn = s.trn := rfl
@[simp] theorem State.modSite_cuffs (s : State) (i : Nat) (f : SiteRec → SiteRec) : (s.modSite i f).cuffs = s.cuffs := rfl
@[simp] theorem State.modSite_fab (s : State) (i : Nat) (f : SiteRec → SiteRec) : (s.modSite i f).fab = s.fab := rfl
@[simp] theorem State.modSite_hostMem (s : State) (i : Nat) (f : SiteRec → SiteRec) : (s.modSite i f).hostMem = s.hostMem := rfl
@[simp] theorem State.modSite_hostBad (s : State) (i : Nat) (f : SiteRec → SiteRec) : (s.modSite i f).hostBad = s.hostBad := rfl
@[simp] theorem State.modSite_notes (s : State) (i : Nat) (f : SiteRec → SiteRec) : (s.modSite i f).notes = s.notes := rfl
@[simp] theorem State.modSite_events (s : State) (i : Nat) (f : SiteRec → SiteRec) : (s.modSite i f).events = s.events := rfl
@[simp] theorem State.modSite_ticks (s : State) (i : Nat) (f : SiteRec → SiteRec) : (s.modSite i f).ticks = s.ticks := rfl
@[simp] theorem State.modSite_held (s : State) (i : Nat) (f : SiteRec → SiteRec) : (s.modSite i f).held = s.held := rfl
@[simp] theorem State.modSite_draws (s : State) (i : Nat) (f : SiteRec → SiteRec) : (s.modSite i f).draws = s.draws := rfl
@[simp] theorem State.modSite_pending (s : State) (i : Nat) (f : SiteRec → SiteRec) : (s.modSite i f).pending = s.pending := rfl

/-! ### `State.modJob` changes `jobs` alone -/

@[simp] theorem State.modJob_cores (s : State) (n : Nat) (f : Job → Job) : (s.modJob n f).cores = s.cores := rfl
@[simp] theorem State.modJob_sites (s : State) (n : Nat) (f : Job → Job) : (s.modJob n f).sites = s.sites := rfl
@[simp] theorem State.modJob_pace (s : State) (n : Nat) (f : Job → Job) : (s.modJob n f).pace = s.pace := rfl
@[simp] theorem State.modJob_sends (s : State) (n : Nat) (f : Job → Job) : (s.modJob n f).sends = s.sends := rfl
@[simp] theorem State.modJob_blames (s : State) (n : Nat) (f : Job → Job) : (s.modJob n f).blames = s.blames := rfl
@[simp] theorem State.modJob_mem (s : State) (n : Nat) (f : Job → Job) : (s.modJob n f).mem = s.mem := rfl
@[simp] theorem State.modJob_orgs (s : State) (n : Nat) (f : Job → Job) : (s.modJob n f).orgs = s.orgs := rfl
@[simp] theorem State.modJob_boot (s : State) (n : Nat) (f : Job → Job) : (s.modJob n f).boot = s.boot := rfl
@[simp] theorem State.modJob_flash (s : State) (n : Nat) (f : Job → Job) : (s.modJob n f).flash = s.flash := rfl
@[simp] theorem State.modJob_hlt (s : State) (n : Nat) (f : Job → Job) : (s.modJob n f).hlt = s.hlt := rfl
@[simp] theorem State.modJob_mgmt (s : State) (n : Nat) (f : Job → Job) : (s.modJob n f).mgmt = s.mgmt := rfl
@[simp] theorem State.modJob_owner (s : State) (n : Nat) (f : Job → Job) : (s.modJob n f).owner = s.owner := rfl
@[simp] theorem State.modJob_ksk (s : State) (n : Nat) (f : Job → Job) : (s.modJob n f).ksk = s.ksk := rfl
@[simp] theorem State.modJob_clusters (s : State) (n : Nat) (f : Job → Job) : (s.modJob n f).clusters = s.clusters := rfl
@[simp] theorem State.modJob_rowPending (s : State) (n : Nat) (f : Job → Job) : (s.modJob n f).rowPending = s.rowPending := rfl
@[simp] theorem State.modJob_regions (s : State) (n : Nat) (f : Job → Job) : (s.modJob n f).regions = s.regions := rfl
@[simp] theorem State.modJob_bundles (s : State) (n : Nat) (f : Job → Job) : (s.modJob n f).bundles = s.bundles := rfl
@[simp] theorem State.modJob_seams (s : State) (n : Nat) (f : Job → Job) : (s.modJob n f).seams = s.seams := rfl
@[simp] theorem State.modJob_retunes (s : State) (n : Nat) (f : Job → Job) : (s.modJob n f).retunes = s.retunes := rfl
@[simp] theorem State.modJob_ptn (s : State) (n : Nat) (f : Job → Job) : (s.modJob n f).ptn = s.ptn := rfl
@[simp] theorem State.modJob_busy (s : State) (n : Nat) (f : Job → Job) : (s.modJob n f).busy = s.busy := rfl
@[simp] theorem State.modJob_pwr (s : State) (n : Nat) (f : Job → Job) : (s.modJob n f).pwr = s.pwr := rfl
@[simp] theorem State.modJob_thm (s : State) (n : Nat) (f : Job → Job) : (s.modJob n f).thm = s.thm := rfl
@[simp] theorem State.modJob_settings (s : State) (n : Nat) (f : Job → Job) : (s.modJob n f).settings = s.settings := rfl
@[simp] theorem State.modJob_rst (s : State) (n : Nat) (f : Job → Job) : (s.modJob n f).rst = s.rst := rfl
@[simp] theorem State.modJob_tr (s : State) (n : Nat) (f : Job → Job) : (s.modJob n f).tr = s.tr := rfl
@[simp] theorem State.modJob_hif (s : State) (n : Nat) (f : Job → Job) : (s.modJob n f).hif = s.hif := rfl
@[simp] theorem State.modJob_sv (s : State) (n : Nat) (f : Job → Job) : (s.modJob n f).sv = s.sv := rfl
@[simp] theorem State.modJob_trn (s : State) (n : Nat) (f : Job → Job) : (s.modJob n f).trn = s.trn := rfl
@[simp] theorem State.modJob_cuffs (s : State) (n : Nat) (f : Job → Job) : (s.modJob n f).cuffs = s.cuffs := rfl
@[simp] theorem State.modJob_fab (s : State) (n : Nat) (f : Job → Job) : (s.modJob n f).fab = s.fab := rfl
@[simp] theorem State.modJob_hostMem (s : State) (n : Nat) (f : Job → Job) : (s.modJob n f).hostMem = s.hostMem := rfl
@[simp] theorem State.modJob_hostBad (s : State) (n : Nat) (f : Job → Job) : (s.modJob n f).hostBad = s.hostBad := rfl
@[simp] theorem State.modJob_notes (s : State) (n : Nat) (f : Job → Job) : (s.modJob n f).notes = s.notes := rfl
@[simp] theorem State.modJob_events (s : State) (n : Nat) (f : Job → Job) : (s.modJob n f).events = s.events := rfl
@[simp] theorem State.modJob_ticks (s : State) (n : Nat) (f : Job → Job) : (s.modJob n f).ticks = s.ticks := rfl
@[simp] theorem State.modJob_held (s : State) (n : Nat) (f : Job → Job) : (s.modJob n f).held = s.held := rfl
@[simp] theorem State.modJob_draws (s : State) (n : Nat) (f : Job → Job) : (s.modJob n f).draws = s.draws := rfl
@[simp] theorem State.modJob_pending (s : State) (n : Nat) (f : Job → Job) : (s.modJob n f).pending = s.pending := rfl

/-! ### `State.hold` changes `held` alone -/

@[simp] theorem State.hold_cores (s : State) (i : Instr) : (s.hold i).cores = s.cores := rfl
@[simp] theorem State.hold_sites (s : State) (i : Instr) : (s.hold i).sites = s.sites := rfl
@[simp] theorem State.hold_jobs (s : State) (i : Instr) : (s.hold i).jobs = s.jobs := rfl
@[simp] theorem State.hold_pace (s : State) (i : Instr) : (s.hold i).pace = s.pace := rfl
@[simp] theorem State.hold_sends (s : State) (i : Instr) : (s.hold i).sends = s.sends := rfl
@[simp] theorem State.hold_blames (s : State) (i : Instr) : (s.hold i).blames = s.blames := rfl
@[simp] theorem State.hold_mem (s : State) (i : Instr) : (s.hold i).mem = s.mem := rfl
@[simp] theorem State.hold_orgs (s : State) (i : Instr) : (s.hold i).orgs = s.orgs := rfl
@[simp] theorem State.hold_boot (s : State) (i : Instr) : (s.hold i).boot = s.boot := rfl
@[simp] theorem State.hold_flash (s : State) (i : Instr) : (s.hold i).flash = s.flash := rfl
@[simp] theorem State.hold_hlt (s : State) (i : Instr) : (s.hold i).hlt = s.hlt := rfl
@[simp] theorem State.hold_mgmt (s : State) (i : Instr) : (s.hold i).mgmt = s.mgmt := rfl
@[simp] theorem State.hold_owner (s : State) (i : Instr) : (s.hold i).owner = s.owner := rfl
@[simp] theorem State.hold_ksk (s : State) (i : Instr) : (s.hold i).ksk = s.ksk := rfl
@[simp] theorem State.hold_clusters (s : State) (i : Instr) : (s.hold i).clusters = s.clusters := rfl
@[simp] theorem State.hold_rowPending (s : State) (i : Instr) : (s.hold i).rowPending = s.rowPending := rfl
@[simp] theorem State.hold_regions (s : State) (i : Instr) : (s.hold i).regions = s.regions := rfl
@[simp] theorem State.hold_bundles (s : State) (i : Instr) : (s.hold i).bundles = s.bundles := rfl
@[simp] theorem State.hold_seams (s : State) (i : Instr) : (s.hold i).seams = s.seams := rfl
@[simp] theorem State.hold_retunes (s : State) (i : Instr) : (s.hold i).retunes = s.retunes := rfl
@[simp] theorem State.hold_ptn (s : State) (i : Instr) : (s.hold i).ptn = s.ptn := rfl
@[simp] theorem State.hold_busy (s : State) (i : Instr) : (s.hold i).busy = s.busy := rfl
@[simp] theorem State.hold_pwr (s : State) (i : Instr) : (s.hold i).pwr = s.pwr := rfl
@[simp] theorem State.hold_thm (s : State) (i : Instr) : (s.hold i).thm = s.thm := rfl
@[simp] theorem State.hold_settings (s : State) (i : Instr) : (s.hold i).settings = s.settings := rfl
@[simp] theorem State.hold_rst (s : State) (i : Instr) : (s.hold i).rst = s.rst := rfl
@[simp] theorem State.hold_tr (s : State) (i : Instr) : (s.hold i).tr = s.tr := rfl
@[simp] theorem State.hold_hif (s : State) (i : Instr) : (s.hold i).hif = s.hif := rfl
@[simp] theorem State.hold_sv (s : State) (i : Instr) : (s.hold i).sv = s.sv := rfl
@[simp] theorem State.hold_trn (s : State) (i : Instr) : (s.hold i).trn = s.trn := rfl
@[simp] theorem State.hold_cuffs (s : State) (i : Instr) : (s.hold i).cuffs = s.cuffs := rfl
@[simp] theorem State.hold_fab (s : State) (i : Instr) : (s.hold i).fab = s.fab := rfl
@[simp] theorem State.hold_hostMem (s : State) (i : Instr) : (s.hold i).hostMem = s.hostMem := rfl
@[simp] theorem State.hold_hostBad (s : State) (i : Instr) : (s.hold i).hostBad = s.hostBad := rfl
@[simp] theorem State.hold_notes (s : State) (i : Instr) : (s.hold i).notes = s.notes := rfl
@[simp] theorem State.hold_events (s : State) (i : Instr) : (s.hold i).events = s.events := rfl
@[simp] theorem State.hold_ticks (s : State) (i : Instr) : (s.hold i).ticks = s.ticks := rfl
@[simp] theorem State.hold_draws (s : State) (i : Instr) : (s.hold i).draws = s.draws := rfl
@[simp] theorem State.hold_pending (s : State) (i : Instr) : (s.hold i).pending = s.pending := rfl

/-! ### `State.drawn` changes `draws` alone -/

@[simp] theorem State.drawn_cores (s : State) (n : Nat) : (s.drawn n).cores = s.cores := rfl
@[simp] theorem State.drawn_sites (s : State) (n : Nat) : (s.drawn n).sites = s.sites := rfl
@[simp] theorem State.drawn_jobs (s : State) (n : Nat) : (s.drawn n).jobs = s.jobs := rfl
@[simp] theorem State.drawn_pace (s : State) (n : Nat) : (s.drawn n).pace = s.pace := rfl
@[simp] theorem State.drawn_sends (s : State) (n : Nat) : (s.drawn n).sends = s.sends := rfl
@[simp] theorem State.drawn_blames (s : State) (n : Nat) : (s.drawn n).blames = s.blames := rfl
@[simp] theorem State.drawn_mem (s : State) (n : Nat) : (s.drawn n).mem = s.mem := rfl
@[simp] theorem State.drawn_orgs (s : State) (n : Nat) : (s.drawn n).orgs = s.orgs := rfl
@[simp] theorem State.drawn_boot (s : State) (n : Nat) : (s.drawn n).boot = s.boot := rfl
@[simp] theorem State.drawn_flash (s : State) (n : Nat) : (s.drawn n).flash = s.flash := rfl
@[simp] theorem State.drawn_hlt (s : State) (n : Nat) : (s.drawn n).hlt = s.hlt := rfl
@[simp] theorem State.drawn_mgmt (s : State) (n : Nat) : (s.drawn n).mgmt = s.mgmt := rfl
@[simp] theorem State.drawn_owner (s : State) (n : Nat) : (s.drawn n).owner = s.owner := rfl
@[simp] theorem State.drawn_ksk (s : State) (n : Nat) : (s.drawn n).ksk = s.ksk := rfl
@[simp] theorem State.drawn_clusters (s : State) (n : Nat) : (s.drawn n).clusters = s.clusters := rfl
@[simp] theorem State.drawn_rowPending (s : State) (n : Nat) : (s.drawn n).rowPending = s.rowPending := rfl
@[simp] theorem State.drawn_regions (s : State) (n : Nat) : (s.drawn n).regions = s.regions := rfl
@[simp] theorem State.drawn_bundles (s : State) (n : Nat) : (s.drawn n).bundles = s.bundles := rfl
@[simp] theorem State.drawn_seams (s : State) (n : Nat) : (s.drawn n).seams = s.seams := rfl
@[simp] theorem State.drawn_retunes (s : State) (n : Nat) : (s.drawn n).retunes = s.retunes := rfl
@[simp] theorem State.drawn_ptn (s : State) (n : Nat) : (s.drawn n).ptn = s.ptn := rfl
@[simp] theorem State.drawn_busy (s : State) (n : Nat) : (s.drawn n).busy = s.busy := rfl
@[simp] theorem State.drawn_pwr (s : State) (n : Nat) : (s.drawn n).pwr = s.pwr := rfl
@[simp] theorem State.drawn_thm (s : State) (n : Nat) : (s.drawn n).thm = s.thm := rfl
@[simp] theorem State.drawn_settings (s : State) (n : Nat) : (s.drawn n).settings = s.settings := rfl
@[simp] theorem State.drawn_rst (s : State) (n : Nat) : (s.drawn n).rst = s.rst := rfl
@[simp] theorem State.drawn_tr (s : State) (n : Nat) : (s.drawn n).tr = s.tr := rfl
@[simp] theorem State.drawn_hif (s : State) (n : Nat) : (s.drawn n).hif = s.hif := rfl
@[simp] theorem State.drawn_sv (s : State) (n : Nat) : (s.drawn n).sv = s.sv := rfl
@[simp] theorem State.drawn_trn (s : State) (n : Nat) : (s.drawn n).trn = s.trn := rfl
@[simp] theorem State.drawn_cuffs (s : State) (n : Nat) : (s.drawn n).cuffs = s.cuffs := rfl
@[simp] theorem State.drawn_fab (s : State) (n : Nat) : (s.drawn n).fab = s.fab := rfl
@[simp] theorem State.drawn_hostMem (s : State) (n : Nat) : (s.drawn n).hostMem = s.hostMem := rfl
@[simp] theorem State.drawn_hostBad (s : State) (n : Nat) : (s.drawn n).hostBad = s.hostBad := rfl
@[simp] theorem State.drawn_notes (s : State) (n : Nat) : (s.drawn n).notes = s.notes := rfl
@[simp] theorem State.drawn_events (s : State) (n : Nat) : (s.drawn n).events = s.events := rfl
@[simp] theorem State.drawn_ticks (s : State) (n : Nat) : (s.drawn n).ticks = s.ticks := rfl
@[simp] theorem State.drawn_held (s : State) (n : Nat) : (s.drawn n).held = s.held := rfl
@[simp] theorem State.drawn_pending (s : State) (n : Nat) : (s.drawn n).pending = s.pending := rfl

/-! ### `State.hostPut` changes `hostMem` alone -/

@[simp] theorem State.hostPut_cores (s : State) (a : Nat) (bs : List Byte) : (s.hostPut a bs).cores = s.cores := rfl
@[simp] theorem State.hostPut_sites (s : State) (a : Nat) (bs : List Byte) : (s.hostPut a bs).sites = s.sites := rfl
@[simp] theorem State.hostPut_jobs (s : State) (a : Nat) (bs : List Byte) : (s.hostPut a bs).jobs = s.jobs := rfl
@[simp] theorem State.hostPut_pace (s : State) (a : Nat) (bs : List Byte) : (s.hostPut a bs).pace = s.pace := rfl
@[simp] theorem State.hostPut_sends (s : State) (a : Nat) (bs : List Byte) : (s.hostPut a bs).sends = s.sends := rfl
@[simp] theorem State.hostPut_blames (s : State) (a : Nat) (bs : List Byte) : (s.hostPut a bs).blames = s.blames := rfl
@[simp] theorem State.hostPut_mem (s : State) (a : Nat) (bs : List Byte) : (s.hostPut a bs).mem = s.mem := rfl
@[simp] theorem State.hostPut_orgs (s : State) (a : Nat) (bs : List Byte) : (s.hostPut a bs).orgs = s.orgs := rfl
@[simp] theorem State.hostPut_boot (s : State) (a : Nat) (bs : List Byte) : (s.hostPut a bs).boot = s.boot := rfl
@[simp] theorem State.hostPut_flash (s : State) (a : Nat) (bs : List Byte) : (s.hostPut a bs).flash = s.flash := rfl
@[simp] theorem State.hostPut_hlt (s : State) (a : Nat) (bs : List Byte) : (s.hostPut a bs).hlt = s.hlt := rfl
@[simp] theorem State.hostPut_mgmt (s : State) (a : Nat) (bs : List Byte) : (s.hostPut a bs).mgmt = s.mgmt := rfl
@[simp] theorem State.hostPut_owner (s : State) (a : Nat) (bs : List Byte) : (s.hostPut a bs).owner = s.owner := rfl
@[simp] theorem State.hostPut_ksk (s : State) (a : Nat) (bs : List Byte) : (s.hostPut a bs).ksk = s.ksk := rfl
@[simp] theorem State.hostPut_clusters (s : State) (a : Nat) (bs : List Byte) : (s.hostPut a bs).clusters = s.clusters := rfl
@[simp] theorem State.hostPut_rowPending (s : State) (a : Nat) (bs : List Byte) : (s.hostPut a bs).rowPending = s.rowPending := rfl
@[simp] theorem State.hostPut_regions (s : State) (a : Nat) (bs : List Byte) : (s.hostPut a bs).regions = s.regions := rfl
@[simp] theorem State.hostPut_bundles (s : State) (a : Nat) (bs : List Byte) : (s.hostPut a bs).bundles = s.bundles := rfl
@[simp] theorem State.hostPut_seams (s : State) (a : Nat) (bs : List Byte) : (s.hostPut a bs).seams = s.seams := rfl
@[simp] theorem State.hostPut_retunes (s : State) (a : Nat) (bs : List Byte) : (s.hostPut a bs).retunes = s.retunes := rfl
@[simp] theorem State.hostPut_ptn (s : State) (a : Nat) (bs : List Byte) : (s.hostPut a bs).ptn = s.ptn := rfl
@[simp] theorem State.hostPut_busy (s : State) (a : Nat) (bs : List Byte) : (s.hostPut a bs).busy = s.busy := rfl
@[simp] theorem State.hostPut_pwr (s : State) (a : Nat) (bs : List Byte) : (s.hostPut a bs).pwr = s.pwr := rfl
@[simp] theorem State.hostPut_thm (s : State) (a : Nat) (bs : List Byte) : (s.hostPut a bs).thm = s.thm := rfl
@[simp] theorem State.hostPut_settings (s : State) (a : Nat) (bs : List Byte) : (s.hostPut a bs).settings = s.settings := rfl
@[simp] theorem State.hostPut_rst (s : State) (a : Nat) (bs : List Byte) : (s.hostPut a bs).rst = s.rst := rfl
@[simp] theorem State.hostPut_tr (s : State) (a : Nat) (bs : List Byte) : (s.hostPut a bs).tr = s.tr := rfl
@[simp] theorem State.hostPut_hif (s : State) (a : Nat) (bs : List Byte) : (s.hostPut a bs).hif = s.hif := rfl
@[simp] theorem State.hostPut_sv (s : State) (a : Nat) (bs : List Byte) : (s.hostPut a bs).sv = s.sv := rfl
@[simp] theorem State.hostPut_trn (s : State) (a : Nat) (bs : List Byte) : (s.hostPut a bs).trn = s.trn := rfl
@[simp] theorem State.hostPut_cuffs (s : State) (a : Nat) (bs : List Byte) : (s.hostPut a bs).cuffs = s.cuffs := rfl
@[simp] theorem State.hostPut_fab (s : State) (a : Nat) (bs : List Byte) : (s.hostPut a bs).fab = s.fab := rfl
@[simp] theorem State.hostPut_hostBad (s : State) (a : Nat) (bs : List Byte) : (s.hostPut a bs).hostBad = s.hostBad := rfl
@[simp] theorem State.hostPut_notes (s : State) (a : Nat) (bs : List Byte) : (s.hostPut a bs).notes = s.notes := rfl
@[simp] theorem State.hostPut_events (s : State) (a : Nat) (bs : List Byte) : (s.hostPut a bs).events = s.events := rfl
@[simp] theorem State.hostPut_ticks (s : State) (a : Nat) (bs : List Byte) : (s.hostPut a bs).ticks = s.ticks := rfl
@[simp] theorem State.hostPut_held (s : State) (a : Nat) (bs : List Byte) : (s.hostPut a bs).held = s.held := rfl
@[simp] theorem State.hostPut_draws (s : State) (a : Nat) (bs : List Byte) : (s.hostPut a bs).draws = s.draws := rfl
@[simp] theorem State.hostPut_pending (s : State) (a : Nat) (bs : List Byte) : (s.hostPut a bs).pending = s.pending := rfl

/-! ### `State.modQueue` changes `hif` alone -/

@[simp] theorem State.modQueue_cores (s : State) (q : Nat) (f : HostQueue → HostQueue) : (s.modQueue q f).cores = s.cores := rfl
@[simp] theorem State.modQueue_sites (s : State) (q : Nat) (f : HostQueue → HostQueue) : (s.modQueue q f).sites = s.sites := rfl
@[simp] theorem State.modQueue_jobs (s : State) (q : Nat) (f : HostQueue → HostQueue) : (s.modQueue q f).jobs = s.jobs := rfl
@[simp] theorem State.modQueue_pace (s : State) (q : Nat) (f : HostQueue → HostQueue) : (s.modQueue q f).pace = s.pace := rfl
@[simp] theorem State.modQueue_sends (s : State) (q : Nat) (f : HostQueue → HostQueue) : (s.modQueue q f).sends = s.sends := rfl
@[simp] theorem State.modQueue_blames (s : State) (q : Nat) (f : HostQueue → HostQueue) : (s.modQueue q f).blames = s.blames := rfl
@[simp] theorem State.modQueue_mem (s : State) (q : Nat) (f : HostQueue → HostQueue) : (s.modQueue q f).mem = s.mem := rfl
@[simp] theorem State.modQueue_orgs (s : State) (q : Nat) (f : HostQueue → HostQueue) : (s.modQueue q f).orgs = s.orgs := rfl
@[simp] theorem State.modQueue_boot (s : State) (q : Nat) (f : HostQueue → HostQueue) : (s.modQueue q f).boot = s.boot := rfl
@[simp] theorem State.modQueue_flash (s : State) (q : Nat) (f : HostQueue → HostQueue) : (s.modQueue q f).flash = s.flash := rfl
@[simp] theorem State.modQueue_hlt (s : State) (q : Nat) (f : HostQueue → HostQueue) : (s.modQueue q f).hlt = s.hlt := rfl
@[simp] theorem State.modQueue_mgmt (s : State) (q : Nat) (f : HostQueue → HostQueue) : (s.modQueue q f).mgmt = s.mgmt := rfl
@[simp] theorem State.modQueue_owner (s : State) (q : Nat) (f : HostQueue → HostQueue) : (s.modQueue q f).owner = s.owner := rfl
@[simp] theorem State.modQueue_ksk (s : State) (q : Nat) (f : HostQueue → HostQueue) : (s.modQueue q f).ksk = s.ksk := rfl
@[simp] theorem State.modQueue_clusters (s : State) (q : Nat) (f : HostQueue → HostQueue) : (s.modQueue q f).clusters = s.clusters := rfl
@[simp] theorem State.modQueue_rowPending (s : State) (q : Nat) (f : HostQueue → HostQueue) : (s.modQueue q f).rowPending = s.rowPending := rfl
@[simp] theorem State.modQueue_regions (s : State) (q : Nat) (f : HostQueue → HostQueue) : (s.modQueue q f).regions = s.regions := rfl
@[simp] theorem State.modQueue_bundles (s : State) (q : Nat) (f : HostQueue → HostQueue) : (s.modQueue q f).bundles = s.bundles := rfl
@[simp] theorem State.modQueue_seams (s : State) (q : Nat) (f : HostQueue → HostQueue) : (s.modQueue q f).seams = s.seams := rfl
@[simp] theorem State.modQueue_retunes (s : State) (q : Nat) (f : HostQueue → HostQueue) : (s.modQueue q f).retunes = s.retunes := rfl
@[simp] theorem State.modQueue_ptn (s : State) (q : Nat) (f : HostQueue → HostQueue) : (s.modQueue q f).ptn = s.ptn := rfl
@[simp] theorem State.modQueue_busy (s : State) (q : Nat) (f : HostQueue → HostQueue) : (s.modQueue q f).busy = s.busy := rfl
@[simp] theorem State.modQueue_pwr (s : State) (q : Nat) (f : HostQueue → HostQueue) : (s.modQueue q f).pwr = s.pwr := rfl
@[simp] theorem State.modQueue_thm (s : State) (q : Nat) (f : HostQueue → HostQueue) : (s.modQueue q f).thm = s.thm := rfl
@[simp] theorem State.modQueue_settings (s : State) (q : Nat) (f : HostQueue → HostQueue) : (s.modQueue q f).settings = s.settings := rfl
@[simp] theorem State.modQueue_rst (s : State) (q : Nat) (f : HostQueue → HostQueue) : (s.modQueue q f).rst = s.rst := rfl
@[simp] theorem State.modQueue_tr (s : State) (q : Nat) (f : HostQueue → HostQueue) : (s.modQueue q f).tr = s.tr := rfl
@[simp] theorem State.modQueue_sv (s : State) (q : Nat) (f : HostQueue → HostQueue) : (s.modQueue q f).sv = s.sv := rfl
@[simp] theorem State.modQueue_trn (s : State) (q : Nat) (f : HostQueue → HostQueue) : (s.modQueue q f).trn = s.trn := rfl
@[simp] theorem State.modQueue_cuffs (s : State) (q : Nat) (f : HostQueue → HostQueue) : (s.modQueue q f).cuffs = s.cuffs := rfl
@[simp] theorem State.modQueue_fab (s : State) (q : Nat) (f : HostQueue → HostQueue) : (s.modQueue q f).fab = s.fab := rfl
@[simp] theorem State.modQueue_hostMem (s : State) (q : Nat) (f : HostQueue → HostQueue) : (s.modQueue q f).hostMem = s.hostMem := rfl
@[simp] theorem State.modQueue_hostBad (s : State) (q : Nat) (f : HostQueue → HostQueue) : (s.modQueue q f).hostBad = s.hostBad := rfl
@[simp] theorem State.modQueue_notes (s : State) (q : Nat) (f : HostQueue → HostQueue) : (s.modQueue q f).notes = s.notes := rfl
@[simp] theorem State.modQueue_events (s : State) (q : Nat) (f : HostQueue → HostQueue) : (s.modQueue q f).events = s.events := rfl
@[simp] theorem State.modQueue_ticks (s : State) (q : Nat) (f : HostQueue → HostQueue) : (s.modQueue q f).ticks = s.ticks := rfl
@[simp] theorem State.modQueue_held (s : State) (q : Nat) (f : HostQueue → HostQueue) : (s.modQueue q f).held = s.held := rfl
@[simp] theorem State.modQueue_draws (s : State) (q : Nat) (f : HostQueue → HostQueue) : (s.modQueue q f).draws = s.draws := rfl
@[simp] theorem State.modQueue_pending (s : State) (q : Nat) (f : HostQueue → HostQueue) : (s.modQueue q f).pending = s.pending := rfl

/-! ### `State.modStack` changes `orgs` alone -/

@[simp] theorem State.modStack_cores (s : State) (k : Nat) (f : Stack → Stack) : (s.modStack k f).cores = s.cores := rfl
@[simp] theorem State.modStack_sites (s : State) (k : Nat) (f : Stack → Stack) : (s.modStack k f).sites = s.sites := rfl
@[simp] theorem State.modStack_jobs (s : State) (k : Nat) (f : Stack → Stack) : (s.modStack k f).jobs = s.jobs := rfl
@[simp] theorem State.modStack_pace (s : State) (k : Nat) (f : Stack → Stack) : (s.modStack k f).pace = s.pace := rfl
@[simp] theorem State.modStack_sends (s : State) (k : Nat) (f : Stack → Stack) : (s.modStack k f).sends = s.sends := rfl
@[simp] theorem State.modStack_blames (s : State) (k : Nat) (f : Stack → Stack) : (s.modStack k f).blames = s.blames := rfl
@[simp] theorem State.modStack_mem (s : State) (k : Nat) (f : Stack → Stack) : (s.modStack k f).mem = s.mem := rfl
@[simp] theorem State.modStack_boot (s : State) (k : Nat) (f : Stack → Stack) : (s.modStack k f).boot = s.boot := rfl
@[simp] theorem State.modStack_flash (s : State) (k : Nat) (f : Stack → Stack) : (s.modStack k f).flash = s.flash := rfl
@[simp] theorem State.modStack_hlt (s : State) (k : Nat) (f : Stack → Stack) : (s.modStack k f).hlt = s.hlt := rfl
@[simp] theorem State.modStack_mgmt (s : State) (k : Nat) (f : Stack → Stack) : (s.modStack k f).mgmt = s.mgmt := rfl
@[simp] theorem State.modStack_owner (s : State) (k : Nat) (f : Stack → Stack) : (s.modStack k f).owner = s.owner := rfl
@[simp] theorem State.modStack_ksk (s : State) (k : Nat) (f : Stack → Stack) : (s.modStack k f).ksk = s.ksk := rfl
@[simp] theorem State.modStack_clusters (s : State) (k : Nat) (f : Stack → Stack) : (s.modStack k f).clusters = s.clusters := rfl
@[simp] theorem State.modStack_rowPending (s : State) (k : Nat) (f : Stack → Stack) : (s.modStack k f).rowPending = s.rowPending := rfl
@[simp] theorem State.modStack_regions (s : State) (k : Nat) (f : Stack → Stack) : (s.modStack k f).regions = s.regions := rfl
@[simp] theorem State.modStack_bundles (s : State) (k : Nat) (f : Stack → Stack) : (s.modStack k f).bundles = s.bundles := rfl
@[simp] theorem State.modStack_seams (s : State) (k : Nat) (f : Stack → Stack) : (s.modStack k f).seams = s.seams := rfl
@[simp] theorem State.modStack_retunes (s : State) (k : Nat) (f : Stack → Stack) : (s.modStack k f).retunes = s.retunes := rfl
@[simp] theorem State.modStack_ptn (s : State) (k : Nat) (f : Stack → Stack) : (s.modStack k f).ptn = s.ptn := rfl
@[simp] theorem State.modStack_busy (s : State) (k : Nat) (f : Stack → Stack) : (s.modStack k f).busy = s.busy := rfl
@[simp] theorem State.modStack_pwr (s : State) (k : Nat) (f : Stack → Stack) : (s.modStack k f).pwr = s.pwr := rfl
@[simp] theorem State.modStack_thm (s : State) (k : Nat) (f : Stack → Stack) : (s.modStack k f).thm = s.thm := rfl
@[simp] theorem State.modStack_settings (s : State) (k : Nat) (f : Stack → Stack) : (s.modStack k f).settings = s.settings := rfl
@[simp] theorem State.modStack_rst (s : State) (k : Nat) (f : Stack → Stack) : (s.modStack k f).rst = s.rst := rfl
@[simp] theorem State.modStack_tr (s : State) (k : Nat) (f : Stack → Stack) : (s.modStack k f).tr = s.tr := rfl
@[simp] theorem State.modStack_hif (s : State) (k : Nat) (f : Stack → Stack) : (s.modStack k f).hif = s.hif := rfl
@[simp] theorem State.modStack_sv (s : State) (k : Nat) (f : Stack → Stack) : (s.modStack k f).sv = s.sv := rfl
@[simp] theorem State.modStack_trn (s : State) (k : Nat) (f : Stack → Stack) : (s.modStack k f).trn = s.trn := rfl
@[simp] theorem State.modStack_cuffs (s : State) (k : Nat) (f : Stack → Stack) : (s.modStack k f).cuffs = s.cuffs := rfl
@[simp] theorem State.modStack_fab (s : State) (k : Nat) (f : Stack → Stack) : (s.modStack k f).fab = s.fab := rfl
@[simp] theorem State.modStack_hostMem (s : State) (k : Nat) (f : Stack → Stack) : (s.modStack k f).hostMem = s.hostMem := rfl
@[simp] theorem State.modStack_hostBad (s : State) (k : Nat) (f : Stack → Stack) : (s.modStack k f).hostBad = s.hostBad := rfl
@[simp] theorem State.modStack_notes (s : State) (k : Nat) (f : Stack → Stack) : (s.modStack k f).notes = s.notes := rfl
@[simp] theorem State.modStack_events (s : State) (k : Nat) (f : Stack → Stack) : (s.modStack k f).events = s.events := rfl
@[simp] theorem State.modStack_ticks (s : State) (k : Nat) (f : Stack → Stack) : (s.modStack k f).ticks = s.ticks := rfl
@[simp] theorem State.modStack_held (s : State) (k : Nat) (f : Stack → Stack) : (s.modStack k f).held = s.held := rfl
@[simp] theorem State.modStack_draws (s : State) (k : Nat) (f : Stack → Stack) : (s.modStack k f).draws = s.draws := rfl
@[simp] theorem State.modStack_pending (s : State) (k : Nat) (f : Stack → Stack) : (s.modStack k f).pending = s.pending := rfl

/-! ### `State.modRegion` changes `orgs` alone -/

@[simp] theorem State.modRegion_cores (s : State) (k r : Nat) (f : Region → Region) : (s.modRegion k r f).cores = s.cores := rfl
@[simp] theorem State.modRegion_sites (s : State) (k r : Nat) (f : Region → Region) : (s.modRegion k r f).sites = s.sites := rfl
@[simp] theorem State.modRegion_jobs (s : State) (k r : Nat) (f : Region → Region) : (s.modRegion k r f).jobs = s.jobs := rfl
@[simp] theorem State.modRegion_pace (s : State) (k r : Nat) (f : Region → Region) : (s.modRegion k r f).pace = s.pace := rfl
@[simp] theorem State.modRegion_sends (s : State) (k r : Nat) (f : Region → Region) : (s.modRegion k r f).sends = s.sends := rfl
@[simp] theorem State.modRegion_blames (s : State) (k r : Nat) (f : Region → Region) : (s.modRegion k r f).blames = s.blames := rfl
@[simp] theorem State.modRegion_mem (s : State) (k r : Nat) (f : Region → Region) : (s.modRegion k r f).mem = s.mem := rfl
@[simp] theorem State.modRegion_boot (s : State) (k r : Nat) (f : Region → Region) : (s.modRegion k r f).boot = s.boot := rfl
@[simp] theorem State.modRegion_flash (s : State) (k r : Nat) (f : Region → Region) : (s.modRegion k r f).flash = s.flash := rfl
@[simp] theorem State.modRegion_hlt (s : State) (k r : Nat) (f : Region → Region) : (s.modRegion k r f).hlt = s.hlt := rfl
@[simp] theorem State.modRegion_mgmt (s : State) (k r : Nat) (f : Region → Region) : (s.modRegion k r f).mgmt = s.mgmt := rfl
@[simp] theorem State.modRegion_owner (s : State) (k r : Nat) (f : Region → Region) : (s.modRegion k r f).owner = s.owner := rfl
@[simp] theorem State.modRegion_ksk (s : State) (k r : Nat) (f : Region → Region) : (s.modRegion k r f).ksk = s.ksk := rfl
@[simp] theorem State.modRegion_clusters (s : State) (k r : Nat) (f : Region → Region) : (s.modRegion k r f).clusters = s.clusters := rfl
@[simp] theorem State.modRegion_rowPending (s : State) (k r : Nat) (f : Region → Region) : (s.modRegion k r f).rowPending = s.rowPending := rfl
@[simp] theorem State.modRegion_regions (s : State) (k r : Nat) (f : Region → Region) : (s.modRegion k r f).regions = s.regions := rfl
@[simp] theorem State.modRegion_bundles (s : State) (k r : Nat) (f : Region → Region) : (s.modRegion k r f).bundles = s.bundles := rfl
@[simp] theorem State.modRegion_seams (s : State) (k r : Nat) (f : Region → Region) : (s.modRegion k r f).seams = s.seams := rfl
@[simp] theorem State.modRegion_retunes (s : State) (k r : Nat) (f : Region → Region) : (s.modRegion k r f).retunes = s.retunes := rfl
@[simp] theorem State.modRegion_ptn (s : State) (k r : Nat) (f : Region → Region) : (s.modRegion k r f).ptn = s.ptn := rfl
@[simp] theorem State.modRegion_busy (s : State) (k r : Nat) (f : Region → Region) : (s.modRegion k r f).busy = s.busy := rfl
@[simp] theorem State.modRegion_pwr (s : State) (k r : Nat) (f : Region → Region) : (s.modRegion k r f).pwr = s.pwr := rfl
@[simp] theorem State.modRegion_thm (s : State) (k r : Nat) (f : Region → Region) : (s.modRegion k r f).thm = s.thm := rfl
@[simp] theorem State.modRegion_settings (s : State) (k r : Nat) (f : Region → Region) : (s.modRegion k r f).settings = s.settings := rfl
@[simp] theorem State.modRegion_rst (s : State) (k r : Nat) (f : Region → Region) : (s.modRegion k r f).rst = s.rst := rfl
@[simp] theorem State.modRegion_tr (s : State) (k r : Nat) (f : Region → Region) : (s.modRegion k r f).tr = s.tr := rfl
@[simp] theorem State.modRegion_hif (s : State) (k r : Nat) (f : Region → Region) : (s.modRegion k r f).hif = s.hif := rfl
@[simp] theorem State.modRegion_sv (s : State) (k r : Nat) (f : Region → Region) : (s.modRegion k r f).sv = s.sv := rfl
@[simp] theorem State.modRegion_trn (s : State) (k r : Nat) (f : Region → Region) : (s.modRegion k r f).trn = s.trn := rfl
@[simp] theorem State.modRegion_cuffs (s : State) (k r : Nat) (f : Region → Region) : (s.modRegion k r f).cuffs = s.cuffs := rfl
@[simp] theorem State.modRegion_fab (s : State) (k r : Nat) (f : Region → Region) : (s.modRegion k r f).fab = s.fab := rfl
@[simp] theorem State.modRegion_hostMem (s : State) (k r : Nat) (f : Region → Region) : (s.modRegion k r f).hostMem = s.hostMem := rfl
@[simp] theorem State.modRegion_hostBad (s : State) (k r : Nat) (f : Region → Region) : (s.modRegion k r f).hostBad = s.hostBad := rfl
@[simp] theorem State.modRegion_notes (s : State) (k r : Nat) (f : Region → Region) : (s.modRegion k r f).notes = s.notes := rfl
@[simp] theorem State.modRegion_events (s : State) (k r : Nat) (f : Region → Region) : (s.modRegion k r f).events = s.events := rfl
@[simp] theorem State.modRegion_ticks (s : State) (k r : Nat) (f : Region → Region) : (s.modRegion k r f).ticks = s.ticks := rfl
@[simp] theorem State.modRegion_held (s : State) (k r : Nat) (f : Region → Region) : (s.modRegion k r f).held = s.held := rfl
@[simp] theorem State.modRegion_draws (s : State) (k r : Nat) (f : Region → Region) : (s.modRegion k r f).draws = s.draws := rfl
@[simp] theorem State.modRegion_pending (s : State) (k r : Nat) (f : Region → Region) : (s.modRegion k r f).pending = s.pending := rfl

/-! ### `State.modUnit` changes `orgs` alone -/

@[simp] theorem State.modUnit_cores (s : State) (k u : Nat) (f : BUnit → BUnit) : (s.modUnit k u f).cores = s.cores := rfl
@[simp] theorem State.modUnit_sites (s : State) (k u : Nat) (f : BUnit → BUnit) : (s.modUnit k u f).sites = s.sites := rfl
@[simp] theorem State.modUnit_jobs (s : State) (k u : Nat) (f : BUnit → BUnit) : (s.modUnit k u f).jobs = s.jobs := rfl
@[simp] theorem State.modUnit_pace (s : State) (k u : Nat) (f : BUnit → BUnit) : (s.modUnit k u f).pace = s.pace := rfl
@[simp] theorem State.modUnit_sends (s : State) (k u : Nat) (f : BUnit → BUnit) : (s.modUnit k u f).sends = s.sends := rfl
@[simp] theorem State.modUnit_blames (s : State) (k u : Nat) (f : BUnit → BUnit) : (s.modUnit k u f).blames = s.blames := rfl
@[simp] theorem State.modUnit_mem (s : State) (k u : Nat) (f : BUnit → BUnit) : (s.modUnit k u f).mem = s.mem := rfl
@[simp] theorem State.modUnit_boot (s : State) (k u : Nat) (f : BUnit → BUnit) : (s.modUnit k u f).boot = s.boot := rfl
@[simp] theorem State.modUnit_flash (s : State) (k u : Nat) (f : BUnit → BUnit) : (s.modUnit k u f).flash = s.flash := rfl
@[simp] theorem State.modUnit_hlt (s : State) (k u : Nat) (f : BUnit → BUnit) : (s.modUnit k u f).hlt = s.hlt := rfl
@[simp] theorem State.modUnit_mgmt (s : State) (k u : Nat) (f : BUnit → BUnit) : (s.modUnit k u f).mgmt = s.mgmt := rfl
@[simp] theorem State.modUnit_owner (s : State) (k u : Nat) (f : BUnit → BUnit) : (s.modUnit k u f).owner = s.owner := rfl
@[simp] theorem State.modUnit_ksk (s : State) (k u : Nat) (f : BUnit → BUnit) : (s.modUnit k u f).ksk = s.ksk := rfl
@[simp] theorem State.modUnit_clusters (s : State) (k u : Nat) (f : BUnit → BUnit) : (s.modUnit k u f).clusters = s.clusters := rfl
@[simp] theorem State.modUnit_rowPending (s : State) (k u : Nat) (f : BUnit → BUnit) : (s.modUnit k u f).rowPending = s.rowPending := rfl
@[simp] theorem State.modUnit_regions (s : State) (k u : Nat) (f : BUnit → BUnit) : (s.modUnit k u f).regions = s.regions := rfl
@[simp] theorem State.modUnit_bundles (s : State) (k u : Nat) (f : BUnit → BUnit) : (s.modUnit k u f).bundles = s.bundles := rfl
@[simp] theorem State.modUnit_seams (s : State) (k u : Nat) (f : BUnit → BUnit) : (s.modUnit k u f).seams = s.seams := rfl
@[simp] theorem State.modUnit_retunes (s : State) (k u : Nat) (f : BUnit → BUnit) : (s.modUnit k u f).retunes = s.retunes := rfl
@[simp] theorem State.modUnit_ptn (s : State) (k u : Nat) (f : BUnit → BUnit) : (s.modUnit k u f).ptn = s.ptn := rfl
@[simp] theorem State.modUnit_busy (s : State) (k u : Nat) (f : BUnit → BUnit) : (s.modUnit k u f).busy = s.busy := rfl
@[simp] theorem State.modUnit_pwr (s : State) (k u : Nat) (f : BUnit → BUnit) : (s.modUnit k u f).pwr = s.pwr := rfl
@[simp] theorem State.modUnit_thm (s : State) (k u : Nat) (f : BUnit → BUnit) : (s.modUnit k u f).thm = s.thm := rfl
@[simp] theorem State.modUnit_settings (s : State) (k u : Nat) (f : BUnit → BUnit) : (s.modUnit k u f).settings = s.settings := rfl
@[simp] theorem State.modUnit_rst (s : State) (k u : Nat) (f : BUnit → BUnit) : (s.modUnit k u f).rst = s.rst := rfl
@[simp] theorem State.modUnit_tr (s : State) (k u : Nat) (f : BUnit → BUnit) : (s.modUnit k u f).tr = s.tr := rfl
@[simp] theorem State.modUnit_hif (s : State) (k u : Nat) (f : BUnit → BUnit) : (s.modUnit k u f).hif = s.hif := rfl
@[simp] theorem State.modUnit_sv (s : State) (k u : Nat) (f : BUnit → BUnit) : (s.modUnit k u f).sv = s.sv := rfl
@[simp] theorem State.modUnit_trn (s : State) (k u : Nat) (f : BUnit → BUnit) : (s.modUnit k u f).trn = s.trn := rfl
@[simp] theorem State.modUnit_cuffs (s : State) (k u : Nat) (f : BUnit → BUnit) : (s.modUnit k u f).cuffs = s.cuffs := rfl
@[simp] theorem State.modUnit_fab (s : State) (k u : Nat) (f : BUnit → BUnit) : (s.modUnit k u f).fab = s.fab := rfl
@[simp] theorem State.modUnit_hostMem (s : State) (k u : Nat) (f : BUnit → BUnit) : (s.modUnit k u f).hostMem = s.hostMem := rfl
@[simp] theorem State.modUnit_hostBad (s : State) (k u : Nat) (f : BUnit → BUnit) : (s.modUnit k u f).hostBad = s.hostBad := rfl
@[simp] theorem State.modUnit_notes (s : State) (k u : Nat) (f : BUnit → BUnit) : (s.modUnit k u f).notes = s.notes := rfl
@[simp] theorem State.modUnit_events (s : State) (k u : Nat) (f : BUnit → BUnit) : (s.modUnit k u f).events = s.events := rfl
@[simp] theorem State.modUnit_ticks (s : State) (k u : Nat) (f : BUnit → BUnit) : (s.modUnit k u f).ticks = s.ticks := rfl
@[simp] theorem State.modUnit_held (s : State) (k u : Nat) (f : BUnit → BUnit) : (s.modUnit k u f).held = s.held := rfl
@[simp] theorem State.modUnit_draws (s : State) (k u : Nat) (f : BUnit → BUnit) : (s.modUnit k u f).draws = s.draws := rfl
@[simp] theorem State.modUnit_pending (s : State) (k u : Nat) (f : BUnit → BUnit) : (s.modUnit k u f).pending = s.pending := rfl

/-! ### `State.modClk` changes `regions` alone -/

@[simp] theorem State.modClk_cores (s : State) (r : Nat) (f : ClockRegion → ClockRegion) : (s.modClk r f).cores = s.cores := rfl
@[simp] theorem State.modClk_sites (s : State) (r : Nat) (f : ClockRegion → ClockRegion) : (s.modClk r f).sites = s.sites := rfl
@[simp] theorem State.modClk_jobs (s : State) (r : Nat) (f : ClockRegion → ClockRegion) : (s.modClk r f).jobs = s.jobs := rfl
@[simp] theorem State.modClk_pace (s : State) (r : Nat) (f : ClockRegion → ClockRegion) : (s.modClk r f).pace = s.pace := rfl
@[simp] theorem State.modClk_sends (s : State) (r : Nat) (f : ClockRegion → ClockRegion) : (s.modClk r f).sends = s.sends := rfl
@[simp] theorem State.modClk_blames (s : State) (r : Nat) (f : ClockRegion → ClockRegion) : (s.modClk r f).blames = s.blames := rfl
@[simp] theorem State.modClk_mem (s : State) (r : Nat) (f : ClockRegion → ClockRegion) : (s.modClk r f).mem = s.mem := rfl
@[simp] theorem State.modClk_orgs (s : State) (r : Nat) (f : ClockRegion → ClockRegion) : (s.modClk r f).orgs = s.orgs := rfl
@[simp] theorem State.modClk_boot (s : State) (r : Nat) (f : ClockRegion → ClockRegion) : (s.modClk r f).boot = s.boot := rfl
@[simp] theorem State.modClk_flash (s : State) (r : Nat) (f : ClockRegion → ClockRegion) : (s.modClk r f).flash = s.flash := rfl
@[simp] theorem State.modClk_hlt (s : State) (r : Nat) (f : ClockRegion → ClockRegion) : (s.modClk r f).hlt = s.hlt := rfl
@[simp] theorem State.modClk_mgmt (s : State) (r : Nat) (f : ClockRegion → ClockRegion) : (s.modClk r f).mgmt = s.mgmt := rfl
@[simp] theorem State.modClk_owner (s : State) (r : Nat) (f : ClockRegion → ClockRegion) : (s.modClk r f).owner = s.owner := rfl
@[simp] theorem State.modClk_ksk (s : State) (r : Nat) (f : ClockRegion → ClockRegion) : (s.modClk r f).ksk = s.ksk := rfl
@[simp] theorem State.modClk_clusters (s : State) (r : Nat) (f : ClockRegion → ClockRegion) : (s.modClk r f).clusters = s.clusters := rfl
@[simp] theorem State.modClk_rowPending (s : State) (r : Nat) (f : ClockRegion → ClockRegion) : (s.modClk r f).rowPending = s.rowPending := rfl
@[simp] theorem State.modClk_bundles (s : State) (r : Nat) (f : ClockRegion → ClockRegion) : (s.modClk r f).bundles = s.bundles := rfl
@[simp] theorem State.modClk_seams (s : State) (r : Nat) (f : ClockRegion → ClockRegion) : (s.modClk r f).seams = s.seams := rfl
@[simp] theorem State.modClk_retunes (s : State) (r : Nat) (f : ClockRegion → ClockRegion) : (s.modClk r f).retunes = s.retunes := rfl
@[simp] theorem State.modClk_ptn (s : State) (r : Nat) (f : ClockRegion → ClockRegion) : (s.modClk r f).ptn = s.ptn := rfl
@[simp] theorem State.modClk_busy (s : State) (r : Nat) (f : ClockRegion → ClockRegion) : (s.modClk r f).busy = s.busy := rfl
@[simp] theorem State.modClk_pwr (s : State) (r : Nat) (f : ClockRegion → ClockRegion) : (s.modClk r f).pwr = s.pwr := rfl
@[simp] theorem State.modClk_thm (s : State) (r : Nat) (f : ClockRegion → ClockRegion) : (s.modClk r f).thm = s.thm := rfl
@[simp] theorem State.modClk_settings (s : State) (r : Nat) (f : ClockRegion → ClockRegion) : (s.modClk r f).settings = s.settings := rfl
@[simp] theorem State.modClk_rst (s : State) (r : Nat) (f : ClockRegion → ClockRegion) : (s.modClk r f).rst = s.rst := rfl
@[simp] theorem State.modClk_tr (s : State) (r : Nat) (f : ClockRegion → ClockRegion) : (s.modClk r f).tr = s.tr := rfl
@[simp] theorem State.modClk_hif (s : State) (r : Nat) (f : ClockRegion → ClockRegion) : (s.modClk r f).hif = s.hif := rfl
@[simp] theorem State.modClk_sv (s : State) (r : Nat) (f : ClockRegion → ClockRegion) : (s.modClk r f).sv = s.sv := rfl
@[simp] theorem State.modClk_trn (s : State) (r : Nat) (f : ClockRegion → ClockRegion) : (s.modClk r f).trn = s.trn := rfl
@[simp] theorem State.modClk_cuffs (s : State) (r : Nat) (f : ClockRegion → ClockRegion) : (s.modClk r f).cuffs = s.cuffs := rfl
@[simp] theorem State.modClk_fab (s : State) (r : Nat) (f : ClockRegion → ClockRegion) : (s.modClk r f).fab = s.fab := rfl
@[simp] theorem State.modClk_hostMem (s : State) (r : Nat) (f : ClockRegion → ClockRegion) : (s.modClk r f).hostMem = s.hostMem := rfl
@[simp] theorem State.modClk_hostBad (s : State) (r : Nat) (f : ClockRegion → ClockRegion) : (s.modClk r f).hostBad = s.hostBad := rfl
@[simp] theorem State.modClk_notes (s : State) (r : Nat) (f : ClockRegion → ClockRegion) : (s.modClk r f).notes = s.notes := rfl
@[simp] theorem State.modClk_events (s : State) (r : Nat) (f : ClockRegion → ClockRegion) : (s.modClk r f).events = s.events := rfl
@[simp] theorem State.modClk_ticks (s : State) (r : Nat) (f : ClockRegion → ClockRegion) : (s.modClk r f).ticks = s.ticks := rfl
@[simp] theorem State.modClk_held (s : State) (r : Nat) (f : ClockRegion → ClockRegion) : (s.modClk r f).held = s.held := rfl
@[simp] theorem State.modClk_draws (s : State) (r : Nat) (f : ClockRegion → ClockRegion) : (s.modClk r f).draws = s.draws := rfl
@[simp] theorem State.modClk_pending (s : State) (r : Nat) (f : ClockRegion → ClockRegion) : (s.modClk r f).pending = s.pending := rfl

/-! ### `State.modSitePwr` changes `pwr` alone -/

@[simp] theorem State.modSitePwr_cores (s : State) (i : Nat) (f : SitePower → SitePower) : (s.modSitePwr i f).cores = s.cores := rfl
@[simp] theorem State.modSitePwr_sites (s : State) (i : Nat) (f : SitePower → SitePower) : (s.modSitePwr i f).sites = s.sites := rfl
@[simp] theorem State.modSitePwr_jobs (s : State) (i : Nat) (f : SitePower → SitePower) : (s.modSitePwr i f).jobs = s.jobs := rfl
@[simp] theorem State.modSitePwr_pace (s : State) (i : Nat) (f : SitePower → SitePower) : (s.modSitePwr i f).pace = s.pace := rfl
@[simp] theorem State.modSitePwr_sends (s : State) (i : Nat) (f : SitePower → SitePower) : (s.modSitePwr i f).sends = s.sends := rfl
@[simp] theorem State.modSitePwr_blames (s : State) (i : Nat) (f : SitePower → SitePower) : (s.modSitePwr i f).blames = s.blames := rfl
@[simp] theorem State.modSitePwr_mem (s : State) (i : Nat) (f : SitePower → SitePower) : (s.modSitePwr i f).mem = s.mem := rfl
@[simp] theorem State.modSitePwr_orgs (s : State) (i : Nat) (f : SitePower → SitePower) : (s.modSitePwr i f).orgs = s.orgs := rfl
@[simp] theorem State.modSitePwr_boot (s : State) (i : Nat) (f : SitePower → SitePower) : (s.modSitePwr i f).boot = s.boot := rfl
@[simp] theorem State.modSitePwr_flash (s : State) (i : Nat) (f : SitePower → SitePower) : (s.modSitePwr i f).flash = s.flash := rfl
@[simp] theorem State.modSitePwr_hlt (s : State) (i : Nat) (f : SitePower → SitePower) : (s.modSitePwr i f).hlt = s.hlt := rfl
@[simp] theorem State.modSitePwr_mgmt (s : State) (i : Nat) (f : SitePower → SitePower) : (s.modSitePwr i f).mgmt = s.mgmt := rfl
@[simp] theorem State.modSitePwr_owner (s : State) (i : Nat) (f : SitePower → SitePower) : (s.modSitePwr i f).owner = s.owner := rfl
@[simp] theorem State.modSitePwr_ksk (s : State) (i : Nat) (f : SitePower → SitePower) : (s.modSitePwr i f).ksk = s.ksk := rfl
@[simp] theorem State.modSitePwr_clusters (s : State) (i : Nat) (f : SitePower → SitePower) : (s.modSitePwr i f).clusters = s.clusters := rfl
@[simp] theorem State.modSitePwr_rowPending (s : State) (i : Nat) (f : SitePower → SitePower) : (s.modSitePwr i f).rowPending = s.rowPending := rfl
@[simp] theorem State.modSitePwr_regions (s : State) (i : Nat) (f : SitePower → SitePower) : (s.modSitePwr i f).regions = s.regions := rfl
@[simp] theorem State.modSitePwr_bundles (s : State) (i : Nat) (f : SitePower → SitePower) : (s.modSitePwr i f).bundles = s.bundles := rfl
@[simp] theorem State.modSitePwr_seams (s : State) (i : Nat) (f : SitePower → SitePower) : (s.modSitePwr i f).seams = s.seams := rfl
@[simp] theorem State.modSitePwr_retunes (s : State) (i : Nat) (f : SitePower → SitePower) : (s.modSitePwr i f).retunes = s.retunes := rfl
@[simp] theorem State.modSitePwr_ptn (s : State) (i : Nat) (f : SitePower → SitePower) : (s.modSitePwr i f).ptn = s.ptn := rfl
@[simp] theorem State.modSitePwr_busy (s : State) (i : Nat) (f : SitePower → SitePower) : (s.modSitePwr i f).busy = s.busy := rfl
@[simp] theorem State.modSitePwr_thm (s : State) (i : Nat) (f : SitePower → SitePower) : (s.modSitePwr i f).thm = s.thm := rfl
@[simp] theorem State.modSitePwr_settings (s : State) (i : Nat) (f : SitePower → SitePower) : (s.modSitePwr i f).settings = s.settings := rfl
@[simp] theorem State.modSitePwr_rst (s : State) (i : Nat) (f : SitePower → SitePower) : (s.modSitePwr i f).rst = s.rst := rfl
@[simp] theorem State.modSitePwr_tr (s : State) (i : Nat) (f : SitePower → SitePower) : (s.modSitePwr i f).tr = s.tr := rfl
@[simp] theorem State.modSitePwr_hif (s : State) (i : Nat) (f : SitePower → SitePower) : (s.modSitePwr i f).hif = s.hif := rfl
@[simp] theorem State.modSitePwr_sv (s : State) (i : Nat) (f : SitePower → SitePower) : (s.modSitePwr i f).sv = s.sv := rfl
@[simp] theorem State.modSitePwr_trn (s : State) (i : Nat) (f : SitePower → SitePower) : (s.modSitePwr i f).trn = s.trn := rfl
@[simp] theorem State.modSitePwr_cuffs (s : State) (i : Nat) (f : SitePower → SitePower) : (s.modSitePwr i f).cuffs = s.cuffs := rfl
@[simp] theorem State.modSitePwr_fab (s : State) (i : Nat) (f : SitePower → SitePower) : (s.modSitePwr i f).fab = s.fab := rfl
@[simp] theorem State.modSitePwr_hostMem (s : State) (i : Nat) (f : SitePower → SitePower) : (s.modSitePwr i f).hostMem = s.hostMem := rfl
@[simp] theorem State.modSitePwr_hostBad (s : State) (i : Nat) (f : SitePower → SitePower) : (s.modSitePwr i f).hostBad = s.hostBad := rfl
@[simp] theorem State.modSitePwr_notes (s : State) (i : Nat) (f : SitePower → SitePower) : (s.modSitePwr i f).notes = s.notes := rfl
@[simp] theorem State.modSitePwr_events (s : State) (i : Nat) (f : SitePower → SitePower) : (s.modSitePwr i f).events = s.events := rfl
@[simp] theorem State.modSitePwr_ticks (s : State) (i : Nat) (f : SitePower → SitePower) : (s.modSitePwr i f).ticks = s.ticks := rfl
@[simp] theorem State.modSitePwr_held (s : State) (i : Nat) (f : SitePower → SitePower) : (s.modSitePwr i f).held = s.held := rfl
@[simp] theorem State.modSitePwr_draws (s : State) (i : Nat) (f : SitePower → SitePower) : (s.modSitePwr i f).draws = s.draws := rfl
@[simp] theorem State.modSitePwr_pending (s : State) (i : Nat) (f : SitePower → SitePower) : (s.modSitePwr i f).pending = s.pending := rfl

/-! ### `State.modZone` changes `pwr` alone -/

@[simp] theorem State.modZone_cores (s : State) (z : Nat) (f : Zone → Zone) : (s.modZone z f).cores = s.cores := rfl
@[simp] theorem State.modZone_sites (s : State) (z : Nat) (f : Zone → Zone) : (s.modZone z f).sites = s.sites := rfl
@[simp] theorem State.modZone_jobs (s : State) (z : Nat) (f : Zone → Zone) : (s.modZone z f).jobs = s.jobs := rfl
@[simp] theorem State.modZone_pace (s : State) (z : Nat) (f : Zone → Zone) : (s.modZone z f).pace = s.pace := rfl
@[simp] theorem State.modZone_sends (s : State) (z : Nat) (f : Zone → Zone) : (s.modZone z f).sends = s.sends := rfl
@[simp] theorem State.modZone_blames (s : State) (z : Nat) (f : Zone → Zone) : (s.modZone z f).blames = s.blames := rfl
@[simp] theorem State.modZone_mem (s : State) (z : Nat) (f : Zone → Zone) : (s.modZone z f).mem = s.mem := rfl
@[simp] theorem State.modZone_orgs (s : State) (z : Nat) (f : Zone → Zone) : (s.modZone z f).orgs = s.orgs := rfl
@[simp] theorem State.modZone_boot (s : State) (z : Nat) (f : Zone → Zone) : (s.modZone z f).boot = s.boot := rfl
@[simp] theorem State.modZone_flash (s : State) (z : Nat) (f : Zone → Zone) : (s.modZone z f).flash = s.flash := rfl
@[simp] theorem State.modZone_hlt (s : State) (z : Nat) (f : Zone → Zone) : (s.modZone z f).hlt = s.hlt := rfl
@[simp] theorem State.modZone_mgmt (s : State) (z : Nat) (f : Zone → Zone) : (s.modZone z f).mgmt = s.mgmt := rfl
@[simp] theorem State.modZone_owner (s : State) (z : Nat) (f : Zone → Zone) : (s.modZone z f).owner = s.owner := rfl
@[simp] theorem State.modZone_ksk (s : State) (z : Nat) (f : Zone → Zone) : (s.modZone z f).ksk = s.ksk := rfl
@[simp] theorem State.modZone_clusters (s : State) (z : Nat) (f : Zone → Zone) : (s.modZone z f).clusters = s.clusters := rfl
@[simp] theorem State.modZone_rowPending (s : State) (z : Nat) (f : Zone → Zone) : (s.modZone z f).rowPending = s.rowPending := rfl
@[simp] theorem State.modZone_regions (s : State) (z : Nat) (f : Zone → Zone) : (s.modZone z f).regions = s.regions := rfl
@[simp] theorem State.modZone_bundles (s : State) (z : Nat) (f : Zone → Zone) : (s.modZone z f).bundles = s.bundles := rfl
@[simp] theorem State.modZone_seams (s : State) (z : Nat) (f : Zone → Zone) : (s.modZone z f).seams = s.seams := rfl
@[simp] theorem State.modZone_retunes (s : State) (z : Nat) (f : Zone → Zone) : (s.modZone z f).retunes = s.retunes := rfl
@[simp] theorem State.modZone_ptn (s : State) (z : Nat) (f : Zone → Zone) : (s.modZone z f).ptn = s.ptn := rfl
@[simp] theorem State.modZone_busy (s : State) (z : Nat) (f : Zone → Zone) : (s.modZone z f).busy = s.busy := rfl
@[simp] theorem State.modZone_thm (s : State) (z : Nat) (f : Zone → Zone) : (s.modZone z f).thm = s.thm := rfl
@[simp] theorem State.modZone_settings (s : State) (z : Nat) (f : Zone → Zone) : (s.modZone z f).settings = s.settings := rfl
@[simp] theorem State.modZone_rst (s : State) (z : Nat) (f : Zone → Zone) : (s.modZone z f).rst = s.rst := rfl
@[simp] theorem State.modZone_tr (s : State) (z : Nat) (f : Zone → Zone) : (s.modZone z f).tr = s.tr := rfl
@[simp] theorem State.modZone_hif (s : State) (z : Nat) (f : Zone → Zone) : (s.modZone z f).hif = s.hif := rfl
@[simp] theorem State.modZone_sv (s : State) (z : Nat) (f : Zone → Zone) : (s.modZone z f).sv = s.sv := rfl
@[simp] theorem State.modZone_trn (s : State) (z : Nat) (f : Zone → Zone) : (s.modZone z f).trn = s.trn := rfl
@[simp] theorem State.modZone_cuffs (s : State) (z : Nat) (f : Zone → Zone) : (s.modZone z f).cuffs = s.cuffs := rfl
@[simp] theorem State.modZone_fab (s : State) (z : Nat) (f : Zone → Zone) : (s.modZone z f).fab = s.fab := rfl
@[simp] theorem State.modZone_hostMem (s : State) (z : Nat) (f : Zone → Zone) : (s.modZone z f).hostMem = s.hostMem := rfl
@[simp] theorem State.modZone_hostBad (s : State) (z : Nat) (f : Zone → Zone) : (s.modZone z f).hostBad = s.hostBad := rfl
@[simp] theorem State.modZone_notes (s : State) (z : Nat) (f : Zone → Zone) : (s.modZone z f).notes = s.notes := rfl
@[simp] theorem State.modZone_events (s : State) (z : Nat) (f : Zone → Zone) : (s.modZone z f).events = s.events := rfl
@[simp] theorem State.modZone_ticks (s : State) (z : Nat) (f : Zone → Zone) : (s.modZone z f).ticks = s.ticks := rfl
@[simp] theorem State.modZone_held (s : State) (z : Nat) (f : Zone → Zone) : (s.modZone z f).held = s.held := rfl
@[simp] theorem State.modZone_draws (s : State) (z : Nat) (f : Zone → Zone) : (s.modZone z f).draws = s.draws := rfl
@[simp] theorem State.modZone_pending (s : State) (z : Nat) (f : Zone → Zone) : (s.modZone z f).pending = s.pending := rfl

/-! ### `State.modRouter` changes `tr` alone -/

@[simp] theorem State.modRouter_cores (s : State) (b : Nat) (f : Router → Router) : (s.modRouter b f).cores = s.cores := rfl
@[simp] theorem State.modRouter_sites (s : State) (b : Nat) (f : Router → Router) : (s.modRouter b f).sites = s.sites := rfl
@[simp] theorem State.modRouter_jobs (s : State) (b : Nat) (f : Router → Router) : (s.modRouter b f).jobs = s.jobs := rfl
@[simp] theorem State.modRouter_pace (s : State) (b : Nat) (f : Router → Router) : (s.modRouter b f).pace = s.pace := rfl
@[simp] theorem State.modRouter_sends (s : State) (b : Nat) (f : Router → Router) : (s.modRouter b f).sends = s.sends := rfl
@[simp] theorem State.modRouter_blames (s : State) (b : Nat) (f : Router → Router) : (s.modRouter b f).blames = s.blames := rfl
@[simp] theorem State.modRouter_mem (s : State) (b : Nat) (f : Router → Router) : (s.modRouter b f).mem = s.mem := rfl
@[simp] theorem State.modRouter_orgs (s : State) (b : Nat) (f : Router → Router) : (s.modRouter b f).orgs = s.orgs := rfl
@[simp] theorem State.modRouter_boot (s : State) (b : Nat) (f : Router → Router) : (s.modRouter b f).boot = s.boot := rfl
@[simp] theorem State.modRouter_flash (s : State) (b : Nat) (f : Router → Router) : (s.modRouter b f).flash = s.flash := rfl
@[simp] theorem State.modRouter_hlt (s : State) (b : Nat) (f : Router → Router) : (s.modRouter b f).hlt = s.hlt := rfl
@[simp] theorem State.modRouter_mgmt (s : State) (b : Nat) (f : Router → Router) : (s.modRouter b f).mgmt = s.mgmt := rfl
@[simp] theorem State.modRouter_owner (s : State) (b : Nat) (f : Router → Router) : (s.modRouter b f).owner = s.owner := rfl
@[simp] theorem State.modRouter_ksk (s : State) (b : Nat) (f : Router → Router) : (s.modRouter b f).ksk = s.ksk := rfl
@[simp] theorem State.modRouter_clusters (s : State) (b : Nat) (f : Router → Router) : (s.modRouter b f).clusters = s.clusters := rfl
@[simp] theorem State.modRouter_rowPending (s : State) (b : Nat) (f : Router → Router) : (s.modRouter b f).rowPending = s.rowPending := rfl
@[simp] theorem State.modRouter_regions (s : State) (b : Nat) (f : Router → Router) : (s.modRouter b f).regions = s.regions := rfl
@[simp] theorem State.modRouter_bundles (s : State) (b : Nat) (f : Router → Router) : (s.modRouter b f).bundles = s.bundles := rfl
@[simp] theorem State.modRouter_seams (s : State) (b : Nat) (f : Router → Router) : (s.modRouter b f).seams = s.seams := rfl
@[simp] theorem State.modRouter_retunes (s : State) (b : Nat) (f : Router → Router) : (s.modRouter b f).retunes = s.retunes := rfl
@[simp] theorem State.modRouter_ptn (s : State) (b : Nat) (f : Router → Router) : (s.modRouter b f).ptn = s.ptn := rfl
@[simp] theorem State.modRouter_busy (s : State) (b : Nat) (f : Router → Router) : (s.modRouter b f).busy = s.busy := rfl
@[simp] theorem State.modRouter_pwr (s : State) (b : Nat) (f : Router → Router) : (s.modRouter b f).pwr = s.pwr := rfl
@[simp] theorem State.modRouter_thm (s : State) (b : Nat) (f : Router → Router) : (s.modRouter b f).thm = s.thm := rfl
@[simp] theorem State.modRouter_settings (s : State) (b : Nat) (f : Router → Router) : (s.modRouter b f).settings = s.settings := rfl
@[simp] theorem State.modRouter_rst (s : State) (b : Nat) (f : Router → Router) : (s.modRouter b f).rst = s.rst := rfl
@[simp] theorem State.modRouter_hif (s : State) (b : Nat) (f : Router → Router) : (s.modRouter b f).hif = s.hif := rfl
@[simp] theorem State.modRouter_sv (s : State) (b : Nat) (f : Router → Router) : (s.modRouter b f).sv = s.sv := rfl
@[simp] theorem State.modRouter_trn (s : State) (b : Nat) (f : Router → Router) : (s.modRouter b f).trn = s.trn := rfl
@[simp] theorem State.modRouter_cuffs (s : State) (b : Nat) (f : Router → Router) : (s.modRouter b f).cuffs = s.cuffs := rfl
@[simp] theorem State.modRouter_fab (s : State) (b : Nat) (f : Router → Router) : (s.modRouter b f).fab = s.fab := rfl
@[simp] theorem State.modRouter_hostMem (s : State) (b : Nat) (f : Router → Router) : (s.modRouter b f).hostMem = s.hostMem := rfl
@[simp] theorem State.modRouter_hostBad (s : State) (b : Nat) (f : Router → Router) : (s.modRouter b f).hostBad = s.hostBad := rfl
@[simp] theorem State.modRouter_notes (s : State) (b : Nat) (f : Router → Router) : (s.modRouter b f).notes = s.notes := rfl
@[simp] theorem State.modRouter_events (s : State) (b : Nat) (f : Router → Router) : (s.modRouter b f).events = s.events := rfl
@[simp] theorem State.modRouter_ticks (s : State) (b : Nat) (f : Router → Router) : (s.modRouter b f).ticks = s.ticks := rfl
@[simp] theorem State.modRouter_held (s : State) (b : Nat) (f : Router → Router) : (s.modRouter b f).held = s.held := rfl
@[simp] theorem State.modRouter_draws (s : State) (b : Nat) (f : Router → Router) : (s.modRouter b f).draws = s.draws := rfl
@[simp] theorem State.modRouter_pending (s : State) (b : Nat) (f : Router → Router) : (s.modRouter b f).pending = s.pending := rfl

/-! ### `State.modSq` changes `tr` alone -/

@[simp] theorem State.modSq_cores (s : State) (q : Nat) (f : SiteQueue → SiteQueue) : (s.modSq q f).cores = s.cores := rfl
@[simp] theorem State.modSq_sites (s : State) (q : Nat) (f : SiteQueue → SiteQueue) : (s.modSq q f).sites = s.sites := rfl
@[simp] theorem State.modSq_jobs (s : State) (q : Nat) (f : SiteQueue → SiteQueue) : (s.modSq q f).jobs = s.jobs := rfl
@[simp] theorem State.modSq_pace (s : State) (q : Nat) (f : SiteQueue → SiteQueue) : (s.modSq q f).pace = s.pace := rfl
@[simp] theorem State.modSq_sends (s : State) (q : Nat) (f : SiteQueue → SiteQueue) : (s.modSq q f).sends = s.sends := rfl
@[simp] theorem State.modSq_blames (s : State) (q : Nat) (f : SiteQueue → SiteQueue) : (s.modSq q f).blames = s.blames := rfl
@[simp] theorem State.modSq_mem (s : State) (q : Nat) (f : SiteQueue → SiteQueue) : (s.modSq q f).mem = s.mem := rfl
@[simp] theorem State.modSq_orgs (s : State) (q : Nat) (f : SiteQueue → SiteQueue) : (s.modSq q f).orgs = s.orgs := rfl
@[simp] theorem State.modSq_boot (s : State) (q : Nat) (f : SiteQueue → SiteQueue) : (s.modSq q f).boot = s.boot := rfl
@[simp] theorem State.modSq_flash (s : State) (q : Nat) (f : SiteQueue → SiteQueue) : (s.modSq q f).flash = s.flash := rfl
@[simp] theorem State.modSq_hlt (s : State) (q : Nat) (f : SiteQueue → SiteQueue) : (s.modSq q f).hlt = s.hlt := rfl
@[simp] theorem State.modSq_mgmt (s : State) (q : Nat) (f : SiteQueue → SiteQueue) : (s.modSq q f).mgmt = s.mgmt := rfl
@[simp] theorem State.modSq_owner (s : State) (q : Nat) (f : SiteQueue → SiteQueue) : (s.modSq q f).owner = s.owner := rfl
@[simp] theorem State.modSq_ksk (s : State) (q : Nat) (f : SiteQueue → SiteQueue) : (s.modSq q f).ksk = s.ksk := rfl
@[simp] theorem State.modSq_clusters (s : State) (q : Nat) (f : SiteQueue → SiteQueue) : (s.modSq q f).clusters = s.clusters := rfl
@[simp] theorem State.modSq_rowPending (s : State) (q : Nat) (f : SiteQueue → SiteQueue) : (s.modSq q f).rowPending = s.rowPending := rfl
@[simp] theorem State.modSq_regions (s : State) (q : Nat) (f : SiteQueue → SiteQueue) : (s.modSq q f).regions = s.regions := rfl
@[simp] theorem State.modSq_bundles (s : State) (q : Nat) (f : SiteQueue → SiteQueue) : (s.modSq q f).bundles = s.bundles := rfl
@[simp] theorem State.modSq_seams (s : State) (q : Nat) (f : SiteQueue → SiteQueue) : (s.modSq q f).seams = s.seams := rfl
@[simp] theorem State.modSq_retunes (s : State) (q : Nat) (f : SiteQueue → SiteQueue) : (s.modSq q f).retunes = s.retunes := rfl
@[simp] theorem State.modSq_ptn (s : State) (q : Nat) (f : SiteQueue → SiteQueue) : (s.modSq q f).ptn = s.ptn := rfl
@[simp] theorem State.modSq_busy (s : State) (q : Nat) (f : SiteQueue → SiteQueue) : (s.modSq q f).busy = s.busy := rfl
@[simp] theorem State.modSq_pwr (s : State) (q : Nat) (f : SiteQueue → SiteQueue) : (s.modSq q f).pwr = s.pwr := rfl
@[simp] theorem State.modSq_thm (s : State) (q : Nat) (f : SiteQueue → SiteQueue) : (s.modSq q f).thm = s.thm := rfl
@[simp] theorem State.modSq_settings (s : State) (q : Nat) (f : SiteQueue → SiteQueue) : (s.modSq q f).settings = s.settings := rfl
@[simp] theorem State.modSq_rst (s : State) (q : Nat) (f : SiteQueue → SiteQueue) : (s.modSq q f).rst = s.rst := rfl
@[simp] theorem State.modSq_hif (s : State) (q : Nat) (f : SiteQueue → SiteQueue) : (s.modSq q f).hif = s.hif := rfl
@[simp] theorem State.modSq_sv (s : State) (q : Nat) (f : SiteQueue → SiteQueue) : (s.modSq q f).sv = s.sv := rfl
@[simp] theorem State.modSq_trn (s : State) (q : Nat) (f : SiteQueue → SiteQueue) : (s.modSq q f).trn = s.trn := rfl
@[simp] theorem State.modSq_cuffs (s : State) (q : Nat) (f : SiteQueue → SiteQueue) : (s.modSq q f).cuffs = s.cuffs := rfl
@[simp] theorem State.modSq_fab (s : State) (q : Nat) (f : SiteQueue → SiteQueue) : (s.modSq q f).fab = s.fab := rfl
@[simp] theorem State.modSq_hostMem (s : State) (q : Nat) (f : SiteQueue → SiteQueue) : (s.modSq q f).hostMem = s.hostMem := rfl
@[simp] theorem State.modSq_hostBad (s : State) (q : Nat) (f : SiteQueue → SiteQueue) : (s.modSq q f).hostBad = s.hostBad := rfl
@[simp] theorem State.modSq_notes (s : State) (q : Nat) (f : SiteQueue → SiteQueue) : (s.modSq q f).notes = s.notes := rfl
@[simp] theorem State.modSq_events (s : State) (q : Nat) (f : SiteQueue → SiteQueue) : (s.modSq q f).events = s.events := rfl
@[simp] theorem State.modSq_ticks (s : State) (q : Nat) (f : SiteQueue → SiteQueue) : (s.modSq q f).ticks = s.ticks := rfl
@[simp] theorem State.modSq_held (s : State) (q : Nat) (f : SiteQueue → SiteQueue) : (s.modSq q f).held = s.held := rfl
@[simp] theorem State.modSq_draws (s : State) (q : Nat) (f : SiteQueue → SiteQueue) : (s.modSq q f).draws = s.draws := rfl
@[simp] theorem State.modSq_pending (s : State) (q : Nat) (f : SiteQueue → SiteQueue) : (s.modSq q f).pending = s.pending := rfl

/-! ### `State.modFab` changes `fab` alone -/

@[simp] theorem State.modFab_cores (s : State) (f : Fabric → Fabric) : (s.modFab f).cores = s.cores := rfl
@[simp] theorem State.modFab_sites (s : State) (f : Fabric → Fabric) : (s.modFab f).sites = s.sites := rfl
@[simp] theorem State.modFab_jobs (s : State) (f : Fabric → Fabric) : (s.modFab f).jobs = s.jobs := rfl
@[simp] theorem State.modFab_pace (s : State) (f : Fabric → Fabric) : (s.modFab f).pace = s.pace := rfl
@[simp] theorem State.modFab_sends (s : State) (f : Fabric → Fabric) : (s.modFab f).sends = s.sends := rfl
@[simp] theorem State.modFab_blames (s : State) (f : Fabric → Fabric) : (s.modFab f).blames = s.blames := rfl
@[simp] theorem State.modFab_mem (s : State) (f : Fabric → Fabric) : (s.modFab f).mem = s.mem := rfl
@[simp] theorem State.modFab_orgs (s : State) (f : Fabric → Fabric) : (s.modFab f).orgs = s.orgs := rfl
@[simp] theorem State.modFab_boot (s : State) (f : Fabric → Fabric) : (s.modFab f).boot = s.boot := rfl
@[simp] theorem State.modFab_flash (s : State) (f : Fabric → Fabric) : (s.modFab f).flash = s.flash := rfl
@[simp] theorem State.modFab_hlt (s : State) (f : Fabric → Fabric) : (s.modFab f).hlt = s.hlt := rfl
@[simp] theorem State.modFab_mgmt (s : State) (f : Fabric → Fabric) : (s.modFab f).mgmt = s.mgmt := rfl
@[simp] theorem State.modFab_owner (s : State) (f : Fabric → Fabric) : (s.modFab f).owner = s.owner := rfl
@[simp] theorem State.modFab_ksk (s : State) (f : Fabric → Fabric) : (s.modFab f).ksk = s.ksk := rfl
@[simp] theorem State.modFab_clusters (s : State) (f : Fabric → Fabric) : (s.modFab f).clusters = s.clusters := rfl
@[simp] theorem State.modFab_rowPending (s : State) (f : Fabric → Fabric) : (s.modFab f).rowPending = s.rowPending := rfl
@[simp] theorem State.modFab_regions (s : State) (f : Fabric → Fabric) : (s.modFab f).regions = s.regions := rfl
@[simp] theorem State.modFab_bundles (s : State) (f : Fabric → Fabric) : (s.modFab f).bundles = s.bundles := rfl
@[simp] theorem State.modFab_seams (s : State) (f : Fabric → Fabric) : (s.modFab f).seams = s.seams := rfl
@[simp] theorem State.modFab_retunes (s : State) (f : Fabric → Fabric) : (s.modFab f).retunes = s.retunes := rfl
@[simp] theorem State.modFab_ptn (s : State) (f : Fabric → Fabric) : (s.modFab f).ptn = s.ptn := rfl
@[simp] theorem State.modFab_busy (s : State) (f : Fabric → Fabric) : (s.modFab f).busy = s.busy := rfl
@[simp] theorem State.modFab_pwr (s : State) (f : Fabric → Fabric) : (s.modFab f).pwr = s.pwr := rfl
@[simp] theorem State.modFab_thm (s : State) (f : Fabric → Fabric) : (s.modFab f).thm = s.thm := rfl
@[simp] theorem State.modFab_settings (s : State) (f : Fabric → Fabric) : (s.modFab f).settings = s.settings := rfl
@[simp] theorem State.modFab_rst (s : State) (f : Fabric → Fabric) : (s.modFab f).rst = s.rst := rfl
@[simp] theorem State.modFab_tr (s : State) (f : Fabric → Fabric) : (s.modFab f).tr = s.tr := rfl
@[simp] theorem State.modFab_hif (s : State) (f : Fabric → Fabric) : (s.modFab f).hif = s.hif := rfl
@[simp] theorem State.modFab_sv (s : State) (f : Fabric → Fabric) : (s.modFab f).sv = s.sv := rfl
@[simp] theorem State.modFab_trn (s : State) (f : Fabric → Fabric) : (s.modFab f).trn = s.trn := rfl
@[simp] theorem State.modFab_cuffs (s : State) (f : Fabric → Fabric) : (s.modFab f).cuffs = s.cuffs := rfl
@[simp] theorem State.modFab_hostMem (s : State) (f : Fabric → Fabric) : (s.modFab f).hostMem = s.hostMem := rfl
@[simp] theorem State.modFab_hostBad (s : State) (f : Fabric → Fabric) : (s.modFab f).hostBad = s.hostBad := rfl
@[simp] theorem State.modFab_notes (s : State) (f : Fabric → Fabric) : (s.modFab f).notes = s.notes := rfl
@[simp] theorem State.modFab_events (s : State) (f : Fabric → Fabric) : (s.modFab f).events = s.events := rfl
@[simp] theorem State.modFab_ticks (s : State) (f : Fabric → Fabric) : (s.modFab f).ticks = s.ticks := rfl
@[simp] theorem State.modFab_held (s : State) (f : Fabric → Fabric) : (s.modFab f).held = s.held := rfl
@[simp] theorem State.modFab_draws (s : State) (f : Fabric → Fabric) : (s.modFab f).draws = s.draws := rfl
@[simp] theorem State.modFab_pending (s : State) (f : Fabric → Fabric) : (s.modFab f).pending = s.pending := rfl

/-! ### `State.modCuff` changes `cuffs` alone -/

@[simp] theorem State.modCuff_cores (s : State) (c : Nat) (f : Cuff → Cuff) : (s.modCuff c f).cores = s.cores := rfl
@[simp] theorem State.modCuff_sites (s : State) (c : Nat) (f : Cuff → Cuff) : (s.modCuff c f).sites = s.sites := rfl
@[simp] theorem State.modCuff_jobs (s : State) (c : Nat) (f : Cuff → Cuff) : (s.modCuff c f).jobs = s.jobs := rfl
@[simp] theorem State.modCuff_pace (s : State) (c : Nat) (f : Cuff → Cuff) : (s.modCuff c f).pace = s.pace := rfl
@[simp] theorem State.modCuff_sends (s : State) (c : Nat) (f : Cuff → Cuff) : (s.modCuff c f).sends = s.sends := rfl
@[simp] theorem State.modCuff_blames (s : State) (c : Nat) (f : Cuff → Cuff) : (s.modCuff c f).blames = s.blames := rfl
@[simp] theorem State.modCuff_mem (s : State) (c : Nat) (f : Cuff → Cuff) : (s.modCuff c f).mem = s.mem := rfl
@[simp] theorem State.modCuff_orgs (s : State) (c : Nat) (f : Cuff → Cuff) : (s.modCuff c f).orgs = s.orgs := rfl
@[simp] theorem State.modCuff_boot (s : State) (c : Nat) (f : Cuff → Cuff) : (s.modCuff c f).boot = s.boot := rfl
@[simp] theorem State.modCuff_flash (s : State) (c : Nat) (f : Cuff → Cuff) : (s.modCuff c f).flash = s.flash := rfl
@[simp] theorem State.modCuff_hlt (s : State) (c : Nat) (f : Cuff → Cuff) : (s.modCuff c f).hlt = s.hlt := rfl
@[simp] theorem State.modCuff_mgmt (s : State) (c : Nat) (f : Cuff → Cuff) : (s.modCuff c f).mgmt = s.mgmt := rfl
@[simp] theorem State.modCuff_owner (s : State) (c : Nat) (f : Cuff → Cuff) : (s.modCuff c f).owner = s.owner := rfl
@[simp] theorem State.modCuff_ksk (s : State) (c : Nat) (f : Cuff → Cuff) : (s.modCuff c f).ksk = s.ksk := rfl
@[simp] theorem State.modCuff_clusters (s : State) (c : Nat) (f : Cuff → Cuff) : (s.modCuff c f).clusters = s.clusters := rfl
@[simp] theorem State.modCuff_rowPending (s : State) (c : Nat) (f : Cuff → Cuff) : (s.modCuff c f).rowPending = s.rowPending := rfl
@[simp] theorem State.modCuff_regions (s : State) (c : Nat) (f : Cuff → Cuff) : (s.modCuff c f).regions = s.regions := rfl
@[simp] theorem State.modCuff_bundles (s : State) (c : Nat) (f : Cuff → Cuff) : (s.modCuff c f).bundles = s.bundles := rfl
@[simp] theorem State.modCuff_seams (s : State) (c : Nat) (f : Cuff → Cuff) : (s.modCuff c f).seams = s.seams := rfl
@[simp] theorem State.modCuff_retunes (s : State) (c : Nat) (f : Cuff → Cuff) : (s.modCuff c f).retunes = s.retunes := rfl
@[simp] theorem State.modCuff_ptn (s : State) (c : Nat) (f : Cuff → Cuff) : (s.modCuff c f).ptn = s.ptn := rfl
@[simp] theorem State.modCuff_busy (s : State) (c : Nat) (f : Cuff → Cuff) : (s.modCuff c f).busy = s.busy := rfl
@[simp] theorem State.modCuff_pwr (s : State) (c : Nat) (f : Cuff → Cuff) : (s.modCuff c f).pwr = s.pwr := rfl
@[simp] theorem State.modCuff_thm (s : State) (c : Nat) (f : Cuff → Cuff) : (s.modCuff c f).thm = s.thm := rfl
@[simp] theorem State.modCuff_settings (s : State) (c : Nat) (f : Cuff → Cuff) : (s.modCuff c f).settings = s.settings := rfl
@[simp] theorem State.modCuff_rst (s : State) (c : Nat) (f : Cuff → Cuff) : (s.modCuff c f).rst = s.rst := rfl
@[simp] theorem State.modCuff_tr (s : State) (c : Nat) (f : Cuff → Cuff) : (s.modCuff c f).tr = s.tr := rfl
@[simp] theorem State.modCuff_hif (s : State) (c : Nat) (f : Cuff → Cuff) : (s.modCuff c f).hif = s.hif := rfl
@[simp] theorem State.modCuff_sv (s : State) (c : Nat) (f : Cuff → Cuff) : (s.modCuff c f).sv = s.sv := rfl
@[simp] theorem State.modCuff_trn (s : State) (c : Nat) (f : Cuff → Cuff) : (s.modCuff c f).trn = s.trn := rfl
@[simp] theorem State.modCuff_fab (s : State) (c : Nat) (f : Cuff → Cuff) : (s.modCuff c f).fab = s.fab := rfl
@[simp] theorem State.modCuff_hostMem (s : State) (c : Nat) (f : Cuff → Cuff) : (s.modCuff c f).hostMem = s.hostMem := rfl
@[simp] theorem State.modCuff_hostBad (s : State) (c : Nat) (f : Cuff → Cuff) : (s.modCuff c f).hostBad = s.hostBad := rfl
@[simp] theorem State.modCuff_notes (s : State) (c : Nat) (f : Cuff → Cuff) : (s.modCuff c f).notes = s.notes := rfl
@[simp] theorem State.modCuff_events (s : State) (c : Nat) (f : Cuff → Cuff) : (s.modCuff c f).events = s.events := rfl
@[simp] theorem State.modCuff_ticks (s : State) (c : Nat) (f : Cuff → Cuff) : (s.modCuff c f).ticks = s.ticks := rfl
@[simp] theorem State.modCuff_held (s : State) (c : Nat) (f : Cuff → Cuff) : (s.modCuff c f).held = s.held := rfl
@[simp] theorem State.modCuff_draws (s : State) (c : Nat) (f : Cuff → Cuff) : (s.modCuff c f).draws = s.draws := rfl
@[simp] theorem State.modCuff_pending (s : State) (c : Nat) (f : Cuff → Cuff) : (s.modCuff c f).pending = s.pending := rfl

/-! ### `State.modTraining` changes `trn` alone -/

@[simp] theorem State.modTraining_cores (s : State) (n : Nat) (f : Training → Training) : (s.modTraining n f).cores = s.cores := rfl
@[simp] theorem State.modTraining_sites (s : State) (n : Nat) (f : Training → Training) : (s.modTraining n f).sites = s.sites := rfl
@[simp] theorem State.modTraining_jobs (s : State) (n : Nat) (f : Training → Training) : (s.modTraining n f).jobs = s.jobs := rfl
@[simp] theorem State.modTraining_pace (s : State) (n : Nat) (f : Training → Training) : (s.modTraining n f).pace = s.pace := rfl
@[simp] theorem State.modTraining_sends (s : State) (n : Nat) (f : Training → Training) : (s.modTraining n f).sends = s.sends := rfl
@[simp] theorem State.modTraining_blames (s : State) (n : Nat) (f : Training → Training) : (s.modTraining n f).blames = s.blames := rfl
@[simp] theorem State.modTraining_mem (s : State) (n : Nat) (f : Training → Training) : (s.modTraining n f).mem = s.mem := rfl
@[simp] theorem State.modTraining_orgs (s : State) (n : Nat) (f : Training → Training) : (s.modTraining n f).orgs = s.orgs := rfl
@[simp] theorem State.modTraining_boot (s : State) (n : Nat) (f : Training → Training) : (s.modTraining n f).boot = s.boot := rfl
@[simp] theorem State.modTraining_flash (s : State) (n : Nat) (f : Training → Training) : (s.modTraining n f).flash = s.flash := rfl
@[simp] theorem State.modTraining_hlt (s : State) (n : Nat) (f : Training → Training) : (s.modTraining n f).hlt = s.hlt := rfl
@[simp] theorem State.modTraining_mgmt (s : State) (n : Nat) (f : Training → Training) : (s.modTraining n f).mgmt = s.mgmt := rfl
@[simp] theorem State.modTraining_owner (s : State) (n : Nat) (f : Training → Training) : (s.modTraining n f).owner = s.owner := rfl
@[simp] theorem State.modTraining_ksk (s : State) (n : Nat) (f : Training → Training) : (s.modTraining n f).ksk = s.ksk := rfl
@[simp] theorem State.modTraining_clusters (s : State) (n : Nat) (f : Training → Training) : (s.modTraining n f).clusters = s.clusters := rfl
@[simp] theorem State.modTraining_rowPending (s : State) (n : Nat) (f : Training → Training) : (s.modTraining n f).rowPending = s.rowPending := rfl
@[simp] theorem State.modTraining_regions (s : State) (n : Nat) (f : Training → Training) : (s.modTraining n f).regions = s.regions := rfl
@[simp] theorem State.modTraining_bundles (s : State) (n : Nat) (f : Training → Training) : (s.modTraining n f).bundles = s.bundles := rfl
@[simp] theorem State.modTraining_seams (s : State) (n : Nat) (f : Training → Training) : (s.modTraining n f).seams = s.seams := rfl
@[simp] theorem State.modTraining_retunes (s : State) (n : Nat) (f : Training → Training) : (s.modTraining n f).retunes = s.retunes := rfl
@[simp] theorem State.modTraining_ptn (s : State) (n : Nat) (f : Training → Training) : (s.modTraining n f).ptn = s.ptn := rfl
@[simp] theorem State.modTraining_busy (s : State) (n : Nat) (f : Training → Training) : (s.modTraining n f).busy = s.busy := rfl
@[simp] theorem State.modTraining_pwr (s : State) (n : Nat) (f : Training → Training) : (s.modTraining n f).pwr = s.pwr := rfl
@[simp] theorem State.modTraining_thm (s : State) (n : Nat) (f : Training → Training) : (s.modTraining n f).thm = s.thm := rfl
@[simp] theorem State.modTraining_settings (s : State) (n : Nat) (f : Training → Training) : (s.modTraining n f).settings = s.settings := rfl
@[simp] theorem State.modTraining_rst (s : State) (n : Nat) (f : Training → Training) : (s.modTraining n f).rst = s.rst := rfl
@[simp] theorem State.modTraining_tr (s : State) (n : Nat) (f : Training → Training) : (s.modTraining n f).tr = s.tr := rfl
@[simp] theorem State.modTraining_hif (s : State) (n : Nat) (f : Training → Training) : (s.modTraining n f).hif = s.hif := rfl
@[simp] theorem State.modTraining_sv (s : State) (n : Nat) (f : Training → Training) : (s.modTraining n f).sv = s.sv := rfl
@[simp] theorem State.modTraining_cuffs (s : State) (n : Nat) (f : Training → Training) : (s.modTraining n f).cuffs = s.cuffs := rfl
@[simp] theorem State.modTraining_fab (s : State) (n : Nat) (f : Training → Training) : (s.modTraining n f).fab = s.fab := rfl
@[simp] theorem State.modTraining_hostMem (s : State) (n : Nat) (f : Training → Training) : (s.modTraining n f).hostMem = s.hostMem := rfl
@[simp] theorem State.modTraining_hostBad (s : State) (n : Nat) (f : Training → Training) : (s.modTraining n f).hostBad = s.hostBad := rfl
@[simp] theorem State.modTraining_notes (s : State) (n : Nat) (f : Training → Training) : (s.modTraining n f).notes = s.notes := rfl
@[simp] theorem State.modTraining_events (s : State) (n : Nat) (f : Training → Training) : (s.modTraining n f).events = s.events := rfl
@[simp] theorem State.modTraining_ticks (s : State) (n : Nat) (f : Training → Training) : (s.modTraining n f).ticks = s.ticks := rfl
@[simp] theorem State.modTraining_held (s : State) (n : Nat) (f : Training → Training) : (s.modTraining n f).held = s.held := rfl
@[simp] theorem State.modTraining_draws (s : State) (n : Nat) (f : Training → Training) : (s.modTraining n f).draws = s.draws := rfl
@[simp] theorem State.modTraining_pending (s : State) (n : Nat) (f : Training → Training) : (s.modTraining n f).pending = s.pending := rfl
/-! ## Reads after updates -/

@[simp] theorem State.core_setCore_same (s : State) (lc : Nat) (c : Core) : (s.setCore lc c).core lc = c :=
  Tbl.get_set_same Core.init s.cores lc c

theorem State.core_setCore_other (s : State) {lc k : Nat} (c : Core) (h : k ≠ lc) : (s.setCore lc c).core k = s.core k :=
  Tbl.get_set_other Core.init s.cores c h

@[simp] theorem State.core_modCore_same (s : State) (lc : Nat) (f : Core → Core) : (s.modCore lc f).core lc = f (s.core lc) :=
  State.core_setCore_same s lc _

theorem State.core_modCore_other (s : State) {lc k : Nat} (f : Core → Core) (h : k ≠ lc) : (s.modCore lc f).core k = s.core k :=
  State.core_setCore_other s _ h

@[simp] theorem State.core_drawn (s : State) (n lc : Nat) : (s.drawn n).core lc = s.core lc := rfl
@[simp] theorem State.core_hold (s : State) (i : Instr) (lc : Nat) : (s.hold i).core lc = s.core lc := rfl

@[simp] theorem State.queue_modQueue_same (s : State) (q : Nat) (f : HostQueue → HostQueue) :
    (s.modQueue q f).queue q = f (s.queue q) := by
  simp [State.modQueue, State.queue, Tbl.get_modify]

theorem State.queue_modQueue_other (s : State) {q k : Nat} (f : HostQueue → HostQueue) (h : k ≠ q) :
    (s.modQueue q f).queue k = s.queue k := by
  simp [State.modQueue, State.queue, Tbl.get_modify, h]

@[simp] theorem State.stack_modStack_same (s : State) (k : Nat) (f : Stack → Stack) : (s.modStack k f).stack k = f (s.stack k) := by
  simp [State.modStack, State.stack, Tbl.get_modify]

theorem State.stack_modStack_other (s : State) {k j : Nat} (f : Stack → Stack) (h : j ≠ k) :
    (s.modStack k f).stack j = s.stack j := by
  simp [State.modStack, State.stack, Tbl.get_modify, h]

@[simp] theorem State.site_modSite_same (s : State) (i : Nat) (f : SiteRec → SiteRec) : (s.modSite i f).site i = f (s.site i) := by
  simp [State.modSite, State.site, Tbl.get_modify]

theorem State.site_modSite_other (s : State) {i k : Nat} (f : SiteRec → SiteRec) (h : k ≠ i) :
    (s.modSite i f).site k = s.site k := by
  simp [State.modSite, State.site, Tbl.get_modify, h]

@[simp] theorem State.clk_modClk_same (s : State) (r : Nat) (f : ClockRegion → ClockRegion) : (s.modClk r f).clk r = f (s.clk r) := by
  simp [State.modClk, State.clk, Tbl.get_modify]

theorem State.clk_modClk_other (s : State) {r k : Nat} (f : ClockRegion → ClockRegion) (h : k ≠ r) :
    (s.modClk r f).clk k = s.clk k := by
  simp [State.modClk, State.clk, Tbl.get_modify, h]

@[simp] theorem State.router_modRouter_same (s : State) (b : Nat) (f : Router → Router) : (s.modRouter b f).router b = f (s.router b) := by
  simp [State.modRouter, State.router, Tbl.get_modify]

theorem State.router_modRouter_other (s : State) {b k : Nat} (f : Router → Router) (h : k ≠ b) :
    (s.modRouter b f).router k = s.router k := by
  simp [State.modRouter, State.router, Tbl.get_modify, h]

@[simp] theorem State.cuff_modCuff_same (s : State) (c : Nat) (f : Cuff → Cuff) : (s.modCuff c f).cuff c = f (s.cuff c) := by
  simp [State.modCuff, State.cuff, Tbl.get_modify]

theorem State.cuff_modCuff_other (s : State) {c k : Nat} (f : Cuff → Cuff) (h : k ≠ c) : (s.modCuff c f).cuff k = s.cuff k := by
  simp [State.modCuff, State.cuff, Tbl.get_modify, h]

@[simp] theorem State.zone_modZone_same (s : State) (z : Nat) (f : Zone → Zone) : (s.modZone z f).zone z = f (s.zone z) := by
  simp [State.modZone, State.zone, Tbl.get_modify]

theorem State.zone_modZone_other (s : State) {z k : Nat} (f : Zone → Zone) (h : k ≠ z) : (s.modZone z f).zone k = s.zone k := by
  simp [State.modZone, State.zone, Tbl.get_modify, h]

/-! ## The issue of a slot operation -/

/-- On a core that has ended or stopped nothing issues. -/
theorem slotIssue_dead {i : Instr} {lc : Nat} {s : State} {w : Bool} {n : Core → Core} {act : State}
    (h : (s.core lc).dead = true) : slotIssue i lc s w n act = .next s := by simp [slotIssue, h]

/-- Behind a waiting operation, in a pause or in planned slack the operation joins those held. -/
theorem slotIssue_blocked {i : Instr} {lc : Nat} {s : State} {w : Bool} {n : Core → Core} {act : State}
    (h : (s.core lc).dead = false) (hb : s.blocked lc = true) : slotIssue i lc s w n act = .next (s.hold i) := by
  simp [slotIssue, h, hb]

/-- A wait of its own is counted, and holds it. -/
theorem slotIssue_wait {i : Instr} {lc : Nat} {s : State} {n : Core → Core} {act : State}
    (h : (s.core lc).dead = false) (hb : s.blocked lc = false) : slotIssue i lc s true n act = .next ((s.modCore lc n).hold i) := by
  simp [slotIssue, h, hb]

/-- Otherwise it takes effect. -/
theorem slotIssue_act {i : Instr} {lc : Nat} {s : State} {n : Core → Core} {act : State}
    (h : (s.core lc).dead = false) (hb : s.blocked lc = false) : slotIssue i lc s false n act = .next act := by
  simp [slotIssue, h, hb]

/-- Everything that the issue of a slot operation can do. -/
theorem slotIssue_cases (i : Instr) (lc : Nat) (s : State) (w : Bool) (n : Core → Core) (act : State) :
    ((s.core lc).dead = true ∧ slotIssue i lc s w n act = .next s) ∨
    ((s.core lc).dead = false ∧ s.blocked lc = true ∧ slotIssue i lc s w n act = .next (s.hold i)) ∨
    ((s.core lc).dead = false ∧ s.blocked lc = false ∧ w = true ∧ slotIssue i lc s w n act = .next ((s.modCore lc n).hold i)) ∨
    ((s.core lc).dead = false ∧ s.blocked lc = false ∧ w = false ∧ slotIssue i lc s w n act = .next act) := by
  by_cases h : (s.core lc).dead = true <;> by_cases hb : s.blocked lc = true <;> cases w <;> simp_all [slotIssue]

end Sys2Proof.Machine
end

