-- ==== Sys2Proof/Laws/Memory.lean ====
section
/-! SUPPORT. Laws of device memory: what each operation leaves at every address, and that each keeps the canonical form. -/

namespace Sys2Proof.Machine

/-! ## Reports change no byte -/

@[simp] theorem notify_mem (s : State) (c : Nat) (p : List Byte) : (notify s c p).mem = s.mem := rfl

@[simp] theorem keepEvents_mem (s : State) : (keepEvents s).mem = s.mem := by
  unfold keepEvents; dsimp only; split <;> rfl

@[simp] theorem queueEvent_mem (s : State) (e : PldmEvent) : (queueEvent s e).mem = s.mem := by
  unfold queueEvent; split
  · rfl
  · rw [keepEvents_mem]

@[simp] theorem healthEvent_mem (s : State) (c b : Nat) (p : List Byte) : (healthEvent s c b p).mem = s.mem := by
  unfold healthEvent; dsimp only; rw [notify_mem, queueEvent_mem]

@[simp] theorem healthEventLimited_mem (s : State) (c b j l : Nat) (p : List Byte) :
    (healthEventLimited s c b j l p).mem = s.mem := by
  unfold healthEventLimited; dsimp only; split
  · rfl
  · rw [healthEvent_mem]

@[simp] theorem modCore_mem (s : State) (lc : Nat) (f : Core → Core) : (s.modCore lc f).mem = s.mem := rfl
@[simp] theorem broadcast_mem (s : State) : (broadcast s).mem = s.mem := rfl

/-- A fault of a core changes no memory. -/
@[simp] theorem faultCore_mem (s : State) (lc src code b : Nat) (a : Word) : (faultCore s lc src code b a).mem = s.mem := by
  unfold faultCore
  split
  · rfl
  · split
    · rfl
    · rfl
    · split <;> rfl
    · rfl

@[simp] theorem modErr_bytes (s : State) (i : Option Nat) (f : ErrBlock → ErrBlock) : (s.modErr i f).mem.bytes = s.mem.bytes := by
  cases i <;> rfl

@[simp] theorem logAdd_bytes (s : State) (c : Bool) (e : List Byte) : (logAdd s c e).mem.bytes = s.mem.bytes := by
  unfold logAdd; dsimp only; split <;> rfl

@[simp] theorem logError_bytes (s : State) (da cls req pos pat fl : Nat) (lc : Option Nat) (syn : Nat) :
    (logError s da cls req pos pat fl lc syn).mem.bytes = s.mem.bytes := by
  unfold logError
  dsimp only
  split
  · split
    · rfl
    · simp
  · split
    · simp
    · split
      · simp
      · split <;> simp

@[simp] theorem countCe_bytes (s : State) (da : Nat) : (countCe s da).mem.bytes = s.mem.bytes := by unfold countCe; simp
@[simp] theorem countUe_bytes (s : State) (da syn : Nat) : (countUe s da syn).mem.bytes = s.mem.bytes := by unfold countUe; simp
@[simp] theorem countPoison_bytes (s : State) (da syn : Nat) (lc : Option Nat) : (countPoison s da syn lc).mem.bytes = s.mem.bytes := by
  unfold countPoison; simp
@[simp] theorem countClose_bytes (s : State) (w : Nat) (r : Bool) : (countClose s w r).mem.bytes = s.mem.bytes := by
  unfold countClose; split <;> simp

@[simp] theorem noteCorrected_bytes (s : State) (da req pos pat : Nat) (lc : Option Nat) (syn : Nat) :
    (noteCorrected s da req pos pat lc syn).mem.bytes = s.mem.bytes := by
  unfold noteCorrected; dsimp only; split <;> simp

theorem foldl_bytes {α : Type} (f : State → α → State) (h : ∀ s a, (f s a).mem.bytes = s.mem.bytes) (l : List α) (s : State) :
    (l.foldl f s).mem.bytes = s.mem.bytes := by
  induction l generalizing s with
  | nil => rfl
  | cons a l ih => rw [List.foldl_cons, ih, h]

@[simp] theorem cancelBacks_bytes (s : State) (lo hi : Nat) : (cancelBacks s lo hi).mem.bytes = s.mem.bytes := by
  unfold cancelBacks
  dsimp only
  rw [foldl_bytes _ (fun s a => modErr_bytes s _ _)]

@[simp] theorem setValid_bytes (s : State) (l : Nat) : (setValid s l).mem.bytes = s.mem.bytes := by
  unfold setValid; split <;> rfl

/-- Writing a word's code changes no byte. -/
@[simp] theorem storeWord_bytes (s : State) (w : Nat) (p : Bool) : (storeWord s w p).mem.bytes = s.mem.bytes := by
  unfold storeWord
  dsimp only
  split
  · split <;> simp
  · simp

@[simp] theorem reportRmw_bytes (s : State) (e : MergeEntry) (err : List Byte) (d : Decoded) :
    (reportRmw s e err d).mem.bytes = s.mem.bytes := by
  unfold reportRmw
  cases d <;> dsimp only
  · simp
  · split <;> simp
  · split <;> simp

/-! ## Memory without errors -/

@[simp] theorem modErr_flaws (s : State) (i : Option Nat) (f : ErrBlock → ErrBlock) : (s.modErr i f).mem.flaws = s.mem.flaws := by
  cases i <;> rfl
@[simp] theorem modErr_merges (s : State) (i : Option Nat) (f : ErrBlock → ErrBlock) : (s.modErr i f).mem.merges = s.mem.merges := by
  cases i <;> rfl

theorem foldl_flaws {α : Type} (f : State → α → State) (h : ∀ s a, (f s a).mem.flaws = s.mem.flaws) (l : List α) (s : State) :
    (l.foldl f s).mem.flaws = s.mem.flaws := by
  induction l generalizing s with
  | nil => rfl
  | cons a l ih => rw [List.foldl_cons, ih, h]

theorem foldl_merges {α : Type} (f : State → α → State) (h : ∀ s a, (f s a).mem.merges = s.mem.merges) (l : List α) (s : State) :
    (l.foldl f s).mem.merges = s.mem.merges := by
  induction l generalizing s with
  | nil => rfl
  | cons a l ih => rw [List.foldl_cons, ih, h]

@[simp] theorem cancelBacks_flaws (s : State) (lo hi : Nat) : (cancelBacks s lo hi).mem.flaws = s.mem.flaws := by
  unfold cancelBacks
  dsimp only
  rw [foldl_flaws _ (fun s a => modErr_flaws s _ _)]

@[simp] theorem cancelBacks_merges (s : State) (lo hi : Nat) : (cancelBacks s lo hi).mem.merges = s.mem.merges := by
  unfold cancelBacks
  dsimp only
  rw [foldl_merges _ (fun s a => modErr_merges s _ _)]

theorem setValid_flaws (s : State) (l : Nat) (h : s.mem.flaws = []) : (setValid s l).mem.flaws = [] := by
  unfold setValid
  split
  · exact h
  · simp [Tbl.clearRange, h]

@[simp] theorem setValid_merges (s : State) (l : Nat) : (setValid s l).mem.merges = s.mem.merges := by
  unfold setValid; split <;> rfl

@[simp] theorem countClose_flaws (s : State) (w : Nat) (r : Bool) : (countClose s w r).mem.flaws = s.mem.flaws := by
  unfold countClose; split <;> simp
@[simp] theorem countClose_merges (s : State) (w : Nat) (r : Bool) : (countClose s w r).mem.merges = s.mem.merges := by
  unfold countClose; split <;> simp

/-- A good word written where no word has an error leaves none. -/
theorem storeWord_flaws (s : State) (w : Nat) (h : s.mem.flaws = []) : (storeWord s w false).mem.flaws = [] := by
  have hv := setValid_flaws s (w / 64) h
  unfold storeWord
  dsimp only
  split
  · split <;> simp [hv, Tbl.erase]
  · simp [hv, Tbl.erase]

@[simp] theorem storeWord_merges (s : State) (w : Nat) (p : Bool) : (storeWord s w p).mem.merges = s.mem.merges := by
  unfold storeWord
  dsimp only
  split
  · split <;> simp
  · simp

/-- No word holds an error and no open entry holds a bad byte. -/
def Quiet (s : State) : Prop := s.mem.flaws = [] ∧ ∀ e ∈ s.mem.merges, e.bad = 0

/-- Where no word holds an error, closing an entry changes no byte. -/
theorem closeEntry_quiet (s : State) (e : MergeEntry) (h : Quiet s) (he : e.bad = 0) :
    (closeEntry s e).mem.bytes = s.mem.bytes ∧ Quiet (closeEntry s e) := by
  obtain ⟨hf, hm⟩ := h
  have hq : ∀ t : State, t.mem.flaws = [] → t.mem.merges = s.mem.merges.filter (fun x => x ≠ e) → t.mem.bytes = s.mem.bytes →
      (storeWord t e.word false).mem.bytes = s.mem.bytes ∧ Quiet (storeWord t e.word false) := by
    intro t tf tm tb
    refine ⟨by simp [tb], storeWord_flaws t _ tf, fun x hx => hm x ?_⟩
    rw [storeWord_merges, tm] at hx
    exact (List.mem_filter.mp hx).1
  unfold closeEntry
  simp only [hf, he, Tbl.get_nil, ne_eq, not_true_eq_false, decide_false, if_true]
  split
  · exact hq _ (by simp) (by simp) (by simp)
  · exact hq _ (by simp) (by simp) (by simp)

theorem mergeWrite_quiet (s : State) (w : Nat) (m : BitVec 32) (lc : Option Nat) (h : Quiet s) :
    (mergeWrite s w m 0 lc).mem.bytes = s.mem.bytes ∧ Quiet (mergeWrite s w m 0 lc) := by
  unfold mergeWrite
  split
  · rename_i e he
    have hb : e.bad = 0 := h.2 e (List.mem_of_find?_eq_some he)
    have hz : (e.bad &&& ~~~m) ||| 0 = 0 := by rw [hb]; simp
    have h2 : Quiet { s with mem := { s.mem with merges := s.mem.merges.map (fun x => if x.word = w then
        { word := w, mask := e.mask ||| m, bad := (e.bad &&& ~~~m) ||| 0, lc := lc.or e.lc } else x) } } := by
      refine ⟨h.1, fun x hx => ?_⟩
      obtain ⟨y, hy, rfl⟩ := List.mem_map.mp hx
      split
      · exact hz
      · exact h.2 y hy
    dsimp only
    split
    · exact closeEntry_quiet _ _ h2 hz
    · exact ⟨rfl, h2⟩
  · dsimp only
    have h2 : ∀ t : State, Quiet t → t.mem.bytes = s.mem.bytes →
        t.mem.bytes = s.mem.bytes ∧ Quiet { t with mem := { t.mem with merges := t.mem.merges ++ [{ word := w, mask := m, bad := 0, lc := lc }] } } := by
      intro t ht hb
      refine ⟨hb, ht.1, fun x hx => ?_⟩
      rcases List.mem_append.mp hx with hx | hx
      · exact ht.2 x hx
      · rw [List.mem_singleton.mp hx]
    split
    · split
      · rename_i e he
        have hc := closeEntry_quiet s e h (h.2 e (List.mem_filter.mp (List.mem_of_mem_head? he)).1)
        exact h2 _ hc.2 hc.1
      · exact h2 _ h rfl
    · exact h2 _ h rfl

theorem touchWord_quiet (s : State) (lc : Option Nat) (da n w : Nat) (h : Quiet s) :
    (touchWord s lc da n [] w).mem.bytes = s.mem.bytes ∧ Quiet (touchWord s lc da n [] w) := by
  unfold touchWord badMask
  simp only [if_true, ne_eq, not_true_eq_false, decide_false]
  split
  · refine ⟨by simp, storeWord_flaws _ _ h.1, fun x hx => ?_⟩
    rw [storeWord_merges] at hx
    exact h.2 x (List.mem_filter.mp hx).1
  · exact mergeWrite_quiet s w _ lc h

/-! ## What a write, a clear and a read leave -/

/-- The code of good bytes changes no byte where no word holds an error. -/
theorem codeBytes_quiet (s : State) (lc : Option Nat) (da n : Nat) (h : Quiet s) :
    (codeBytes s lc da n []).mem.bytes = s.mem.bytes ∧ Quiet (codeBytes s lc da n []) := by
  unfold codeBytes
  split
  · generalize wordsOf da n = ws
    induction ws generalizing s with
    | nil => exact ⟨rfl, h⟩
    | cons w ws ih =>
      have h1 := touchWord_quiet s lc da n w h
      have h2 := ih _ h1.2
      exact ⟨h2.1.trans h1.1, h2.2⟩
  · have hv : ∀ (ls : List Nat) (t : State), Quiet t → (ls.foldl setValid t).mem.bytes = t.mem.bytes ∧ Quiet (ls.foldl setValid t) := by
      intro ls
      induction ls with
      | nil => intro t ht; exact ⟨rfl, ht⟩
      | cons l ls ih =>
        intro t ht
        have h2 := ih (setValid t l) ⟨setValid_flaws t l ht.1, by simpa using ht.2⟩
        exact ⟨h2.1.trans (setValid_bytes t l), h2.2⟩
    have h1 := hv (linesOf da n) s h
    refine ⟨(cancelBacks_bytes _ _ _).trans h1.1, (cancelBacks_flaws _ _ _).trans h1.2.1, fun e he => h1.2.2 e ?_⟩
    rwa [cancelBacks_merges] at he

/-- Good bytes written to memory without errors stand at their address, and no other byte changes. -/
theorem memWrite_bytes (s : State) (lc : Option Nat) (da : Nat) (data : List Byte) (h : Quiet s) (hm : s.mem.mapFlaws = []) :
    (memWrite s lc da data).mem.bytes = Tbl.setMany 0 s.mem.bytes da data ∧ Quiet (memWrite s lc da data) := by
  have hc : checkMaps s 0xFF lc da (da + data.length) = s := by simp [checkMaps, hm]
  unfold memWrite memWriteBad
  rw [hc]
  exact codeBytes_quiet (placeBytes s da data) lc da data.length h

theorem byte_memWrite (s : State) (lc : Option Nat) (da : Nat) (data : List Byte) (a : Nat) (h : Quiet s) (hm : s.mem.mapFlaws = []) :
    (memWrite s lc da data).byte a = if da ≤ a ∧ a < da + data.length then data.getD (a - da) 0 else s.byte a := by
  rw [State.byte, (memWrite_bytes s lc da data h hm).1, Tbl.get_setMany]
  split
  · rename_i h
    rw [List.getD_eq_getElem?_getD, List.getElem?_eq_getElem (by omega)]
    rfl
  · rfl

theorem Tbl.get_clearRange {α : Type} (d : α) (t : Tbl α) (lo hi a : Nat) :
    Tbl.get d (Tbl.clearRange t lo hi) a = if lo ≤ a ∧ a < hi then d else Tbl.get d t a := by
  induction t with
  | nil => simp [Tbl.clearRange, Tbl.get]
  | cons e t ih =>
    obtain ⟨k, v⟩ := e
    unfold Tbl.clearRange at ih ⊢
    by_cases hk : lo ≤ k ∧ k < hi
    · rw [List.filter_cons_of_neg (by simp [hk.1, hk.2]), ih]
      by_cases ha : lo ≤ a ∧ a < hi
      · simp [ha]
      · have : k ≠ a := by rintro rfl; exact ha hk
        simp [ha, Tbl.get, this]
    · rw [List.filter_cons_of_pos (by simp only [Bool.not_eq_true', Bool.and_eq_false_iff, decide_eq_false_iff_not]; omega)]
      by_cases ha : k = a
      · subst ha; simp [Tbl.get, hk]
      · rw [Tbl.get, if_neg ha, ih, Tbl.get, if_neg ha]

/-- A read of memory without errors delivers the bytes that stand there and changes nothing. -/
theorem fetchWord_clean (s : State) (req : Nat) (lc : Option Nat) (w : Nat) (hf : s.mem.flaws = []) (hm : s.mem.merges = []) :
    fetchWord s req lc w = (s.bytesAt w 32, false, s) := by
  simp [fetchWord, closeWhere, hf, hm]

theorem fetchByte_clean (s : State) (req : Nat) (lc : Option Nat) (a : Nat) (hf : s.mem.byteFlaws = []) :
    fetchByte s req lc a = (s.byte a, false, s) := by
  simp [fetchByte, hf]

theorem fetchWords_clean (s : State) (req : Nat) (lc : Option Nat) (ws : List Nat) (hf : s.mem.flaws = []) (hm : s.mem.merges = []) :
    fetchWords req lc s ws =
      { bytes := ws.flatMap (fun w => s.bytesAt w 32), bad := List.replicate (32 * ws.length) false, st := s } := by
  induction ws with
  | nil => rfl
  | cons w ws ih =>
    rw [fetchWords, fetchWord_clean s req lc w hf hm]
    simp only [ih, List.flatMap_cons, List.length_cons, List.replicate_append_replicate]
    congr 2
    omega

theorem fetchBytes_clean (s : State) (req : Nat) (lc : Option Nat) (as : List Nat) (hf : s.mem.byteFlaws = []) :
    fetchBytes req lc s as = { bytes := as.map s.byte, bad := List.replicate as.length false, st := s } := by
  induction as with
  | nil => rfl
  | cons a as ih =>
    rw [fetchBytes, fetchByte_clean s req lc a hf]
    simp only [ih, List.map_cons, List.length_cons, List.replicate_succ]

theorem memFetch_st (s : State) (req : Nat) (lc : Option Nat) (da n : Nat) (h : s.mem.flaws = [] ∧ s.mem.byteFlaws = [] ∧ s.mem.merges = [])
    (hm : s.mem.mapFlaws = []) : (memFetch s req lc da n).st = s := by
  have hc : checkMaps s req lc da (da + n) = s := by simp [checkMaps, hm]
  unfold memFetch
  dsimp only
  rw [hc]
  split
  · rw [fetchWords_clean s req lc _ h.1 h.2.2]
  · rw [fetchBytes_clean s req lc _ h.2.1]

/-! ## The canonical form -/

theorem wf_of_bytes {s t : State} (h : t.mem.bytes = s.mem.bytes) (hs : Memory.wf s.mem = true) : Memory.wf t.mem = true := by
  unfold Memory.wf at *
  rw [h]
  exact hs

theorem foldl_wf {α : Type} (f : State → α → State) (h : ∀ s a, Memory.wf s.mem = true → Memory.wf (f s a).mem = true) (l : List α)
    (s : State) (hs : Memory.wf s.mem = true) : Memory.wf (l.foldl f s).mem = true := by
  induction l generalizing s with
  | nil => exact hs
  | cons a l ih => exact ih _ (h s a hs)

theorem poisonDram_wf (s : State) (w : Nat) (h : Memory.wf s.mem = true) : Memory.wf (poisonDram s w).mem = true :=
  Tbl.wf_setMany 0 _ _ w (wf_of_bytes (t := cancelBacks (setValid s (w / 64)) w (w + 1)) (by simp) h)

theorem poisonSram_wf (s : State) (a : Nat) (h : Memory.wf s.mem = true) : Memory.wf (poisonSram s a).mem = true :=
  Tbl.wf_set 0 _ a _ (wf_of_bytes (t := cancelBacks (setValid s (a / 64)) a (a + 1)) (by simp) h)

theorem poisonLines_wf (s : State) (l n : Nat) (h : Memory.wf s.mem = true) : Memory.wf (poisonLines s l n).mem = true := by
  unfold poisonLines
  split
  · exact foldl_wf _ (fun s i => poisonDram_wf s _) _ _ h
  · exact foldl_wf _ (fun s i => poisonSram_wf s _) _ _ h

theorem checkMap_wf (s : State) (req : Nat) (lc : Option Nat) (l : Nat) (h : Memory.wf s.mem = true) :
    Memory.wf (checkMap s req lc l).mem = true := by
  unfold checkMap
  dsimp only
  split
  · exact h
  · exact wf_of_bytes (logError_bytes _ _ _ _ _ _ _ _ _) h
  · exact wf_of_bytes (logError_bytes _ _ _ _ _ _ _ _ _) (poisonLines_wf _ _ _ h)

theorem checkMaps_wf (s : State) (req : Nat) (lc : Option Nat) (lo hi : Nat) (h : Memory.wf s.mem = true) :
    Memory.wf (checkMaps s req lc lo hi).mem = true := foldl_wf _ (fun s _ => checkMap_wf s req lc _) _ _ h

theorem closeEntry_wf (s : State) (e : MergeEntry) (h : Memory.wf s.mem = true) : Memory.wf (closeEntry s e).mem = true := by
  unfold closeEntry
  dsimp only
  split
  · exact wf_of_bytes (by simp) h
  · split
    · exact wf_of_bytes (by simp) h
    · refine wf_of_bytes (storeWord_bytes _ _ _) (Tbl.wf_setMany 0 _ _ e.word ?_)
      exact wf_of_bytes (t := reportRmw _ _ _ _) (by simp) h

theorem closeWhere_wf (s : State) (p : MergeEntry → Bool) (h : Memory.wf s.mem = true) : Memory.wf (closeWhere s p).mem = true :=
  foldl_wf _ (fun s e => closeEntry_wf s e) _ _ h

theorem mergeWrite_wf (s : State) (w : Nat) (m b : BitVec 32) (lc : Option Nat) (h : Memory.wf s.mem = true) :
    Memory.wf (mergeWrite s w m b lc).mem = true := by
  unfold mergeWrite
  split
  · dsimp only
    split
    · exact closeEntry_wf _ _ h
    · exact h
  · dsimp only
    split
    · split
      · exact closeEntry_wf _ _ h
      · exact h
    · exact h

theorem touchWord_wf (s : State) (lc : Option Nat) (da n : Nat) (bad : List Bool) (w : Nat) (h : Memory.wf s.mem = true) :
    Memory.wf (touchWord s lc da n bad w).mem = true := by
  unfold touchWord
  dsimp only
  split
  · exact wf_of_bytes (storeWord_bytes _ _ _) h
  · exact mergeWrite_wf _ _ _ _ _ h

theorem placeBytes_wf (s : State) (da : Nat) (data : List Byte) (h : Memory.wf s.mem = true) :
    Memory.wf (placeBytes s da data).mem = true := Tbl.wf_setMany 0 data _ da h

theorem codeBytes_wf (s : State) (lc : Option Nat) (da n : Nat) (bad : List Bool) (h : Memory.wf s.mem = true) :
    Memory.wf (codeBytes s lc da n bad).mem = true := by
  unfold codeBytes
  split
  · exact foldl_wf _ (fun s w hs => touchWord_wf s lc da n bad w hs) _ _ h
  · exact wf_of_bytes (cancelBacks_bytes _ _ _) (foldl_wf _ (fun s l hs => wf_of_bytes (setValid_bytes s l) hs) _ _ h)

theorem memWriteBad_wf (s : State) (lc : Option Nat) (da : Nat) (data : List Byte) (bad : List Bool) (h : Memory.wf s.mem = true) :
    Memory.wf (memWriteBad s lc da data bad).mem = true :=
  codeBytes_wf _ lc da _ bad (placeBytes_wf _ da data (checkMaps_wf s 0xFF lc da _ h))

theorem memWrite_wf (s : State) (lc : Option Nat) (da : Nat) (data : List Byte) (h : Memory.wf s.mem = true) :
    Memory.wf (memWrite s lc da data).mem = true := memWriteBad_wf s lc da data [] h

theorem dropLines_wf (s : State) (lo hi : Nat) (h : Memory.wf s.mem = true) : Memory.wf (dropLines s lo hi).mem = true :=
  Tbl.wf_clearRange 0 _ lo hi h

theorem clearLines_wf (s : State) (lo hi : Nat) (h : Memory.wf s.mem = true) : Memory.wf (clearLines s lo hi).mem = true :=
  dropLines_wf _ lo hi (wf_of_bytes (cancelBacks_bytes _ _ _) (closeWhere_wf _ _ (checkMaps_wf s _ _ _ _ h)))

theorem ite_wf {c : Prop} [Decidable c] {s t : State} (hs : Memory.wf s.mem = true) (ht : Memory.wf t.mem = true) :
    Memory.wf (if c then s else t).mem = true := by
  split
  · exact hs
  · exact ht

theorem memClear_wf (s : State) (lc : Option Nat) (da n : Nat) (h : Memory.wf s.mem = true) :
    Memory.wf (memClear s lc da n).mem = true :=
  have h1 := ite_wf (c := da < (da + 63) / 64 * 64) (memWrite_wf s lc da (List.replicate ((da + 63) / 64 * 64 - da) 0) h) h
  have h2 := clearLines_wf _ ((da + 63) / 64 * 64) ((da + n) / 64 * 64) h1
  ite_wf (ite_wf (memWrite_wf _ lc _ _ h2) h2) (memWrite_wf s lc da _ h)

theorem fetchWord_wf (s : State) (req : Nat) (lc : Option Nat) (w : Nat) (h : Memory.wf s.mem = true) :
    Memory.wf (fetchWord s req lc w).2.2.mem = true := by
  have hc : Memory.wf (closeWhere s (fun e => e.word = w)).mem = true := closeWhere_wf s _ h
  unfold fetchWord
  dsimp only
  split
  · exact hc
  · split
    · exact hc
    · exact wf_of_bytes (noteCorrected_bytes _ _ _ _ _ _ _) hc
    · exact wf_of_bytes (by rw [logError_bytes, countUe_bytes]) (poisonDram_wf _ w hc)
    · exact wf_of_bytes (by rw [logError_bytes, countPoison_bytes]) hc

theorem fetchByte_wf (s : State) (req : Nat) (lc : Option Nat) (a : Nat) (h : Memory.wf s.mem = true) :
    Memory.wf (fetchByte s req lc a).2.2.mem = true := by
  unfold fetchByte
  dsimp only
  split
  · exact h
  · split
    · exact h
    · exact wf_of_bytes (noteCorrected_bytes _ _ _ _ _ _ _) h
    · exact wf_of_bytes (by rw [logError_bytes, countUe_bytes]) (poisonSram_wf _ a h)
    · exact wf_of_bytes (by rw [logError_bytes, countPoison_bytes]) h

theorem memFetch_wf (s : State) (req : Nat) (lc : Option Nat) (da n : Nat) (h : Memory.wf s.mem = true) :
    Memory.wf (memFetch s req lc da n).st.mem = true := by
  have hw : ∀ (ws : List Nat) (s : State), Memory.wf s.mem = true → Memory.wf (fetchWords req lc s ws).st.mem = true := by
    intro ws
    induction ws with
    | nil => intro s h; exact h
    | cons w ws ih => intro s h; exact ih _ (fetchWord_wf s req lc w h)
  have hb : ∀ (as : List Nat) (s : State), Memory.wf s.mem = true → Memory.wf (fetchBytes req lc s as).st.mem = true := by
    intro as
    induction as with
    | nil => intro s h; exact h
    | cons a as ih => intro s h; exact ih _ (fetchByte_wf s req lc a h)
  unfold memFetch
  dsimp only
  split
  · exact hw _ _ (checkMaps_wf s req lc _ _ h)
  · exact hb _ _ (checkMaps_wf s req lc _ _ h)

/-- Memory at reset has the canonical form. -/
theorem reset_memory_wf : Memory.wf State.reset.mem = true := rfl

end Sys2Proof.Machine
end

