-- ==== Sys2Proof/Tests/Slice0.lean ====
section
/-! SUPPORT. The row's own tests: an ill-formed term for each check of WellFormed, words written by
hand from the encodings, worked examples of the spec, and a state and operands that meet the
hypotheses of each clause of the statements (witness_*). -/

namespace Sys2Proof.Tests

open Sys2Proof.Machine

/-! ## The checks of a slot by itself (R81, R107, R127, R141, R144, R180) -/

/-- An `FBLK` of one binary16 block. -/
def fblkSlot : FBlkSlot :=
  { mode := false, sfmt := .bin16, tr := false, rope := false, addr := 32, rep := 0, stride := 0, rdesc := 0 }

theorem test_fblk_accepted : wellFormed (.fblk 0 .a fblkSlot) = true := by decide
theorem test_fblk_refuses_mode : wellFormed (.fblk 0 .a { fblkSlot with mode := true }) = false := by decide
theorem test_fblk_refuses_rotary_fp32 :
    wellFormed (.fblk 0 .a { fblkSlot with mode := true, sfmt := .bin32, rope := true }) = false := by decide
theorem test_fblk_refuses_rotary_outside : wellFormed (.fblk 0 .a { fblkSlot with rope := true, rdesc := 24573 }) = false := by decide
theorem test_fblk_refuses_alignment : wellFormed (.fblk 0 .a { fblkSlot with addr := 33 }) = false := by decide
theorem test_fblk_refuses_outside :
    wellFormed (.fblk 0 .a { fblkSlot with addr := 24544, rep := 1, stride := 32 }) = false := by decide
theorem test_fblk_refuses_below_zero : wellFormed (.fblk 0 .a { fblkSlot with rep := 1, stride := 0xFFC0 }) = false := by decide

/-- An `FGATH` of one block. -/
def fgathSlot : FGathSlot := { tr := false, rope := false, rep := 0, stride := 0, rdesc := 0, glist := 5 }

theorem test_fgath_accepted : wellFormed (.fgath 0 .b fgathSlot) = true := by decide
theorem test_fgath_refuses_list : wellFormed (.fgath 0 .b { fgathSlot with glist := 24576 }) = false := by decide
theorem test_fgath_refuses_rotary : wellFormed (.fgath 0 .b { fgathSlot with rope := true, rdesc := 24575 }) = false := by decide

/-- A vector slot of 1,024 elements from registers. -/
def vecSlot : VSlot :=
  { cnt := 1023, vd := 10, va := 12, vb := 14, vc := 0, asrc := .reg, bsrc := .reg, rel := false, rnd := false, sat := false
    fmt := 0, imm := 0, thr := 0 }

theorem test_vec_accepted : wellFormed (.vadd 0 vecSlot) = true := by decide
theorem test_vec_refuses_a : wellFormed (.vld 0 vecSlot) = false := by decide
theorem test_vec_refuses_source_of_a : wellFormed (.vext 0 { vecSlot with vb := 0, asrc := .row }) = false := by decide
theorem test_vec_refuses_release : wellFormed (.vadd 0 { vecSlot with rel := true }) = false := by decide
theorem test_vec_refuses_b : wellFormed (.vmov 0 vecSlot) = false := by decide
theorem test_vec_refuses_source_of_b : wellFormed (.vmask 0 { vecSlot with bsrc := .row }) = false := by decide
theorem test_vec_refuses_slot_as_b : wellFormed (.vadd 0 { vecSlot with bsrc := .slot }) = false := by decide
theorem test_vec_refuses_c : wellFormed (.vadd 0 { vecSlot with vc := 1 }) = false := by decide
theorem test_vec_refuses_destination : wellFormed (.vst 0 { vecSlot with vb := 0, vd := 1 }) = false := by decide
theorem test_vec_refuses_format : wellFormed (.vadd 0 { vecSlot with fmt := 1 }) = false := by decide
theorem test_vec_refuses_rounding : wellFormed (.vadd 0 { vecSlot with rnd := true }) = false := by decide
theorem test_vec_refuses_threshold : wellFormed (.vadd 0 { vecSlot with thr := 1 }) = false := by decide
theorem test_vec_refuses_immediate : wellFormed (.vadd 0 { vecSlot with imm := 1 }) = false := by decide
theorem test_vec_refuses_store_outside : wellFormed (.vst 0 { vecSlot with vb := 0, vd := 0, imm := 24513 }) = false := by decide
theorem test_vec_refuses_count : wellFormed (.vrsumr 0 { vecSlot with vb := 0, cnt := 1000 }) = false := by decide
theorem test_vec_refuses_slot_count :
    wellFormed (.vadd 0 { vecSlot with asrc := .slot, va := 2, cnt := 1024 }) = false := by decide
theorem test_vec_refuses_slot_number : wellFormed (.vadd 0 { vecSlot with asrc := .slot, va := 8 }) = false := by decide
theorem test_vec_refuses_written_register : wellFormed (.vadd 0 { vecSlot with vd := 63 }) = false := by decide
theorem test_vec_refuses_register_a : wellFormed (.vadd 0 { vecSlot with va := 63 }) = false := by decide
theorem test_vec_refuses_register_b : wellFormed (.vadd 0 { vecSlot with vb := 63 }) = false := by decide
theorem test_vec_refuses_register_c : wellFormed (.vfma 0 { vecSlot with vc := 63 }) = false := by decide
theorem test_vsmexp_refuses_source_of_b : wellFormed (.vsmexp 0 vecSlot) = false := by decide
theorem test_gate_refuses_zero :
    wellFormed (.gwait 0 1 0) = false ∧ wellFormed (.gpeek 0 1 0) = false ∧ wellFormed (.ginc 0 1 0) = false ∧
      wellFormed (.gsend 0 5 1 0) = false ∧ wellFormed (.gpause 0 0) = false := by decide
theorem test_loop_refuses_target : wellFormed (.gloop 0 0 5 1024) = false := by decide

/-- A copy from the own plot to the feeder store. -/
def moveSlot : MSlot :=
  { mover := 2, lsel := 1, fence := false, desc := 0x1FC00, sspace := 2, dspace := 0, share := 1, cgate := 3, clc := 551, cinc := 1 }

theorem test_move_accepted : wellFormed (.mcopy 0 moveSlot) = true := by decide
theorem test_move_refuses_share : wellFormed (.mcopy 0 { moveSlot with share := 0 }) = false := by decide
theorem test_move_refuses_gate : wellFormed (.mcopy 0 { moveSlot with cinc := 0 }) = false := by decide
theorem test_move_refuses_spaces : wellFormed (.mcopy 0 { moveSlot with dspace := 3 }) = false := by decide
theorem test_clear_refuses_source : wellFormed (.mclear 0 moveSlot) = false := by decide

/-! ## Words written out from the spec's encodings -/

/-- "A transposed four-bit B operand" of the vector engine's chapter. -/
theorem test_feed_word : decodeFeed 0 .b 0x0040063424D1 = some (.fblk 0 .b {
    mode := false, sfmt := .e2m1, tr := true, rope := false, addr := 0xD09, rep := 3, stride := 32, rdesc := 0 }) := by decide
/-- "Two output tiles in ramp mode" of the array's chapter. -/
theorem test_array_word : decodeArray 0 0x3E1192 = some [.macz 0 1 false true true, .linePortReadout 0 0 false true 15 0] := by decide
theorem test_array_word_port : decodeArray 0 0x7E5000 = some [.anop 0, .linePortReadout 0 1 false true 15 1] := by decide
/-- "Four-bit weights from the own plot" of the movers' chapter. -/
theorem test_move_word : decodeMove 551 0xC4E18817F00061 = some (.mcopy 551 moveSlot) := by decide
/-- Bank unit 874 of stack 2. -/
def unit874 : BankUnit := { stack := 2, ch := 27, bk := 10 }

/-- "An optimiser update" of the Orangery's chapter, by Table 9.7. -/
theorem test_bank_word_ld : decodeBank unit874 0x00000281 = some (.buLd unit874 10 0) := by decide
theorem test_bank_word_ffma :
    decodeBank unit874 0x0BA4A2D3 = some (.buFfma unit874 false 11 10 41 11) := by decide
theorem test_bank_word_cvt :
    decodeBank unit874 0x01021520 = some (.buCvt unit874 20 33 0 false false 1) := by decide
theorem test_bank_word_loop :
    decodeBank unit874 0xFF405006 = some (.buLoop unit874 5 0x3FD0) := by decide
/-- "One score tile through the vector engine": `VSMSTAT` at cycle 22, by Table 4.7. -/
theorem test_vector_word : decodeVector 0 0x402822CFFE0 = some (.vsmstat 0 { vecSlot with
    vd := 11, va := 2, vb := 10, asrc := .slot }) := by decide
/-- A `GWAIT` for 5 at gate 3, by Tables 5.9 and 5.10. -/
theorem test_gate_word : decodeGate 0 0x1431 = some (.gwait 0 3 5) := by decide

/-! ## The spec's worked examples -/

/-- "Scaled decode". -/
theorem test_scaled_fp4 : decodeScaled 5 0xB 0x3400 = (0xB600, 0) := by decide
theorem test_scaled_int4 : decodeScaled 4 0x7 0x3C01 = (0x4702, flDecRound) := by decide
/-- "The truncation window". -/
theorem test_truncation_window :
    groupSum 32 ([(fp16 0x3C00, fp16 0x3C00), (fp16 0x0C01, fp16 0x0C01)] ++ List.replicate 30 (fp16 0, fp16 0)) = (0x3F800000, 0, false) := by
  decide
/-- "Accumulator flush". -/
theorem test_flush_product :
    groupSum 64 ([(fp32 0xBF400000, fp32 0x01000000)] ++ List.replicate 7 (fp32 0, fp32 0)) = (0x80C00000, 0, false) := by decide
theorem test_flush_sum : accAdd 0x01000000 0x80C00000 = (0, flFlush, true) := by decide
/-- "Stochastic rounding to binary16". -/
theorem test_stochastic_up : convert 0 false (some 0x9A3C) 0x3F801000 = (0x3C01, 0) := by decide
theorem test_stochastic_down : convert 0 false (some 0x1F00) 0x3F801000 = (0x3C00, 0) := by decide
theorem test_stochastic_below : convert 0 false (some 0x9A3C) 0x3F800C00 = (0x3C00, 0) := by decide
theorem test_nearest_even : convert 0 false none 0x3F801000 = (0x3C00, 0) ∧ convert 0 false none 0x3F800C00 = (0x3C00, 0) := by decide
/-- "Canonical NaN". -/
theorem test_canonical_sum :
    groupSum 32 ([(fp16 0x7D23, fp16 0x3C00)] ++ List.replicate 31 (fp16 0x3C00, fp16 0x3C00)) = (0x7FC00000, flNanIn, false) := by decide
theorem test_canonical_written : (convert 0 false none 0x7FC00000).1 = 0x7E00 ∧ (convert 1 false none 0x7FC00000).1 = 0x7F := by decide
/-- "One corrected symbol": an error of 0x04 at position 13. -/
theorem test_corrected_symbol :
    let e := List.replicate 13 0#8 ++ [0x04] ++ List.replicate 22 0
    syndromes e = [0x04, 0x26, 0x18, 0xD4] ∧ decodeWord e = .corrected 13 0x04 := by decide
/-- A code word has no syndrome (R195, R196). -/
theorem test_code_word : syndromes (codeWord (List.replicate 9 0#8 ++ [0x5F] ++ List.replicate 22 0)) = [0, 0, 0, 0] := by decide +kernel
/-- The example of R198. -/
theorem test_byte_check : byteCheck 0xA5 = 0b00011 := by decide
/-- "Why a region runs below its target": `REGION_CLK` 3 and `SITE_DESC` 606. -/
theorem test_region_clk : regionClk { State.reset with
    regions := [(3, { ClockRegion.init with target := 40, now := 39, fmax := 39, locked := true })] } 3 = 0x00672728 := by decide +kernel
theorem test_site_desc : siteDesc { State.reset with
    sites := [(606, { SiteRec.init with state := 1, vchOk := true, lcol := 11, stress := 9, fmax := 39 })] } 606 = 0x002790B5 := by decide +kernel
/-- Logical core 551 lies in cluster 27 and region 3 (Table 1.5). -/
theorem test_core_551 : clusterOf 551 = 27 ∧ regionOf 27 = 3 ∧ rowSite 27 12 = 606 := by decide
/-- The DA of the example of R196. -/
theorem test_da : mkDa 2 551 0x00400020 = 0x22270000400020 ∧ daSpace 0x22270000400020 = 2 ∧ daUnit 0x22270000400020 = 551 := by decide


-- One theorem after another: the kernel evaluates each on its own, so the file stays small in memory.
set_option Elab.async false

/-! ## Witnesses of the hypotheses

For each clause of a statement that has hypotheses, a state and operands that meet them together. -/

def mappedSites : Tbl SiteRec := (List.range 20).map (fun i => (i, { SiteRec.init with state := 1, lcol := BitVec.ofNat 5 i, vchOk := true, passed := true, niOk := true }))
def onPwr : Tbl SitePower := (List.range 20).map (fun i => (i, { SitePower.init with dom := .on, canopy := .full }))
def job0 : Job := { node := 1, mask := 1, imageId := 77, phase := .running, vdrop := true, waitMs := 0, ramp := true, peakW := 0, meanW := 0, parts := [], tag := 9, claims := [], segs := [{ lc := 5, seg := 3, bundles := 2, ofs := 4096 }], first := none, remote := none, halted := false, placed := true, startAt := 0, startUs := 0, cmd := none, halters := [], report := [1,2,3], entries := [(5, 0, 0)], image := [] }
def core0 : Core := { Core.init with seq := { Core.init.seq with running := true, cycle := 1000, next := 1030, cyc := 1000, gates := [(3, 10)], gwaitLen := 0 }, arr := { Core.init.arr with tiles := (List.range 100).map (fun i => (i*7, BitVec.ofNat 32 (0x3F800000 + i))) }, fv := { Core.init.fv with vregs := (List.range 600).map (fun i => (i, BitVec.ofNat 32 (0x3F800000 + i * 65536))) } }
def st0 : State := { State.reset with
  boot := { State.reset.boot with ready := true, phase := 0, kiosk := true, vinAux := true, rails := true, railsSeen := true }
  sites := mappedSites, pwr := { State.reset.pwr with sites := onPwr }, cores := [(5, core0), (7, { core0 with seq := { core0.seq with next := 8 } })], jobs := [job0]
  mem := { State.reset.mem with bytes := (List.range 300).map (fun i => (mkDa 0 5 i, BitVec.ofNat 8 (i % 200 + 1))) ++ (List.range 300).map (fun i => (mkDa 1 5 (4096 + i), BitVec.ofNat 8 (i % 200 + 7))) }
  ticks := 16000000
  regions := (List.range 5).map (fun i => (i, { ClockRegion.init with locked := true }))
  hif := { Hif.init with bme := true, linkUp := true, configured := true, nextId := 40 } }
def st1 (f : Core → Core) : State := st0.modCore 5 f
def hq : HostQueue := { HostQueue.init with cqBase := 0x10000, sqLog := 4, cqLog := 4, st := .on, irqEn := true, cqPhase := true, cqHead := 3, cqSlot := 15, coalCnt := 2, gathered := 1, sqHead := 7, vector := 3, expert := true }
def hst : State := { st0 with hif := { st0.hif with queues := [(2, hq)], expertEn := true }, settings := [] }
def ent (ps : List Byte) (da dl : Nat) : Entry :=
  { flags := 1, rsv3 := 0, cid := 0x1234, plen := BitVec.ofNat 32 ps.length, rsv12 := 0, daddr := BitVec.ofNat 64 da, dlen := BitVec.ofNat 64 dl, tail := BitVec.ofNat 256 (leNat ps) }
def entp (ps : List Byte) (da dl : Nat) : Entry :=
  { flags := 0, rsv3 := 0, cid := 0x1234, plen := BitVec.ofNat 32 ps.length, rsv12 := 0, daddr := BitVec.ofNat 64 da, dlen := BitVec.ofNat 64 dl, tail := 0x20000 }
def ofs (s : State) (a : Nat) (bs : List Byte) : State := s.hostPut a bs

namespace WA

def blkA (f : Bool) : Block := { fp32 := f, elems := (List.range (if f then 256 else 1024)).map (fun i => if f then BitVec.ofNat 32 (0x3F800000 + i * 4096) else BitVec.ofNat 32 (0x3C00 + i)) }
def stg (f : Bool) : Staged := { block := blkA f, ready := 0, flags := 0, decodeAt := 0 }
def sA (f : Bool) := st1 (fun c => { c with fv := { c.fv with fa := { held := [stg f, stg true], instrs := [] }, fb := { held := [stg f], instrs := [] } }, arr := { c.arr with level := 8 } })
theorem witness_MacUpdatesTile :
    ∃ (s : Machine.State) (lc : Lc) (tile : Fin 4) (a : Block) (b : Block), SlotFree s ↑lc ∧ (s.core ↑lc).rampWait = false ∧ (s.core ↑lc).head Feed.a = some a ∧ (s.core ↑lc).head Feed.b = some b ∧ a.fp32 = b.fp32 ∧ (s.core ↑lc).tileBusy ↑tile = false :=
  ⟨sA false, 5, 2, blkA false, blkA false, by (repeat' apply And.intro) <;> first | decide +kernel | rfl | (intros; decide +kernel)⟩
def x0 : Instr := (.mac (5) (2) (true) (true) (true))
theorem witness_MacWaits :
    ∃ (s : Machine.State) (lc : Lc) (tile : Fin 4) (fp32 : Bool) (popa : Bool) (popb : Bool) (i : Instr), SlotFree s ↑lc ∧ ((s.core ↑lc).head Feed.a = none ∨ (s.core ↑lc).head Feed.b = none ∨ (s.core ↑lc).arr.ramp = true ∧ (s.core ↑lc).arr.level < 8) ∧ (i = Instr.mac lc tile fp32 popa popb ∨ i = Instr.macz lc tile fp32 popa popb) :=
  ⟨st0, 5, 2, true, true, true, x0, by (repeat' apply And.intro) <;> first | decide +kernel | rfl | (intros; decide +kernel)⟩
def x1 : Instr := .mac 5 2 true true true
theorem witness_MacFormatHazard :
    ∃ (s : Machine.State) (lc : Lc) (tile : Fin 4) (fp32 : Bool) (popa : Bool) (popb : Bool) (a : Block) (b : Block) (j : Job) (i : Instr), SlotFree s ↑lc ∧ (s.core ↑lc).rampWait = false ∧ (s.core ↑lc).head Feed.a = some a ∧ (s.core ↑lc).head Feed.b = some b ∧ (a.fp32 ≠ fp32 ∨ b.fp32 ≠ fp32) ∧ (s.core ↑lc).tileBusy ↑tile = false ∧ s.jobOf ↑lc = some j ∧ j.phase = JobPhase.running ∧ (i = Instr.mac lc tile fp32 popa popb ∨ i = Instr.macz lc tile fp32 popa popb) :=
  ⟨sA false, 5, 2, true, true, true, blkA false, blkA false, job0, x1, by (repeat' apply And.intro) <;> first | decide +kernel | rfl | (intros; decide +kernel)⟩
theorem witness_AclrClearsTile :
    ∃ (s : Machine.State) (lc : Lc) (tile : Fin 4), SlotFree s ↑lc ∧ (s.core ↑lc).tileBusy ↑tile = false :=
  ⟨st0, 5, 0, by (repeat' apply And.intro) <;> first | decide +kernel | rfl | (intros; decide +kernel)⟩
def x2 : Machine.State := st1 (fun c => { c with arr := { c.arr with ramp := true, level := 3 } })
def x3 : Machine.State := st1 (fun c => { c with arr := { c.arr with ramp := true, level := 3, rising := true, riseCyc := 7 } })
def x4 : Machine.State := st1 (fun c => { c with arr := { c.arr with ramp := true, level := 8, quiet := 20 } })
theorem witness_LevelFollowsTable35 :
    (∃ (s : Machine.State) (lc : Lc), SlotFree s ↑lc) ∧
    (∃ (s : Machine.State) (lc : Lc), (s.core ↑lc).arr.rising = true ∧ 6 ≤ (s.core ↑lc).arr.riseCyc ∧ (s.core ↑lc).arr.level < 8) ∧
    (∃ (s : Machine.State) (lc : Lc), (s.core ↑lc).arr.rising = false ∧ (s.core ↑lc).seq.paused = false ∧ (s.core ↑lc).arr.level = levelAfter ((s.core ↑lc).arr.quiet - 1) (s.core ↑lc).linger ∧ levelAfter (s.core ↑lc).arr.quiet (s.core ↑lc).linger < (s.core ↑lc).arr.level) :=
  ⟨⟨x2, 5, by (repeat' apply And.intro) <;> first | decide +kernel | rfl | (intros; decide +kernel)⟩,
    ⟨x3, 5, by decide +kernel⟩,
    ⟨x4, 5, by decide +kernel⟩⟩
theorem witness_EmptySlotsDoNothing :
    ∃ (s : Machine.State) (lc : Lc), SlotFree s ↑lc :=
  ⟨st0, 5, by (repeat' apply And.intro) <;> first | decide +kernel | rfl | (intros; decide +kernel)⟩
theorem witness_ReadoutFillsSlot :
    ∃ (s : Machine.State) (lc : Lc) (tile : Fin 4) (slot : Fin 8), SlotFree s ↑lc ∧ (s.core ↑lc).slot ↑slot = SlotState.free ∧ (s.core ↑lc).portBusy = false ∧ (s.core ↑lc).arr.opTile ≠ some ↑tile :=
  ⟨st0, 5, 0, 2, by (repeat' apply And.intro) <;> first | decide +kernel | rfl | (intros; decide +kernel)⟩
theorem witness_LineLoadWritesTile :
    ∃ (s : Machine.State) (lc : Lc) (tile : Fin 4), SlotFree s ↑lc ∧ (s.core ↑lc).portBusy = false ∧ (s.core ↑lc).arr.opTile ≠ some ↑tile ∧ ∀ (r : ℕ), Tbl.get 0 (s.core ↑lc).fv.vready r ≤ (s.core ↑lc).seq.cycle :=
  ⟨st0, 5, 0, by ((try dsimp only); repeat' apply And.intro) <;> first | decide +kernel | rfl | exact fun _ => rfl | exact fun _ => Nat.zero_le _ | (intros; decide +kernel) | (intro x h; cases h; rfl) | (intro x h; cases h) | simp⟩
def x5 : List Instr := (decodeBundle 5 0).getD []
theorem witness_FlushEmptiesFeeder :
    (∃ (s : Machine.State) (lc : Lc), SlotFree s ↑lc) ∧
    (∃ (lc : Lc) (b : BitVec 512) (cs : List Instr), decodeBundle lc b = some cs) :=
  ⟨⟨st0, 5, by (repeat' apply And.intro) <;> first | decide +kernel | rfl | (intros; decide +kernel)⟩,
    ⟨5, 0, x5, by decide +kernel⟩⟩
theorem witness_BundleSlotsRoundTrip :
    (∃ (n : ℕ), n < 2 ^ 48) ∧
    (∃ (n : ℕ), n < 2 ^ 80) ∧
    (∃ (n : ℕ), n < 2 ^ 112) :=
  ⟨⟨0, by decide +kernel⟩,
    ⟨0, by decide +kernel⟩,
    ⟨0, by decide +kernel⟩⟩

end WA

namespace WB

def vs (k : Nat) : VSlot := { cnt := BitVec.ofNat 12 ([31, 63, 511, 1023, 4095, 2047, 127, 543, 0, 5, 100, 767][k % 12]!), vd := Fin.ofNat 64 ([0, 9, 20, 62, 63, 3][k % 6]!), va := Fin.ofNat 64 (k*7 % 64), vb := Fin.ofNat 64 (k*13 % 64), vc := Fin.ofNat 64 (k * 5 % 64), asrc := [VSrc.reg, .slot, .row, .col, .scalar].getD (k % 5) .reg, bsrc := [VSrc.reg, .row, .col, .scalar].getD (k / 5 % 4) .reg, rel := k % 3 = 0, rnd := k % 2 = 0, sat := k % 4 < 2, fmt := Fin.ofNat 6 (k % 6), imm := BitVec.ofNat 32 (0x40490000 + k), thr := BitVec.ofNat 16 (k * 1000) }
def sV : State := st1 (fun c => { c with seq := { c.seq with cycle := 5000 }, fv := { c.fv with slots := (List.range 8).map (fun i => (i, SlotState.full)), slotData := (List.range 900).map (fun i => (i*9, BitVec.ofNat 32 (0x3FA00000 + i * 65536))), vregs := (List.range 2000).map (fun i => (i*16, BitVec.ofNat 32 (if i % 37 = 0 then 0x7FC00000 else if i % 41 = 0 then 0xFF800000 else 0x3F800000 + i * 65537 + (i%2) * 0x80000000))), beats := 3, wait := 4 } })
def feedI (n : Nat) : FeedInstr := { op := .blk { mode := false, sfmt := .bin16, tr := false, rope := false, addr := 0, rep := 3, stride := 32, rdesc := 0 }, seq := n, bundle := 1, start := 0, q := 0, glist := [], cur := none, gone := none }
def fa1 : FBlkSlot := { mode := false, sfmt := .bin16, tr := false, rope := false, addr := 0, rep := 3, stride := 32, rdesc := 0 }
def fg1 : FGathSlot := { tr := false, rope := false, rep := 1, stride := 2, rdesc := 0, glist := 3 }
def xs (m : Bool) (sf : SFmt) (tr : Bool) : StoreCycle × FeedInstr := ⟨{ st := { st0 with mem := { st0.mem with byteFlaws := [], bytes := (List.range 5000).map (fun i => (mkDa 0 5 i, BitVec.ofNat 8 (i * 37 % 200 + 1))) } }, banks := [], conf := false }, { feedI 4 with op := .blk { fa1 with mode := m, sfmt := sf, tr := tr } }⟩
def sa (l : Bool) (im : Nat) (n : Nat) : StoreAcc := { load := l, slot := { vs 2 with cnt := BitVec.ofNat 12 n, imm := BitVec.ofNat 32 im, va := 0 }, seq := 9, bundle := 3, beat := 0, bytes := [] }
def xa (l : Bool) (im n : Nat) : StoreCycle := { (xs true .bin32 false).1 with st := (xs true .bin32 false).1.st.modCore 5 (fun c => {c with fv := {c.fv with acc := some (sa l im n)}}) }
def x0 : Machine.State := st1 (fun c => c.setFeeder .a ⟨[], [feedI 1, feedI 2]⟩)
theorem witness_FeederTakesInstruction :
    (∃ (s : Machine.State) (lc : Lc) (f : Feed) (a : FBlkSlot) (g : FGathSlot) (i : Instr) (op : FeedOp), (i = Instr.fblk lc f a ∧ op = FeedOp.blk a ∨ i = Instr.fgath lc f g ∧ op = FeedOp.gath g) ∧ SlotFree s ↑lc ∧ ((s.core ↑lc).feeder f).instrs.length < 2) ∧
    (∃ (s : Machine.State) (lc : Lc) (f : Feed) (a : FBlkSlot) (g : FGathSlot) (i : Instr) (op : FeedOp), (i = Instr.fblk lc f a ∧ op = FeedOp.blk a ∨ i = Instr.fgath lc f g ∧ op = FeedOp.gath g) ∧ SlotFree s ↑lc ∧ 2 ≤ ((s.core ↑lc).feeder f).instrs.length) :=
  ⟨⟨st0, 5, .a, fa1, fg1, .fblk 5 .a fa1, .blk fa1, by (repeat' apply And.intro) <;> first | decide +kernel | rfl | (intros; decide +kernel)⟩,
    ⟨x0, 5, .a, fa1, fg1, .fblk 5 .a fa1, .blk fa1, by (repeat' apply And.intro) <;> first | decide +kernel | rfl | (intros; decide +kernel)⟩⟩
def x1 : StoreCycle := (xs false .bin16 false).1
def x2 : FeedInstr := (xs false .bin16 false).2
def x3 : FBlkSlot := { fa1 with mode := false, sfmt := .bin16, tr := false }
theorem witness_BlockHoldsStoreBytes :
    ∃ (x : StoreCycle) (lc : Lc) (i : FeedInstr) (a : FBlkSlot), i.op = FeedOp.blk a ∧ a.rope = false ∧ x.st.mem.byteFlaws = [] ∧ meetBanks (banksOf (fblkAddr a i.q) (blockBytes a.sfmt)) x.banks = false ∧ (x.st.core ↑lc).awaits (↑lc) i.seq [(mkDa 0 (↑lc) (fblkAddr a i.q), blockBytes a.sfmt)] = false :=
  ⟨x1, 5, x2, x3, by decide +kernel⟩
theorem witness_OperandForms :
    ∃ (s : Machine.State) (lc : Lc), ∀ (r : ℕ), Tbl.get 0 (s.core ↑lc).fv.vready r ≤ (s.core ↑lc).seq.cycle :=
  ⟨sV, 5, by ((try dsimp only); repeat' apply And.intro) <;> first | decide +kernel | rfl | exact fun _ => rfl | exact fun _ => Nat.zero_le _ | (intros; decide +kernel) | (intro x h; cases h; rfl) | (intro x h; cases h) | simp⟩
theorem witness_VectorElementwise :
    ∃ (s : Machine.State) (lc : Lc) (a : VSlot), VecReady s (↑lc) a :=
  ⟨sV, 5, vs 0, by unfold VecReady; (repeat' apply And.intro) <;> first | decide +kernel | rfl | (intros; decide +kernel)⟩
theorem witness_VectorSpecial :
    ∃ (s : Machine.State) (lc : Lc) (a : VSlot), VecReady s (↑lc) a :=
  ⟨sV, 5, vs 0, by unfold VecReady; (repeat' apply And.intro) <;> first | decide +kernel | rfl | (intros; decide +kernel)⟩
theorem witness_VectorConversions :
    ∃ (s : Machine.State) (lc : Lc) (a : VSlot), VecReady s (↑lc) a :=
  ⟨sV, 5, vs 0, by unfold VecReady; (repeat' apply And.intro) <;> first | decide +kernel | rfl | (intros; decide +kernel)⟩
theorem witness_VectorReductions :
    ∃ (s : Machine.State) (lc : Lc) (a : VSlot), VecReady s (↑lc) a ∧ vcount a % 32 = 0 :=
  ⟨sV, 5, vs 0, by unfold VecReady; (repeat' apply And.intro) <;> first | decide +kernel | rfl | (intros; decide +kernel)⟩
theorem witness_VectorSoftmax :
    ∃ (s : Machine.State) (lc : Lc) (a : VSlot), VecReady s (↑lc) a ∧ vcount a % 32 = 0 :=
  ⟨sV, 5, vs 0, by unfold VecReady; (repeat' apply And.intro) <;> first | decide +kernel | rfl | (intros; decide +kernel)⟩
theorem witness_VectorMasks :
    ∃ (s : Machine.State) (lc : Lc) (a : VSlot), VecReady s (↑lc) a :=
  ⟨sV, 5, vs 0, by unfold VecReady; (repeat' apply And.intro) <;> first | decide +kernel | rfl | (intros; decide +kernel)⟩
def x4 : Machine.State := st1 (fun c => {c with fv := {c.fv with vfree := 2000}})
theorem witness_VectorWaitsAndFaults :
    (∃ (s : Machine.State) (lc : Lc) (a : VSlot) (j : Job), SlotFree s ↑lc ∧ (s.core ↑lc).fv.vfree ≤ (s.core ↑lc).seq.cycle ∧ (s.core ↑lc).fv.acc = none ∧ a.asrc = VSrc.slot ∧ (s.core ↑lc).slot (↑a.va % 8) = SlotState.free ∧ s.jobOf ↑lc = some j ∧ j.phase = JobPhase.running) ∧
    (∃ (s : Machine.State) (lc : Lc) (a : VSlot), SlotFree s ↑lc ∧ ((s.core ↑lc).seq.cycle < (s.core ↑lc).fv.vfree ∨ (s.core ↑lc).fv.acc.isSome = true ∨ a.asrc = VSrc.slot ∧ ((s.core ↑lc).slot (↑a.va % 8) = SlotState.filling ∨ (s.core ↑lc).slot (↑a.va % 8) = SlotState.draining))) :=
  ⟨⟨st0, 5, vs 1, job0, by (repeat' apply And.intro) <;> first | decide +kernel | rfl | (intros; decide +kernel)⟩,
    ⟨x4, 5, vs 1, by (repeat' apply And.intro) <;> first | decide +kernel | rfl | (intros; decide +kernel)⟩⟩
def x5 : Instr := (.vld (5) (vs 1))
theorem witness_StoreAccessBegins :
    ∃ (s : Machine.State) (lc : Lc) (a : VSlot) (load : Bool) (i : Instr), SlotFree s ↑lc ∧ (s.core ↑lc).fv.vfree ≤ (s.core ↑lc).seq.cycle ∧ (s.core ↑lc).fv.acc = none ∧ (i = Instr.vld lc a ∧ load = true ∨ i = Instr.vst lc a ∧ load = false) :=
  ⟨st0, 5, vs 1, true, x5, by (repeat' apply And.intro) <;> first | decide +kernel | rfl | (intros; decide +kernel)⟩
theorem witness_StoreAccessEnds :
    (∃ (x : StoreCycle) (lc : Lc) (a : StoreAcc), (x.st.core ↑lc).fv.acc = some a ∧ a.beat = 0 ∧ a.bytes = [] ∧ a.slot.cnt.toNat < 256 ∧ x.st.mem.byteFlaws = [] ∧ accWaits x (↑lc) a = false ∧ ∀ (r : ℕ), Tbl.get 0 (x.st.core ↑lc).fv.vready r ≤ (x.st.core ↑lc).seq.cycle) ∧
    (∃ (x : StoreCycle) (lc : Lc) (a : StoreAcc), (x.st.core ↑lc).fv.acc = some a ∧ a.beat = 0 ∧ a.bytes = [] ∧ a.slot.cnt.toNat < 256 ∧ x.st.mem.byteFlaws = [] ∧ accWaits x (↑lc) a = false ∧ (∀ (r : ℕ), Tbl.get 0 (x.st.core ↑lc).fv.vready r ≤ (x.st.core ↑lc).seq.cycle) ∧ a.load = true) ∧
    (∃ (x : StoreCycle) (lc : Lc) (a : StoreAcc), (x.st.core ↑lc).fv.acc = some a ∧ a.beat = 0 ∧ a.bytes = [] ∧ a.slot.cnt.toNat < 256 ∧ x.st.mem.byteFlaws = [] ∧ accWaits x (↑lc) a = false ∧ (∀ (r : ℕ), Tbl.get 0 (x.st.core ↑lc).fv.vready r ≤ (x.st.core ↑lc).seq.cycle) ∧ a.load = false) :=
  ⟨⟨xa true 0 31, 5, sa true 0 31, by ((try dsimp only); repeat' apply And.intro) <;> first | decide +kernel | rfl | exact fun _ => rfl | exact fun _ => Nat.zero_le _ | (intros; decide +kernel) | (intro x h; cases h; rfl) | (intro x h; cases h) | simp⟩,
    ⟨xa true 0 31, 5, sa true 0 31, by ((try dsimp only); repeat' apply And.intro) <;> first | decide +kernel | rfl | exact fun _ => rfl | exact fun _ => Nat.zero_le _ | (intros; decide +kernel) | (intro x h; cases h; rfl) | (intro x h; cases h) | simp⟩,
    ⟨xa false 3 255, 5, sa false 3 255, by ((try dsimp only); repeat' apply And.intro) <;> first | decide +kernel | rfl | exact fun _ => rfl | exact fun _ => Nat.zero_le _ | (intros; decide +kernel) | (intro x h; cases h; rfl) | (intro x h; cases h) | simp⟩⟩

end WB

namespace WC

def jb (f : Job → Job) (s : State) : State := { s with jobs := [f job0] }
def loopL (fst lst lft : Nat) : Loop := { first := fst, last := lst, left := lft, taken := 0 }
def snd0 (src dst : Nat) : Send := { src := src, dst := dst, gate := 3, n := 5, sister := false, cmpl := false }
def r0 : SegRec := { lc := 5, seg := 3, bundles := 2, ofs := 4096 }
def sl0 : SegLoad := { frame := 2, seg := 3, ofs := 4096, bundles := 2, data := st0.bytesAt (mkDa 1 5 4096) 128, bundle := 7 }
def sJF : State := { jb (fun j => {j with phase := .faulting}) st0 with cores := (List.range 20).map (fun i => (i, {core0 with seq := {core0.seq with stopped := true, fault := 99}})) }
def x0 : Instr := (.gwait (5) (3) (11))
def x1 : Machine.State := st1 (fun c => {c with seq := {c.seq with wakeTill := 20000000}})
theorem witness_GateWaits :
    (∃ (s : Machine.State) (lc : Lc) (g : Fin 64) (n : BitVec 24) (i : Instr), SlotFree s ↑lc ∧ (s.core ↑lc).gate ↑g < n.toNat ∧ (i = Instr.gwait lc g n ∨ i = Instr.gpeek lc g n)) ∧
    (∃ (s : Machine.State) (lc : Lc) (g : Fin 64) (n : BitVec 24),
  SlotFree s ↑lc ∧
    let woken : Prop := (s.core ↑lc).seq.stage2 = false ∧ (s.core ↑lc).seq.wakeTill ≤ s.ticks;
    n.toNat ≤ (s.core ↑lc).gate ↑g ∧ woken) ∧
    (∃ (s : Machine.State) (lc : Lc) (g : Fin 64) (n : BitVec 24) (i : Instr), SlotFree s ↑lc ∧ n.toNat ≤ (s.core ↑lc).gate ↑g ∧ (s.core ↑lc).seq.stage2 = false ∧ s.ticks < (s.core ↑lc).seq.wakeTill ∧ (i = Instr.gwait lc g n ∨ i = Instr.gpeek lc g n)) :=
  ⟨⟨st0, 5, 3, 11, x0, by (repeat' apply And.intro) <;> first | decide +kernel | rfl | (intros; decide +kernel)⟩,
    ⟨st0, 5, 3, 10, by (repeat' apply And.intro) <;> first | decide +kernel | rfl | (intros; decide +kernel)⟩,
    ⟨x1, 5, 3, 10, .gwait 5 3 10, by (repeat' apply And.intro) <;> first | decide +kernel | rfl | (intros; decide +kernel)⟩⟩
def x2 : Machine.State := {st0 with sends := [snd0 5 7, snd0 5 7]}
theorem witness_IncrementArrives :
    ∃ (s : Machine.State) (src : Lc) (dst : Lc) (x : Send) (rest : List Send), s.sends = x :: rest ∧ x.src = ↑src ∧ x.dst = ↑dst ∧ Calm s ∧ (s.core ↑dst).gate x.gate + x.n ≤ 16777215 :=
  ⟨x2, 5, 7, snd0 5 7, [snd0 5 7], by unfold Calm; decide +kernel⟩
theorem witness_LoopOpens :
    (∃ (s : Machine.State) (lc : Lc) (depth : Fin 4) (tgt : BitVec 13),
  SlotFree s ↑lc ∧
    let c : Core := s.core ↑lc;
    let last : ℕ := c.seq.next / 1024 * 1024 + tgt.toNat % 1024;
    let good : Prop := ↑depth = c.seq.loops.length ∧ ∀ l ∈ c.seq.loops.head?, last ≤ l.last;
    good) ∧
    (∃ (s : Machine.State) (lc : Lc) (depth : Fin 4) (tgt : BitVec 13) (j : Job),
  SlotFree s ↑lc ∧
    let c : Core := s.core ↑lc;
    let last : ℕ := c.seq.next / 1024 * 1024 + tgt.toNat % 1024;
    let good : Prop := ↑depth = c.seq.loops.length ∧ ∀ l ∈ c.seq.loops.head?, last ≤ l.last;
    ¬good ∧ s.jobOf ↑lc = some j ∧ j.phase = JobPhase.running) :=
  ⟨⟨st0, 5, 0, 1030, by (repeat' apply And.intro) <;> first | decide +kernel | rfl | (intros; decide +kernel)⟩,
    ⟨st0, 5, 1, 1031, job0, by (repeat' apply And.intro) <;> first | decide +kernel | rfl | (intros; decide +kernel)⟩⟩
def x3 : Machine.Loop := loopL 1028 1031 2
def x4 : Machine.Loop := loopL 1028 1030 2
def x5 : Machine.Loop := loopL 1028 1030 0
theorem witness_LoopEnds :
    (∃ (idx : ℕ) (l : Machine.Loop), l.last ≠ idx) ∧
    (∃ (idx : ℕ) (l : Machine.Loop), l.last = idx ∧ 0 < l.left) ∧
    (∃ (idx : ℕ) (l : Machine.Loop), l.last = idx ∧ l.left = 0) :=
  ⟨⟨1030, x3, by decide +kernel⟩,
    ⟨1030, x4, by decide +kernel⟩,
    ⟨1030, x5, by decide +kernel⟩⟩
def x6 : Machine.State := st1 (fun c => {c with seq := {c.seq with frames := [(1, .holds 3)]}})
theorem witness_SegmentsLoadAndJump :
    (∃ (s : Machine.State) (lc : Lc) (seg : Byte) (tgt : BitVec 13) (r : SegRec), SlotFree s ↑lc ∧ s.segRec (↑lc) (BitVec.toNat seg) = some r ∧ (s.core ↑lc).seq.loops = [] ∧ (s.core ↑lc).frame (tgt.toNat / 1024) = FrameTag.holds (BitVec.toNat seg)) ∧
    (∃ (s : Machine.State) (lc : Lc) (seg : Byte) (frame : Fin 8) (r : SegRec), SlotFree s ↑lc ∧ s.segRec (↑lc) (BitVec.toNat seg) = some r ∧ (s.core ↑lc).frameSelf ↑frame = false ∧ (s.core ↑lc).seq.segLoads.length < 2 ∧ ((s.core ↑lc).frame ↑frame).isLoading = false ∧ (s.core ↑lc).orderWait [(mkDa 1 (↑lc) r.ofs, 64 * r.bundles)] false = false) ∧
    (∃ (s : Machine.State) (lc : Lc) (seg : Byte) (tgt : BitVec 13) (r : SegRec) (j : Job), SlotFree s ↑lc ∧ s.segRec (↑lc) (BitVec.toNat seg) = some r ∧ s.jobOf ↑lc = some j ∧ j.phase = JobPhase.running ∧ ((s.core ↑lc).frame (tgt.toNat / 1024)).isLoading = false ∧ ((s.core ↑lc).seq.loops ≠ [] ∨ (s.core ↑lc).frame (tgt.toNat / 1024) ≠ FrameTag.holds (BitVec.toNat seg))) :=
  ⟨⟨x6, 5, 3, 1030, r0, by (repeat' apply And.intro) <;> first | decide +kernel | rfl | (intros; decide +kernel)⟩,
    ⟨st0, 5, 3, 2, r0, by (repeat' apply And.intro) <;> first | decide +kernel | rfl | (intros; decide +kernel)⟩,
    ⟨st0, 5, 3, 1030, r0, job0, by (repeat' apply And.intro) <;> first | decide +kernel | rfl | (intros; decide +kernel)⟩⟩
def x7 : Machine.State := st1 (fun c => {c with seq := {c.seq with frames := [(2, .loading 3)], segLoads := [sl0]}})
theorem witness_SegmentLoadCompletes :
    ∃ (s : Machine.State) (lc : Lc) (frame : Fin 8) (l : SegLoad), (s.core ↑lc).seq.segLoads = [l] ∧ l.frame = ↑frame ∧ s.canopyFull ↑lc = true ∧ s.mem.byteFlaws = [] ∧ l.data = s.bytesAt (mkDa 1 (↑lc) l.ofs) (64 * l.bundles) :=
  ⟨x7, 5, 2, sl0, by decide +kernel⟩
def x8 : Machine.State := jb (fun j => {j with mask := 1}) (st1 (fun c => {c with seq := {c.seq with loops := [loopL 1 2 3], segLoads := [sl0]}}))
theorem witness_ProgramEnds :
    (∃ (s : Machine.State) (lc : Lc), SlotFree s ↑lc ∧ s.endWaits ↑lc = true) ∧
    (∃ (s : Machine.State) (lc : Lc) (j : Job), SlotFree s ↑lc ∧ s.endWaits ↑lc = false ∧ s.jobOf ↑lc = some j ∧ s.jobAt j.node = some j ∧ j.phase = JobPhase.running ∧ ∃ k ∈ j.cores, k ≠ ↑lc ∧ (s.core k).seq.ended = false) :=
  ⟨⟨x8, 5, by (repeat' apply And.intro) <;> first | decide +kernel | rfl | (intros; decide +kernel)⟩,
    ⟨st0, 5, job0, by (repeat' apply And.intro) <;> first | decide +kernel | rfl | (intros; decide +kernel)⟩⟩
theorem witness_PhaseAndSlack :
    (∃ (s : Machine.State) (lc : Lc), (s.core ↑lc).dead = false) ∧
    (∃ (s : Machine.State) (lc : Lc), SlotFree s ↑lc ∧ (s.core ↑lc).seq.stage2 = false) :=
  ⟨⟨st0, 5, by decide +kernel⟩,
    ⟨st0, 5, by (repeat' apply And.intro) <;> first | decide +kernel | rfl | (intros; decide +kernel)⟩⟩
def x9 : Machine.State := st1 (fun c => {c with seq := {c.seq with stage1Cyc := 1024, gwaitLen := 20000, preboost := 6, phase := some (9, 64)}})
theorem witness_WaitAndBoost :
    (∃ (s : Machine.State) (lc : Lc) (a : Fin 16) (new : ℕ) (at' : ℕ), (s.core ↑lc).seq.phase = some (new, at') ∧ ↑a < new ∧ (s.core ↑lc).seq.stage2 = false ∧ s.corePowered ↑lc = true) ∧
    (∃ (s : Machine.State) (lc : Lc) (j : Job), s.jobOf ↑lc = some j ∧ j.vdrop = true ∧ 1024 ≤ (s.core ↑lc).seq.stage1Cyc ∧ 0 < (s.core ↑lc).seq.gwaitLen ∧ (s.core ↑lc).seq.segLoads = [] ∧ ∀ e ∈ (s.core ↑lc).mov.movers, e.2.queue = [] ∧ e.2.active = none) :=
  ⟨⟨x9, 5, 3, 9, 64, by decide +kernel⟩,
    ⟨x9, 5, job0, by decide +kernel⟩⟩
theorem witness_PaceWindows :
    ∃ (s : Machine.State) (j : Job), s.jobs = [j] ∧ j.isRunning = true :=
  ⟨st0, job0, by decide +kernel⟩
def x10 : Machine.State := { st1 (fun c => {c with seq := {c.seq with gwaitLen := 20000}}) with held := [.gwait 5 3 11, .gwait 7 3 11] }
theorem witness_GateStallFaults :
    ∃ (s : Machine.State) (lc : Lc) (j : Job), 0 < (s.core ↑lc).seq.gwaitLen ∧ (s.core ↑lc).seq.paused = false ∧ (s.core ↑lc).dead = false ∧ s.jobOf ↑lc = some j ∧ j.phase = JobPhase.running ∧ 1600000 * j.waitMs ≤ (s.core ↑lc).seq.waitTicks :=
  ⟨x10, 5, job0, by decide +kernel⟩
theorem witness_ContractFaultFields :
    ∃ (source : ℕ) (code : ℕ) (bundle : ℕ), source < 8 ∧ code < 16 ∧ bundle < 8192 :=
  ⟨3, 9, 8191, by decide +kernel⟩
def x11 : Machine.State := jb (fun j => {j with phase := .faulting}) (st1 (fun c => {c with seq := {c.seq with stopped := true, fault := 99}}))
def x12 : Job := { job0 with phase := .faulting}
theorem witness_HaltReachesCores :
    ∃ (s : Machine.State) (node : Fin 64) (j : Job), s.jobAt ↑node = some j ∧ j.phase = JobPhase.faulting :=
  ⟨x11, 1, x12, by decide +kernel⟩
theorem witness_JobBecomesFaulted :
    ∃ (s : Machine.State) (node : Fin 64) (j : Job), s.jobs = [j] ∧ j.node = ↑node ∧ j.phase = JobPhase.faulting ∧ s.sv = [] ∧ j.halters = [] ∧ ∀ lc ∈ j.cores, (s.core lc).dead = true ∧ (s.core lc).storing = false :=
  ⟨sJF, 1, x12, by decide +kernel⟩

end WC

namespace WD

def le (n v : Nat) : List Byte := leBytes n v
def descB (dst src rowlen rows ss ds : Nat) : List Byte := le 8 src ++ le 8 dst ++ le 4 rowlen ++ le 4 (rows-1) ++ le 4 ss ++ le 4 ds ++ List.replicate 32 0
def ms0 : MSlot := { mover := 1, lsel := 0, fence := false, desc := 80, sspace := 1, dspace := 0, share := 0, cgate := 3, clc := 5, cinc := 2 }
def xf (cl : Bool) (dst src rowlen rows ss ds : Nat) : Xfer := { clear := cl, slot := if cl then {ms0 with sspace := 0} else ms0, iter := 0, desc := descB dst (if cl then 0 else src) rowlen rows ss ds, seq := 4, bundle := 77, taken := false, data := [], bad := [], bankSince := none, posted := false }
def claim (k n : Nat) : Claim := { kind := if k = 0 then 0 else 1, flags := 0, lc := 5, unit := 5, base := 0, length := n }
def jc : Job := { job0 with claims := [claim 0 131072, claim 1 1048576] }
def clean (s : State) : State := { s with mem := { s.mem with flaws := [], byteFlaws := [], merges := [] }, jobs := [jc] }
def sM : State := clean st0
def withQ (x : Xfer) (s : State) : State := s.modCore 5 (fun c => c.setMover 1 { queue := [x], active := none })
def withA (x : Xfer) (s : State) : State := s.modCore 5 (fun c => c.setMover 1 { queue := [], active := some x })
def full : Xfer := xf false (mkDa 0 5 100) (mkDa 1 5 4096) 20 2 32 64
def badX : Xfer := xf false (mkDa 0 5 0x17FFF0) (mkDa 1 5 4096) 20 2 32 64
def fullF : Xfer := { full with slot := { ms0 with fence := true } }
def taken (x : Xfer) : Xfer := { x with taken := true, data := x.reads.flatMap (fun e => sM.bytesAt e.1 e.2), bad := List.replicate (x.reads.map (·.2)).sum false }
def x0 : Machine.State := sM.modCore 5 (fun c => c.setMover 1 { queue := List.replicate 15 full, active := some full })
theorem witness_MovesQueue :
    (∃ (s : Machine.State) (lc : Lc) (a : MSlot) (clear : Bool) (i : Instr),
  (i = Instr.mcopy lc a ∧ clear = false ∨ i = Instr.mclear lc a ∧ clear = true) ∧
    SlotFree s ↑lc ∧
      let mv : Mover := (s.core ↑lc).mover ↑a.mover;
      16 ≤ mv.credits) ∧
    (∃ (s : Machine.State) (lc : Lc) (a : MSlot) (clear : Bool) (i : Instr),
  (i = Instr.mcopy lc a ∧ clear = false ∨ i = Instr.mclear lc a ∧ clear = true) ∧
    SlotFree s ↑lc ∧
      let mv : Mover := (s.core ↑lc).mover ↑a.mover;
      mv.credits < 16 ∧
        NoErrors s ∧
          ∀ e ∈ s.cores, ∀ x ∈ e.2.transfers, overlaps x.writes [(mkDa 1 (↑lc) (a.desc.toNat * 64), 64)] = false) :=
  ⟨⟨x0, 5, ms0, false, .mcopy 5 ms0, by (repeat' apply And.intro) <;> first | decide +kernel | rfl | (intros; decide +kernel)⟩,
    ⟨sM, 5, ms0, true, .mclear 5 ms0, by (repeat' apply And.intro) <;> first | decide +kernel | rfl | (intros; decide +kernel)⟩⟩
def x1 : Machine.State := (withQ fullF sM).modCore 5 (fun c => c.setMover 2 ⟨[{full with seq := 2}], none⟩)
def x2 : MoveFail := ⟨1, true, 0, 5, 0x180000⟩
def x3 : Job := { job0 with claims := [claim 0 131072, claim 1 1048576] }
theorem witness_MovesStart :
    (∃ (s : Machine.State) (lc : Lc) (m : Fin 4) (x : Xfer) (rest : List Xfer), ((s.core ↑lc).mover ↑m).queue = x :: rest ∧ mayStartMove (s.core ↑lc) (↑lc) x ↑m = false ∧ ((s.core ↑lc).mover ↑m).active = none) ∧
    (∃ (s : Machine.State) (lc : Lc) (m : Fin 4) (x : Xfer) (rest : List Xfer) (f : MoveFail) (j : Job),
  ((s.core ↑lc).mover ↑m).queue = x :: rest ∧
    let s' : Machine.State :=
      s.modCore ↑lc fun (c : Core) ↦
        c.setMover (↑m)
          (have __src : Mover := c.mover ↑m;
          { queue := rest, active := __src.active });
    mayStartMove (s.core ↑lc) (↑lc) x ↑m = true ∧
      moveCheck s' (↑lc) x = some f ∧ (s.core ↑lc).mov.fault = 0 ∧ s.jobOf ↑lc = some j ∧ j.phase = JobPhase.running) ∧
    (∃ (s : Machine.State) (lc : Lc) (m : Fin 4) (x : Xfer) (rest : List Xfer),
  ((s.core ↑lc).mover ↑m).queue = x :: rest ∧
    let s' : Machine.State :=
      s.modCore ↑lc fun (c : Core) ↦
        c.setMover (↑m)
          (have __src : Mover := c.mover ↑m;
          { queue := rest, active := __src.active });
    mayStartMove (s.core ↑lc) (↑lc) x ↑m = true ∧
      moveCheck s' (↑lc) x = none ∧
        NoErrors s ∧
          x.bankSince = none ∧
            xferAccess s' x = OrgAccess.serve ∧
              (∀ e ∈ x.reads ++ x.writes, daSpace e.1 ≤ 3) ∧ x.storeHeld s' ↑lc = false) :=
  ⟨⟨x1, 5, 1, fullF, [], by decide +kernel⟩,
    ⟨withQ badX sM, 5, 1, badX, [], x2, x3, by decide +kernel⟩,
    ⟨withQ full sM, 5, 1, full, [], by (repeat' apply And.intro) <;> first | decide +kernel | rfl | (intros; decide +kernel)⟩⟩
def x4 : Machine.State := withA (taken full) sM
theorem witness_MovesComplete :
    ∃ (s : Machine.State) (lc : Lc) (m : Fin 4) (te : List (ℕ × Bool)) (x : Xfer), (∀ e ∈ te, e.2 = true) ∧ ((s.core ↑lc).mover ↑m).active = some x ∧ x.posted = false ∧ NoErrors s ∧ s.trn = [] ∧ Calm s ∧ xferAccess s x = OrgAccess.serve ∧ x.storeHeld s ↑lc = false ∧ (∀ e ∈ x.reads ++ x.writes, daSpace e.1 ≤ 1) ∧ (∀ e ∈ x.writes, daSpace (e.1 + e.2) ≤ 1) ∧ (x.clear = false → x.taken = true ∧ x.data = List.flatMap (fun (e : ℕ × ℕ) ↦ s.bytesAt e.1 e.2) x.reads ∧ x.bad = List.replicate x.data.length false ∧ overlaps x.reads x.writes = false) ∧ (↑x.slot.clc = ↑lc → (s.core ↑lc).gate ↑x.slot.cgate + x.slot.cinc.toNat ≤ 16777215) :=
  ⟨x4, 5, 1, [(1, true)], taken full, by unfold Calm; (repeat' apply And.intro) <;> first | decide +kernel | rfl | (intros; decide +kernel)⟩
def x5 : ℕ × ℕ := (mkDa 0 5 100, 20)
theorem witness_TransferRows :
    ∃ (x : Xfer) (e : ℕ × ℕ), e ∈ x.writes :=
  ⟨full, x5, by decide +kernel⟩

end WD

namespace WE

def pk (dst : Nat) (sp ofs n : Nat) (data : List Byte) : Pkt := { src := 9, dst := BitVec.ofNat 10 dst, tag := 0x33, space := BitVec.ofNat 4 sp, ofs := BitVec.ofNat 40 ofs, bytes := BitVec.ofNat 10 n, data := data }
def clean (s : State) : State := { s with mem := { s.mem with flaws := [], byteFlaws := [], merges := [] } }
def sM : State := clean st0
def p1 := pk 5 0 256 32 (List.replicate 32 77)
def rs1 : Rsp := { dst := 9, src := 5, tag := 3, kind := .wack, data := [], stale := false }
def rs2 : Rsp := { rs1 with kind := .wack, stale := true, dst := 8 }
theorem witness_RequestsServed :
    (∃ (s : Machine.State) (p : Pkt) (da : ℕ) (n : ℕ), Calm s ∧ s.orgLinked [(da, n)] = true ∧ s.mayWrite da n = true ∧ s.pktAbsorbed p = false ∧ NoErrors s ∧ s.trn = [] ∧ s.isWindow da = false ∧ s.pktDa p n = Sum.inl da ∧ orgAccessRange s da n = OrgAccess.serve ∧ n = p.data.length) ∧
    (∃ (s : Machine.State) (p : Pkt) (da : ℕ) (n : ℕ), Calm s ∧ s.orgLinked [(da, n)] = true ∧ s.mayWrite da n = true ∧ s.pktAbsorbed p = false ∧ NoErrors s ∧ s.trn = [] ∧ s.isWindow da = false ∧ s.pktDa p n = Sum.inl da ∧ orgAccessRange s da n = OrgAccess.serve ∧ n = p.bytes.toNat) :=
  ⟨⟨sM, p1, mkDa 0 5 256, 32, by unfold Calm; (repeat' apply And.intro) <;> first | decide +kernel | rfl | (intros; decide +kernel)⟩,
    ⟨sM, p1, mkDa 0 5 256, 32, by unfold Calm; (repeat' apply And.intro) <;> first | decide +kernel | rfl | (intros; decide +kernel)⟩⟩
def x0 : Pkt := pk 30 0 256 32 []
def x1 : Instr := .read (pk 30 0 256 32 [])
theorem witness_RequestsRefused :
    ∃ (s : Machine.State) (p : Pkt) (te : List (ℕ × Bool)) (i : Instr) (n : ℕ) (st : ℕ), (i = Instr.write p te ∧ n = p.data.length ∨ i = Instr.read p ∧ n = p.bytes.toNat ∨ i = Instr.clear p n) ∧ Calm s ∧ s.pktAbsorbed p = false ∧ s.pktDa p n = Sum.inr st :=
  ⟨sM, x0, [], x1, 32, 0x21, by unfold Calm; decide +kernel⟩
def x2 : Machine.State := {sM with tr := {sM.tr with rsps := [rs2, rs1, rs1]}}
theorem witness_ResponsesArrive :
    ∃ (s : Machine.State) (i : Instr) (dst : BitVec 10) (src : BitVec 10) (tag : Byte) (k : RspKind) (r : Rsp) (before : List Rsp) (after : List Rsp), RspArrives i dst src tag k ∧ s.tr.rsps = before ++ r :: after ∧ (∀ x ∈ before, x.dst ≠ dst.toNat ∨ x.src ≠ src.toNat) ∧ Calm s ∧ r.dst = dst.toNat ∧ r.src = src.toNat ∧ r.tag = BitVec.toNat tag ∧ r.kind = k :=
  ⟨x2, .wack 9 5 3, 9, 5, 3, .wack, rs1, [rs2], [rs1], by (unfold Calm RspArrives; (try dsimp only); repeat' apply And.intro) <;> first | decide +kernel | rfl | exact fun _ => rfl | exact fun _ => Nat.zero_le _ | (intros; decide +kernel) | (intro x h; cases h; rfl) | (intro x h; cases h) | simp⟩
def x3 : Instr := (.cread (30) (4) (some 3) (0x2C))
theorem witness_ControlPackets :
    (∃ (s : Machine.State) (dst : BitVec 10) (ofs : BitVec 18), Calm s ∧ dst = 921 ∧ ofs = 44) ∧
    (∃ (s : Machine.State) (dst : BitVec 10) (tag : Byte) (q : Option (BitVec 16)) (ofs : BitVec 18) (v : Word) (i : Instr), Calm s ∧ dst ≠ 921 ∧ (dst.toNat < 880 → s.lcOf dst.toNat = none) ∧ (i = Instr.cread dst tag q ofs ∨ i = Instr.cwrite dst tag q ofs v)) :=
  ⟨⟨sM, 0x399, 0x2C, by unfold Calm; decide +kernel⟩,
    ⟨sM, 30, 4, some 3, 0x2C, 0x1234, x3, by unfold Calm; decide +kernel⟩⟩
theorem witness_CommandBroadcasts :
    ∃ (b : Bcmd), b = Bcmd.pause ∨ b = Bcmd.clock ∨ b = Bcmd.cap :=
  ⟨.pause, by decide +kernel⟩
theorem witness_BroadcastDataNeedsNoJob :
    ∃ (ofs : BitVec 40) (data : List Byte), ofs.toNat + data.length ≤ 2 ^ 40 :=
  ⟨100, [1,2,3], by decide +kernel⟩
def x4 : Machine.State := { sM with hif := { sM.hif with queues := [(2, { HostQueue.init with running := [{ id := 39, cid := 7, torzan := true, foot := [], kiosk := true, started := true, held := true, e := { flags := 1, rsv3 := 0, cid := 7, plen := 0, rsv12 := 0, daddr := 0, dlen := 0, tail := 0 } }] })] } }
def x5 : Running := { id := 39, cid := 7, torzan := true, foot := [], kiosk := true, started := true, held := true, e := { flags := 1, rsv3 := 0, cid := 7, plen := 0, rsv12 := 0, daddr := 0, dlen := 0, tail := 0 } }
theorem witness_LinksAndLosses :
    (∃ (s : Machine.State) (b : Fin 891) (port : Fin 347), portLink ↑b ↑port = none ∨ s.linkCut ↑b ↑port = true) ∧
    (∃ (s : Machine.State) (q : BitVec 16) (cid : Word) (r : Running), (s.queue q.toNat).running = [r] ∧ r.cid = cid) ∧
    (∃ (s : Machine.State) (src : BitVec 10) (node : Fin 64) (j : Job), s.jobAt ↑node = some j ∧ j.phase = JobPhase.running ∧ s.jobOf (lostRecorder s j src.toNat) = some j) :=
  ⟨⟨sM, 30, 700, by decide +kernel⟩,
    ⟨x4, 2, 7, x5, by decide +kernel⟩,
    ⟨sM, 5, 1, job0, by decide +kernel⟩⟩

end WE

namespace WE2

def pk (dst : Nat) (sp ofs n : Nat) (data : List Byte) : Pkt := { src := 9, dst := BitVec.ofNat 10 dst, tag := 0x33, space := BitVec.ofNat 4 sp, ofs := BitVec.ofNat 40 ofs, bytes := BitVec.ofNat 10 n, data := data }
def clean (s : State) : State := { s with mem := { s.mem with flaws := [], byteFlaws := [], merges := [] } }
def sM : State := clean st0
def bl : Blame := { src := 5, dst := 7, n := 9 }
def qn0 : Nat := 5 * 512 + 7
def sq0 : SiteQueue := { SiteQueue.init with ring := mkDa 0 5 4096, log2 := 3, gate := 4, quota := 6, tail := 9, headDa := mkDa 0 5 60, headSeen := 5, st := 1 }
def sQ (f : SiteQueue → SiteQueue) : State := { sM with tr := { sM.tr with queues := [(qn0, f sq0)] } }
def pp (n : Nat) : Pkt := pk 5 0 qn0 64 (List.replicate 64 9)
def po (q : Nat) : Post := { qn := q, data := List.replicate 64 9, src := .pkt 9 0x33, since := some 5 }
def x0 : Machine.State := {sM with blames := [bl, bl]}
theorem witness_BlamesAndMaps :
    ∃ (s : Machine.State) (src : Lc) (dst : Lc) (x : Blame) (rest : List Blame), s.blames = x :: rest ∧ x.src = ↑src ∧ x.dst = ↑dst ∧ Calm s :=
  ⟨x0, 5, 7, bl, [bl], by unfold Calm; decide +kernel⟩
def x1 : Machine.State := sQ (fun q => {q with st := 0})
def x2 : Machine.State := sQ (fun q => {q with quota := 4, headSeen := 0x403f3e3d, tail := 0x403f3e3d + 4})
theorem witness_PostsAccepted :
    (∃ (s : Machine.State) (p : Pkt) (te : List (ℕ × Bool)) (lc : ℕ),
  let qn : ℕ := p.ofs.toNat % 2 ^ 19;
  (∀ e ∈ te, e.2 = true) ∧
    isSiteQueue qn = true ∧
      qn / 512 = p.dst.toNat ∧
        s.niPosts (qn / 512) < 8 ∧
          s.sv = [] ∧
            (∀ x ∈ s.tr.posts, x.qn ≠ qn) ∧
              s.lcOf (qn / 512) = some lc ∧
                s.absorbs lc = false ∧
                  NoErrors s ∧
                    p.data.length = 64 ∧
                      p.dst.toNat < 880 ∧
                        Calm s ∧
                          storeWait s (s.sq qn).ring = none ∧ storeWait s (s.sq qn).headDa = none ∧ (s.sq qn).st ≠ 1) ∧
    (∃ (s : Machine.State) (p : Pkt) (te : List (ℕ × Bool)) (lc : ℕ),
  let qn : ℕ := p.ofs.toNat % 2 ^ 19;
  (∀ e ∈ te, e.2 = true) ∧
    isSiteQueue qn = true ∧
      qn / 512 = p.dst.toNat ∧
        s.niPosts (qn / 512) < 8 ∧
          s.sv = [] ∧
            (∀ x ∈ s.tr.posts, x.qn ≠ qn) ∧
              s.lcOf (qn / 512) = some lc ∧
                s.absorbs lc = false ∧
                  NoErrors s ∧
                    p.data.length = 64 ∧
                      p.dst.toNat < 880 ∧
                        Calm s ∧
                          storeWait s (s.sq qn).ring = none ∧
                            storeWait s (s.sq qn).headDa = none ∧
                              (s.sq qn).st = 1 ∧
                                (s.sq qn).occ < (s.sq qn).quota ∧ (s.core lc).gate (s.sq qn).gate + 1 ≤ 16777215) ∧
    (∃ (s : Machine.State) (p : Pkt) (te : List (ℕ × Bool)) (lc : ℕ),
  let qn : ℕ := p.ofs.toNat % 2 ^ 19;
  (∀ e ∈ te, e.2 = true) ∧
    isSiteQueue qn = true ∧
      qn / 512 = p.dst.toNat ∧
        s.niPosts (qn / 512) < 8 ∧
          s.sv = [] ∧
            (∀ x ∈ s.tr.posts, x.qn ≠ qn) ∧
              s.lcOf (qn / 512) = some lc ∧
                s.absorbs lc = false ∧
                  NoErrors s ∧
                    p.data.length = 64 ∧
                      p.dst.toNat < 880 ∧
                        Calm s ∧
                          storeWait s (s.sq qn).ring = none ∧
                            storeWait s (s.sq qn).headDa = none ∧
                              (s.sq qn).st = 1 ∧
                                (s.sq qn).quota = (s.sq qn).occ ∧
                                  (s.sq qn).occ ≤ 2 ^ (s.sq qn).log2 ∧
                                    BitVec.ofNat 32 (leNat (s.bytesAt (s.sq qn).headDa 4)) = (s.sq qn).headSeen) :=
  ⟨⟨x1, pp 0, [], 5, by unfold Calm; (repeat' apply And.intro) <;> first | decide +kernel | rfl | (intros; decide +kernel)⟩,
    ⟨sQ id, pp 0, [], 5, by unfold Calm; (repeat' apply And.intro) <;> first | decide +kernel | rfl | (intros; decide +kernel)⟩,
    ⟨x2, pp 0, [], 5, by unfold Calm; (repeat' apply And.intro) <;> first | decide +kernel | rfl | (intros; decide +kernel)⟩⟩
def x3 : Machine.State := sQ (fun q => {q with tail := 0x403f3e3d + 4})
def x4 : BitVec 19 := BitVec.ofNat 19 qn0
def x5 : Machine.State := {sQ (fun q => {q with quota := 4, headSeen := 5}) with tr := {(sQ (fun q => {q with quota := 4, headSeen := 5})).tr with posts := [po qn0]}}
theorem witness_HeadsAndTimeouts :
    (∃ (s : Machine.State) (qn : BitVec 19), isSiteQueue qn.toNat = true ∧ (s.sq qn.toNat).st = 1 ∧ NoErrors s ∧ s.sv = [] ∧ ∀ x ∈ s.tr.posts, x.qn ≠ qn.toNat) ∧
    (∃ (s : Machine.State) (qn : BitVec 19) (x : Post) (dst : ℕ) (tag : ℕ) (w : ℕ), isSiteQueue qn.toNat = true ∧ s.tr.posts = [x] ∧ x.qn = qn.toNat ∧ x.src = PostSrc.pkt dst tag ∧ x.since = some w ∧ w + 100 ≤ s.us ∧ s.sv = []) :=
  ⟨⟨x3, x4, by (repeat' apply And.intro) <;> first | decide +kernel | rfl | (intros; decide +kernel)⟩,
    ⟨x5, x4, po qn0, 9, 0x33, 5, by decide +kernel⟩⟩

end WE2

namespace WF

def clean (s : State) : State := { s with mem := { s.mem with flaws := [], byteFlaws := [], merges := [] } }
def sM : State := { clean st0 with seams := [], bundles := [] }
def rtS (n : Nat) : State := {sM with bundles := (List.range n).map (fun i => (660 + i, {Bundle.init with retuning := true}))}
def me : MergeEntry := { word := mkDa 2 5 64, mask := 0xFFFF, lc := none, bad := 0 }
def rg (f : Region → Region) : Region := f { Region.init with st := .resident, gen := 5, holder := .host, buf := 0x4000 }
def stk (f : Stack → Stack) (g : Region → Region) : State := { sM with orgs := [(2, f { Stack.init with linkUp := true, trained := true, regions := [(4, rg g)] })] }
def args (a : List Nat) : BitVec 128 := BitVec.ofNat 128 (leNat (a.map (BitVec.ofNat 8)))
def rc (cm : Nat) (a : List Nat) : OrgRec := { rsv := 0, gen := 5, chmask := 3, bkmask := 0xC0000006, cmpl := BitVec.ofNat 32 cm, args := args a }
def sB : State := stk id (fun g => {g with bank := .bank})
def jc : Job := { job0 with claims := [{ kind := 0, flags := 0, lc := 5, unit := 5, base := 0, length := 131072 }] }
def sJ : State := { stk id (fun g => {g with bank := .bank, holder := .job 1}) with jobs := [jc] }
def rn (cm : Nat) (far n ofs : Nat) : OrgRec := { rsv := 0, gen := 5, chmask := 0, bkmask := 0, cmpl := BitVec.ofNat 32 cm, args := BitVec.ofNat 128 (far + 2^64 * n + 2^96 * ofs) }
def cm0 : Cmpl := {lc := 5, gate := 3, n := 7}
def ub (f : BUnit → BUnit) (o d : Nat) : State := stk (fun t => {t with units := [(71, f {BUnit.init with st := .running, pc := 3})], owed := [(71, o)], due := [(71, d)]}) (fun g => {g with bank := .bank})
def bu : BankUnit := { stack := 2, ch := 2, bk := 7 }
def x0 : Machine.State := {sM with regions := [(2, {ClockRegion.init with locked := true, now := 9})]}
theorem witness_ClocksAndSeams :
    (∃ (s : Machine.State) (r : Fin 5), (s.clk ↑r).locked = true) ∧
    (∃ (s : Machine.State) (seam : Fin 15) (pos : Fin 220) (ok : Bool) (ok2 : Bool),
  let k : ℕ := ↑seam * 220 + ↑pos;
  (s.bundle k).retuning = true ∧ (∀ j ∈ s.retunes, j / 220 ≠ ↑seam) ∧ ok = false ∧ ok2 = false) ∧
    (∃ (s : Machine.State) (seam : Fin 15) (pos : Fin 220),
  let k : ℕ := ↑seam * 220 + ↑pos;
  (s.clk 0).locked = true ∧
    (s.bundle k).failed = false ∧ (s.bundle k).retuning = false ∧ k ∉ s.retunes ∧ s.retuningIn ↑seam < 8) ∧
    (∃ (s : Machine.State) (seam : Fin 15) (pos : Fin 220),
  let k : ℕ := ↑seam * 220 + ↑pos;
  (s.clk 0).locked = true ∧
    (s.bundle k).failed = false ∧ (s.bundle k).retuning = false ∧ k ∉ s.retunes ∧ 8 ≤ s.retuningIn ↑seam) ∧
    (∃ (s : Machine.State) (seam : Fin 15) (pos : Fin 220) (w : BitVec 64) (ok : Bool) (lo : ℕ) (m : ℕ),
  let k : ℕ := ↑seam * 220 + ↑pos;
  (s.bundle k).retuning = true ∧
    (∀ j ∈ s.retunes, j / 220 ≠ ↑seam) ∧
      ok = true ∧ lo + 2 * m < 64 ∧ ∀ i < 64, w.getLsbD i = decide (lo ≤ i ∧ i ≤ lo + 2 * m)) :=
  ⟨⟨x0, 2, by decide +kernel⟩,
    ⟨rtS 8, 3, 7, false, false, by decide +kernel⟩,
    ⟨sM, 3, 7, by decide +kernel⟩,
    ⟨rtS 8, 3, 8, by decide +kernel⟩,
    ⟨rtS 8, 3, 7, 0x3E, true, 1, 2, by decide +kernel⟩⟩
def x1 : Machine.State := {sM with mem := {sM.mem with writeBacks := [mkDa 2 5 64], flaws := [(mkDa 2 5 64, [0,0,0,5,0,0,0,0,0,0,0,0,0,0,0,0,0,0,0,0,0,0,0,0,0,0,0,0,0,0,0,0,0,0,0,0])]}}
def x2 : Dword := BitVec.ofNat 64 (mkDa 2 5 64)
def x3 : Machine.State := {sM with mem := {sM.mem with merges := [me]}}
def x4 : Dword := BitVec.ofNat 64 (mkDa 2 5 70)
def x5 : Machine.State := {sM with mem := {sM.mem with merges := [me], flaws := [(mkDa 2 5 64, poisonWord)], valid := [(mkDa 2 5 64 / 64, true)]}}
theorem witness_MemoryUpkeep :
    (∃ (s : Machine.State) (da : Dword),
  let a : ℕ := BitVec.toNat da;
  a ∈ s.mem.writeBacks) ∧
    (∃ (s : Machine.State) (da : Dword) (e : MergeEntry), e.word = BitVec.toNat da / 32 * 32 ∧ s.mem.merges = [e] ∧ e.bad = 0 ∧ Tbl.get [] s.mem.flaws e.word = []) ∧
    (∃ (s : Machine.State) (da : Dword) (e : MergeEntry), e.word = BitVec.toNat da / 32 * 32 ∧ s.mem.merges = [e] ∧ e.bad = 0 ∧ Tbl.get [] s.mem.flaws e.word = poisonWord ∧ e.mask ≠ BitVec.allOnes 32 ∧ s.lineValid e.word = true ∧ e.lc = none ∧ s.mem.logUsed < 1024) :=
  ⟨⟨x1, x2, by decide +kernel⟩,
    ⟨x3, x4, me, by decide +kernel⟩,
    ⟨x5, x4, me, by decide +kernel⟩⟩
def x6 : Machine.State := stk id (fun g => {g with st := .pageIn})
def x7 : Machine.State := stk id (fun g => {g with st := .pageOut})
theorem witness_PagesMove :
    (∃ (s : Machine.State) (k : Fin 6) (r : Fin 16384),
  let g : Region := s.region ↑k ↑r;
  g.cmd = [] ∧ s.hif.bme = true ∧ NoErrors s ∧ s.hostFails g.buf (2 ^ 26) = false ∧ g.st = RegionState.pageIn) ∧
    (∃ (s : Machine.State) (k : Fin 6) (r : Fin 16384),
  let g : Region := s.region ↑k ↑r;
  g.cmd = [] ∧
    s.hif.bme = true ∧
      NoErrors s ∧
        s.hostFails g.buf (2 ^ 26) = false ∧
          g.st = RegionState.pageOut ∧ s.moverReaches ↑k ↑r = false ∧ (s.stack ↑k).waitIn = []) :=
  ⟨⟨x6, 2, 4, by (repeat' apply And.intro) <;> first | decide +kernel | rfl | (intros; decide +kernel)⟩,
    ⟨x7, 2, 4, by (repeat' apply And.intro) <;> first | decide +kernel | rfl | (intros; decide +kernel)⟩⟩
def x8 : Machine.State := stk id (fun g => {g with bank := .entering})
def x9 : Machine.State := stk id (fun g => {g with bank := .releasing})
theorem witness_BankModeMoves :
    (∃ (s : Machine.State) (k : Fin 6) (r : Fin 16384),
  let g : Region := s.region ↑k ↑r;
  g.cmd = [] ∧ g.holder = Holder.host ∧ g.bank = BankState.entering ∧ NoErrors s) ∧
    (∃ (s : Machine.State) (k : Fin 6) (r : Fin 16384),
  let g : Region := s.region ↑k ↑r;
  g.cmd = [] ∧
    g.holder = Holder.host ∧
      g.bank = BankState.releasing ∧ (s.stack ↑k).allQuiet = true ∧ g.relWait = 0 ∧ g.abort = false ∧ g.relCmpl = none) :=
  ⟨⟨x8, 2, 4, by (repeat' apply And.intro) <;> first | decide +kernel | rfl | (intros; decide +kernel)⟩,
    ⟨x9, 2, 4, by decide +kernel⟩⟩
def x10 : OrgRec := rc 0 [1,2,3,4,5,6,7,8,9,10,11,12]
def x11 : OrgRec := rc 0 [1,2,3,4,5,6,7,8,9,10,11,12,13,14,15,16]
theorem witness_RecordsSetUnits :
    (∃ (s : Machine.State) (k : Fin 6) (r : Fin 16384) (x : OrgRec), RecTurn s (↑k) (↑r) x ∧ x.rsv = 0 ∧ s.skipsStart ↑k = none ∧ cmplOk s (↑k) x = true ∧ x.args = 0) ∧
    (∃ (s : Machine.State) (k : Fin 6) (r : Fin 16384) (x : OrgRec), RecTurn s (↑k) (↑r) x ∧ x.rsv = 0 ∧ s.skipsStart ↑k = none ∧ (∀ u ∈ recUnits x, ((s.stack ↑k).unit u).quiet = true) ∧ (s.stack ↑k).active = [] ∧ x.cmpl = 0 ∧ recArg x 28 31 = 0) ∧
    (∃ (s : Machine.State) (k : Fin 6) (r : Fin 16384) (x : OrgRec), RecTurn s (↑k) (↑r) x ∧ x.rsv = 0 ∧ s.skipsStart ↑k = none ∧ (∀ u ∈ recUnits x, ((s.stack ↑k).unit u).quiet = true) ∧ (s.stack ↑k).active = [] ∧ fld x.cmpl 31 8 = 0 ∧ fld x.cmpl 7 0 % 4 = 0) ∧
    (∃ (s : Machine.State) (k : Fin 6) (r : Fin 16384) (x : OrgRec), RecTurn s (↑k) (↑r) x ∧ x.rsv = 0 ∧ s.skipsStart ↑k = none ∧ (∀ u ∈ recUnits x, ((s.stack ↑k).unit u).quiet = true) ∧ (s.stack ↑k).active = [] ∧ cmplOk s (↑k) x = true ∧ recArg x 17 17 < 2 ∧ recArg x 18 31 = 0) :=
  ⟨⟨sB, 2, 4, rc 0 [], by unfold RecTurn; decide +kernel⟩,
    ⟨sB, 2, 4, x10, by unfold RecTurn; decide +kernel⟩,
    ⟨sB, 2, 4, x11, by unfold RecTurn; decide +kernel⟩,
    ⟨sB, 2, 4, rc 0 [17,1], by unfold RecTurn; decide +kernel⟩⟩
def x12 : OrgRec := rn 0x10C05 1 0 0
def x13 : OrgRec := rn 0x10C05 (mkDa 0 5 64) 64 0x20000
def x14 : OrgRec := rn 0x10C05 (mkDa 0 5 64) 2 0x100000
theorem witness_RecordsBegin :
    (∃ (s : Machine.State) (k : Fin 6) (r : Fin 16384) (x : OrgRec), RecTurn s (↑k) (↑r) x ∧ x.rsv = 0 ∧ recNoMask x = true ∧ cmplOk s (↑k) x = true ∧ recArg x 16 16 < 2 ∧ recArg x 17 31 = 0) ∧
    (∃ (s : Machine.State) (k : Fin 6) (r : Fin 16384) (x : OrgRec),
  RecTurn s (↑k) (↑r) x ∧
    x.rsv = 0 ∧
      recNoMask x = true ∧
        cmplOk s (↑k) x = true ∧
          let far : ℕ := recArg x 16 23;
          let n : ℕ := recArg x 24 27;
          let ofs : ℕ := recArg x 28 31;
          copyOk x = true ∧ farOk s (↑k) far n = true ∧ banksWait (s.stack ↑k) ofs n = false) ∧
    (∃ (s : Machine.State) (k : Fin 6) (r : Fin 16384) (x : OrgRec),
  RecTurn s (↑k) (↑r) x ∧
    x.rsv = 0 ∧
      recNoMask x = true ∧
        cmplOk s (↑k) x = true ∧
          let far : ℕ := recArg x 16 23;
          let n : ℕ := recArg x 24 27;
          let ofs : ℕ := recArg x 28 31;
          digestOk x = true ∧
            farOk s (↑k) far (8 * n) = true ∧
              banksWait (s.stack ↑k) ofs (n * 2 ^ 20) = false ∧ rowsBusy (s.stack ↑k) = false) :=
  ⟨⟨sJ, 2, 4, x12, by unfold RecTurn; decide +kernel⟩,
    ⟨sJ, 2, 4, x13, by unfold RecTurn; decide +kernel⟩,
    ⟨sJ, 2, 4, x14, by unfold RecTurn; decide +kernel⟩⟩
def x15 : Machine.State := {sJ with held := [.seed 2 4 (rc 0 [])]}
def x16 : OrgRec := {rc 0 [] with rsv := 4}
def x17 : Instr := .copyin 2 4 {rc 0 [] with rsv := 4}
def x18 : Instr := .start 2 4 {rc 0 [] with rsv := 4}
def x19 : OrgRec := {rc 0 [] with gen := 4}
def x20 : Instr := .start 2 4 {rc 0 [] with gen := 4}
theorem witness_RecordsRefused :
    (∃ (s : Machine.State) (k : Fin 6) (r : Fin 16384) (x : OrgRec), ∃ i ∈ [Instr.pload k r x, Instr.pset k r x, Instr.seed k r x, Instr.start k r x, Instr.stop k r x, Instr.copyin k r x, Instr.copyout k r x, Instr.digest k r x, Instr.release k r x], s.recQueue ↑k ≠ 0) ∧
    (∃ (s : Machine.State) (k : Fin 6) (r : Fin 16384) (x : OrgRec), ∃ i ∈ [Instr.pload k r x, Instr.pset k r x, Instr.seed k r x, Instr.start k r x, Instr.stop k r x, Instr.copyin k r x, Instr.copyout k r x, Instr.digest k r x, Instr.release k r x], RecTurn s (↑k) (↑r) x ∧ x.rsv ≠ 0 ∧ (s.stack ↑k).holder = some Holder.host) ∧
    (∃ (s : Machine.State) (k : Fin 6) (r : Fin 16384) (x : OrgRec), ∃ i ∈ [Instr.pload k r x, Instr.pset k r x, Instr.seed k r x, Instr.start k r x, Instr.stop k r x, Instr.copyin k r x, Instr.copyout k r x, Instr.digest k r x, Instr.release k r x], s.recQueue ↑k = 0 ∧ (∀ e ∈ (s.stack ↑k).regions, e.2.bank ≠ BankState.releasing ∧ e.2.relWait = 0) ∧ x.gen ≠ (s.region ↑k ↑r).gen) :=
  ⟨⟨x15, 2, 4, x16, x17, by decide +kernel⟩,
    ⟨sB, 2, 4, x16, x18, by unfold RecTurn; decide +kernel⟩,
    ⟨sB, 2, 4, x19, x20, by decide +kernel⟩⟩
def x21 : Machine.State := stk (fun t => {t with active := [.start [1,2] cm0]}) (fun g => {g with bank := .bank})
def x22 : RecJob := .start [1,2] cm0
theorem witness_RecordCompletes :
    ∃ (s : Machine.State) (k : Fin 6) (job : RecJob) (c : Cmpl), (s.stack ↑k).active = [job] ∧ NoErrors s ∧ (s.core c.lc).gate c.gate + c.n ≤ 16777215 ∧ recReady s (↑k) job = true :=
  ⟨x21, 2, x22, cm0, by (repeat' apply And.intro) <;> first | decide +kernel | rfl | (intros; decide +kernel)⟩
def x23 : Machine.State := ub (fun u => {u with refLeft := 30}) 1 1
theorem witness_RefreshAndReplay :
    ∃ (s : Machine.State) (u : BankUnit),
  let x : BUnit := (s.stack ↑u.stack).unit u.num;
  x.runs = true ∧ x.pc < 255 ∧ NoErrors s ∧ 0 < x.refLeft :=
  ⟨x23, bu, by (repeat' apply And.intro) <;> first | decide +kernel | rfl | (intros; decide +kernel)⟩

end WF

namespace WG

def clean (s : State) : State := { s with mem := { s.mem with flaws := [], byteFlaws := [], merges := [] } }
def rg : Region := { Region.init with st := .resident, gen := 5, holder := .host, buf := 0x4000, bank := .bank, handle := 3 }
def un : Nat := 71
def regsT : Tbl (BitVec 256) := (List.range 64).map (fun i => (i, BitVec.ofNat 256 ((i + 3) * 0x3FA1C3D53B00BE20412345673FC00001400080004120000012345678 + (if i = 4 then 0 else i * 7))))
def low4 (w : Nat) : Tbl (BitVec 256) := Tbl.set 0 regsT 4 (BitVec.ofNat 256 (w + 2^32 * 99))
def bu : BankUnit := { stack := 2, ch := 2, bk := 7 }
def mkS (units : Tbl BUnit) : State := { clean st0 with orgs := [(2, { Stack.init with linkUp := true, trained := true, regions := [(4, rg), (9, {rg with handle := 2})], units := units })]
                                                        mem := { (clean st0).mem with bytes := (List.range 2000).map (fun i => (regionDa 2 4 0 + i * 7919, BitVec.ofNat 8 (i + 1))) } }
def ux : BUnit := { BUnit.init with st := .running, pc := 3, ctr := 0xFFFFFFFF, salt := 7, key0 := 8, key1 := 9, regs := low4 (3 * 2^11 + 5 * 32 + 3) }
def sU (f : BUnit → BUnit) : State := mkS [(un, f ux)]
def sA : State := sU id
theorem witness_BankUnitScalars :
    ∃ (s : Machine.State) (u : BankUnit) (i14 : BitVec 14),
  let x : BUnit := (s.stack ↑u.stack).unit u.num;
  UnitReady s (↑u.stack) u.num ∧ 0 ≤ ↑x.pc + i14.toInt ∧ ↑x.pc + i14.toInt ≤ 255 :=
  ⟨sA, bu, 0x3FFE, by unfold UnitReady; decide +kernel⟩
theorem witness_BankUnitLanes :
    ∃ (s : Machine.State) (u : BankUnit), UnitReady s (↑u.stack) u.num :=
  ⟨sA, bu, by unfold UnitReady; decide +kernel⟩
def x0 : Machine.State := { sA with mem := { sA.mem with orgHot := [(33, true)] } }
def x1 : Instr := (.buLd (bu) (3) (9))
theorem witness_BankUnitMemory :
    (∃ (s : Machine.State) (u : BankUnit) (a : Fin 64) (r : ℕ),
  let x : BUnit := (s.stack ↑u.stack).unit u.num;
  let w : Word := x.lane0 ↑a;
  UnitReady s (↑u.stack) u.num ∧
    (s.stack ↑u.stack).bound (fld w 19 11) = some r ∧ NoErrors s ∧ dieHot s ↑u.stack ↑u.ch = true) ∧
    (∃ (s : Machine.State) (u : BankUnit) (a : Fin 64) (r : ℕ),
  let x : BUnit := (s.stack ↑u.stack).unit u.num;
  let w : Word := x.lane0 ↑a;
  UnitReady s (↑u.stack) u.num ∧
    (s.stack ↑u.stack).bound (fld w 19 11) = some r ∧ NoErrors s ∧ dieHot s ↑u.stack ↑u.ch = false) ∧
    (∃ (s : Machine.State) (u : BankUnit) (d : Fin 64) (a : Fin 64) (b : Fin 64) (i : Instr),
  let x : BUnit := (s.stack ↑u.stack).unit u.num;
  let w : Word := x.lane0 ↑a;
  UnitReady s (↑u.stack) u.num ∧
    (s.stack ↑u.stack).bound (fld w 19 11) = none ∧ (i = Instr.buLd u d a ∨ i = Instr.buSt u a b)) :=
  ⟨⟨x0, bu, 4, 4, by unfold UnitReady; (repeat' apply And.intro) <;> first | decide +kernel | rfl | (intros; decide +kernel)⟩,
    ⟨sA, bu, 4, 4, by unfold UnitReady; (repeat' apply And.intro) <;> first | decide +kernel | rfl | (intros; decide +kernel)⟩,
    ⟨sA, bu, 3, 9, 5, x1, by unfold UnitReady; decide +kernel⟩⟩
theorem witness_BankUnitChains :
    (∃ (s : Machine.State) (u : BankUnit),
  let x : BUnit := (s.stack ↑u.stack).unit u.num;
  let k : Fin 6 := u.stack;
  UnitReady s (↑k) u.num ∧ (↑u.bk ≠ 0 ∨ x.span = true ∧ ↑u.ch ≠ 0) ∧ x.inbox = []) ∧
    (∃ (s : Machine.State) (u : BankUnit) (v : ℕ),
  let x : BUnit := (s.stack ↑u.stack).unit u.num;
  let k : Fin 6 := u.stack;
  UnitReady s (↑k) u.num ∧
    (↑u.bk < 29 ∧ v = u.num + 1 ∨ ↑u.bk = 29 ∧ x.span = true ∧ ↑u.ch < 31 ∧ v = 32 * (↑u.ch + 1)) ∧
      ((s.stack ↑k).unit v).inbox.length < 2) :=
  ⟨⟨sA, bu, by unfold UnitReady; decide +kernel⟩,
    ⟨sA, bu, 72, by unfold UnitReady; decide +kernel⟩⟩

end WG

namespace WG5

def clean (s : State) : State := { s with mem := { s.mem with flaws := [], byteFlaws := [], merges := [] } }
def rg : Region := { Region.init with st := .resident, gen := 5, holder := .host, buf := 0x4000, bank := .bank, handle := 3 }
def un : Nat := 71
def regsT : Tbl (BitVec 256) := (List.range 64).map (fun i => (i, BitVec.ofNat 256 ((i + 3) * 0x3FA1C3D53B00BE20412345673FC00001400080004120000012345678 + (if i = 4 then 0 else i * 7))))
def low4 (w : Nat) : Tbl (BitVec 256) := Tbl.set 0 regsT 4 (BitVec.ofNat 256 (w + 2^32 * 99))
def bu : BankUnit := { stack := 2, ch := 2, bk := 7 }
def mkS (units : Tbl BUnit) : State := { clean st0 with orgs := [(2, { Stack.init with linkUp := true, trained := true, regions := [(4, rg), (9, {rg with handle := 2})], units := units })]
                                                        mem := { (clean st0).mem with bytes := (List.range 2000).map (fun i => (regionDa 2 4 0 + i * 7919, BitVec.ofNat 8 (i + 1))) } }
def ux : BUnit := { BUnit.init with st := .running, pc := 3, ctr := 0xFFFFFFFF, salt := 7, key0 := 8, key1 := 9, regs := low4 (3 * 2^11 + 5 * 32 + 3) }
def sU (f : BUnit → BUnit) : State := mkS [(un, f ux)]
def sA : State := sU id
def x0 : Instr := (.buCvt (bu) (3) (5) (0) (true) (true) (7))
theorem witness_BankUnitConversions :
    (∃ (s : Machine.State) (u : BankUnit) (fmt : Fin 6) (c : Fin 8),
  let sz : ℕ := packBits ↑fmt;
  UnitReady s (↑u.stack) u.num ∧ (↑c + 1) * sz ≤ 32) ∧
    (∃ (s : Machine.State) (u : BankUnit) (d : Fin 64) (a : Fin 64) (fmt : Fin 6) (sat : Bool) (rnd : Bool) (c : Fin 8) (i :
  Instr),
  let sz : ℕ := packBits ↑fmt;
  UnitReady s (↑u.stack) u.num ∧
    32 < (↑c + 1) * sz ∧ (i = Instr.buCvt u d a fmt sat rnd c ∨ i = Instr.buExt u d a fmt c)) :=
  ⟨⟨sA, bu, 0, 0, by unfold UnitReady; decide +kernel⟩,
    ⟨sA, bu, 3, 5, 0, true, true, 7, x0, by unfold UnitReady; decide +kernel⟩⟩

end WG5

namespace WG2

def clean (s : State) : State := { s with mem := { s.mem with flaws := [], byteFlaws := [], merges := [] } }
def rg : Region := { Region.init with st := .resident, gen := 5, holder := .host, buf := 0x4000, bank := .bank, handle := 3 }
def un : Nat := 71
def regsT : Tbl (BitVec 256) := (List.range 64).map (fun i => (i, BitVec.ofNat 256 ((i + 3) * 0x3FA1C3D53B00BE20412345673FC00001400080004120000012345678 + (if i = 4 then 0 else i * 7))))
def low4 (w : Nat) : Tbl (BitVec 256) := Tbl.set 0 regsT 4 (BitVec.ofNat 256 (w + 2^32 * 99))
def bu : BankUnit := { stack := 2, ch := 2, bk := 7 }
def mkS (units : Tbl BUnit) : State := { clean st0 with orgs := [(2, { Stack.init with linkUp := true, trained := true, regions := [(4, rg), (9, {rg with handle := 2})], units := units })]
                                                        mem := { (clean st0).mem with bytes := (List.range 2000).map (fun i => (regionDa 2 4 0 + i * 7919, BitVec.ofNat 8 (i + 1))) } }
def ux : BUnit := { BUnit.init with st := .running, pc := 3, ctr := 0xFFFFFFFF, salt := 7, key0 := 8, key1 := 9, regs := low4 (3 * 2^11 + 5 * 32 + 3) }
def sFull : State := mkS [(un, {ux with inbox := [5, 6]}), (72, {ux with inbox := [1,2]})]
theorem witness_BankUnitChains :
    (∃ (s : Machine.State) (u : BankUnit) (v : BitVec 256) (rest : List (BitVec 256)),
  let x : BUnit := (s.stack ↑u.stack).unit u.num;
  let k : Fin 6 := u.stack;
  UnitReady s (↑k) u.num ∧ (↑u.bk ≠ 0 ∨ x.span = true ∧ ↑u.ch ≠ 0) ∧ x.inbox = v :: rest) ∧
    (∃ (s : Machine.State) (u : BankUnit) (v : ℕ),
  let x : BUnit := (s.stack ↑u.stack).unit u.num;
  let k : Fin 6 := u.stack;
  UnitReady s (↑k) u.num ∧
    (↑u.bk < 29 ∧ v = u.num + 1 ∨ ↑u.bk = 29 ∧ x.span = true ∧ ↑u.ch < 31 ∧ v = 32 * (↑u.ch + 1)) ∧
      2 ≤ ((s.stack ↑k).unit v).inbox.length) :=
  ⟨⟨sFull, bu, 5, [6], by unfold UnitReady; decide +kernel⟩,
    ⟨sFull, bu, 72, by unfold UnitReady; decide +kernel⟩⟩

end WG2

namespace WG3

def clean (s : State) : State := { s with mem := { s.mem with flaws := [], byteFlaws := [], merges := [] } }
def rg : Region := { Region.init with st := .resident, gen := 5, holder := .host, buf := 0x4000, bank := .bank, handle := 3 }
def regsT : Tbl (BitVec 256) := (List.range 64).map (fun i => (i, BitVec.ofNat 256 ((i + 3) * 0x3FA1C3D53B00BE20412345673FC00001400080004120000012345678 + (if i = 4 then 0 else i * 7))))
def low4 (w : Nat) : Tbl (BitVec 256) := Tbl.set 0 regsT 4 (BitVec.ofNat 256 (w + 2^32 * 99))
def mkS (units : Tbl BUnit) : State := { clean st0 with orgs := [(2, { Stack.init with linkUp := true, trained := true, regions := [(4, rg), (9, {rg with handle := 2})], units := units })]
                                                        mem := { (clean st0).mem with bytes := (List.range 2000).map (fun i => (regionDa 2 4 0 + i * 7919, BitVec.ofNat 8 (i + 1))) } }
def ux : BUnit := { BUnit.init with st := .running, pc := 3, ctr := 0xFFFFFFFF, salt := 7, key0 := 8, key1 := 9, regs := low4 (3 * 2^11 + 5 * 32 + 3) }
def b0 : BankUnit := { stack := 2, ch := 31, bk := 29 }
def s29 : State := mkS [(31*32+29, {ux with span := true})]
theorem witness_BankUnitChains :
    ∃ (s : Machine.State) (u : BankUnit),
  let x : BUnit := (s.stack ↑u.stack).unit u.num;
  let k : Fin 6 := u.stack;
  UnitReady s (↑k) u.num ∧ ↑u.bk = 29 ∧ (x.span = false ∨ ↑u.ch = 31) :=
  ⟨s29, b0, by unfold UnitReady; decide +kernel⟩

end WG3

namespace WG4

def clean (s : State) : State := { s with mem := { s.mem with flaws := [], byteFlaws := [], merges := [] } }
def rg : Region := { Region.init with st := .resident, gen := 5, holder := .host, buf := 0x4000, bank := .bank, handle := 3 }
def regsT : Tbl (BitVec 256) := (List.range 64).map (fun i => (i, BitVec.ofNat 256 ((i + 3) * 0x3FA1C3D53B00BE20412345673FC00001400080004120000012345678 + (if i = 4 then 0 else i * 7))))
def low4 (w : Nat) : Tbl (BitVec 256) := Tbl.set 0 regsT 4 (BitVec.ofNat 256 (w + 2^32 * 99))
def mkS (units : Tbl BUnit) : State := { clean st0 with orgs := [(2, { Stack.init with linkUp := true, trained := true, regions := [(4, rg), (9, {rg with handle := 2})], units := units })]
                                                        mem := { (clean st0).mem with bytes := (List.range 2000).map (fun i => (regionDa 2 4 0 + i * 7919, BitVec.ofNat 8 (i + 1))) } }
def ux : BUnit := { BUnit.init with st := .running, pc := 3, ctr := 0xFFFFFFFF, salt := 7, key0 := 8, key1 := 9, regs := low4 (3 * 2^11 + 5 * 32 + 3) }
def bh : BankUnit := { stack := 2, ch := 3, bk := 0 }
def s0' : State := mkS [(96, ux)]
theorem witness_BankUnitChains :
    ∃ (s : Machine.State) (u : BankUnit),
  let x : BUnit := (s.stack ↑u.stack).unit u.num;
  let k : Fin 6 := u.stack;
  UnitReady s (↑k) u.num ∧ ↑u.bk = 0 ∧ (x.span = false ∨ ↑u.ch = 0) :=
  ⟨s0', bh, by unfold UnitReady; decide +kernel⟩

end WG4

namespace WG6

def clean (s : State) : State := { s with mem := { s.mem with flaws := [], byteFlaws := [], merges := [] } }
def rg : Region := { Region.init with st := .resident, gen := 5, holder := .host, buf := 0x4000, bank := .bank, handle := 3 }
def mkS (units : Tbl BUnit) : State := { clean st0 with orgs := [(2, { Stack.init with linkUp := true, trained := true, regions := [(4, rg), (9, {rg with handle := 2})], units := units })]
                                                        mem := { (clean st0).mem with bytes := (List.range 2000).map (fun i => (regionDa 2 4 0 + i * 7919, BitVec.ofNat 8 (i + 1))) } }
def ru : RowUnit := { stack := 2, ch := 2, hi := false }
def rn' : Nat := ru.num
def rx : BUnit := { BUnit.init with st := .running, pc := 3, scalars := [(1, 5), (2, 0xFFFFFFFF), (3, BitVec.ofNat 32 (3 * 2^11 + 2 * 64)), (4, BitVec.ofNat 32 (2 * 2^11 + 3 * 64 + 32)), (5, BitVec.ofNat 32 (7 * 2^11)) ], planes := (List.range 9).map (fun i => (i, BitVec.ofNat 8192 (3 ^ (400 * (i+1))))) }
def sR : State := mkS [(rn', rx)]
theorem witness_RowUnitPlanes :
    ∃ (s : Machine.State) (u : RowUnit) (i10 : BitVec 10),
  let x : BUnit := (s.stack ↑u.stack).unit u.num;
  let k : Fin 6 := u.stack;
  UnitReady s (↑k) u.num ∧ 0 ≤ ↑x.pc + i10.toInt ∧ ↑x.pc + i10.toInt ≤ 255 :=
  ⟨sR, ru, 5, by unfold UnitReady; decide +kernel⟩
def x0 : Instr := (.ruRld (ru) (0) (5))
def x1 : Machine.State := { sR with pending := [] }
theorem witness_RowUnitRows :
    (∃ (s : Machine.State) (u : RowUnit) (p : Fin 8) (a : Fin 16) (b : Fin 16) (i : Instr),
  let x : BUnit := (s.stack ↑u.stack).unit u.num;
  let k : Fin 6 := u.stack;
  let wa : Word := x.scalar ↑a;
  UnitReady s (↑k) u.num ∧
    NoErrors s ∧
      dieHot s ↑k ↑u.ch = false ∧
        (fld wa 31 20 ≠ 0 ∨ (s.stack ↑k).bound (fld wa 19 11) = none) ∧
          i ∈ [Instr.ruRld u p a, Instr.ruRst u a p, Instr.ruCrc u p a, Instr.ruTrin u a b, Instr.ruTrout u a b]) ∧
    (∃ (s : Machine.State) (u : RowUnit) (a : Fin 16) (b : Fin 16) (r : ℕ) (r' : ℕ),
  let x : BUnit := (s.stack ↑u.stack).unit u.num;
  let k : Fin 6 := u.stack;
  let wa : Word := x.scalar ↑a;
  let wb : Word := x.scalar ↑b;
  UnitReady s (↑k) u.num ∧
    NoErrors s ∧
      dieHot s ↑k ↑u.ch = false ∧
        fld wa 31 20 = 0 ∧
          (s.stack ↑k).bound (fld wa 19 11) = some r ∧
            fld wb 31 20 = 0 ∧
              (s.stack ↑k).bound (fld wb 19 11) = some r' ∧
                fld wa 5 0 % 32 = 0 ∧
                  fld wb 5 0 % 32 = 0 ∧
                    rowBlocksMeet wa wb = false ∧ (r ≠ r' ∨ fld wa 10 6 ≠ fld wb 10 6 ∨ fld wa 5 0 ≠ fld wb 5 0)) :=
  ⟨⟨sR, ru, 0, 5, 4, x0, by unfold UnitReady; (repeat' apply And.intro) <;> first | decide +kernel | rfl | (intros; decide +kernel)⟩,
    ⟨x1, ru, 3, 4, 4, 9, by unfold UnitReady; (repeat' apply And.intro) <;> first | decide +kernel | rfl | (intros; decide +kernel)⟩⟩

end WG6

namespace WH3

def clean (s : State) : State := { s with mem := { s.mem with flaws := [], byteFlaws := [], merges := [] } }
def jc : Job := { job0 with claims := [{ kind := 0, flags := 0, lc := 5, unit := 5, base := 0, length := 131072 }, { kind := 1, flags := 0, lc := 5, unit := 5, base := 0, length := 131072 }], parts := [0, 3, 4] }
def peer3 : Peer := { st := 1, paths := [(true, 0xABC, 9)] }
def qn0 : Nat := 5 * 512 + 9
def xq0 : XQueue := { XQueue.init with ring := mkDa 1 5 4096, log2 := 4, owner := 5, bell := 4200, consumed := 0, tag := 9, node := 1, st := 1 }
def grp0 : Group := { node := 1, rank := 0, tag := 9, parts := [0, 3, 4], count := 0 }
def tr0 : Training := { Training.init with bound := true, replicas := 3, rank := 0, resultDa := mkDa 1 5 8192, stack := 2, region := 4, fin := true }
def fab0 : Fabric := { Fabric.init with index := some 0, peers := [(3, peer3)], queues := [(qn0, xq0)], groups := [(1, some grp0)] }
def sX : State := { clean st0 with jobs := [jc], fab := fab0, cuffs := [(1, { Cuff.init with enable := true, portUp := 0xFF })], trn := [] }
def dsc (op len : Nat) : XDesc := { op := BitVec.ofNat 8 op, flags := 0, peer := 3, len := BitVec.ofNat 32 len, lda := BitVec.ofNat 64 (mkDa 1 5 4096), rda := BitVec.ofNat 64 (mkDa 1 7 64), lcmpl := 0x10C05, rcmpl := 0x20C07, dtype := 0, lstack := 0, lregion := 0, lofs := 0, rsv := 0 }
def xm0 : XMsg := { id := 7, kind := .write qn0, lcmpl := 0x10C05, node := some 1, left := 0, bytes := 0 }
def ci0 : CollInst := { group := 1, num := 5, qn := qn0, d := dsc 0x10 64, phase := .reduce, ready := [1,2], ready2 := [], fetched := [1,2], todo := [], asked := [], got := [], left := 0, own := [], outs := [] }
def mkP (typ ctx : Nat) (da : Nat) (data : List Byte) : XPkt := let p : XPkt := { ver := 1, typ := BitVec.ofNat 8 typ, flags := 0, ctx := BitVec.ofNat 8 ctx, src := 3, dst := 0, psn := 0, tag := 9, da := BitVec.ofNat 64 da, msg := 7, mofs := 0, mlen := BitVec.ofNat 32 data.length, len := BitVec.ofNat 16 data.length, status := 0, cmpl := 0, icrc := 0, map := 0, data := data }
  { p with icrc := BitVec.ofNat 32 (pktCrc p) }
def dIn (p : XPkt) : XIn := { cuff := 1, addr := 0xABC, ce := false, pkt := p }
def recrc (p : XPkt) : XPkt := { p with icrc := BitVec.ofNat 32 (pktCrc p) }
def pw : XPkt := mkP 1 0 (mkDa 1 5 4096) (List.replicate 64 5)
def sFst (f : Fabric → Fabric) : State := { sX with fab := f fab0 }
def acc (l : List Nat) (f : SendCtx → SendCtx) : State := sFst (fun x => {x with send := [(6, f {SendCtx.init with unacked := l.map (fun n => { pkt := {mkP 1 0 0 [] with psn := BitVec.ofNat 32 n}, src := none, owner := none, attempts := 0, recent := false, seen := false, mid := 0 })})]})
def pn : XPkt := recrc {mkP 6 0 0 [] with psn := 4, status := 0x24}
def cd (k grp n : Nat) (rest : List Nat) : List Byte := [BitVec.ofNat 8 k, BitVec.ofNat 8 grp, 0, 0] ++ leBytes 4 n ++ rest.map (BitVec.ofNat 8)
def pc (k : Nat) (rest : List Nat) : XPkt := mkP 7 1 0 (cd k 1 5 rest)
def sy (o : Bool) (l : List Nat) (ab : Option Nat) : Sync := { tag := 9, own := o, parts := l, ready := [], abort := ab, go := false, aborted := false, since := 1, image := [] }
def ps (l : List Byte) : XIn := dIn (mkP 9 1 0 l)
def portsUp (f : Fabric) : Fabric := { f with ports := [(9, {PortCfg.init with ip4 := some 5})] }
def od (n : Nat) : XPkt := recrc { pw with psn := BitVec.ofNat 32 n }
def cf (f : Cuff → Cuff) : State := { sX with boot := { sX.boot with cuffNorth := true, cuffSouth := true }, cuffs := [(1, f { Cuff.init with enable := true, portUp := 0xFF, pfcEn := true, modeNow := 1 })] }
def rg : Region := { Region.init with st := .resident, gen := 5, holder := .host, buf := 0x4000 }
def lc0 : LandChunk := { node := 1, stack := 2, region := 4, ofs := 4096, data := List.replicate 64 3, bad := List.replicate 64 false, group := 1, num := 5, since := 0 }
def sL (g : Region) (d l : List LandChunk) : State := { sFst (fun f => {f with deliver := d, landed := l, insts := [{ci0 with left := 3}]}) with orgs := [(2, { Stack.init with linkUp := true, trained := true, regions := [(4, g)] })] }
def x0 : Machine.State := sL {rg with st := .spilled} [lc0] []
def x1 : Machine.State := sL {rg with st := .unmapped} [lc0] []
theorem witness_ChunksLand :
    (∃ (s : Machine.State) (k : Fin 6) (c : LandChunk), c.stack = ↑k ∧ NoErrors s ∧ s.trn = [] ∧ c.bad = List.replicate c.data.length false ∧ s.fab.deliver = [c] ∧ s.fab.landed = [] ∧ s.hotStack ↑k = false ∧ (s.stack ↑k).linkUp = true ∧ (s.region (↑k) c.region).st = RegionState.spilled ∧ (s.stack ↑k).freeFrame.isSome = true) ∧
    (∃ (s : Machine.State) (k : Fin 6) (c : LandChunk) (r : Fin 16384), c.stack = ↑k ∧ NoErrors s ∧ s.trn = [] ∧ c.bad = List.replicate c.data.length false ∧ ↑r = c.region ∧ s.fab.landed = [c] ∧ (s.region ↑k ↑r).st = RegionState.resident ∧ (s.region ↑k ↑r).bank = BankState.normal ∧ s.hotStack ↑k = false ∧ (s.stack ↑k).linkUp = true) ∧
    (∃ (s : Machine.State) (k : Fin 6) (c : LandChunk), c.stack = ↑k ∧ NoErrors s ∧ s.trn = [] ∧ c.bad = List.replicate c.data.length false ∧ s.fab.deliver = [c] ∧ s.fab.landed = [] ∧ s.hotStack ↑k = false ∧ (s.stack ↑k).linkUp = true ∧ (s.region (↑k) c.region).st = RegionState.resident ∧ (s.region (↑k) c.region).bank = BankState.normal) ∧
    (∃ (s : Machine.State) (k : Fin 6) (c : LandChunk) (j : Job), c.stack = ↑k ∧ NoErrors s ∧ s.trn = [] ∧ c.bad = List.replicate c.data.length false ∧ s.fab.deliver = [c] ∧ s.fab.landed = [] ∧ s.hotStack ↑k = false ∧ (s.stack ↑k).linkUp = true ∧ (s.region (↑k) c.region).st = RegionState.unmapped ∧ s.jobAt c.node = some j ∧ s.jobOf j.lowest = some j ∧ j.phase = JobPhase.running) :=
  ⟨⟨x0, 2, lc0, by (repeat' apply And.intro) <;> first | decide +kernel | rfl | (intros; decide +kernel)⟩,
    ⟨sL rg [] [lc0], 2, lc0, 4, by (repeat' apply And.intro) <;> first | decide +kernel | rfl | (intros; decide +kernel)⟩,
    ⟨sL rg [lc0] [], 2, lc0, by (repeat' apply And.intro) <;> first | decide +kernel | rfl | (intros; decide +kernel)⟩,
    ⟨x1, 2, lc0, jc, by (repeat' apply And.intro) <;> first | decide +kernel | rfl | (intros; decide +kernel)⟩⟩
def x2 : XIn := dIn (mkP 10 1 0 [1, 0, 0, 0, 7, 0, 0, 0, 9, 1])
def x3 : XIn := dIn (mkP 8 1 0 [1, 0, 0, 0, 7, 0, 0, 0, 9, 1])
def x4 : XIn := dIn (pc 3 [1, 6, 0, 0, 64, 0, 0, 0])
def x5 : XIn := dIn (pc 1 [0x10, 6, 0, 0, 64, 0, 0, 0])
def x6 : Machine.State := {sFst id with trn := [(1, tr0)]}
def x7 : XIn := dIn (pc 4 [0, 6, 0, 0, 64, 0, 0, 0])
def x8 : XIn := dIn (recrc {mkP 5 0 0 [] with psn := 4})
def x9 : Machine.State := acc [] (fun c => {c with msgs := [xm0]})
theorem witness_XobexControl :
    (∃ (s : Machine.State) (d : XIn), NextPacket s d 10 1) ∧
    (∃ (s : Machine.State) (d : XIn) (j : Job),
  let p : XPkt := d.pkt;
  let kind : ℕ → Prop := fun (k : ℕ) ↦ leField p.data 0 0 = k ∧ p.data ≠ [];
  NextPacket s d 8 1 ∧ kind 1 ∧ s.jobTag (BitVec.toNat p.tag) = some j ∧ s.jobs = [j] ∧ j.live = true) ∧
    (∃ (s : Machine.State) (d : XIn) (j : Job) (n : ℕ),
  let p : XPkt := d.pkt;
  let kind : ℕ → Prop := fun (k : ℕ) ↦ leField p.data 0 0 = k ∧ p.data ≠ [];
  NextPacket s d 7 1 ∧
    s.jobTag (BitVec.toNat p.tag) = some j ∧ kind 3 ∧ (s.training j.node).bound = false ∧ leField p.data 4 7 = n) ∧
    (∃ (s : Machine.State) (d : XIn) (g : Machine.Group) (grp : ℕ) (n : ℕ),
  let p : XPkt := d.pkt;
  let kind : ℕ → Prop := fun (k : ℕ) ↦ leField p.data 0 0 = k ∧ p.data ≠ [];
  NextPacket s d 7 1 ∧
    s.group grp = some g ∧ leField p.data 1 1 = grp ∧ leField p.data 4 7 = n ∧ kind 1 ∧ s.fab.insts = []) ∧
    (∃ (s : Machine.State) (d : XIn) (j : Job),
  let p : XPkt := d.pkt;
  let kind : ℕ → Prop := fun (k : ℕ) ↦ leField p.data 0 0 = k ∧ p.data ≠ [];
  NextPacket s d 7 1 ∧
    s.jobTag (BitVec.toNat p.tag) = some j ∧
      kind 4 ∧ (s.training j.node).bound = true ∧ fld (s.training j.node).resultCmpl 23 16 = 0 ∧ leField p.data 8 8 = 0) ∧
    (∃ (s : Machine.State) (d : XIn),
  let part : ℕ := BitVec.toNat d.pkt.src % 1024;
  let p : XPkt := d.pkt;
  d.pkt.typ = 5 ∧
    xAccepts s d = true ∧
      (s.peer part).st = 1 ∧
        p.flags = 0 ∧
          p.map = 0 ∧
            (s.sendCtx part 0).queue = [] ∧
              (s.sendCtx part 1).queue = [] ∧
                BitVec.toNat p.ctx % 2 = 0 ∧ ∀ x ∈ (s.sendCtx part 0).unacked, x.seen = false) ∧
    (∃ (s : Machine.State) (d : XIn) (j : Job) (m : XMsg) (qn : ℕ),
  let part : ℕ := BitVec.toNat d.pkt.src % 1024;
  let p : XPkt := d.pkt;
  d.pkt.typ = 6 ∧
    xAccepts s d = true ∧
      (s.peer part).st = 1 ∧
        BitVec.toNat p.ctx % 2 = 0 ∧
          p.flags = 0 ∧
            p.map = 0 ∧
              (s.sendCtx part 0).unacked = [] ∧
                (s.sendCtx part 0).queue = [] ∧
                  (s.sendCtx part 1).queue = [] ∧
                    (s.sendCtx part 0).msgs = [m] ∧
                      m.id = BitVec.toNat p.msg ∧
                        m.kind = XKind.write qn ∧
                          m.node = some j.node ∧
                            s.jobAt j.node = some j ∧ j.phase = JobPhase.running ∧ s.jobOf (s.xq qn).owner = some j) :=
  ⟨⟨sFst id, x2, by unfold NextPacket; decide +kernel⟩,
    ⟨sFst id, x3, jc, by unfold NextPacket; decide +kernel⟩,
    ⟨sFst id, x4, jc, 5, by unfold NextPacket; decide +kernel⟩,
    ⟨sFst id, x5, grp0, 1, 5, by unfold NextPacket; decide +kernel⟩,
    ⟨x6, x7, jc, by unfold NextPacket; decide +kernel⟩,
    ⟨acc [1,2,5] id, x8, by decide +kernel⟩,
    ⟨x9, dIn pn, jc, xm0, qn0, by decide +kernel⟩⟩
def x10 : Machine.State := {sFst (fun f => {f with syncs := [sy true [3, 0] none]}) with ticks := 1600*20000000}
def x11 : Sync := sy true [3, 0] none
def x12 : XIn := ps [1,0,0,0,0,0,0,0,0,0,0,0,0]
def x13 : Sync := sy true [] none
def x14 : Machine.State := sFst (fun f => {f with syncs := [sy true [0,3] none]})
def x15 : XIn := ps [2,0,0,0,0,0,0,0,0,0,0,0,0]
def x16 : Sync := sy true [0,3] none
def x17 : Machine.State := sFst (fun f => {f with syncs := [sy true [3, 0] none]})
def x18 : XIn := ps [3,0,0,0,0,0,0,0,0,0,0,0,0x33]
def x19 : Machine.State := sFst (fun f => {portsUp f with syncs := [sy true [0,3] none]})
theorem witness_CommonStart :
    (∃ (s : Machine.State) (tag : Word) (y : Sync), s.fab.syncs = [y] ∧ y.tag = BitVec.toNat tag ∧ y.own = true ∧ y.go = false ∧ y.abort = none ∧ y.parts.headD 65535 ≠ s.partIndex ∧ y.since + 10000000 ≤ s.us) ∧
    (∃ (s : Machine.State) (d : XIn) (y : Sync),
  let p : XPkt := d.pkt;
  let kind : ℕ → Prop := fun (k : ℕ) ↦ leField p.data 0 0 = k ∧ p.data ≠ [];
  NextPacket s d 9 1 ∧ y.tag = BitVec.toNat p.tag ∧ kind 1 ∧ s.fab.syncs = []) ∧
    (∃ (s : Machine.State) (d : XIn) (y : Sync),
  let p : XPkt := d.pkt;
  let kind : ℕ → Prop := fun (k : ℕ) ↦ leField p.data 0 0 = k ∧ p.data ≠ [];
  NextPacket s d 9 1 ∧ y.tag = BitVec.toNat p.tag ∧ kind 2 ∧ s.fab.syncs = [y] ∧ y.abort = none) ∧
    (∃ (s : Machine.State) (d : XIn) (y : Sync),
  let p : XPkt := d.pkt;
  let kind : ℕ → Prop := fun (k : ℕ) ↦ leField p.data 0 0 = k ∧ p.data ≠ [];
  NextPacket s d 9 1 ∧
    y.tag = BitVec.toNat p.tag ∧ kind 3 ∧ s.fab.syncs = [y] ∧ y.abort = none ∧ y.parts.headD 65535 ≠ s.partIndex) ∧
    (∃ (s : Machine.State) (d : XIn) (y : Sync),
  let part : ℕ := BitVec.toNat d.pkt.src % 1024;
  let p : XPkt := d.pkt;
  let kind : ℕ → Prop := fun (k : ℕ) ↦ leField p.data 0 0 = k ∧ p.data ≠ [];
  NextPacket s d 9 1 ∧
    y.tag = BitVec.toNat p.tag ∧
      kind 1 ∧
        s.fab.syncs = [y] ∧
          y.own = true ∧
            y.go = false ∧
              y.aborted = false ∧
                y.abort = none ∧
                  y.parts = [s.partIndex, part] ∧
                    part ≠ s.partIndex ∧
                      y.ready = [] ∧ (s.peer part).st = 1 ∧ s.paths part ≠ [] ∧ (s.sendCtx part 1).unacked = []) :=
  ⟨⟨x10, 9, x11, by decide +kernel⟩,
    ⟨sFst id, x12, x13, by unfold NextPacket; decide +kernel⟩,
    ⟨x14, x15, x16, by unfold NextPacket; decide +kernel⟩,
    ⟨x17, x18, x11, by unfold NextPacket; decide +kernel⟩,
    ⟨x19, x12, x16, by unfold NextPacket; decide +kernel⟩⟩
def x20 : XIn := dIn {pw with icrc := 1}
def x21 : Instr := .xobWrite (dIn {pw with icrc := 1})
def x22 : XIn := dIn (od 0xFFFFFFF0)
def x23 : Instr := .xobWrite (dIn (od 0xFFFFFFF0))
def x24 : Instr := .xobWrite (dIn (od 300))
def x25 : Instr := .xobWrite (dIn (od 3))
theorem witness_XobexOrder :
    (∃ (s : Machine.State) (d : XIn) (i : Instr), (i = Instr.xobWrite d ∧ d.pkt.typ = 1 ∨ i = Instr.rreq d ∧ d.pkt.typ = 2 ∨ i = Instr.rrsp d ∧ d.pkt.typ = 3 ∨ i = Instr.xobPost d ∧ d.pkt.typ = 4) ∧ xAccepts s d = false) ∧
    (∃ (s : Machine.State) (d : XIn) (i : Instr),
  let part : ℕ := BitVec.toNat d.pkt.src % 1024;
  let c : RecvCtx := s.recvCtx part 0;
  let ahead : ℕ := BitVec.toNat (d.pkt.psn - c.expect);
  (i = Instr.xobWrite d ∧ d.pkt.typ = 1 ∨
      i = Instr.rreq d ∧ d.pkt.typ = 2 ∨ i = Instr.rrsp d ∧ d.pkt.typ = 3 ∨ i = Instr.xobPost d ∧ d.pkt.typ = 4) ∧
    xAccepts s d = true ∧
      (s.peer part).st = 1 ∧
        BitVec.toNat d.pkt.ctx % 2 = 0 ∧ (s.sendCtx part 0).queue = [] ∧ (s.sendCtx part 1).queue = [] ∧ 2 ^ 31 ≤ ahead) ∧
    (∃ (s : Machine.State) (d : XIn) (i : Instr),
  let part : ℕ := BitVec.toNat d.pkt.src % 1024;
  let c : RecvCtx := s.recvCtx part 0;
  let ahead : ℕ := BitVec.toNat (d.pkt.psn - c.expect);
  (i = Instr.xobWrite d ∧ d.pkt.typ = 1 ∨
      i = Instr.rreq d ∧ d.pkt.typ = 2 ∨ i = Instr.rrsp d ∧ d.pkt.typ = 3 ∨ i = Instr.xobPost d ∧ d.pkt.typ = 4) ∧
    xAccepts s d = true ∧
      (s.peer part).st = 1 ∧
        BitVec.toNat d.pkt.ctx % 2 = 0 ∧
          (s.sendCtx part 0).queue = [] ∧ (s.sendCtx part 1).queue = [] ∧ 256 ≤ ahead ∧ ahead < 2 ^ 31) ∧
    (∃ (s : Machine.State) (d : XIn) (i : Instr),
  let part : ℕ := BitVec.toNat d.pkt.src % 1024;
  let c : RecvCtx := s.recvCtx part 0;
  let ahead : ℕ := BitVec.toNat (d.pkt.psn - c.expect);
  (i = Instr.xobWrite d ∧ d.pkt.typ = 1 ∨
      i = Instr.rreq d ∧ d.pkt.typ = 2 ∨ i = Instr.rrsp d ∧ d.pkt.typ = 3 ∨ i = Instr.xobPost d ∧ d.pkt.typ = 4) ∧
    xAccepts s d = true ∧
      (s.peer part).st = 1 ∧
        BitVec.toNat d.pkt.ctx % 2 = 0 ∧
          (s.sendCtx part 0).queue = [] ∧
            (s.sendCtx part 1).queue = [] ∧
              1 ≤ ahead ∧
                ahead < 256 ∧ s.reorderBytes part + 64 + d.pkt.data.length ≤ 2 ^ 24 ∧ ∀ x ∈ c.held, x.psn ≠ d.pkt.psn) :=
  ⟨⟨sFst id, x20, x21, by decide +kernel⟩,
    ⟨sFst id, x22, x23, by decide +kernel⟩,
    ⟨sFst id, dIn (od 300), x24, by decide +kernel⟩,
    ⟨sFst id, dIn (od 3), x25, by decide +kernel⟩⟩
def x26 : Machine.State := {sFst (fun f => {portsUp f with recv := [(7, {RecvCtx.init with oldest := 6, since := 5})]}) with ticks := 160000}
def x27 : Machine.State := {sX with fab := {fab0 with send := [(6, {SendCtx.init with rate := some 5})]}}
def x28 : Machine.State := {acc [1] (fun c => {c with rto := 300}) with ticks := 1600*20000000}
theorem witness_XobexTimers :
    (∃ (s : Machine.State) (part : Fin 1024) (ctx : Fin 2),
  let r : RecvCtx := s.recvCtx ↑part ↑ctx;
  r.oldest ≠ 0 ∧ r.oldest + 1599 ≤ s.ticks) ∧
    (∃ (s : Machine.State) (part : Fin 1024) (rate : ℚ), (s.sendCtx (↑part) 0).rate = some rate ∧ (s.sendCtx (↑part) 0).calm + s.setting 19 20 ≤ s.us) ∧
    (∃ (s : Machine.State) (part : Fin 1024) (ctx : Fin 2),
  let c : SendCtx := s.sendCtx ↑part ↑ctx;
  c.unacked ≠ [] ∧
    c.progress + 1000 * s.setting 16 1000 ≤ s.us ∧ (s.sendCtx (↑part) 0).msgs = [] ∧ (s.sendCtx (↑part) 1).msgs = []) :=
  ⟨⟨x26, 3, 1, by decide +kernel⟩,
    ⟨x27, 3, 5, by decide +kernel⟩,
    ⟨x28, 3, 0, by decide +kernel⟩⟩
def x29 : Machine.State := cf (fun c => {c with training := true, fails := 2})
def x30 : Machine.State := cf (fun c => {c with training := true})
theorem witness_CuffsRetrain :
    (∃ (s : Machine.State) (c : Fin 8) (ok : Bool), (s.cuff ↑c).training = true ∧ s.fab.line = [] ∧ s.fab.send = [] ∧ ok = false ∧ 2 ≤ (s.cuff ↑c).fails) ∧
    (∃ (s : Machine.State) (c : Fin 8) (ok : Bool) (up : BitVec 8), (s.cuff ↑c).training = true ∧ s.fab.line = [] ∧ s.fab.send = [] ∧ ok = true ∧ s.cuffClock ↑c = true ∧ up &&& modePorts (s.cuff ↑c).mode ≠ 0) :=
  ⟨⟨x29, 1, false, by decide +kernel⟩,
    ⟨x30, 1, true, 0x3, by decide +kernel⟩⟩
theorem witness_FlowAndPace :
    ∃ (s : Machine.State) (j : Job), s.jobs = [j] ∧ j.phase = JobPhase.running ∧ j.parts ≠ [] :=
  ⟨sX, jc, by decide +kernel⟩

end WH3

namespace WH

def clean (s : State) : State := { s with mem := { s.mem with flaws := [], byteFlaws := [], merges := [] } }
def jc : Job := { job0 with claims := [{ kind := 0, flags := 0, lc := 5, unit := 5, base := 0, length := 131072 }, { kind := 1, flags := 0, lc := 5, unit := 5, base := 0, length := 131072 }], parts := [0, 3, 4] }
def peer3 : Peer := { st := 1, paths := [(true, 0xABC, 9)] }
def qn0 : Nat := 5 * 512 + 9
def xq0 : XQueue := { XQueue.init with ring := mkDa 1 5 4096, log2 := 4, owner := 5, bell := 4200, consumed := 0, tag := 9, node := 1, st := 1 }
def grp0 : Group := { node := 1, rank := 0, tag := 9, parts := [0, 3, 4], count := 0 }
def tr0 : Training := { Training.init with bound := true, replicas := 3, rank := 0, resultDa := mkDa 1 5 8192, stack := 2, region := 4, fin := true }
def fab0 : Fabric := { Fabric.init with index := some 0, peers := [(3, peer3)], queues := [(qn0, xq0)], groups := [(1, some grp0)] }
def sX : State := { clean st0 with jobs := [jc], fab := fab0, cuffs := [(1, { Cuff.init with enable := true, portUp := 0xFF })], trn := [] }
def dsc (op len : Nat) : XDesc := { op := BitVec.ofNat 8 op, flags := 0, peer := 3, len := BitVec.ofNat 32 len, lda := BitVec.ofNat 64 (mkDa 1 5 4096), rda := BitVec.ofNat 64 (mkDa 1 7 64), lcmpl := 0x10C05, rcmpl := 0x20C07, dtype := 0, lstack := 0, lregion := 0, lofs := 0, rsv := 0 }
def descBytes (d : XDesc) : List Byte := [d.op, d.flags] ++ leBytes 2 d.peer.toNat ++ leBytes 4 d.len.toNat ++ leBytes 8 d.lda.toNat ++ leBytes 8 d.rda.toNat ++ leBytes 4 d.lcmpl.toNat ++ leBytes 4 d.rcmpl.toNat ++ List.replicate 32 0
def sBell (n : Nat) : State := { sX with mem := { sX.mem with bytes := (descBytes (dsc 1 64)).zipIdx.map (fun e => (mkDa 1 5 4096 + e.2, e.1)) ++ (leBytes 4 n).zipIdx.map (fun e => (mkDa 1 5 4200 + e.2, e.1)) } }
def sMs (d : XDesc) (f : Fabric → Fabric) : State := { sX with fab := f { fab0 with queues := [(qn0, { xq0 with todo := [d, dsc 2 32] })] } }
def xqm (d : XDesc) : XQueue := { xq0 with todo := [d, dsc 2 32] }
def noPath (f : Fabric) : Fabric := { f with peers := [(3, {peer3 with paths := []})] }
def sF : State := { (sMs (dsc 0x13 0) id) with jobs := [{jc with parts := []}], trn := [(1, tr0)] }
def rx0 : RxMsg := { id := 7, cmpl := 0x20C07, node := some 1, pending := 0, whole := true, refused := false }
def xm0 : XMsg := { id := 7, kind := .write qn0, lcmpl := 0x10C05, node := some 1, left := 0, bytes := 0 }
def ci0 : CollInst := { group := 1, num := 5, qn := qn0, d := dsc 0x10 64, phase := .reduce, ready := [1,2], ready2 := [], fetched := [1,2], todo := [], asked := [], got := [], left := 0, own := [], outs := [] }
def mkP (typ ctx : Nat) (da : Nat) (data : List Byte) : XPkt := let p : XPkt := { ver := 1, typ := BitVec.ofNat 8 typ, flags := 0, ctx := BitVec.ofNat 8 ctx, src := 3, dst := 0, psn := 0, tag := 9, da := BitVec.ofNat 64 da, msg := 7, mofs := 0, mlen := BitVec.ofNat 32 data.length, len := BitVec.ofNat 16 data.length, status := 0, cmpl := 0, icrc := 0, map := 0, data := data }
  { p with icrc := BitVec.ofNat 32 (pktCrc p) }
def dIn (p : XPkt) : XIn := { cuff := 1, addr := 0xABC, ce := false, pkt := p }
def recrc (p : XPkt) : XPkt := { p with icrc := BitVec.ofNat 32 (pktCrc p) }
def pw : XPkt := mkP 1 0 (mkDa 1 5 4096) (List.replicate 64 5)
def pq : XPkt := recrc { mkP 2 0 (mkDa 1 5 4096) [] with mlen := 0x40 }
def x0 : Machine.State := {sX with jobs := [{jc with phase := .ended}]}
def x1 : BitVec 19 := BitVec.ofNat 19 qn0
def x2 : Instr := .xread (BitVec.ofNat 19 qn0) (dsc 2 64)
def x3 : Job := {jc with phase := .ended}
def x4 : Instr := .xwrite (BitVec.ofNat 19 qn0) (dsc 1 64)
def x5 : XDesc := {dsc 2 64 with rsv := 4}
def x6 : Instr := .xread (BitVec.ofNat 19 qn0) {dsc 2 64 with rsv := 4}
def x7 : XDesc := {dsc 0x12 64 with lstack := 4}
def x8 : Instr := .xar (BitVec.ofNat 19 qn0) {dsc 0x12 64 with lstack := 4}
theorem witness_DescriptorsJoin :
    (∃ (s : Machine.State) (qn : BitVec 19) (d : XDesc) (op : Byte) (i : Instr) (j : Job),
  (i = Instr.xwrite qn d ∧ op = 1 ∨
      i = Instr.xread qn d ∧ op = 2 ∨
        i = Instr.xpost qn d ∧ op = 3 ∨
          i = Instr.xrs qn d ∧ op = 16 ∨
            i = Instr.xag qn d ∧ op = 17 ∨ i = Instr.xar qn d ∧ op = 18 ∨ i = Instr.xfin qn d ∧ op = 19) ∧
    let q : XQueue := s.xq qn.toNat;
    q.st = 1 ∧ s.jobAt q.node = some j ∧ s.jobOf q.owner = some j ∧ s.jobOf j.lowest = some j ∧ j.live = false) ∧
    (∃ (s : Machine.State) (qn : BitVec 19) (d : XDesc) (op : Byte) (i : Instr) (j : Job),
  (i = Instr.xwrite qn d ∧ op = 1 ∨
      i = Instr.xread qn d ∧ op = 2 ∨
        i = Instr.xpost qn d ∧ op = 3 ∨
          i = Instr.xrs qn d ∧ op = 16 ∨
            i = Instr.xag qn d ∧ op = 17 ∨ i = Instr.xar qn d ∧ op = 18 ∨ i = Instr.xfin qn d ∧ op = 19) ∧
    let d' : XDesc :=
      { op := op, flags := d.flags, peer := d.peer, len := d.len, lda := d.lda, rda := d.rda, lcmpl := d.lcmpl,
        rcmpl := d.rcmpl, dtype := d.dtype, lstack := d.lstack, lregion := d.lregion, lofs := d.lofs, rsv := d.rsv };
    let q : XQueue := s.xq qn.toNat;
    q.st = 1 ∧
      s.jobAt q.node = some j ∧
        s.jobOf q.owner = some j ∧
          s.jobOf j.lowest = some j ∧ j.live = true ∧ landBad d' = false ∧ descBad s j d' = false) ∧
    (∃ (s : Machine.State) (qn : BitVec 19) (d : XDesc) (op : Byte) (i : Instr) (j : Job),
  (i = Instr.xwrite qn d ∧ op = 1 ∨
      i = Instr.xread qn d ∧ op = 2 ∨
        i = Instr.xpost qn d ∧ op = 3 ∨
          i = Instr.xrs qn d ∧ op = 16 ∨
            i = Instr.xag qn d ∧ op = 17 ∨ i = Instr.xar qn d ∧ op = 18 ∨ i = Instr.xfin qn d ∧ op = 19) ∧
    let d' : XDesc :=
      { op := op, flags := d.flags, peer := d.peer, len := d.len, lda := d.lda, rda := d.rda, lcmpl := d.lcmpl,
        rcmpl := d.rcmpl, dtype := d.dtype, lstack := d.lstack, lregion := d.lregion, lofs := d.lofs, rsv := d.rsv };
    let q : XQueue := s.xq qn.toNat;
    q.st = 1 ∧
      s.jobAt q.node = some j ∧
        s.jobOf q.owner = some j ∧
          s.jobOf j.lowest = some j ∧
            j.phase = JobPhase.running ∧ (landBad d' = false ∧ descBad s j d' = true ∨ d.rsv ≠ 0)) ∧
    (∃ (s : Machine.State) (qn : BitVec 19) (d : XDesc) (op : Byte) (i : Instr) (j : Job),
  (i = Instr.xwrite qn d ∧ op = 1 ∨
      i = Instr.xread qn d ∧ op = 2 ∨
        i = Instr.xpost qn d ∧ op = 3 ∨
          i = Instr.xrs qn d ∧ op = 16 ∨
            i = Instr.xag qn d ∧ op = 17 ∨ i = Instr.xar qn d ∧ op = 18 ∨ i = Instr.xfin qn d ∧ op = 19) ∧
    let d' : XDesc :=
      { op := op, flags := d.flags, peer := d.peer, len := d.len, lda := d.lda, rda := d.rda, lcmpl := d.lcmpl,
        rcmpl := d.rcmpl, dtype := d.dtype, lstack := d.lstack, lregion := d.lregion, lofs := d.lofs, rsv := d.rsv };
    let q : XQueue := s.xq qn.toNat;
    q.st = 1 ∧
      s.jobAt q.node = some j ∧
        s.jobOf q.owner = some j ∧
          s.jobOf j.lowest = some j ∧
            j.phase = JobPhase.running ∧ landBad d' = true ∧ d.rsv = 0 ∧ BitVec.toNat d.flags < 2) :=
  ⟨⟨x0, x1, dsc 2 64, 2, x2, x3, by decide +kernel⟩,
    ⟨sX, x1, dsc 1 64, 1, x4, jc, by decide +kernel⟩,
    ⟨sX, x1, x5, 2, x6, jc, by decide +kernel⟩,
    ⟨sX, x1, x7, 0x12, x8, jc, by decide +kernel⟩⟩
theorem witness_BellReadsDescriptors :
    (∃ (s : Machine.State) (qn : BitVec 19) (j : Job),
  let q : XQueue := s.xq qn.toNat;
  q.st = 1 ∧
    NoErrors s ∧
      s.jobAt q.node = some j ∧
        j.live = true ∧
          let producer : BitVec 32 := BitVec.ofNat 32 (leNat (s.bytesAt (mkDa 1 q.owner q.bell) 4));
          producer = q.consumed) ∧
    (∃ (s : Machine.State) (qn : BitVec 19) (j : Job),
  let q : XQueue := s.xq qn.toNat;
  q.st = 1 ∧
    NoErrors s ∧
      s.jobAt q.node = some j ∧
        j.live = true ∧
          let producer : BitVec 32 := BitVec.ofNat 32 (leNat (s.bytesAt (mkDa 1 q.owner q.bell) 4));
          let d : XDesc := parseDesc (s.bytesAt (q.ring + 64 * (BitVec.toNat q.consumed % 2 ^ q.log2)) 64);
          producer = q.consumed + 1 ∧ landBad d = false ∧ descBad s j d = false) :=
  ⟨⟨sBell 0, x1, jc, by (repeat' apply And.intro) <;> first | decide +kernel | rfl | (intros; decide +kernel)⟩,
    ⟨sBell 1, x1, jc, by (repeat' apply And.intro) <;> first | decide +kernel | rfl | (intros; decide +kernel)⟩⟩
def x9 : Machine.State := sMs (dsc 3 64) (fun f => {f with peers := [(3, {peer3 with st := 2})]})
def x10 : Machine.State := sMs (dsc 1 64) noPath
def x11 : XQueue := xqm (dsc 0x13 0)
def x12 : Job := {jc with parts := []}
theorem witness_MessagesStart :
    (∃ (s : Machine.State) (qn : ℕ) (q : XQueue) (d : XDesc) (rest : List XDesc) (j : Job), s.fab.queues = [(qn, q)] ∧ q.todo = d :: rest ∧ q.st = 1 ∧ (BitVec.getLsbD d.flags 0 = true → q.busy = 0) ∧ s.jobAt q.node = some j ∧ s.jobOf q.owner = some j ∧ j.phase = JobPhase.running ∧ (d.op = 1 ∨ d.op = 2 ∨ d.op = 3) ∧ (s.peer (BitVec.toNat d.peer)).st = 2) ∧
    (∃ (s : Machine.State) (qn : ℕ) (q : XQueue) (d : XDesc) (rest : List XDesc) (j : Job),
  s.fab.queues = [(qn, q)] ∧
    q.todo = d :: rest ∧
      q.st = 1 ∧
        (BitVec.getLsbD d.flags 0 = true → q.busy = 0) ∧
          s.jobAt q.node = some j ∧
            s.jobOf q.owner = some j ∧
              j.phase = JobPhase.running ∧
                let c : SendCtx := s.sendCtx (BitVec.toNat d.peer) 0;
                (d.op = 1 ∧ 0 < BitVec.toNat d.len ∧ BitVec.toNat d.len ≤ s.maxPay ∨ d.op = 2) ∧
                  (s.peer (BitVec.toNat d.peer)).st = 1 ∧ s.paths (BitVec.toNat d.peer) = [] ∧ c.queue = []) ∧
    (∃ (s : Machine.State) (qn : ℕ) (q : XQueue) (d : XDesc) (rest : List XDesc) (j : Job),
  s.fab.queues = [(qn, q)] ∧
    q.todo = d :: rest ∧
      q.st = 1 ∧
        (BitVec.getLsbD d.flags 0 = true → q.busy = 0) ∧
          s.jobAt q.node = some j ∧
            s.jobOf q.owner = some j ∧
              j.phase = JobPhase.running ∧
                d.op = 19 ∧
                  NoErrors s ∧
                    j.parts = [] ∧
                      j.node = q.node ∧
                        (s.training q.node).reducing = false ∧
                          let tr : Training := s.training q.node;
                          fld tr.resultCmpl 23 16 = 0) :=
  ⟨⟨x9, qn0, xqm (dsc 3 64), dsc 3 64, [dsc 2 32], jc, by decide +kernel⟩,
    ⟨x10, qn0, xqm (dsc 1 64), dsc 1 64, [dsc 2 32], jc, by decide +kernel⟩,
    ⟨sF, qn0, x11, dsc 0x13 0, [dsc 2 32], x12, by (repeat' apply And.intro) <;> first | decide +kernel | rfl | (intros; decide +kernel)⟩⟩
def x13 : Machine.State := {sX with fab := {fab0 with recv := [(6, {RecvCtx.init with msgs := [rx0, rx0]})]}}
def x14 : Machine.State := {sX with fab := {fab0 with send := [(6, {SendCtx.init with msgs := [xm0, xm0]})]}}
def x15 : Machine.State := {sX with fab := {fab0 with insts := [ci0]}}
theorem witness_MessagesComplete :
    (∃ (s : Machine.State) (part : Fin 1024) (m : RxMsg) (rest : List RxMsg), (s.recvCtx (↑part) 0).msgs = m :: rest ∧ (s.recvCtx (↑part) 0).waiting = [] ∧ m.whole = true ∧ m.pending = 0 ∧ m.refused = false ∧ (s.core (fld m.cmpl 9 0)).gate (fld m.cmpl 15 10) + fld m.cmpl 23 16 ≤ 16777215) ∧
    (∃ (s : Machine.State) (part : Fin 1024) (m : XMsg) (rest : List XMsg) (qn : ℕ) (lda : ℕ), (s.sendCtx (↑part) 0).msgs = m :: rest ∧ m.left = 0 ∧ m.bytes = 0 ∧ (s.recvCtx (↑part) 0).waiting = [] ∧ (m.kind = XKind.write qn ∨ m.kind = XKind.read qn lda) ∧ (s.core (fld m.lcmpl 9 0)).gate (fld m.lcmpl 15 10) + fld m.lcmpl 23 16 ≤ 16777215) ∧
    (∃ (s : Machine.State) (grp : Byte) (g : Machine.Group) (i : CollInst), s.group (BitVec.toNat grp) = some g ∧ s.fab.insts = [i] ∧ i.group = BitVec.toNat grp ∧ i.todo = [] ∧ i.asked = [] ∧ i.left = 0 ∧ i.got = [] ∧ i.own = [] ∧ i.outs = [] ∧ (∀ k ∈ g.others, k ∈ i.fetched) ∧ (i.phase = if i.d.op = 16 then CollPhase.reduce else CollPhase.gather) ∧ (s.core (fld i.d.lcmpl 9 0)).gate (fld i.d.lcmpl 15 10) + fld i.d.lcmpl 23 16 ≤ 16777215) :=
  ⟨⟨x13, 3, rx0, [rx0], by decide +kernel⟩,
    ⟨x14, 3, xm0, [xm0], qn0, 0, by decide +kernel⟩,
    ⟨x15, 1, grp0, ci0, by decide +kernel⟩⟩
def x16 : Machine.State := {sX with fab := {fab0 with peers := [(3, {peer3 with paths := [(true, 0xABC, 63)]})]}}
def x17 : XIn := dIn { pq with len := 0x0, mlen := 0x40}
theorem witness_XobexData :
    (∃ (s : Machine.State) (d : XIn) (j : Job),
  let part : ℕ := BitVec.toNat d.pkt.src % 1024;
  let p : XPkt := d.pkt;
  NoErrors s ∧
    s.trn = [] ∧
      s.jobTag (BitVec.toNat p.tag) = some j ∧
        j.live = true ∧
          p.map = 0 ∧
            p.te = [] ∧
              p.mofs = 0 ∧
                (∀ m ∈ (s.recvCtx part 0).msgs, m.id ≠ BitVec.toNat p.msg) ∧
                  NextPacket s d 2 0 ∧
                    p.len = 0 ∧
                      p.data = [] ∧
                        s.isWindow (BitVec.toNat p.da) = false ∧
                          0 < BitVec.toNat p.mlen ∧
                            BitVec.toNat p.mlen ≤ s.maxPay ∧ xStatus s p true = 0 ∧ s.paths part = []) ∧
    (∃ (s : Machine.State) (d : XIn) (j : Job),
  let part : ℕ := BitVec.toNat d.pkt.src % 1024;
  let p : XPkt := d.pkt;
  NoErrors s ∧
    s.trn = [] ∧
      s.jobTag (BitVec.toNat p.tag) = some j ∧
        j.live = true ∧
          p.map = 0 ∧
            p.te = [] ∧
              p.mofs = 0 ∧
                (∀ m ∈ (s.recvCtx part 0).msgs, m.id ≠ BitVec.toNat p.msg) ∧
                  NextPacket s d 1 0 ∧
                    BitVec.toNat p.mlen = BitVec.toNat p.len ∧
                      s.mayWrite (BitVec.toNat p.da) p.data.length = true ∧
                        s.isWindow (BitVec.toNat p.da) = false ∧
                          p.data.length = BitVec.toNat p.len ∧
                            xStatus s p true = 0 ∧
                              orgAccessRange s (BitVec.toNat p.da) p.data.length = OrgAccess.serve ∧
                                s.orgLinked [(BitVec.toNat p.da, p.data.length)] = true) :=
  ⟨⟨x16, x17, jc, by unfold NextPacket; (repeat' apply And.intro) <;> first | decide +kernel | rfl | (intros; decide +kernel)⟩,
    ⟨sX, dIn pw, jc, by unfold NextPacket; (repeat' apply And.intro) <;> first | decide +kernel | rfl | (intros; decide +kernel)⟩⟩
def x18 : Machine.State := { hst.hostPut 0x30000 (leBytes 1 1 ++ leBytes 1 1 ++ leBytes 2 2 ++ leBytes 2 1 ++ leBytes 2 0 ++ leBytes 4 9 ++ leBytes 4 0 ++ leBytes 2 0 ++ leBytes 2 3) with fab := { fab0 with insts := [{ ci0 with group := 7 }] } }
def x19 : Entry := ent [7] 0x30000 20
theorem witness_HostFabric :
    ∃ (s : Machine.State) (q : BitVec 16) (e : Entry) (ps : List Byte) (r : ℕ),
  HostReady s q e ps ∧
    ps.length = 1 ∧
      r ≤ 1024 ∧
        HasBuffer s e (16 + 2 * r) ∧
          let d : List Byte := s.hostBytes (BitVec.toNat e.daddr) (16 + 2 * r);
          let g : ℕ := leField ps 0 0;
          leField d 2 3 = r ∧
            leField d 6 7 = 0 ∧
              leField d 12 15 = 0 ∧
                leField d 0 0 ≤ 1 ∧
                  (leField d 0 0 = 1 →
                      0 < r ∧
                        leField d 1 1 < 64 ∧ leField d 4 5 < r ∧ ∀ k < r, leField d (16 + 2 * k) (17 + 2 * k) < 1024) ∧
                    ∃ i ∈ s.fab.insts, i.group = g :=
  ⟨x18, 2, x19, [7], 2, by (unfold HostReady HasBuffer HostTakes; (try dsimp only); repeat' apply And.intro) <;> first | decide +kernel | rfl | exact fun _ => rfl | exact fun _ => Nat.zero_le _ | (intros; decide +kernel) | (intro x h; cases h; rfl) | (intro x h; cases h) | simp⟩

end WH

namespace WI

def q2 : BitVec 16 := 2
def nrdy : State := { hst with boot := { hst.boot with ready := false } }
def set (id v : Nat) : List Byte := leBytes 2 id ++ List.replicate 6 0 ++ leBytes 8 v
def noExp : State := { hst with hif := { hst.hif with expertEn := false } }
def wp (s : State) (ps : List Byte) : State := s.hostPut 0x20000 ps
def wd (s : State) (d : List Byte) : State := s.hostPut 0x30000 d
def nt (n : Nat) : Note := { seq := BitVec.ofNat 16 n, cls := 3, time := 99, payload := [1,2,3], read := false }
def noted : State := { hst with notes := { hst.notes with log := [nt 5, nt 6, nt 7], next := 8 } }
def mp (da n : Nat) : List Byte := leBytes 8 da ++ leBytes 4 n
def hstC : State := { hst with mem := { hst.mem with flaws := [], byteFlaws := [], merges := [] } }
def cw (a v : Nat) : List Byte := leBytes 8 a ++ leBytes 4 v
def sq1 : SiteQueue := { SiteQueue.init with ring := mkDa 0 5 4096, log2 := 3, gate := 4, quota := 6, tail := 9, headDa := mkDa 0 5 60, headSeen := 5, st := 1 }
def qp : List Byte := leBytes 4 (5*512+9)
def hstQ (f : SiteQueue → SiteQueue) : State := wd { hstC with tr := { hstC.tr with queues := [(5*512+9, f sq1)] } } ((List.range 64).map (BitVec.ofNat 8))
def x0 : Entry := ent [] 0x30000 256
def x1 : Machine.State := wp hst (set 1 40)
def x2 : Entry := entp (set 1 40) 0 0
def x3 : Entry := ent [5, 0, 4, 0] 0x30000 512
theorem witness_HostIdentity :
    (∃ (s : Machine.State) (q : BitVec 16) (e : Entry) (ps : List Byte), HostReady s q e ps ∧ ps = [] ∧ HasBuffer s e 256) ∧
    (∃ (s : Machine.State) (q : BitVec 16) (e : Entry) (ps : List Byte) (d : ℕ) (lo : ℕ) (hi : ℕ), HostReady s q e ps ∧ ps.length = 2 ∧ NoBuffer e ∧ settingInfo s (leField ps 0 1) = some (d, lo, hi)) ∧
    (∃ (s : Machine.State) (q : BitVec 16) (e : Entry) (ps : List Byte) (d : ℕ) (lo : ℕ) (hi : ℕ), HostReady s q e ps ∧ ps.length = 16 ∧ List.take 6 (List.drop 2 ps) = List.replicate 6 0 ∧ NoBuffer e ∧ s.expertQueue q.toNat = true ∧ settingInfo s (leField ps 0 1) = some (d, lo, hi) ∧ lo ≤ leField ps 8 15 ∧ leField ps 8 15 ≤ hi) ∧
    (∃ (s : Machine.State) (q : BitVec 16) (e : Entry) (ps : List Byte), HostReady s q e ps ∧ ps.length = 4 ∧ 1 ≤ leField ps 2 3 ∧ leField ps 2 3 ≤ 256 ∧ HasBuffer s e (128 * leField ps 2 3) ∧ s.notes.log.length ≤ leField ps 2 3 ∧ ∃ (n : Note), s.notes.log.head? = some n ∧ BitVec.toNat n.seq = leField ps 0 1 ∧ n.seq ≠ s.notes.next) :=
  ⟨⟨hst, q2, x0, [], by (unfold HostReady HasBuffer HostTakes; (try dsimp only); repeat' apply And.intro) <;> first | decide +kernel | rfl | exact fun _ => rfl | exact fun _ => Nat.zero_le _ | (intros; decide +kernel) | (intro x h; cases h; rfl) | (intro x h; cases h) | simp⟩,
    ⟨hst, q2, ent [2, 0] 0 0, [2, 0], 1311, 0, 2 ^ 64 - 1, by (unfold HostReady NoBuffer HostTakes; (try dsimp only); repeat' apply And.intro) <;> first | decide +kernel | rfl | exact fun _ => rfl | exact fun _ => Nat.zero_le _ | (intros; decide +kernel) | (intro x h; cases h; rfl) | (intro x h; cases h) | simp⟩,
    ⟨x1, q2, x2, set 1 40, 16384, 0, 2 ^ 64 - 1, by (unfold HostReady NoBuffer HostTakes; (try dsimp only); repeat' apply And.intro) <;> first | decide +kernel | rfl | exact fun _ => rfl | exact fun _ => Nat.zero_le _ | (intros; decide +kernel) | (intro x h; cases h; rfl) | (intro x h; cases h) | simp⟩,
    ⟨noted, q2, x3, [5, 0, 4, 0], by (unfold HostReady HasBuffer HostTakes; (try dsimp only); repeat' apply And.intro) <;> first | decide +kernel | rfl | exact fun _ => rfl | exact fun _ => Nat.zero_le _ | (intros; decide +kernel) | (intro x h; cases h; rfl) | (intro x h; cases h) | simp⟩⟩
def x4 : Entry := ent (leBytes 8 (mkDa 8 0xFFF 0x2C)) 0 0
def x5 : List Byte := leBytes 8 (mkDa 8 0xFFF 0x2C)
def x6 : Entry := ent (cw (mkDa 8 0xFFF 0x2C) 77) 0 0
def x7 : List Byte := cw (mkDa 8 0xFFF 0x2C) 77
def x8 : Machine.State := {hstC with tr := {hstC.tr with routers := (List.range 20).map (fun i => (i, {Router.init with present := true}))}}
def x9 : Entry := ent [5,0,7,0] 0 0
def x10 : Entry := ent (leBytes 8 (mkDa 8 0xFFE 0x2C)) 0 0
def x11 : List Byte := leBytes 8 (mkDa 8 0xFFE 0x2C)
def x12 : Instr := (.ctrlRead (q2) (ent (leBytes 8 (mkDa 8 0xFFE 0x2C)) 0 0))
def x13 : Machine.State := hstQ (fun x => {x with st := 2})
def x14 : Entry := ent qp 0x30000 64
theorem witness_HostControl :
    (∃ (s : Machine.State) (q : BitVec 16) (e : Entry) (ps : List Byte), HostReady s q e ps ∧ NoBuffer e ∧ Calm s ∧ s.namesBusyRow (memDa ps) = false ∧ memDa ps = mkDa 8 4095 44 ∧ ps.length = 8) ∧
    (∃ (s : Machine.State) (q : BitVec 16) (e : Entry) (ps : List Byte), HostReady s q e ps ∧ NoBuffer e ∧ Calm s ∧ s.namesBusyRow (memDa ps) = false ∧ memDa ps = mkDa 8 4095 44 ∧ ps.length = 12) ∧
    (∃ (s : Machine.State) (q : BitVec 16) (e : Entry) (ps : List Byte), HostReady s q e ps ∧ ps.length = 4 ∧ NoBuffer e ∧ isEndpoint (leField ps 0 1) = true ∧ isEndpoint (leField ps 2 3) = true) ∧
    (∃ (s : Machine.State) (q : BitVec 16) (e : Entry) (ps : List Byte) (i : Instr), HostReady s q e ps ∧ NoBuffer e ∧ Calm s ∧ s.namesBusyRow (memDa ps) = false ∧ (ps.length = 8 ∧ i = Instr.ctrlRead q e ∨ ps.length = 12 ∧ i = Instr.ctrlWrite q e) ∧ memDa ps < 2 ^ 56 ∧ ctrlStatus s (memDa ps) ≠ 0) ∧
    (∃ (s : Machine.State) (q : BitVec 16) (e : Entry) (ps : List Byte) (lc : ℕ),
  HostReady s q e ps ∧
    ps.length = 4 ∧
      HasBuffer s e 64 ∧
        Calm s ∧
          let qn : ℕ := leField ps 0 3;
          let x : SiteQueue := s.sq qn;
          storeWait s x.ring = none ∧
            storeWait s x.headDa = none ∧
              isSiteQueue qn = true ∧
                s.niPosts (qn / 512) < 8 ∧
                  s.sv = [] ∧
                    (∀ p ∈ s.tr.posts, p.qn ≠ qn) ∧
                      s.lcOf (qn / 512) = some lc ∧ s.absorbs lc = false ∧ NoErrors s ∧ x.st ≠ 1) ∧
    (∃ (s : Machine.State) (q : BitVec 16) (e : Entry) (ps : List Byte) (lc : ℕ),
  HostReady s q e ps ∧
    ps.length = 4 ∧
      HasBuffer s e 64 ∧
        Calm s ∧
          let qn : ℕ := leField ps 0 3;
          let x : SiteQueue := s.sq qn;
          storeWait s x.ring = none ∧
            storeWait s x.headDa = none ∧
              isSiteQueue qn = true ∧
                s.niPosts (qn / 512) < 8 ∧
                  s.sv = [] ∧
                    (∀ p ∈ s.tr.posts, p.qn ≠ qn) ∧
                      s.lcOf (qn / 512) = some lc ∧
                        s.absorbs lc = false ∧
                          NoErrors s ∧ x.st = 1 ∧ x.occ < x.quota ∧ (s.core lc).gate x.gate + 1 ≤ 16777215) :=
  ⟨⟨hstC, q2, x4, x5, by (unfold Calm HostReady NoBuffer HostTakes; (try dsimp only); repeat' apply And.intro) <;> first | decide +kernel | rfl | exact fun _ => rfl | exact fun _ => Nat.zero_le _ | (intros; decide +kernel) | (intro x h; cases h; rfl) | (intro x h; cases h) | simp⟩,
    ⟨hstC, q2, x6, x7, by (unfold Calm HostReady NoBuffer HostTakes; (try dsimp only); repeat' apply And.intro) <;> first | decide +kernel | rfl | exact fun _ => rfl | exact fun _ => Nat.zero_le _ | (intros; decide +kernel) | (intro x h; cases h; rfl) | (intro x h; cases h) | simp⟩,
    ⟨x8, q2, x9, [5,0,7,0], by (unfold HostReady NoBuffer HostTakes; (try dsimp only); repeat' apply And.intro) <;> first | decide +kernel | rfl | exact fun _ => rfl | exact fun _ => Nat.zero_le _ | (intros; decide +kernel) | (intro x h; cases h; rfl) | (intro x h; cases h) | simp⟩,
    ⟨hstC, q2, x10, x11, x12, by (unfold Calm HostReady NoBuffer HostTakes; (try dsimp only); repeat' apply And.intro) <;> first | decide +kernel | rfl | exact fun _ => rfl | exact fun _ => Nat.zero_le _ | (intros; decide +kernel) | (intro x h; cases h; rfl) | (intro x h; cases h) | simp⟩,
    ⟨x13, q2, x14, qp, 5, by (unfold Calm HostReady HasBuffer HostTakes; (try dsimp only); repeat' apply And.intro) <;> first | decide +kernel | rfl | exact fun _ => rfl | exact fun _ => Nat.zero_le _ | (intros; decide +kernel) | (intro x h; cases h; rfl) | (intro x h; cases h) | simp⟩,
    ⟨hstQ id, q2, x14, qp, 5, by (unfold Calm HostReady HasBuffer HostTakes; (try dsimp only); repeat' apply And.intro) <;> first | decide +kernel | rfl | exact fun _ => rfl | exact fun _ => Nat.zero_le _ | (intros; decide +kernel) | (intro x h; cases h; rfl) | (intro x h; cases h) | simp⟩⟩
def x15 : Instr := .jobHalt 2 {ent [] 0 0 with rsv12 := 4}
def x16 : Entry := {ent [] 0 0 with rsv12 := 4}
def x17 : Machine.State := wp noExp (set 1 4)
def x18 : Entry := entp (set 1 4) 0 0
def x19 : Machine.State := wp nrdy (set 1 4)
def x20 : Instr := (.settingGet (q2) (entp (set 1 4) 0 0))
theorem witness_HostPackets :
    (∃ (s : Machine.State) (i : Instr) (q : BitVec 16) (e : Entry) (ps : List Byte), commandOf i = some (q, e) ∧ HostTakes s q e ps ∧ entReserved e = true) ∧
    (∃ (s : Machine.State) (q : BitVec 16) (e : Entry) (ps : List Byte), HostTakes s q e ps ∧ entReserved e = false ∧ s.expertQueue q.toNat = false ∧ ps.length = 16 ∧ List.take 6 (List.drop 2 ps) = List.replicate 6 0) ∧
    (∃ (s : Machine.State) (q : BitVec 16) (e : Entry) (ps : List Byte) (i : Instr), HostTakes s q e ps ∧ entReserved e = false ∧ (i = Instr.settingGet q e ∨ i = Instr.sysIndex q e ∨ i = Instr.jobHalt q e ∨ i = Instr.jobTeardown q e ∨ i = Instr.jobReport q e ∨ i = Instr.routeQuery q e) ∧ (s.boot.ready = false ∨ s.boot.fatal = true)) :=
  ⟨⟨hst, x15, 2, x16, [], by (unfold HostTakes; (try dsimp only); repeat' apply And.intro) <;> first | decide +kernel | rfl | exact fun _ => rfl | exact fun _ => Nat.zero_le _ | (intros; decide +kernel) | (intro x h; cases h; rfl) | (intro x h; cases h) | simp⟩,
    ⟨x17, q2, x18, set 1 4, by (unfold HostTakes; (try dsimp only); repeat' apply And.intro) <;> first | decide +kernel | rfl | exact fun _ => rfl | exact fun _ => Nat.zero_le _ | (intros; decide +kernel) | (intro x h; cases h; rfl) | (intro x h; cases h) | simp⟩,
    ⟨x19, q2, x18, set 1 4, x20, by (unfold HostTakes; (try dsimp only); repeat' apply And.intro) <;> first | decide +kernel | rfl | exact fun _ => rfl | exact fun _ => Nat.zero_le _ | (intros; decide +kernel) | (intro x h; cases h; rfl) | (intro x h; cases h) | simp⟩⟩
def x21 : Machine.State := {hstC with jobs := []}
def x22 : Entry := ent (mp (mkDa 6 5 4096) 100) 0 0
def x23 : List Byte := mp (mkDa 6 5 4096) 100
def x24 : Entry := ent (mp (mkDa 1 900 4096) 100) 0x30000 100
def x25 : List Byte := mp (mkDa 1 900 4096) 100
def x26 : Entry := ent (mp (mkDa 1 5 4096) 100) 0 0
def x27 : List Byte := mp (mkDa 1 5 4096) 100
def x28 : Entry := ent (mp (mkDa 1 5 4096) 100) 0x30000 100
theorem witness_HostMemory :
    (∃ (s : Machine.State) (q : BitVec 16) (e : Entry) (ps : List Byte),
  let da : ℕ := memDa ps;
  let n : ℕ := memLen ps;
  HostReady s q e ps ∧
    Calm s ∧
      ps.length = 12 ∧
        da < 2 ^ 56 ∧
          1 ≤ n ∧
            n ≤ 2 ^ 30 ∧ s.namesBusyRow da = false ∧ NoBuffer e ∧ memStatus s true false da n ∈ [33, 34, 35, 36, 37, 38]) ∧
    (∃ (s : Machine.State) (q : BitVec 16) (e : Entry) (ps : List Byte),
  let da : ℕ := memDa ps;
  let n : ℕ := memLen ps;
  HostReady s q e ps ∧
    Calm s ∧
      ps.length = 12 ∧
        da < 2 ^ 56 ∧
          1 ≤ n ∧
            n ≤ 2 ^ 30 ∧
              s.namesBusyRow da = false ∧ HasBuffer s e n ∧ memStatus s false true da n ∈ [33, 34, 35, 36, 37, 38]) ∧
    (∃ (s : Machine.State) (q : BitVec 16) (e : Entry) (ps : List Byte),
  let da : ℕ := memDa ps;
  let n : ℕ := memLen ps;
  HostReady s q e ps ∧
    Calm s ∧
      ps.length = 12 ∧
        da < 2 ^ 56 ∧
          1 ≤ n ∧
            n ≤ 2 ^ 30 ∧
              s.namesBusyRow da = false ∧
                NoErrors s ∧
                  memStatus s false true da n = 0 ∧
                    orgAccessRange s da n = OrgAccess.serve ∧
                      s.isWindow da = false ∧
                        s.trn = [] ∧ NoBuffer e ∧ memStatus s true false da n = 0 ∧ s.mayWrite da n = true) ∧
    (∃ (s : Machine.State) (q : BitVec 16) (e : Entry) (ps : List Byte),
  let da : ℕ := memDa ps;
  let n : ℕ := memLen ps;
  HostReady s q e ps ∧
    Calm s ∧
      ps.length = 12 ∧
        da < 2 ^ 56 ∧
          1 ≤ n ∧
            n ≤ 2 ^ 30 ∧
              s.namesBusyRow da = false ∧
                NoErrors s ∧
                  memStatus s false true da n = 0 ∧
                    orgAccessRange s da n = OrgAccess.serve ∧
                      s.isWindow da = false ∧
                        s.trn = [] ∧ HasBuffer s e n ∧ memStatus s true true da n = 0 ∧ s.mayWrite da n = true) :=
  ⟨⟨x21, q2, x22, x23, by (unfold Calm HostReady NoBuffer HostTakes; (try dsimp only); repeat' apply And.intro) <;> first | decide +kernel | rfl | exact fun _ => rfl | exact fun _ => Nat.zero_le _ | (intros; decide +kernel) | (intro x h; cases h; rfl) | (intro x h; cases h) | simp⟩,
    ⟨x21, q2, x24, x25, by (unfold Calm HostReady HasBuffer HostTakes; (try dsimp only); repeat' apply And.intro) <;> first | decide +kernel | rfl | exact fun _ => rfl | exact fun _ => Nat.zero_le _ | (intros; decide +kernel) | (intro x h; cases h; rfl) | (intro x h; cases h) | simp⟩,
    ⟨x21, q2, x26, x27, by (unfold Calm HostReady NoBuffer HostTakes; (try dsimp only); repeat' apply And.intro) <;> first | decide +kernel | rfl | exact fun _ => rfl | exact fun _ => Nat.zero_le _ | (intros; decide +kernel) | (intro x h; cases h; rfl) | (intro x h; cases h) | simp⟩,
    ⟨hstC, q2, x28, x27, by (unfold Calm HostReady HasBuffer HostTakes; (try dsimp only); repeat' apply And.intro) <;> first | decide +kernel | rfl | exact fun _ => rfl | exact fun _ => Nat.zero_le _ | (intros; decide +kernel) | (intro x h; cases h; rfl) | (intro x h; cases h) | simp⟩⟩

end WI

namespace WI2

def q2 : BitVec 16 := 2
def sec (ty n ofs len : Nat) : List Byte := leBytes 2 ty ++ leBytes 2 0 ++ leBytes 4 n ++ leBytes 8 ofs ++ leBytes 8 len ++ leBytes 8 0
def body : List Byte :=
  sec 1 20 384 1280 ++ sec 2 20 1664 640 ++ sec 3 1 2304 64 ++ sec 4 1 2368 32 ++
  (List.range 20).flatMap (fun lc => leBytes 2 lc ++ leBytes 1 3 ++ leBytes 1 0 ++ leBytes 2 0 ++ leBytes 2 0 ++ leBytes 4 0xAA ++ leBytes 52 0) ++
  (List.range 20).flatMap (fun lc => leBytes 2 lc ++ leBytes 1 3 ++ leBytes 1 0 ++ leBytes 2 1 ++ leBytes 2 0 ++ leBytes 4 4096 ++ leBytes 4 0 ++ leBytes 8 0 ++ leBytes 8 0) ++
  leBytes 64 0 ++ (leBytes 1 1 ++ leBytes 1 1 ++ leBytes 2 0 ++ leBytes 4 0 ++ leBytes 8 0 ++ leBytes 8 65536 ++ leBytes 8 0)
def hdr0 (crc : Nat) : List Byte := leBytes 4 0x3038385A ++ leBytes 2 256 ++ leBytes 2 0x100 ++ leBytes 8 0x7788 ++ leBytes 8 (256 + body.length) ++ leBytes 4 crc ++ leBytes 4 (crc32c body) ++ leBytes 8 1 ++ leBytes 2 20 ++ leBytes 2 1 ++ leBytes 2 4 ++ leBytes 2 0 ++ leBytes 4 100 ++ leBytes 2 0 ++ leBytes 2 0 ++ leBytes 8 256 ++ leBytes 192 0
def img : List Byte := hdr0 (crc32c (hdr0 0)) ++ body
def wd (s : State) (d : List Byte) : State := s.hostPut 0x30000 d
def hstC : State := { hst with mem := { hst.mem with flaws := [], byteFlaws := [], merges := [] } }
def sJ : State := wd { hstC with jobs := [], ptn := [(1, { mask := 1, parent := 0, valid := true })], cores := [], mem := { hstC.mem with bytes := [] } } img
def jr (p : JobPhase) : State := { hstC with jobs := [{ job0 with phase := p }], ptn := sJ.ptn }
def x0 : Machine.State := {jr .ended with jobs := []}
def x1 : Instr := (.jobHalt (q2) (ent [1] 0 0))
theorem witness_HostJobs :
    ∃ (s : Machine.State) (q : BitVec 16) (e : Entry) (ps : List Byte) (i : Instr),
  HostReady s q e ps ∧
    let node : ℕ := leField ps 0 0;
    ps.length = 1 ∧
      node < 64 ∧
        s.jobs = [] ∧
          (i = Instr.jobHalt q e ∧ NoBuffer e ∨ i = Instr.jobTeardown q e ∧ NoBuffer e ∨ i = Instr.jobReport q e) :=
  ⟨x0, q2, ent [1] 0 0, [1], x1, by (unfold HostReady NoBuffer HostTakes; (try dsimp only); repeat' apply And.intro) <;> first | decide +kernel | rfl | exact fun _ => rfl | exact fun _ => Nat.zero_le _ | (intros; decide +kernel) | (intro x h; cases h; rfl) | (intro x h; cases h) | simp⟩

end WI2

namespace WK

def q2 : BitVec 16 := 2
def wd (s : State) (d : List Byte) : State := s.hostPut 0x30000 d
def run1 (s : State) (i : Instr) : State := match exec i s with | .next t => t | _ => s
def hstC : State := { hst with mem := { hst.mem with bytes := [], flaws := [], byteFlaws := [], merges := [] }, ptn := [(1, { mask := 1, parent := 0, valid := true })] }
def qn0 : Nat := 5 * 512 + 9
def cl (k b n : Nat) : Claim := { kind := k, flags := 0, lc := 5, unit := 0, base := b, length := n }
def js : Job := { job0 with claims := [cl 1 0 0x800000, cl 2 0x400000 0x400000] }
def sq1 : SiteQueue := { SiteQueue.init with ring := mkDa 0 5 4096, log2 := 3, gate := 4, quota := 2, tail := 9, headDa := mkDa 0 5 60, headSeen := 5, st := 1 }
def sS : State := { hstC with jobs := [js], tr := { hstC.tr with queues := [(qn0, sq1)] } }
def bnd : List Byte := leBytes 4 0x56534B5A ++ leBytes 2 2 ++ leBytes 1 1 ++ leBytes 1 1 ++ leBytes 4 qn0 ++ leBytes 4 0x400000 ++ leBytes 2 8 ++ leBytes 2 2 ++ leBytes 4 0x100000 ++ leBytes 4 0x300000 ++ leBytes 4 0 ++ leBytes 1 4 ++ leBytes 1 1 ++ leBytes 2 0 ++
  leBytes 4 2048 ++ leBytes 4 8192 ++ leBytes 4 16384 ++ leBytes 4 32768 ++ leBytes 2 1 ++ leBytes 2 1 ++ leBytes 4 64 ++ leBytes 4 0x600000 ++ leBytes 4 0x500000 ++ leBytes 188 0 ++
  (leBytes 2 0 ++ leBytes 1 0 ++ leBytes 1 1 ++ leBytes 2 0 ++ leBytes 2 1 ++ leBytes 2 1 ++ leBytes 2 1 ++ leBytes 52 0)
def bp : List Byte := leBytes 2 5 ++ [1, 0] ++ leBytes 4 0x100000
def areaA : Nat := mkDa 2 5 0x100000
def nm (s : State) : State := { s with mem := { s.mem with merges := [] } }
def sB : State := nm { run1 (wd sS bnd) (.svBind q2 (ent bp 0x30000 320)) with hif := hst.hif, hostMem := [], held := [] }
def hB : SvHead := parseHead (sB.bytesAt areaA 512)
def p8 (i x : Nat) (r : List Byte) : List Byte := leBytes 2 5 ++ leBytes 2 i ++ leBytes 1 x ++ r
def sg : SvStream := hB.streams.headD { fmt := 0, ring := 0, entries := 0, budget := 0, writes := 0, pt := 0, area := 0 }
def x0 : Entry := ent (p8 0 3 [0,0,0]) 0 0
def x1 : Instr := (.svOpen (q2) (ent (p8 0 3 [0,0,0]) 0 0))
theorem witness_HostServing :
    ∃ (s : Machine.State) (q : BitVec 16) (e : Entry) (ps : List Byte) (c : Instr),
  let lc : ℕ := leField ps 0 1;
  HostReady s q e ps ∧
    NoBuffer e ∧
      lc < 800 ∧
        Tbl.get none s.sv lc = none ∧
          (ps.length = 8 ∧ leField ps 5 7 = 0 ∧ leField ps 4 4 < 64 ∧ c = Instr.svOpen q e ∨
            ps.length = 4 ∧ c = Instr.svClose q e ∨
              ps.length = 12 ∧ leField ps 7 7 = 0 ∧ leField ps 6 6 < 64 ∧ c = Instr.svFork q e ∨
                ps.length = 8 ∧ leField ps 5 5 = 0 ∧ (c = Instr.svHot q e ∨ c = Instr.svCold q e) ∨
                  ps.length = 8 ∧ leField ps 3 3 = 0 ∧ leField ps 2 2 < 64 ∧ c = Instr.svQuota q e) :=
  ⟨sS, q2, x0, p8 0 3 [0,0,0], x1, by (unfold HostReady NoBuffer HostTakes; (try dsimp only); repeat' apply And.intro) <;> first | decide +kernel | rfl | exact fun _ => rfl | exact fun _ => Nat.zero_le _ | (intros; decide +kernel) | (intro x h; cases h; rfl) | (intro x h; cases h) | simp⟩
def x2 : Machine.State := wd {sS with jobs := []} bnd
def x3 : Entry := ent bp 0x30000 320
theorem witness_ServingBinds :
    (∃ (s : Machine.State) (q : BitVec 16) (e : Entry) (ps : List Byte),
  HostReady s q e ps ∧
    ps.length = 8 ∧
      leField ps 2 2 = 1 ∧
        leField ps 3 3 = 0 ∧
          leField ps 0 1 < 800 ∧
            leField ps 4 7 % 64 = 0 ∧
              s.hostFails (BitVec.toNat e.daddr) (BitVec.toNat e.dlen) = false ∧
                let lc : ℕ := leField ps 0 1;
                let d : List Byte := s.hostBytes (BitVec.toNat e.daddr) (BitVec.toNat e.dlen);
                bindReserved d = false ∧
                  BitVec.toNat e.dlen = 256 + 64 * leField d 6 6 ∧
                    (s.jobOf lc = none ∨
                      (Tbl.get none s.sv lc).isSome = true ∨
                        bindRanges d (parseHead d) = false ∨ bindQueue s lc (parseHead d) = false)) ∧
    (∃ (s : Machine.State) (q : BitVec 16) (e : Entry) (ps : List Byte) (j : Job),
  HostReady s q e ps ∧
    ps.length = 8 ∧
      leField ps 2 2 = 1 ∧
        leField ps 3 3 = 0 ∧
          leField ps 0 1 < 800 ∧
            leField ps 4 7 % 64 = 0 ∧
              s.hostFails (BitVec.toNat e.daddr) (BitVec.toNat e.dlen) = false ∧
                let lc : ℕ := leField ps 0 1;
                let d : List Byte := s.hostBytes (BitVec.toNat e.daddr) (BitVec.toNat e.dlen);
                let gs : List SvStream := placeStreams (parseHead d);
                let h : SvHead :=
                  have __src : SvHead := parseHead d;
                  { slots := __src.slots, kblk := __src.kblk, qn := __src.qn, pool := __src.pool, pages := __src.pages,
                    hots := __src.hots, hot := __src.hot, exp := __src.exp, expBytes := __src.expBytes,
                    bexp := __src.bexp, land := __src.land, landOfs := __src.landOfs, app := __src.app,
                    fill := __src.fill, gl := __src.gl, rowBase := __src.rowBase, rowStride := __src.rowStride,
                    scratch := __src.scratch, padCan := __src.padCan, padPlot := __src.padPlot, streams := gs };
                bindReserved d = false ∧
                  BitVec.toNat e.dlen = 256 + 64 * leField d 6 6 ∧
                    s.jobOf lc = some j ∧
                      j.phase = JobPhase.running ∧
                        Tbl.get none s.sv lc = none ∧
                          NoErrors s ∧
                            bindRanges d (parseHead d) = true ∧
                              bindClaims j lc (leField ps 4 7) h = true ∧
                                bindQueue s lc (parseHead d) = true ∧ h.rowBase + h.slots * h.rowStride ≤ 24576) :=
  ⟨⟨x2, q2, x3, bp, by (unfold HostReady HostTakes; (try dsimp only); repeat' apply And.intro) <;> first | decide +kernel | rfl | exact fun _ => rfl | exact fun _ => Nat.zero_le _ | (intros; decide +kernel) | (intro x h; cases h; rfl) | (intro x h; cases h) | simp⟩,
    ⟨wd sS bnd, q2, x3, bp, js, by (unfold HostReady HostTakes; (try dsimp only); repeat' apply And.intro) <;> first | decide +kernel | rfl | exact fun _ => rfl | exact fun _ => Nat.zero_le _ | (intros; decide +kernel) | (intro x h; cases h; rfl) | (intro x h; cases h) | simp⟩⟩

end WK

namespace WL

def hstC : State := { hst with mem := { hst.mem with flaws := [], byteFlaws := [], merges := [] }, ptn := [(1, { mask := 1, parent := 0, valid := true })] }
def hqs (f : HostQueue → HostQueue) : State := { hstC with hif := { hstC.hif with queues := [(2, f hq)] } }
def cp : Cpl := { cid := 7, status := 0, ign := false, r0 := 5, r1 := 6 }
def rn : Running := { id := 39, cid := 0x1234, torzan := true, foot := [], kiosk := true, started := true, held := true, e := ent [] 0 0 }
def nt (n : Nat) : Note := { seq := BitVec.ofNat 16 n, cls := 3, time := 99, payload := [1,2,3], read := false }
def ns : State := { hqs id with hif := { (hqs id).hif with noteQ := 2 }, notes := { hst.notes with log := [nt 5, nt 6, nt 7], next := 8, fresh := 2 } }
def adm (f : HostQueue → HostQueue) : State := {hqs id with hif := {(hqs id).hif with admSq := 0x4000, admCq := 0x8000, admCtrl := 0x165, queues := [(0, f hq)]}}
def ow (o : List OwnerCopy) (l : Bool) (p : FuseStep) : State := { hstC with owner := o, mgmt := { hstC.mgmt with fuseLock := l, prog := p } }
def x0 : Machine.State := hqs (fun x => {x with st := .off})
def x1 : Machine.State := hqs (fun x => {x with draining := true, running := [rn]})
def x2 : Machine.State := hqs (fun x => {x with draining := true, err := 3})
def x3 : Machine.State := hqs (fun x => {x with coalUs := 5, coalAt := 3})
def x4 : Machine.State := hqs (fun x => {x with irqEn := false, waiting := [cp, cp]})
theorem witness_HostQueueEvents :
    (∃ (s : Machine.State) (q : BitVec 16),
  let x : HostQueue := s.queue q.toNat;
  x.st = QState.off) ∧
    (∃ (s : Machine.State) (q : BitVec 16),
  let x : HostQueue := s.queue q.toNat;
  x.draining = true ∧ x.running ≠ []) ∧
    (∃ (s : Machine.State) (q : BitVec 16),
  let x : HostQueue := s.queue q.toNat;
  x.draining = true ∧ x.running = [] ∧ x.waiting = [] ∧ x.reenable = false) ∧
    (∃ (s : Machine.State) (q : BitVec 16),
  let x : HostQueue := s.queue q.toNat;
  x.irqEn = true ∧ 0 < x.gathered ∧ 0 < x.coalUs ∧ x.coalAt + x.coalUs ≤ s.us) ∧
    (∃ (s : Machine.State) (q : BitVec 16) (v : BitVec 16),
  let x : HostQueue := s.queue q.toNat;
  x.st = QState.on ∧ x.draining = false ∧ v.toNat < 2 ^ x.sqLog) ∧
    (∃ (s : Machine.State) (q : BitVec 16) (v : BitVec 16),
  let x : HostQueue := s.queue q.toNat;
  x.st = QState.on ∧ x.draining = false ∧ 2 ^ x.sqLog ≤ v.toNat) ∧
    (∃ (s : Machine.State) (q : BitVec 16) (v : BitVec 16),
  let x : HostQueue := s.queue q.toNat;
  let ahead : Prop :=
    (v.toNat + 2 ^ x.cqLog - x.cqHead) % 2 ^ x.cqLog ≤ (x.cqSlot + 2 ^ x.cqLog - x.cqHead) % 2 ^ x.cqLog;
  x.st = QState.on ∧ v.toNat < 2 ^ x.cqLog ∧ ahead) ∧
    (∃ (s : Machine.State) (q : BitVec 16) (v : BitVec 16),
  let x : HostQueue := s.queue q.toNat;
  let ahead : Prop :=
    (v.toNat + 2 ^ x.cqLog - x.cqHead) % 2 ^ x.cqLog ≤ (x.cqSlot + 2 ^ x.cqLog - x.cqHead) % 2 ^ x.cqLog;
  x.st = QState.on ∧ ¬(v.toNat < 2 ^ x.cqLog ∧ ahead)) ∧
    (∃ (s : Machine.State) (q : BitVec 16) (c : Cpl) (rest : List Cpl),
  let x : HostQueue := s.queue q.toNat;
  x.waiting = c :: rest ∧
    x.st = QState.on ∧
      x.draining = false ∧
        x.hasRoom = true ∧
          s.hif.bme = true ∧
            x.irqEn = false ∧
              let a : ℕ := x.cqBase + 32 * x.cqSlot;
              s.hostFails a 32 = false) ∧
    (∃ (s : Machine.State) (q : BitVec 16) (n : Note),
  let x : HostQueue := s.queue q.toNat;
  s.notes.log.getLast? = some n ∧
    s.hif.noteQ = q ∧
      s.notes.fresh ≠ 0 ∧
        x.st = QState.on ∧
          x.waiting = [] ∧
            x.hasRoom = true ∧
              s.hif.bme = true ∧
                let a : ℕ := x.cqBase + 32 * x.cqSlot;
                s.hostFails a 32 = false) :=
  ⟨⟨x0, 2, by decide +kernel⟩,
    ⟨x1, 2, by decide +kernel⟩,
    ⟨x2, 2, by decide +kernel⟩,
    ⟨x3, 2, by decide +kernel⟩,
    ⟨hqs id, 2, 5, by decide +kernel⟩,
    ⟨hqs id, 2, 16, by decide +kernel⟩,
    ⟨hqs id, 2, 5, by decide +kernel⟩,
    ⟨hqs id, 2, 16, by decide +kernel⟩,
    ⟨x4, 2, cp, [cp], by decide +kernel⟩,
    ⟨ns, 2, nt 7, by decide +kernel⟩⟩
def x5 : Machine.State := {hqs id with hif := {(hqs id).hif with admSq := 0x4000, admCq := 0x8000, configured := true}}
def x6 : Machine.State := {hqs id with hif := {(hqs id).hif with linkUp := false}}
theorem witness_AdminQueue :
    (∃ (s : Machine.State), s.admFree = true) ∧
    (∃ (s : Machine.State), s.hif.linkUp = false) ∧
    (∃ (s : Machine.State), s.hif.linkUp = true ∧ s.hif.configured = true) ∧
    (∃ (s : Machine.State),
  let x : HostQueue := s.queue 0;
  s.hif.admCtrl.getLsbD 8 = true ∧ x.st = QState.on) :=
  ⟨⟨x5, by decide +kernel⟩,
    ⟨x6, by decide +kernel⟩,
    ⟨x5, by decide +kernel⟩,
    ⟨adm id, by decide +kernel⟩⟩
theorem witness_RegistersAndLocks :
    (∃ (s : Machine.State), s.hif.linkUp = true ∧ s.hif.configured = true) ∧
    (∃ (s : Machine.State) (lc : Lc), s.torzanUp = true ∧ s.unitPresent 8 ↑lc = true ∧ s.coreGated ↑lc = false) :=
  ⟨⟨hstC, by decide +kernel⟩,
    ⟨hstC, 5, by decide +kernel⟩⟩
def x7 : Machine.State := ow [.blank, .blank] true .idle
def x8 : Machine.State := {hstC with hlt := {hstC.hlt with snap := some (0x5000, 7, [1,2,3,4])}}
def x9 : Machine.State := ow [.spoiled, .blank] false (.programs 1 5)
def x10 : Machine.State := ow [.spoiled, .spoiled] false .idle
def x11 : Machine.State := {hstC with hlt := {hstC.hlt with snap := some (0x5000, 7, [1, 2, 3, 4])}}
theorem witness_SnapshotsAndFuses :
    (∃ (s : Machine.State), s.hlt.snap = none) ∧
    (∃ (s : Machine.State), s.mgmt.fuseLock = true) ∧
    (∃ (s : Machine.State), s.hlt.snap.isSome = true) ∧
    (∃ (s : Machine.State) (c : ℕ) (d : BitVec 256), s.mgmt.prog = FuseStep.programs c d) ∧
    (∃ (s : Machine.State), s.mgmt.fuseLock = false ∧ s.mgmt.prog = FuseStep.idle ∧ OwnerCopy.blank ∉ s.owner) ∧
    (∃ (s : Machine.State) (a : ℕ) (u : ℕ) (img : List Byte), s.hlt.snap = some (a, u, img) ∧ s.hif.bme = true ∧ s.hostFails a img.length = false) :=
  ⟨⟨hstC, by decide +kernel⟩,
    ⟨x7, by decide +kernel⟩,
    ⟨x8, by decide +kernel⟩,
    ⟨x9, 1, 5, by decide +kernel⟩,
    ⟨x10, by decide +kernel⟩,
    ⟨x11, 0x5000, 7, [1, 2, 3, 4], by decide +kernel⟩⟩

end WL

namespace WM3

def hstC : State := { hst with mem := { hst.mem with bytes := [(mkDa 1 5 3, 7)], flaws := [], byteFlaws := [], merges := [] }, ptn := [(1, { mask := 1, parent := 0, valid := true })], jobs := [] }
def bs (n : Nat) (f : Boot → Boot) : State := { hstC with boot := f { hstC.boot with ready := false, phase := n, since := 5 } }
def rec0 : BootRecord := { serial := 1, seq := 4, lastCold := 0, fuseCrc := 0, tests := [], seams := [] }
def x0 : Machine.State := {bs 2 (fun b => {b with perst := false}) with flash := {hst.flash with boot := some rec0}}
theorem witness_BringUpStarts :
    ∃ (s : Machine.State) (r : BootRecord), s.inStep 2 = true ∧ s.boot.perst = false ∧ s.boot.dogFatal = false ∧ s.flash.boot = some r :=
  ⟨x0, rec0, by decide +kernel⟩

end WM3

namespace WM2

def hstC : State := { hst with mem := { hst.mem with bytes := [(mkDa 1 5 3, 7)], flaws := [], byteFlaws := [], merges := [] }, ptn := [(1, { mask := 1, parent := 0, valid := true })], jobs := [] }
def bs (n : Nat) (f : Boot → Boot) : State := { hstC with boot := f { hstC.boot with ready := false, phase := n, since := 5 } }
def rps (r : Repair) : State := bs 10 (fun b => {b with tests := [r]})
def usab : State := { bs 11 id with sites := (List.range 66).map (fun i => (i, { SiteRec.init with vchOk := true, passed := decide (i ≠ 3 && i < 44), niOk := true })) }
def x0 : Machine.State := {usab with boot := hstC.boot, rowPending := [(0, true)]}
def x1 : Machine.State := {usab with sites := []}
def x2 : Machine.State := rps {kind := 8, unit := 5, bank := 0, index := 0}
def x3 : Repair := {kind := 8, unit := 5, bank := 0, index := 0}
def x4 : Machine.State := rps {kind := 5, unit := 5, bank := 2, index := 4}
def x5 : Repair := {kind := 5, unit := 5, bank := 2, index := 4}
theorem witness_BringUpEnds :
    (∃ (s : Machine.State), s.inStep 9 = true) ∧
    (∃ (s : Machine.State), s.inStep 12 = true) ∧
    (∃ (s : Machine.State) (cl : Fin 40), Tbl.get false s.rowPending ↑cl = false ∨ s.rowTaken ↑cl = true) ∧
    (∃ (s : Machine.State) (cl : Fin 40), Tbl.get false s.rowPending ↑cl = true ∧ s.rowTaken ↑cl = false ∧ s.boot.ready = true ∧ s.mem.merges = []) ∧
    (∃ (s : Machine.State), s.inStep 11 = true ∧ ∃ cl < 40, 20 ≤ (List.filter (fun (c : ℕ) ↦ (s.site (rowSite cl c)).usable) (List.range 22)).length) ∧
    (∃ (s : Machine.State), s.inStep 11 = true ∧ ∀ cl < 40, (List.filter (fun (c : ℕ) ↦ (s.site (rowSite cl c)).usable) (List.range 22)).length < 20) ∧
    (∃ (s : Machine.State) (r : Repair), s.inStep 10 = true ∧ (∀ (m : FuseMap), s.boot.fuse = some m → m.repairs = []) ∧ s.softMap = [] ∧ s.boot.warm = false ∧ s.boot.tests = [r] ∧ r ∉ s.boot.repairs ∧ r.kind = 8) ∧
    (∃ (s : Machine.State) (r : Repair), s.inStep 10 = true ∧ (∀ (m : FuseMap), s.boot.fuse = some m → m.repairs = []) ∧ s.softMap = [] ∧ s.boot.warm = false ∧ s.boot.tests = [r] ∧ r ∉ s.boot.repairs ∧ r.kind < 8 ∧ s.sparesTaken r.kind r.unit r.bank < sparesOf r.kind) :=
  ⟨⟨bs 9 id, by decide +kernel⟩,
    ⟨bs 12 id, by decide +kernel⟩,
    ⟨bs 12 id, 0, by decide +kernel⟩,
    ⟨x0, 0, by decide +kernel⟩,
    ⟨usab, by decide +kernel⟩,
    ⟨x1, by decide +kernel⟩,
    ⟨x2, x3, by decide +kernel⟩,
    ⟨x4, x5, by decide +kernel⟩⟩

end WM2

namespace WN

def hstC : State := { hst with mem := { hst.mem with bytes := [(mkDa 1 5 3, 7)], flaws := [], byteFlaws := [], merges := [] }, ptn := [(1, { mask := 1, parent := 0, valid := true })], jobs := [] }
def ths (f : Thermal → Thermal) : State := { hstC with thm := f hstC.thm }
def sn (l : Option (Nat × Int)) (d : Nat) : Sensor := { Sensor.init with last := l, discarded := d }
def pts (n : Nat) : State := ths (fun t => {t with sensors := [(2, sn (some (0, 480)) 7), (2*1224, sn (some (0, 1600)) 0)], points := [(1224, {SensePoint.init with accepted := 8})]})
theorem witness_SamplesAndEstimates :
    (∃ (s : Machine.State) (p : Fin 1348) (a : ℤ), s.boot.vinAux = true ∧ 1344 ≤ ↑p ∧ (a < 300 ∨ 150000 < a)) ∧
    (∃ (s : Machine.State) (p : Fin 1348) (a : ℤ),
  s.boot.vinAux = true ∧
    let x : Sensor := s.sensor (↑p) 0;
    let moved : Bool :=
      Option.any (fun (l : ℕ × ℤ) ↦ decide (480 * (s.auxNs - l.1) < (a - l.2).natAbs * 1000000)) x.last;
    ↑p < 1344 ∧ moved = true) ∧
    (∃ (s : Machine.State) (p : Fin 1348) (a : ℤ),
  s.boot.vinAux = true ∧
    let x : Sensor := s.sensor (↑p) 0;
    let moved : Bool :=
      Option.any (fun (l : ℕ × ℤ) ↦ decide (480 * (s.auxNs - l.1) < (a - l.2).natAbs * 1000000)) x.last;
    1224 ≤ ↑p ∧
      ↑p < 1344 ∧
        moved = false ∧
          x.suspect = false ∧
            (s.point ↑p).failed = false ∧ 8 ≤ (s.point ↑p).accepted ∧ s.thm.tripped = false ∧ 16 * 105 < a) :=
  ⟨⟨pts 0, 1345, 200, by decide +kernel⟩,
    ⟨pts 0, 1, 80000, by decide +kernel⟩,
    ⟨pts 0, 1224, 1700, by decide +kernel⟩⟩
theorem witness_Throttling :
    ∃ (s : Machine.State) (r : Fin 5),
  s.down = false ∧
    let x : ThermRegion := s.therm ↑r;
    (∀ c ∈ throttleCells ↑r ++ dramCells ↑r, (s.cell c.1 c.2).rise = false) ∧ x.riseUntil ≤ s.us :=
  ⟨hstC, 2, by decide +kernel⟩

end WN

namespace WN2

def hstC : State := { hst with mem := { hst.mem with bytes := [(mkDa 1 5 3, 7)], flaws := [], byteFlaws := [], merges := [] }, ptn := [(1, { mask := 1, parent := 0, valid := true })], jobs := [] }
def ths (f : Thermal → Thermal) : State := { hstC with thm := f hstC.thm }
def big (s : State) : State := { s with ticks := 1600 * 100000000 }
def x0 : Machine.State := big (ths (fun t => {t with sensors := [(10, {Sensor.init with trails := 4})], points := [(5, {SensePoint.init with pairRun := 100})], inletSince := 3, coolSince := 3, tripped := true}))
theorem witness_HoldsAndRestart :
    (∃ (s : Machine.State), s.thm.tripped = false) ∧
    (∃ (s : Machine.State) (i : Site), 100 ≤ (s.point ↑i).pairRun) ∧
    (∃ (s : Machine.State) (i : Site), (s.point ↑i).pairRun < 100) ∧
    (∃ (s : Machine.State), s.thm.inletSince ≠ 0 ∧ s.thm.inletSince - 1 + 10000000 ≤ s.auxUs ∧ s.thm.inletRange = false) ∧
    (∃ (s : Machine.State), s.thm.tripped = true ∧ s.thm.coolSince ≠ 0 ∧ s.thm.coolSince - 1 + 10000000 ≤ s.auxUs ∧ s.boot.vinAux = true ∧ s.boot.clockLost = false) ∧
    (∃ (s : Machine.State) (p : Fin 1200) (b : Bool),
  let k : ℕ := b2n (b && decide (↑p < 880));
  let x : Sensor := s.sensor (↑p) k;
  x.trails ≠ 0 ∧ x.trails - 1 + 50000000 ≤ s.auxNs) ∧
    (∃ (s : Machine.State) (p : Fin 1200) (b : Bool),
  let k : ℕ := b2n (b && decide (↑p < 880));
  let x : Sensor := s.sensor (↑p) k;
  x.trails = 0 ∨ s.auxNs < x.trails - 1 + 50000000) :=
  ⟨⟨hstC, by decide +kernel⟩,
    ⟨x0, 5, by decide +kernel⟩,
    ⟨hstC, 5, by decide +kernel⟩,
    ⟨x0, by decide +kernel⟩,
    ⟨x0, by decide +kernel⟩,
    ⟨x0, 5, false, by decide +kernel⟩,
    ⟨hstC, 5, true, by decide +kernel⟩⟩
def x1 : Machine.State := {hstC with hlt := {hstC.hlt with lower := [(2, 9)], sites := [(5, {SiteHealth.init with drifts := [1,2,3,4,5]})]}}
theorem witness_Wear :
    (∃ (s : Machine.State), s.boot.ready = true) ∧
    (∃ (s : Machine.State), s.boot.kiosk = true) ∧
    (∃ (s : Machine.State) (r : Fin 5),
  let c : ℕ := Tbl.get 0 s.hlt.lower ↑r;
  c = 0) ∧
    (∃ (s : Machine.State) (r : Fin 5),
  let c : ℕ := Tbl.get 0 s.hlt.lower ↑r;
  c ≠ 0 ∧ s.jobs = []) ∧
    (∃ (s : Machine.State) (i : Site) (b : ℕ), 0 < b ∧ (s.sitePwr ↑i).dom = DomState.on ∧ s.hlt.recordOk = false) :=
  ⟨⟨hstC, by decide +kernel⟩,
    ⟨hstC, by decide +kernel⟩,
    ⟨hstC, 2, by decide +kernel⟩,
    ⟨x1, 2, by decide +kernel⟩,
    ⟨hstC, 5, 1, by decide +kernel⟩⟩

end WN2

namespace WN3

def hstC : State := { hst with mem := { hst.mem with bytes := [(mkDa 1 5 3, 7)], flaws := [], byteFlaws := [], merges := [] }, ptn := [(1, { mask := 1, parent := 0, valid := true })], jobs := [] }
def ths (f : Thermal → Thermal) : State := { hstC with thm := f hstC.thm }
def big (s : State) : State := { s with ticks := 1600 * 100000000 }
def fuse1 : FuseMap := { serial := 7, crc := 0, stepping := 1, mac := 5, life := 60, theta := [100,200,300], sites := [], vf := [], repairs := [] }
def cl (f : Thermal → Thermal) : State := big (ths (fun t => f {t with estimated := true, power := [(3, 3000), (5, 3000)], cells := (List.range (13*220)).map (fun i => (i, {HeatCell.init with est := 900})), sensors := [(2*1344, {Sensor.init with last := some (3, 480)}), (2*1345, {Sensor.init with last := some (3, 520)})]}))
def cf (f : Thermal → Thermal) : State := { cl f with boot := {hstC.boot with fuse := some fuse1}, pwr := {hstC.pwr with part := {hstC.pwr.part with last := 3000}} }
def qe (n : Nat) : QueuedEvent := { ev := .sensor 3 7, sentAt := n }
def ks (n : Nat) : State := big { hstC with boot := {hstC.boot with kiosk := true}, hif := {hstC.hif with configured := true}, events := { hstC.events with queue := [qe n] }, flash := {hstC.flash with fw := [(1, {a := some 1, b := some 2, bNewer := true, staged := false, image := [(4, 5)]})]} }
theorem witness_Coolant :
    (∃ (s : Machine.State) (i : ℤ) (o : ℤ), s.pointValue 1344 = some i ∧ s.pointValue 1345 = some o ∧ 2000 ≤ s.pwr.part.last ∧ 32 ≤ o - i) ∧
    (∃ (s : Machine.State) (i : ℤ) (o : ℤ), s.pointValue 1344 = some i ∧ s.pointValue 1345 = some o ∧ (s.pwr.part.last < 2000 ∨ o - i < 32)) :=
  ⟨⟨cf id, 480, 520, by decide +kernel⟩,
    ⟨cl id, 480, 520, by decide +kernel⟩⟩
theorem witness_BoardController :
    ∃ (s : Machine.State) (i3c : Bool) (x : QueuedEvent) (rest : List QueuedEvent), s.mctpUp i3c = true ∧ s.ksk.receiver = none ∧ s.events.queue = x :: rest :=
  ⟨ks 0, true, qe 0, [], by decide +kernel⟩

end WN3

namespace WJ

def q2 : BitVec 16 := 2
def wd (s : State) (d : List Byte) : State := s.hostPut 0x30000 d
def wp (s : State) (d : List Byte) : State := s.hostPut 0x20000 d
def hstC : State := { hst with mem := { hst.mem with flaws := [], byteFlaws := [], merges := [] }, jobs := [], ptn := [(1, { mask := 1, parent := 0, valid := true })] }
def rp (sc t : Nat) : List Byte := leBytes 1 sc ++ [0] ++ leBytes 2 t
def rr : ResetRun := { q := 2, id := 40, scope := 0, target := 5, cores := [5], stage := .draining, halted := false, since := 100, r0 := 200 }
def rn : Running := { id := 40, cid := 0x1234, torzan := true, foot := [], kiosk := true, started := true, held := true, e := ent (rp 0 5) 0 0 }
def sR : State := { hstC with rst := some rr, hif := { hstC.hif with queues := [(2, { hq with running := [rn] })] } }
def tree : List Byte := (List.range 64).flatMap (fun n => leBytes 8 (if n = 0 then 0 else if n < 4 then 2 ^ 63 + 2 ^ n + (n-1) * 2^40 else 0))
def badtree : List Byte := (List.range 64).flatMap (fun n => leBytes 8 (if n = 0 then 0 else if n < 4 then 2 ^ 63 + 2 ^ n + (n+1) * 2^40 else 0))
def rep1 : List Byte := leBytes 1 1 ++ [0] ++ leBytes 2 7 ++ leBytes 2 3 ++ leBytes 2 0 ++ leBytes 4 99 ++ leBytes 4 0
def repm : List Byte := leBytes 4 0x50524D53 ++ leBytes 2 2 ++ leBytes 2 0 ++ leBytes 8 (fused hstC (fun m => m.serial.toNat)) ++ leBytes 4 (crc32c (rep1 ++ rep1)) ++ leBytes 12 0 ++ rep1 ++ rep1
def cfg (qn kind : Nat) (x : List Byte) : List Byte := leBytes 4 qn ++ leBytes 1 kind ++ leBytes 3 0 ++ x
def hqx : List Byte := leBytes 8 0x40000 ++ leBytes 8 0x50000 ++ leBytes 1 5 ++ leBytes 1 6 ++ leBytes 2 9 ++ leBytes 1 3 ++ leBytes 1 1 ++ leBytes 1 0 ++ leBytes 1 0 ++ leBytes 4 0 ++ leBytes 4 0
def c1 : List Byte := cfg (0x6E000 + 5) 0 hqx
def sqx (st : Nat) : List Byte := leBytes 8 (mkDa 0 5 4096) ++ leBytes 1 4 ++ leBytes 1 4 ++ leBytes 2 6 ++ leBytes 4 0 ++ leBytes 8 (mkDa 0 5 60) ++ leBytes 4 0 ++ leBytes 1 st ++ leBytes 3 0
def c2 : List Byte := cfg (5*512+9) 0 (sqx 1)
def xqx : List Byte := leBytes 8 (mkDa 1 5 4096) ++ leBytes 1 5 ++ leBytes 1 0 ++ leBytes 2 5 ++ leBytes 4 4200 ++ leBytes 4 0 ++ leBytes 4 9 ++ leBytes 1 1 ++ leBytes 1 1 ++ leBytes 6 0
def c4 : List Byte := cfg (0x6E000 + 5) 1 xqx
def pc : List Byte := [4, 7, 9, 1] ++ leBytes 4 0x0A000001 ++ leBytes 16 99 ++ leBytes 6 0xABCDEF ++ leBytes 2 0
def pp : List Byte := leBytes 1 5 ++ leBytes 31 0 ++ (List.range 8).flatMap (fun i => leBytes 16 (1000 + i) ++ leBytes 1 i ++ leBytes 3 0)
def cg (v : Nat) : List Byte := leBytes 1 v ++ leBytes 1 (if v = 0 then 0 else 1) ++ leBytes 2 2 ++ leBytes 2 (if v = 0 then 0 else 1) ++ leBytes 2 0 ++ leBytes 4 (if v = 0 then 0 else 9) ++ leBytes 4 0 ++ leBytes 2 0 ++ leBytes 2 3
def x0 : Entry := ent (rp 3 0) 0 0
def x1 : Entry := ent (rp 2 2) 0 0
def x2 : Entry := ent (rp 0 5) 0 0
theorem witness_Resets :
    (∃ (s : Machine.State), s.boot.scope3 = none) ∧
    (∃ (s : Machine.State) (r : ResetRun) (x : Running), s.rst = some r ∧ r.stage = ResetStage.draining ∧ s.draining r.cores = false ∧ (s.queue r.q).running = [x] ∧ x.id = r.id ∧ s.mem.merges = []) ∧
    (∃ (s : Machine.State) (q : BitVec 16) (e : Entry) (ps : List Byte),
  HostReady s q e ps ∧
    ps.length = 4 ∧
      NoBuffer e ∧
        leField ps 1 1 = 0 ∧
          let scope : ℕ := leField ps 0 0;
          scope = 3) ∧
    (∃ (s : Machine.State) (q : BitVec 16) (e : Entry) (ps : List Byte),
  HostReady s q e ps ∧
    ps.length = 4 ∧
      NoBuffer e ∧
        leField ps 1 1 = 0 ∧
          let scope : ℕ := leField ps 0 0;
          let target : ℕ := leField ps 2 3;
          scope < 3 ∧
            target < [800, 40, 64].getD scope 0 ∧
              s.rst = none ∧ resetWaits s scope target = false ∧ resetRefusal s scope target ≠ 0) ∧
    (∃ (s : Machine.State) (q : BitVec 16) (e : Entry) (ps : List Byte),
  HostReady s q e ps ∧
    ps.length = 4 ∧
      NoBuffer e ∧
        leField ps 1 1 = 0 ∧
          let scope : ℕ := leField ps 0 0;
          let target : ℕ := leField ps 2 3;
          scope < 3 ∧
            target < [800, 40, 64].getD scope 0 ∧
              s.rst = none ∧ resetWaits s scope target = false ∧ resetRefusal s scope target = 0 ∧ s.jobs = []) :=
  ⟨⟨hstC, by decide +kernel⟩,
    ⟨sR, rr, rn, by decide +kernel⟩,
    ⟨hstC, q2, x0, rp 3 0, by (unfold HostReady NoBuffer HostTakes; (try dsimp only); repeat' apply And.intro) <;> first | decide +kernel | rfl | exact fun _ => rfl | exact fun _ => Nat.zero_le _ | (intros; decide +kernel) | (intro x h; cases h; rfl) | (intro x h; cases h) | simp⟩,
    ⟨hstC, q2, x1, rp 2 2, by (unfold HostReady NoBuffer HostTakes; (try dsimp only); repeat' apply And.intro) <;> first | decide +kernel | rfl | exact fun _ => rfl | exact fun _ => Nat.zero_le _ | (intros; decide +kernel) | (intro x h; cases h; rfl) | (intro x h; cases h) | simp⟩,
    ⟨hstC, q2, x2, rp 0 5, by (unfold HostReady NoBuffer HostTakes; (try dsimp only); repeat' apply And.intro) <;> first | decide +kernel | rfl | exact fun _ => rfl | exact fun _ => Nat.zero_le _ | (intros; decide +kernel) | (intro x h; cases h; rfl) | (intro x h; cases h) | simp⟩⟩
def x3 : Entry := ent [5,0,100,2] 0 0
def x4 : Entry := ent [] 0x30000 512
def x5 : Machine.State := wd hstC badtree
def x6 : Entry := ent [1,0,100,2] 0 0
def x7 : Entry := ent [] 0x30000 64
theorem witness_HostConfiguration :
    (∃ (s : Machine.State) (q : BitVec 16) (e : Entry) (ps : List Byte),
  HostReady s q e ps ∧
    ps.length = 4 ∧
      NoBuffer e ∧
        leField ps 1 1 = 0 ∧
          let n : ℕ := leField ps 0 0;
          let cap : ℕ := leField ps 2 3;
          0 < n ∧ n < 64 ∧ s.nodeValid n = false ∧ 50 ≤ cap ∧ cap ≤ 5500) ∧
    (∃ (s : Machine.State) (q : BitVec 16) (e : Entry) (ps : List Byte),
  HostReady s q e ps ∧
    ps = [] ∧
      HasBuffer s e 512 ∧
        let d : List Byte := s.hostBytes (BitVec.toNat e.daddr) 512;
        (∀ n < 64, bits (leField d (8 * n) (8 * n + 7)) 62 46 = 0) ∧
          treeOk (ptnTree d) = true ∧ ptnConflict s (ptnTree d) = false) ∧
    (∃ (s : Machine.State) (q : BitVec 16) (e : Entry) (ps : List Byte),
  HostReady s q e ps ∧
    ps = [] ∧
      HasBuffer s e 512 ∧
        let d : List Byte := s.hostBytes (BitVec.toNat e.daddr) 512;
        (∀ n < 64, bits (leField d (8 * n) (8 * n + 7)) 62 46 = 0) ∧
          (treeOk (ptnTree d) = false ∨ ptnConflict s (ptnTree d) = true)) ∧
    (∃ (s : Machine.State) (q : BitVec 16) (e : Entry) (ps : List Byte),
  HostReady s q e ps ∧
    ps.length = 4 ∧
      NoBuffer e ∧
        leField ps 1 1 = 0 ∧
          let n : ℕ := leField ps 0 0;
          let cap : ℕ := leField ps 2 3;
          s.nodeValid n = true ∧ if n = 0 then 2000 ≤ cap ∧ cap ≤ 5500 else n < 64 ∧ 50 ≤ cap ∧ cap ≤ 5500) ∧
    (∃ (s : Machine.State) (q : BitVec 16) (e : Entry) (ps : List Byte),
  HostReady s q e ps ∧
    ps.length = 40 ∧
      NoBuffer e ∧
        cfgReserved ps = false ∧
          let qn : ℕ := leField ps 0 3;
          let x : List Byte := List.drop 8 ps;
          isSiteQueue qn = true ∧ leField ps 4 4 = 0 ∧ (1 < leField x 28 28 ∨ leField x 28 28 = 1 ∧ sqOk s qn x = false)) ∧
    (∃ (s : Machine.State) (q : BitVec 16) (e : Entry) (ps : List Byte),
  HostReady s q e ps ∧
    ps.length = 40 ∧
      NoBuffer e ∧
        cfgReserved ps = false ∧
          let qn : ℕ := leField ps 0 3;
          let x : List Byte := List.drop 8 ps;
          let h : ℕ := qn - 450560;
          isHostQn qn = true ∧
            leField ps 4 4 = 1 ∧
              0 < h ∧ leField x 25 25 = 1 ∧ (s.queue h).st = QState.off ∧ xqOk s qn x = true ∧ s.queueClaimed qn = false) ∧
    (∃ (s : Machine.State) (q : BitVec 16) (e : Entry) (ps : List Byte) (n : ℕ),
  HostReady s q e ps ∧
    ps = [] ∧
      n ≤ 4096 ∧
        HasBuffer s e (32 + 16 * n) ∧
          let d : List Byte := s.hostBytes (BitVec.toNat e.daddr) (32 + 16 * n);
          leField d 4 5 = n ∧
            leField d 6 7 = 0 ∧
              ((List.take 12 (List.drop 20 d)).all fun (x : Byte) ↦ decide (x = 0)) = true ∧
                leField d 0 3 = 1347571027 ∧
                  (leField d 8 15 = fused s fun (m : FuseMap) ↦ BitVec.toNat m.serial) ∧
                    leField d 16 19 = crc32c (List.drop 32 d) ∧
                      ∀ k < n, repairReserved (repairBytes d k) = false ∧ repairRange (repairBytes d k) = true) ∧
    (∃ (s : Machine.State) (q : BitVec 16) (e : Entry) (ps : List Byte),
  HostReady s q e ps ∧
    ps.length = 40 ∧
      NoBuffer e ∧
        cfgReserved ps = false ∧
          let qn : ℕ := leField ps 0 3;
          let x : List Byte := List.drop 8 ps;
          let h : ℕ := qn - 450560;
          isHostQn qn = true ∧
            leField ps 4 4 = 0 ∧
              leField x 24 27 = 0 ∧
                0 < h ∧
                  h ≠ q.toNat ∧
                    s.queueClaimed qn = false ∧
                      leField x 21 21 = 1 ∧
                        leField x 0 7 % 4096 = 0 ∧
                          leField x 8 15 % 4096 = 0 ∧
                            4 ≤ leField x 16 16 ∧
                              leField x 16 16 ≤ 12 ∧
                                leField x 16 16 ≤ leField x 17 17 ∧
                                  leField x 17 17 ≤ 14 ∧ leField x 18 19 ≤ 2047 ∧ (s.queue h).st = QState.off) :=
  ⟨⟨hstC, q2, x3, [5,0,100,2], by (unfold HostReady NoBuffer HostTakes; (try dsimp only); repeat' apply And.intro) <;> first | decide +kernel | rfl | exact fun _ => rfl | exact fun _ => Nat.zero_le _ | (intros; decide +kernel) | (intro x h; cases h; rfl) | (intro x h; cases h) | simp⟩,
    ⟨wd hstC tree, q2, x4, [], by (unfold HostReady HasBuffer HostTakes; (try dsimp only); repeat' apply And.intro) <;> first | decide +kernel | rfl | exact fun _ => rfl | exact fun _ => Nat.zero_le _ | (intros; decide +kernel) | (intro x h; cases h; rfl) | (intro x h; cases h) | simp⟩,
    ⟨x5, q2, x4, [], by (unfold HostReady HasBuffer HostTakes; (try dsimp only); repeat' apply And.intro) <;> first | decide +kernel | rfl | exact fun _ => rfl | exact fun _ => Nat.zero_le _ | (intros; decide +kernel) | (intro x h; cases h; rfl) | (intro x h; cases h) | simp⟩,
    ⟨hstC, q2, x6, [1,0,100,2], by (unfold HostReady NoBuffer HostTakes; (try dsimp only); repeat' apply And.intro) <;> first | decide +kernel | rfl | exact fun _ => rfl | exact fun _ => Nat.zero_le _ | (intros; decide +kernel) | (intro x h; cases h; rfl) | (intro x h; cases h) | simp⟩,
    ⟨wp hstC c2, q2, entp c2 0 0, c2, by (unfold HostReady NoBuffer HostTakes; (try dsimp only); repeat' apply And.intro) <;> first | decide +kernel | rfl | exact fun _ => rfl | exact fun _ => Nat.zero_le _ | (intros; decide +kernel) | (intro x h; cases h; rfl) | (intro x h; cases h) | simp⟩,
    ⟨wp hstC c4, q2, entp c4 0 0, c4, by (unfold HostReady NoBuffer HostTakes; (try dsimp only); repeat' apply And.intro) <;> first | decide +kernel | rfl | exact fun _ => rfl | exact fun _ => Nat.zero_le _ | (intros; decide +kernel) | (intro x h; cases h; rfl) | (intro x h; cases h) | simp⟩,
    ⟨wd hstC repm, q2, x7, [], 2, by (unfold HostReady HasBuffer HostTakes; (try dsimp only); repeat' apply And.intro) <;> first | decide +kernel | rfl | exact fun _ => rfl | exact fun _ => Nat.zero_le _ | (intros; decide +kernel) | (intro x h; cases h; rfl) | (intro x h; cases h) | simp⟩,
    ⟨wp hstC c1, q2, entp c1 0 0, c1, by (unfold HostReady NoBuffer HostTakes; (try dsimp only); repeat' apply And.intro) <;> first | decide +kernel | rfl | exact fun _ => rfl | exact fun _ => Nat.zero_le _ | (intros; decide +kernel) | (intro x h; cases h; rfl) | (intro x h; cases h) | simp⟩⟩
def x8 : Machine.State := {hstC with jobs := [job0]}
def x9 : Entry := ent [3, 0] 0x30000 192
def x10 : Machine.State := {wd hstC pp with jobs := [{job0 with parts := [0, 3]}]}
def x11 : Entry := ent [7] 0x30000 20
theorem witness_HostFabric :
    (∃ (s : Machine.State) (q : BitVec 16) (e : Entry) (ps : List Byte), HostReady s q e ps ∧ ps.length = 2 ∧ NoBuffer e ∧ leField ps 0 1 < 1024 ∧ s.jobs ≠ []) ∧
    (∃ (s : Machine.State) (q : BitVec 16) (e : Entry) (ps : List Byte), HostReady s q e ps ∧ ps.length = 2 ∧ NoBuffer e ∧ leField ps 0 1 < 1024 ∧ s.jobs = [] ∧ ∀ x ∈ s.fab.peers, x.2.st ≠ 1) ∧
    (∃ (s : Machine.State) (q : BitVec 16) (e : Entry) (ps : List Byte), HostReady s q e ps ∧ ps.length = 32 ∧ NoBuffer e ∧ leField ps 0 0 < 64 ∧ leField ps 1 1 < 8 ∧ leField ps 2 3 < 4096 ∧ leField ps 30 31 = 0) ∧
    (∃ (s : Machine.State) (q : BitVec 16) (e : Entry) (ps : List Byte),
  HostReady s q e ps ∧
    ps.length = 2 ∧
      leField ps 0 1 < 1024 ∧
        HasBuffer s e 192 ∧
          let d : List Byte := s.hostBytes (BitVec.toNat e.daddr) 192;
          let p : ℕ := leField ps 0 1;
          List.take 31 (List.drop 1 d) = List.replicate 31 0 ∧
            (∀ i < 8, leField d (49 + 20 * i) (51 + 20 * i) = 0 ∧ leField d (48 + 20 * i) (48 + 20 * i) < 64) ∧
              ∀ j ∈ s.jobs, p ∉ j.parts) ∧
    (∃ (s : Machine.State) (q : BitVec 16) (e : Entry) (ps : List Byte),
  HostReady s q e ps ∧
    ps.length = 2 ∧
      leField ps 0 1 < 1024 ∧
        HasBuffer s e 192 ∧
          let d : List Byte := s.hostBytes (BitVec.toNat e.daddr) 192;
          let p : ℕ := leField ps 0 1;
          List.take 31 (List.drop 1 d) = List.replicate 31 0 ∧
            (∀ i < 8, leField d (49 + 20 * i) (51 + 20 * i) = 0 ∧ leField d (48 + 20 * i) (48 + 20 * i) < 64) ∧
              ∃ j ∈ s.jobs, p ∈ j.parts) ∧
    (∃ (s : Machine.State) (q : BitVec 16) (e : Entry) (ps : List Byte) (r : ℕ),
  HostReady s q e ps ∧
    ps.length = 1 ∧
      r ≤ 1024 ∧
        HasBuffer s e (16 + 2 * r) ∧
          let d : List Byte := s.hostBytes (BitVec.toNat e.daddr) (16 + 2 * r);
          let g : ℕ := leField ps 0 0;
          leField d 2 3 = r ∧
            leField d 6 7 = 0 ∧
              leField d 12 15 = 0 ∧
                leField d 0 0 ≤ 1 ∧
                  (leField d 0 0 = 1 →
                      0 < r ∧
                        leField d 1 1 < 64 ∧ leField d 4 5 < r ∧ ∀ k < r, leField d (16 + 2 * k) (17 + 2 * k) < 1024) ∧
                    ∀ i ∈ s.fab.insts, i.group ≠ g) :=
  ⟨⟨x8, q2, ent [7, 0] 0 0, [7, 0], by (unfold HostReady NoBuffer HostTakes; (try dsimp only); repeat' apply And.intro) <;> first | decide +kernel | rfl | exact fun _ => rfl | exact fun _ => Nat.zero_le _ | (intros; decide +kernel) | (intro x h; cases h; rfl) | (intro x h; cases h) | simp⟩,
    ⟨hstC, q2, ent [7, 0] 0 0, [7, 0], by (unfold HostReady NoBuffer HostTakes; (try dsimp only); repeat' apply And.intro) <;> first | decide +kernel | rfl | exact fun _ => rfl | exact fun _ => Nat.zero_le _ | (intros; decide +kernel) | (intro x h; cases h; rfl) | (intro x h; cases h) | simp⟩,
    ⟨hstC, q2, ent pc 0 0, pc, by (unfold HostReady NoBuffer HostTakes; (try dsimp only); repeat' apply And.intro) <;> first | decide +kernel | rfl | exact fun _ => rfl | exact fun _ => Nat.zero_le _ | (intros; decide +kernel) | (intro x h; cases h; rfl) | (intro x h; cases h) | simp⟩,
    ⟨wd hstC pp, q2, x9, [3, 0], by (unfold HostReady HasBuffer HostTakes; (try dsimp only); repeat' apply And.intro) <;> first | decide +kernel | rfl | exact fun _ => rfl | exact fun _ => Nat.zero_le _ | (intros; decide +kernel) | (intro x h; cases h; rfl) | (intro x h; cases h) | simp⟩,
    ⟨x10, q2, x9, [3, 0], by (unfold HostReady HasBuffer HostTakes; (try dsimp only); repeat' apply And.intro) <;> first | decide +kernel | rfl | exact fun _ => rfl | exact fun _ => Nat.zero_le _ | (intros; decide +kernel) | (intro x h; cases h; rfl) | (intro x h; cases h) | simp⟩,
    ⟨wd hstC (cg 1), q2, x11, [7], 2, by (unfold HostReady HasBuffer HostTakes; (try dsimp only); repeat' apply And.intro) <;> first | decide +kernel | rfl | exact fun _ => rfl | exact fun _ => Nat.zero_le _ | (intros; decide +kernel) | (intro x h; cases h; rfl) | (intro x h; cases h) | simp⟩⟩

end WJ

namespace WK2

def q2 : BitVec 16 := 2
def wd (s : State) (d : List Byte) : State := s.hostPut 0x30000 d
def hstC : State := { hst with mem := { hst.mem with bytes := [], flaws := [], byteFlaws := [], merges := [] }, ptn := [(1, { mask := 1, parent := 0, valid := true })] }
def rg (g : Region → Region) : Region := g { Region.init with st := .resident, frame := 7 }
def stk (f : Stack → Stack) (g : Region → Region) : State := { hstC with orgs := [(2, f { Stack.init with linkUp := true, trained := true, regions := [(4, rg g)] })] }
def om (r : Nat) (x : Nat) (b : Nat) : List Byte := [2, BitVec.ofNat 8 x] ++ leBytes 2 r ++ leBytes 4 0 ++ leBytes 8 b
def o4 (r : Nat) : List Byte := [2, 0] ++ leBytes 2 r
def be (r h : Nat) : List Byte := [2, 0] ++ leBytes 2 r ++ leBytes 2 h ++ [0, 0]
def two (h : Holder) : State := stk (fun t => {t with regions := t.regions ++ [(9, rg (fun g => {g with bank := .bank, handle := 6, holder := h}))]}) id
def jt : Job := { job0 with claims := [{ kind := 1, flags := 0, lc := 5, unit := 0, base := 0, length := 131072 }, { kind := 2, flags := 0, lc := 5, unit := 0, base := 0, length := 131072 }] }
def tb : List Byte := leBytes 4 0x4E52545A ++ leBytes 2 3 ++ leBytes 2 1 ++ leBytes 8 55 ++ leBytes 8 (mkDa 1 5 8192) ++ leBytes 4 0x50C07 ++ leBytes 4 0 ++ leBytes 1 0xFF ++ leBytes 31 0
def tS : State := { hstC with jobs := [jt] }
def tr0 : Training := { Training.init with bound := true, replicas := 3, rank := 0, resultDa := mkDa 1 5 8192, step := 9 }
def mapE : List Byte := leBytes 4 0 ++ [1, 1, 2, 0] ++ leBytes 8 0xABCD ++ leBytes 8 0 ++ leBytes 8 100 ++ (leBytes 8 3 ++ leBytes 8 4 ++ leBytes 32 0) ++ (leBytes 8 10 ++ leBytes 8 10 ++ leBytes 32 0) ++ leBytes 8 (mkDa 2 5 4096) ++ leBytes 56 0
def te : List Byte := [1,0,0,0] ++ leBytes 4 1 ++ leBytes 8 0x50000
def xS : State := ({ tS with trn := [(1, tr0)] }).hostPut 0x50000 mapE
def x0 : Machine.State := stk id (fun g => {g with bank := .bank})
def x1 : Machine.State := { stk id id with jobs := [{ job0 with claims := [{ kind := 4, flags := 0, lc := 0xFFFF, unit := 2, base := 4, length := 1 }] }] }
def x2 : Machine.State := stk id (fun g => {g with st := .spilled})
def x3 : Entry := ent (om 4 0 0) 0 0
def x4 : Entry := ent (om 5 1 0x4000) 0 0
def x5 : Entry := ent (om 5 0 0x4000) 0 0
def x6 : Entry := ent (om 4 0 0x4000) 0 0
def x7 : Entry := ent (be 5 6) 0 0
def x8 : Entry := ent (om 5 0 0) 0 0
def x9 : Entry := ent (be 4 6) 0 0
theorem witness_HostOrangery :
    (∃ (s : Machine.State) (q : BitVec 16) (e : Entry) (ps : List Byte),
  let k : ℕ := leField ps 0 0;
  let r : ℕ := leField ps 2 3;
  let g : Region := s.region k r;
  HostReady s q e ps ∧ NoBuffer e ∧ k < 6 ∧ r < 16384 ∧ ps.length = 4 ∧ leField ps 1 1 = 0 ∧ g.bank = BankState.bank) ∧
    (∃ (s : Machine.State) (q : BitVec 16) (e : Entry) (ps : List Byte),
  let k : ℕ := leField ps 0 0;
  let r : ℕ := leField ps 2 3;
  let g : Region := s.region k r;
  HostReady s q e ps ∧ NoBuffer e ∧ k < 6 ∧ r < 16384 ∧ ps.length = 4 ∧ leField ps 1 1 = 0 ∧ g.bank ≠ BankState.bank) ∧
    (∃ (s : Machine.State) (q : BitVec 16) (e : Entry) (ps : List Byte),
  let k : ℕ := leField ps 0 0;
  let r : ℕ := leField ps 2 3;
  let g : Region := s.region k r;
  HostReady s q e ps ∧ NoBuffer e ∧ k < 6 ∧ r < 16384 ∧ ps.length = 4 ∧ leField ps 1 1 = 0 ∧ g.st ≠ RegionState.spilled) ∧
    (∃ (s : Machine.State) (q : BitVec 16) (e : Entry) (ps : List Byte),
  let k : ℕ := leField ps 0 0;
  let r : ℕ := leField ps 2 3;
  let g : Region := s.region k r;
  HostReady s q e ps ∧ NoBuffer e ∧ k < 6 ∧ r < 16384 ∧ ps.length = 4 ∧ leField ps 1 1 = 0 ∧ g.st = RegionState.unmapped) ∧
    (∃ (s : Machine.State) (q : BitVec 16) (e : Entry) (ps : List Byte),
  let k : ℕ := leField ps 0 0;
  let r : ℕ := leField ps 2 3;
  let g : Region := s.region k r;
  HostReady s q e ps ∧
    NoBuffer e ∧
      k < 6 ∧ r < 16384 ∧ ps.length = 4 ∧ leField ps 1 1 = 0 ∧ g.st ≠ RegionState.unmapped ∧ s.regionClaimed k r = true) ∧
    (∃ (s : Machine.State) (q : BitVec 16) (e : Entry) (ps : List Byte) (f : ℕ),
  let k : ℕ := leField ps 0 0;
  let r : ℕ := leField ps 2 3;
  let g : Region := s.region k r;
  HostReady s q e ps ∧
    NoBuffer e ∧
      k < 6 ∧
        r < 16384 ∧ ps.length = 4 ∧ leField ps 1 1 = 0 ∧ g.st = RegionState.spilled ∧ (s.stack k).freeFrame = some f) ∧
    (∃ (s : Machine.State) (q : BitVec 16) (e : Entry) (ps : List Byte),
  let k : ℕ := leField ps 0 0;
  let r : ℕ := leField ps 2 3;
  let g : Region := s.region k r;
  HostReady s q e ps ∧
    NoBuffer e ∧
      k < 6 ∧
        r < 16384 ∧
          ps.length = 16 ∧ leField ps 4 7 = 0 ∧ leField ps 1 1 = 0 ∧ leField ps 8 15 = 0 ∧ g.st ≠ RegionState.unmapped) ∧
    (∃ (s : Machine.State) (q : BitVec 16) (e : Entry) (ps : List Byte),
  let k : ℕ := leField ps 0 0;
  let r : ℕ := leField ps 2 3;
  let g : Region := s.region k r;
  HostReady s q e ps ∧
    NoBuffer e ∧
      k < 6 ∧
        r < 16384 ∧
          ps.length = 16 ∧
            leField ps 4 7 = 0 ∧ leField ps 1 1 = 1 ∧ leField ps 8 15 % 4096 = 0 ∧ g.st = RegionState.unmapped) ∧
    (∃ (s : Machine.State) (q : BitVec 16) (e : Entry) (ps : List Byte),
  let k : ℕ := leField ps 0 0;
  let r : ℕ := leField ps 2 3;
  let g : Region := s.region k r;
  HostReady s q e ps ∧
    NoBuffer e ∧
      k < 6 ∧
        r < 16384 ∧
          ps.length = 16 ∧
            leField ps 4 7 = 0 ∧ leField ps 1 1 = 0 ∧ leField ps 8 15 % 4096 = 0 ∧ g.st ≠ RegionState.resident) ∧
    (∃ (s : Machine.State) (q : BitVec 16) (e : Entry) (ps : List Byte),
  let k : ℕ := leField ps 0 0;
  let r : ℕ := leField ps 2 3;
  let g : Region := s.region k r;
  HostReady s q e ps ∧
    NoBuffer e ∧
      k < 6 ∧
        r < 16384 ∧
          ps.length = 16 ∧
            leField ps 4 7 = 0 ∧
              leField ps 1 1 = 0 ∧ leField ps 8 15 % 4096 = 0 ∧ g.st = RegionState.resident ∧ g.banked = true) ∧
    (∃ (s : Machine.State) (q : BitVec 16) (e : Entry) (ps : List Byte),
  let k : ℕ := leField ps 0 0;
  let r : ℕ := leField ps 2 3;
  let g : Region := s.region k r;
  HostReady s q e ps ∧
    NoBuffer e ∧
      k < 6 ∧
        r < 16384 ∧
          ps.length = 8 ∧
            leField ps 7 7 = 0 ∧
              leField ps 1 1 = 0 ∧
                leField ps 4 5 < 512 ∧ leField ps 6 6 = 0 ∧ (g.st ≠ RegionState.resident ∨ g.banked = true)) ∧
    (∃ (s : Machine.State) (q : BitVec 16) (e : Entry) (ps : List Byte) (f : ℕ),
  let k : ℕ := leField ps 0 0;
  let r : ℕ := leField ps 2 3;
  let g : Region := s.region k r;
  HostReady s q e ps ∧
    NoBuffer e ∧
      k < 6 ∧
        r < 16384 ∧
          ps.length = 16 ∧
            leField ps 4 7 = 0 ∧
              leField ps 1 1 = 0 ∧
                leField ps 8 15 = 0 ∧ g.st = RegionState.unmapped ∧ NoErrors s ∧ (s.stack k).freeFrame = some f) ∧
    (∃ (s : Machine.State) (q : BitVec 16) (e : Entry) (ps : List Byte),
  let k : ℕ := leField ps 0 0;
  let r : ℕ := leField ps 2 3;
  let g : Region := s.region k r;
  HostReady s q e ps ∧
    NoBuffer e ∧
      k < 6 ∧
        r < 16384 ∧
          ps.length = 16 ∧
            leField ps 4 7 = 0 ∧
              leField ps 1 1 = 0 ∧
                leField ps 8 15 % 4096 = 0 ∧
                  g.st = RegionState.resident ∧ g.banked = false ∧ s.regionCompared k r = false) ∧
    (∃ (s : Machine.State) (q : BitVec 16) (e : Entry) (ps : List Byte),
  let k : ℕ := leField ps 0 0;
  let r : ℕ := leField ps 2 3;
  let g : Region := s.region k r;
  HostReady s q e ps ∧
    NoBuffer e ∧
      k < 6 ∧
        r < 16384 ∧
          ps.length = 4 ∧
            leField ps 1 1 = 0 ∧
              (g.st = RegionState.resident ∨ g.st = RegionState.spilled) ∧
                s.regionClaimed k r = false ∧
                  s.regionCompared k r = false ∧ g.banked = false ∧ g.cmd = [] ∧ (s.stack k).waitIn = [] ∧ NoErrors s) ∧
    (∃ (s : Machine.State) (q : BitVec 16) (e : Entry) (ps : List Byte),
  let k : ℕ := leField ps 0 0;
  let r : ℕ := leField ps 2 3;
  let g : Region := s.region k r;
  HostReady s q e ps ∧
    NoBuffer e ∧
      k < 6 ∧
        r < 16384 ∧
          ps.length = 8 ∧
            leField ps 7 7 = 0 ∧
              leField ps 1 1 = 0 ∧
                leField ps 4 5 < 512 ∧
                  leField ps 6 6 = 0 ∧
                    let free : Prop := ∀ x ∈ (s.stack k).regions, x.2.banked = true → x.2.handle ≠ leField ps 4 5;
                    g.st = RegionState.resident ∧
                      g.banked = false ∧ (∀ (x : Holder), (s.stack k).holder = some x → x = Holder.host) ∧ ¬free) ∧
    (∃ (s : Machine.State) (q : BitVec 16) (e : Entry) (ps : List Byte),
  let k : ℕ := leField ps 0 0;
  let r : ℕ := leField ps 2 3;
  let g : Region := s.region k r;
  HostReady s q e ps ∧
    NoBuffer e ∧
      k < 6 ∧
        r < 16384 ∧
          ps.length = 8 ∧
            leField ps 7 7 = 0 ∧
              leField ps 1 1 = 0 ∧
                leField ps 4 5 < 512 ∧
                  leField ps 6 6 = 0 ∧
                    let free : Prop := ∀ x ∈ (s.stack k).regions, x.2.banked = true → x.2.handle ≠ leField ps 4 5;
                    g.st = RegionState.resident ∧
                      g.banked = false ∧
                        (∀ (x : Holder), (s.stack k).holder = some x → x = Holder.host) ∧
                          free ∧ enterDenied s k r Holder.host = true) ∧
    (∃ (s : Machine.State) (q : BitVec 16) (e : Entry) (ps : List Byte),
  let k : ℕ := leField ps 0 0;
  let r : ℕ := leField ps 2 3;
  let g : Region := s.region k r;
  HostReady s q e ps ∧
    NoBuffer e ∧
      k < 6 ∧
        r < 16384 ∧
          ps.length = 8 ∧
            leField ps 7 7 = 0 ∧
              leField ps 1 1 = 0 ∧
                leField ps 4 5 < 512 ∧
                  leField ps 6 6 = 0 ∧
                    let free : Prop := ∀ x ∈ (s.stack k).regions, x.2.banked = true → x.2.handle ≠ leField ps 4 5;
                    g.st = RegionState.resident ∧
                      g.banked = false ∧
                        (∀ (x : Holder), (s.stack k).holder = some x → x = Holder.host) ∧
                          free ∧ enterDenied s k r Holder.host = false) :=
  ⟨⟨x0, q2, ent (o4 4) 0 0, o4 4, by (unfold HostReady NoBuffer HostTakes; (try dsimp only); repeat' apply And.intro) <;> first | decide +kernel | rfl | exact fun _ => rfl | exact fun _ => Nat.zero_le _ | (intros; decide +kernel) | (intro x h; cases h; rfl) | (intro x h; cases h) | simp⟩,
    ⟨stk id id, q2, ent (o4 4) 0 0, o4 4, by (unfold HostReady NoBuffer HostTakes; (try dsimp only); repeat' apply And.intro) <;> first | decide +kernel | rfl | exact fun _ => rfl | exact fun _ => Nat.zero_le _ | (intros; decide +kernel) | (intro x h; cases h; rfl) | (intro x h; cases h) | simp⟩,
    ⟨stk id id, q2, ent (o4 4) 0 0, o4 4, by (unfold HostReady NoBuffer HostTakes; (try dsimp only); repeat' apply And.intro) <;> first | decide +kernel | rfl | exact fun _ => rfl | exact fun _ => Nat.zero_le _ | (intros; decide +kernel) | (intro x h; cases h; rfl) | (intro x h; cases h) | simp⟩,
    ⟨stk id id, q2, ent (o4 5) 0 0, o4 5, by (unfold HostReady NoBuffer HostTakes; (try dsimp only); repeat' apply And.intro) <;> first | decide +kernel | rfl | exact fun _ => rfl | exact fun _ => Nat.zero_le _ | (intros; decide +kernel) | (intro x h; cases h; rfl) | (intro x h; cases h) | simp⟩,
    ⟨x1, q2, ent (o4 4) 0 0, o4 4, by (unfold HostReady NoBuffer HostTakes; (try dsimp only); repeat' apply And.intro) <;> first | decide +kernel | rfl | exact fun _ => rfl | exact fun _ => Nat.zero_le _ | (intros; decide +kernel) | (intro x h; cases h; rfl) | (intro x h; cases h) | simp⟩,
    ⟨x2, q2, ent (o4 4) 0 0, o4 4, 0, by (unfold HostReady NoBuffer HostTakes; (try dsimp only); repeat' apply And.intro) <;> first | decide +kernel | rfl | exact fun _ => rfl | exact fun _ => Nat.zero_le _ | (intros; decide +kernel) | (intro x h; cases h; rfl) | (intro x h; cases h) | simp⟩,
    ⟨stk id id, q2, x3, om 4 0 0, by (unfold HostReady NoBuffer HostTakes; (try dsimp only); repeat' apply And.intro) <;> first | decide +kernel | rfl | exact fun _ => rfl | exact fun _ => Nat.zero_le _ | (intros; decide +kernel) | (intro x h; cases h; rfl) | (intro x h; cases h) | simp⟩,
    ⟨stk id id, q2, x4, om 5 1 0x4000, by (unfold HostReady NoBuffer HostTakes; (try dsimp only); repeat' apply And.intro) <;> first | decide +kernel | rfl | exact fun _ => rfl | exact fun _ => Nat.zero_le _ | (intros; decide +kernel) | (intro x h; cases h; rfl) | (intro x h; cases h) | simp⟩,
    ⟨stk id id, q2, x5, om 5 0 0x4000, by (unfold HostReady NoBuffer HostTakes; (try dsimp only); repeat' apply And.intro) <;> first | decide +kernel | rfl | exact fun _ => rfl | exact fun _ => Nat.zero_le _ | (intros; decide +kernel) | (intro x h; cases h; rfl) | (intro x h; cases h) | simp⟩,
    ⟨x0, q2, x6, om 4 0 0x4000, by (unfold HostReady NoBuffer HostTakes; (try dsimp only); repeat' apply And.intro) <;> first | decide +kernel | rfl | exact fun _ => rfl | exact fun _ => Nat.zero_le _ | (intros; decide +kernel) | (intro x h; cases h; rfl) | (intro x h; cases h) | simp⟩,
    ⟨stk id id, q2, x7, be 5 6, by (unfold HostReady NoBuffer HostTakes; (try dsimp only); repeat' apply And.intro) <;> first | decide +kernel | rfl | exact fun _ => rfl | exact fun _ => Nat.zero_le _ | (intros; decide +kernel) | (intro x h; cases h; rfl) | (intro x h; cases h) | simp⟩,
    ⟨stk id id, q2, x8, om 5 0 0, 0, by (unfold HostReady NoBuffer HostTakes; (try dsimp only); repeat' apply And.intro) <;> first | decide +kernel | rfl | exact fun _ => rfl | exact fun _ => Nat.zero_le _ | (intros; decide +kernel) | (intro x h; cases h; rfl) | (intro x h; cases h) | simp⟩,
    ⟨stk id id, q2, x6, om 4 0 0x4000, by (unfold HostReady NoBuffer HostTakes; (try dsimp only); repeat' apply And.intro) <;> first | decide +kernel | rfl | exact fun _ => rfl | exact fun _ => Nat.zero_le _ | (intros; decide +kernel) | (intro x h; cases h; rfl) | (intro x h; cases h) | simp⟩,
    ⟨stk id id, q2, ent (o4 4) 0 0, o4 4, by (unfold HostReady NoBuffer HostTakes; (try dsimp only); repeat' apply And.intro) <;> first | decide +kernel | rfl | exact fun _ => rfl | exact fun _ => Nat.zero_le _ | (intros; decide +kernel) | (intro x h; cases h; rfl) | (intro x h; cases h) | simp⟩,
    ⟨two .host, q2, x9, be 4 6, by (unfold HostReady NoBuffer HostTakes; (try dsimp only); repeat' apply And.intro) <;> first | decide +kernel | rfl | exact fun _ => rfl | exact fun _ => Nat.zero_le _ | (intros; decide +kernel) | (intro x h; cases h; rfl) | (intro x h; cases h) | simp⟩,
    ⟨x1, q2, x9, be 4 6, by (unfold HostReady NoBuffer HostTakes; (try dsimp only); repeat' apply And.intro) <;> first | decide +kernel | rfl | exact fun _ => rfl | exact fun _ => Nat.zero_le _ | (intros; decide +kernel) | (intro x h; cases h; rfl) | (intro x h; cases h) | simp⟩,
    ⟨stk id id, q2, x9, be 4 6, by (unfold HostReady NoBuffer HostTakes; (try dsimp only); repeat' apply And.intro) <;> first | decide +kernel | rfl | exact fun _ => rfl | exact fun _ => Nat.zero_le _ | (intros; decide +kernel) | (intro x h; cases h; rfl) | (intro x h; cases h) | simp⟩⟩
def x10 : Machine.State := {xS with trn := []}
def x11 : Entry := ent te 0x30000 292
def x12 : Machine.State := wd {tS with jobs := []} tb
def x13 : Entry := ent [1] 0x30000 64
theorem witness_HostTraining :
    (∃ (s : Machine.State) (q : BitVec 16) (e : Entry) (ps : List Byte),
  HostReady s q e ps ∧
    NoErrors s ∧
      leField ps 0 0 < 64 ∧
        let node : ℕ := leField ps 0 0;
        ps.length = 16 ∧
          List.take 3 (List.drop 1 ps) = List.replicate 3 0 ∧ (s.jobAt node = none ∨ (s.training node).bound = false)) ∧
    (∃ (s : Machine.State) (q : BitVec 16) (e : Entry) (ps : List Byte),
  HostReady s q e ps ∧
    NoErrors s ∧
      leField ps 0 0 < 64 ∧
        let node : ℕ := leField ps 0 0;
        ps.length = 1 ∧
          HasBuffer s e 64 ∧
            let d : List Byte := s.hostBytes (BitVec.toNat e.daddr) 64;
            trReserved d = false ∧ (s.jobAt node = none ∨ (s.training node).bound = true ∨ trFields d = false)) ∧
    (∃ (s : Machine.State) (q : BitVec 16) (e : Entry) (ps : List Byte) (j : Job),
  HostReady s q e ps ∧
    NoErrors s ∧
      leField ps 0 0 < 64 ∧
        let node : ℕ := leField ps 0 0;
        ps.length = 1 ∧
          HasBuffer s e 64 ∧
            let d : List Byte := s.hostBytes (BitVec.toNat e.daddr) 64;
            trReserved d = false ∧
              s.jobAt node = some j ∧
                j.phase = JobPhase.running ∧
                  (s.training node).bound = false ∧
                    trFields d = true ∧
                      resultOk j (leField d 16 23) = true ∧
                        windowOk s j d = true ∧
                          let lc : ℕ := leField d 24 27 % 1024;
                          let n : ℕ := leField d 24 27 / 65536 % 256;
                          (s.core lc).gate (leField d 24 27 / 1024 % 64) + n ≤ 16777215) ∧
    (∃ (s : Machine.State) (q : BitVec 16) (e : Entry) (ps : List Byte) (j : Job),
  HostReady s q e ps ∧
    NoErrors s ∧
      leField ps 0 0 < 64 ∧
        let node : ℕ := leField ps 0 0;
        ps.length = 16 ∧
          List.take 3 (List.drop 1 ps) = List.replicate 3 0 ∧
            let map : ℕ := leField ps 8 15;
            s.jobAt node = some j ∧
              (s.training node).bound = true ∧
                leField ps 4 7 = 1 ∧
                  s.hostFails map 192 = false ∧
                    let h : List Byte := s.hostBytes map 192;
                    let n : ℕ := leField h 24 31;
                    let da : ℕ := leField h 128 135;
                    mapReserved h = false ∧
                      mapOk j h = true ∧
                        192 + n ≤ BitVec.toNat e.dlen ∧
                          exportAccess s da n = OrgAccess.serve ∧ s.hostFails (BitVec.toNat e.daddr) (192 + n) = false) :=
  ⟨⟨x10, q2, x11, te, by (unfold HostReady HostTakes; (try dsimp only); repeat' apply And.intro) <;> first | decide +kernel | rfl | exact fun _ => rfl | exact fun _ => Nat.zero_le _ | (intros; decide +kernel) | (intro x h; cases h; rfl) | (intro x h; cases h) | simp⟩,
    ⟨x12, q2, x13, [1], by (unfold HostReady HasBuffer HostTakes; (try dsimp only); repeat' apply And.intro) <;> first | decide +kernel | rfl | exact fun _ => rfl | exact fun _ => Nat.zero_le _ | (intros; decide +kernel) | (intro x h; cases h; rfl) | (intro x h; cases h) | simp⟩,
    ⟨wd tS tb, q2, x13, [1], jt, by (unfold HostReady HasBuffer HostTakes; (try dsimp only); repeat' apply And.intro) <;> first | decide +kernel | rfl | exact fun _ => rfl | exact fun _ => Nat.zero_le _ | (intros; decide +kernel) | (intro x h; cases h; rfl) | (intro x h; cases h) | simp⟩,
    ⟨xS, q2, x11, te, jt, by (unfold HostReady HostTakes; (try dsimp only); repeat' apply And.intro) <;> first | decide +kernel | rfl | exact fun _ => rfl | exact fun _ => Nat.zero_le _ | (intros; decide +kernel) | (intro x h; cases h; rfl) | (intro x h; cases h) | simp⟩⟩

end WK2

namespace WL2

def hstC : State := { hst with mem := { hst.mem with flaws := [], byteFlaws := [], merges := [] }, ptn := [(1, { mask := 1, parent := 0, valid := true })] }
def gs (f : SitePower → SitePower) : State := { hstC with jobs := [], pwr := { hstC.pwr with sites := (List.range 20).map (fun i => (i, f { SitePower.init with dom := .on, canopy := .full })) } }
def idl (s : State) : State := { s with ticks := 1600 * 100000000 }


def pr : PermitReq := { site := 5, canopy := false, waits := true, slow := false }
def zs (s : State) (z : Zone) : State := { s with pwr := { s.pwr with zones := [(0, z), (1,z)] } }

def lp : PowerLoop := { PowerLoop.init with cap := 1000, last := 900, samples := [(3, 1000), (9990, 1000)], p := 5 }
def ls (n : Nat) (f : PowerLoop → PowerLoop) : State := { hstC with pwr := { hstC.pwr with part := if n = 0 then f lp else hstC.pwr.part, nodes := if n = 0 then [] else [(n, f lp)] } }
def x0 : Machine.State := zs hstC { Zone.init with free := 0, waiting := [pr] }
def x1 : Machine.State := zs hstC { Zone.init with waiting := [pr] }
def x2 : Machine.State := gs (fun p => {p with dom := .gated})
def x3 : Machine.State := zs hstC { Zone.init with granted := [pr] }
theorem witness_GatingAndPermits :
    (∃ (s : Machine.State) (k : Fin 8) (r : PermitReq) (rest : List PermitReq),
  let z : Zone := s.zone ↑k;
  z.waiting = r :: rest ∧ z.free = 0) ∧
    (∃ (s : Machine.State) (k : Fin 8) (r : PermitReq) (rest : List PermitReq),
  let z : Zone := s.zone ↑k;
  z.waiting = r :: rest ∧ 0 < z.free) ∧
    (∃ (s : Machine.State) (i : Site),
  let p : SitePower := s.sitePwr ↑i;
  p.dom = DomState.gated ∧ p.canopy = CanopyState.full ∧ p.canopyDue ≤ s.us) ∧
    (∃ (s : Machine.State) (i : Site) (r : PermitReq),
  let z : ℕ := zoneOf ↑i;
  (s.zone z).granted = [r] ∧ r.site = ↑i ∧ r.canopy = false ∧ r.waits = true ∧ r.slow = false) ∧
    (∃ (s : Machine.State) (lc : Lc) (i : ℕ), s.siteOf ↑lc = some i ∧ s.mem.merges = [] ∧ (s.sitePwr i).dom = DomState.on ∧ s.jobOf ↑lc = none ∧ (s.sitePwr i).idleSince + 1000 * s.gateIdleMs ≤ s.us) ∧
    (∃ (s : Machine.State) (lc : Lc) (i : ℕ), s.siteOf ↑lc = some i ∧ s.mem.merges = [] ∧ ((s.sitePwr i).dom ≠ DomState.on ∨ (s.jobOf ↑lc).isSome = true ∨ s.us < (s.sitePwr i).idleSince + 1000 * s.gateIdleMs)) :=
  ⟨⟨x0, 1, pr, [], by decide +kernel⟩,
    ⟨x1, 1, pr, [], by decide +kernel⟩,
    ⟨x2, 5, by decide +kernel⟩,
    ⟨x3, 5, pr, by decide +kernel⟩,
    ⟨idl (gs id), 5, 5, by decide +kernel⟩,
    ⟨x2, 5, 5, by decide +kernel⟩⟩
def x4 : Machine.State := { hstC with pwr := { hstC.pwr with noFreq := true } }
def x5 : Machine.State := idl (ls 0 (fun l => {l with highSince := 5}))
def x6 : Machine.State := idl (ls 0 (fun l => {l with calmSince := 5}))
theorem witness_DroopAndCapping :
    (∃ (s : Machine.State), s.pwr.noFreq = true) ∧
    (∃ (s : Machine.State) (r : Fin 5), (s.clk ↑r).locked = true) ∧
    (∃ (s : Machine.State),
  s.pwr.noFreq = false ∧
    let l : PowerLoop := s.pwr.part;
    l.highSince ≠ 0 ∧ l.highSince - 1 + 1000 ≤ s.us) ∧
    (∃ (s : Machine.State),
  s.pwr.noFreq = false ∧
    let l : PowerLoop := s.pwr.part;
    l.highSince = 0 ∧ l.calmSince ≠ 0 ∧ l.calmSince - 1 + 10000 ≤ s.us) ∧
    (∃ (s : Machine.State) (n : Fin 64),
  let l : PowerLoop := s.loopOf ↑n;
  l.cap ≠ 0 ∧ s.nodeValid ↑n = true ∧ l.hard = false ∧ s.pwr.alert = false ∧ (↑n = 0 → s.pwr.order = 0)) :=
  ⟨⟨x4, by decide +kernel⟩,
    ⟨ls 0 id, 0, by decide +kernel⟩,
    ⟨x5, by decide +kernel⟩,
    ⟨x6, by decide +kernel⟩,
    ⟨ls 0 id, 0, by decide +kernel⟩⟩

end WL2

namespace WM

def hstC : State := { hst with mem := { hst.mem with flaws := [], byteFlaws := [], merges := [] }, ptn := [(1, { mask := 1, parent := 0, valid := true })] }
def bs (f : Boot → Boot) : State := { hstC with boot := f hstC.boot }
def x0 : Machine.State := {bs (fun b => {b with ready := false, phase := 2}) with hif := {hst.hif with linkUp := false}}
def x1 : Machine.State := bs (fun b => {b with vinAux := false})
def x2 : Machine.State := bs (fun b => {b with railLost := true})
def x3 : Machine.State := bs (fun b => {b with clockLost := true})
theorem witness_RailsAndResets :
    (∃ (s : Machine.State), s.hif.linkUp = true) ∧
    (∃ (s : Machine.State), s.hif.linkUp = false) ∧
    (∃ (s : Machine.State), s.boot.vinAux = false) ∧
    (∃ (s : Machine.State), s.boot.perst = true ∨ s.thm.tripped = true) ∧
    (∃ (s : Machine.State), s.down = true ∨ s.boot.phase ≤ 2 ∧ s.boot.ready = false) ∧
    (∃ (s : Machine.State), s.down = false ∧ (2 < s.boot.phase ∨ s.boot.ready = true)) ∧
    (∃ (s : Machine.State), s.boot.railLost = true ∧ s.boot.clockLost = false ∧ s.thm.tripped = false ∧ s.boot.vinAux = true) ∧
    (∃ (s : Machine.State), s.boot.clockLost = true ∧ s.boot.railLost = false ∧ s.thm.tripped = false ∧ s.boot.vinAux = true) ∧
    (∃ (s : Machine.State), s.boot.kiosk = true ∧ s.down = false ∧ (3 < s.boot.phase ∨ s.boot.ready = true ∨ s.boot.fatal = true)) :=
  ⟨⟨bs id, by decide +kernel⟩,
    ⟨x0, by decide +kernel⟩,
    ⟨x1, by decide +kernel⟩,
    ⟨bs id, by decide +kernel⟩,
    ⟨x1, by decide +kernel⟩,
    ⟨bs id, by decide +kernel⟩,
    ⟨x2, by decide +kernel⟩,
    ⟨x3, by decide +kernel⟩,
    ⟨bs id, by decide +kernel⟩⟩

end WM

end Sys2Proof.Tests
end

section
/-! PROOFS. Seam retunes before calibration, and the obligation on clocks, Seams and memory. -/

namespace Sys2Proof.Machine

/-- A retune asked for before Seam calibration is discarded: calibration supersedes it (R44). -/
theorem askRetune_of_not_seamsTuned {s : State} (h : s.seamsTuned = false) (seam pos : Nat) :
    askRetune s seam pos = s := by
  simp [askRetune, h]

/-- The part in step 5 of bring-up: its PLLs are locked and its Seams are not yet calibrated (R456, R537). -/
def calibrationPending : State :=
  { State.reset with
    boot := { Boot.init with phase := 5 }
    regions := [(0, { ClockRegion.init with locked := true })] }

theorem seamMarginLow_calibrationPending (seam : Fin 15) (pos : Fin 220) :
    exec (.seamMarginLow seam pos) calibrationPending = .next calibrationPending :=
  congrArg Host.Outcome.next (askRetune_of_not_seamsTuned (s := calibrationPending) (by decide) seam pos)

/-- Refutes O21: with its PLLs locked and its Seams not calibrated, the part discards the retune that a low margin asks for (R44). -/
theorem not_clocksSeamsMemory : ¬ Obligations.ClocksSeamsMemory := by
  rintro ⟨⟨-, hSeams⟩, -⟩
  obtain ⟨hMargin, -⟩ := hSeams calibrationPending 0 0 0 0 false false 0 0
  obtain ⟨hStarts, -⟩ := hMargin (by decide) (by decide) (by decide) (by decide)
  obtain ⟨t, hExec, -, hBundle, -⟩ := hStarts (by decide)
  rw [seamMarginLow_calibrationPending] at hExec
  cases hExec
  exact absurd hBundle (by decide)
end Sys2Proof.Machine
end

section
/-! SUPPORT. Folds over the part, and what reports and the clearing of memory leave alone. -/

namespace Sys2Proof.Machine

/-! ## Folds over the part -/

/-- What every step of a fold leaves alone, the fold leaves alone. -/
theorem foldl_keeps {σ ι γ : Type} (π : σ → γ) {f : σ → ι → σ} (hf : ∀ s i, π (f s i) = π s) (l : List ι) (s : σ) :
    π (l.foldl f s) = π s :=
  List.foldlRecOn (motive := fun t : σ => π t = π s) l f rfl (fun t ht i _ => (hf t i).trans ht)

section Folds

variable {σ ι β : Type} {read : σ → Nat → β} {key : ι → Nat} {new : ι → β → β} {f : σ → ι → σ}

/-- A fold that changes the entry of each key leaves an entry that no key names. -/
theorem foldl_update_other (hf : ∀ s i k, read (f s i) k = if k = key i then new i (read s k) else read s k)
    {l : List ι} {k : Nat} (hk : ∀ i ∈ l, k ≠ key i) (s : σ) : read (l.foldl f s) k = read s k := by
  induction l generalizing s with
  | nil => rfl
  | cons i l ih =>
    rw [List.foldl_cons, ih (fun j hj => hk j (List.mem_cons_of_mem i hj)), hf, if_neg (hk i List.mem_cons_self)]

/-- A fold that changes the entry of each of several different keys changes each entry once. -/
theorem foldl_update_mem (hf : ∀ s i k, read (f s i) k = if k = key i then new i (read s k) else read s k)
    {l : List ι} (hl : (l.map key).Nodup) {i : ι} (hi : i ∈ l) (s : σ) :
    read (l.foldl f s) (key i) = new i (read s (key i)) := by
  induction l generalizing s with
  | nil => cases hi
  | cons j l ih =>
    obtain ⟨hj, hl⟩ := List.nodup_cons.mp hl
    rw [List.foldl_cons]
    rcases List.mem_cons.mp hi with rfl | hi
    · rw [foldl_update_other hf (fun k hk he => hj (List.mem_map.mpr ⟨k, hk, he.symm⟩)), hf, if_pos rfl]
    · have hne : key i ≠ key j := fun he => hj (he ▸ List.mem_map_of_mem hi)
      rw [ih hl hi, hf, if_neg hne]

/-- The fold over the numbers below `n`. -/
theorem foldl_update_range {new : Nat → β → β} {f : σ → Nat → σ}
    (hf : ∀ s i k, read (f s i) k = if k = i then new i (read s k) else read s k) {n i : Nat} (hi : i < n) (s : σ) :
    read ((List.range n).foldl f s) i = new i (read s i) :=
  foldl_update_mem (key := id) hf (by simpa using List.nodup_range) (List.mem_range.mpr hi) s

/-- A fold that sets the flag of each key sets the flags of its keys, and no other. -/
theorem foldl_flag {flag : σ → Nat → Bool} (hf : ∀ s i k, flag (f s i) k = (flag s k || decide (k = key i)))
    (l : List ι) (s : σ) (k : Nat) : flag (l.foldl f s) k = (flag s k || l.any (fun i => decide (k = key i))) := by
  induction l generalizing s with
  | nil => simp
  | cons i l ih => rw [List.foldl_cons, ih, hf, List.any_cons, Bool.or_assoc]

end Folds

/-! ## What a report changes -/

/-- Only what reports write differs: the events, the board controller path and the notification log. -/
def Reported (s t : State) : Prop := ∃ ev ks ns, t = { s with events := ev, ksk := ks, notes := ns }

theorem Reported.refl (s : State) : Reported s s := ⟨s.events, s.ksk, s.notes, rfl⟩

theorem Reported.trans {s t u : State} (h : Reported s t) (h' : Reported t u) : Reported s u := by
  obtain ⟨ev, ks, ns, rfl⟩ := h
  obtain ⟨ev', ks', ns', rfl⟩ := h'
  exact ⟨ev', ks', ns', rfl⟩

theorem Reported.foldl {ι : Type} {f : State → ι → State} (hf : ∀ s i, Reported s (f s i)) (l : List ι) (s : State) :
    Reported s (l.foldl f s) :=
  List.foldlRecOn l f (.refl s) (fun _ h i _ => h.trans (hf _ i))

theorem keepEvents_reported (s : State) : Reported s (keepEvents s) := by
  unfold keepEvents
  dsimp only
  split
  · exact .refl s
  · exact ⟨_, _, s.notes, rfl⟩

theorem queueEvent_reported (s : State) (e : PldmEvent) : Reported s (queueEvent s e) := by
  unfold queueEvent
  split
  · exact ⟨_, _, s.notes, rfl⟩
  · exact Reported.trans ⟨_, s.ksk, s.notes, rfl⟩ (keepEvents_reported _)

theorem notify_reported (s : State) (cls : Nat) (p : List Byte) : Reported s (notify s cls p) := ⟨s.events, s.ksk, _, rfl⟩

theorem healthEvent_reported (s : State) (cls sub : Nat) (p : List Byte) : Reported s (healthEvent s cls sub p) :=
  (Reported.trans ⟨_, s.ksk, s.notes, rfl⟩ (queueEvent_reported _ _)).trans (notify_reported _ _ _)

theorem healthEventLimited_reported (s : State) (cls sub subject limit : Nat) (p : List Byte) :
    Reported s (healthEventLimited s cls sub subject limit p) := by
  unfold healthEventLimited
  dsimp only
  split
  · exact ⟨_, s.ksk, s.notes, rfl⟩
  · exact Reported.trans ⟨_, s.ksk, s.notes, rfl⟩ (healthEvent_reported _ _ _ _)

theorem bootEvent_reported (s : State) (sub : Nat) : Reported s (bootEvent s sub) := healthEvent_reported _ _ _ _

theorem siteEvent_reported (s : State) (sub site cl : Nat) : Reported s (siteEvent s sub site cl) := healthEvent_reported _ _ _ _

theorem thermEvent_reported (s : State) (sub subject limit point code region ratio : Nat) :
    Reported s (thermEvent s sub subject limit point code region ratio) := healthEventLimited_reported _ _ _ _ _ _

/-! ## What a clear of memory without open entries changes -/

/-- Only memory and what reports write differ, and the open entries are as before. -/
def Upkept (s t : State) : Prop :=
  t.mem.merges = s.mem.merges ∧ ∃ m ev ks ns, t = { s with mem := m, events := ev, ksk := ks, notes := ns }

theorem Upkept.of_mem {s : State} {m : MemState} (h : m.merges = s.mem.merges) : Upkept s { s with mem := m } :=
  ⟨h, m, s.events, s.ksk, s.notes, rfl⟩

theorem Upkept.refl (s : State) : Upkept s s := .of_mem rfl

theorem Reported.upkept {s t : State} (h : Reported s t) : Upkept s t := by
  obtain ⟨ev, ks, ns, rfl⟩ := h
  exact ⟨rfl, s.mem, ev, ks, ns, rfl⟩

theorem Upkept.trans {s t u : State} (h : Upkept s t) (h' : Upkept t u) : Upkept s u := by
  obtain ⟨hm, m, ev, ks, ns, rfl⟩ := h
  obtain ⟨hm', m', ev', ks', ns', rfl⟩ := h'
  exact ⟨hm'.trans hm, m', ev', ks', ns', rfl⟩

theorem Upkept.foldl {ι : Type} {f : State → ι → State} (hf : ∀ s i, Upkept s (f s i)) (l : List ι) (s : State) :
    Upkept s (l.foldl f s) :=
  List.foldlRecOn l f (.refl s) (fun _ h i _ => h.trans (hf _ i))

theorem modErr_upkept (s : State) (site : Option Nat) (f : ErrBlock → ErrBlock) : Upkept s (s.modErr site f) := by
  cases site with
  | none => exact .refl s
  | some i => exact .of_mem rfl

theorem logAdd_upkept (s : State) (corrected : Bool) (entry : List Byte) : Upkept s (logAdd s corrected entry) := by
  unfold logAdd
  dsimp only
  split
  · exact .of_mem rfl
  · exact .of_mem rfl

theorem logError_upkept (s : State) (da cls req pos pattern flags : Nat) (lc : Option Nat) (syn : Nat) :
    Upkept s (logError s da cls req pos pattern flags lc syn) := by
  have hAdd := logAdd_upkept s false
  unfold logError
  dsimp only
  split
  · split
    · exact .refl s
    · exact Upkept.trans (.of_mem rfl) (logAdd_upkept _ _ _)
  · split
    · exact ((hAdd _).trans (notify_reported _ _ _).upkept).trans (healthEvent_reported _ _ _ _).upkept
    · split
      · exact (hAdd _).trans (healthEventLimited_reported _ _ _ _ _ _).upkept
      · split
        · exact (hAdd _).trans (healthEvent_reported _ _ _ _).upkept
        · exact hAdd _

theorem setValid_upkept (s : State) (l : Nat) : Upkept s (setValid s l) := by
  unfold setValid
  split
  · exact .refl s
  · exact .of_mem rfl

theorem cancelBacks_upkept (s : State) (lo hi : Nat) : Upkept s (cancelBacks s lo hi) :=
  Upkept.trans (.of_mem rfl) (Upkept.foldl (fun _ _ => modErr_upkept _ _ _) _ _)

theorem poisonDram_upkept (s : State) (w : Nat) : Upkept s (poisonDram s w) :=
  ((setValid_upkept _ _).trans (cancelBacks_upkept _ _ _)).trans (.of_mem rfl)

theorem poisonSram_upkept (s : State) (a : Nat) : Upkept s (poisonSram s a) :=
  ((setValid_upkept _ _).trans (cancelBacks_upkept _ _ _)).trans (.of_mem rfl)

theorem poisonLines_upkept (s : State) (l n : Nat) : Upkept s (poisonLines s l n) := by
  unfold poisonLines
  split
  · exact .foldl (fun _ _ => poisonDram_upkept _ _) _ _
  · exact .foldl (fun _ _ => poisonSram_upkept _ _) _ _

theorem checkMap_upkept (s : State) (req : Nat) (lc : Option Nat) (l : Nat) : Upkept s (checkMap s req lc l) := by
  have hRead : Upkept s { s with mem := { s.mem with mapFlaws := Tbl.erase s.mem.mapFlaws l } } := .of_mem rfl
  unfold checkMap
  dsimp only
  split
  · exact hRead
  · exact hRead.trans (logError_upkept _ _ _ _ _ _ _ _ _)
  · exact (hRead.trans (poisonLines_upkept _ _ _)).trans (logError_upkept _ _ _ _ _ _ _ _ _)

theorem checkMaps_upkept (s : State) (req : Nat) (lc : Option Nat) (lo hi : Nat) : Upkept s (checkMaps s req lc lo hi) :=
  .foldl (fun _ _ => checkMap_upkept _ _ _ _) _ _

/-- Without open entries there is nothing to close. -/
theorem closeWhere_of_no_merges {s : State} (h : s.mem.merges = []) (p : MergeEntry → Bool) : closeWhere s p = s := by
  rw [closeWhere, h, List.filter_nil, List.foldl_nil]

theorem clearLines_upkept {s : State} (h : s.mem.merges = []) (lo hi : Nat) : Upkept s (clearLines s lo hi) := by
  have hMaps := checkMaps_upkept s 0xFF none lo hi
  unfold clearLines
  rw [closeWhere_of_no_merges (hMaps.1.trans h)]
  exact (hMaps.trans (cancelBacks_upkept _ _ _)).trans (.of_mem rfl)

theorem clearUnit_upkept {s : State} (h : s.mem.merges = []) (space unit : Nat) : Upkept s (clearUnit s space unit) :=
  clearLines_upkept h _ _

end Sys2Proof.Machine
end

section
/-! SUPPORT. Reads of the part after updates, and how a step of bring-up ends or stops it. -/

namespace Sys2Proof.Machine

/-! ## Reads after updates -/

theorem State.site_modSite (s : State) (i k : Nat) (f : SiteRec → SiteRec) :
    (s.modSite i f).site k = if k = i then f (s.site k) else s.site k := by
  rw [State.modSite, State.site, Tbl.get_modify]
  split
  · next h => rw [h]; rfl
  · rfl

theorem State.site_congr {s t : State} (h : t.sites = s.sites) (i : Nat) : t.site i = s.site i := by
  rw [State.site, State.site, h]

theorem State.bundle_congr {s t : State} (h : t.bundles = s.bundles) (k : Nat) : t.bundle k = s.bundle k := by
  rw [State.bundle, State.bundle, h]

theorem State.clk_congr {s t : State} (h : t.regions = s.regions) (r : Nat) : t.clk r = s.clk r := by
  rw [State.clk, State.clk, h]

@[simp] theorem endStep_site (s : State) (n i : Nat) : (endStep s n).site i = s.site i := rfl
@[simp] theorem endStep_bundle (s : State) (n k : Nat) : (endStep s n).bundle k = s.bundle k := rfl
@[simp] theorem endStep_stack (s : State) (n k : Nat) : (endStep s n).stack k = s.stack k := rfl
@[simp] theorem endStep_tr (s : State) (n : Nat) : (endStep s n).tr = s.tr := rfl

theorem State.clk_modClk (s : State) (r k : Nat) (f : ClockRegion → ClockRegion) :
    (s.modClk r f).clk k = if k = r then f (s.clk k) else s.clk k := by
  rw [State.modClk, State.clk, Tbl.get_modify]
  split
  · next h => rw [h]; rfl
  · rfl

theorem State.stack_modStack (s : State) (r k : Nat) (f : Stack → Stack) :
    (s.modStack r f).stack k = if k = r then f (s.stack k) else s.stack k := by
  rw [State.modStack, State.stack, Tbl.get_modify]
  split
  · next h => rw [h]; rfl
  · rfl

theorem State.bundle_modBundle (s : State) (r k : Nat) (f : Bundle → Bundle) :
    (s.modBundle r f).bundle k = if k = r then f (s.bundle k) else s.bundle k := by
  rw [State.modBundle, State.bundle, Tbl.get_modify]
  split
  · next h => rw [h]; rfl
  · rfl

theorem State.cuff_modCuff (s : State) (r k : Nat) (f : Cuff → Cuff) :
    (s.modCuff r f).cuff k = if k = r then f (s.cuff k) else s.cuff k := by
  rw [State.modCuff, State.cuff, Tbl.get_modify]
  split
  · next h => rw [h]; rfl
  · rfl

theorem State.sitePwr_modSitePwr (s : State) (i k : Nat) (f : SitePower → SitePower) :
    (s.modSitePwr i f).sitePwr k = if k = i then f (s.sitePwr k) else s.sitePwr k := by
  rw [State.modSitePwr, State.sitePwr, Tbl.get_modify]
  split
  · next h => rw [h]; rfl
  · rfl

/-- Every value of a table is the default or one of its entries. -/
theorem Tbl.get_of_forall {α : Type} {p : α → Prop} {d : α} (hd : p d) {t : Tbl α} (ht : ∀ e ∈ t, p e.2) (k : Nat) : p (Tbl.get d t k) := by
  induction t with
  | nil => exact hd
  | cons e t ih =>
    rw [Tbl.get]
    split
    · exact ht e List.mem_cons_self
    · exact ih (fun e he => ht e (List.mem_cons_of_mem _ he))

/-! ## Steps that end and steps that stop bring-up (R456, R471) -/

theorem State.inStep_iff {s : State} {n : Nat} :
    s.inStep n = true ↔ s.boot.phase = n ∧ s.boot.fatal = false ∧ s.boot.ready = false ∧ s.down = false := by
  simp [State.inStep, and_assoc]

/-- The time and the fields of bring-up that the end of a step rests on are the same. -/
def SameStep (s u : State) : Prop :=
  u.ticks = s.ticks ∧ u.boot.since = s.boot.since ∧ u.boot.fatal = s.boot.fatal ∧ u.boot.ready = s.boot.ready ∧ u.boot.fail = s.boot.fail

theorem SameStep.of_boot {s u : State} (hBoot : u.boot = s.boot) (hTicks : u.ticks = s.ticks) : SameStep s u := by
  rw [SameStep, hBoot]
  exact ⟨hTicks, rfl, rfl, rfl, rfl⟩

theorem SameStep.trans {s t u : State} (h : SameStep s t) (h' : SameStep t u) : SameStep s u := by
  obtain ⟨hTicks, hSince, hFatal, hReady, hFail⟩ := h
  obtain ⟨hTicks', hSince', hFatal', hReady', hFail'⟩ := h'
  exact ⟨hTicks'.trans hTicks, hSince'.trans hSince, hFatal'.trans hFatal, hReady'.trans hReady, hFail'.trans hFail⟩

/-- A step whose work leaves these fields alone ends as Table 16.1 has it. -/
theorem SameStep.ends {s u : State} {n : Nat} (h : SameStep s u) (hs : s.inStep n = true) : StepEnded s (endStep u n) n := by
  obtain ⟨hTicks, hSince, hFatal, hReady, hFail⟩ := h
  obtain ⟨-, hf, hr, -⟩ := State.inStep_iff.mp hs
  refine ⟨rfl, hTicks, ?_, hFatal.trans hf, hReady.trans hr, hFail⟩
  rw [endStep, Tbl.get_set_same, hTicks, hSince]

/-- The end of a step speaks of the fields of bring-up alone. -/
theorem StepEnded.congr {s t t' : State} {n : Nat} (h : StepEnded s t n) (hBoot : t'.boot = t.boot) : StepEnded s t' n := by
  rw [StepEnded, hBoot]
  exact h

theorem bootFatal_stepFailed (s : State) (fail : Nat) : StepFailed (bootFatal s fail) fail := by
  obtain ⟨ev, ks, ns, h⟩ := bootEvent_reported { s with
    boot := { s.boot with fatal := true, fail := fail }
    pwr := { s.pwr with sites := s.pwr.sites.map (fun e => (e.1, { e.2 with dom := .gated })) } } 1
  rw [bootFatal, h]
  refine ⟨rfl, rfl, fun i => Tbl.get_of_forall (p := fun x : SitePower => x.dom = .gated) rfl ?_ i⟩
  rintro _ he
  obtain ⟨x, -, rfl⟩ := List.mem_map.mp he
  rfl

end Sys2Proof.Machine
end

section
/-! PROOFS. Steps 1 to 4 of bring-up. -/

namespace Sys2Proof.Machine

/-! ## Steps 1 to 4 -/

theorem auxStart_ends {s : State} (hAux : s.boot.vinAux = true) (hPhase : s.boot.phase ≤ 1) (hKiosk : s.boot.kiosk = false)
    (hReady : s.boot.ready = false) (hFatal : s.boot.fatal = false) :
    ∃ t, exec .auxStart s = .next t ∧ t = { s with boot := t.boot } ∧ StepEnded s t 1 ∧ t.boot.kiosk = true := by
  have hGo : (s.boot.vinAux && s.boot.phase ≤ 1 && !s.boot.kiosk && !s.boot.ready) = true := by simp [hAux, hPhase, hKiosk, hReady]
  exact ⟨_, if_pos hGo, rfl, ⟨rfl, rfl, Tbl.get_set_same _ _ _ _, hFatal, hReady, rfl⟩, rfl⟩

/-- The self-test has passed: step 2 ends, with the sequence number after that of a boot record that was read, else 1 (R471, R473). -/
theorem kioskBoot_ends {s : State} (hs : s.inStep 2 = true) (hPerst : s.boot.perst = false) (hDog : s.boot.dogFatal = false) (copy : Bool) :
    ∃ t, exec (.kioskBoot true copy) s = .next t ∧ t = { s with boot := t.boot } ∧ StepEnded s t 2 ∧
      t.boot.seq = ((if copy then s.flash.boot else none).map (·.seq + 1)).getD 1 := by
  have hSeq : ∀ o : Option BootRecord, (match o with
      | some r => r.seq + 1
      | none => 1) = (o.map (·.seq + 1)).getD 1 := fun o => by cases o <;> rfl
  change ∃ t, execKioskBoot true copy s = .next t ∧ _
  simp only [execKioskBoot, hs, hPerst, hDog, Bool.not_true, Bool.or_self, Bool.false_eq_true, if_false]
  exact ⟨_, rfl, rfl, SameStep.ends ⟨rfl, rfl, rfl, rfl, rfl⟩ hs, hSeq _⟩

theorem kioskBoot_fails {s : State} (hs : s.inStep 2 = true) (hPerst : s.boot.perst = false) (copy : Bool) :
    ∃ t, exec (.kioskBoot false copy) s = .next t ∧ StepFailed t 5 := by
  change ∃ t, execKioskBoot false copy s = .next t ∧ _
  simp only [execKioskBoot, hs, hPerst, Bool.not_true, Bool.not_false, Bool.or_self, Bool.true_or, Bool.false_eq_true, if_false, if_true]
  exact ⟨_, rfl, bootFatal_stepFailed _ 5⟩

/-- The bank that runs is B where B verifies and A does not or is older, else A where A verifies (R458). -/
theorem FwComp.pick_eq (x : FwComp) (okA okB : Bool) :
    x.pick okA okB = if okB && x.b.isSome then some (if okA && x.a.isSome then x.bNewer else true)
      else if okA && x.a.isSome then some false else none := by
  unfold FwComp.pick
  cases okA && x.a.isSome <;> cases okB && x.b.isSome <;> rfl

theorem FwComp.pick_eq_none {x : FwComp} {okA okB : Bool} :
    x.pick okA okB = none ↔ (okA = false ∨ x.a = none) ∧ (okB = false ∨ x.b = none) := by
  rw [FwComp.pick_eq]
  cases okA <;> cases okB <;> cases x.a <;> cases x.b <;> simp


theorem firmwareCheck_ends {s : State} (hs : s.inStep 3 = true) {a b : BitVec 3}
    (hOk : ∀ c : Nat, c < 3 → (a.getLsbD c = true ∧ (s.fw (c + 1)).a.isSome = true) ∨ (b.getLsbD c = true ∧ (s.fw (c + 1)).b.isSome = true)) :
    ∃ t, exec (.firmwareCheck a b) s = .next t ∧ StepEnded s t 3 ∧ ∀ c : Nat, c < 3 → let x := s.fw (c + 1)
      Tbl.get false t.boot.banks c =
        (if b.getLsbD c = true ∧ x.b.isSome = true then (if a.getLsbD c = true ∧ x.a.isSome = true then x.bNewer else true) else false) := by
  have hPick : ∀ c : Nat, c < 3 → (s.fw (c + 1)).pick (a.getLsbD c) (b.getLsbD c) =
      some (if b.getLsbD c = true ∧ (s.fw (c + 1)).b.isSome = true then
        (if a.getLsbD c = true ∧ (s.fw (c + 1)).a.isSome = true then (s.fw (c + 1)).bNewer else true) else false) := by
    intro c hc
    rw [FwComp.pick_eq]
    rcases hOk c hc with h | h
    · simp only [Bool.and_eq_true, h, and_self, if_true]
      split <;> rfl
    · simp only [Bool.and_eq_true, h, and_self, if_true]
  change ∃ t, execFirmwareCheck a b s = .next t ∧ _
  simp only [execFirmwareCheck, hs, Bool.not_true, Bool.false_eq_true, if_false, hPick 0 (by decide), hPick 1 (by decide), hPick 2 (by decide)]
  refine ⟨_, rfl, SameStep.ends ⟨rfl, rfl, rfl, rfl, rfl⟩ hs, fun c hc => ?_⟩
  change Tbl.get false (Tbl.set false (Tbl.set false (Tbl.set false [] 0 _) 1 _) 2 _) c = _
  simp only [Tbl.get_set]
  match c, hc with
  | 0, _ => rfl
  | 1, _ => rfl
  | 2, _ => rfl

/-- The first component without a bank that verifies stops bring-up with its number (R458, Table 16.4). -/
theorem firmwareCheck_fails {s : State} (hs : s.inStep 3 = true) {a b : BitVec 3} {c : Nat} (hc : c < 3)
    (hOk : ∀ k : Nat, k < c → a.getLsbD k = true ∧ (s.fw (k + 1)).a.isSome = true)
    (hA : a.getLsbD c = false ∨ (s.fw (c + 1)).a = none) (hB : b.getLsbD c = false ∨ (s.fw (c + 1)).b = none) :
    ∃ t, exec (.firmwareCheck a b) s = .next t ∧ StepFailed t (c + 1) := by
  have hNone : (s.fw (c + 1)).pick (a.getLsbD c) (b.getLsbD c) = none := FwComp.pick_eq_none.mpr ⟨hA, hB⟩
  have hSome : ∀ k : Nat, k < c → ∃ v, (s.fw (k + 1)).pick (a.getLsbD k) (b.getLsbD k) = some v := by
    intro k hk
    refine Option.ne_none_iff_exists'.mp fun h => ?_
    obtain ⟨hBit, hBank⟩ := hOk k hk
    rcases (FwComp.pick_eq_none.mp h).1 with h | h
    · exact absurd (h.symm.trans hBit) (by decide)
    · rw [h] at hBank
      exact absurd hBank (by decide)
  change ∃ t, execFirmwareCheck a b s = .next t ∧ _
  simp only [execFirmwareCheck, hs, Bool.not_true, Bool.false_eq_true, if_false]
  match c, hc with
  | 0, _ =>
    simp only [hNone]
    exact ⟨_, rfl, bootFatal_stepFailed _ 1⟩
  | 1, _ =>
    obtain ⟨v, hv⟩ := hSome 0 (by decide)
    simp only [hv, hNone]
    exact ⟨_, rfl, bootFatal_stepFailed _ 2⟩
  | 2, _ =>
    obtain ⟨v, hv⟩ := hSome 0 (by decide)
    obtain ⟨w, hw⟩ := hSome 1 (by decide)
    simp only [hv, hw, hNone]
    exact ⟨_, rfl, bootFatal_stepFailed _ 3⟩

theorem loadSites_boot (s : State) (m : FuseMap) (age : Nat → Option Nat) : (loadSites s m age).boot = s.boot :=
  foldl_keeps State.boot (fun _ _ => by rfl) _ s

theorem loadSites_ticks (s : State) (m : FuseMap) (age : Nat → Option Nat) : (loadSites s m age).ticks = s.ticks :=
  foldl_keeps State.ticks (fun _ _ => by rfl) _ s

theorem loadSites_cores (s : State) (m : FuseMap) (age : Nat → Option Nat) : (loadSites s m age).cores = s.cores :=
  foldl_keeps State.cores (fun _ _ => by rfl) _ s

theorem loadSites_mem (s : State) (m : FuseMap) (age : Nat → Option Nat) : (loadSites s m age).mem = s.mem :=
  foldl_keeps State.mem (fun _ _ => by rfl) _ s

/-- Locking the PLLs changes the clock regions alone. -/
theorem lockPlls_eq (s : State) : ∃ rs, lockPlls s = { s with regions := rs } :=
  List.foldlRecOn (motive := fun t : State => ∃ rs, t = { s with regions := rs }) _ _ ⟨s.regions, rfl⟩
    (by rintro _ ⟨rs, rfl⟩ r -; exact ⟨_, rfl⟩)

theorem lockPlls_clk (s : State) {r : Nat} (hr : r < 5) : (lockPlls s).clk r = { s.clk r with locked := true, now := 0 } :=
  foldl_update_range (read := State.clk) (new := fun _ c => { c with locked := true, now := 0 }) (fun t i k => State.clk_modClk t i k _) hr s

/-- With a copy whose CRC matches, step 4 ends, and the PLLs lock. -/
theorem execFuseLoad_eq {s : State} (hs : s.inStep 4 = true) (hRails : s.boot.rails = true) {c0 c1 : Option FuseMap} (h : Bool) {m : FuseMap}
    (hm : c0.or c1 = some m) :
    ∃ age u, execFuseLoad c0 c1 h s = .next (lockPlls (endStep u 4)) ∧ SameStep (loadSites s m age) u ∧
      u.boot.fuse = some m ∧ u.boot.coldNext = false ∧ u.hif.configured = true ∧
      u.cores = (loadSites s m age).cores ∧ u.mem = (loadSites s m age).mem := by
  have hGo : ¬ (!s.inStep 4 || !s.boot.rails) = true := by simp [hs, hRails]
  unfold execFuseLoad
  rw [if_neg hGo, hm]
  exact ⟨_, _, rfl, ⟨rfl, rfl, rfl, rfl, rfl⟩, rfl, rfl, rfl, rfl, rfl⟩

theorem fuseLoad_ends {s : State} (hs : s.inStep 4 = true) (hRails : s.boot.rails = true) {c0 c1 : Option FuseMap} (h : Bool) {m : FuseMap}
    (hm : c0 = some m ∨ (c0 = none ∧ c1 = some m)) :
    ∃ t, exec (.fuseLoad c0 c1 h) s = .next t ∧ StepEnded s t 4 ∧ t.boot.fuse = some m ∧ t.hif.configured = true ∧
      (∀ r : Nat, r < 5 → (t.clk r).locked = true ∧ (t.clk r).now = 0) ∧ t.boot.coldNext = false ∧ t.cores = s.cores ∧ t.mem = s.mem := by
  have hOr : c0.or c1 = some m := by
    rcases hm with rfl | ⟨rfl, rfl⟩ <;> rfl
  obtain ⟨age, u, hExec, hStep, hFuse, hCold, hConf, hCores, hMem⟩ := execFuseLoad_eq hs hRails h hOr
  have hSame : SameStep s u := (SameStep.of_boot (loadSites_boot s m age) (loadSites_ticks s m age)).trans hStep
  have hClk : ∀ r, r < 5 → ((lockPlls (endStep u 4)).clk r).locked = true ∧ ((lockPlls (endStep u 4)).clk r).now = 0 := by
    intro r hr
    rw [lockPlls_clk _ hr]
    exact ⟨rfl, rfl⟩
  obtain ⟨rs, hLock⟩ := lockPlls_eq (endStep u 4)
  rw [hLock] at hExec hClk
  exact ⟨_, hExec, (hSame.ends hs).congr rfl, hFuse, hConf, hClk, hCold, hCores.trans (loadSites_cores s m age),
    hMem.trans (loadSites_mem s m age)⟩

theorem fuseLoad_fails {s : State} (hs : s.inStep 4 = true) (hRails : s.boot.rails = true) (h : Bool) :
    ∃ t, exec (.fuseLoad none none h) s = .next t ∧ StepFailed t 4 := by
  have hGo : ¬ (!s.inStep 4 || !s.boot.rails) = true := by simp [hs, hRails]
  change ∃ t, execFuseLoad none none h s = .next t ∧ _
  unfold execFuseLoad
  rw [if_neg hGo]
  exact ⟨_, rfl, bootFatal_stepFailed _ 4⟩

end Sys2Proof.Machine
end

section
/-! PROOFS. Steps 5 to 8 of bring-up. -/

namespace Sys2Proof.Machine

/-! ## Steps 5 to 8 -/

/-- A sweep that passes at no code sets none. -/
theorem sweepCode_zero (draw : Nat) : sweepCode draw 0 = none := by
  have hCentres : centres 0 = [] := by decide +kernel
  unfold sweepCode
  rw [hCentres]
  rfl

/-- A sweep that passes at every code sets one of the two middle codes (log 16). -/
theorem sweepCode_allOnes_isSome (draw : Nat) : (sweepCode draw (BitVec.allOnes 64)).isSome = true := by
  have hCentres : centres (BitVec.allOnes 64) = [31, 32] := by decide +kernel
  have hMod : Config.freeNat draw % [31, 32].length < [31, 32].length := Nat.mod_lt _ (by decide)
  unfold sweepCode
  rw [hCentres, if_neg (by decide), List.getElem?_eq_getElem hMod]
  rfl

/-- A cold boot takes the code of the first sweep, or of the second; a bundle without a sweep passes at every code (R460). -/
theorem bootCode_of_cold {s : State} (hCold : s.boot.warm = false) (k : Nat) (x : Option SweepResult) :
    bootCode s k x = (sweepCode (s.draws + k) ((x.map (·.first)).getD (BitVec.allOnes 64))).or
      (sweepCode (s.draws + k) ((x.map (·.second)).getD (BitVec.allOnes 64))) := by
  unfold bootCode
  dsimp only
  rw [if_neg (by rw [hCold]; decide), sweepCode_zero, Option.none_or]

/-- A cold boot finds no code for a bundle both of whose sweeps pass at none. -/
theorem bootCode_of_no_window {s : State} (hCold : s.boot.warm = false) (k : Nat) {x : SweepResult} (h1 : x.first = 0) (h2 : x.second = 0) :
    bootCode s k (some x) = none := by
  rw [bootCode_of_cold hCold, Option.map_some, Option.map_some, h1, h2, Option.getD_some, sweepCode_zero]
  rfl

/-- A cold boot finds a code for a bundle that is not listed. -/
theorem bootCode_of_unlisted {s : State} (hCold : s.boot.warm = false) (k : Nat) : (bootCode s k none).isNone = false := by
  obtain ⟨c, hc⟩ := Option.isSome_iff_exists.mp (sweepCode_allOnes_isSome (s.draws + k))
  rw [bootCode_of_cold hCold, Option.map_none, Option.map_none, Option.getD_none, hc]
  rfl

/-- The calibration of the bundles alone: each takes the code of its sweep, or has failed. -/
def calibrated (s : State) (sweeps : List SweepResult) : State :=
  (List.range 3300).foldl (fun t k =>
    let c := bootCode s k (sweeps.find? (fun x => x.seam.val * 220 + x.pos.val = k))
    t.modBundle k (fun _ => { code := c.getD 0, failed := c.isNone, retuning := false, boot := c.getD 0 })) (s.drawn 3300)

theorem calibrated_bundle (s : State) (sweeps : List SweepResult) {k : Nat} (hk : k < 3300) :
    let c := bootCode s k (sweeps.find? (fun x => x.seam.val * 220 + x.pos.val = k))
    (calibrated s sweeps).bundle k = { code := c.getD 0, failed := c.isNone, retuning := false, boot := c.getD 0 } :=
  foldl_update_range (read := State.bundle)
    (new := fun k _ =>
      let c := bootCode s k (sweeps.find? (fun x => x.seam.val * 220 + x.pos.val = k))
      { code := c.getD 0, failed := c.isNone, retuning := false, boot := c.getD 0 })
    (fun t i k => State.bundle_modBundle t i k _) hk _

theorem calibrated_sameStep (s : State) (sweeps : List SweepResult) : SameStep s (calibrated s sweeps) := by
  unfold calibrated
  exact .of_boot (foldl_keeps State.boot (fun _ _ => by rfl) _ (s.drawn 3300)) (foldl_keeps State.ticks (fun _ _ => by rfl) _ (s.drawn 3300))

/-- The vertical channels of the sites as the calibrated bundles leave them. -/
def channelsChecked (t : State) : State :=
  (List.range 880).foldl (fun t i => t.modSite i (fun x =>
    { x with vchOk := (channelSeams (i / 220)).all (fun j => !(t.bundle (j * 220 + i % 220)).failed) })) t

theorem channelsChecked_sameStep (t : State) : SameStep t (channelsChecked t) :=
  .of_boot (foldl_keeps State.boot (fun _ _ => by rfl) _ t) (foldl_keeps State.ticks (fun _ _ => by rfl) _ t)

theorem channelsChecked_bundles (t : State) : (channelsChecked t).bundles = t.bundles :=
  foldl_keeps State.bundles (fun _ _ => by rfl) _ t

/-- The retunes that waited are superseded, and the routing graph will do without the links of failed bundles (R44, R460). -/
def seamsSettled (t : State) : State := { t with retunes := [], tr := { t.tr with badLinks := deadLinks t } }

theorem seamsSettled_sameStep (t : State) : SameStep t (seamsSettled t) := ⟨rfl, rfl, rfl, rfl, rfl⟩

theorem seamsSettled_bundle (t : State) (k : Nat) : (seamsSettled t).bundle k = t.bundle k := rfl

theorem execSeamCalibration_eq {s : State} (hs : s.inStep 5 = true) (sweeps : List SweepResult) :
    execSeamCalibration sweeps s = .next (endStep (seamsSettled (channelsChecked (calibrated s sweeps))) 5) := by
  unfold execSeamCalibration seamsSettled channelsChecked calibrated
  exact if_neg (by simp [hs])

theorem seamCalibration_ends {s : State} (hs : s.inStep 5 = true) (hCold : s.boot.warm = false) {x : SweepResult}
    (h1 : x.first = 0) (h2 : x.second = 0) :
    ∃ t, exec (.seamCalibration [x]) s = .next t ∧ StepEnded s t 5 ∧
      (t.bundle (x.seam.val * 220 + x.pos.val)).failed = true ∧
      ∀ k, k < 3300 → k ≠ x.seam.val * 220 + x.pos.val → (t.bundle k).failed = false ∧ (t.bundle k).retuning = false := by
  have hStep := ((calibrated_sameStep s [x]).trans (channelsChecked_sameStep (calibrated s [x]))).trans (seamsSettled_sameStep _)
  refine ⟨_, execSeamCalibration_eq hs [x], hStep.ends hs, ?_, fun k hk hne => ?_⟩
  · have hk : x.seam.val * 220 + x.pos.val < 3300 := by omega
    rw [endStep_bundle, seamsSettled_bundle, State.bundle_congr (channelsChecked_bundles _), calibrated_bundle s [x] hk]
    simp [bootCode_of_no_window hCold _ h1 h2]
  · rw [endStep_bundle, seamsSettled_bundle, State.bundle_congr (channelsChecked_bundles _), calibrated_bundle s [x] hk]
    simp [Ne.symm hne, bootCode_of_unlisted hCold]

/-- The sites whose plot did not train have lost their vertical channel (R461). -/
def plotsTrained (s : State) (bad : List Site) : State :=
  bad.foldl (fun s (i : Site) => s.modSite i (fun x => { x with vchOk := false })) s

/-- The stacks after their training: each is up unless it is among those that failed (R461). -/
def stacksTrained (s : State) (bad : List (Fin 6)) : State :=
  (List.range 6).foldl (fun s k =>
    let ok := !bad.any (fun b => b.val = k)
    s.modStack k (fun t => { t with linkUp := ok, trained := ok })) s

theorem plotsTrained_vchOk (s : State) (bad : List Site) (i : Site) :
    ((plotsTrained s bad).site i).vchOk = ((s.site i).vchOk && decide (i ∉ bad)) := by
  have hFlag := foldl_flag (flag := fun s k => !(s.site k).vchOk) (key := fun i : Site => i.val)
    (f := fun s i => s.modSite i (fun x => { x with vchOk := false }))
    (fun t j k => by rw [State.site_modSite]; split <;> simp [*]) bad s i
  change (!((plotsTrained s bad).site i).vchOk) = _ at hFlag
  have hAny : bad.any (fun j => decide (i.val = j.val)) = decide (i ∈ bad) := by
    simp [Fin.val_inj, List.any_eq]
  rw [hAny] at hFlag
  simpa [Bool.not_eq_eq_eq_not] using hFlag

theorem stacksTrained_linkUp (s : State) (bad : List (Fin 6)) (k : Fin 6) : ((stacksTrained s bad).stack k).linkUp = decide (k ∉ bad) := by
  have hRead := foldl_update_range (read := State.stack)
    (f := fun s k => s.modStack k (fun t => { t with linkUp := !bad.any (fun b => b.val = k), trained := !bad.any (fun b => b.val = k) }))
    (new := fun k t => { t with linkUp := !bad.any (fun b => b.val = k), trained := !bad.any (fun b => b.val = k) })
    (fun t i k => State.stack_modStack t i k _) k.isLt s
  have hAny : bad.any (fun b => decide (b.val = k.val)) = decide (k ∈ bad) := by
    simp [Fin.val_inj, List.any_eq]
  exact (congrArg Stack.linkUp hRead).trans (by rw [hAny, decide_not])

theorem execPlotAndOrangeryTraining_eq {s : State} (hs : s.inStep 6 = true) (ps : List Site) (ks : List (Fin 6)) :
    execPlotAndOrangeryTraining ps ks s = .next (endStep (stacksTrained (plotsTrained s ps) ks) 6) := by
  unfold execPlotAndOrangeryTraining
  rw [if_neg (by simp [hs])]
  rfl

theorem plotAndOrangeryTraining_ends {s : State} (hs : s.inStep 6 = true) (ps : List Site) (ks : List (Fin 6)) :
    ∃ t, exec (.plotAndOrangeryTraining ps ks) s = .next t ∧ StepEnded s t 6 ∧
      (∀ i : Site, (t.site i).vchOk = ((s.site i).vchOk && decide (i ∉ ps))) ∧ ∀ k : Fin 6, (t.stack k).linkUp = decide (k ∉ ks) := by
  have hPlots : SameStep s (plotsTrained s ps) :=
    .of_boot (foldl_keeps State.boot (fun _ _ => by rfl) _ s) (foldl_keeps State.ticks (fun _ _ => by rfl) _ s)
  have hStacks : SameStep (plotsTrained s ps) (stacksTrained (plotsTrained s ps) ks) :=
    .of_boot (foldl_keeps State.boot (fun _ _ => by rfl) _ _) (foldl_keeps State.ticks (fun _ _ => by rfl) _ _)
  have hSites : (stacksTrained (plotsTrained s ps) ks).sites = (plotsTrained s ps).sites := foldl_keeps State.sites (fun _ _ => by rfl) _ _
  refine ⟨_, execPlotAndOrangeryTraining_eq hs ps ks, (hPlots.trans hStacks).ends hs, fun i => ?_, stacksTrained_linkUp _ ks⟩
  rw [endStep_site, State.site_congr hSites, plotsTrained_vchOk]

/-- Every site notes whether its interface is in the routing graph (R462). -/
def interfacesNoted (s : State) : State :=
  (List.range 880).foldl (fun t i => t.modSite i (fun x => { x with niOk := (t.router i).present })) s

theorem interfacesNoted_sameStep (s : State) : SameStep s (interfacesNoted s) :=
  .of_boot (foldl_keeps State.boot (fun _ _ => by rfl) _ s) (foldl_keeps State.ticks (fun _ _ => by rfl) _ s)

theorem interfacesNoted_tr (s : State) : (interfacesNoted s).tr = s.tr := foldl_keeps State.tr (fun _ _ => by rfl) _ s

theorem interfacesNoted_niOk (s : State) {i : Nat} (hi : i < 880) : ((interfacesNoted s).site i).niOk = (s.router i).present := by
  have hRead := foldl_update_range (read := fun (s : State) k => (s.site k, s.router k))
    (new := fun _ x => ({ x.1 with niOk := x.2.present }, x.2))
    (f := fun t i => t.modSite i (fun x => { x with niOk := (t.router i).present }))
    (fun t j k => by
      change ((t.modSite j _).site k, t.router k) = _
      rw [State.site_modSite]
      split
      · next h => rw [h]
      · rfl) hi s
  exact congrArg (fun x => x.1.niOk) hRead

theorem trellisStart_ends {s : State} (hs : s.inStep 7 = true) (dark : List (BitVec 10)) (bad : List (BitVec 10 × BitVec 10)) :
    let g := formGraph s (dark.map (·.toNat)) (s.tr.badLinks ++ bad.map (fun e => (e.1.toNat, e.2.toNat)))
    g.tr.connected = true → ∃ t, exec (.trellisStart dark bad) s = .next t ∧ StepEnded s t 7 ∧ t.tr = g.tr ∧
      ∀ i, i < 880 → (t.site i).niOk = (g.router i).present := by
  intro g hg
  have hExec : execTrellisStart dark bad s = .next (endStep (interfacesNoted g) 7) := by
    unfold execTrellisStart
    rw [if_neg (by simp [hs])]
    exact if_pos hg
  have hGraph : SameStep s g := ⟨rfl, rfl, rfl, rfl, rfl⟩
  refine ⟨_, hExec, (hGraph.trans (interfacesNoted_sameStep g)).ends hs, (endStep_tr _ 7).trans (interfacesNoted_tr g), fun i hi => ?_⟩
  rw [endStep_site, interfacesNoted_niOk g hi]

theorem coreFirmware_ends {s : State} (hs : s.inStep 8 = true) (got bad : List Site) :
    ∃ t, exec (.coreFirmware got bad) s = .next t ∧ t = { s with boot := t.boot } ∧ StepEnded s t 8 ∧ t.boot.fallback = got.dedup.length ∧
      ∀ i : Site, i.val ∈ t.boot.coreFails ↔ i ∈ bad := by
  refine ⟨_, if_neg (by simp [hs]), rfl, SameStep.ends ⟨rfl, rfl, rfl, rfl, rfl⟩ hs, rfl, fun i => ?_⟩
  change i.val ∈ (bad.map (·.val)).dedup ↔ _
  rw [List.mem_dedup, List.mem_map_of_injective Fin.val_injective]

/-- Steps 1 to 8 of bring-up (R456 to R463, R471, R474, Table 16.1). -/
theorem bringUpStarts : BringUpStarts := by
  intro s
  refine ⟨auxStart_ends, fun hs hPerst => ⟨fun hDog => ?_, fun r hDog hr => ?_, kioskBoot_fails hs hPerst⟩, fun hs a b =>
    ⟨firmwareCheck_ends hs, fun c hc hOk hA hB => firmwareCheck_fails hs hc hOk hA hB⟩, fun hs hRails c0 c1 h =>
    ⟨fun m hm => fuseLoad_ends hs hRails h hm, fun h0 h1 => ?_⟩, fun hs hCold x h1 h2 => seamCalibration_ends hs hCold h1 h2,
    fun hs ps ks => plotAndOrangeryTraining_ends hs ps ks, fun hs dark bad => trellisStart_ends hs dark bad,
    fun hs got bad => coreFirmware_ends hs got bad⟩
  · exact kioskBoot_ends hs hPerst hDog false
  · obtain ⟨t, hExec, hEq, hEnds, hSeq⟩ := kioskBoot_ends hs hPerst hDog true
    exact ⟨t, hExec, hEq, hEnds, by simpa [hr] using hSeq⟩
  · subst h0 h1
    exact fuseLoad_fails hs hRails h

end Sys2Proof.Machine
end

section
/-! PROOFS. Steps 9 and 10 of bring-up. -/

namespace Sys2Proof.Machine

/-! ## Steps 9 and 10: the memory test and repair (R464 to R467) -/

/-- The sites that the memory test fails: those without a router or a channel, without core firmware, or failed by the test itself (R464). -/
def failedSites (s : State) (failed : List Site) : List Nat :=
  (List.range 880).filter (fun i =>
    !(s.router i).present || !(s.site i).vchOk || s.boot.coreFails.contains i || failed.any (fun x => x.val = i))

theorem failedSites_contains (s : State) (failed : List Site) (i : Site) :
    (!(failedSites s failed).contains i.val) =
      ((s.router i).present && (s.site i).vchOk && !s.boot.coreFails.contains i.val && decide (i ∉ failed)) := by
  have hAny : failed.any (fun x => decide (x.val = i.val)) = decide (i ∈ failed) := by
    simp [Fin.val_inj, List.any_eq]
  have hMem : (failedSites s failed).contains i.val =
      (!(s.router i).present || !(s.site i).vchOk || s.boot.coreFails.contains i.val || failed.any (fun x => x.val = i.val)) := by
    rw [Bool.eq_iff_iff, List.contains_iff_mem, failedSites, List.mem_filter, List.mem_range]
    exact and_iff_right i.isLt
  rw [hMem, hAny, decide_not]
  simp only [Bool.not_or, Bool.not_not]

/-- Every site has passed the memory test or failed it. -/
def sitesTested (s : State) (bad : List Nat) : State :=
  (List.range 880).foldl (fun s i => s.modSite i (fun x => { x with passed := !bad.contains i })) s

theorem sitesTested_eq (s : State) (bad : List Nat) : ∃ xs, sitesTested s bad = { s with sites := xs } :=
  List.foldlRecOn (motive := fun t : State => ∃ xs, t = { s with sites := xs }) _ _ ⟨s.sites, rfl⟩
    (by rintro _ ⟨xs, rfl⟩ i -; exact ⟨_, rfl⟩)

theorem sitesTested_passed (s : State) (bad : List Nat) {i : Nat} (hi : i < 880) : ((sitesTested s bad).site i).passed = !bad.contains i :=
  congrArg SiteRec.passed (foldl_update_range (read := State.site) (new := fun i x => { x with passed := !bad.contains i })
    (fun t i k => State.site_modSite t i k _) hi s)

/-- The results of the memory test stand, and memory reads zero (R466). -/
def memoryTested (s : State) (bad : List Nat) (words : List WordFault) (verified : Bool) : State :=
  { s with
    boot := { s.boot with coreFails := bad, tests := faultList words, faults := (faultList words).length, verified := verified }
    mem := { s.mem with bytes := [], valid := [], flaws := [], byteFlaws := [], mapFlaws := [], merges := [], writeBacks := [], held := [] } }

theorem execMemoryTest_eq {s : State} (hs : s.inStep 9 = true) (failed : List Site) (words : List WordFault) :
    ∃ verified, execMemoryTest failed words s = .next (endStep
      ((failedSites s failed).foldl (fun s i => siteEvent s 0 i (i / 22))
        (memoryTested (sitesTested s (failedSites s failed)) (failedSites s failed) words verified)) 9) := by
  unfold execMemoryTest memoryTested sitesTested failedSites
  exact ⟨_, if_neg (by simp [hs])⟩

theorem memoryTest_ends {s : State} (hs : s.inStep 9 = true) (failed : List Site) (ws : List WordFault) :
    ∃ t, exec (.memoryTest failed ws) s = .next t ∧ StepEnded s t 9 ∧ (∀ a, t.byte a = 0) ∧ NoErrors t ∧
      t.boot.tests = faultList ws ∧ t.boot.faults = (faultList ws).length ∧
      ∀ i : Site, (t.site i).passed = ((s.router i).present && (s.site i).vchOk && !s.boot.coreFails.contains i.val && decide (i ∉ failed)) := by
  obtain ⟨verified, hExec⟩ := execMemoryTest_eq hs failed ws
  have hPassed : ∀ i : Site, ((sitesTested s (failedSites s failed)).site i).passed = _ := fun i =>
    (sitesTested_passed s _ i.isLt).trans (failedSites_contains s failed i)
  obtain ⟨xs, hSites⟩ := sitesTested_eq s (failedSites s failed)
  rw [hSites] at hExec hPassed
  obtain ⟨ev, ks, ns, hEvents⟩ := Reported.foldl (fun s i => siteEvent_reported s 0 i (i / 22)) (failedSites s failed)
    (memoryTested { s with sites := xs } (failedSites s failed) ws verified)
  rw [hEvents] at hExec
  exact ⟨_, hExec, SameStep.ends ⟨rfl, rfl, rfl, rfl, rfl⟩ hs, fun _ => rfl, ⟨rfl, rfl, rfl, rfl, rfl⟩, rfl, rfl, hPassed⟩

/-- With nothing to apply before it, an entry of the test list alone is applied, and the spares that it took are counted (R467). -/
theorem execRepair_eq {s : State} (hs : s.inStep 10 = true) (hFuse : ∀ m, s.boot.fuse = some m → m.repairs = []) (hSoft : s.softMap = [])
    (hCold : s.boot.warm = false) {r : Repair} (hTests : s.boot.tests = [r]) :
    let u := applyRepair s r
    execRepair s = .next (endStep { u with boot := { u.boot with spares := u.boot.repairs.length - s.boot.repairs.length } } 10) := by
  have hFused : (s.boot.fuse.map (·.repairs)).getD [] = [] := by
    cases h : s.boot.fuse with
    | none => rfl
    | some m => exact hFuse m h
  have hFirst : (s.boot.fuse.map (·.repairs)).getD [] ++ s.softMap
      ++ (if s.boot.warm then (s.flash.boot.map (·.tests)).getD [] else []) = [] := by
    rw [hFused, hSoft, hCold]
    rfl
  unfold execRepair
  rw [if_neg (by simp [hs]), hFirst]
  dsimp only [List.foldl_nil]
  rw [hTests]
  rfl

theorem applyRepair_of_spare {s : State} {r : Repair} (hNew : r ∉ s.boot.repairs) (hKind : r.kind < 8)
    (hSpare : s.sparesTaken r.kind r.unit r.bank < sparesOf r.kind) :
    applyRepair s r = { s with boot := { s.boot with repairs := s.boot.repairs ++ [r] } } := by
  unfold applyRepair
  rw [if_neg (by simpa using hNew), if_neg (by omega), if_pos hSpare]

theorem applyRepair_of_retirement {s : State} {r : Repair} (hNew : r ∉ s.boot.repairs) (hKind : r.kind = 8) :
    applyRepair s r = s.modSite r.unit (fun x => { x with retired := true }) := by
  unfold applyRepair
  rw [if_neg (by simpa using hNew), if_pos hKind]

theorem repair_ends_of_spare {s : State} (hs : s.inStep 10 = true) (hFuse : ∀ m, s.boot.fuse = some m → m.repairs = [])
    (hSoft : s.softMap = []) (hCold : s.boot.warm = false) {r : Repair} (hTests : s.boot.tests = [r]) (hNew : r ∉ s.boot.repairs)
    (hKind : r.kind < 8) (hSpare : s.sparesTaken r.kind r.unit r.bank < sparesOf r.kind) :
    ∃ t, exec .repair s = .next t ∧ t = { s with boot := t.boot } ∧ StepEnded s t 10 ∧
      t.boot.repairs = s.boot.repairs ++ [r] ∧ t.boot.spares = 1 := by
  have hExec := execRepair_eq hs hFuse hSoft hCold hTests
  rw [applyRepair_of_spare hNew hKind hSpare] at hExec
  refine ⟨_, hExec, rfl, SameStep.ends ⟨rfl, rfl, rfl, rfl, rfl⟩ hs, rfl, ?_⟩
  change (s.boot.repairs ++ [r]).length - s.boot.repairs.length = 1
  rw [List.length_append, Nat.add_sub_cancel_left]
  rfl

theorem repair_ends_of_retirement {s : State} (hs : s.inStep 10 = true) (hFuse : ∀ m, s.boot.fuse = some m → m.repairs = [])
    (hSoft : s.softMap = []) (hCold : s.boot.warm = false) {r : Repair} (hTests : s.boot.tests = [r]) (hNew : r ∉ s.boot.repairs)
    (hKind : r.kind = 8) :
    ∃ t, exec .repair s = .next t ∧ StepEnded s t 10 ∧ (t.site r.unit).retired = true ∧ ∀ i, i ≠ r.unit → t.site i = s.site i := by
  have hExec := execRepair_eq hs hFuse hSoft hCold hTests
  rw [applyRepair_of_retirement hNew hKind] at hExec
  exact ⟨_, hExec, SameStep.ends ⟨rfl, rfl, rfl, rfl, rfl⟩ hs,
    congrArg SiteRec.retired (State.site_modSite_same s r.unit (fun x => { x with retired := true })),
    fun i hi => State.site_modSite_other s (fun x => { x with retired := true }) hi⟩

end Sys2Proof.Machine
end

section
/-! PROOFS. The rows of the logical map. -/

namespace Sys2Proof.Machine

/-! ## Rows of the logical map (R23, R24) -/

theorem rowSite_eq (cl c : Nat) : rowSite cl c = 22 * cl + c := by
  unfold rowSite
  omega

/-- The columns of a row whose sites are usable. -/
def usableCols (s : State) (cl : Nat) : List Nat := (List.range 22).filter (fun c => (s.site (rowSite cl c)).usable)

/-- The physical columns that become the logical columns of a row, none where fewer than 20 are usable. -/
def rowCols (s : State) (cl : Nat) : List Nat := if (usableCols s cl).length < 20 then [] else (usableCols s cl).take 20

/-- A site of a row whose logical columns are `us`, at column `c`. -/
def placed (us : List Nat) (c : Nat) (x : SiteRec) : SiteRec :=
  match us.findIdx? (· = c) with
  | some j => { x with state := 1, lcol := BitVec.ofNat 5 j }
  | none => { x with state := if x.niOk then 2 else 3, lcol := 31 }

theorem placed_usable (us : List Nat) (c : Nat) (x : SiteRec) : (placed us c x).usable = x.usable := by
  unfold placed
  split <;> rfl

theorem placed_state {us : List Nat} {c : Nat} {x : SiteRec} : (placed us c x).state = 1 ↔ c ∈ us := by
  unfold placed
  split
  · next j h =>
    obtain ⟨hj, hc, -⟩ := List.findIdx?_eq_some_iff_getElem.mp h
    exact iff_of_true rfl (of_decide_eq_true hc ▸ List.getElem_mem hj)
  · next h =>
    rw [List.findIdx?_eq_none_iff] at h
    refine iff_of_false ?_ (fun hc => by simpa using h c hc)
    change ¬ (if x.niOk then 2 else 3 : BitVec 2) = 1
    cases x.niOk <;> decide

theorem placed_lcol {us : List Nat} (hLen : us.length ≤ 32) {c : Nat} {x : SiteRec} (hState : (placed us c x).state = 1) :
    us[(placed us c x).lcol.toNat]? = some c := by
  have hMem := placed_state.mp hState
  unfold placed
  split
  · next j h =>
    obtain ⟨hj, hc, -⟩ := List.findIdx?_eq_some_iff_getElem.mp h
    have hMod : (BitVec.ofNat 5 j).toNat = j := by
      rw [BitVec.toNat_ofNat]
      exact Nat.mod_eq_of_lt (by omega)
    change us[(BitVec.ofNat 5 j).toNat]? = some c
    rw [hMod, List.getElem?_eq_getElem hj, of_decide_eq_true hc]
  · next h =>
    rw [List.findIdx?_eq_none_iff] at h
    exact absurd (h c hMem) (by simp)

theorem mem_rowCols {s : State} {cl c : Nat} : c ∈ rowCols s cl ↔ 20 ≤ (usableCols s cl).length ∧ c ∈ (usableCols s cl).take 20 := by
  unfold rowCols
  split <;> simp [*]
  intro h
  omega

/-- The logical columns are the first of the usable ones. -/
theorem rowCols_getElem? {s : State} {cl j c : Nat} (h : (rowCols s cl)[j]? = some c) : (usableCols s cl)[j]? = some c := by
  unfold rowCols at h
  split at h
  · simp at h
  · rw [List.getElem?_take] at h
    split at h
    · exact h
    · cases h

theorem rowCols_length (s : State) (cl : Nat) : (rowCols s cl).length ≤ 20 := by
  unfold rowCols
  split <;> simp

theorem rowCols_congr {s t : State} (h : ∀ k, (t.site k).usable = (s.site k).usable) (cl : Nat) : rowCols t cl = rowCols s cl := by
  have hCols : usableCols t cl = usableCols s cl := List.filter_congr (fun c _ => h _)
  rw [rowCols, rowCols, hCols]

/-! ## Assigning rows -/

theorem assignRow_eq (s : State) (cl : Nat) :
    assignRow s cl = (List.range 22).foldl (fun t c => t.modSite (rowSite cl c) (placed (rowCols s cl) c)) s := by
  unfold assignRow rowCols usableCols placed
  rfl

theorem assignRow_sites (s : State) (cl : Nat) : assignRow s cl = { s with sites := (assignRow s cl).sites } := by
  obtain ⟨xs, h⟩ : ∃ xs, assignRow s cl = { s with sites := xs } := by
    rw [assignRow_eq]
    exact List.foldlRecOn (motive := fun t : State => ∃ xs, t = { s with sites := xs }) _ _ ⟨s.sites, rfl⟩
      (by rintro _ ⟨xs, rfl⟩ c -; exact ⟨_, rfl⟩)
  rw [h]

/-- Assigning a row places each of its sites and no other. -/
theorem assignRow_site (s : State) (cl k : Nat) :
    (assignRow s cl).site k = if k / 22 = cl then placed (rowCols s cl) (k % 22) (s.site k) else s.site k := by
  have hStep : ∀ (t : State) c k, (t.modSite (rowSite cl c) (placed (rowCols s cl) c)).site k =
      if k = rowSite cl c then placed (rowCols s cl) c (t.site k) else t.site k := fun t c k => State.site_modSite t _ k _
  rw [assignRow_eq]
  split
  · next h =>
    have hKey : k = rowSite cl (k % 22) := by
      rw [rowSite_eq]
      omega
    have hNodup : ((List.range 22).map (rowSite cl)).Nodup :=
      List.nodup_range.map (fun a b hab => by rw [rowSite_eq, rowSite_eq] at hab; omega)
    have hRead := foldl_update_mem hStep hNodup (List.mem_range.mpr (Nat.mod_lt k (by decide))) s
    rwa [← hKey] at hRead
  · next h =>
    refine foldl_update_other hStep (fun c hc hk => h ?_) s
    have := List.mem_range.mp hc
    rw [hk, rowSite_eq]
    omega

theorem assignRow_usable (s : State) (cl k : Nat) : ((assignRow s cl).site k).usable = (s.site k).usable := by
  rw [assignRow_site]
  split
  · exact placed_usable _ _ _
  · rfl

/-- Assigning several rows places each site of them by the usable sites of its row, and no other. -/
theorem foldl_assignRow_site {l : List Nat} (hl : l.Nodup) (s : State) (k : Nat) :
    (l.foldl assignRow s).site k = if k / 22 ∈ l then placed (rowCols s (k / 22)) (k % 22) (s.site k) else s.site k := by
  induction l generalizing s with
  | nil => rfl
  | cons cl l ih =>
    obtain ⟨hcl, hl⟩ := List.nodup_cons.mp hl
    rw [List.foldl_cons, ih hl, rowCols_congr (assignRow_usable s cl), assignRow_site]
    by_cases hk : k / 22 = cl
    · subst hk
      rw [if_neg hcl, if_pos rfl, if_pos List.mem_cons_self]
    · simp only [List.mem_cons, hk, false_or, if_false]

theorem foldl_assignRow_eq (l : List Nat) (s : State) : ∃ xs, l.foldl assignRow s = { s with sites := xs } :=
  List.foldlRecOn (motive := fun t : State => ∃ xs, t = { s with sites := xs }) _ _ ⟨s.sites, rfl⟩
    (by rintro _ ⟨xs, rfl⟩ cl -; exact ⟨_, assignRow_sites _ cl⟩)

/-- A row whose sites are placed by its usable sites is mapped (R23, R24). -/
theorem rowMapped_of_placed {s t : State} {cl : Nat}
    (h : ∀ c, c < 22 → t.site (rowSite cl c) = placed (rowCols s cl) c (s.site (rowSite cl c))) : RowMapped s t cl := by
  intro c hc
  rw [h c hc]
  have hLen := rowCols_length s cl
  exact ⟨placed_state.trans mem_rowCols, fun hState => rowCols_getElem? (placed_lcol (by omega) hState)⟩

/-- A mapped row is withdrawn exactly where fewer than 20 of its sites are usable (R28). -/
theorem RowMapped.withdrawn {s t : State} {cl : Nat} (h : RowMapped s t cl) : t.withdrawn cl = decide ((usableCols s cl).length < 20) := by
  have hState : ∀ c, c < 22 → ((t.site (rowSite cl c)).state = 1 ↔ 20 ≤ (usableCols s cl).length ∧ c ∈ (usableCols s cl).take 20) :=
    fun c hc => (h c hc).1
  unfold State.withdrawn
  refine decide_eq_decide.mpr ⟨fun hLess => ?_, fun hLess => ?_⟩
  · by_contra hEnough
    have hTake : ((usableCols s cl).take 20).length = 20 := by
      rw [List.length_take]
      omega
    have hNodup : ((usableCols s cl).take 20).Nodup := (List.nodup_range.filter _).sublist (List.take_sublist _ _)
    have hSub : (usableCols s cl).take 20 ⊆ (List.range 22).filter (fun c => decide ((t.site (rowSite cl c)).state = 1)) := by
      intro c hc
      have hRange : c ∈ List.range 22 := (List.mem_filter.mp (List.mem_of_mem_take hc)).1
      exact List.mem_filter.mpr ⟨hRange, decide_eq_true ((hState c (List.mem_range.mp hRange)).mpr ⟨by omega, hc⟩)⟩
    have := (hNodup.subperm hSub).length_le
    omega
  · have hNone : (List.range 22).filter (fun c => decide ((t.site (rowSite cl c)).state = 1)) = [] := by
      refine List.filter_eq_nil_iff.mpr (fun c hc hOne => ?_)
      obtain ⟨hEnough, -⟩ := (hState c (List.mem_range.mp hc)).mp (of_decide_eq_true hOne)
      omega
    rw [hNone]
    decide

end Sys2Proof.Machine
end

section
/-! PROOFS. Step 11 of bring-up. -/

namespace Sys2Proof.Machine

/-! ## Step 11: the logical map (R46, R468) -/

theorem fmaxRule_congr {s t : State} (h : t.sites = s.sites) (r : Nat) : t.fmaxRule r = s.fmaxRule r := by
  have hSite : t.site = s.site := funext (State.site_congr h)
  rw [State.fmaxRule, State.fmaxRule, State.regionLogical, State.regionLogical, hSite]

theorem setFmax_clk (s : State) (r k : Nat) :
    (setFmax s r).clk k = if k = r then { s.clk k with fmax := s.fmaxRule r } else s.clk k := State.clk_modClk s r k _

/-- `FMAX_REGION` of every region follows the map (R46). -/
def fmaxSet (s : State) : State := (List.range 5).foldl setFmax s

theorem fmaxSet_eq (s : State) : ∃ rs, fmaxSet s = { s with regions := rs } :=
  List.foldlRecOn (motive := fun t : State => ∃ rs, t = { s with regions := rs }) _ _ ⟨s.regions, rfl⟩
    (by rintro _ ⟨rs, rfl⟩ r -; exact ⟨_, rfl⟩)

theorem fmaxSet_fmax (s : State) {r : Nat} (hr : r < 5) : ((fmaxSet s).clk r).fmax = s.fmaxRule r := by
  have hRead := foldl_update_range (read := fun (s : State) k => (s.clk k, s.fmaxRule k)) (f := setFmax)
    (new := fun _ x => ({ x.1 with fmax := x.2 }, x.2))
    (fun t i k => by
      change ((setFmax t i).clk k, t.fmaxRule k) = _
      rw [setFmax_clk]
      split
      · next h => rw [h]
      · rfl) hr s
  exact congrArg (fun x => x.1.fmax) hRead

/-- The core domains follow the map: on where the site is a logical core, gated elsewhere (R468). -/
def domainsSet (s : State) : State :=
  (List.range 880).foldl (fun s i => s.modSitePwr i (fun p =>
    { p with dom := if (s.site i).state = 1 then .on else .gated, idleSince := s.us })) s

theorem domainsSet_eq (s : State) : ∃ ps, domainsSet s = { s with pwr := { s.pwr with sites := ps } } :=
  List.foldlRecOn (motive := fun t : State => ∃ ps, t = { s with pwr := { s.pwr with sites := ps } }) _ _ ⟨s.pwr.sites, rfl⟩
    (by rintro _ ⟨ps, rfl⟩ i -; exact ⟨_, rfl⟩)

theorem domainsSet_dom (s : State) {i : Nat} (hi : i < 880) : ((domainsSet s).sitePwr i).dom = .on ↔ (s.site i).state = 1 := by
  have hRead := foldl_update_range (read := fun (s : State) k => (s.sitePwr k, s.site k, s.us))
    (f := fun s i => s.modSitePwr i (fun p => { p with dom := if (s.site i).state = 1 then .on else .gated, idleSince := s.us }))
    (new := fun _ x => ({ x.1 with dom := if x.2.1.state = 1 then .on else .gated, idleSince := x.2.2 }, x.2))
    (fun t j k => by
      change ((t.modSitePwr j _).sitePwr k, t.site k, t.us) = _
      rw [State.sitePwr_modSitePwr]
      split
      · next h => rw [h]
      · rfl) hi s
  have hDom : ((domainsSet s).sitePwr i).dom = if (s.site i).state = 1 then .on else .gated := congrArg (fun x => x.1.dom) hRead
  rw [hDom]
  split
  · exact iff_of_true rfl ‹_›
  · exact iff_of_false (by decide) ‹_›

/-- Every `CLUSTER_DESC` rewritten. -/
def clustersDescribed (s : State) : State :=
  (List.range 40).foldl (fun s c => { s with clusters := Tbl.set clusterDescReset s.clusters c (clusterWord s c) }) s

theorem clustersDescribed_eq (s : State) : ∃ cs, clustersDescribed s = { s with clusters := cs } :=
  List.foldlRecOn (motive := fun t : State => ∃ cs, t = { s with clusters := cs }) _ _ ⟨s.clusters, rfl⟩
    (by rintro _ ⟨cs, rfl⟩ c -; exact ⟨_, rfl⟩)

theorem clustersDescribed_sites (s : State) : (clustersDescribed s).sites = s.sites := foldl_keeps State.sites (fun _ _ => by rfl) _ s

/-- Every row assigned and described. -/
def rowsAssigned (s : State) : State := clustersDescribed ((List.range 40).foldl assignRow s)

theorem rowsAssigned_eq (s : State) : ∃ xs cs, rowsAssigned s = { s with sites := xs, clusters := cs } := by
  obtain ⟨xs, hRows⟩ := foldl_assignRow_eq (List.range 40) s
  obtain ⟨cs, hDescs⟩ := clustersDescribed_eq ((List.range 40).foldl assignRow s)
  exact ⟨xs, cs, by rw [rowsAssigned, hDescs, hRows]⟩

theorem rowsAssigned_rowMapped (s : State) {cl : Nat} (hcl : cl < 40) : RowMapped s (rowsAssigned s) cl := by
  refine rowMapped_of_placed (fun c hc => ?_)
  have hRow : rowSite cl c / 22 = cl := by
    rw [rowSite_eq]
    omega
  have hCol : rowSite cl c % 22 = c := by
    rw [rowSite_eq]
    omega
  rw [rowsAssigned, State.site_congr (clustersDescribed_sites _), foldl_assignRow_site List.nodup_range, hRow, hCol, if_pos (List.mem_range.mpr hcl)]

/-- The clusters withdrawn by the map. -/
def rowsGone (s : State) : List Nat := (List.range 40).filter (rowsAssigned s).withdrawn

theorem rowsGone_length (s : State) : (rowsGone s).length = 40 ↔ ∀ cl, cl < 40 → (usableCols s cl).length < 20 := by
  have hAll := List.length_filter_eq_length_iff (p := (rowsAssigned s).withdrawn) (l := List.range 40)
  rw [List.length_range] at hAll
  rw [rowsGone, hAll]
  refine forall_congr' fun cl => ?_
  rw [List.mem_range]
  refine forall_congr' fun hcl => ?_
  rw [(rowsAssigned_rowMapped s hcl).withdrawn, decide_eq_true_iff]

/-- The withdrawn clusters are reported. -/
def rowsReported (s : State) : State := (rowsGone s).foldl (fun s c => siteEvent s 3 (rowSite c 0) c) (rowsAssigned s)

theorem rowsReported_reported (s : State) : Reported (rowsAssigned s) (rowsReported s) :=
  .foldl (fun _ _ => siteEvent_reported _ _ _ _) _ _

theorem execLogicalMapBuild_fails {s : State} (hs : s.inStep 11 = true) (hGone : (rowsGone s).length = 40) :
    execLogicalMapBuild s = .next (bootFatal (rowsReported s) 7) := by
  unfold rowsGone rowsAssigned clustersDescribed at hGone
  unfold execLogicalMapBuild rowsReported rowsGone rowsAssigned clustersDescribed
  exact (if_neg (by simp [hs])).trans (if_pos hGone)

theorem execLogicalMapBuild_ends {s : State} (hs : s.inStep 11 = true) (hGone : (rowsGone s).length ≠ 40) :
    ∃ boot health, execLogicalMapBuild s =
      let u := domainsSet (sendMapUpd (fmaxSet (rowsReported s)) (List.range 40))
      .next (endStep { u with flash := { u.flash with boot := boot, health := health } } 11) := by
  unfold rowsGone rowsAssigned clustersDescribed at hGone
  unfold execLogicalMapBuild domainsSet fmaxSet rowsReported rowsGone rowsAssigned clustersDescribed
  exact ⟨_, _, (if_neg (by simp [hs])).trans (if_neg hGone)⟩

theorem logicalMapBuild_ends {s : State} (hs : s.inStep 11 = true) (hSome : ∃ cl, cl < 40 ∧ 20 ≤ (usableCols s cl).length) :
    ∃ t, exec .logicalMapBuild s = .next t ∧ StepEnded s t 11 ∧ (∀ cl, cl < 40 → RowMapped s t cl) ∧
      (∀ i, i < 880 → ((t.sitePwr i).dom = .on ↔ (t.site i).state = 1)) ∧ (∀ r, r < 5 → (t.clk r).fmax = t.fmaxRule r) ∧ t.mem = s.mem := by
  have hGone : (rowsGone s).length ≠ 40 := by
    obtain ⟨cl, hcl, hEnough⟩ := hSome
    intro hAll
    have := (rowsGone_length s).mp hAll cl hcl
    omega
  obtain ⟨boot, health, hExec⟩ := execLogicalMapBuild_ends hs hGone
  have hMapped : ∀ cl, cl < 40 → RowMapped s (rowsAssigned s) cl := fun cl hcl => rowsAssigned_rowMapped s hcl
  obtain ⟨xs, cs, hRows⟩ := rowsAssigned_eq s
  obtain ⟨ev, ks, ns, hReports⟩ := rowsReported_reported s
  generalize rowsReported s = m at hExec hReports
  rw [hRows] at hReports hMapped
  have hFmax : ∀ r, r < 5 → ((fmaxSet m).clk r).fmax = m.fmaxRule r := fun r hr => fmaxSet_fmax m hr
  obtain ⟨rs, hRegions⟩ := fmaxSet_eq m
  rw [hRegions] at hExec hFmax
  subst hReports
  generalize hUpd : sendMapUpd _ (List.range 40) = u at hExec
  have hDom : ∀ i, i < 880 → (((domainsSet u).sitePwr i).dom = .on ↔ (u.site i).state = 1) := fun i hi => domainsSet_dom u hi
  obtain ⟨ps, hDomains⟩ := domainsSet_eq u
  rw [hDomains] at hExec hDom
  subst hUpd
  exact ⟨_, hExec, SameStep.ends ⟨rfl, rfl, rfl, rfl, rfl⟩ hs, hMapped, hDom, hFmax, rfl⟩

theorem logicalMapBuild_fails {s : State} (hs : s.inStep 11 = true) (hNone : ∀ cl, cl < 40 → (usableCols s cl).length < 20) :
    ∃ t, exec .logicalMapBuild s = .next t ∧ StepFailed t 7 :=
  ⟨_, execLogicalMapBuild_fails hs ((rowsGone_length s).mpr hNone), bootFatal_stepFailed _ 7⟩

end Sys2Proof.Machine
end

section
/-! PROOFS. Step 12 of bring-up, the job boundary, and the obligation on bring-up. -/

namespace Sys2Proof.Machine

/-! ## Step 12 and the job boundary (R469, R475) -/

theorem recomputeLife_eq (s : State) :
    ∃ h d ev ks ns, recomputeLife s = { s with hlt := h, draws := d, events := ev, ksk := ks, notes := ns } := by
  obtain ⟨ev, ks, ns, h⟩ : Reported _ (recomputeLife s) := healthEvent_reported _ _ _ _
  exact ⟨_, _, ev, ks, ns, h⟩

/-- The Cuffs with a failing lane have failed (R469). -/
def cuffsFailed (s : State) (bad : List (Fin 64)) : State :=
  (bad.map (fun l => l.val / 8)).dedup.foldl (fun s c => s.modCuff c (fun x => { x with failed := true, laneFail := true })) s

theorem cuffsFailed_eq (s : State) (bad : List (Fin 64)) : ∃ cs, cuffsFailed s bad = { s with cuffs := cs } :=
  List.foldlRecOn (motive := fun t : State => ∃ cs, t = { s with cuffs := cs }) _ _ ⟨s.cuffs, rfl⟩
    (by rintro _ ⟨cs, rfl⟩ c -; exact ⟨_, rfl⟩)

theorem cuffsFailed_failed (s : State) (bad : List (Fin 64)) (c : Nat) :
    ((cuffsFailed s bad).cuff c).failed = ((s.cuff c).failed || bad.any (fun l => l.val / 8 = c)) := by
  have hFlag := foldl_flag (flag := fun s k => (s.cuff k).failed) (key := id)
    (f := fun s c => s.modCuff c (fun x => { x with failed := true, laneFail := true }))
    (fun t j k => by rw [State.cuff_modCuff]; split <;> simp [*]) ((bad.map (fun l => l.val / 8)).dedup) s c
  have hAny : ((bad.map (fun l => l.val / 8)).dedup).any (fun i => decide (c = id i)) = bad.any (fun l => decide (l.val / 8 = c)) := by
    rw [Bool.eq_iff_iff, List.any_eq_true, List.any_eq_true]
    simp [eq_comm]
  rw [hAny] at hFlag
  exact hFlag

/-- The event of the end of bring-up, and of a restart after a trip (log 39). -/
def readyReported (s : State) : State :=
  let s := bootEvent s 0
  if s.boot.cause = 5 then thermEvent s 2 0 0 (fld s.thm.tripCause 10 0) (fld s.thm.tripCause 31 16) 0 0 else s

theorem readyReported_reported (s : State) : Reported s (readyReported s) := by
  unfold readyReported
  dsimp only
  split
  · exact (bootEvent_reported s 0).trans (thermEvent_reported _ _ _ _ _ _ _ _)
  · exact bootEvent_reported s 0

theorem execCuffTraining_eq {s : State} (hs : s.inStep 12 = true) (bad : List (Fin 64)) :
    execCuffTraining bad s =
      let u := endStep (cuffsFailed s bad) 12
      .next (recomputeLife (readyReported { u with boot := { u.boot with phase := 0, ready := true } })) := by
  unfold execCuffTraining cuffsFailed readyReported
  exact if_neg (by simp [hs])

theorem cuffTraining_ends {s : State} (hs : s.inStep 12 = true) (bad : List (Fin 64)) :
    ∃ t, exec (.cuffTraining bad) s = .next t ∧ t.boot.ready = true ∧ t.boot.phase = 0 ∧ t.boot.fatal = false ∧ t.cores = s.cores ∧
      t.mem = s.mem ∧ ∀ c : Nat, (t.cuff c).failed = ((s.cuff c).failed || bad.any (fun l => l.val / 8 = c)) := by
  obtain ⟨-, hFatal, -, -⟩ := State.inStep_iff.mp hs
  have hExec := execCuffTraining_eq hs bad
  have hCuffs := cuffsFailed_failed s bad
  obtain ⟨cs, hEq⟩ := cuffsFailed_eq s bad
  rw [hEq] at hExec hCuffs
  dsimp only at hExec
  obtain ⟨h, d, ev, ks, ns, hLife⟩ := recomputeLife_eq (readyReported { (endStep { s with cuffs := cs } 12) with
    boot := { (endStep { s with cuffs := cs } 12).boot with phase := 0, ready := true } })
  obtain ⟨ev', ks', ns', hReady⟩ := readyReported_reported { (endStep { s with cuffs := cs } 12) with
    boot := { (endStep { s with cuffs := cs } 12).boot with phase := 0, ready := true } }
  rw [hLife, hReady] at hExec
  exact ⟨_, hExec, rfl, rfl, hFatal, rfl, rfl, hCuffs⟩

/-- Without open entries, the part but for its cores, memory and reports. -/
def Moved (s t : State) : Prop :=
  t.mem.merges = [] ∧ ∃ cs m ev ks ns, t = { s with cores := cs, mem := m, events := ev, ksk := ks, notes := ns }

theorem Moved.refl {s : State} (h : s.mem.merges = []) : Moved s s := ⟨h, s.cores, s.mem, s.events, s.ksk, s.notes, rfl⟩

theorem Moved.trans {s t u : State} (h : Moved s t) (h' : Moved t u) : Moved s u := by
  obtain ⟨-, cs, m, ev, ks, ns, rfl⟩ := h
  obtain ⟨hMerges, cs', m', ev', ks', ns', rfl⟩ := h'
  exact ⟨hMerges, cs', m', ev', ks', ns', rfl⟩

theorem Moved.upkept {s t u : State} (h : Moved s t) (h' : Upkept t u) : Moved s u := by
  obtain ⟨hMerges, cs, m, ev, ks, ns, rfl⟩ := h
  obtain ⟨hSame, m', ev', ks', ns', rfl⟩ := h'
  exact ⟨hSame.trans hMerges, cs, m', ev', ks', ns', rfl⟩

theorem Moved.setCore {s t : State} (h : Moved s t) (lc : Nat) (c : Core) : Moved s (t.setCore lc c) := by
  obtain ⟨hMerges, cs, m, ev, ks, ns, rfl⟩ := h
  exact ⟨hMerges, _, m, ev, ks, ns, rfl⟩

theorem Moved.clearUnit {s t : State} (h : Moved s t) (space unit : Nat) : Moved s (clearUnit t space unit) :=
  h.upkept (clearUnit_upkept h.1 space unit)

theorem Moved.moveUnit {s t : State} (h : Moved s t) (old : State) (a b : Nat) : Moved s (moveUnit old t a b) :=
  h.upkept (.of_mem rfl)

theorem Moved.closeWhere {s t : State} (h : Moved s t) (p : MergeEntry → Bool) : Moved s (closeWhere t p) := by
  rw [closeWhere_of_no_merges h.1]
  exact h

theorem Moved.foldl {ι : Type} {s t : State} {f : State → ι → State} (h : Moved s t) (hf : ∀ u i, Moved s u → Moved s (f u i)) (l : List ι) :
    Moved s (l.foldl f t) :=
  List.foldlRecOn (motive := fun u : State => Moved s u) l f h (fun u hu i _ => hf u i hu)

/-- The rebuild of a row assigns its sites; but for them, cores, memory, reports and `CLUSTER_DESC` are all that it changes. -/
theorem rebuildRow_moved {s : State} (hMerges : s.mem.merges = []) (cl : Nat) :
    ∃ t cs, Moved (assignRow s cl) t ∧ rebuildRow s cl = { t with clusters := cs } := by
  have hAssigned : Moved (assignRow s cl) (assignRow s cl) := by
    refine .refl ?_
    rw [assignRow_sites]
    exact hMerges
  unfold rebuildRow
  dsimp only
  refine ⟨_, _, ((hAssigned.foldl (fun u lc hu => ?_) _).closeWhere _).foldl (fun u n hu => ?_) _, rfl⟩
  · split
    · exact hu
    · have hClear := (hu.clearUnit 1 lc).clearUnit 2 lc
      split
      · exact hClear.setCore _ _
      · split
        · exact hClear.setCore _ _
        · exact hClear.setCore _ _
  · split
    · exact hu
    · have hClear := hu.clearUnit 3 n
      split
      · exact hClear.moveUnit _ _ _
      · exact hClear

theorem gateRow_eq (s t : State) (cl : Nat) : ∃ p, gateRow s t cl = { t with pwr := p } :=
  List.foldlRecOn (motive := fun u : State => ∃ p, u = { t with pwr := p }) _ _ ⟨t.pwr, rfl⟩
    (by rintro _ ⟨p, rfl⟩ i -; exact ⟨_, rfl⟩)

theorem execJobBoundary_idle {s : State} {cl : Fin 40} (h : Tbl.get false s.rowPending cl = false ∨ s.rowTaken cl = true) :
    execJobBoundary cl s = .next s := by
  unfold execJobBoundary
  exact if_pos (by rcases h with h | h <;> simp [h])

/-- A row with a pending change, at its boundary. -/
theorem execJobBoundary_eq {s : State} {cl : Fin 40} (hPending : Tbl.get false s.rowPending cl = true) (hFree : s.rowTaken cl = false)
    (hReady : s.boot.ready = true) :
    ∃ sub moved, execJobBoundary cl s =
      let t := sendMapUpd (setFmax (gateRow s (rebuildRow s cl) cl) (regionOf cl)) [cl.val]
      let t := siteEvent t sub moved cl
      .next { t with rowPending := Tbl.set false t.rowPending cl false, boot := { t.boot with remaps := satAdd t.boot.remaps 1 } } := by
  unfold execJobBoundary
  exact ⟨_, _, if_neg (by simp [hPending, hFree, hReady])⟩

/-- The rebuild of a row and the gating of its sites change the row's sites and, else, what hangs on them alone. -/
theorem gateRow_rebuildRow_eq {s : State} (hMerges : s.mem.merges = []) (cl : Nat) :
    ∃ cores m ev ks ns cs p, gateRow s (rebuildRow s cl) cl = { s with
      sites := (assignRow s cl).sites, cores := cores, mem := m, events := ev, ksk := ks, notes := ns, clusters := cs, pwr := p } := by
  obtain ⟨t, cs, ⟨-, cores, m, ev, ks, ns, hMoved⟩, hRebuild⟩ := rebuildRow_moved hMerges cl
  obtain ⟨p, hGate⟩ := gateRow_eq s (rebuildRow s cl) cl
  rw [assignRow_sites] at hMoved
  refine ⟨cores, m, ev, ks, ns, cs, p, ?_⟩
  rw [hGate, hRebuild, hMoved]

theorem assignRow_rowMapped (s : State) (cl : Nat) : RowMapped s (assignRow s cl) cl := by
  refine rowMapped_of_placed (fun c hc => ?_)
  rw [assignRow_site, rowSite_eq, if_pos (by omega), Nat.mul_add_mod, Nat.mod_eq_of_lt hc]

/-- A mapped row stands in the sites alone. -/
theorem RowMapped.congr {s t t' : State} {cl : Nat} (h : RowMapped s t cl) (hSites : t'.sites = t.sites) : RowMapped s t' cl := by
  intro c hc
  rw [State.site_congr hSites]
  exact h c hc

theorem sendMapUpd_updRows (s : State) (cls : List Nat) : (sendMapUpd s cls).tr.updRows = s.tr.updRows ++ cls := rfl

theorem jobBoundary_ends {s : State} {cl : Fin 40} (hPending : Tbl.get false s.rowPending cl = true) (hFree : s.rowTaken cl = false)
    (hReady : s.boot.ready = true) (hMerges : s.mem.merges = []) :
    ∃ t, exec (.jobBoundary cl) s = .next t ∧ RowMapped s t cl ∧
      t.rowPending = Tbl.set false s.rowPending cl false ∧ t.boot.remaps = satAdd s.boot.remaps 1 ∧ cl.val ∈ t.tr.updRows ∧
      (t.clk (regionOf cl)).fmax = t.fmaxRule (regionOf cl) ∧ t.jobs = s.jobs := by
  obtain ⟨sub, moved, hExec⟩ := execJobBoundary_eq hPending hFree hReady
  obtain ⟨cores, m, ev, ks, ns, cs, p, hRow⟩ := gateRow_rebuildRow_eq hMerges cl
  generalize gateRow s (rebuildRow s cl) cl = u at hExec hRow
  have hMapped : RowMapped s u cl := (assignRow_rowMapped s cl).congr (by rw [hRow])
  have hFmax : ((setFmax u (regionOf cl)).clk (regionOf cl)).fmax = u.fmaxRule (regionOf cl) := by
    rw [setFmax_clk, if_pos rfl]
  have hPend : u.rowPending = s.rowPending := by rw [hRow]
  have hBoot : u.boot = s.boot := by rw [hRow]
  have hJobs : u.jobs = s.jobs := by rw [hRow]
  obtain ⟨ev', ks', ns', hEvent⟩ := siteEvent_reported (sendMapUpd (setFmax u (regionOf cl)) [cl.val]) sub moved cl
  dsimp only at hExec
  rw [hEvent] at hExec
  refine ⟨_, hExec, hMapped.congr rfl, ?_, ?_, ?_, ?_, ?_⟩
  · exact congrArg (Tbl.set false · cl false) hPend
  · exact congrArg (fun b => satAdd b.remaps 1) hBoot
  · change cl.val ∈ (sendMapUpd (setFmax u (regionOf cl)) [cl.val]).tr.updRows
    rw [sendMapUpd_updRows]
    exact List.mem_append_right _ List.mem_cons_self
  · refine (congrArg ClockRegion.fmax (State.clk_congr (s := setFmax u (regionOf cl)) ?_ _)).trans (hFmax.trans (fmaxRule_congr ?_ _).symm)
    · rfl
    · rfl
  · exact hJobs

theorem bringUpEnds : BringUpEnds := by
  intro s
  refine ⟨fun hs failed ws => memoryTest_ends hs failed ws, fun hs hFuse hSoft hCold r hTests hNew =>
    ⟨repair_ends_of_spare hs hFuse hSoft hCold hTests hNew, repair_ends_of_retirement hs hFuse hSoft hCold hTests hNew⟩, fun hs =>
    ⟨logicalMapBuild_ends hs, logicalMapBuild_fails hs⟩, fun hs bad => cuffTraining_ends hs bad, fun cl =>
    ⟨jobBoundary_ends, execJobBoundary_idle⟩⟩

/-- Settles O52: step by step, each end of a step reduced to what its work leaves alone. -/
theorem bringUp : Obligations.BringUp := ⟨bringUpStarts, bringUpEnds⟩

end Sys2Proof.Machine
end

section
/-! SUPPORT. How a host command is taken, carried out and completed. -/

namespace Sys2Proof.Machine

/-! ## Taking a command (R376 to R378) -/

theorem Tbl.mem_set {α : Type} [DecidableEq α] {d : α} {t : Tbl α} {k : Nat} {v : α} {e : Nat × α} (h : e ∈ Tbl.set d t k v) :
    e = (k, v) ∨ e ∈ t := by
  unfold Tbl.set at h
  split at h
  · exact .inr (List.mem_filter.mp h).1
  · rcases Tbl.mem_insert h with h | h
    · exact .inl h
    · exact .inr (List.mem_filter.mp h).1

theorem State.queue_congr {s t : State} (h : t.hif.queues = s.hif.queues) (n : Nat) : t.queue n = s.queue n := by
  rw [State.queue, State.queue, h]

theorem State.queue_modQueue (s : State) (q k : Nat) (f : HostQueue → HostQueue) :
    (s.modQueue q f).queue k = if k = q then f (s.queue k) else s.queue k := by
  split
  · next h => rw [h, State.queue_modQueue_same]
  · next h => exact State.queue_modQueue_other s f h

/-- The part that has accepted an entry for a command of a kind. -/
def accepting (s : State) (k : CmdKind) (q : Nat) (e : Entry) : State :=
  acceptCmd s k.torzan (k.kiosk (s.params e)) (k.foot s (s.params e)) q e

/-- The record of an accepted command, before it starts. -/
def acceptedRun (s : State) (k : CmdKind) (e : Entry) : Running :=
  { id := s.hif.nextId, cid := e.cid, torzan := k.torzan, foot := k.foot s (s.params e), kiosk := k.kiosk (s.params e)
    started := false, held := true, e := e }

/-- The part that has accepted and started the command. -/
def taken (s : State) (k : CmdKind) (q : Nat) (e : Entry) : State := startCmd (accepting s k q e) { q := q, id := s.hif.nextId }

theorem accepting_eq (s : State) (k : CmdKind) (q : Nat) (e : Entry) :
    ∃ qs, accepting s k q e = { s with hif := { s.hif with queues := qs, acc := bump s.hif.acc 1, nextId := s.hif.nextId + 1 } } := ⟨_, rfl⟩

theorem accepting_queue (s : State) (k : CmdKind) (q : Nat) (e : Entry) (n : Nat) :
    (accepting s k q e).queue n =
      if n = q then { s.queue n with running := (s.queue n).running ++ [acceptedRun s k e] } else s.queue n := by
  have hQueues : (accepting s k q e).hif.queues = (s.modQueue q (fun x => { x with running := x.running ++ [acceptedRun s k e] })).hif.queues := rfl
  rw [State.queue_congr hQueues, State.queue_modQueue]

theorem taken_eq (s : State) (k : CmdKind) (q : Nat) (e : Entry) :
    ∃ qs, taken s k q e = { s with hif := { s.hif with queues := qs, acc := bump s.hif.acc 1, nextId := s.hif.nextId + 1 } } := by
  obtain ⟨qs, h⟩ := accepting_eq s k q e
  rw [taken, startCmd, h]
  exact ⟨_, rfl⟩

/-- On a queue with nothing in progress the command taken is the only one. -/
theorem taken_queue {s : State} {q : Nat} (hIdle : (s.queue q).running = []) (k : CmdKind) (e : Entry) (n : Nat) :
    (taken s k q e).queue n = if n = q then { s.queue n with running := [{ acceptedRun s k e with started := true }] } else s.queue n := by
  rw [taken, startCmd, State.queue_modQueue, accepting_queue]
  split
  · next h =>
    rw [h, hIdle, List.nil_append, List.map_singleton]
    exact congrArg (fun r => { s.queue q with running := [r] }) (if_pos rfl)
  · rfl

theorem accepting_expertQueue (s : State) (k : CmdKind) (q : Nat) (e : Entry) (n : Nat) :
    (accepting s k q e).expertQueue n = s.expertQueue n := by
  have hFlag : ((accepting s k q e).queue n).expert = (s.queue n).expert := by
    rw [accepting_queue]
    split <;> rfl
  unfold State.expertQueue
  rw [hFlag]
  rfl

/-- The checks of a command read nothing that its acceptance changes. -/
theorem checkCmd_accepting (s : State) (k : CmdKind) (q : Nat) (e : Entry) (n : Nat) (ps data : List Byte) :
    checkCmd (accepting s k q e) k n e ps data = checkCmd s k n e ps data := by
  unfold checkCmd
  rw [accepting_expertQueue]
  rfl

theorem accepting_kioskBusy {s : State} {q : Nat} (hIdle : (s.queue q).running = []) (hKiosk : ∀ id, s.kioskBusy id = false)
    (k : CmdKind) (e : Entry) : (accepting s k q e).kioskBusy s.hif.nextId = false := by
  refine List.any_eq_false.mpr (fun x hx => ?_)
  rcases Tbl.mem_set hx with rfl | hx
  · change ¬ ((s.queue q).running ++ [acceptedRun s k e]).any _ = true
    rw [hIdle]
    simp [acceptedRun]
  · exact List.any_eq_false.mp (hKiosk s.hif.nextId) x hx

/-- A command that its queue takes at once goes on to the checks of R381 (R376 to R378). -/
theorem hostRun_of_takes {s : State} {q : BitVec 16} {e : Entry} {ps : List Byte} (h : HostTakes s q e ps) (i : Instr) (k : CmdKind)
    (act : CmdRun → State → Act) :
    hostRun i k q e s act = .next (runStarted i k { q := q.toNat, id := s.hif.nextId } e (accepting s k q.toNat e) act) := by
  obtain ⟨⟨hOn, hDrain, hIdle, -, -, -⟩, ⟨hBme, hTorzan, hKiosk⟩, -, -, -⟩ := h
  have hNone : (s.queue q.toNat).accepted e = none := by rw [HostQueue.accepted, hIdle]; rfl
  have hFirst : ((accepting s k q.toNat e).queue q.toNat).running.takeWhile (fun r => decide (r.id ≠ s.hif.nextId)) = [] := by
    rw [accepting_queue, if_pos rfl, hIdle]
    simp [acceptedRun]
  have hStart : ∀ torzan fence foot, mayStart [] torzan fence foot = true := by
    intro torzan fence foot
    cases torzan <;> cases fence <;> rfl
  have hGo : ¬ (!mayStart (((accepting s k q.toNat e).queue q.toNat).running.takeWhile (fun r => decide (r.id ≠ s.hif.nextId))) k.torzan
      (entFence e) (k.foot (accepting s k q.toNat e) ((accepting s k q.toNat e).params e))
      || (needsHost k (accepting s k q.toNat e) e && !(accepting s k q.toNat e).hif.bme)
      || (k.kiosk ((accepting s k q.toNat e).params e) && (accepting s k q.toNat e).kioskBusy s.hif.nextId)) = true := by
    have hBme' : (accepting s k q.toNat e).hif.bme = true := hBme
    rw [hFirst, hStart, hBme', accepting_kioskBusy hIdle hKiosk]
    simp
  have hFetches : ¬ ((s.queue q.toNat).st ≠ .on || (s.queue q.toNat).draining) = true := by simp [hOn, hDrain]
  have hRoom : ¬ (k.torzan && 256 ≤ s.torzanRunning) = true := by simp; omega
  unfold hostRun
  dsimp only
  rw [hNone]
  dsimp only
  rw [if_neg hFetches, if_neg hRoom]
  exact if_neg hGo

/-! ## The checks before a command's own rules (R381) -/

/-- The data buffer of a command of a kind is as Table 13.9 has it, and the host answers where the command reads it. -/
def BufferFits (s : State) (b : DataBuf) (e : Entry) : Prop :=
  match b with
  | .none => e.daddr = 0 ∧ e.dlen = 0
  | .input n => e.dlen.toNat = n ∧ s.hostFails e.daddr.toNat n = false
  | .output n => n ≤ e.dlen.toNat
  | .own => True
  | .front n => s.hostFails e.daddr.toNat (min e.dlen.toNat n) = false

/-- The input buffer that a command of a kind is given. -/
def inputOf (s : State) (b : DataBuf) (e : Entry) : List Byte :=
  match b with
  | .input _ => s.hostBytes e.daddr.toNat e.dlen.toNat
  | .front n => s.hostBytes e.daddr.toNat (min e.dlen.toNat n)
  | _ => []

theorem HostTakes.cmdDmaFails {s : State} {q : BitVec 16} {e : Entry} {ps : List Byte} (h : HostTakes s q e ps) {k : CmdKind}
    (hBuf : BufferFits s (k.buf ps) e) : s.cmdDmaFails k e = false := by
  obtain ⟨-, -, hParams, hLen, hInline⟩ := h
  have hBlock : (!entInline e && s.hostFails (leField (entTail e) 0 7) (min 64 e.plen.toNat)) = false := by
    cases hIn : entInline e with
    | true => rfl
    | false =>
      rw [hIn] at hInline
      obtain ⟨-, hFails⟩ := hInline
      have hMin : min 64 e.plen.toNat = ps.length := by
        rw [← hParams, State.params, hIn, State.hostBytes]
        simp
      rw [hMin, hFails]
      rfl
  unfold State.cmdDmaFails
  rw [hBlock, hParams, Bool.false_or]
  cases hKind : k.buf ps with
  | input n =>
    rw [hKind] at hBuf
    obtain ⟨hDlen, hFails⟩ := hBuf
    rw [← hDlen] at hFails
    exact hFails
  | front n =>
    rw [hKind] at hBuf
    exact hBuf
  | none => rfl
  | output n => rfl
  | own => rfl

theorem HostTakes.paramBad {s : State} {q : BitVec 16} {e : Entry} {ps : List Byte} (h : HostTakes s q e ps) {k : CmdKind}
    (hLen : ps.length ∈ k.plens) (hRange : k.range ps = true) (hBuf : BufferFits s (k.buf ps) e) : paramBad k e ps = false := by
  obtain ⟨-, -, -, hPlen, hInline⟩ := h
  have hPlace : (entInline e && decide (32 < e.plen.toNat)) = false ∧ (!entInline e && decide (leField (entTail e) 0 7 % 8 ≠ 0)) = false := by
    cases hIn : entInline e with
    | true =>
      rw [hIn] at hInline
      have : ps.length ≤ 32 := hInline
      simp
      omega
    | false =>
      rw [hIn] at hInline
      simp [hInline.1]
  unfold Machine.paramBad
  rw [hPlace.1, hPlace.2, hRange, hPlen]
  cases hKind : k.buf ps with
  | none =>
    rw [hKind] at hBuf
    simp [hLen, hBuf.1, hBuf.2]
  | input n =>
    rw [hKind] at hBuf
    simp [hLen, hBuf.1]
  | output n =>
    rw [hKind] at hBuf
    simp [hLen]
    exact hBuf
  | own => simp [hLen]
  | front n => simp [hLen]

/-- A command of the part's own kind passes the checks of R381 that come before its own rules. -/
theorem checkCmd_passes {s : State} {q : BitVec 16} {e : Entry} {ps data : List Byte} (h : HostReady s q e ps) {k : CmdKind}
    (hLen : ps.length ∈ k.plens) (hRsv : k.rsv ps data = false) (hExpert : k.expert = false) (hField : k.expertField ps data = false)
    (hRange : k.range ps = true) (hBuf : BufferFits s (k.buf ps) e) : checkCmd s k q.toNat e ps data = 0 := by
  obtain ⟨hTakes, hReserved, hReady, hFatal⟩ := h
  simp [checkCmd, hReserved, hTakes.cmdDmaFails hBuf, hRsv, hExpert, hField, hReady, hFatal, hTakes.paramBad hLen hRange hBuf]

/-- What the rules of a command that has passed the checks are given. -/
def runOf (s : State) (k : CmdKind) (q : Nat) (e : Entry) (ps : List Byte) : CmdRun :=
  { ref := { q := q, id := s.hif.nextId }, ps := ps, data := inputOf s (k.buf ps) e, daddr := e.daddr.toNat, dlen := e.dlen.toNat
    expert := s.expertQueue q }

/-- What becomes of a command by the answer of its own rules; `s` is the part that has started it. -/
def answered (s : State) (i : Instr) (r : CmdRef) : Act → State
  | .done t status ign r0 r1 => completeCmd t r status ign r0 r1
  | .later t => parkCmd t r
  | .wait => s.hold i
  | .waits t => t.hold i

theorem runStarted_of_passes {s : State} {k : CmdKind} {r : CmdRef} {e : Entry}
    (hCheck : checkCmd s k r.q e (s.params e) (inputOf s (k.buf (s.params e)) e) = 0) (i : Instr) (act : CmdRun → State → Act) :
    runStarted i k r e s act = answered (startCmd s r) i r
      (act { ref := r, ps := s.params e, data := inputOf s (k.buf (s.params e)) e, daddr := e.daddr.toNat, dlen := e.dlen.toNat
             expert := s.expertQueue r.q } (startCmd s r)) := by
  unfold runStarted
  dsimp only
  split
  · unfold answered
    rfl
  · next hFails => exact (hFails hCheck).elim

/-- A command that is taken at once and passes the checks does what its own rules answer (R376 to R381). -/
theorem hostRun_of_passes {s : State} {q : BitVec 16} {e : Entry} {ps : List Byte} (h : HostReady s q e ps) (i : Instr) {k : CmdKind}
    (act : CmdRun → State → Act) (hCheck : checkCmd s k q.toNat e ps (inputOf s (k.buf ps) e) = 0) :
    hostRun i k q e s act = .next (answered (taken s k q.toNat e) i { q := q.toNat, id := s.hif.nextId }
      (act (runOf s k q.toNat e ps) (taken s k q.toNat e))) := by
  obtain ⟨hTakes, -⟩ := h
  obtain ⟨-, -, hParams, -⟩ := id hTakes
  have hPs : (accepting s k q.toNat e).params e = ps := hParams
  have hInput : inputOf (accepting s k q.toNat e) (k.buf ps) e = inputOf s (k.buf ps) e := by
    cases k.buf ps <;> rfl
  have hPasses : checkCmd (accepting s k q.toNat e) k q.toNat e ((accepting s k q.toNat e).params e)
      (inputOf (accepting s k q.toNat e) (k.buf ((accepting s k q.toNat e).params e)) e) = 0 := by
    rw [hPs, hInput, checkCmd_accepting, hCheck]
  rw [hostRun_of_takes hTakes, runStarted_of_passes (r := { q := q.toNat, id := s.hif.nextId }) hPasses, accepting_expertQueue, hPs, hInput]
  rfl

/-! ## Completing a command (R374, R376, R390) -/

theorem sendIrq_queue (s : State) (q n : Nat) :
    (sendIrq s q).queue n = if n = q then { s.queue n with gathered := 0 } else s.queue n := by
  have hQueues : (sendIrq s q).hif.queues = (s.modQueue q (fun x => { x with gathered := 0 })).hif.queues := rfl
  rw [State.queue_congr hQueues, State.queue_modQueue]

/-- A queue whose ring has taken an entry more. -/
def HostQueue.advanced (x : HostQueue) (us : Nat) : HostQueue :=
  { x with
    cqSlot := if x.cqSlot + 1 = 2 ^ x.cqLog then 0 else x.cqSlot + 1
    cqPhase := if x.cqSlot + 1 = 2 ^ x.cqLog then !x.cqPhase else x.cqPhase
    gathered := x.gathered + 1
    coalAt := if x.gathered = 0 then us else x.coalAt }

/-- The part with the completion entry of a command written and counted, before an interrupt. -/
def entryWritten (s : State) (q : Nat) (c : Cpl) : State :=
  let x := s.queue q
  let t := (s.hostPut (x.cqBase + 32 * x.cqSlot) (x.entry c)).modQueue q (fun x => x.advanced s.us)
  { t with hif := { t.hif with cpl := bump t.hif.cpl 1 } }

theorem writeCpl_eq {s : State} {q : Nat} (hFails : s.hostFails ((s.queue q).cqBase + 32 * (s.queue q).cqSlot) 32 = false) (c : Cpl) :
    writeCpl s q c true =
      if (s.queue q).irqEn = true ∧ max 1 (s.queue q).coalCnt ≤ (s.queue q).gathered + 1 then sendIrq (entryWritten s q c) q
      else entryWritten s q c := by
  unfold writeCpl
  dsimp only
  rw [if_neg (by simp [hFails])]
  exact if_congr (by rw [Bool.and_eq_true, decide_eq_true_iff]) rfl rfl

theorem entryWritten_queue (s : State) (q : Nat) (c : Cpl) (n : Nat) :
    (entryWritten s q c).queue n = if n = q then (s.queue n).advanced s.us else s.queue n := by
  have hQueues : (entryWritten s q c).hif.queues = (s.modQueue q (fun x => x.advanced s.us)).hif.queues := rfl
  rw [State.queue_congr hQueues, State.queue_modQueue]

/-- Only the host interface and the host's memory differ. -/
def HostOnly (s t : State) : Prop := ∃ h m, t = { s with hif := h, hostMem := m }

theorem HostOnly.refl (s : State) : HostOnly s s := ⟨s.hif, s.hostMem, rfl⟩

theorem HostOnly.trans {s t u : State} (h : HostOnly s t) (h' : HostOnly t u) : HostOnly s u := by
  obtain ⟨hif, m, rfl⟩ := h
  obtain ⟨hif', m', rfl⟩ := h'
  exact ⟨hif', m', rfl⟩

theorem modQueue_hostOnly (s : State) (q : Nat) (f : HostQueue → HostQueue) : HostOnly s (s.modQueue q f) := ⟨_, s.hostMem, rfl⟩

theorem sendIrq_hostOnly (s : State) (q : Nat) : HostOnly s (sendIrq s q) := ⟨_, s.hostMem, rfl⟩

theorem entryWritten_hostOnly (s : State) (q : Nat) (c : Cpl) : HostOnly s (entryWritten s q c) :=
  (HostOnly.trans ⟨s.hif, _, rfl⟩ (modQueue_hostOnly (s.hostPut _ _) q _)).trans ⟨_, _, rfl⟩

theorem writeCpl_hostOnly (s : State) (q : Nat) (c : Cpl) : HostOnly s (writeCpl s q c true) := by
  cases hFails : s.hostFails ((s.queue q).cqBase + 32 * (s.queue q).cqSlot) 32 with
  | true =>
    unfold writeCpl
    dsimp only
    rw [if_pos hFails]
    exact modQueue_hostOnly s q _
  | false =>
    rw [writeCpl_eq hFails]
    split
    · exact (entryWritten_hostOnly s q c).trans (sendIrq_hostOnly _ q)
    · exact entryWritten_hostOnly s q c

theorem postCpl_hostOnly (s : State) (q : Nat) (c : Cpl) : HostOnly s (postCpl s q c) := by
  unfold postCpl
  dsimp only
  split
  · exact writeCpl_hostOnly s q c
  · exact modQueue_hostOnly s q _

/-- Completing a command changes the host interface and the host's memory alone. -/
theorem completeCmd_hostOnly (s : State) (r : CmdRef) (status : Nat) (ign : Bool) (r0 r1 : Nat) :
    HostOnly s (completeCmd s r status ign r0 r1) := by
  unfold completeCmd
  split
  · exact .refl s
  · exact (modQueue_hostOnly s r.q _).trans (postCpl_hostOnly _ r.q _)

theorem parkCmd_hostOnly (s : State) (r : CmdRef) : HostOnly s (parkCmd s r) := modQueue_hostOnly s r.q _

/-- The completion of a command. -/
def cplOf (e : Entry) (status : Nat) (ign : Bool) (r0 r1 : Nat) : Cpl := { cid := e.cid, status := status, ign := ign, r0 := r0, r1 := r1 }

section Completes

variable {s t : State} {q : BitVec 16} {e : Entry} {ps : List Byte} {k : CmdKind}

/-- The queue without the command that completes. -/
def withdrawnRun (t : State) (q id : Nat) : State :=
  t.modQueue q (fun y => { y with running := y.running.filter (fun z => z.id ≠ id) })

theorem withdrawnRun_queue (h : HostReady s q e ps) (hQueue : t.queue q.toNat = (taken s k q.toNat e).queue q.toNat) (n : Nat) :
    (withdrawnRun t q.toNat s.hif.nextId).queue n = if n = q.toNat then s.queue n else t.queue n := by
  obtain ⟨⟨⟨-, -, hIdle, -⟩, -⟩, -⟩ := h
  rw [taken_queue hIdle, if_pos rfl] at hQueue
  rw [withdrawnRun, State.queue_modQueue]
  split
  · next hn =>
    subst hn
    have hSame : { s.queue q.toNat with running := [] } = s.queue q.toNat := by
      rw [← hIdle]
    rw [hQueue, ← hSame]
    simp [acceptedRun]
  · rfl

/-- A command that was taken at once completes at once (R374, R376). -/
theorem completeCmd_writes (h : HostReady s q e ps) (hQueue : t.queue q.toNat = (taken s k q.toNat e).queue q.toNat)
    (hBme : t.hif.bme = s.hif.bme) (status : Nat) (ign : Bool) (r0 r1 : Nat) :
    completeCmd t { q := q.toNat, id := s.hif.nextId } status ign r0 r1 =
      writeCpl (withdrawnRun t q.toNat s.hif.nextId) q.toNat (cplOf e status ign r0 r1) true := by
  have hLeft := withdrawnRun_queue h hQueue q.toNat
  obtain ⟨⟨⟨-, -, hIdle, hWaiting, hRoom, -⟩, ⟨hMaster, -, -⟩, -⟩, -⟩ := h
  rw [if_pos rfl] at hLeft
  rw [taken_queue hIdle, if_pos rfl] at hQueue
  have hFind : (t.queue q.toNat).running.find? (fun x => x.id = s.hif.nextId) = some { acceptedRun s k e with started := true } := by
    rw [hQueue]
    simp [acceptedRun]
  have hBme' : (withdrawnRun t q.toNat s.hif.nextId).hif.bme = true := hBme.trans hMaster
  unfold completeCmd
  dsimp only
  rw [hFind]
  dsimp only
  change postCpl (withdrawnRun t q.toNat s.hif.nextId) q.toNat (cplOf e status ign r0 r1) = _
  unfold postCpl
  dsimp only
  rw [hLeft, hBme', hRoom, hWaiting]
  rfl

/-- A command that completes at once, without and with the interrupt of its queue (R374, R376). -/
theorem completeCmd_cases (h : HostReady s q e ps) (hQueue : t.queue q.toNat = (taken s k q.toNat e).queue q.toNat)
    (hBme : t.hif.bme = s.hif.bme) (hBad : t.hostBad = s.hostBad) (status : Nat) (ign : Bool) (r0 r1 : Nat) :
    completeCmd t { q := q.toNat, id := s.hif.nextId } status ign r0 r1 =
      if (s.queue q.toNat).irqEn = true ∧ max 1 (s.queue q.toNat).coalCnt ≤ (s.queue q.toNat).gathered + 1 then
        sendIrq (entryWritten (withdrawnRun t q.toNat s.hif.nextId) q.toNat (cplOf e status ign r0 r1)) q.toNat
      else entryWritten (withdrawnRun t q.toNat s.hif.nextId) q.toNat (cplOf e status ign r0 r1) := by
  have hLeft := withdrawnRun_queue h hQueue q.toNat
  rw [if_pos rfl] at hLeft
  have hFails : (withdrawnRun t q.toNat s.hif.nextId).hostFails
      (((withdrawnRun t q.toNat s.hif.nextId).queue q.toNat).cqBase + 32 * ((withdrawnRun t q.toNat s.hif.nextId).queue q.toNat).cqSlot) 32 = false := by
    obtain ⟨⟨⟨-, -, -, -, -, hAnswers⟩, -⟩, -⟩ := h
    have hBad' : (withdrawnRun t q.toNat s.hif.nextId).hostBad = s.hostBad := hBad
    rw [hLeft, State.hostFails, hBad']
    exact hAnswers
  rw [completeCmd_writes h hQueue hBme, writeCpl_eq hFails, hLeft]

theorem entryWritten_withdrawnRun_queue (h : HostReady s q e ps) (hQueue : t.queue q.toNat = (taken s k q.toNat e).queue q.toNat)
    (c : Cpl) (n : Nat) :
    (entryWritten (withdrawnRun t q.toNat s.hif.nextId) q.toNat c).queue n =
      if n = q.toNat then (s.queue n).advanced t.us else t.queue n := by
  rw [entryWritten_queue, withdrawnRun_queue h hQueue]
  split <;> rfl

/-- The queues after a command that completes at once. -/
theorem completeCmd_queue (h : HostReady s q e ps) (hQueue : t.queue q.toNat = (taken s k q.toNat e).queue q.toNat)
    (hBme : t.hif.bme = s.hif.bme) (hBad : t.hostBad = s.hostBad) (status : Nat) (ign : Bool) (r0 r1 : Nat) :
    (∀ n, n ≠ q.toNat → (completeCmd t { q := q.toNat, id := s.hif.nextId } status ign r0 r1).queue n = t.queue n) ∧
    ((completeCmd t { q := q.toNat, id := s.hif.nextId } status ign r0 r1).queue q.toNat).running = [] := by
  obtain ⟨⟨⟨-, -, hIdle, -⟩, -⟩, -⟩ := id h
  rw [completeCmd_cases h hQueue hBme hBad]
  split
  · refine ⟨fun n hn => ?_, ?_⟩
    · rw [sendIrq_queue, if_neg hn, entryWritten_withdrawnRun_queue h hQueue, if_neg hn]
    · rw [sendIrq_queue, if_pos rfl, entryWritten_withdrawnRun_queue h hQueue, if_pos rfl]
      exact hIdle
  · refine ⟨fun n hn => ?_, ?_⟩
    · rw [entryWritten_withdrawnRun_queue h hQueue, if_neg hn]
    · rw [entryWritten_withdrawnRun_queue h hQueue, if_pos rfl]
      exact hIdle

/-- The entry of a completion and the writes before it stand in the host's memory. -/
theorem entryWritten_withdrawnRun_hostMem (h : HostReady s q e ps) (hQueue : t.queue q.toNat = (taken s k q.toNat e).queue q.toNat)
    {u : State} (hMem : t.hostMem = u.hostMem) (c : Cpl) :
    (entryWritten (withdrawnRun t q.toNat s.hif.nextId) q.toNat c).hostMem =
      (u.hostPut ((s.queue q.toNat).cqBase + 32 * (s.queue q.toNat).cqSlot) ((s.queue q.toNat).entry c)).hostMem := by
  have hLeft := withdrawnRun_queue h hQueue q.toNat
  rw [if_pos rfl] at hLeft
  change Tbl.setMany 0 t.hostMem _ _ = Tbl.setMany 0 u.hostMem _ _
  rw [hLeft, hMem]

/-- The host interface after the entry is written: counted, and no longer in progress. -/
theorem entryWritten_withdrawnRun_hif (hHif : t.hif = (taken s k q.toNat e).hif) (c : Cpl) :
    ∃ qs, (entryWritten (withdrawnRun t q.toNat s.hif.nextId) q.toNat c).hif =
      { s.hif with queues := qs, acc := bump s.hif.acc 1, cpl := bump s.hif.cpl 1, nextId := s.hif.nextId + 1 } := by
  obtain ⟨qs, hTaken⟩ := taken_eq s k q.toNat e
  have hWritten : ∃ qs, (entryWritten (withdrawnRun t q.toNat s.hif.nextId) q.toNat c).hif = { t.hif with queues := qs, cpl := bump t.hif.cpl 1 } :=
    ⟨_, rfl⟩
  rw [hTaken] at hHif
  rw [hHif] at hWritten
  exact hWritten

/-- A command whose effect leaves the host interface alone, with the bytes `ws` written for it, has replied (R374, R376, Table 13.7). -/
theorem completeCmd_replied (h : HostReady s q e ps) (hHif : t.hif = (taken s k q.toNat e).hif) (hBad : t.hostBad = s.hostBad)
    {ws : List (Nat × List Byte)} (hMem : t.hostMem = (ws.foldl (fun u w => u.hostPut w.1 w.2) s).hostMem)
    (status : Nat) (ign : Bool) (r0 r1 : Nat) :
    Replied s (completeCmd t { q := q.toNat, id := s.hif.nextId } status ign r0 r1) q e status ign r0 r1 ws := by
  obtain ⟨⟨⟨-, -, hIdle, -⟩, -⟩, -⟩ := id h
  have hQueues : ∀ n, t.queue n = (taken s k q.toNat e).queue n := State.queue_congr (congrArg Hif.queues hHif)
  have hBme : t.hif.bme = s.hif.bme := by
    obtain ⟨qs, hTaken⟩ := taken_eq s k q.toNat e
    rw [hHif, hTaken]
  have hOthers : ∀ n, n ≠ q.toNat → t.queue n = s.queue n := fun n hn => by rw [hQueues, taken_queue hIdle, if_neg hn]
  have hRead := entryWritten_withdrawnRun_queue h (hQueues q.toNat) (cplOf e status ign r0 r1)
  have hHostMem := entryWritten_withdrawnRun_hostMem h (hQueues q.toNat) hMem (cplOf e status ign r0 r1)
  obtain ⟨qs, hHost⟩ := entryWritten_withdrawnRun_hif hHif (cplOf e status ign r0 r1)
  rw [completeCmd_cases h (hQueues q.toNat) hBme hBad]
  generalize entryWritten (withdrawnRun t q.toNat s.hif.nextId) q.toNat (cplOf e status ign r0 r1) = u at hRead hHostMem hHost
  have hSelf : u.queue q.toNat = (s.queue q.toNat).advanced t.us := by rw [hRead, if_pos rfl]
  split
  · next hIrq =>
    have hSent : (sendIrq u q.toNat).queue q.toNat = { (s.queue q.toNat).advanced t.us with gathered := 0 } := by
      rw [sendIrq_queue, if_pos rfl, hSelf]
    have hIrqs : (sendIrq u q.toNat).hif.irqs = Tbl.modify 0 s.hif.irqs (s.queue q.toNat).vector (· + 1) := by
      change Tbl.modify 0 u.hif.irqs (u.queue q.toNat).vector (· + 1) = _
      rw [hSelf, hHost]
      rfl
    refine ⟨hHostMem, fun n hn => ?_, ?_, ?_, ?_⟩
    · rw [sendIrq_queue, if_neg hn, hRead, if_neg hn, hOthers n hn]
    · rw [hSent]
      rfl
    · have hSentHif : ∃ rs is, (sendIrq u q.toNat).hif = { u.hif with queues := rs, irqs := is } := ⟨_, _, rfl⟩
      obtain ⟨rs, is, hSentHif⟩ := hSentHif
      rw [hSentHif, hHost]
    · rw [if_pos hIrq, hSent, hIrqs, Tbl.get_modify, if_pos rfl]
      exact ⟨rfl, rfl⟩
  · next hIrq =>
    refine ⟨hHostMem, fun n hn => ?_, ?_, ?_, ?_⟩
    · rw [hRead, if_neg hn, hOthers n hn]
    · rw [hSelf]
      rfl
    · rw [hHost]
    · rw [if_neg hIrq, hSelf, hHost]
      exact ⟨rfl, rfl⟩

/-- A command that its own rules leave for later is in progress, and its row is no longer held (R376, R377). -/
theorem parkCmd_inProgress (h : HostReady s q e ps) (hHif : t.hif = (taken s k q.toNat e).hif) (hMem : t.hostMem = s.hostMem) :
    InProgress s (parkCmd t { q := q.toNat, id := s.hif.nextId }) q e false := by
  obtain ⟨⟨⟨-, -, hIdle, hWaiting, -⟩, -⟩, -⟩ := h
  obtain ⟨qs, hTaken⟩ := taken_eq s k q.toNat e
  have hRead : ∀ n, (parkCmd t { q := q.toNat, id := s.hif.nextId }).queue n =
      if n = q.toNat then { s.queue n with running := [{ acceptedRun s k e with started := true, held := false }] } else s.queue n := by
    intro n
    rw [parkCmd, State.queue_modQueue, State.queue_congr (congrArg Hif.queues hHif), taken_queue hIdle]
    split
    · next hn =>
      rw [hn, List.map_singleton]
      exact congrArg (fun r => { s.queue q.toNat with running := [r] }) (if_pos rfl)
    · rfl
  have hHost : ∃ rs, (parkCmd t { q := q.toNat, id := s.hif.nextId }).hif = { t.hif with queues := rs } := ⟨_, rfl⟩
  obtain ⟨rs, hHost⟩ := hHost
  refine ⟨⟨{ acceptedRun s k e with started := true, held := false }, ?_, rfl, rfl, rfl, rfl, rfl⟩, ?_, fun n hn => ?_, hMem, ?_⟩
  · rw [hRead, if_pos rfl]
  · rw [hRead, if_pos rfl]
    exact hWaiting
  · rw [hRead, if_neg hn]
  · rw [hHost, hHif, hTaken]

/-- A command that its own rules complete: what they leave, and the reply. -/
theorem command_replies {i : Instr} {act : CmdRun → State → Act} (hExec : exec i s = hostRun i k q e s act) (h : HostReady s q e ps)
    (hCheck : checkCmd s k q.toNat e ps (inputOf s (k.buf ps) e) = 0) {f : Hif → State} {status : Nat} {ign : Bool} {r0 r1 : Nat}
    (hAct : ∀ H, H = (taken s k q.toNat e).hif → act (runOf s k q.toNat e ps) { s with hif := H } = .done (f H) status ign r0 r1)
    (hHif : ∀ H, (f H).hif = H) (hBad : ∀ H, (f H).hostBad = s.hostBad) (hMem : ∀ H, (f H).hostMem = s.hostMem) :
    ∃ H H' m, exec i s = .next { f H with hif := H', hostMem := m } ∧ Replied s { f H with hif := H', hostMem := m } q e status ign r0 r1 [] := by
  obtain ⟨qs, hTaken⟩ := taken_eq s k q.toNat e
  have hRun := hostRun_of_passes h i act hCheck
  have hAct' := hAct _ rfl
  have hSame : { s with hif := (taken s k q.toNat e).hif } = taken s k q.toNat e := by rw [hTaken]
  rw [hSame] at hAct'
  rw [hAct'] at hRun
  have hReply := completeCmd_replied (t := f (taken s k q.toNat e).hif) (ws := []) h (hHif _) (hBad _) (hMem _) status ign r0 r1
  obtain ⟨H', m, hOnly⟩ := completeCmd_hostOnly (f (taken s k q.toNat e).hif) { q := q.toNat, id := s.hif.nextId } status ign r0 r1
  rw [hOnly] at hReply
  refine ⟨_, H', m, ?_, hReply⟩
  rw [hExec, hRun, ← hOnly]
  rfl

/-- A command that its own rules leave for later: what they leave, in progress. -/
theorem command_later {i : Instr} {act : CmdRun → State → Act} (hExec : exec i s = hostRun i k q e s act) (h : HostReady s q e ps)
    (hCheck : checkCmd s k q.toNat e ps (inputOf s (k.buf ps) e) = 0) {f : Hif → State}
    (hAct : ∀ H, act (runOf s k q.toNat e ps) { s with hif := H } = .later (f H))
    (hHif : ∀ H, (f H).hif = H) (hMem : ∀ H, (f H).hostMem = s.hostMem) :
    ∃ H H', exec i s = .next { f H with hif := H' } ∧ InProgress s { f H with hif := H' } q e false := by
  obtain ⟨qs, hTaken⟩ := taken_eq s k q.toNat e
  have hRun := hostRun_of_passes h i act hCheck
  have hSame : { s with hif := (taken s k q.toNat e).hif } = taken s k q.toNat e := by rw [hTaken]
  have hAct' := hAct (taken s k q.toNat e).hif
  rw [hSame] at hAct'
  rw [hAct'] at hRun
  have hProgress := parkCmd_inProgress (t := f (taken s k q.toNat e).hif) h (hHif _) (hMem _)
  exact ⟨_, _, hExec.trans hRun, hProgress⟩

end Completes

end Sys2Proof.Machine
end

section
/-! PROOFS. The commands on partitions and caps. -/

namespace Sys2Proof.Machine

/-! ## Partitions (R31, R32) -/

theorem treeNode_ptnTree (d : List Byte) {n : Nat} (hn : n < 64) : treeNode (ptnTree d) n = ptnEntry d n :=
  foldl_update_range (read := treeNode) (new := fun n _ => ptnEntry d n) (f := fun t n => Tbl.set PtnNode.init t n (ptnEntry d n))
    (fun t i k => Tbl.get_set PtnNode.init t i k (ptnEntry d i)) hn []

theorem Tbl.get_filter_of_dropped {α : Type} (d : α) {p : Nat → Bool} {k : Nat} (hk : p k = false) (t : Tbl α) :
    Tbl.get d (t.filter (fun e => p e.1)) k = d := by
  induction t with
  | nil => rfl
  | cons e t ih =>
    by_cases he : p e.1 = true
    · rw [List.filter_cons_of_pos (by simpa using he), Tbl.get, if_neg (by rintro rfl; simp [he] at hk)]
      exact ih
    · rw [List.filter_cons_of_neg (by simpa using he)]
      exact ih

/-- A node that is not valid has the loop of a node without a cap once the loops follow the tree (R415). -/
theorem loopOf_of_filter {s : State} {t : Tbl PtnNode} {u : Tbl PowerLoop} (hNodes : s.pwr.nodes = u.filter (fun e => (treeNode t e.1).valid)) {n : Nat} (hn : n ≠ 0)
    (hGone : (treeNode t n).valid = false) : s.loopOf n = PowerLoop.init := by
  rw [State.loopOf, if_neg hn, hNodes]
  exact Tbl.get_filter_of_dropped PowerLoop.init (p := fun n => (treeNode t n).valid) hGone u

theorem ptnEntry_valid (d : List Byte) {n : Nat} (hn : n ≠ 0) : (ptnEntry d n).valid = bit (leField d (8 * n) (8 * n + 7)) 63 := by
  unfold ptnEntry
  dsimp only
  cases hBit : bit (leField d (8 * n) (8 * n + 7)) 63 with
  | true =>
    rw [if_pos (by simp [hn])]
  | false =>
    rw [if_neg (by simp)]
    rfl

theorem ptnEntry_of_valid {d : List Byte} {n : Nat} (hn : n ≠ 0) (hBit : bit (leField d (8 * n) (8 * n + 7)) 63 = true) :
    ptnEntry d n = { mask := BitVec.ofNat 40 (leField d (8 * n) (8 * n + 7)), parent := bits (leField d (8 * n) (8 * n + 7)) 45 40, valid := true } :=
  if_pos (by simp [hBit, hn])

theorem ptnConflict_hif (s : State) (H : Hif) (t : Tbl PtnNode) : ptnConflict { s with hif := H } t = ptnConflict s t := rfl

/-- `PTN_CONFIG` as Table 13.9 has it. -/
def ptnConfigKind : CmdKind :=
  { CmdKind.basic true false [0] (fun _ => false) (fun _ => true) with
    buf := fun _ => .input 512
    rsv := fun _ d => (List.range 64).any (fun n => bits (leField d (8 * n) (8 * n + 7)) 62 46 ≠ 0)
    kiosk := fun _ => true }

section PtnConfig

variable {s : State} {q : BitVec 16} {e : Entry} (h : HostReady s q e []) (hBuf : HasBuffer s e 512)
  (hRsv : ∀ n, n < 64 → bits (leField (s.hostBytes e.daddr.toNat 512) (8 * n) (8 * n + 7)) 62 46 = 0)

include hBuf in
theorem ptnConfig_input : inputOf s (ptnConfigKind.buf []) e = s.hostBytes e.daddr.toNat 512 := by
  obtain ⟨hDlen, -⟩ := hBuf
  rw [← hDlen]
  rfl

include h hBuf hRsv

theorem ptnConfig_check : checkCmd s ptnConfigKind q.toNat e [] (inputOf s (ptnConfigKind.buf []) e) = 0 := by
  rw [ptnConfig_input hBuf]
  refine checkCmd_passes h (List.mem_singleton.mpr rfl) (List.any_eq_false.mpr (fun n hn => ?_)) rfl rfl rfl hBuf
  rw [hRsv n (List.mem_range.mp hn)]
  decide

theorem ptnConfig_accepted (hTree : treeOk (ptnTree (s.hostBytes e.daddr.toNat 512)) = true)
    (hFree : ptnConflict s (ptnTree (s.hostBytes e.daddr.toNat 512)) = false) :
    ∃ t, exec (.ptnConfig q e) s = .next t ∧
      t = { s with hif := t.hif, hostMem := t.hostMem, ptn := t.ptn, pwr := { s.pwr with nodes := t.pwr.nodes } } ∧ Replied s t q e 0 false 0 0 [] ∧
      ∀ n, 0 < n → n < 64 → let w := leField (s.hostBytes e.daddr.toNat 512) (8 * n) (8 * n + 7)
        (treeNode t.ptn n).valid = bit w 63 ∧ (bit w 63 = true → (treeNode t.ptn n).mask = BitVec.ofNat 40 w ∧ (treeNode t.ptn n).parent = bits w 45 40) ∧
        (bit w 63 = false → t.loopOf n = PowerLoop.init) := by
  obtain ⟨H, H', m, hExec, hReply⟩ := command_replies (k := ptnConfigKind) (i := .ptnConfig q e) (status := 0)
    (f := fun H => { s with hif := H, ptn := ptnTree (s.hostBytes e.daddr.toNat 512), pwr := { s.pwr with
      nodes := s.pwr.nodes.filter (fun x => (treeNode (ptnTree (s.hostBytes e.daddr.toNat 512)) x.1).valid) } })
    rfl h (ptnConfig_check h hBuf hRsv)
    (fun H _ => by
      dsimp only [runOf]
      rw [ptnConfig_input hBuf]
      refine if_neg ?_
      rw [ptnConflict_hif, hTree, hFree]
      decide)
    (fun _ => rfl) (fun _ => rfl) (fun _ => rfl)
  refine ⟨_, hExec, rfl, hReply, fun n hPos hn => ?_⟩
  have hNode := treeNode_ptnTree (s.hostBytes e.daddr.toNat 512) hn
  have hZero : n ≠ 0 := by omega
  refine ⟨?_, fun hBit => ?_, fun hBit => ?_⟩
  · exact (congrArg PtnNode.valid hNode).trans (ptnEntry_valid _ hZero)
  · rw [ptnEntry_of_valid hZero hBit] at hNode
    exact ⟨congrArg PtnNode.mask hNode, congrArg PtnNode.parent hNode⟩
  · exact loopOf_of_filter rfl hZero ((congrArg PtnNode.valid hNode).trans ((ptnEntry_valid _ hZero).trans hBit))

theorem ptnConfig_refused
    (hBad : treeOk (ptnTree (s.hostBytes e.daddr.toNat 512)) = false ∨ ptnConflict s (ptnTree (s.hostBytes e.daddr.toNat 512)) = true) :
    ∃ t, exec (.ptnConfig q e) s = .next t ∧ t = { s with hif := t.hif, hostMem := t.hostMem } ∧ Replied s t q e 0x0B false 0 0 [] := by
  obtain ⟨H, H', m, hExec, hReply⟩ := command_replies (k := ptnConfigKind) (i := .ptnConfig q e) (f := fun H => { s with hif := H })
    (status := 0x0B) rfl h (ptnConfig_check h hBuf hRsv)
    (fun H _ => by
      dsimp only [runOf]
      rw [ptnConfig_input hBuf]
      refine if_pos ?_
      rw [ptnConflict_hif]
      rcases hBad with hBad | hBad <;> simp [hBad])
    (fun _ => rfl) (fun _ => rfl) (fun _ => rfl)
  exact ⟨_, hExec, rfl, hReply⟩

end PtnConfig

/-! ## Caps (R415, R419) -/

/-- Intent frames take draws and change the frames alone. -/
def IntentsOnly (s t : State) : Prop := ∃ d v fr, t = { s with draws := d, pwr := { s.pwr with vri := v, frames := fr } }

theorem sendIntent_intentsOnly (s : State) (zone lead kind : Nat) : IntentsOnly s (sendIntent s zone lead kind) := by
  unfold sendIntent
  dsimp only
  split
  · exact ⟨_, _, _, rfl⟩
  · exact ⟨_, s.pwr.vri, s.pwr.frames, rfl⟩

theorem sendIntents_intentsOnly (s : State) (lcs : List Nat) (lead kind : Nat) : IntentsOnly s (sendIntents s lcs lead kind) := by
  refine List.foldlRecOn (motive := fun t : State => IntentsOnly s t) _ _ ⟨s.draws, s.pwr.vri, s.pwr.frames, rfl⟩ (fun t ht z _ => ?_)
  obtain ⟨d, v, fr, rfl⟩ := ht
  obtain ⟨d', v', fr', h⟩ := sendIntent_intentsOnly { s with draws := d, pwr := { s.pwr with vri := v, frames := fr } } z lead kind
  exact ⟨d', v', fr', h⟩

theorem capField_of_short {ps : List Byte} (h : ps.length = 4) (k : Nat) : capField ps k = 0 := if_pos (by omega)

/-- `PWR_CAP` as Table 13.9 has it. -/
def pwrCapKind : CmdKind :=
  { CmdKind.basic true false [4, 16]
      (fun ps => leField ps 1 1 ≠ 0 || (ps.length = 16 && (2 ≤ leField ps 7 7 || !allZero (ps.drop 8)))) capRange with
    expertField := fun ps _ => capField ps 4 ≠ 0 || capField ps 5 ≠ 0 || capField ps 6 ≠ 0 || capField ps 7 ≠ 0
    kiosk := fun _ => true }

/-- A cap without expert fields taken for a node: intent frames go out, its loop has the new cap and the default floors, and the
node is busy. -/
def capTaken (s : State) (n cap : Nat) (ref : CmdRef) : State :=
  let s := sendIntents s (s.nodeCores n) 8 3
  let s := if n = 0 then
      let s := s.setLoop 0 (s.pwr.part.recap cap 8 16)
      { s with pwr := { s.pwr with order := 0, noFreq := false } }
    else s.setLoop n ((s.loopOf n).recap cap 8 16)
  { s with busy := s.busy ++ [n], pwr := { s.pwr with capRuns := s.pwr.capRuns ++ [(n, ref)] } }

theorem State.loopOf_setLoop (s : State) (n : Nat) (l : PowerLoop) (k : Nat) : (s.setLoop n l).loopOf k = if k = n then l else s.loopOf k := by
  unfold State.loopOf State.setLoop
  by_cases hn : n = 0
  · rw [if_pos hn, hn]
    by_cases hk : k = 0
    · rw [if_pos hk, if_pos hk]
    · rw [if_neg hk, if_neg hk, if_neg hk]
  · rw [if_neg hn]
    by_cases hk : k = 0
    · rw [if_pos hk, if_pos hk, if_neg (by omega)]
    · rw [if_neg hk, if_neg hk]
      exact Tbl.get_set PowerLoop.init s.pwr.nodes n k l

theorem State.loopOf_congr {s t : State} (hPart : t.pwr.part = s.pwr.part) (hNodes : t.pwr.nodes = s.pwr.nodes) (n : Nat) :
    t.loopOf n = s.loopOf n := by
  rw [State.loopOf, State.loopOf, hPart, hNodes]

theorem State.setLoop_eq (s : State) (n : Nat) (l : PowerLoop) :
    ∃ p, s.setLoop n l = { s with pwr := p } ∧ p.capRuns = s.pwr.capRuns := by
  unfold State.setLoop
  split
  · exact ⟨_, rfl, rfl⟩
  · exact ⟨_, rfl, rfl⟩

theorem capTaken_eq (s : State) (n cap : Nat) (ref : CmdRef) :
    ∃ d p, capTaken s n cap ref = { s with busy := s.busy ++ [n], draws := d, pwr := p } ∧ p.capRuns = s.pwr.capRuns ++ [(n, ref)] ∧
      ∀ k, (capTaken s n cap ref).loopOf k = if k = n then (s.loopOf n).recap cap 8 16 else s.loopOf k := by
  obtain ⟨d, v, fr, hIntents⟩ := sendIntents_intentsOnly s (s.nodeCores n) 8 3
  unfold capTaken
  dsimp only
  rw [hIntents]
  by_cases hn : n = 0
  · subst hn
    rw [if_pos rfl]
    refine ⟨_, _, rfl, rfl, fun k => ?_⟩
    by_cases hk : k = 0
    · rw [if_pos hk, hk]
      rfl
    · rw [if_neg hk, State.loopOf, State.loopOf, if_neg hk, if_neg hk]
      rfl
  · rw [if_neg hn]
    have hSame : ∀ k, ({ s with draws := d, pwr := { s.pwr with vri := v, frames := fr } } : State).loopOf k = s.loopOf k :=
      State.loopOf_congr rfl rfl
    have hLoops := State.loopOf_setLoop { s with draws := d, pwr := { s.pwr with vri := v, frames := fr } } n ((s.loopOf n).recap cap 8 16)
    obtain ⟨p, hSet, hRuns⟩ := State.setLoop_eq { s with draws := d, pwr := { s.pwr with vri := v, frames := fr } } n
      ((s.loopOf n).recap cap 8 16)
    rw [hSame, hSet]
    refine ⟨d, { p with capRuns := p.capRuns ++ [(n, ref)] }, rfl, congrArg (· ++ [(n, ref)]) hRuns, fun k => ?_⟩
    have hRead := hLoops k
    rw [hSet, hSame] at hRead
    exact hRead

section PwrCap

variable {s : State} {q : BitVec 16} {e : Entry} {ps : List Byte} (h : HostReady s q e ps) (hLen : ps.length = 4) (hBuf : NoBuffer e)
  (hRsv : leField ps 1 1 = 0)

include hLen in
/-- Without the expert fields the range is that of the node and of its cap. -/
theorem capRange_of_short (hRange : if leField ps 0 0 = 0 then 2000 ≤ leField ps 2 3 ∧ leField ps 2 3 ≤ 5500
      else leField ps 0 0 < 64 ∧ 50 ≤ leField ps 2 3 ∧ leField ps 2 3 ≤ 5500) : capRange ps = true := by
  unfold capRange
  simp only [capField_of_short hLen]
  split at hRange
  · next hPart => simp [hPart, hRange]
  · next hNode => simp [hNode, hRange]

include h hLen hBuf hRsv

theorem pwrCap_check (hRange : capRange ps = true) : checkCmd s pwrCapKind q.toNat e ps (inputOf s (pwrCapKind.buf ps) e) = 0 := by
  refine checkCmd_passes h (by simp [hLen, pwrCapKind, CmdKind.basic]) ?_ rfl ?_ hRange hBuf
  · change (decide (leField ps 1 1 ≠ 0) || (decide (ps.length = 16) && _)) = false
    simp [hLen, hRsv]
  · simp [pwrCapKind, capField_of_short hLen]

theorem pwrCap_refused (hPos : 0 < leField ps 0 0) (hNode : leField ps 0 0 < 64) (hGone : s.nodeValid (leField ps 0 0) = false)
    (hLow : 50 ≤ leField ps 2 3) (hHigh : leField ps 2 3 ≤ 5500) :
    ∃ t, exec (.pwrCap q e) s = .next t ∧ t = { s with hif := t.hif, hostMem := t.hostMem } ∧ Replied s t q e 0x09 false 0 0 [] := by
  have hRange : capRange ps = true := capRange_of_short hLen (by rw [if_neg (by omega)]; exact ⟨hNode, hLow, hHigh⟩)
  obtain ⟨H, H', m, hExec, hReply⟩ := command_replies (k := pwrCapKind) (i := .pwrCap q e) (f := fun H => { s with hif := H })
    (status := 9) rfl h (pwrCap_check h hLen hBuf hRsv hRange)
    (fun H _ => if_pos (by
      change (!s.nodeValid (leField ps 0 0)) = true
      rw [hGone]
      rfl))
    (fun _ => rfl) (fun _ => rfl) (fun _ => rfl)
  exact ⟨_, hExec, rfl, hReply⟩

theorem pwrCap_accepted (hNode : s.nodeValid (leField ps 0 0) = true)
    (hRange : if leField ps 0 0 = 0 then 2000 ≤ leField ps 2 3 ∧ leField ps 2 3 ≤ 5500
      else leField ps 0 0 < 64 ∧ 50 ≤ leField ps 2 3 ∧ leField ps 2 3 ≤ 5500) :
    let n := leField ps 0 0
    let cap := leField ps 2 3
    ∃ t, exec (.pwrCap q e) s = .next t ∧
      t = { s with hif := t.hif, hostMem := t.hostMem, pwr := t.pwr, busy := s.busy ++ [n], draws := t.draws } ∧ InProgress s t q e false ∧
      t.pwr.capRuns = s.pwr.capRuns ++ [(n, { q := q.toNat, id := s.hif.nextId })] ∧ (t.loopOf n).cap = cap ∧
      (t.loopOf n).samples = [] ∧ (t.loopOf n).hard = decide (cap < (s.loopOf n).last) ∧ (∀ k, k ≠ n → t.loopOf k = s.loopOf k) := by
  have hCap : leField ps 2 3 ≠ 0 := by split at hRange <;> omega
  obtain ⟨H, H', hExec, hProgress⟩ := command_later (k := pwrCapKind) (i := .pwrCap q e)
    (f := fun H => capTaken { s with hif := H } (leField ps 0 0) (leField ps 2 3) { q := q.toNat, id := s.hif.nextId })
    rfl h (pwrCap_check h hLen hBuf hRsv (capRange_of_short hLen hRange))
    (fun H => by
      have hValid : ({ s with hif := H } : State).nodeValid (leField ps 0 0) = true := hNode
      dsimp only [runOf]
      simp only [capField_of_short hLen, hValid, hCap, if_true, if_false, Bool.not_true, Bool.false_eq_true]
      rfl)
    (fun H => by
      obtain ⟨d, p, hTaken, -, -⟩ := capTaken_eq { s with hif := H } (leField ps 0 0) (leField ps 2 3) { q := q.toNat, id := s.hif.nextId }
      rw [hTaken])
    (fun H => by
      obtain ⟨d, p, hTaken, -, -⟩ := capTaken_eq { s with hif := H } (leField ps 0 0) (leField ps 2 3) { q := q.toNat, id := s.hif.nextId }
      rw [hTaken])
  obtain ⟨d, p, hTaken, hRuns, hLoops⟩ := capTaken_eq { s with hif := H } (leField ps 0 0) (leField ps 2 3) { q := q.toNat, id := s.hif.nextId }
  have hSelf := hLoops (leField ps 0 0)
  rw [if_pos rfl] at hSelf
  rw [hTaken] at hExec hProgress hSelf hLoops
  refine ⟨_, hExec, rfl, hProgress, hRuns, congrArg PowerLoop.cap hSelf, congrArg PowerLoop.samples hSelf, ?_, fun k hk => (hLoops k).trans (if_neg hk)⟩
  refine (congrArg PowerLoop.hard hSelf).trans ?_
  change (decide (leField ps 2 3 ≠ 0) && decide (leField ps 2 3 < (s.loopOf (leField ps 0 0)).last)) = _
  rw [decide_eq_true hCap, Bool.true_and]

end PwrCap

end Sys2Proof.Machine
end

section
/-! PROOFS. The commands on repair maps and queues, and the obligation on host configuration. -/

namespace Sys2Proof.Machine

/-! ## Repair map (R218, R467) -/

/-- `REPAIR_MAP` as Table 13.9 has it. -/
def repairMapKind : CmdKind := { CmdKind.basic true true [0] (fun _ => false) (fun _ => true) with buf := fun _ => .own }

theorem repairMap_accepted {s : State} {q : BitVec 16} {e : Entry} (h : HostReady s q e []) {n : Nat} (hn : n ≤ 4096)
    (hBuf : HasBuffer s e (32 + 16 * n)) {d : List Byte} (hd : d = s.hostBytes e.daddr.toNat (32 + 16 * n)) (hCount : leField d 4 5 = n)
    (hRsv : leField d 6 7 = 0) (hTail : ((d.drop 20).take 12).all (· = 0) = true) (hMagic : leField d 0 3 = 0x50524D53)
    (hSerial : leField d 8 15 = fused s (fun m => m.serial.toNat)) (hCrc : leField d 16 19 = crc32c (d.drop 32))
    (hEntries : ∀ k, k < n → repairReserved (repairBytes d k) = false ∧ repairRange (repairBytes d k) = true) :
    ∃ t, exec (.repairMap q e) s = .next t ∧ Replied s t q e 0 false 0 0 [] ∧ t = { s with hif := t.hif, hostMem := t.hostMem, flash := t.flash } ∧
      t.flash = { s.flash with soft := some ((List.range n).map (fun k => parseRepair (repairBytes d k))) } := by
  obtain ⟨hDlen, hAnswers⟩ := hBuf
  obtain ⟨-, -, hReady, -⟩ := id h
  have hSize : min e.dlen.toNat (32 + 16 * 4096) = 32 + 16 * n := by omega
  have hReserved : ((List.range n).map (repairBytes d)).any repairReserved = false := by
    rw [List.any_map]
    exact List.any_eq_false.mpr (fun k hk => by simp [(hEntries k (List.mem_range.mp hk)).1])
  have hRanges : ((List.range n).map (repairBytes d)).any (fun b => !repairRange b) = false := by
    rw [List.any_map]
    exact List.any_eq_false.mpr (fun k hk => by simp [(hEntries k (List.mem_range.mp hk)).2])
  obtain ⟨H, H', m, hExec, hReply⟩ := command_replies (k := repairMapKind) (i := .repairMap q e) (status := 0) (ign := false) (r0 := 0) (r1 := 0)
    (f := fun H => { s with hif := H, flash := { s.flash with soft := some (((List.range n).map (repairBytes d)).map parseRepair) } })
    rfl h (checkCmd_passes h (List.mem_singleton.mpr rfl) rfl rfl rfl rfl trivial)
    (fun H _ => by
      have hFails : ({ s with hif := H } : State).hostFails e.daddr.toNat (32 + 16 * n) = false := hAnswers
      have hBytes : ({ s with hif := H } : State).hostBytes e.daddr.toNat (32 + 16 * n) = d := hd.symm
      have hFused : fused { s with hif := H } (fun m => m.serial.toNat) = leField d 8 15 := hSerial.symm
      have hZero : allZero ((d.drop 20).take 12) = true := hTail
      dsimp only [runOf]
      simp only [hSize, hBytes]
      refine (if_neg (by simp [hFails])).trans <| (if_neg (by omega)).trans <| (if_neg (by simp [hRsv, hZero])).trans <|
        (if_neg (by simp only [hCount, hDlen]; simp; omega)).trans <| (if_neg (by rw [hFused, hCount, hReserved]; simp [hMagic, hCrc])).trans <|
        (if_neg (by rw [hCount, hRanges]; decide)).trans ?_
      rw [hCount]
      exact if_neg (by simp [hReady]))
    (fun _ => rfl) (fun _ => rfl) (fun _ => rfl)
  refine ⟨_, hExec, hReply, rfl, ?_⟩
  rw [List.map_map]
  rfl

/-! ## Queues (R385) -/

theorem isHostQn_iff (qn : Nat) : isHostQn qn = true ↔ 0x6E000 ≤ qn ∧ qn < 0x7E000 := by simp [isHostQn]

theorem isSiteQueue_iff (qn : Nat) : isSiteQueue qn = true ↔ qn < 0x6E000 := by simp [isSiteQueue]

theorem isHostQn_of_isSiteQueue {qn : Nat} (h : isSiteQueue qn = true) : isHostQn qn = false := by
  rw [isSiteQueue_iff] at h
  simp [isHostQn]
  omega

/-- `QUEUE_CONFIG` as Table 13.9 has it. -/
def queueConfigKind : CmdKind :=
  { CmdKind.basic true true [40] cfgReserved
      (fun ps => leField ps 0 3 < 2 ^ 19 && leField ps 4 4 < 2 && (leField ps 4 4 = 0 || isHostQn (leField ps 0 3))) with
    expertField := fun ps _ => isHostQn (leField ps 0 3) && leField ps 4 4 = 0 && leField (cfgCtx ps) 24 27 ≠ 0 }

/-- What `QUEUE_CONFIG` makes of the context that it writes. -/
def queueAct (c : CmdRun) (s : State) : Act :=
  match cfgQueue s (leField c.ps 0 3) (leField c.ps 4 4) (cfgCtx c.ps) c.expert with
  | none => .status s 0x40
  | some t => .status t 0

theorem exec_queueConfig (q : BitVec 16) (e : Entry) (s : State) :
    exec (.queueConfig q e) s = hostRun (.queueConfig q e) queueConfigKind q e s queueAct := rfl

/-! ### Each kind of context -/

theorem leNat_append (a b : List Byte) : leNat (a ++ b) = leNat a + 256 ^ a.length * leNat b := by
  induction a with
  | nil => simp [leNat]
  | cons c a ih =>
    rw [List.cons_append, leNat, leNat, ih, List.length_cons, pow_succ]
    ring

theorem leField_halves_of_zero {x : List Byte} (h : leField x 24 27 = 0) : leField x 24 25 = 0 ∧ leField x 26 27 = 0 := by
  have hSplit : (x.drop 24).take 4 = (x.drop 24).take 2 ++ (x.drop 26).take 2 := by
    rw [List.take_add (i := 2) (j := 2), List.drop_drop]
  change leNat ((x.drop 24).take 4) = 0 at h
  rw [hSplit, leNat_append] at h
  have hPos : 0 < 256 ^ ((x.drop 24).take 2).length := Nat.pow_pos (by decide)
  obtain ⟨hLow, hHigh⟩ := Nat.add_eq_zero_iff.mp h
  exact ⟨hLow, (Nat.mul_eq_zero.mp hHigh).resolve_left hPos.ne'⟩

/-- A host queue enabled afresh with the context `x` (Table 13.5). -/
def HostQueue.enabled (y : HostQueue) (x : List Byte) (expert : Bool) : HostQueue :=
  { y.fresh with
    sqBase := leField x 0 7, cqBase := leField x 8 15, sqLog := leField x 16 16, cqLog := leField x 17 17, vector := leField x 18 19, st := .on
    expert := bit (leField x 20 20) 0 && expert, irqEn := bit (leField x 20 20) 1, coalCnt := leField x 24 25, coalUs := leField x 26 27 }

/-- The context of a host queue lies in its ranges and enables it (Table 13.5). -/
def HostContext (x : List Byte) : Prop :=
  leField x 21 21 = 1 ∧ leField x 0 7 % 4096 = 0 ∧ leField x 8 15 % 4096 = 0 ∧ 4 ≤ leField x 16 16 ∧ leField x 16 16 ≤ 12 ∧
    leField x 16 16 ≤ leField x 17 17 ∧ leField x 17 17 ≤ 14 ∧ leField x 18 19 ≤ 2047

theorem cfgHost_of_off {s : State} {h : Nat} {x : List Byte} (hOff : (s.queue h).st = .off) (hCtx : HostContext x) (expert : Bool) :
    cfgHost s h x expert = some (s.modQueue h (fun y => y.enabled x expert)) := by
  obtain ⟨hOn, hSq, hCq, hLow, hHigh, hOrder, hMost, hVector⟩ := hCtx
  unfold cfgHost
  dsimp only
  rw [hOn]
  refine (if_neg (by simp [hSq, hCq]; omega)).trans ((if_pos hOff).trans ?_)
  rfl

/-- The part with a host queue enabled afresh, and the Xobex queue of its QN gone. -/
def hostConfigured (s : State) (qn : Nat) (x : List Byte) (expert : Bool) : State :=
  (s.modQueue (qn - 0x6E000) (fun y => y.enabled x expert)).modFab (fun f => { f with queues := Tbl.erase f.queues qn })

theorem hostConfigured_queue (s : State) (qn : Nat) (x : List Byte) (expert : Bool) (n : Nat) :
    (hostConfigured s qn x expert).queue n = if n = qn - 0x6E000 then (s.queue n).enabled x expert else s.queue n := by
  have hQueues : (hostConfigured s qn x expert).hif.queues = (s.modQueue (qn - 0x6E000) (fun y => y.enabled x expert)).hif.queues := rfl
  rw [State.queue_congr hQueues, State.queue_modQueue]

theorem cfgQueue_host {s : State} {qn : Nat} {x : List Byte} (hHost : isHostQn qn = true) (hPos : 0 < qn - 0x6E000)
    (hFree : s.queueClaimed qn = false) (hOff : (s.queue (qn - 0x6E000)).st = .off) (hCtx : HostContext x) (expert : Bool) :
    cfgQueue s qn 0 x expert = some (hostConfigured s qn x expert) := by
  unfold cfgQueue
  rw [if_pos hHost, if_neg (by omega), if_neg (by decide), if_neg (by simp [hFree]), cfgHost_of_off hOff hCtx]
  rfl

/-- An enabled Xobex queue with the context `x` (Table 12.7). -/
def XQueue.enabled (y : XQueue) (x : List Byte) : XQueue :=
  { y with
    ring := leField x 0 7, log2 := leField x 8 8, owner := leField x 10 11, bell := leField x 12 15
    tag := BitVec.ofNat 32 (leField x 20 23), node := leField x 24 24, st := 1 }

theorem cfgQueue_xobex {s : State} {qn : Nat} {x : List Byte} (hHost : isHostQn qn = true) (hPos : 0 < qn - 0x6E000)
    (hOn : leField x 25 25 = 1) (hOff : (s.queue (qn - 0x6E000)).st = .off) (hOk : xqOk s qn x = true) (hFree : s.queueClaimed qn = false)
    (expert : Bool) : cfgQueue s qn 1 x expert = some (s.modXq qn (fun y => y.enabled x)) := by
  unfold cfgQueue
  rw [if_pos hHost, if_neg (by omega), if_pos rfl]
  unfold cfgXobex
  dsimp only
  rw [if_neg (by simp [hOn, hOff, hOk, hFree]), hOn]
  rfl

/-- An enabled site queue with the context `x` (Table 8.7). -/
def SiteQueue.enabled (y : SiteQueue) (x : List Byte) : SiteQueue :=
  { y with ring := leField x 0 7, log2 := leField x 8 8, gate := leField x 9 9, quota := leField x 10 11, headDa := leField x 16 23, st := 1 }

theorem servePosts_of_none {s : State} {qn : Nat} (h : ∀ p ∈ s.tr.posts, p.qn ≠ qn) (k : Nat) : servePosts qn k s = s := by
  cases k with
  | zero => rfl
  | succ k =>
    have hNone : s.tr.posts.find? (fun p => p.qn = qn) = none := List.find?_eq_none.mpr (fun p hp => by simpa using h p hp)
    unfold servePosts
    rw [hNone]

theorem overBexp_of_unbound {s : State} (h : s.sv = []) (qn quota : Nat) : overBexp s qn quota = false := by
  rw [overBexp, State.bindingOf, h]
  rfl

theorem cfgQueue_site {s : State} {qn : Nat} {x : List Byte} (hSite : isSiteQueue qn = true) (hOn : leField x 28 28 = 1)
    (hOk : sqOk s qn x = true) (hFree : s.queueClaimed qn = false) (hSv : s.sv = []) (hPosts : ∀ p ∈ s.tr.posts, p.qn ≠ qn) (expert : Bool) :
    cfgQueue s qn 0 x expert = some (s.modSq qn (fun y => y.enabled x)) := by
  unfold cfgQueue
  rw [if_neg (by simp [isHostQn_of_isSiteQueue hSite]), if_pos hSite]
  unfold cfgSite
  dsimp only
  rw [if_neg (by simp [hOn, hOk, hFree, overBexp_of_unbound hSv]), hOn]
  exact congrArg some (servePosts_of_none (s := s.modSq qn (fun _ => (s.sq qn).enabled x)) hPosts 8)

theorem cfgQueue_site_refused {s : State} {qn : Nat} {x : List Byte} (hSite : isSiteQueue qn = true)
    (hBad : 1 < leField x 28 28 ∨ leField x 28 28 = 1 ∧ sqOk s qn x = false) (kind : Nat) (expert : Bool) :
    cfgQueue s qn kind x expert = none := by
  unfold cfgQueue
  rw [if_neg (by simp [isHostQn_of_isSiteQueue hSite]), if_pos hSite]
  unfold cfgSite
  refine if_pos ?_
  rcases hBad with hBad | ⟨hOn, hBad⟩
  · simp [hBad]
  · simp [hOn, hBad]

theorem cfgQueue_none {s : State} {qn : Nat} (hHost : isHostQn qn = false) (hSite : isSiteQueue qn = false) (hOrg : isOrgQueue qn = false)
    (kind : Nat) (x : List Byte) (expert : Bool) : cfgQueue s qn kind x expert = none := by
  simp [cfgQueue, hHost, hSite, hOrg]

theorem State.sq_of_modSq {s t : State} {q : Nat} {f : SiteQueue → SiteQueue} (h : t.tr.queues = (s.modSq q f).tr.queues) (k : Nat) :
    t.sq k = if k = q then f (s.sq q) else s.sq k := by
  rw [State.sq, h]
  exact Tbl.get_modify SiteQueue.init s.tr.queues q k f

theorem State.xq_of_modXq {s t : State} {q : Nat} {f : XQueue → XQueue} (h : t.fab.queues = (s.modXq q f).fab.queues) (k : Nat) :
    t.xq k = if k = q then f (s.xq q) else s.xq k := by
  rw [State.xq, h]
  exact Tbl.get_modify XQueue.init s.fab.queues q k f

/-- The queue that a command came on is not off. -/
theorem HostReady.queue_ne_of_off {s : State} {q : BitVec 16} {e : Entry} {ps : List Byte} (h : HostReady s q e ps) {n : Nat}
    (hOff : (s.queue n).st = .off) : n ≠ q.toNat := by
  obtain ⟨⟨⟨hOn, -⟩, -⟩, -⟩ := h
  rintro rfl
  rw [hOn] at hOff
  cases hOff

section QueueConfig

variable {s : State} {q : BitVec 16} {e : Entry} {ps : List Byte} (h : HostReady s q e ps) (hLen : ps.length = 40) (hBuf : NoBuffer e)
  (hRsv : cfgReserved ps = false)

include h hLen hBuf hRsv

theorem queueConfig_check (hQn : leField ps 0 3 < 2 ^ 19) (hKind : leField ps 4 4 = 0 ∨ leField ps 4 4 = 1 ∧ isHostQn (leField ps 0 3) = true)
    (hExpert : isHostQn (leField ps 0 3) = true → leField ps 4 4 = 0 → leField (ps.drop 8) 24 27 = 0) :
    checkCmd s queueConfigKind q.toNat e ps (inputOf s (queueConfigKind.buf ps) e) = 0 := by
  refine checkCmd_passes h (List.mem_singleton.mpr hLen) hRsv rfl ?_ ?_ hBuf
  · cases hHost : isHostQn (leField ps 0 3) with
    | false => simp [queueConfigKind, hHost]
    | true =>
      rcases hKind with hKind | ⟨hKind, -⟩
      · simp [queueConfigKind, hKind, cfgCtx, hExpert hHost hKind]
      · simp [queueConfigKind, hKind]
  · rcases hKind with hKind | ⟨hKind, hHost⟩
    · simp [queueConfigKind, CmdKind.basic, hKind]; omega
    · simp [queueConfigKind, CmdKind.basic, hKind, hHost]; omega

theorem queueConfig_refused (hQn : leField ps 0 3 < 2 ^ 19) (hHost : isHostQn (leField ps 0 3) = false) (hKind : leField ps 4 4 = 0)
    (hNone : ∀ H x, cfgQueue { s with hif := H } (leField ps 0 3) (leField ps 4 4) (ps.drop 8) x = none) :
    ∃ t, exec (.queueConfig q e) s = .next t ∧ t = { s with hif := t.hif, hostMem := t.hostMem } ∧ Replied s t q e 0x40 false 0 0 [] := by
  obtain ⟨H, H', m, hExec, hReply⟩ := command_replies (f := fun H => { s with hif := H }) (status := 0x40) (exec_queueConfig q e s) h
    (queueConfig_check h hLen hBuf hRsv hQn (.inl hKind) (fun hTrue => by simp [hHost] at hTrue))
    (fun H _ => by
      have hCfg := hNone H (s.expertQueue q.toNat)
      unfold queueAct
      dsimp only [runOf, cfgCtx]
      rw [hCfg]
      rfl)
    (fun _ => rfl) (fun _ => rfl) (fun _ => rfl)
  exact ⟨_, hExec, rfl, hReply⟩

theorem queueConfig_site (hSite : isSiteQueue (leField ps 0 3) = true) (hKind : leField ps 4 4 = 0) (hOn : leField (ps.drop 8) 28 28 = 1)
    (hOk : sqOk s (leField ps 0 3) (ps.drop 8) = true) (hFree : s.queueClaimed (leField ps 0 3) = false) (hSv : s.sv = [])
    (hPosts : ∀ p ∈ s.tr.posts, p.qn ≠ leField ps 0 3) :
    ∃ t, exec (.queueConfig q e) s = .next t ∧ t = { s with hif := t.hif, hostMem := t.hostMem, tr := { s.tr with queues := t.tr.queues } } ∧
      Replied s t q e 0 false 0 0 [] ∧ (∀ k, k ≠ leField ps 0 3 → t.sq k = s.sq k) ∧
      t.sq (leField ps 0 3) = (s.sq (leField ps 0 3)).enabled (ps.drop 8) := by
  have hQn : leField ps 0 3 < 2 ^ 19 := by
    rw [isSiteQueue_iff] at hSite
    omega
  obtain ⟨H, H', m, hExec, hReply⟩ := command_replies (status := 0)
    (f := fun H => ({ s with hif := H } : State).modSq (leField ps 0 3) (fun y => y.enabled (ps.drop 8))) (exec_queueConfig q e s) h
    (queueConfig_check h hLen hBuf hRsv hQn (.inl hKind) (fun hHost => by simp [isHostQn_of_isSiteQueue hSite] at hHost))
    (fun H _ => by
      have hCfg := cfgQueue_site (s := { s with hif := H }) (x := ps.drop 8) hSite hOn hOk hFree hSv hPosts (s.expertQueue q.toNat)
      unfold queueAct
      dsimp only [runOf, cfgCtx]
      rw [hKind, hCfg]
      rfl)
    (fun _ => rfl) (fun _ => rfl) (fun _ => rfl)
  exact ⟨_, hExec, rfl, hReply, fun k hk => (State.sq_of_modSq (s := s) rfl k).trans (if_neg hk), (State.sq_of_modSq (s := s) rfl _).trans (if_pos rfl)⟩

theorem queueConfig_xobex (hHost : isHostQn (leField ps 0 3) = true) (hKind : leField ps 4 4 = 1) (hPos : 0 < leField ps 0 3 - 0x6E000)
    (hOn : leField (ps.drop 8) 25 25 = 1) (hOff : (s.queue (leField ps 0 3 - 0x6E000)).st = .off)
    (hOk : xqOk s (leField ps 0 3) (ps.drop 8) = true) (hFree : s.queueClaimed (leField ps 0 3) = false) :
    ∃ t, exec (.queueConfig q e) s = .next t ∧ t = { s with hif := t.hif, hostMem := t.hostMem, fab := { s.fab with queues := t.fab.queues } } ∧
      Replied s t q e 0 false 0 0 [] ∧ (∀ k, k ≠ leField ps 0 3 → t.xq k = s.xq k) ∧
      t.xq (leField ps 0 3) = (s.xq (leField ps 0 3)).enabled (ps.drop 8) := by
  have hQn : leField ps 0 3 < 2 ^ 19 := by
    rw [isHostQn_iff] at hHost
    omega
  have hOther := h.queue_ne_of_off hOff
  obtain ⟨⟨⟨-, -, hIdle, -⟩, -⟩, -⟩ := id h
  obtain ⟨H, H', m, hExec, hReply⟩ := command_replies (status := 0)
    (f := fun H => ({ s with hif := H } : State).modXq (leField ps 0 3) (fun y => y.enabled (ps.drop 8))) (exec_queueConfig q e s) h
    (queueConfig_check h hLen hBuf hRsv hQn (.inr ⟨hKind, hHost⟩) (fun _ hZero => by omega))
    (fun H hH => by
      have hSame : ({ s with hif := H } : State).queue (leField ps 0 3 - 0x6E000) = s.queue (leField ps 0 3 - 0x6E000) := by
        have hTaken := taken_queue hIdle queueConfigKind e (leField ps 0 3 - 0x6E000)
        rw [if_neg hOther] at hTaken
        rw [← hTaken, hH]
        exact State.queue_congr rfl _
      have hCfg := cfgQueue_xobex (s := { s with hif := H }) (x := ps.drop 8) hHost hPos hOn (by rw [hSame]; exact hOff) hOk hFree
        (s.expertQueue q.toNat)
      unfold queueAct
      dsimp only [runOf, cfgCtx]
      rw [hKind, hCfg]
      rfl)
    (fun _ => rfl) (fun _ => rfl) (fun _ => rfl)
  exact ⟨_, hExec, rfl, hReply, fun k hk => (State.xq_of_modXq (s := s) rfl k).trans (if_neg hk), (State.xq_of_modXq (s := s) rfl _).trans (if_pos rfl)⟩

theorem queueConfig_host (hHost : isHostQn (leField ps 0 3) = true) (hKind : leField ps 4 4 = 0) (hCoal : leField (ps.drop 8) 24 27 = 0)
    (hPos : 0 < leField ps 0 3 - 0x6E000) (hFree : s.queueClaimed (leField ps 0 3) = false) (hCtx : HostContext (ps.drop 8))
    (hOff : (s.queue (leField ps 0 3 - 0x6E000)).st = .off) :
    ∃ t, exec (.queueConfig q e) s = .next t ∧ (t.queue q.toNat).running = [] ∧
      t.queue (leField ps 0 3 - 0x6E000) = (s.queue (leField ps 0 3 - 0x6E000)).enabled (ps.drop 8) (s.expertQueue q.toNat) ∧
      (∀ k, k ≠ leField ps 0 3 - 0x6E000 → k ≠ q.toNat → t.queue k = s.queue k) ∧ t.mem = s.mem ∧ t.cores = s.cores := by
  have hQn : leField ps 0 3 < 2 ^ 19 := by
    rw [isHostQn_iff] at hHost
    omega
  have hOther := h.queue_ne_of_off hOff
  obtain ⟨⟨⟨-, -, hIdle, -⟩, -⟩, -⟩ := id h
  have hTaken := taken_queue hIdle queueConfigKind e
  have hConfigured := hostConfigured_queue (taken s queueConfigKind q.toNat e) (leField ps 0 3) (ps.drop 8) (s.expertQueue q.toNat)
  have hFrame := taken_eq s queueConfigKind q.toNat e
  have hRun := hostRun_of_passes h (.queueConfig q e) queueAct
    (queueConfig_check h hLen hBuf hRsv hQn (.inl hKind) (fun _ _ => hCoal))
  generalize hStarted : taken s queueConfigKind q.toNat e = u at hTaken hConfigured hFrame hRun
  obtain ⟨qs, hFrame⟩ := hFrame
  have hAct : queueAct (runOf s queueConfigKind q.toNat e ps) u =
      .status (hostConfigured u (leField ps 0 3) (ps.drop 8) (s.expertQueue q.toNat)) 0 := by
    have hCfg := cfgQueue_host (s := u) (x := ps.drop 8) hHost hPos (by rw [hFrame]; exact hFree) (by rw [hTaken, if_neg hOther]; exact hOff)
      hCtx (s.expertQueue q.toNat)
    unfold queueAct
    dsimp only [runOf, cfgCtx]
    rw [hKind, hCfg]
  rw [hAct] at hRun
  have hOwn : (hostConfigured u (leField ps 0 3) (ps.drop 8) (s.expertQueue q.toNat)).queue q.toNat =
      (taken s queueConfigKind q.toNat e).queue q.toNat := by
    rw [hConfigured, if_neg hOther.symm, hStarted]
  obtain ⟨hOthers, hNone⟩ := completeCmd_queue h hOwn (by rw [hFrame]; rfl) (by rw [hFrame]; rfl) 0 false 0 0
  obtain ⟨H, m, hOnly⟩ := completeCmd_hostOnly (hostConfigured u (leField ps 0 3) (ps.drop 8) (s.expertQueue q.toNat))
    { q := q.toNat, id := s.hif.nextId } 0 false 0 0
  refine ⟨_, hRun, hNone, (hOthers _ hOther).trans ?_, fun k hk hq => (hOthers k hq).trans ?_, ?_, ?_⟩
  · rw [hConfigured, if_pos rfl, hTaken, if_neg hOther]
  · rw [hConfigured, if_neg hk, hTaken, if_neg hq]
  · refine (congrArg State.mem hOnly).trans ?_
    rw [hFrame]
    rfl
  · refine (congrArg State.cores hOnly).trans ?_
    rw [hFrame]
    rfl

end QueueConfig


/-- Settles O40: each command passes the checks of R381, and its own rules are followed along the branch of each clause. -/
theorem hostConfiguration : Obligations.HostConfiguration := by
  unfold Obligations.HostConfiguration
  intro s q e ps h
  refine ⟨?_, ?_, ?_, ?_⟩
  · rintro rfl hBuf d hRsv
    exact ⟨ptnConfig_accepted h hBuf hRsv, ptnConfig_refused h hBuf hRsv⟩
  · intro hLen hBuf hRsv n cap
    exact ⟨pwrCap_accepted h hLen hBuf hRsv, pwrCap_refused h hLen hBuf hRsv⟩
  · rintro n rfl hn hBuf d hCount hRsv hTail hMagic hSerial hCrc hEntries
    exact repairMap_accepted h hn hBuf rfl hCount hRsv hTail hMagic hSerial hCrc hEntries
  · intro hLen hBuf hRsv qn x refused n
    refine ⟨?_, queueConfig_site h hLen hBuf hRsv, ?_, ?_, ?_⟩
    · intro hHost hKind hCoal hPos _ hFree hOn hSq hCq hLow hHigh hOrder hMost hVector hOff
      obtain ⟨hCount, hUs⟩ := leField_halves_of_zero hCoal
      obtain ⟨t, hExec, hIdle, hQueue, hOthers, hMem, hCores⟩ := queueConfig_host h hLen hBuf hRsv hHost hKind hCoal hPos hFree
        ⟨hOn, hSq, hCq, hLow, hHigh, hOrder, hMost, hVector⟩ hOff
      rw [HostQueue.enabled, hCount, hUs] at hQueue
      exact ⟨t, hExec, hIdle, hQueue, hOthers, hMem, hCores⟩
    · intro hHost hKind hPos hOn hOff hOk hFree
      exact queueConfig_xobex h hLen hBuf hRsv hHost hKind hPos hOn hOff hOk hFree
    · intro hQn hSite hHost hOrg hKind
      exact queueConfig_refused h hLen hBuf hRsv hQn hHost hKind (fun _ _ => cfgQueue_none hHost hSite hOrg _ _ _)
    · intro hSite hKind hBad
      have hQn : qn < 0x6E000 := (isSiteQueue_iff _).mp hSite
      exact queueConfig_refused h hLen hBuf hRsv (hQn.trans (by decide)) (isHostQn_of_isSiteQueue hSite) hKind
        (fun H _ => cfgQueue_site_refused (s := { s with hif := H }) hSite hBad _ _)

end Sys2Proof.Machine
end

section
/-! SUPPORT. What the issue of a VECTOR instruction comes to, and what a write of vector registers leaves alone. -/

namespace Sys2Proof.Machine

/-! ## Flags and the engine -/

@[simp] theorem Core.raise_fv (c : Core) (f : Flags) : (c.raise f).fv = c.fv := rfl
@[simp] theorem Core.raise_seq (c : Core) (f : Flags) : (c.raise f).seq = c.seq := rfl
@[simp] theorem Core.raise_flags (c : Core) (f : Flags) : (c.raise f).num.flags = c.num.flags ||| f := rfl
@[simp] theorem Core.raise_ctr (c : Core) (f : Flags) : (c.raise f).num.ctr = c.num.ctr := rfl

/-- Occupying the engine changes its own counts and, where the slot read is released, the slots. -/
theorem Core.occupy_eq (c : Core) (a : VSlot) (k : Nat) :
    ∃ slots due, c.occupy a k = { c with fv := { c.fv with
      vfree := c.seq.cycle + k, beatsLeft := c.fv.beatsLeft + k, slots := slots, slotDue := due } } := by
  unfold Core.occupy
  split
  · exact ⟨_, _, rfl⟩
  · exact ⟨c.fv.slots, c.fv.slotDue, rfl⟩

@[simp] theorem Core.occupy_num (c : Core) (a : VSlot) (k : Nat) : (c.occupy a k).num = c.num := by
  obtain ⟨_, _, h⟩ := c.occupy_eq a k
  rw [h]

@[simp] theorem Core.occupy_vregs (c : Core) (a : VSlot) (k : Nat) : (c.occupy a k).fv.vregs = c.fv.vregs := by
  obtain ⟨_, _, h⟩ := c.occupy_eq a k
  rw [h]

@[simp] theorem Core.occupy_vready (c : Core) (a : VSlot) (k : Nat) : (c.occupy a k).fv.vready = c.fv.vready := by
  obtain ⟨_, _, h⟩ := c.occupy_eq a k
  rw [h]

theorem Core.occupy_slot (c : Core) (a : VSlot) (k q : Nat) : (c.occupy a k).slot q =
    if a.rel = true ∧ a.asrc = .slot ∧ q = a.va.val % 8 then .draining else c.slot q := by
  unfold Core.occupy
  by_cases h : a.rel = true ∧ a.asrc = .slot
  · obtain ⟨hRel, hSrc⟩ := h
    simp [hRel, hSrc, Core.slot, Tbl.get_set]
  · rw [if_neg (by simpa using h), if_neg (fun h' => h ⟨h'.1, h'.2.1⟩)]
    rfl

/-- A ready VECTOR instruction takes effect in the cycle of its issue: the stores inside the core hold no error for it to read. -/
theorem vecIssue_of_ready {s : State} {lc : Nat} {a : VSlot} (h : VecReady s lc a) (i : Instr) (k : Nat) (rs : List (Nat × Nat))
    (act : Nat → Core → Core) :
    vecIssue i lc a k rs act s = .next ((s.modCore lc (fun c => (act s.draws c).occupy a k)).drawn 65536) := by
  obtain ⟨⟨hDead, hBlocked, hFlaws⟩, hFree, hAcc, hSlot⟩ := h
  have hWait : (s.core lc).vecWait a = false := by
    simp only [Core.vecWait, hAcc]
    by_cases hSrc : a.asrc = .slot
    · have hFull : Tbl.get .free (s.core lc).fv.slots (a.va.val % 8) = .full := hSlot hSrc
      simp [hFull, hFree]
    · simp [hSrc, hFree]
  have hIdle : (s.core lc).slotIdle a = false := by
    by_cases hSrc : a.asrc = .slot
    · have hFull : Tbl.get .free (s.core lc).fv.slots (a.va.val % 8) = .full := hSlot hSrc
      simp [Core.slotIdle, hFull]
    · simp [Core.slotIdle, hSrc]
  have hRead : coreRead s 2 lc (s.core lc).seq.next rs = s := by simp [coreRead, hFlaws]
  simp only [vecIssue, hWait, hIdle, hRead]
  exact slotIssue_act hDead hBlocked

/-! ## Cores that differ in words of the vector registers -/

/-- Of the core, only the words [lo, hi) of the vector registers, the sticky flags, `SR_CTR` and the error marks may differ, and the
tiles where a line-port load is under way (R92). -/
structure OnlyWords (c d : Core) (lo hi : Nat) : Prop where
  words : ∀ j, j < lo ∨ hi ≤ j → Tbl.get 0 d.fv.vregs j = Tbl.get 0 c.fv.vregs j ∧ Tbl.get 0 d.fv.vready j = Tbl.get 0 c.fv.vready j
  fv : d.fv = { c.fv with vregs := d.fv.vregs, vready := d.fv.vready }
  num : d.num = { c.num with flags := d.num.flags, ctr := d.num.ctr }
  arr : c.arr.load = none → d.arr = c.arr
  seq : d.seq = c.seq
  mov : d.mov = c.mov

theorem OnlyWords.mono {c d : Core} {lo hi lo' hi' : Nat} (h : OnlyWords c d lo hi) (hLo : lo' ≤ lo) (hHi : hi ≤ hi') :
    OnlyWords c d lo' hi' :=
  { h with words := fun j hj => h.words j (by omega) }

theorem OnlyWords.trans {c d e : Core} {lo hi : Nat} (h : OnlyWords c d lo hi) (h' : OnlyWords d e lo hi) : OnlyWords c e lo hi where
  words j hj := ⟨(h'.words j hj).1.trans (h.words j hj).1, (h'.words j hj).2.trans (h.words j hj).2⟩
  fv := by rw [h'.fv, h.fv]
  num := by rw [h'.num, h.num]
  arr hLoad := by
    have hSame := h.arr hLoad
    exact (h'.arr (by rw [hSame]; exact hLoad)).trans hSame
  seq := h'.seq.trans h.seq
  mov := h'.mov.trans h.mov

theorem OnlyWords.raise {c d : Core} {lo hi : Nat} (h : OnlyWords c d lo hi) (f : Flags) : OnlyWords c (d.raise f) lo hi :=
  { h with num := by rw [Core.raise, h.num] }

/-- What an effect on the words at `VD` makes of the instruction that has it. -/
theorem vecDoes_of_onlyWords {i : Instr} {s : State} {lc : Nat} {a : VSlot} {k m : Nat} {fl : Flags} {P : Core → Prop}
    {rs : List (Nat × Nat)} {act : Nat → Core → Core} (h : VecReady s lc a) (hExec : exec i s = vecIssue i lc a k rs act s)
    (hWords : OnlyWords (s.core lc) (act s.draws (s.core lc)) (a.vd.val * 512) (a.vd.val * 512 + m))
    (hFlags : (act s.draws (s.core lc)).num.flags = (s.core lc).num.flags ||| fl)
    (hP : P ((act s.draws (s.core lc)).occupy a k)) : VecDoes i s lc a k m fl P := by
  rw [vecIssue_of_ready h] at hExec
  refine ⟨_, hExec, ⟨rfl, fun j hj => (State.core_drawn ..).trans (State.core_modCore_other s _ hj)⟩, ?_⟩
  rw [State.core_drawn, State.core_modCore_same]
  generalize act s.draws (s.core lc) = d at hWords hFlags hP
  refine ⟨hP, fun j hj => ?_, ?_, fun q => ?_, ?_⟩
  · rw [Core.occupy_vregs, Core.occupy_vready]
    exact hWords.words j hj
  · rw [Core.occupy_num, hFlags]
  · have hSlots : d.slot q = (s.core lc).slot q := by rw [Core.slot, hWords.fv]; rfl
    rw [Core.occupy_slot, hSlots]
  · obtain ⟨slots, due, hOccupy⟩ := d.occupy_eq a k
    rw [hOccupy]
    have hCycle : d.seq.cycle = (s.core lc).seq.cycle := congrArg _ hWords.seq
    obtain ⟨-, hFv, hNum, hArr, hSeq, hMov⟩ := hWords
    refine ⟨by rw [← hCycle], ?_, ?_, ?_, ?_, ?_, ?_, hNum, hArr, hSeq, hMov⟩ <;> rw [hFv]

/-! ## Results written to vector registers (R118, R128) -/

theorem Core.spoilLoad_eq (c : Core) (draws r k lo hi : Nat) :
    ∃ arr, c.spoilLoad draws r k lo hi = { c with arr := arr } ∧ (c.arr.load = none → arr = c.arr) := by
  unfold Core.spoilLoad
  split
  next l hLoad =>
    split
    · exact ⟨_, rfl, fun hNone => by rw [hLoad] at hNone; cases hNone⟩
    · exact ⟨c.arr, rfl, fun _ => rfl⟩
  next => exact ⟨c.arr, rfl, fun _ => rfl⟩

/-- A write of results changes the words at its register, and when each can be read. -/
theorem Core.writeVec_eq (c : Core) (draws r : Nat) (ws : List Word) (k at' : Nat) :
    ∃ arr flaws, (c.arr.load = none → arr = c.arr) ∧ c.writeVec draws r ws k at' = { c with
      arr := arr
      flaws := flaws
      fv := { c.fv with
        vregs := Tbl.setMany 0 c.fv.vregs (r * 512) (ws.zipIdx.map (fun e =>
          if at' < Tbl.get 0 c.fv.vready (r * 512 + e.2) then Config.freeWord (draws + 28672 + e.2) else e.1))
        vready := Tbl.setMany 0 c.fv.vready (r * 512)
          ((List.range ws.length).map (fun e => max at' (Tbl.get 0 c.fv.vready (r * 512 + e)))) } } := by
  obtain ⟨arr, hSpoil, hArr⟩ := c.spoilLoad_eq draws r (cdiv ws.length 512) (at' - k) at'
  refine ⟨arr, Tbl.clearRange c.flaws (vregKey r) (vregKey r + 4 * ws.length), hArr, ?_⟩
  unfold Core.writeVec
  rw [hSpoil]
  rfl

section WriteVec

variable (c : Core) (draws r : Nat) (ws : List Word) (k at' : Nat)

@[simp] theorem Core.writeVec_num : (c.writeVec draws r ws k at').num = c.num := by
  obtain ⟨_, _, -, h⟩ := c.writeVec_eq draws r ws k at'
  rw [h]

@[simp] theorem Core.writeVec_seq : (c.writeVec draws r ws k at').seq = c.seq := by
  obtain ⟨_, _, -, h⟩ := c.writeVec_eq draws r ws k at'
  rw [h]

theorem onlyWords_writeVec : OnlyWords c (c.writeVec draws r ws k at') (r * 512) (r * 512 + ws.length) := by
  obtain ⟨arr, flaws, hArr, h⟩ := c.writeVec_eq draws r ws k at'
  rw [h]
  refine ⟨fun j hj => ?_, rfl, rfl, hArr, rfl, rfl⟩
  rw [Tbl.get_setMany, Tbl.get_setMany, dif_neg (by simp; omega), dif_neg (by simp; omega)]
  exact ⟨rfl, rfl⟩

theorem wrote_writeVec : Wrote c (c.writeVec draws r ws k at') r ws.length at' (fun e => ws.getD e 0) := by
  obtain ⟨arr, flaws, hArr, h⟩ := c.writeVec_eq draws r ws k at'
  rw [h]
  intro e he
  constructor
  · rw [Tbl.get_setMany, dif_pos (by simp; omega)]
    simp
  · intro hReady
    rw [Tbl.get_setMany, dif_pos (by simp; omega)]
    simp [he, Nat.not_lt.mpr hReady]

end WriteVec

theorem onlyWords_writeVec_map (c : Core) (draws r k at' n : Nat) (w : Nat → Word) :
    OnlyWords c (c.writeVec draws r ((List.range n).map w) k at') (r * 512) (r * 512 + n) := by
  simpa using onlyWords_writeVec c draws r ((List.range n).map w) k at'

theorem wrote_writeVec_map (c : Core) (draws r k at' n : Nat) (w : Nat → Word) :
    Wrote c (c.writeVec draws r ((List.range n).map w) k at') r n at' w := by
  intro e he
  obtain ⟨hAt, hWord⟩ := wrote_writeVec c draws r ((List.range n).map w) k at' e (by simpa using he)
  exact ⟨hAt, fun hReady => (hWord hReady).trans (by simp [he])⟩

theorem wrote_congr {c d d' : Core} (hRegs : d'.fv.vregs = d.fv.vregs) (hReady : d'.fv.vready = d.fv.vready) {r n at' : Nat}
    {w : Nat → Word} : Wrote c d' r n at' w ↔ Wrote c d r n at' w := by
  rw [Wrote, Wrote, hRegs, hReady]

@[simp] theorem wrote_occupy {c d : Core} {a : VSlot} {k r n at' : Nat} {w : Nat → Word} :
    Wrote c (d.occupy a k) r n at' w ↔ Wrote c d r n at' w := wrote_congr (d.occupy_vregs a k) (d.occupy_vready a k)

@[simp] theorem wrote_raise {c d : Core} {f : Flags} {r n at' : Nat} {w : Nat → Word} :
    Wrote c (d.raise f) r n at' w ↔ Wrote c d r n at' w := wrote_congr rfl rfl

/-- Words written stay where a later change is of other words. -/
theorem Wrote.then_others {c d e : Core} {r n at' lo hi : Nat} {w : Nat → Word} (h : Wrote c d r n at' w) (hWords : OnlyWords d e lo hi)
    (hApart : r * 512 + n ≤ lo) : Wrote c e r n at' w := by
  intro x hx
  obtain ⟨hRegs, hReady⟩ := hWords.words (r * 512 + x) (by omega)
  rw [hRegs, hReady]
  exact h x hx

/-- Words are written as at first where an earlier change was of other words. -/
theorem Wrote.after_others {c d e : Core} {r n at' lo hi : Nat} {w : Nat → Word} (h : Wrote d e r n at' w) (hWords : OnlyWords c d lo hi)
    (hApart : hi ≤ r * 512) : Wrote c e r n at' w := by
  intro x hx
  obtain ⟨-, hReady⟩ := hWords.words (r * 512 + x) (by omega)
  rw [← hReady]
  exact h x hx

/-- What a write of two groups of words, at `r` and at a later register `r'`, leaves. -/
theorem wrote_twice {c d e : Core} {r r' n n' at' at'' : Nat} {w w' : Nat → Word} (hD : OnlyWords c d (r * 512) (r * 512 + n))
    (hE : OnlyWords d e (r' * 512) (r' * 512 + n')) (hFirst : Wrote c d r n at' w) (hSecond : Wrote d e r' n' at'' w')
    (hApart : r * 512 + n ≤ r' * 512) :
    OnlyWords c e (r * 512) (r' * 512 + n') ∧ Wrote c e r n at' w ∧ Wrote c e r' n' at'' w' := by
  have hD' : OnlyWords c d (r * 512) (r' * 512 + n') := hD.mono (Nat.le_refl _) (Nat.le_add_right_of_le hApart)
  have hE' : OnlyWords d e (r * 512) (r' * 512 + n') := hE.mono (Nat.le_of_add_right_le hApart) (Nat.le_refl _)
  exact ⟨hD'.trans hE', hFirst.then_others hE hApart, hSecond.after_others hD hApart⟩

/-! ## Results with their flags -/

theorem resultFlags_map (n : Nat) (f : Nat → Word × Flags) : resultFlags ((List.range n).map f) = flagsOf n f := rfl

section VecResult

variable (c : Core) (d : Nat) (a : VSlot) (k lat n : Nat) (f : Nat → Word × Flags)

theorem onlyWords_vecResult : OnlyWords c (c.vecResult d a k lat ((List.range n).map f)) (a.vd.val * 512) (a.vd.val * 512 + n) := by
  refine OnlyWords.raise ?_ _
  simpa using onlyWords_writeVec c d a.vd (((List.range n).map f).map (·.1)) k (c.seq.cycle + lat + k)

theorem wrote_vecResult :
    Wrote c (c.vecResult d a k lat ((List.range n).map f)) a.vd n (c.seq.cycle + lat + k) (fun e => (f e).1) := by
  unfold Core.vecResult
  rw [wrote_raise, List.map_map]
  exact wrote_writeVec_map c d a.vd k (c.seq.cycle + lat + k) n _

@[simp] theorem vecResult_flags : (c.vecResult d a k lat ((List.range n).map f)).num.flags = c.num.flags ||| flagsOf n f := by
  simp [Core.vecResult, resultFlags_map]

@[simp] theorem vecResult_ctr (rs : List (Word × Flags)) : (c.vecResult d a k lat rs).num.ctr = c.num.ctr := by simp [Core.vecResult]

@[simp] theorem vecResult_seq (rs : List (Word × Flags)) : (c.vecResult d a k lat rs).seq = c.seq := by simp [Core.vecResult]

end VecResult

/-- An instruction whose results are `f` of each element number writes them element by element. -/
theorem vecElems_of_results {i : Instr} {s : State} {lc : Nat} {a : VSlot} {per lat : Nat} {rs : List (Nat × Nat)}
    {results : Nat → Core → List (Word × Flags)} {f : Nat → Word × Flags} (h : VecReady s lc a)
    (hExec : exec i s = vecIssue i lc a (cdiv (vcount a) per) rs (fun d c => c.vecResult d a (cdiv (vcount a) per) lat (results d c)) s)
    (hResults : results s.draws (s.core lc) = (List.range (vcount a)).map f) : VecElems i s lc a per lat f := by
  refine vecDoes_of_onlyWords h hExec ?_ ?_ ?_ <;> rw [hResults]
  · exact onlyWords_vecResult ..
  · exact vecResult_flags ..
  · exact ⟨wrote_occupy.mpr (wrote_vecResult (s.core lc) s.draws a _ lat _ f), by simp⟩

end Sys2Proof.Machine
end

section
/-! PROOFS. Operand forms, element-wise operations and special functions of the vector engine. -/

namespace Sys2Proof.Machine

theorem vregElem_of_readable {c : Core} (h : ∀ r, Tbl.get 0 c.fv.vready r ≤ c.seq.cycle) (draws salt r i b : Nat) :
    vregElem c draws salt r i b = Tbl.get 0 c.fv.vregs (r * 512 + i) := by
  have hReady := h (r * 512 + i)
  exact if_neg (by omega)

theorem operandForms : OperandForms := by
  intro s lc a per e h
  unfold elemA vecElem
  cases a.asrc with
  | reg | row | col => exact vregElem_of_readable h ..
  | slot | scalar => rfl

section Elementwise

variable {i : Instr} {s : State} {lc : Lc} {a : VSlot} (h : VecReady s lc a)

include h

theorem vecMap1_elems {f : Word → Word × Flags} (hExec : exec i s = vecMap1 i lc a f s) :
    VecElems i s lc a 512 3 (fun e => f (elemA s lc a 512 e)) :=
  vecElems_of_results (results := fun d c => (opA a c d 512).map f) h hExec (List.map_map ..)

theorem vecMap2_elems {f : Word → Word → Word × Flags} (hExec : exec i s = vecMap2 i lc a f s) :
    VecElems i s lc a 512 3 (fun e => f (elemA s lc a 512 e) (elemB s lc a 512 e)) :=
  vecElems_of_results (results := fun d c => List.zipWith f (opA a c d 512) (opB a c d 512)) h hExec (by
    rw [opA, opB, vecOperand, vecOperand, List.zipWith_map, List.zipWith_self]
    rfl)

theorem vecMap3_elems {f : Word → Word → Word → Word × Flags} (hExec : exec i s = vecMap3 i lc a f s) :
    VecElems i s lc a 512 3 (fun e => f (elemA s lc a 512 e) (elemB s lc a 512 e) (elemC s lc a 512 e)) :=
  vecElems_of_results (results := fun d c => List.zipWith (fun x (yz : Word × Word) => f x yz.1 yz.2) (opA a c d 512)
    ((opB a c d 512).zip (opC a c d 512))) h hExec (by
    rw [opA, opB, opC, vecOperand, vecOperand, vecOperand, List.zip_map', List.zipWith_map, List.zipWith_self]
    rfl)

theorem vecSpecial_elems {f : Word → Word × Flags} (hExec : exec i s = vecSpecial i lc a f s) :
    VecElems i s lc a 64 8 (fun e => f (elemA s lc a 64 e)) :=
  vecElems_of_results (results := fun d c => (opA a c d 64).map f) h hExec (List.map_map ..)

end Elementwise

theorem vectorElementwise : VectorElementwise := fun _ _ _ h =>
  ⟨vecMap2_elems h rfl, vecMap2_elems h rfl, vecMap2_elems h rfl, vecMap3_elems h rfl, vecMap2_elems h rfl, vecMap2_elems h rfl,
    vecMap2_elems h rfl, vecMap2_elems h rfl, vecMap3_elems h rfl, vecMap1_elems h rfl⟩

theorem vectorSpecial : VectorSpecial := fun _ _ _ h =>
  ⟨vecSpecial_elems h rfl, vecSpecial_elems h rfl, vecSpecial_elems h rfl, vecSpecial_elems h rfl, vecSpecial_elems h rfl,
    vecSpecial_elems h rfl⟩

/-- Settles O8: a ready instruction takes effect in the cycle of its issue, and its effect is the list of its results written at `VD`. -/
theorem vectorElements : Obligations.VectorElements := ⟨operandForms, vectorElementwise, vectorSpecial⟩

end Sys2Proof.Machine
end

section
/-! PROOFS. Conversions, reductions, softmax and masks of the vector engine. -/

namespace Sys2Proof.Machine

/-! ## Lists of elements -/

theorem zipIdx_map_range {α : Type} (n : Nat) (f : Nat → α) : ((List.range n).map f).zipIdx = (List.range n).map (fun e => (f e, e)) := by
  refine List.ext_getElem (by simp) (fun i _ _ => ?_)
  simp

theorem rowOf_map_range {n i : Nat} (h : 32 * i + 32 ≤ n) (f : Nat → Word) :
    rowOf ((List.range n).map f) i = (List.range 32).map (fun j => f (32 * i + j)) := by
  refine List.ext_getElem (by simp [rowOf]; omega) (fun j _ _ => ?_)
  simp [rowOf]

theorem rowsOf_map_range (n : Nat) (f : Nat → Word) :
    rowsOf ((List.range n).map f) = (List.range (n / 32)).map (fun i => (List.range 32).map (fun j => f (32 * i + j))) := by
  rw [rowsOf, List.length_map, List.length_range]
  refine List.map_congr_left (fun i hi => rowOf_map_range ?_ f)
  have hRow := List.mem_range.mp hi
  omega

theorem colsOf_map_range (n : Nat) (f : Nat → Word) :
    colsOf ((List.range n).map f) = (List.range 32).map (fun j => (List.range (n / 32)).map (fun i => f (32 * i + j))) := by
  refine List.map_congr_left (fun j hj => ?_)
  rw [colOf, List.length_map, List.length_range]
  refine List.map_congr_left (fun i hi => ?_)
  have hCol := List.mem_range.mp hj
  have hRow := List.mem_range.mp hi
  have hElem : 32 * i + j < n := by omega
  simp [hElem]

theorem opA_eq (s : State) (lc : Nat) (a : VSlot) (per : Nat) :
    opA a (s.core lc) s.draws per = (List.range (vcount a)).map (elemA s lc a per) := rfl

theorem opB_eq (s : State) (lc : Nat) (a : VSlot) (per : Nat) :
    opB a (s.core lc) s.draws per = (List.range (vcount a)).map (elemB s lc a per) := rfl

/-! ## Conversions (R121) -/

/-- A stochastic conversion advances `SR_CTR` (R67). -/
def Core.advanceCtr (c : Core) (a : VSlot) : Core :=
  if a.rnd then { c with num := { c.num with ctr := bump c.num.ctr (cdiv (vcount a) 8) } } else c

@[simp] theorem Core.advanceCtr_fv (c : Core) (a : VSlot) : (c.advanceCtr a).fv = c.fv := by
  unfold Core.advanceCtr
  split <;> rfl

@[simp] theorem Core.advanceCtr_flags (c : Core) (a : VSlot) : (c.advanceCtr a).num.flags = c.num.flags := by
  unfold Core.advanceCtr
  split <;> rfl

theorem Core.advanceCtr_ctr (c : Core) (a : VSlot) :
    (c.advanceCtr a).num.ctr = if a.rnd then bump c.num.ctr (cdiv (vcount a) 8) else c.num.ctr := by
  unfold Core.advanceCtr
  split <;> rfl

theorem OnlyWords.advanceCtr {c d : Core} {lo hi : Nat} (h : OnlyWords c d lo hi) (a : VSlot) : OnlyWords c (d.advanceCtr a) lo hi := by
  unfold Core.advanceCtr
  split
  · exact { h with num := by rw [h.num] }
  · exact h

/-- The words that a `VCVT` writes. -/
def cvtWords (c : Core) (a : VSlot) (xs : List Word) : List Word :=
  packWords (packBits a.fmt) ((cvtResults c a xs).map (·.1)) (fun i => Tbl.get 0 c.fv.vregs (a.vd.val * 512 + i))

theorem cvtAct_eq (a : VSlot) (d : Nat) (c : Core) : cvtAct a d c =
    ((c.writeVec d a.vd (cvtWords c a (opA a c d 512)) (cdiv (vcount a) 512) (c.seq.cycle + 4 + cdiv (vcount a) 512)).raise
      (orFlags ((cvtResults c a (opA a c d 512)).map (·.2)))).advanceCtr a := rfl

theorem vext_elems {s : State} {lc : Lc} {a : VSlot} (h : VecReady s lc a) :
    VecElems (.vext lc a) s lc a 512 4 (fun e => extend32 a.fmt (unpackAt (s.core lc) s.draws a.va (packBits a.fmt) e)) :=
  vecElems_of_results (results := fun d c => (List.range (vcount a)).map
    (fun e => extend32 a.fmt (unpackAt c d a.va (packBits a.fmt) e))) h rfl rfl

theorem vectorConversions : VectorConversions := by
  intro s lc a h
  refine ⟨vext_elems h, ?_⟩
  refine vecDoes_of_onlyWords (act := cvtAct a) h rfl ?_ ?_ ?_ <;> rw [cvtAct_eq]
  · exact ((onlyWords_writeVec ..).raise _).advanceCtr a
  · rw [Core.advanceCtr_flags, Core.raise_flags, Core.writeVec_num]
    rfl
  · refine ⟨?_, ?_⟩
    · rw [wrote_occupy, wrote_congr (congrArg _ (Core.advanceCtr_fv ..)) (congrArg _ (Core.advanceCtr_fv ..)), wrote_raise]
      exact wrote_writeVec _ _ _ _ _ _
    · rw [Core.occupy_num, Core.advanceCtr_ctr, Core.raise_ctr, Core.writeVec_num]

/-! ## Reductions (R122) -/

/-- The effect of a reduction: the trees over the groups of the operand, and `NAN_IN` for a NaN among its elements (R71, R122). -/
def reduceAct (a : VSlot) (lat : Nat) (groups : List Word → List (List Word)) (op : Word → Word → Word × Flags) (d : Nat) (c : Core) : Core :=
  (c.vecResult d a (cdiv (vcount a) 512) lat ((groups (opA a c d 512)).map (tree32 op))).raise
    (if (opA a c d 512).any (fun x => (fp32 x).isNan) then flNanIn else 0)

theorem vecReduce_eq (i : Instr) (lc : Nat) (a : VSlot) (lat : Nat) (groups : List Word → List (List Word)) (op : Word → Word → Word × Flags)
    (s : State) : vecReduce i lc a lat groups op s = vecIssue i lc a (cdiv (vcount a) 512) [bytesA a] (reduceAct a lat groups op) s := rfl

theorem vecReduced_of_groups {i : Instr} {s : State} {lc : Lc} {a : VSlot} {lat m : Nat} {op : Word → Word → Word × Flags}
    {groups : List Word → List (List Word)} {group : Nat → List Word} (h : VecReady s lc a)
    (hExec : exec i s = vecReduce i lc a lat groups op s)
    (hGroups : groups ((List.range (vcount a)).map (elemA s lc a 512)) = (List.range m).map group) :
    VecReduced i s lc a lat m op group := by
  have hResults : (groups (opA a (s.core lc) s.draws 512)).map (tree32 op) = (List.range m).map (fun g => tree32 op (group g)) := by
    rw [opA_eq, hGroups, List.map_map]
    rfl
  have hNan : (opA a (s.core lc) s.draws 512).any (fun x => (fp32 x).isNan) =
      (List.range (vcount a)).any (fun e => (fp32 (elemA s lc a 512 e)).isNan) := List.any_map ..
  refine vecDoes_of_onlyWords h (hExec.trans (vecReduce_eq ..)) ?_ ?_ ?_ <;> rw [reduceAct, hResults, hNan]
  · exact (onlyWords_vecResult ..).raise _
  · rw [Core.raise_flags, vecResult_flags, BitVec.or_assoc]
  · exact ⟨wrote_occupy.mpr (wrote_raise.mpr (wrote_vecResult (s.core lc) s.draws a _ lat _ _)), by simp⟩

theorem vectorReductions : VectorReductions := by
  intro s lc a h _ el row col all
  have rows {i : Instr} {op : Word → Word → Word × Flags} (hExec : exec i s = vecReduce i lc a 9 rowsOf op s) :
      VecReduced i s lc a 9 (vcount a / 32) op row := vecReduced_of_groups h hExec (rowsOf_map_range ..)
  have cols {i : Instr} {op : Word → Word → Word × Flags} (hExec : exec i s = vecReduce i lc a 9 colsOf op s) :
      VecReduced i s lc a 9 32 op col := vecReduced_of_groups h hExec (colsOf_map_range ..)
  have whole {i : Instr} {op : Word → Word → Word × Flags} (hExec : exec i s = vecReduce i lc a 16 (fun xs => [xs]) op s) :
      VecReduced i s lc a 16 1 op all := vecReduced_of_groups h hExec rfl
  exact ⟨rows rfl, rows rfl, cols rfl, cols rfl, whole rfl, whole rfl⟩

/-! ## Softmax (R123, R124) -/

theorem vcount_le (a : VSlot) : vcount a ≤ 4096 := by
  have hCnt := a.cnt.isLt
  rw [vcount]
  omega

theorem le_cdiv_mul (n : Nat) : n ≤ cdiv n 512 * 512 := by
  unfold cdiv
  omega

section Softmax

variable (s : State) (lc : Nat) (a : VSlot)

/-- Maximum, factor and flags of row i (R123). -/
def statRow (i : Nat) : (Word × Word) × Flags :=
  smRow ((List.range 32).map (fun j => elemA s lc a 512 (32 * i + j))) (vregElem (s.core lc) s.draws 4096 a.vb i 0)

/-- The core after a `VSMSTAT` has written the maxima. -/
def statMaxima : Core :=
  (s.core lc).writeVec s.draws a.vd ((List.range (vcount a / 32)).map (fun i => (statRow s lc a i).1.1)) (cdiv (vcount a) 512 + 1)
    ((s.core lc).seq.cycle + 9 + (cdiv (vcount a) 512 + 1))

/-- The core after a `VSMSTAT` has written the factors too. -/
def statFactors : Core :=
  (statMaxima s lc a).writeVec s.draws (a.vd.val + 1) ((List.range (vcount a / 32)).map (fun i => (statRow s lc a i).1.2))
    (cdiv (vcount a) 512 + 1) ((s.core lc).seq.cycle + 9 + (cdiv (vcount a) 512 + 1))

theorem statFactors_num : (statFactors s lc a).num = (s.core lc).num := by simp [statFactors, statMaxima]

theorem smstatAct_eq : smstatAct a s.draws (s.core lc) =
    (statFactors s lc a).raise (orFlags ((List.range (vcount a / 32)).map (fun i => (statRow s lc a i).2))) := by
  have hRows : (rowsOf (opA a (s.core lc) s.draws 512)).zipIdx.map (fun r => smRow r.1 (vregElem (s.core lc) s.draws 4096 a.vb r.2 0)) =
      (List.range (vcount a / 32)).map (statRow s lc a) := by
    rw [opA_eq, rowsOf_map_range, zipIdx_map_range, List.map_map]
    rfl
  unfold smstatAct
  dsimp only
  rw [hRows, List.map_map, List.map_map, List.map_map]
  rfl

/-- Probability of element e (R124). -/
def expElem (e : Nat) : Word × Flags :=
  smProb (elemA s lc a 64 e) (vecElem (s.core lc) s.draws 4096 .row a.vb a.imm 64 e)

/-- Sum of the probabilities of row i (R124). -/
def expSum (i : Nat) : Word × Flags := tree32 add32 ((List.range 32).map (fun j => (expElem s lc a (32 * i + j)).1))

/-- The core after a `VSMEXP` has written the probabilities. -/
def expProbs : Core := (s.core lc).vecResult s.draws a (cdiv (vcount a) 64) 8 ((List.range (vcount a)).map (expElem s lc a))

/-- The core after a `VSMEXP` has written the sums too. -/
def expSums : Core :=
  (expProbs s lc a).writeVec s.draws (a.vd.val + cdiv (vcount a) 512) ((List.range (vcount a / 32)).map (fun i => (expSum s lc a i).1))
    (cdiv (vcount a) 64) ((s.core lc).seq.cycle + 12 + cdiv (vcount a) 64)

theorem expSums_flags : (expSums s lc a).num.flags = (s.core lc).num.flags ||| flagsOf (vcount a) (expElem s lc a) := by
  simp [expSums, expProbs]

theorem smexpAct_eq : smexpAct a s.draws (s.core lc) = (expSums s lc a).raise (flagsOf (vcount a / 32) (expSum s lc a)) := by
  have hProbs : List.zipWith smProb (opA a (s.core lc) s.draws 64) (vecOperand (s.core lc) s.draws 4096 .row a.vb a.imm 64 (vcount a)) =
      (List.range (vcount a)).map (expElem s lc a) := by
    rw [opA_eq, vecOperand, List.zipWith_map, List.zipWith_self]
    rfl
  have hSums : (rowsOf (((List.range (vcount a)).map (expElem s lc a)).map (·.1))).map (tree32 add32) =
      (List.range (vcount a / 32)).map (expSum s lc a) := by
    rw [List.map_map, rowsOf_map_range, List.map_map]
    rfl
  unfold smexpAct
  dsimp only
  rw [hProbs, hSums, List.map_map, vecResult_seq]
  rfl

variable {s lc a}

theorem statFactors_writes : OnlyWords (s.core lc) (statFactors s lc a) (a.vd.val * 512) (a.vd.val * 512 + (512 + vcount a / 32)) ∧
    Wrote (s.core lc) (statFactors s lc a) a.vd (vcount a / 32) ((s.core lc).seq.cycle + 9 + (cdiv (vcount a) 512 + 1))
      (fun i => (statRow s lc a i).1.1) ∧
    Wrote (s.core lc) (statFactors s lc a) (a.vd.val + 1) (vcount a / 32) ((s.core lc).seq.cycle + 9 + (cdiv (vcount a) 512 + 1))
      (fun i => (statRow s lc a i).1.2) := by
  have hCount := vcount_le a
  have hApart : a.vd.val * 512 + vcount a / 32 ≤ (a.vd.val + 1) * 512 := by omega
  have hEnd : (a.vd.val + 1) * 512 + vcount a / 32 = a.vd.val * 512 + (512 + vcount a / 32) := by rw [Nat.succ_mul, Nat.add_assoc]
  obtain ⟨hOnly, hWrote⟩ := wrote_twice (onlyWords_writeVec_map ..) (onlyWords_writeVec_map (statMaxima s lc a) ..)
    (wrote_writeVec_map (s.core lc) _ _ _ _ _ _) (wrote_writeVec_map _ s.draws _ _ _ _ _) hApart
  rw [← hEnd]
  exact ⟨hOnly, hWrote⟩

theorem expSums_writes : OnlyWords (s.core lc) (expSums s lc a) (a.vd.val * 512)
      (a.vd.val * 512 + (cdiv (vcount a) 512 * 512 + vcount a / 32)) ∧
    Wrote (s.core lc) (expSums s lc a) a.vd (vcount a) ((s.core lc).seq.cycle + 8 + cdiv (vcount a) 64) (fun e => (expElem s lc a e).1) ∧
    Wrote (s.core lc) (expSums s lc a) (a.vd.val + cdiv (vcount a) 512) (vcount a / 32) ((s.core lc).seq.cycle + 12 + cdiv (vcount a) 64)
      (fun i => (expSum s lc a i).1) := by
  have hBeats := le_cdiv_mul (vcount a)
  have hApart : a.vd.val * 512 + vcount a ≤ (a.vd.val + cdiv (vcount a) 512) * 512 := by omega
  have hEnd : (a.vd.val + cdiv (vcount a) 512) * 512 + vcount a / 32 = a.vd.val * 512 + (cdiv (vcount a) 512 * 512 + vcount a / 32) := by
    rw [Nat.add_mul, Nat.add_assoc]
  obtain ⟨hOnly, hWrote⟩ := wrote_twice (onlyWords_vecResult ..) (onlyWords_writeVec_map (expProbs s lc a) ..)
    (wrote_vecResult (s.core lc) _ _ _ _ _ _) (wrote_writeVec_map _ s.draws _ _ _ _ _) hApart
  rw [← hEnd]
  exact ⟨hOnly, hWrote⟩

end Softmax

theorem vectorSoftmax : VectorSoftmax := by
  intro s lc a h _ k row m st p sum
  constructor
  · obtain ⟨hOnly, hMaxima, hFactors⟩ := statFactors_writes (s := s) (lc := lc) (a := a)
    refine vecDoes_of_onlyWords (act := smstatAct a) h rfl ?_ ?_ ?_ <;> rw [smstatAct_eq]
    · exact hOnly.raise _
    · rw [Core.raise_flags, statFactors_num]
      rfl
    · exact ⟨wrote_occupy.mpr (wrote_raise.mpr hMaxima), wrote_occupy.mpr (wrote_raise.mpr hFactors)⟩
  · obtain ⟨hOnly, hProbs, hSums⟩ := expSums_writes (s := s) (lc := lc) (a := a)
    refine vecDoes_of_onlyWords (act := smexpAct a) h rfl ?_ ?_ ?_ <;> rw [smexpAct_eq]
    · exact hOnly.raise _
    · rw [Core.raise_flags, expSums_flags, BitVec.or_assoc]
      rfl
    · exact ⟨wrote_occupy.mpr (wrote_raise.mpr hProbs), wrote_occupy.mpr (wrote_raise.mpr hSums)⟩

/-! ## Masks and dropout (R125, R126) -/

/-- The results of a `VMASK`, from the parameter words and the elements. -/
def maskResults (a : VSlot) (d : Nat) (c : Core) : List (Word × Flags) :=
  let w (i : Nat) := vregElem c d 4096 a.vb i 0
  (opA a c d 512).zipIdx.map (fun e =>
    (if maskHit (w 0) (w 1) (w 2) (w 3) (w 4) e.2 then negInf32 else e.1, if (fp32 e.1).isNan then flNanIn else 0))

theorem exec_vmask (lc : Lc) (a : VSlot) (s : State) : exec (.vmask lc a) s = vecIssue (.vmask lc a) lc a (cdiv (vcount a) 512)
    [bytesA a, (vregKey a.vb, 20)] (fun d c => c.vecResult d a (cdiv (vcount a) 512) 3 (maskResults a d c)) s := rfl

/-- The results of a `VDROP`, from the dropout words and the elements. -/
def dropResults (a : VSlot) (d : Nat) (c : Core) : List (Word × Flags) :=
  let w (i : Nat) := vregElem c d 12288 63 i 0
  ((opA a c d 512).zip (opB a c d 512)).zipIdx.map (fun e =>
    if a.thr.toNat ≤ dropDraw c (w 0) (w 1) (dropIndex (w 2) e.2) then mul32 e.1.1 e.1.2 else (0, 0))

theorem exec_vdrop (lc : Lc) (a : VSlot) (s : State) : exec (.vdrop lc a) s = vecIssue (.vdrop lc a) lc a (cdiv (vcount a) 512)
    [bytesA a, bytesB a, (vregKey 63, 12)] (fun d c => c.vecResult d a (cdiv (vcount a) 512) 3 (dropResults a d c)) s := rfl

theorem vectorMasks : VectorMasks := by
  intro s lc a h w dw
  constructor
  · refine vecElems_of_results h (exec_vmask lc a s) ?_
    rw [maskResults, opA_eq, zipIdx_map_range, List.map_map]
    rfl
  · refine vecElems_of_results h (exec_vdrop lc a s) ?_
    rw [dropResults, opA_eq, opB_eq, List.zip_map', zipIdx_map_range, List.map_map]
    rfl

theorem causalMask : CausalMask := by
  intro w0 w1 e
  have hCausal : bit 1 0 = true := by decide
  have hPlain : bit 1 1 = false := by decide
  simp [maskHit, hCausal, hPlain]

/-- Settles O9: as the element-wise operations, with the groups, the parameter words and the second register that each operation has. -/
theorem vectorRows : Obligations.VectorRows := ⟨vectorConversions, vectorReductions, vectorSoftmax, vectorMasks, causalMask⟩

end Sys2Proof.Machine
end

section
/-! SUPPORT. Words and the fields that they spell, and the values that a decoder reads from bits. -/

namespace Sys2Proof.Machine

/-! ## Bit fields -/

theorem bits_lt (n hi lo : Nat) : bits n hi lo < 2 ^ (hi + 1 - lo) := Nat.mod_lt _ (Nat.two_pow_pos _)

theorem bits_of_lt {n hi : Nat} (h : n < 2 ^ (hi + 1)) : bits n hi 0 = n := by
  simpa [bits] using Nat.mod_eq_of_lt h

/-- A field of two adjacent ones, in place. -/
theorem bits_append {n lo m hi : Nat} (hLo : lo ≤ m) (hHi : m ≤ hi) :
    bits n hi lo * 2 ^ lo = bits n m lo * 2 ^ lo + bits n hi (m + 1) * 2 ^ (m + 1) := by
  obtain ⟨a, rfl⟩ := Nat.exists_eq_add_of_le hLo
  obtain ⟨b, rfl⟩ := Nat.exists_eq_add_of_le hHi
  have hWhole : lo + a + b + 1 - lo = (a + 1) + b := by omega
  have hLow : lo + a + 1 - lo = a + 1 := by omega
  have hHigh : lo + a + b + 1 - (lo + a + 1) = b := by omega
  have hFrom : lo + a + 1 = lo + (a + 1) := by omega
  unfold bits
  rw [hWhole, hLow, hHigh, hFrom, Nat.pow_add 2 (a + 1) b, Nat.mod_mul, Nat.div_div_eq_div_mul, Nat.pow_add 2 lo (a + 1)]
  ring

/-! ## Words of given fields -/

/-- The number whose fields from bit `lo` up have the top bits and values given, in place. -/
def pack : Nat → List (Nat × Nat) → Nat
  | _, [] => 0
  | lo, (hi, v) :: fs => v * 2 ^ lo + pack (hi + 1) fs

/-- The fields of `n` from bit `lo` up, with the top bits given, have the values given. -/
def FieldsAt (n : Nat) : Nat → List (Nat × Nat) → Prop
  | _, [] => True
  | lo, (hi, v) :: fs => bits n hi lo = v ∧ FieldsAt n (hi + 1) fs

/-- The fields from bit `lo` up to `top` are wide enough for their values. -/
def Fits (top : Nat) : Nat → List (Nat × Nat) → Prop
  | lo, [] => lo = top + 1
  | lo, (hi, v) :: fs => lo ≤ hi ∧ v < 2 ^ (hi + 1 - lo) ∧ Fits top (hi + 1) fs

theorem Fits.le {top lo : Nat} {fs : List (Nat × Nat)} (h : Fits top lo fs) : lo ≤ top + 1 := by
  induction fs generalizing lo with
  | nil => exact Nat.le_of_eq h
  | cons f fs ih =>
    obtain ⟨hLo, -, hFits⟩ := h
    have := ih hFits
    omega

theorem pow_dvd_pack {top lo : Nat} {fs : List (Nat × Nat)} (h : Fits top lo fs) : 2 ^ lo ∣ pack lo fs := by
  induction fs generalizing lo with
  | nil => exact Nat.dvd_zero _
  | cons f fs ih =>
    obtain ⟨hLo, -, hFits⟩ := h
    exact Nat.dvd_add (Nat.dvd_mul_left ..) (Nat.dvd_trans (Nat.pow_dvd_pow 2 (by omega)) (ih hFits))

/-- Two sums of a low part and a multiple of `m` are equal exactly when their parts are. -/
theorem add_eq_add_iff_of_lt_of_dvd {a b x y m : Nat} (ha : a < m) (hb : b < m) (hx : m ∣ x) (hy : m ∣ y) :
    a + x = b + y ↔ a = b ∧ x = y := by
  constructor
  · intro h
    have hMod := congrArg (· % m) h
    simp only [Nat.add_mod, Nat.mod_eq_zero_of_dvd hx, Nat.mod_eq_zero_of_dvd hy, Nat.add_zero, Nat.mod_eq_of_lt ha,
      Nat.mod_eq_of_lt hb] at hMod
    omega
  · rintro ⟨rfl, rfl⟩
    rfl

/-- The bits from `lo` to `top` spell given fields exactly when each field has its value. -/
theorem bits_eq_pack_iff {n top lo : Nat} {fs : List (Nat × Nat)} (h : Fits top lo fs) :
    bits n top lo * 2 ^ lo = pack lo fs ↔ FieldsAt n lo fs := by
  induction fs generalizing lo with
  | nil =>
    have hEnd : top + 1 - lo = 0 := by
      have : lo = top + 1 := h
      omega
    simp [bits, hEnd, Nat.mod_one, pack, FieldsAt]
  | cons f fs ih =>
    obtain ⟨hi, v⟩ := f
    obtain ⟨hLo, hv, hFits⟩ := h
    have hPow : 2 ^ (hi + 1) = 2 ^ (hi + 1 - lo) * 2 ^ lo := by
      rw [← Nat.pow_add]
      congr 1
      omega
    have hLow {x : Nat} (hx : x < 2 ^ (hi + 1 - lo)) : x * 2 ^ lo < 2 ^ (hi + 1) := by
      rw [hPow]
      exact Nat.mul_lt_mul_of_pos_right hx (Nat.two_pow_pos lo)
    rw [bits_append hLo (by have := hFits.le; omega), pack, FieldsAt, ← ih hFits,
      add_eq_add_iff_of_lt_of_dvd (hLow (bits_lt ..)) (hLow hv) (Nat.dvd_mul_left ..) (pow_dvd_pack hFits),
      Nat.mul_left_inj (Nat.two_pow_pos lo).ne']

/-- A number of bits 0 to `top` is the word of given fields exactly when each field has its value. -/
theorem eq_pack_iff {n top : Nat} {fs : List (Nat × Nat)} (hn : n < 2 ^ (top + 1)) (h : Fits top 0 fs) :
    n = pack 0 fs ↔ FieldsAt n 0 fs := by
  rw [← bits_eq_pack_iff h, bits_of_lt hn, Nat.pow_zero, Nat.mul_one]

/-! ## The values that fields spell -/

theorem toNat_ofNat_bits {n hi lo w : Nat} (h : hi + 1 - lo = w) : (BitVec.ofNat w (bits n hi lo)).toNat = bits n hi lo := by
  subst h
  exact Nat.mod_eq_of_lt (bits_lt n hi lo)

theorem val_ofNat_bits {n hi lo m : Nat} [NeZero m] (h : 2 ^ (hi + 1 - lo) = m) : (Fin.ofNat m (bits n hi lo)).val = bits n hi lo := by
  subst h
  exact Nat.mod_eq_of_lt (bits_lt n hi lo)

theorem ofNat_bits_eq_iff {n hi lo w : Nat} {x : BitVec w} (h : hi + 1 - lo = w) :
    BitVec.ofNat w (bits n hi lo) = x ↔ bits n hi lo = x.toNat := by
  rw [BitVec.toNat_eq, toNat_ofNat_bits h]

theorem finOfNat_bits_eq_iff {n hi lo m : Nat} [NeZero m] {x : Fin m} (h : 2 ^ (hi + 1 - lo) = m) :
    Fin.ofNat m (bits n hi lo) = x ↔ bits n hi lo = x.val := by
  rw [Fin.ext_iff, val_ofNat_bits h]

theorem b2n_lt (b : Bool) : b2n b < 2 := by cases b <;> decide

theorem b2n_bit (n k : Nat) : b2n (bit n k) = bits n k k := by
  have hLt := bits_lt n k k
  rw [Nat.add_sub_cancel_left] at hLt
  by_cases h : bits n k k = 1
  · simp [b2n, bit, h]
  · have hZero : bits n k k = 0 := by omega
    simp [b2n, bit, hZero]

theorem bit_eq_iff {n k : Nat} {b : Bool} : bit n k = b ↔ bits n k k = b2n b := by
  rw [← b2n_bit]
  cases b <;> cases bit n k <;> decide

theorem bit_eq_false_iff {n k : Nat} : bit n k = false ↔ bits n k k = 0 := bit_eq_iff

theorem bit_eq_true_iff {n k : Nat} : bit n k = true ↔ bits n k k = 1 := bit_eq_iff

theorem fin?_eq_some {n v : Nat} {x : Fin n} : fin? n v = some x ↔ v = x.val := by
  unfold fin?
  split
  next => simp [Fin.ext_iff]
  next h =>
    have hx := x.isLt
    simp only [reduceCtorEq, false_iff]
    omega

theorem sfmtOf_eq_some {v : Nat} {x : SFmt} : sfmtOf v = some x ↔ v = x.code := by
  constructor
  · intro h
    unfold sfmtOf at h
    split at h <;> cases h <;> rfl
  · rintro rfl
    cases x <;> rfl

theorem vsrcOf_eq_some {v : Nat} {x : VSrc} : vsrcOf v = some x ↔ v = vsrcCode x := by
  constructor
  · intro h
    unfold vsrcOf at h
    split at h <;> cases h <;> rfl
  · rintro rfl
    cases x <;> rfl

theorem SFmt.code_lt (x : SFmt) : x.code < 8 := by cases x <;> decide
theorem vsrcCode_lt (x : VSrc) : vsrcCode x < 8 := by cases x <;> decide

end Sys2Proof.Machine
end

section
/-! PROOFS. The words of the ARRAY slot and of the FEED slots. -/

namespace Sys2Proof.Machine

/-! ## ARRAY (Tables 3.1, 3.2) -/

/-- The operand fields of ARRAY[8:4]. -/
structure PrimarySlot where
  /-- `TILE` -/
  tile : Fin 4
  /-- `FMT` -/
  fp32 : Bool
  /-- `POPA` -/
  popa : Bool
  /-- `POPB` -/
  popb : Bool

/-- The primary operations: code, fields and command; a field that an operation does not use is zero (Table 3.2). -/
inductive PrimarySpells (lc : Lc) : Nat → PrimarySlot → Instr → Prop
  | anop : PrimarySpells lc 0 ⟨0, false, false, false⟩ (.anop lc)
  | mac (tile : Fin 4) (f pa pb : Bool) : PrimarySpells lc 1 ⟨tile, f, pa, pb⟩ (.mac lc tile f pa pb)
  | macz (tile : Fin 4) (f pa pb : Bool) : PrimarySpells lc 2 ⟨tile, f, pa, pb⟩ (.macz lc tile f pa pb)
  | aclr (tile : Fin 4) : PrimarySpells lc 3 ⟨tile, false, false, false⟩ (.aclr lc tile)
  | aramp : PrimarySpells lc 4 ⟨0, false, false, false⟩ (.aramp lc)

/-- The fields of ARRAY[8:0]. -/
def primaryLayout (op : Nat) (a : PrimarySlot) : List (Nat × Nat) :=
  [(3, op), (5, a.tile.val), (6, b2n a.fp32), (7, b2n a.popa), (8, b2n a.popb)]

/-- The fields of a primary operation that a decoder reads from its bits. -/
def primaryRead (n : Nat) : PrimarySlot where
  tile := Fin.ofNat 4 (bits n 5 4)
  fp32 := bit n 6
  popa := bit n 7
  popb := bit n 8

theorem PrimarySpells.range {lc : Lc} {op : Nat} {a : PrimarySlot} {i : Instr} (h : PrimarySpells lc op a i) : op < 16 := by
  cases h <;> decide

theorem fits_primaryLayout {op : Nat} (hOp : op < 16) (a : PrimarySlot) : Fits 8 0 (primaryLayout op a) := by
  have hFmt := b2n_lt a.fp32
  have hPopa := b2n_lt a.popa
  have hPopb := b2n_lt a.popb
  simp only [primaryLayout, Fits, Nat.reduceAdd, Nat.reduceSub, Nat.reducePow, and_true]
  omega

theorem fieldsAt_primaryLayout {n op : Nat} {a : PrimarySlot} :
    FieldsAt n 0 (primaryLayout op a) ↔ bits n 3 0 = op ∧ primaryRead n = a := by
  obtain ⟨⟩ := a
  simp only [FieldsAt, primaryLayout, primaryRead, Nat.reduceAdd, Nat.reduceSub, Nat.reducePow, PrimarySlot.mk.injEq, bit_eq_iff,
    finOfNat_bits_eq_iff, and_true]

theorem encodePrimary_eq_some {lc : Lc} {x : Nat} {i : Instr} :
    encodePrimary i = some (lc, x) ↔ ∃ op a, PrimarySpells lc op a i ∧ pack 0 (primaryLayout op a) = x := by
  constructor
  · intro h
    unfold encodePrimary at h
    split at h <;> cases h
    all_goals
      refine ⟨_, _, by constructor, ?_⟩
      simp [primaryLayout, pack, b2n]
    all_goals omega
  · rintro ⟨op, a, h, rfl⟩
    cases h <;> simp [encodePrimary, primaryLayout, pack, b2n]
    all_goals omega

theorem primaryRead_eq_iff {n : Nat} {tile : Fin 4} {f pa pb : Bool} : primaryRead n = ⟨tile, f, pa, pb⟩ ↔
    bits n 5 4 = tile.val ∧ bits n 6 6 = b2n f ∧ bits n 7 7 = b2n pa ∧ bits n 8 8 = b2n pb := by
  simp only [primaryRead, Nat.reduceAdd, Nat.reduceSub, Nat.reducePow, PrimarySlot.mk.injEq, bit_eq_iff, finOfNat_bits_eq_iff]

/-- ARRAY[8:4] are zero exactly when every operand field is. -/
theorem bits_operands_eq_zero {n : Nat} : bits n 8 4 = 0 ↔ primaryRead n = ⟨0, false, false, false⟩ := by
  rw [primaryRead_eq_iff]
  simp only [bits, Fin.val_zero, b2n, Bool.false_eq_true, if_false]
  omega

/-- ARRAY[8:6] are zero exactly when every operand field but `TILE` is. -/
theorem bits_flags_eq_zero {n : Nat} : bits n 8 6 = 0 ↔ primaryRead n = ⟨Fin.ofNat 4 (bits n 5 4), false, false, false⟩ := by
  rw [primaryRead_eq_iff, val_ofNat_bits (by decide)]
  simp only [bits, b2n, Bool.false_eq_true, if_false, true_and]
  omega

theorem decodePrimary_eq_some {lc : Lc} {n : Nat} {i : Instr} :
    decodePrimary lc n = some i ↔ PrimarySpells lc (bits n 3 0) (primaryRead n) i := by
  constructor
  · intro h
    unfold decodePrimary at h
    split at h
    case h_1 hOp =>
      obtain ⟨hZero, hEq⟩ := Option.ite_none_right_eq_some.mp h
      cases hEq
      rw [hOp, bits_operands_eq_zero.mp hZero]
      exact .anop
    case h_2 hOp =>
      cases h
      rw [hOp]
      exact .mac ..
    case h_3 hOp =>
      cases h
      rw [hOp]
      exact .macz ..
    case h_4 hOp =>
      obtain ⟨hZero, hEq⟩ := Option.ite_none_right_eq_some.mp h
      cases hEq
      rw [hOp, bits_flags_eq_zero.mp hZero]
      exact .aclr _
    case h_5 hOp =>
      obtain ⟨hZero, hEq⟩ := Option.ite_none_right_eq_some.mp h
      cases hEq
      rw [hOp, bits_operands_eq_zero.mp hZero]
      exact .aramp
    case h_6 => cases h
  · generalize hOp : bits n 3 0 = op
    generalize hRead : primaryRead n = a
    intro h
    cases h
    case anop | aramp => simp [decodePrimary, hOp, bits_operands_eq_zero, hRead]
    case aclr tile =>
      have hTile := congrArg PrimarySlot.tile hRead
      simp only [primaryRead] at hTile
      simp only [decodePrimary, hOp, bits_flags_eq_zero, hRead, hTile, if_true]
    all_goals
      injection hRead with hTile hFmt hPopa hPopb
      simp only [decodePrimary, hOp, hTile, hFmt, hPopa, hPopb]

/-- The fields of ARRAY[29:12]. -/
structure PortSlot where
  /-- `PORT_DIR`: a load -/
  load : Bool
  /-- `PORT_TILE` -/
  tile : Fin 4
  /-- `AXIS` -/
  axis : Bool
  /-- `CLR` -/
  clr : Bool
  /-- `LEN` -/
  len : Fin 16
  /-- `SLOT` -/
  slot : Fin 8
  /-- `VPAIR` -/
  pair : Fin 32

/-- The line-port transfers: fields and command; a field that a transfer does not use is zero (Table 3.1). -/
inductive PortSpells (lc : Lc) : PortSlot → Instr → Prop
  | readout (tile : Fin 4) (axis clr : Bool) (len : Fin 16) (slot : Fin 8) :
      PortSpells lc ⟨false, tile, axis, clr, len, slot, 0⟩ (.linePortReadout lc tile axis clr len slot)
  | load (tile : Fin 4) (axis : Bool) (len : Fin 16) (pair : Fin 32) :
      PortSpells lc ⟨true, tile, axis, false, len, 0, pair⟩ (.linePortLoad lc tile axis len pair)

/-- The fields of ARRAY[29:12] of a slot that starts a transfer. -/
def portLayout (a : PortSlot) : List (Nat × Nat) :=
  [(12, 1), (13, b2n a.load), (15, a.tile.val), (16, b2n a.axis), (17, b2n a.clr), (21, a.len.val), (24, a.slot.val), (29, a.pair.val)]

/-- The fields of a line-port transfer that a decoder reads from its bits. -/
def portRead (n : Nat) : PortSlot where
  load := bit n 13
  tile := Fin.ofNat 4 (bits n 15 14)
  axis := bit n 16
  clr := bit n 17
  len := Fin.ofNat 16 (bits n 21 18)
  slot := Fin.ofNat 8 (bits n 24 22)
  pair := Fin.ofNat 32 (bits n 29 25)

theorem fits_portLayout (a : PortSlot) : Fits 29 12 (portLayout a) := by
  have hLoad := b2n_lt a.load
  have hAxis := b2n_lt a.axis
  have hClr := b2n_lt a.clr
  simp only [portLayout, Fits, Nat.reduceAdd, Nat.reduceSub, Nat.reducePow, and_true]
  omega

theorem fieldsAt_portLayout {n : Nat} {a : PortSlot} : FieldsAt n 12 (portLayout a) ↔ bits n 12 12 = 1 ∧ portRead n = a := by
  obtain ⟨⟩ := a
  simp only [FieldsAt, portLayout, portRead, Nat.reduceAdd, Nat.reduceSub, Nat.reducePow, PortSlot.mk.injEq, bit_eq_iff,
    finOfNat_bits_eq_iff, and_true]

theorem encodePort_eq_some {lc : Lc} {y : Nat} {i : Instr} :
    encodePort i = some (lc, y) ↔ ∃ a, PortSpells lc a i ∧ pack 12 (portLayout a) = y := by
  constructor
  · intro h
    unfold encodePort at h
    split at h <;> cases h
    all_goals
      refine ⟨_, by constructor, ?_⟩
      simp [portLayout, pack, b2n]
    all_goals omega
  · rintro ⟨a, h, rfl⟩
    cases h <;> simp [encodePort, portLayout, pack, b2n]
    all_goals omega

theorem decodePort_eq_nil {lc : Lc} {n : Nat} : decodePort lc n = some [] ↔ bits n 29 12 = 0 := by
  have hSplit : bits n 29 12 = 0 ↔ bit n 12 = false ∧ bits n 29 13 = 0 := by
    simp only [bit_eq_iff, bits, b2n, Bool.false_eq_true, if_false]
    omega
  unfold decodePort
  rw [hSplit]
  cases bit n 12 <;> cases bit n 13 <;> simp

theorem decodePort_eq_cons {lc : Lc} {n : Nat} {q : Instr} {qs : List Instr} :
    decodePort lc n = some (q :: qs) ↔ qs = [] ∧ bits n 12 12 = 1 ∧ PortSpells lc (portRead n) q := by
  have hPair : bits n 29 25 = 0 ↔ Fin.ofNat 32 (bits n 29 25) = 0 := by rw [finOfNat_bits_eq_iff (by decide)]; rfl
  have hSlot : bits n 24 22 = 0 ↔ Fin.ofNat 8 (bits n 24 22) = 0 := by rw [finOfNat_bits_eq_iff (by decide)]; rfl
  rw [← bit_eq_true_iff]
  constructor
  · intro h
    unfold decodePort at h
    split at h
    next => split at h <;> cases h
    next hOn =>
      split at h
      next hDir =>
        obtain ⟨hZero, hEq⟩ := Option.ite_none_right_eq_some.mp h
        cases hEq
        have hRead : portRead n = { portRead n with load := false, pair := 0 } := by
          rw [portRead, hPair.mp hZero, show bit n 13 = false by simpa using hDir]
        refine ⟨rfl, by simpa using hOn, ?_⟩
        rw [hRead]
        exact .readout ..
      next hDir =>
        obtain ⟨hZero, hEq⟩ := Option.ite_none_left_eq_some.mp h
        cases hEq
        simp only [ne_eq, Bool.or_eq_true, decide_eq_true_eq, not_or, Bool.not_eq_true, Decidable.not_not] at hZero
        have hRead : portRead n = { portRead n with load := true, clr := false, slot := 0 } := by
          rw [portRead, hZero.1, hSlot.mp hZero.2, show bit n 13 = true by simpa using hDir]
        refine ⟨rfl, by simpa using hOn, ?_⟩
        rw [hRead]
        exact .load ..
  · generalize hRead : portRead n = b
    rintro ⟨rfl, hOn, h⟩
    cases h
    all_goals
      injection hRead with hLoad hTile hAxis hClr hLen hSlots hPairs
      simp only [decodePort, hOn, hLoad, hPair, hSlot, hTile, hAxis, hClr, hLen, hSlots, hPairs, Bool.not_true, Bool.not_false,
        Bool.false_eq_true, ne_eq, not_true_eq_false, decide_false, Bool.or_self, if_true, if_false]

/-- The fields of ARRAY[47:0] without a line-port transfer. -/
def idlePortLayout (op : Nat) (a : PrimarySlot) : List (Nat × Nat) := primaryLayout op a ++ [(11, 0), (29, 0), (47, 0)]

/-- The fields of ARRAY[47:0] with a line-port transfer. -/
def busyPortLayout (op : Nat) (a : PrimarySlot) (b : PortSlot) : List (Nat × Nat) :=
  primaryLayout op a ++ (11, 0) :: (portLayout b ++ [(47, 0)])

theorem eq_pack_idlePortLayout {n op : Nat} {a : PrimarySlot} (hn : n < 2 ^ 48) (hOp : op < 16) : n = pack 0 (primaryLayout op a) ↔
    bits n 11 9 = 0 ∧ bits n 47 30 = 0 ∧ bits n 3 0 = op ∧ primaryRead n = a ∧ bits n 29 12 = 0 := by
  have hPack : pack 0 (primaryLayout op a) = pack 0 (idlePortLayout op a) := by
    simp [primaryLayout, idlePortLayout, pack]
  have hFits : Fits 47 0 (idlePortLayout op a) := by simpa [primaryLayout, idlePortLayout, Fits] using fits_primaryLayout hOp a
  have hFields : FieldsAt n 0 (idlePortLayout op a) ↔
      FieldsAt n 0 (primaryLayout op a) ∧ bits n 11 9 = 0 ∧ bits n 29 12 = 0 ∧ bits n 47 30 = 0 := by
    simp [idlePortLayout, primaryLayout, FieldsAt, and_assoc]
  rw [hPack, eq_pack_iff hn hFits, hFields, fieldsAt_primaryLayout]
  tauto

theorem eq_pack_busyPortLayout {n op : Nat} {a : PrimarySlot} {b : PortSlot} (hn : n < 2 ^ 48) (hOp : op < 16) :
    n = pack 0 (primaryLayout op a) + pack 12 (portLayout b) ↔
      bits n 11 9 = 0 ∧ bits n 47 30 = 0 ∧ bits n 3 0 = op ∧ primaryRead n = a ∧ bits n 12 12 = 1 ∧ portRead n = b := by
  have hPack : pack 0 (primaryLayout op a) + pack 12 (portLayout b) = pack 0 (busyPortLayout op a b) := by
    simp [primaryLayout, portLayout, busyPortLayout, pack, Nat.add_assoc]
  have hFits : Fits 47 0 (busyPortLayout op a b) := by
    have hPrimary := fits_primaryLayout hOp a
    have hPort := fits_portLayout b
    simp_all [primaryLayout, portLayout, busyPortLayout, Fits]
  have hFields : FieldsAt n 0 (busyPortLayout op a b) ↔
      FieldsAt n 0 (primaryLayout op a) ∧ bits n 11 9 = 0 ∧ FieldsAt n 12 (portLayout b) ∧ bits n 47 30 = 0 := by
    simp [busyPortLayout, portLayout, primaryLayout, FieldsAt, and_assoc]
  rw [hPack, eq_pack_iff hn hFits, hFields, fieldsAt_primaryLayout, fieldsAt_portLayout]
  tauto

theorem decodeArray_eq_some {lc : Lc} {n : Nat} {cs : List Instr} : decodeArray lc n = some cs ↔
    bits n 11 9 = 0 ∧ bits n 47 30 = 0 ∧ ∃ p, decodePrimary lc n = some p ∧ ∃ qs, decodePort lc n = some qs ∧ p :: qs = cs := by
  unfold decodeArray
  by_cases hGap : bits n 11 9 = 0 <;> by_cases hTop : bits n 47 30 = 0 <;> simp [hGap, hTop, Option.bind_eq_some_iff]

theorem decodeArray_iff_encode {lc : Lc} {n : Nat} {cs : List Instr} (hn : n < 2 ^ 48) :
    decodeArray lc n = some cs ↔ ∃ p x, encodePrimary p = some (lc, x) ∧
      ((cs = [p] ∧ n = x) ∨ ∃ q y, encodePort q = some (lc, y) ∧ cs = [p, q] ∧ n = x + y) := by
  rw [decodeArray_eq_some]
  constructor
  · rintro ⟨hGap, hTop, p, hPrimary, qs, hPort, rfl⟩
    rw [decodePrimary_eq_some] at hPrimary
    refine ⟨p, _, encodePrimary_eq_some.mpr ⟨_, _, hPrimary, rfl⟩, ?_⟩
    cases qs with
    | nil =>
      exact .inl ⟨rfl, (eq_pack_idlePortLayout hn hPrimary.range).mpr ⟨hGap, hTop, rfl, rfl, decodePort_eq_nil.mp hPort⟩⟩
    | cons q qs =>
      obtain ⟨rfl, hStart, hPort⟩ := decodePort_eq_cons.mp hPort
      exact .inr ⟨q, _, encodePort_eq_some.mpr ⟨_, hPort, rfl⟩, rfl,
        (eq_pack_busyPortLayout hn hPrimary.range).mpr ⟨hGap, hTop, rfl, rfl, hStart, rfl⟩⟩
  · rintro ⟨p, x, hPrimary, hCases⟩
    obtain ⟨op, a, hSpells, rfl⟩ := encodePrimary_eq_some.mp hPrimary
    rcases hCases with ⟨rfl, hWord⟩ | ⟨q, y, hPort, rfl, hWord⟩
    · obtain ⟨hGap, hTop, rfl, rfl, hIdle⟩ := (eq_pack_idlePortLayout hn hSpells.range).mp hWord
      exact ⟨hGap, hTop, p, decodePrimary_eq_some.mpr hSpells, [], decodePort_eq_nil.mpr hIdle, rfl⟩
    · obtain ⟨b, hMoves, rfl⟩ := encodePort_eq_some.mp hPort
      obtain ⟨hGap, hTop, rfl, rfl, hStart, rfl⟩ := (eq_pack_busyPortLayout hn hSpells.range).mp hWord
      exact ⟨hGap, hTop, p, decodePrimary_eq_some.mpr hSpells, [q], decodePort_eq_cons.mpr ⟨rfl, hStart, hMoves⟩, rfl⟩

/-! ## FEED (Table 4.1) -/

/-- The fields of FEED[79:0] of an `FBLK`. -/
def fblkLayout (a : FBlkSlot) : List (Nat × Nat) :=
  [(2, 1), (3, b2n a.mode), (6, a.sfmt.code), (7, b2n a.tr), (8, b2n a.rope), (9, 0), (24, a.addr.toNat), (32, a.rep.toNat),
    (48, a.stride.toNat), (63, a.rdesc.toNat), (78, 0), (79, 0)]

/-- The fields of FEED[79:0] of an `FGATH`. -/
def fgathLayout (a : FGathSlot) : List (Nat × Nat) :=
  [(2, 2), (6, 0), (7, b2n a.tr), (8, b2n a.rope), (9, 0), (24, 0), (32, a.rep.toNat), (48, a.stride.toNat), (63, a.rdesc.toNat),
    (78, a.glist.toNat), (79, 0)]

/-- The fields of an `FBLK` that a decoder reads from its bits. -/
def fblkRead (n : Nat) (sfmt : SFmt) : FBlkSlot where
  mode := bit n 3
  sfmt := sfmt
  tr := bit n 7
  rope := bit n 8
  addr := BitVec.ofNat 15 (bits n 24 10)
  rep := BitVec.ofNat 8 (bits n 32 25)
  stride := BitVec.ofNat 16 (bits n 48 33)
  rdesc := BitVec.ofNat 15 (bits n 63 49)

/-- The fields of an `FGATH` that a decoder reads from its bits. -/
def fgathRead (n : Nat) : FGathSlot where
  tr := bit n 7
  rope := bit n 8
  rep := BitVec.ofNat 8 (bits n 32 25)
  stride := BitVec.ofNat 16 (bits n 48 33)
  rdesc := BitVec.ofNat 15 (bits n 63 49)
  glist := BitVec.ofNat 15 (bits n 78 64)

theorem fits_fblkLayout (a : FBlkSlot) : Fits 79 0 (fblkLayout a) := by
  have hFmt := SFmt.code_lt a.sfmt
  have hMode := b2n_lt a.mode
  have hTr := b2n_lt a.tr
  have hRope := b2n_lt a.rope
  simp only [fblkLayout, Fits, Nat.reduceAdd, Nat.reduceSub, Nat.reducePow, and_true]
  omega

theorem fits_fgathLayout (a : FGathSlot) : Fits 79 0 (fgathLayout a) := by
  have hTr := b2n_lt a.tr
  have hRope := b2n_lt a.rope
  simp only [fgathLayout, Fits, Nat.reduceAdd, Nat.reduceSub, Nat.reducePow, and_true]
  omega

theorem fieldsAt_fblkLayout {n : Nat} {a : FBlkSlot} : FieldsAt n 0 (fblkLayout a) ↔
    bits n 9 9 = 0 ∧ bits n 79 79 = 0 ∧ bits n 2 0 = 1 ∧ bits n 6 4 = a.sfmt.code ∧ bits n 78 64 = 0 ∧ fblkRead n a.sfmt = a := by
  obtain ⟨⟩ := a
  simp only [FieldsAt, fblkLayout, fblkRead, Nat.reduceAdd, Nat.reduceSub, FBlkSlot.mk.injEq, bit_eq_iff, ofNat_bits_eq_iff]
  tauto

theorem fieldsAt_fgathLayout {n : Nat} {a : FGathSlot} : FieldsAt n 0 (fgathLayout a) ↔
    bits n 9 9 = 0 ∧ bits n 79 79 = 0 ∧ bits n 2 0 = 2 ∧ bits n 6 3 = 0 ∧ bits n 24 10 = 0 ∧ fgathRead n = a := by
  obtain ⟨⟩ := a
  simp only [FieldsAt, fgathLayout, fgathRead, Nat.reduceAdd, Nat.reduceSub, FGathSlot.mk.injEq, bit_eq_iff, ofNat_bits_eq_iff]
  tauto

theorem encodeFeed_fblk (lc : Lc) (f : Feed) (a : FBlkSlot) : encodeFeed (.fblk lc f a) = some (lc, f, pack 0 (fblkLayout a)) := by
  simp only [encodeFeed, fblkLayout, pack, Option.some.injEq, Prod.mk.injEq, true_and]
  omega

theorem encodeFeed_fgath (lc : Lc) (f : Feed) (a : FGathSlot) : encodeFeed (.fgath lc f a) = some (lc, f, pack 0 (fgathLayout a)) := by
  simp only [encodeFeed, fgathLayout, pack, Option.some.injEq, Prod.mk.injEq, true_and]
  omega

theorem encodeFeed_eq_some {lc : Lc} {f : Feed} {n : Nat} {i : Instr} : encodeFeed i = some (lc, f, n) ↔
    (.fnop lc f = i ∧ n = 0) ∨ (∃ a, .fblk lc f a = i ∧ n = pack 0 (fblkLayout a)) ∨
      (∃ a, .fgath lc f a = i ∧ n = pack 0 (fgathLayout a)) ∨ (.fflush lc f = i ∧ n = 3) := by
  constructor
  · intro h
    have hEncode := h
    unfold encodeFeed at h
    split at h
    next => cases h; exact .inl ⟨rfl, rfl⟩
    next => rw [encodeFeed_fblk] at hEncode; cases hEncode; exact .inr (.inl ⟨_, rfl, rfl⟩)
    next => rw [encodeFeed_fgath] at hEncode; cases hEncode; exact .inr (.inr (.inl ⟨_, rfl, rfl⟩))
    next => cases h; exact .inr (.inr (.inr ⟨rfl, rfl⟩))
    next => cases h
  · rintro (⟨rfl, rfl⟩ | ⟨a, rfl, rfl⟩ | ⟨a, rfl, rfl⟩ | ⟨rfl, rfl⟩)
    · rfl
    · exact encodeFeed_fblk lc f a
    · exact encodeFeed_fgath lc f a
    · rfl

theorem decodeFeed_eq_some {lc : Lc} {f : Feed} {n : Nat} {i : Instr} : decodeFeed lc f n = some i ↔
    bits n 9 9 = 0 ∧ bits n 79 79 = 0 ∧ ((bits n 2 0 = 0 ∧ bits n 78 3 = 0 ∧ .fnop lc f = i) ∨
      (bits n 2 0 = 1 ∧ ∃ sfmt, bits n 6 4 = SFmt.code sfmt ∧ bits n 78 64 = 0 ∧ .fblk lc f (fblkRead n sfmt) = i) ∨
      (bits n 2 0 = 2 ∧ bits n 6 3 = 0 ∧ bits n 24 10 = 0 ∧ .fgath lc f (fgathRead n) = i) ∨
      (bits n 2 0 = 3 ∧ bits n 78 3 = 0 ∧ .fflush lc f = i)) := by
  rw [← bit_eq_false_iff, ← bit_eq_false_iff]
  unfold decodeFeed
  cases bit n 9 <;> cases bit n 79 <;> simp only [Bool.or_true, Bool.or_false, if_true, Bool.false_eq_true, if_false,
    reduceCtorEq, false_and, true_and]
  split
  next hOp => simp [hOp]
  next hOp => simp [hOp, sfmtOf_eq_some, Option.bind_eq_some_iff, fblkRead]
  next hOp => simp [hOp, fgathRead, and_assoc]
  next hOp => simp [hOp]
  next => simp_all

/-- FEED[79:0] decode to an operation exactly when they are its encoding. -/
theorem decodeFeed_iff_encodeFeed {lc : Lc} {f : Feed} {n : Nat} {i : Instr} (hn : n < 2 ^ 80) :
    decodeFeed lc f n = some i ↔ encodeFeed i = some (lc, f, n) := by
  have hEmpty {op : Nat} (hOp : op < 8) : n = op ↔ bits n 9 9 = 0 ∧ bits n 79 79 = 0 ∧ bits n 2 0 = op ∧ bits n 78 3 = 0 := by
    simp only [bits]
    omega
  rw [decodeFeed_eq_some, encodeFeed_eq_some, hEmpty (op := 0) (by decide), hEmpty (op := 3) (by decide)]
  simp only [eq_pack_iff hn (fits_fblkLayout _), eq_pack_iff hn (fits_fgathLayout _), fieldsAt_fblkLayout, fieldsAt_fgathLayout]
  constructor
  · rintro ⟨hLow, hTop, ⟨hOp, hRest, hEq⟩ | ⟨hOp, sfmt, hFmt, hRest, hEq⟩ | ⟨hOp, hSkip, hAddr, hEq⟩ | ⟨hOp, hRest, hEq⟩⟩
    · exact .inl ⟨hEq, hLow, hTop, hOp, hRest⟩
    · exact .inr (.inl ⟨_, hEq, hLow, hTop, hOp, hFmt, hRest, rfl⟩)
    · exact .inr (.inr (.inl ⟨_, hEq, hLow, hTop, hOp, hSkip, hAddr, rfl⟩))
    · exact .inr (.inr (.inr ⟨hEq, hLow, hTop, hOp, hRest⟩))
  · rintro (⟨hEq, hLow, hTop, hOp, hRest⟩ | ⟨a, hEq, hLow, hTop, hOp, hFmt, hRest, hRead⟩ |
      ⟨a, hEq, hLow, hTop, hOp, hSkip, hAddr, hRead⟩ | ⟨hEq, hLow, hTop, hOp, hRest⟩)
    · exact ⟨hLow, hTop, .inl ⟨hOp, hRest, hEq⟩⟩
    · exact ⟨hLow, hTop, .inr (.inl ⟨hOp, _, hFmt, hRest, hRead ▸ hEq⟩)⟩
    · exact ⟨hLow, hTop, .inr (.inr (.inl ⟨hOp, hSkip, hAddr, hRead ▸ hEq⟩))⟩
    · exact ⟨hLow, hTop, .inr (.inr (.inr ⟨hOp, hRest, hEq⟩))⟩

end Sys2Proof.Machine
end

section
/-! PROOFS. The words of the VECTOR and MOVE slots. -/

namespace Sys2Proof.Machine

/-! ## VECTOR (Tables 4.7 to 4.9) -/

/-- The fields of VECTOR[111:0]. -/
def vectorLayout (op : Nat) (a : VSlot) : List (Nat × Nat) :=
  [(5, op), (17, a.cnt.toNat), (23, a.vd.val), (29, a.va.val), (35, a.vb.val), (41, a.vc.val), (44, vsrcCode a.asrc),
    (47, vsrcCode a.bsrc), (48, b2n a.rel), (49, b2n a.rnd), (50, 0), (51, b2n a.sat), (54, a.fmt.val), (63, 0), (95, a.imm.toNat),
    (111, a.thr.toNat)]

/-- The fields of a VECTOR slot that a decoder reads from its bits. -/
def vectorRead (n : Nat) (asrc bsrc : VSrc) (fmt : Fin 6) : VSlot where
  cnt := BitVec.ofNat 12 (bits n 17 6)
  vd := Fin.ofNat 64 (bits n 23 18)
  va := Fin.ofNat 64 (bits n 29 24)
  vb := Fin.ofNat 64 (bits n 35 30)
  vc := Fin.ofNat 64 (bits n 41 36)
  asrc := asrc
  bsrc := bsrc
  rel := bit n 48
  rnd := bit n 49
  sat := bit n 51
  fmt := fmt
  imm := BitVec.ofNat 32 (bits n 95 64)
  thr := BitVec.ofNat 16 (bits n 111 96)

theorem pack_vectorLayout (op : Nat) (a : VSlot) : pack 0 (vectorLayout op a) = op + vectorFields a := by
  simp only [vectorLayout, pack, vectorFields]
  omega

theorem fits_vectorLayout {op : Nat} (hOp : op < 64) (a : VSlot) : Fits 111 0 (vectorLayout op a) := by
  have hA := vsrcCode_lt a.asrc
  have hB := vsrcCode_lt a.bsrc
  have hRel := b2n_lt a.rel
  have hRnd := b2n_lt a.rnd
  have hSat := b2n_lt a.sat
  simp only [vectorLayout, Fits, Nat.reduceAdd, Nat.reduceSub, Nat.reducePow, and_true]
  omega

theorem fieldsAt_vectorLayout {n op : Nat} {a : VSlot} : FieldsAt n 0 (vectorLayout op a) ↔
    bits n 63 55 = 0 ∧ bits n 5 0 = op ∧ bits n 44 42 = vsrcCode a.asrc ∧ bits n 47 45 = vsrcCode a.bsrc ∧ bits n 54 52 = a.fmt.val ∧
      bits n 50 50 = 0 ∧ vectorRead n a.asrc a.bsrc a.fmt = a := by
  obtain ⟨⟩ := a
  simp only [FieldsAt, vectorLayout, vectorRead, Nat.reduceAdd, Nat.reduceSub, Nat.reducePow, VSlot.mk.injEq, bit_eq_iff,
    ofNat_bits_eq_iff, finOfNat_bits_eq_iff]
  tauto

theorem vectorOp_range {lc : Lc} {op : Nat} {mk : VSlot → Instr} (h : vectorOp lc op = some mk) : op ≠ 0 ∧ op < 64 := by
  unfold vectorOp at h
  split at h <;> cases h
  all_goals decide

theorem vectorCode_eq_some {lc : Lc} {i : Instr} {op : Nat} {a : VSlot} :
    vectorCode i = some (lc, op, a) ↔ ∃ mk, vectorOp lc op = some mk ∧ mk a = i := by
  constructor
  · intro h
    unfold vectorCode at h
    split at h <;> cases h
    all_goals exact ⟨_, rfl, rfl⟩
  · rintro ⟨mk, h, rfl⟩
    unfold vectorOp at h
    split at h <;> cases h
    all_goals rfl

theorem encodeVector_eq_some {lc : Lc} {n : Nat} {i : Instr} : encodeVector i = some (lc, n) ↔
    (.vnop lc = i ∧ n = 0) ∨ ∃ op a mk, vectorOp lc op = some mk ∧ mk a = i ∧ n = pack 0 (vectorLayout op a) := by
  simp only [pack_vectorLayout]
  constructor
  · intro h
    unfold encodeVector at h
    split at h
    next => cases h; exact .inl ⟨rfl, rfl⟩
    next =>
      obtain ⟨⟨c, op, a⟩, hCode, hWord⟩ := Option.map_eq_some_iff.mp h
      cases hWord
      obtain ⟨mk, hOp, hMk⟩ := vectorCode_eq_some.mp hCode
      exact .inr ⟨op, a, mk, hOp, hMk, rfl⟩
  · rintro (⟨rfl, rfl⟩ | ⟨op, a, mk, hOp, hMk, rfl⟩)
    · rfl
    · have hCode := vectorCode_eq_some.mpr ⟨mk, hOp, hMk⟩
      unfold encodeVector
      split
      next => cases hCode
      next => rw [hCode]; rfl

theorem decodeVector_eq_some {lc : Lc} {n : Nat} {i : Instr} : decodeVector lc n = some i ↔
    bits n 63 55 = 0 ∧ ((bits n 5 0 = 0 ∧ bits n 111 6 = 0 ∧ .vnop lc = i) ∨
      (bits n 5 0 ≠ 0 ∧ ∃ mk, vectorOp lc (bits n 5 0) = some mk ∧ ∃ asrc, bits n 44 42 = vsrcCode asrc ∧
        ∃ bsrc, bits n 47 45 = vsrcCode bsrc ∧ ∃ fmt : Fin 6, bits n 54 52 = fmt.val ∧ bits n 50 50 = 0 ∧
          mk (vectorRead n asrc bsrc fmt) = i)) := by
  have hRnd : bits n 50 50 = 0 ↔ bits n 50 49 < 2 := by
    simp only [bits]
    omega
  unfold decodeVector
  by_cases hRsv : bits n 63 55 = 0 <;> by_cases hOp : bits n 5 0 = 0 <;>
    simp [hRsv, hOp, hRnd, vsrcOf_eq_some, fin?_eq_some, Option.bind_eq_some_iff, vectorRead]

/-- VECTOR[111:0] decode to an operation exactly when they are its encoding. -/
theorem decodeVector_iff_encodeVector {lc : Lc} {n : Nat} {i : Instr} (hn : n < 2 ^ 112) :
    decodeVector lc n = some i ↔ encodeVector i = some (lc, n) := by
  have hEmpty : n = 0 ↔ bits n 63 55 = 0 ∧ bits n 5 0 = 0 ∧ bits n 111 6 = 0 := by
    simp only [bits]
    omega
  have hWord {op : Nat} (hOp : op < 64) (a : VSlot) := (eq_pack_iff hn (fits_vectorLayout hOp a)).trans fieldsAt_vectorLayout
  rw [decodeVector_eq_some, encodeVector_eq_some, hEmpty]
  constructor
  · rintro ⟨hRsv, ⟨hOp, hRest, hEq⟩ | ⟨-, mk, hMk, asrc, hA, bsrc, hB, fmt, hFmt, hRnd, hEq⟩⟩
    · exact .inl ⟨hEq, hRsv, hOp, hRest⟩
    · exact .inr ⟨_, _, mk, hMk, hEq, (hWord (vectorOp_range hMk).2 _).mpr ⟨hRsv, rfl, hA, hB, hFmt, hRnd, rfl⟩⟩
  · rintro (⟨hEq, hRsv, hOp, hRest⟩ | ⟨op, a, mk, hMk, hEq, hPack⟩)
    · exact ⟨hRsv, .inl ⟨hOp, hRest, hEq⟩⟩
    · obtain ⟨hNe, hLt⟩ := vectorOp_range hMk
      obtain ⟨hRsv, rfl, hA, hB, hFmt, hRnd, hRead⟩ := (hWord hLt a).mp hPack
      exact ⟨hRsv, .inr ⟨hNe, mk, hMk, _, hA, _, hB, _, hFmt, hRnd, by rw [hRead, hEq]⟩⟩

/-! ## MOVE (Table 6.7) -/

/-- The fields of MOVE[111:0]. -/
def moveLayout (op : Nat) (a : MSlot) : List (Nat × Nat) :=
  [(3, op), (5, a.mover.val), (8, a.lsel.val), (9, b2n a.fence), (26, a.desc.toNat), (30, a.sspace.val), (34, a.dspace.val),
    (38, a.share.toNat), (44, a.cgate.val), (54, a.clc.val), (62, a.cinc.toNat), (111, 0)]

/-- The fields of a MOVE slot that a decoder reads from its bits. -/
def moveRead (n : Nat) (lsel sspace dspace : Fin 5) (clc : Lc) : MSlot where
  mover := Fin.ofNat 4 (bits n 5 4)
  lsel := lsel
  fence := bit n 9
  desc := BitVec.ofNat 17 (bits n 26 10)
  sspace := sspace
  dspace := dspace
  share := BitVec.ofNat 4 (bits n 38 35)
  cgate := Fin.ofNat 64 (bits n 44 39)
  clc := clc
  cinc := BitVec.ofNat 8 (bits n 62 55)

theorem pack_moveLayout (op : Nat) (a : MSlot) : pack 0 (moveLayout op a) = op + moveFields a := by
  simp only [moveLayout, pack, moveFields]
  omega

theorem fits_moveLayout {op : Nat} (hOp : op < 16) (a : MSlot) : Fits 111 0 (moveLayout op a) := by
  have hFence := b2n_lt a.fence
  simp only [moveLayout, Fits, Nat.reduceAdd, Nat.reduceSub, Nat.reducePow, and_true]
  omega

theorem fieldsAt_moveLayout {n op : Nat} {a : MSlot} : FieldsAt n 0 (moveLayout op a) ↔
    bits n 111 63 = 0 ∧ bits n 3 0 = op ∧ bits n 8 6 = a.lsel.val ∧ bits n 30 27 = a.sspace.val ∧ bits n 34 31 = a.dspace.val ∧
      bits n 54 45 = a.clc.val ∧ moveRead n a.lsel a.sspace a.dspace a.clc = a := by
  obtain ⟨⟩ := a
  simp only [FieldsAt, moveLayout, moveRead, Nat.reduceAdd, Nat.reduceSub, Nat.reducePow, MSlot.mk.injEq, bit_eq_iff,
    ofNat_bits_eq_iff, finOfNat_bits_eq_iff]
  tauto

/-- The transfer of an operation code (Table 6.7). -/
def moveOp (lc : Lc) (op : Nat) (a : MSlot) : Option Instr :=
  match op with
  | 1 => some (.mcopy lc a)
  | 2 => some (.mclear lc a)
  | _ => none

theorem moveOp_range {lc : Lc} {op : Nat} {a : MSlot} {i : Instr} (h : moveOp lc op a = some i) : op ≠ 0 ∧ op < 16 := by
  unfold moveOp at h
  split at h <;> cases h
  all_goals decide

theorem encodeMove_eq_some {lc : Lc} {n : Nat} {i : Instr} : encodeMove i = some (lc, n) ↔
    (.mnop lc = i ∧ n = 0) ∨ ∃ op a, moveOp lc op a = some i ∧ n = pack 0 (moveLayout op a) := by
  simp only [pack_moveLayout]
  constructor
  · intro h
    unfold encodeMove at h
    split at h <;> cases h
    · exact .inl ⟨rfl, rfl⟩
    · exact .inr ⟨_, _, rfl, rfl⟩
    · exact .inr ⟨_, _, rfl, rfl⟩
  · rintro (⟨rfl, rfl⟩ | ⟨op, a, hOp, rfl⟩)
    · rfl
    · unfold moveOp at hOp
      split at hOp <;> cases hOp
      all_goals rfl

theorem decodeMove_eq_some {lc : Lc} {n : Nat} {i : Instr} : decodeMove lc n = some i ↔
    bits n 111 63 = 0 ∧ ((bits n 3 0 = 0 ∧ bits n 62 4 = 0 ∧ .mnop lc = i) ∨
      (bits n 3 0 ≠ 0 ∧ ∃ lsel : Fin 5, bits n 8 6 = lsel.val ∧ ∃ ss : Fin 5, bits n 30 27 = ss.val ∧
        ∃ ds : Fin 5, bits n 34 31 = ds.val ∧ ∃ clc : Lc, bits n 54 45 = clc.val ∧
          moveOp lc (bits n 3 0) (moveRead n lsel ss ds clc) = some i)) := by
  unfold decodeMove
  by_cases hRsv : bits n 111 63 = 0 <;> by_cases hOp : bits n 3 0 = 0 <;>
    simp only [hRsv, hOp, fin?_eq_some, Option.bind_eq_some_iff, ne_eq, not_true_eq_false, not_false_eq_true, if_true, if_false,
      true_and, false_and, or_false, false_or, reduceCtorEq, Option.ite_none_right_eq_some, Option.some.injEq]
  all_goals rfl

/-- MOVE[111:0] decode to an operation exactly when they are its encoding. -/
theorem decodeMove_iff_encodeMove {lc : Lc} {n : Nat} {i : Instr} (hn : n < 2 ^ 112) :
    decodeMove lc n = some i ↔ encodeMove i = some (lc, n) := by
  have hEmpty : n = 0 ↔ bits n 111 63 = 0 ∧ bits n 3 0 = 0 ∧ bits n 62 4 = 0 := by
    simp only [bits]
    omega
  have hWord {op : Nat} (hOp : op < 16) (a : MSlot) := (eq_pack_iff hn (fits_moveLayout hOp a)).trans fieldsAt_moveLayout
  rw [decodeMove_eq_some, encodeMove_eq_some, hEmpty]
  constructor
  · rintro ⟨hRsv, ⟨hOp, hRest, hEq⟩ | ⟨-, lsel, hLsel, ss, hSs, ds, hDs, clc, hClc, hMk⟩⟩
    · exact .inl ⟨hEq, hRsv, hOp, hRest⟩
    · exact .inr ⟨_, _, hMk, (hWord (moveOp_range hMk).2 _).mpr ⟨hRsv, rfl, hLsel, hSs, hDs, hClc, rfl⟩⟩
  · rintro (⟨hEq, hRsv, hOp, hRest⟩ | ⟨op, a, hMk, hPack⟩)
    · exact ⟨hRsv, .inl ⟨hOp, hRest, hEq⟩⟩
    · obtain ⟨hNe, hLt⟩ := moveOp_range hMk
      obtain ⟨hRsv, rfl, hLsel, hSs, hDs, hClc, hRead⟩ := (hWord hLt a).mp hPack
      exact ⟨hRsv, .inr ⟨hNe, _, hLsel, _, hSs, _, hDs, _, hClc, by rw [hRead, hMk]⟩⟩

end Sys2Proof.Machine
end

section
/-! PROOFS. The words of the GATE slot, and the obligation on the slots of a bundle. -/

namespace Sys2Proof.Machine

/-! ## GATE (Tables 5.9, 5.10) -/

/-- The fields of a GATE slot beside its operation (Table 5.9). -/
structure GateSlot where
  /-- `GATE` -/
  gate : Fin 64
  /-- `N` -/
  count : BitVec 24
  /-- `LC` -/
  lc : Fin 1024
  /-- `LOOP` -/
  loop : Fin 4
  /-- `IMM` -/
  imm : Half
  /-- `TARGET` -/
  target : BitVec 13

/-- The operations of the GATE slot: code, fields and command; a field that an operation does not use is zero (Table 5.10). -/
inductive GateSpells (lc : Lc) : Nat → GateSlot → Instr → Prop
  | gnop : GateSpells lc 0x0 ⟨0, 0, 0, 0, 0, 0⟩ (.gnop lc)
  | gwait (g : Fin 64) (n : BitVec 24) : GateSpells lc 0x1 ⟨g, n, 0, 0, 0, 0⟩ (.gwait lc g n)
  | gpeek (g : Fin 64) (n : BitVec 24) : GateSpells lc 0x2 ⟨g, n, 0, 0, 0, 0⟩ (.gpeek lc g n)
  | ginc (g : Fin 64) (n : BitVec 24) : GateSpells lc 0x3 ⟨g, n, 0, 0, 0, 0⟩ (.ginc lc g n)
  | gsend (t : Fin 1024) (g : Fin 64) (n : BitVec 24) : GateSpells lc 0x4 ⟨g, n, t, 0, 0, 0⟩ (.gsend lc t g n)
  | gloop (depth : Fin 4) (iters : Half) (t : BitVec 13) : GateSpells lc 0x5 ⟨0, 0, 0, depth, iters, t⟩ (.gloop lc depth iters t)
  | gjump (seg : Byte) (t : BitVec 13) : GateSpells lc 0x6 ⟨0, 0, 0, 0, seg.setWidth 16, t⟩ (.gjump lc seg t)
  | gseg (seg : Byte) (frame : Fin 8) :
      GateSpells lc 0x7 ⟨0, 0, 0, 0, seg.setWidth 16, BitVec.ofNat 13 (frame.val * 2 ^ 10)⟩ (.gseg lc seg frame)
  | gphase (imm : Half) : GateSpells lc 0x8 ⟨0, 0, 0, 0, imm, 0⟩ (.gphase lc imm)
  | gpause (n : BitVec 24) : GateSpells lc 0x9 ⟨0, n, 0, 0, 0, 0⟩ (.gpause lc n)
  | gend : GateSpells lc 0xA ⟨0, 0, 0, 0, 0, 0⟩ (.gend lc)

/-- The fields of GATE[79:0]. -/
def gateLayout (op : Nat) (a : GateSlot) : List (Nat × Nat) :=
  [(3, op), (9, a.gate.val), (33, a.count.toNat), (43, a.lc.val), (45, a.loop.val), (47, 0), (63, a.imm.toNat),
    (76, a.target.toNat), (79, 0)]

/-- The fields of a GATE slot that a decoder reads from its bits. -/
def gateRead (n : Nat) : GateSlot where
  gate := Fin.ofNat 64 (bits n 9 4)
  count := BitVec.ofNat 24 (bits n 33 10)
  lc := Fin.ofNat 1024 (bits n 43 34)
  loop := Fin.ofNat 4 (bits n 45 44)
  imm := BitVec.ofNat 16 (bits n 63 48)
  target := BitVec.ofNat 13 (bits n 76 64)

theorem fits_gateLayout {op : Nat} (hOp : op < 16) (a : GateSlot) : Fits 79 0 (gateLayout op a) := by
  simp only [gateLayout, Fits, Nat.reduceAdd, Nat.reduceSub, Nat.reducePow, and_true]
  omega

theorem fieldsAt_gateLayout {n op : Nat} {a : GateSlot} : FieldsAt n 0 (gateLayout op a) ↔
    bits n 3 0 = op ∧ bits n 47 46 = 0 ∧ bits n 79 77 = 0 ∧ gateRead n = a := by
  obtain ⟨⟩ := a
  simp only [FieldsAt, gateLayout, gateRead, Nat.reduceAdd, Nat.reduceSub, Nat.reducePow, GateSlot.mk.injEq, ofNat_bits_eq_iff,
    finOfNat_bits_eq_iff]
  tauto

theorem GateSpells.range {lc : Lc} {op : Nat} {a : GateSlot} {i : Instr} (h : GateSpells lc op a i) : op < 16 := by
  cases h <;> decide

theorem encodeGate_eq_some {lc : Lc} {n : Nat} {i : Instr} :
    encodeGate i = some (lc, n) ↔ ∃ op a, GateSpells lc op a i ∧ n = pack 0 (gateLayout op a) := by
  constructor
  · intro h
    unfold encodeGate at h
    split at h <;> cases h
    all_goals
      refine ⟨_, _, by constructor, ?_⟩
      simp [gateLayout, pack]
    all_goals omega
  · rintro ⟨op, a, h, rfl⟩
    cases h <;> simp [encodeGate, gateLayout, pack]
    all_goals omega

theorem gateRead_eq_iff {n : Nat} {g : Fin 64} {c : BitVec 24} {l : Fin 1024} {o : Fin 4} {i : Half} {t : BitVec 13} :
    gateRead n = ⟨g, c, l, o, i, t⟩ ↔ bits n 9 4 = g.val ∧ bits n 33 10 = c.toNat ∧ bits n 43 34 = l.val ∧ bits n 45 44 = o.val ∧
      bits n 63 48 = i.toNat ∧ bits n 76 64 = t.toNat := by
  simp only [gateRead, GateSlot.mk.injEq, Nat.reduceAdd, Nat.reduceSub, Nat.reducePow, ofNat_bits_eq_iff, finOfNat_bits_eq_iff]

theorem gateZero_iff {n : Nat} {g c l o i t : Bool} : gateZero n g c l o i t = true ↔ (g = true → bits n 9 4 = 0) ∧
    (c = true → bits n 33 10 = 0) ∧ (l = true → bits n 43 34 = 0) ∧ (o = true → bits n 45 44 = 0) ∧ (i = true → bits n 63 48 = 0) ∧
      (t = true → bits n 76 64 = 0) := by
  simp only [gateZero, Bool.and_eq_true, Bool.or_eq_true, Bool.not_eq_true', decide_eq_true_eq, and_assoc, imp_iff_not_or,
    Bool.not_eq_true]

/-! `IMM`[15:8], `TARGET`[9:0] and `TARGET`[12:10] as parts of their fields (R141). -/

theorem bits_imm_high (n : Nat) : bits n 63 56 = bits n 63 48 / 2 ^ 8 := by
  simp only [bits]
  omega

theorem bits_target_low (n : Nat) : bits n 73 64 = bits n 76 64 % 2 ^ 10 := by
  simp only [bits]
  omega

theorem bits_target_high (n : Nat) : bits n 76 74 = bits n 76 64 / 2 ^ 10 := by
  simp only [bits]
  omega

theorem gateSpells_gateRead {lc : Lc} {n op : Nat} {g : Fin 64} {c : BitVec 24} {l : Fin 1024} {o : Fin 4} {i : Half} {t : BitVec 13}
    {cmd : Instr} (h : GateSpells lc op ⟨g, c, l, o, i, t⟩ cmd) (hRead : bits n 9 4 = g.val ∧ bits n 33 10 = c.toNat ∧
      bits n 43 34 = l.val ∧ bits n 45 44 = o.val ∧ bits n 63 48 = i.toNat ∧ bits n 76 64 = t.toNat) :
    GateSpells lc op (gateRead n) cmd := gateRead_eq_iff.mpr hRead ▸ h

theorem gateSpells_of_decodeGate {lc : Lc} {n : Nat} {i : Instr} (h : decodeGate lc n = some i) (hStruct : gateStruct n = true) :
    bits n 47 46 = 0 ∧ bits n 79 77 = 0 ∧ GateSpells lc (bits n 3 0) (gateRead n) i := by
  unfold decodeGate at h
  split at h
  next => cases h
  next hRsv =>
    obtain ⟨hMid, hTop⟩ : bits n 47 46 = 0 ∧ bits n 79 77 = 0 := by simpa using hRsv
    refine ⟨hMid, hTop, ?_⟩
    have hGate := bits_lt n 9 4
    have hCount := bits_lt n 33 10
    have hLc := bits_lt n 43 34
    have hLoop := bits_lt n 45 44
    have hImm := bits_lt n 63 48
    have hTarget := bits_lt n 76 64
    split at h
    case h_12 => cases h
    all_goals
      next hOp =>
        split at h
        next hZero =>
          cases h
          rw [gateZero_iff] at hZero
          simp only [gateStruct, hOp, decide_eq_true_eq, Bool.and_eq_true, bits_imm_high, bits_target_low] at hStruct
          rw [hOp]
          refine gateSpells_gateRead (by constructor) ?_
          simp only [Fin.val_ofNat, Fin.coe_ofNat_eq_mod, BitVec.ofNat_eq_ofNat, BitVec.toNat_setWidth,
            BitVec.toNat_ofNat, Nat.zero_mod, Nat.reduceAdd, Nat.reduceSub, Nat.reducePow, forall_const, Bool.false_eq_true,
            IsEmpty.forall_iff, true_and, and_true, bits_target_high] at hZero hGate hCount hLc hLoop hImm hTarget ⊢
          omega
        next => cases h

theorem decodeGate_of_gateSpells {lc : Lc} {n op : Nat} {a : GateSlot} {i : Instr} (h : GateSpells lc op a i) (hOp : bits n 3 0 = op)
    (hRead : gateRead n = a) (hMid : bits n 47 46 = 0) (hTop : bits n 79 77 = 0) :
    decodeGate lc n = some i ∧ gateStruct n = true := by
  cases h <;> obtain ⟨hGate, hCount, hLc, hLoop, hImm, hTarget⟩ := gateRead_eq_iff.mp hRead <;>
    simp [decodeGate, gateStruct, gateZero_iff, hOp, hMid, hTop, hGate, hCount, hLc, hLoop, hImm, hTarget, bits_imm_high,
      bits_target_low, bits_target_high]
  case gjump seg t =>
    have hSeg := seg.isLt
    rw [Nat.mod_eq_of_lt (by omega), BitVec.ofNat_toNat, BitVec.setWidth_eq]
    exact ⟨rfl, hSeg⟩
  case gseg seg frame =>
    have hSeg := seg.isLt
    have hFrame : frame.val * 1024 % 8192 / 1024 = frame.val := by omega
    rw [Nat.mod_eq_of_lt (by omega), BitVec.ofNat_toNat, BitVec.setWidth_eq, hFrame]
    exact ⟨⟨rfl, Fin.cast_val_eq_self frame⟩, hSeg⟩

theorem decodeGate_iff_encodeGate {lc : Lc} {n : Nat} {i : Instr} (hn : n < 2 ^ 80) :
    decodeGate lc n = some i ∧ gateStruct n = true ↔ encodeGate i = some (lc, n) := by
  rw [encodeGate_eq_some]
  constructor
  · rintro ⟨hDecode, hStruct⟩
    obtain ⟨hMid, hTop, hSpells⟩ := gateSpells_of_decodeGate hDecode hStruct
    exact ⟨_, _, hSpells, (eq_pack_iff hn (fits_gateLayout hSpells.range _)).mpr (fieldsAt_gateLayout.mpr ⟨rfl, hMid, hTop, rfl⟩)⟩
  · rintro ⟨op, a, hSpells, hWord⟩
    rw [eq_pack_iff hn (fits_gateLayout hSpells.range a), fieldsAt_gateLayout] at hWord
    obtain ⟨hOp, hMid, hTop, hRead⟩ := hWord
    exact decodeGate_of_gateSpells hSpells hOp hRead hMid hTop

/-- Settles O57: in each slot, what the decoder asks of the bits and what the encoder puts there are the same fields, by `eq_pack_iff`. -/
theorem bundleSlotsRoundTrip : Obligations.BundleSlotsRoundTrip :=
  ⟨fun _ _ _ hn => decodeArray_iff_encode hn, fun _ _ _ _ hn => decodeFeed_iff_encodeFeed hn,
    fun _ _ _ hn => decodeVector_iff_encodeVector hn, fun _ _ _ hn => decodeMove_iff_encodeMove hn,
    fun _ _ _ hn => decodeGate_iff_encodeGate hn⟩

end Sys2Proof.Machine
end

section
/-! PROOFS. What the part starts from, and the registers and locks. -/

namespace Sys2Proof.Machine

/-! ## The part at reset -/

@[simp] theorem core_reset (lc : Nat) : State.reset.core lc = Core.init := rfl

@[simp] theorem stack_reset (k : Nat) : State.reset.stack k = Stack.init := rfl

/-- Settles O2: every table of the part at reset is empty, so each unit reads as its initial value. -/
theorem resetLeaves : Obligations.ResetLeaves := by
  refine ⟨rfl, rfl, rfl, rfl, rfl, fun lc => ?_, fun k r => ?_, fun da => rfl⟩
  · rw [core_reset]
    exact ⟨rfl, rfl, fun _ _ => rfl, fun _ => rfl, fun _ => rfl, rfl⟩
  · rw [State.region, stack_reset]
    rfl

/-! ## Registers and locks -/

/-- Without `EXPERT_EN` a write of `ARR_CTRL` changes nothing (R99). -/
theorem writeCore_arrCtrl_of_not_expert (s : State) (lc : Nat) (v : Word) : (writeCore s false lc 0x100 v).1 = s := by
  cases h : s.coreGated lc <;> simp [writeCore, h]

theorem registerWrite_arrCtrl_of_not_expert {s : State} (h : s.hif.expertEn = false) (lc : Lc) (v : Word) :
    exec (.registerWrite (.core lc 0x40) v) s = .next s := by
  have hWrite : exec (.registerWrite (.core lc 0x40) v) s =
      if s.torzanUp && s.unitPresent 8 lc then .next (writeCore s s.hif.expertEn lc 0x100 v).1 else .next s := rfl
  rw [hWrite, h, writeCore_arrCtrl_of_not_expert, ite_self]

/-- The part with its bring-up over, every logical core of cluster 0 on a powered site, and `EXPERT_EN` clear, as at reset. -/
def expertDisabled : State :=
  { State.reset with
    boot := { Boot.init with ready := true, kiosk := true }
    sites := (List.range 20).map (fun i => (i, { SiteRec.init with state := 1, lcol := BitVec.ofNat 5 i }))
    pwr := { Power.init with sites := (List.range 20).map (fun i => (i, { SitePower.init with dom := .on })) } }

/-- Refutes O46: core 0 is powered, but with `EXPERT_EN` clear its `FORCE_RAMP` ignores the 1 that is written to it (R99). -/
theorem not_registersAndLocks : ¬ Obligations.RegistersAndLocks := by
  intro h
  obtain ⟨-, -, hArrCtrl, -⟩ := h expertDisabled 2 0
  obtain ⟨t, hExec, -, hCore, -⟩ := hArrCtrl (by decide) (by decide) (by decide)
  rw [registerWrite_arrCtrl_of_not_expert rfl] at hExec
  cases hExec
  exact absurd hCore (by decide)

end Sys2Proof.Machine
end

section
/-! PROOFS. `ACLR`, the activity level, the states of tile-queue slots, and slots without an operation. -/

namespace Sys2Proof.Machine

/-! ## One core changes -/

theorem onlyCore_refl (s : State) (lc : Nat) : OnlyCore s s lc := ⟨rfl, fun _ _ => rfl⟩

theorem onlyCore_modCore (s : State) (lc : Nat) (f : Core → Core) : OnlyCore s (s.modCore lc f) lc :=
  ⟨rfl, fun _ hk => State.core_modCore_other s f hk⟩

/-- A slot operation that waits for nothing takes effect on a free slot. -/
theorem slotIssue_of_slotFree {i : Instr} {lc : Nat} {s : State} {n : Core → Core} {act : State} (h : SlotFree s lc) :
    slotIssue i lc s false n act = .next act := by
  obtain ⟨hDead, hBlocked, -⟩ := h
  exact slotIssue_act hDead hBlocked

/-! ## Empty slots (R80, R104, R120, R176) -/

theorem emptySlotsDoNothing : EmptySlotsDoNothing := fun _ _ _ h =>
  ⟨slotIssue_of_slotFree h, slotIssue_of_slotFree h, slotIssue_of_slotFree h, slotIssue_of_slotFree h⟩

/-! ## `ACLR` (R82) -/

theorem clearTile_elem (c : Core) (tile : Nat) {i : Nat} (h : i < 1024) : (c.clearTile tile).tileElem tile i = 0 := by
  unfold Core.tileElem Core.clearTile
  rw [Tbl.get_clearRange, if_pos (by omega)]

theorem clearTile_other (c : Core) (tile : Nat) {j : Nat} (h : j < tile * 1024 ∨ tile * 1024 + 1024 ≤ j) :
    Tbl.get 0 (c.clearTile tile).arr.tiles j = Tbl.get 0 c.arr.tiles j := by
  unfold Core.clearTile
  rw [Tbl.get_clearRange, if_neg (by omega)]
  rfl

theorem exec_aclr_of_slotFree {s : State} {lc : Lc} {tile : Fin 4} (h : SlotFree s lc) (hBusy : (s.core lc).tileBusy tile = false) :
    exec (.aclr lc tile) s = .next (s.modCore lc (fun c => c.clearTile tile)) :=
  (slotIssue_of_slotFree h).trans (by rw [hBusy]; rfl)

theorem aclrClearsTile : AclrClearsTile := by
  intro s lc tile hFree hBusy
  refine ⟨_, exec_aclr_of_slotFree hFree hBusy, onlyCore_modCore s lc _, ?_⟩
  rw [State.core_modCore_same]
  exact ⟨fun i hi => clearTile_elem _ _ hi, fun j hj => clearTile_other _ _ hj, rfl⟩

/-! ## The activity level (R95) -/

theorem aramp_startsRise {c : Core} (hRamp : c.arr.ramp = true) (hLevel : c.arr.level < 8) :
    ∃ n, c.aramp = { c with arr := { c.arr with rising := true, riseCyc := n } } ∧ (c.arr.rising = false → n = 0) := by
  have hRise : c.aramp = c.startRise := by simp [Core.aramp, hRamp, hLevel]
  rw [hRise, Core.startRise]
  split
  next hRising => exact ⟨c.arr.riseCyc, by rw [← hRising], fun h => by rw [h] at hRising; cases hRising⟩
  next => exact ⟨0, rfl, fun _ => rfl⟩

theorem aramp_atOnce {c : Core} (h : ¬ (c.arr.ramp = true ∧ c.arr.level < 8)) :
    c.aramp = { c with arr := { c.arr with level := 8, quiet := 0, rising := false, fresh := true } } := by
  rw [Core.aramp, if_neg (by simpa using h)]

/-- With one more non-active cycle the level of Table 3.5 falls by at most one. -/
theorem levelAfter_pred_le (n linger : Nat) : levelAfter (n - 1) linger ≤ levelAfter n linger + 1 := by
  unfold levelAfter
  split <;> split <;> omega

theorem exec_aramp_of_slotFree {s : State} {lc : Lc} (h : SlotFree s lc) : exec (.aramp lc) s = .next (s.modCore lc Core.aramp) :=
  slotIssue_of_slotFree h

theorem exec_activityLevelRise_of_due {s : State} {lc : Lc} (h : (s.core lc).riseDue = true) :
    exec (.activityLevelRise lc) s = .next (s.modCore lc (fun c => { c with arr := { c.arr with
      level := min 8 (c.arr.level + 1), rising := c.arr.level + 1 < 8, riseCyc := c.arr.riseCyc - 6, quiet := 0 } })) := if_pos h

theorem exec_activityLevelFall_of_due {s : State} {lc : Lc} (h : (s.core lc).fallDue = true) :
    exec (.activityLevelFall lc) s = .next (s.modCore lc (fun c =>
      { c with arr := { c.arr with level := c.arr.level - 1, fall := false } })) :=
  if_pos h

theorem levelFollowsTable35 : LevelFollowsTable35 := by
  intro s lc
  refine ⟨fun hFree => ?_, fun hRising hCyc hLevel => ?_, fun hRising hPaused hLevel hFall => ?_⟩
  · refine ⟨_, exec_aramp_of_slotFree hFree, onlyCore_modCore s lc _, ?_⟩
    rw [State.core_modCore_same]
    split
    next h =>
      obtain ⟨n, hCore, hStart⟩ := aramp_startsRise h.1 h.2
      rw [hCore]
      exact ⟨rfl, rfl, hStart⟩
    next h =>
      rw [aramp_atOnce h]
      exact ⟨rfl, rfl⟩
  · refine ⟨_, exec_activityLevelRise_of_due (by simp [Core.riseDue, hRising, hCyc]), onlyCore_modCore s lc _, ?_⟩
    rw [State.core_modCore_same]
    have hMin : min 8 ((s.core lc).arr.level + 1) = (s.core lc).arr.level + 1 := by omega
    have hEnd : decide ((s.core lc).arr.level + 1 < 8) = false ↔ (s.core lc).arr.level + 1 = 8 := by
      rw [decide_eq_false_iff_not]
      omega
    exact ⟨rfl, hMin, by rwa [hMin], rfl⟩
  · have hPos : 0 < (s.core lc).arr.level := Nat.zero_lt_of_lt hFall
    refine ⟨_, exec_activityLevelFall_of_due (by simp [Core.fallDue, hRising, hPaused, hPos, hFall]), onlyCore_modCore s lc _, ?_⟩
    rw [State.core_modCore_same]
    have hStep := levelAfter_pred_le (s.core lc).arr.quiet (s.core lc).linger
    exact ⟨rfl, show (s.core lc).arr.level - 1 = _ by omega⟩

/-! ## Tile-queue slots (R115, R117, Table 4.6) -/

/-- An event that takes slot `k` from one state to another changes the state of that slot alone, and nothing in any other state. -/
theorem slotMove_does (s : State) (lc k : Nat) (a b : SlotState) :
    ∃ t, (if (s.core lc).slot k = a then
          .next (s.modCore lc (fun c => { c with fv := { c.fv with slots := Tbl.set .free c.fv.slots k b } }))
        else .next s : Out) = .next t ∧ OnlyCore s t lc ∧
      (t.core lc).slot k = (if (s.core lc).slot k = a then b else (s.core lc).slot k) ∧
      (∀ j, j ≠ k → (t.core lc).slot j = (s.core lc).slot j) ∧
      t.core lc = { s.core lc with fv := { (s.core lc).fv with slots := (t.core lc).fv.slots } } := by
  split
  · refine ⟨_, rfl, onlyCore_modCore s lc _, ?_⟩
    rw [State.core_modCore_same]
    exact ⟨Tbl.get_set_same .., fun j hj => Tbl.get_set_other _ _ _ hj, rfl⟩
  · exact ⟨s, rfl, onlyCore_refl s lc, rfl, fun _ _ => rfl, rfl⟩

theorem slotStatesMove : SlotStatesMove := fun s lc k => ⟨slotMove_does s lc k .filling .full, slotMove_does s lc k .draining .free⟩

/-- Settles O5: each command's effect is one change of its core, and what it leaves alone is the rest of that change. -/
theorem arrayStateMoves : Obligations.ArrayStateMoves :=
  ⟨aclrClearsTile, levelFollowsTable35, slotStatesMove, emptySlotsDoNothing⟩

end Sys2Proof.Machine
end

section
/-! PROOFS. `MAC` and `MACZ`: effect, waits and the format hazard. -/

namespace Sys2Proof.Machine

/-! ## Group sums (R57, R75, R76) -/

theorem flatMap_map_eq_map_range {α β γ : Type} (f : α → β → γ) (x : α) (y : β) (ys : List β) (hys : 0 < ys.length) (xs : List α) :
    xs.flatMap (fun a => ys.map (f a)) =
      (List.range (xs.length * ys.length)).map (fun i => f (xs.getD (i / ys.length) x) (ys.getD (i % ys.length) y)) := by
  induction xs with
  | nil => simp
  | cons a xs ih =>
    rw [List.flatMap_cons, ih, List.length_cons, Nat.succ_mul, Nat.add_comm, List.range_add, List.map_append, List.map_map]
    congr 1
    · refine List.ext_getElem (by simp) fun i hi _ => ?_
      have hLt : i < ys.length := by simpa using hi
      simp [Nat.div_eq_of_lt hLt, Nat.mod_eq_of_lt hLt, hLt]
    · refine List.map_congr_left fun i _ => ?_
      simp [Nat.add_div_left _ hys]

theorem chunks_length {α : Type} (n rows : Nat) (l : List α) : (chunks n rows l).length = rows := by simp [chunks]

theorem aRows_length (b : Block) : b.aRows.length = 32 := by
  unfold Block.aRows
  split <;> rw [List.length_map, chunks_length]

theorem bCols_length (b : Block) : b.bCols.length = 32 := by
  unfold Block.bCols
  split <;> rw [List.length_map, chunks_length]

/-- The group sums of a tile, element by element. -/
theorem groupSums_eq (fp32 : Bool) (a b : Block) : groupSums fp32 a b = (List.range 1024).map (cellSum fp32 a b) := by
  rw [groupSums, flatMap_map_eq_map_range _ [] [] _ (by rw [bCols_length]; decide), aRows_length, bCols_length]
  rfl

/-! ## What reaches the tile (R60, R82) -/

/-- Element `i` of a tile after group sums reach it: added for `MAC`, written for `MACZ`. -/
def sumInto (acc : Bool) (c : Core) (tile : Nat) (f : Nat → Word × Flags × Bool) (i : Nat) : Word × Flags × Bool :=
  if acc then accAdd (c.tileElem tile i) (f i).1 else ((f i).1, 0, false)

theorem results_eq (c : Core) (acc : Bool) (tile n : Nat) (f : Nat → Word × Flags × Bool) :
    (if acc then accumulate c tile ((List.range n).map f) else ((List.range n).map f).map (fun x => (x.1, 0, false))) =
      (List.range n).map (sumInto acc c tile f) := by
  cases acc
  · rw [if_neg Bool.false_ne_true, List.map_map]
    rfl
  · rw [if_pos rfl, accumulate, zipIdx_map_range, List.map_map]
    rfl

theorem applySums_eq {c : Core} {acc : Bool} {tile : Nat} {sums res : List (Word × Flags × Bool)}
    (hRes : (if acc then accumulate c tile sums else sums.map (fun x => (x.1, 0, false))) = res) :
    c.applySums acc tile sums = { c with
      arr := { c.arr with tiles := Tbl.setMany 0 c.arr.tiles (tile * 1024) (res.map (·.1)) }
      num := { c.num with
        flags := c.num.flags ||| (orFlags (sums.map (·.2.1)) ||| orFlags (res.map (·.2.1)))
        flushCount := satAdd c.num.flushCount (countFlush sums + countFlush res) } } := by
  subst hRes
  rfl

/-- Group sums change the words of their tile, the sticky flags, which only grow, and the count of flushes. -/
theorem applySums_does (c : Core) (acc : Bool) (tile : Nat) (f : Nat → Word × Flags × Bool) :
    ∃ tiles fl n, c.applySums acc tile ((List.range 1024).map f) = { c with
        arr := { c.arr with tiles := tiles }, num := { c.num with flags := c.num.flags ||| fl, flushCount := n } } ∧
      (∀ i, i < 1024 → Tbl.get 0 tiles (tile * 1024 + i) = (sumInto acc c tile f i).1) ∧
      ∀ j, j < tile * 1024 ∨ tile * 1024 + 1024 ≤ j → Tbl.get 0 tiles j = Tbl.get 0 c.arr.tiles j := by
  refine ⟨_, _, _, applySums_eq (results_eq c acc tile 1024 f), fun i hi => ?_, fun j hj => ?_⟩
  · rw [Tbl.get_setMany, dif_pos (by simp; omega)]
    simp
  · rw [Tbl.get_setMany, dif_neg (by simp; omega)]

/-- A pop takes the head block from its feeder. -/
theorem popFeed_eq (c : Core) (f : Feed) (pop : Bool) :
    c.popFeed f pop = c.setFeeder f { c.feeder f with held := if pop then (c.feeder f).held.tail else (c.feeder f).held } := by
  cases pop
  · cases f <;> rfl
  · rfl

/-! ## Effect (R82, R83) -/

/-- The core that a `MAC` or `MACZ` leaves (R82, R83, R93). -/
def macCore (acc : Bool) (tile : Nat) (fp32 popa popb : Bool) (a b : Block) (c : Core) : Core :=
  let d := (((if acc then c else c.dropLoad tile).applySums acc tile (groupSums fp32 a b)).popFeed .a popa).popFeed .b popb
  { d with arr := { d.arr with opTile := some tile, active := true, level := 8, rising := false, riseCyc := 0 } }

theorem macAct_eq (s : State) (lc : Nat) (acc : Bool) (tile : Nat) (fp32 popa popb : Bool) (a b : Block) :
    macAct s lc acc tile fp32 popa popb a b = s.modCore lc (macCore acc tile fp32 popa popb a b) := rfl

/-- Only a `MACZ` ends what a load still takes from its pair (R92). -/
theorem dropLoad_unless (c : Core) (acc : Bool) (tile : Nat) : (if acc then c else c.dropLoad tile) =
    { c with arr := { c.arr with load := if acc then c.arr.load else c.arr.load.filter (fun l => l.tile ≠ tile) } } := by
  cases acc <;> rfl

theorem macCore_does (acc : Bool) (tile : Nat) (popa popb : Bool) (a b : Block) (c : Core) :
    MacDoes acc tile popa popb a b c (macCore acc tile a.fp32 popa popb a b c) := by
  unfold macCore
  rw [groupSums_eq, dropLoad_unless]
  obtain ⟨tiles, fl, n, hSums, hElem, hOther⟩ := applySums_does { c with arr := { c.arr with
    load := if acc then c.arr.load else c.arr.load.filter (fun l => l.tile ≠ tile) } } acc tile (cellSum a.fp32 a b)
  rw [hSums, popFeed_eq, popFeed_eq]
  refine ⟨fun i hi => (hElem i hi).trans ?_, hOther, rfl, rfl, rfl, rfl, ?_, rfl, rfl, rfl⟩
  · unfold sumInto
    split <;> rfl
  · change (c.num.flags ||| fl) ||| c.num.flags = c.num.flags ||| fl
    rw [BitVec.or_comm, ← BitVec.or_assoc, BitVec.or_self]

/-! ## The issue of `MAC` and `MACZ` (R89 to R91) -/

theorem exec_mac (lc : Lc) (tile : Fin 4) (fp32 popa popb : Bool) (s : State) : exec (.mac lc tile fp32 popa popb) s =
    macIssue (.mac lc tile fp32 popa popb) lc true tile fp32 popa popb s := rfl

theorem exec_macz (lc : Lc) (tile : Fin 4) (fp32 popa popb : Bool) (s : State) : exec (.macz lc tile fp32 popa popb) s =
    macIssue (.macz lc tile fp32 popa popb) lc false tile fp32 popa popb s := rfl

section MacIssue

variable {s : State} {lc tile : Nat} {a b : Block} (hFree : SlotFree s lc)

include hFree

/-- A `MAC` that waits for no block, no ramp and no transfer of its tile takes effect or meets the format hazard. -/
theorem macIssue_of_ready (hRamp : (s.core lc).rampWait = false) (hA : (s.core lc).head .a = some a) (hB : (s.core lc).head .b = some b)
    (hBusy : (s.core lc).tileBusy tile = false) (i : Instr) (acc fp32 popa popb : Bool) :
    macIssue i lc acc tile fp32 popa popb s = .next (if a.fp32 ≠ fp32 ∨ b.fp32 ≠ fp32 then arrayHazard s lc 3 tile
      else s.modCore lc (macCore acc tile fp32 popa popb a b)) := by
  unfold macIssue
  simp only [hA, hB, hRamp, hBusy, slotIssue_of_slotFree hFree, Bool.false_eq_true, if_false, Bool.or_eq_true, decide_eq_true_eq, macAct_eq]

theorem macIssue_of_wait (hWait : (s.core lc).head .a = none ∨ (s.core lc).head .b = none ∨ (s.core lc).rampWait = true) (i : Instr)
    (acc fp32 popa popb : Bool) : macIssue i lc acc tile fp32 popa popb s = .next ((s.modCore lc Core.macWait).hold i) := by
  obtain ⟨hDead, hBlocked, -⟩ := hFree
  unfold macIssue
  dsimp only
  split
  next hA hB =>
    have hRamp : (s.core lc).rampWait = true := by simpa [hA, hB] using hWait
    rw [hRamp]
    exact slotIssue_wait hDead hBlocked
  next => exact slotIssue_wait hDead hBlocked

end MacIssue

theorem macUpdatesTile : MacUpdatesTile := by
  intro s lc tile popa popb a b hFree hRamp hA hB hTags hBusy
  have hTag : ¬ (a.fp32 ≠ a.fp32 ∨ b.fp32 ≠ a.fp32) := by simp [hTags]
  have hDoes (acc : Bool) (i : Instr) : ∃ t, macIssue i lc acc tile a.fp32 popa popb s = .next t ∧ OnlyCore s t lc ∧
      MacDoes acc tile popa popb a b (s.core lc) (t.core lc) := by
    rw [macIssue_of_ready hFree hRamp hA hB hBusy, if_neg hTag]
    refine ⟨_, rfl, onlyCore_modCore s lc _, ?_⟩
    rw [State.core_modCore_same]
    exact macCore_does ..
  exact ⟨hDoes true _, hDoes false _⟩

/-- A waiting cycle counts in `ARR_RWAIT` or `ARR_CWAIT`, and starts a rise where it waits for the ramp (R96, R99). -/
theorem macWait_eq (c : Core) : ∃ rising riseCyc rwait cwait, c.macWait =
    { c with arr := { c.arr with rising := rising, riseCyc := riseCyc, rwait := rwait, cwait := cwait } } := by
  unfold Core.macWait Core.startRise
  split
  · split
    · exact ⟨c.arr.rising, c.arr.riseCyc, _, c.arr.cwait, rfl⟩
    · exact ⟨_, _, _, c.arr.cwait, rfl⟩
  · exact ⟨c.arr.rising, c.arr.riseCyc, c.arr.rwait, _, rfl⟩

theorem macWaits : MacWaits := by
  intro s lc tile fp32 popa popb hFree hWait i hi
  have hWaits : (s.core lc).head .a = none ∨ (s.core lc).head .b = none ∨ (s.core lc).rampWait = true := by
    simpa [Core.rampWait] using hWait
  have hExec : exec i s = .next ((s.modCore lc Core.macWait).hold i) := by
    rcases hi with rfl | rfl
    · exact macIssue_of_wait hFree hWaits ..
    · exact macIssue_of_wait hFree hWaits ..
  refine ⟨_, hExec, rfl, fun k hk => State.core_modCore_other s _ hk, ?_⟩
  rw [State.core_hold, State.core_modCore_same]
  obtain ⟨_, _, _, _, hCore⟩ := macWait_eq (s.core lc)
  rw [hCore]
  exact ⟨rfl, rfl, rfl, rfl, rfl⟩

@[simp] theorem core_broadcast (s : State) (lc : Nat) : (broadcast s).core lc = s.core lc := rfl

@[simp] theorem core_modJob (s : State) (n : Nat) (f : Job → Job) (lc : Nat) : (s.modJob n f).core lc = s.core lc := rfl

/-- A hazard in a running job stops its core and records what faulted (R153). -/
theorem core_faultCore_of_running {s : State} {lc : Nat} {j : Job} (hJob : s.jobOf lc = some j) (hPhase : j.phase = .running)
    (source code bundle : Nat) (aux : Word) :
    (faultCore s lc source code bundle aux).core lc = (s.core lc).stop (contractFault source true code bundle) aux := by
  unfold faultCore
  simp only [hJob, hPhase, core_broadcast, core_modJob, State.core_modCore_same]

/-- A hazard of Table 3.4 is recorded in `ARRAY_FAULT` as well (R91). -/
theorem core_arrayHazard_of_running {s : State} {lc : Nat} {j : Job} (hJob : s.jobOf lc = some j) (hPhase : j.phase = .running)
    (code tile : Nat) : (arrayHazard s lc code tile).core lc =
      { s.core lc with arr := { (s.core lc).arr with fault := arrayFault code tile (s.core lc).seq.next } }.stop
        (contractFault 1 true 0 (s.core lc).seq.next) 0 := by
  unfold arrayHazard
  dsimp only
  rw [core_faultCore_of_running (s := s.modCore lc _) hJob hPhase, State.core_modCore_same]

theorem macFormatHazard : MacFormatHazard := by
  intro s lc tile fp32 popa popb a b j hFree hRamp hA hB hTags hBusy hJob hPhase i hi
  have hExec : exec i s = .next (arrayHazard s lc 3 tile) := by
    rcases hi with rfl | rfl
    · rw [exec_mac, macIssue_of_ready hFree hRamp hA hB hBusy, if_pos hTags]
    · rw [exec_macz, macIssue_of_ready hFree hRamp hA hB hBusy, if_pos hTags]
  refine ⟨_, hExec, ?_⟩
  rw [core_arrayHazard_of_running hJob hPhase]
  exact ⟨rfl, rfl, rfl, rfl, rfl, rfl⟩

/-- Settles O3: a `MAC` or `MACZ` waits, meets the format hazard, or changes its core as `macCore` does. -/
theorem arrayMultiplies : Obligations.ArrayMultiplies := ⟨macUpdatesTile, macWaits, macFormatHazard⟩

end Sys2Proof.Machine
end

section
/-! PROOFS. The FEED slots: instructions taken, blocks read from the feeder store, and the flush of a feeder. -/

namespace Sys2Proof.Machine

/-! ## One feeder changes -/

@[simp] theorem Core.feeder_setFeeder_same (c : Core) (f : Feed) (x : Feeder) : (c.setFeeder f x).feeder f = x := by
  cases f <;> rfl

theorem Core.feeder_setFeeder_other (c : Core) {f g : Feed} (x : Feeder) (h : g ≠ f) : (c.setFeeder f x).feeder g = c.feeder g := by
  cases f <;> cases g
  · exact absurd rfl h
  · rfl
  · rfl
  · exact absurd rfl h

/-- Of a core, a new feeder changes only what its two feeders hold. -/
theorem Core.setFeeder_eq (c : Core) (f : Feed) (x : Feeder) :
    c.setFeeder f x = { c with fv := { c.fv with fa := (c.setFeeder f x).fv.fa, fb := (c.setFeeder f x).fv.fb } } := by
  cases f <;> rfl

/-! ## `FBLK` and `FGATH` are taken (R112) -/

theorem exec_of_feedOp {i : Instr} {op : FeedOp} {lc : Lc} {f : Feed} {a : FBlkSlot} {g : FGathSlot}
    (h : (i = .fblk lc f a ∧ op = .blk a) ∨ (i = .fgath lc f g ∧ op = .gath g)) (s : State) : exec i s = feedIssue i lc f op s := by
  rcases h with ⟨rfl, rfl⟩ | ⟨rfl, rfl⟩ <;> rfl

theorem feedIssue_of_room {s : State} {lc : Nat} {f : Feed} (hFree : SlotFree s lc) (h : ((s.core lc).feeder f).instrs.length < 2)
    (i : Instr) (op : FeedOp) : feedIssue i lc f op s = .next (s.modCore lc (fun c => c.feedPush f op)) := by
  have hRoom : (s.core lc).feedFull f = false := by simpa [Core.feedFull] using h
  rw [feedIssue, hRoom, slotIssue_of_slotFree hFree]

theorem feedIssue_of_full {s : State} {lc : Nat} {f : Feed} (hFree : SlotFree s lc) (h : 2 ≤ ((s.core lc).feeder f).instrs.length)
    (i : Instr) (op : FeedOp) : feedIssue i lc f op s = .next ((s.modCore lc Core.fvWait).hold i) := by
  obtain ⟨hDead, hBlocked, -⟩ := hFree
  have hFull : (s.core lc).feedFull f = true := by simpa [Core.feedFull] using h
  rw [feedIssue, hFull, slotIssue_wait hDead hBlocked]

theorem feeder_feedPush_other (c : Core) {f g : Feed} (op : FeedOp) (h : g ≠ f) : (c.feedPush f op).feeder g = c.feeder g :=
  Core.feeder_setFeeder_other c _ h

theorem feederTakesInstruction : FeederTakesInstruction := by
  intro s lc f a g i op hOp hFree
  rw [exec_of_feedOp hOp]
  refine ⟨fun hRoom => ?_, fun hFull => ?_⟩
  · refine ⟨_, feedIssue_of_room hFree hRoom i op, onlyCore_modCore s lc _, ?_⟩
    rw [State.core_modCore_same]
    refine ⟨?_, fun f' h => feeder_feedPush_other _ op h, ?_⟩ <;> cases f
    · rfl
    · rfl
    · exact ⟨rfl, rfl, rfl, rfl, rfl⟩
    · exact ⟨rfl, rfl, rfl, rfl, rfl⟩
  · refine ⟨_, feedIssue_of_full hFree hFull i op, rfl, ?_⟩
    rw [State.core_hold, State.core_modCore_same]
    rfl

/-! ## What a feeder reads (R102, R106, R204) -/

/-- A read of the feeder store that meets no error in a byte delivers what stands there once the valid bits of its lines have been
read (R199, R204). -/
theorem storeRead_of_intact {s t : State} {req lc ofs n : Nat} (hMap : checkMaps s req (some lc) (mkDa 0 lc ofs) (mkDa 0 lc ofs + n) = t)
    (hSram : isDram (mkDa 0 lc ofs) = false) (hFlaws : t.mem.byteFlaws = []) (bundle : Nat) :
    storeRead s req lc bundle ofs n = { bytes := t.bytesAt (mkDa 0 lc ofs) n, st := t } := by
  have hFetch : memFetch s req (some lc) (mkDa 0 lc ofs) n =
      { bytes := t.bytesAt (mkDa 0 lc ofs) n, bad := List.replicate n false, st := t } := by
    rw [memFetch, hMap, hSram, if_neg Bool.false_ne_true, fetchBytes_clean _ _ _ _ hFlaws]
    simp [State.bytesAt]
  rw [storeRead, hFetch]
  simp

theorem length_bytesAt (s : State) (da n : Nat) : (s.bytesAt da n).length = n := by
  simp [State.bytesAt]

theorem patch_whole (l bs : List Byte) (h : bs.length = l.length) : patch l 0 bs = bs := by
  simp [patch, h]

/-- The request for block `q` of an `FBLK`. -/
def fblkReq (a : FBlkSlot) (q : Nat) : FeedReq :=
  { place := some (false, 0), ofs := fblkAddr a q, len := blockBytes a.sfmt, late := false }

/-- An `FBLK` without rotation reads each block with one request in one read cycle (R106). -/
theorem blockReqs_blk {a : FBlkSlot} (hRope : a.rope = false) (glist : List Byte) (q : Nat) :
    blockReqs (.blk a) glist q = [[fblkReq a q]] := by
  rw [blockReqs, hRope]
  rfl

/-- The last read cycle of a block, of one request for all its bytes: the block is staged with what the store delivers (R106). -/
theorem serveRead_of_read {x : StoreCycle} {lc : Nat} {f : Feed} {i : FeedInstr} {r : BlockRead} {q : FeedReq} {t : State} {raw : List Byte}
    (hLeft : r.left = [[q]]) (hPlace : q.place = some (false, 0)) (hBanks : meetBanks q.banks x.banks = false)
    (hAwaits : (x.st.core lc).awaits lc i.seq [(mkDa 0 lc q.ofs, q.len)] = false) (hLen : raw.length = r.raw.length)
    (hRead : storeRead x.st 1 lc i.bundle q.ofs q.len = { bytes := raw, st := t }) :
    (serveRead x lc f i r).st = t.modCore lc (fun c => c.stageBlock f i { left := [], raw := raw, desc := r.desc }) := by
  simp [serveRead, hLeft, hBanks, hAwaits, readReqs, hPlace, hRead, patch_whole _ _ hLen]

/-- The bytes that a feeder has read of a block without rotation. -/
def plainRead (raw : List Byte) : BlockRead := { left := [], raw := raw, desc := List.replicate 256 0 }

/-- A block that has been read joins the feeder's blocks, decoded, and can be taken six cycles later (R112, Table 4.4). -/
theorem stageBlock_joins (c : Core) (f : Feed) (i : FeedInstr) (r : BlockRead) : ∃ b : Staged, (c.stageBlock f i r).feeder f =
      { held := (c.feeder f).held ++ [b], instrs := ((c.stageBlock f i r).feeder f).instrs } ∧
    b.ready = c.seq.cycle + 6 ∧ b.block = (i.op.build f r.raw r.desc).1 := by
  refine ⟨⟨(i.op.build f r.raw r.desc).1, c.seq.cycle + 6, (i.op.build f r.raw r.desc).2, c.seq.cycle + 2⟩, ?_, rfl, rfl⟩
  simp only [Core.stageBlock, Core.setInstr, Core.feeder_setFeeder_same]

section FblkBlock

variable {x : StoreCycle} {lc : Nat} {f : Feed} {i : FeedInstr} {a : FBlkSlot} (hOp : i.op = .blk a) (hRope : a.rope = false)
  (hBanks : meetBanks (banksOf (fblkAddr a i.q) (blockBytes a.sfmt)) x.banks = false)
  (hAwaits : (x.st.core lc).awaits lc i.seq [(mkDa 0 lc (fblkAddr a i.q), blockBytes a.sfmt)] = false)

include hOp hRope hBanks hAwaits

/-- A feeder that waits for no bank and no write stages the block that its read of the store delivers (R102, R106). -/
theorem startBlock_of_read {t : State} {raw : List Byte} (hLen : raw.length = blockBytes a.sfmt)
    (hRead : storeRead x.st 1 lc i.bundle (fblkAddr a i.q) (blockBytes a.sfmt) = { bytes := raw, st := t }) :
    (startBlock x lc f i).st = t.modCore lc (fun c => c.stageBlock f i (plainRead raw)) := by
  have hRows : i.op.rowsOk i.glist i.q = true := by rw [hOp]; rfl
  rw [startBlock, hRows, if_neg (by decide)]
  have hReqs : blockReqs i.op i.glist i.q = [[fblkReq a i.q]] := by rw [hOp, blockReqs_blk hRope]
  refine serveRead_of_read (q := fblkReq a i.q) hReqs rfl hBanks hAwaits ?_ hRead
  rw [List.length_replicate, hLen, hOp]
  rfl

/-- Where the valid map of the store holds no error either, the block is built of the bytes that stand there (R106, R204). -/
theorem startBlock_of_intact (hSram : isDram (mkDa 0 lc (fblkAddr a i.q)) = false) (hMap : x.st.mem.mapFlaws = [])
    (hFlaws : x.st.mem.byteFlaws = []) :
    ∃ b : Staged, ((startBlock x lc f i).st.core lc).feeder f =
        { held := ((x.st.core lc).feeder f).held ++ [b], instrs := (((startBlock x lc f i).st.core lc).feeder f).instrs } ∧
      b.ready = (x.st.core lc).seq.cycle + 6 ∧
      b.block = ((FeedOp.blk a).build f (x.st.bytesAt (mkDa 0 lc (fblkAddr a i.q)) (blockBytes a.sfmt)) (List.replicate 256 0)).1 ∧
      (startBlock x lc f i).st.mem = x.st.mem := by
  have hRead := storeRead_of_intact (s := x.st) (req := 1) (n := blockBytes a.sfmt) (by simp [checkMaps, hMap]) hSram hFlaws i.bundle
  rw [startBlock_of_read hOp hRope hBanks hAwaits (length_bytesAt ..) hRead, State.core_modCore_same]
  obtain ⟨b, hHeld, hReady, hBlock⟩ := stageBlock_joins (x.st.core lc) f i
    (plainRead (x.st.bytesAt (mkDa 0 lc (fblkAddr a i.q)) (blockBytes a.sfmt)))
  rw [hOp] at hBlock
  exact ⟨b, hHeld, hReady, hBlock, rfl⟩

end FblkBlock

/-- Core 0 in a cycle of its feeder store in which no bank is taken: every byte is good, and of the valid map the bits of the first
eight lines hold a single error. -/
def mapFlawed : StoreCycle :=
  { st := { State.reset with mem := { MemState.init with mapFlaws := [(0, 1)] } }, banks := [], conf := false }

/-- Block 0 of an `FBLK` at address 0. -/
def blockAtZero : FBlkSlot :=
  { mode := false, sfmt := .bin16, tr := false, rope := false, addr := 0, rep := 0, stride := 0, rdesc := 0 }

/-- A feeder's instruction that is about to read it. -/
def readAtZero : FeedInstr :=
  { op := .blk blockAtZero, seq := 0, bundle := 0, start := 0, q := 0, glist := [], cur := none, gone := none }

/-- The part once the valid bits of the block's lines have been read. -/
def mapRead : State :=
  checkMaps mapFlawed.st 1 (some (0 : Lc)) (mkDa 0 (0 : Lc) (fblkAddr blockAtZero 0))
    (mkDa 0 (0 : Lc) (fblkAddr blockAtZero 0) + blockBytes blockAtZero.sfmt)

/-- The error in the valid bits is corrected where it stands (R204, R207). -/
theorem mapRead_flaws : mapRead.mem.mapFlaws = [] ∧ mapRead.mem.byteFlaws = [] := by decide

theorem startBlock_mapFlawed : (startBlock mapFlawed (0 : Lc) .a readAtZero).st.mem.mapFlaws = [] := by
  have hRead := storeRead_of_intact (lc := (0 : Lc)) (t := mapRead) rfl (by decide) mapRead_flaws.2 readAtZero.bundle
  rw [startBlock_of_read (lc := (0 : Lc)) (a := blockAtZero) rfl rfl (by decide) (by decide) (length_bytesAt ..) hRead]
  exact mapRead_flaws.1

/-- Refutes O6: no byte of the store is in error, but its valid map is, and the read of a block corrects the map (R204, R207). -/
theorem not_feederBlocks : ¬ Obligations.FeederBlocks := by
  rintro ⟨-, hBlock⟩
  obtain ⟨-, -, -, -, -, hMem⟩ := hBlock mapFlawed 0 .a readAtZero blockAtZero rfl rfl rfl (by decide) (by decide)
  have hMap := congrArg MemState.mapFlaws hMem
  rw [startBlock_mapFlawed] at hMap
  exact absurd hMap (by decide)

/-! ## `FFLUSH` (R113) -/

theorem slotCore_of_isMac {lc : Nat} {i : Instr} (h : isMac lc i = true) : slotCore i = some lc := by
  unfold isMac at h
  split at h
  · exact congrArg some (of_decide_eq_true h)
  · exact congrArg some (of_decide_eq_true h)
  · cases h

/-- While a slot is free, no `MAC` of its core waits: `FFLUSH` meets no hazard (R129). -/
theorem no_held_mac_of_slotFree {s : State} {lc : Nat} (h : SlotFree s lc) : s.held.any (isMac lc) = false := by
  obtain ⟨-, hBlocked, -⟩ := h
  have hHeld : s.held.any (fun i => slotCore i = some lc) = false := by
    rw [State.blocked, Bool.or_eq_false_iff, Bool.or_eq_false_iff] at hBlocked
    exact hBlocked.1.1
  rw [List.any_eq_false] at hHeld ⊢
  exact fun i hi hMac => hHeld i hi (by simpa using slotCore_of_isMac hMac)

theorem exec_fflush_of_slotFree {s : State} {lc : Lc} (h : SlotFree s lc) (f : Feed) :
    exec (.fflush lc f) s = .next (s.modCore lc (fun c => c.flushFeed f)) := by
  change execFflush lc f s = _
  rw [execFflush, no_held_mac_of_slotFree h]
  exact slotIssue_of_slotFree h

/-- The commands of a bundle are those of its ARRAY slot, then one of each other slot, in slot order (R139, R140). -/
theorem decodeBundle_slots {lc : Lc} {b : BitVec 512} {cs : List Instr} (h : decodeBundle lc b = some cs) :
    ∃ (as : List Instr) (fa fb v m g : Instr), cs = as ++ [fa, fb, v, m, g] ∧ decodeArray lc (bits b.toNat 47 0) = some as ∧
      decodeFeed lc .a (bits b.toNat 127 48) = some fa ∧ decodeFeed lc .b (bits b.toNat 207 128) = some fb := by
  simp only [decodeBundle, Option.bind_eq_some_iff, Option.map_eq_some_iff] at h
  obtain ⟨as, hArray, fa, hFa, fb, hFb, v, -, m, -, g, -, rfl⟩ := h
  exact ⟨as, fa, fb, v, m, g, rfl, hArray, hFa, hFb⟩

/-- Settles O7: a free slot has no `MAC` waiting, so `FFLUSH` empties its feeder at once. -/
theorem flushEmptiesFeeder : Obligations.FlushEmptiesFeeder := by
  refine ⟨fun _ _ _ h => decodeBundle_slots h, fun s lc f hFree => ?_⟩
  refine ⟨_, exec_fflush_of_slotFree hFree f, onlyCore_modCore s lc _, ?_⟩
  rw [State.core_modCore_same]
  exact ⟨Core.feeder_setFeeder_same _ f _, fun f' h => Core.feeder_setFeeder_other _ _ h, Core.setFeeder_eq _ f _⟩

end Sys2Proof.Machine
end

section
/-! SUPPORT. What the end of a bundle leaves, the accounting of a gate wait, gate counts after an increment, and the fault of a
running job. -/

namespace Sys2Proof.Machine

/-! ## Near one core -/

theorem nearCore_refl (s : State) (lc : Nat) : NearCore s s lc := ⟨rfl, fun _ _ => rfl⟩

theorem nearCore_modCore (s : State) (lc : Nat) (f : Core → Core) : NearCore s (s.modCore lc f) lc :=
  ⟨rfl, fun _ hk => State.core_modCore_other s f hk⟩

theorem NearCore.trans {s t u : State} {lc : Nat} (h : NearCore s t lc) (h' : NearCore t u lc) : NearCore s u lc := by
  obtain ⟨hState, hCores⟩ := h
  obtain ⟨hState', hCores'⟩ := h'
  refine ⟨?_, fun k hk => (hCores' k hk).trans (hCores k hk)⟩
  calc u = { t with cores := u.cores, blames := u.blames, sends := u.sends, pwr := u.pwr, draws := u.draws } := hState'
    _ = { s with cores := u.cores, blames := u.blames, sends := u.sends, pwr := u.pwr, draws := u.draws } := by rw [hState]

theorem OnlyCore.trans {s t u : State} {lc : Nat} (h : OnlyCore s t lc) (h' : OnlyCore t u lc) : OnlyCore s u lc := by
  obtain ⟨hState, hCores⟩ := h
  obtain ⟨hState', hCores'⟩ := h'
  refine ⟨?_, fun k hk => (hCores' k hk).trans (hCores k hk)⟩
  calc u = { t with cores := u.cores, draws := u.draws } := hState'
    _ = { s with cores := u.cores, draws := u.draws } := by rw [hState]

theorem NearCore.held {s t : State} {lc : Nat} (h : NearCore s t lc) : t.held = s.held := by rw [h.1]

theorem NearCore.ticks {s t : State} {lc : Nat} (h : NearCore s t lc) : t.ticks = s.ticks := by rw [h.1]

theorem nearCore_drawn (s : State) (n lc : Nat) : NearCore s (s.drawn n) lc := ⟨rfl, fun _ _ => rfl⟩

/-! ## The end of a bundle (R140, R144, R159) -/

/-- The cores differ in nothing that the end of a bundle reports: only in gate counts, the phase hint, the pre-boost and the counts of
the wait that ends. -/
def SameBundle (c d : Core) : Prop :=
  ∃ gates phase preboost xwait rwait waitTicks recent stage1Cyc gwaitLen,
    d = { c with seq := { c.seq with
      gates := gates, phase := phase, preboost := preboost, xwait := xwait, rwait := rwait, waitTicks := waitTicks, recent := recent
      stage1Cyc := stage1Cyc, gwaitLen := gwaitLen } }

theorem SameBundle.refl (c : Core) : SameBundle c c := ⟨_, _, _, _, _, _, _, _, _, rfl⟩

theorem endBundle_cyc {c : Core} (h : c.dead = false) : c.endBundle.seq.cyc = bump c.seq.cyc 1 :=
  (if_neg (Bool.eq_false_iff.mp h) : (if c.dead = true then c.seq.cyc else bump c.seq.cyc 1) = _)

theorem Core.dead_eq_false {c : Core} : c.dead = false ↔ c.seq.ended = false ∧ c.seq.stopped = false := by
  simp [Core.dead]

/-- A bundle that a core of a like bundle ends is done, with the gates of that core. -/
theorem SameBundle.done {c d : Core} (h : SameBundle c d) (hDead : c.dead = false) : BundleDone c d.endBundle d.gate := by
  obtain ⟨hEnded, hStopped⟩ := Core.dead_eq_false.mp hDead
  obtain ⟨_, _, _, _, _, _, _, _, _, rfl⟩ := h
  exact ⟨rfl, rfl, rfl, endBundle_cyc hDead, rfl, rfl, fun _ => rfl, rfl, rfl, rfl, rfl, rfl, rfl, hStopped, hEnded, rfl, rfl, rfl⟩

theorem bundleDone_endBundle {c : Core} (h : c.dead = false) : BundleDone c c.endBundle c.gate := (SameBundle.refl c).done h

/-! ## Gate counts (R142) -/

theorem gate_le (c : Core) (g : Nat) : c.gate g ≤ 16777215 := Nat.le_of_lt_succ (BitVec.isLt _)

theorem gate_setGate (c : Core) (g : Nat) {n : Nat} (h : n ≤ 16777215) :
    (c.setGate g n).gate = fun g' => if g' = g then n else c.gate g' := by
  funext g'
  unfold Core.gate Core.setGate
  rw [Tbl.get_set]
  split
  · rw [BitVec.toNat_ofNat]
    omega
  · rfl

/-- The core with an increment of a gate counted, and its source remembered (R142, R157). -/
def Core.counted (c : Core) (g n : Nat) (src : IncSrc) : Core :=
  { c.setGate g (c.gate g + n) with
    seq := { (c.setGate g (c.gate g + n)).seq with recent := c.seq.recent ++ [(g, src)] } }

theorem incGate_of_fits {s : State} {lc g n : Nat} (h : (s.core lc).gate g + n ≤ 16777215) (src : IncSrc) :
    incGate s lc g n src = s.modCore lc (fun c => c.counted g n src) := if_neg (by omega)

theorem incGate_of_overflow {s : State} {lc g n : Nat} (h : 16777215 < (s.core lc).gate g + n) (src : IncSrc) :
    incGate s lc g n src = faultCore s lc 3 1 (s.core lc).seq.next (BitVec.ofNat 32 (src.aux + g * 65536)) := if_pos h

theorem gate_counted {c : Core} {g n : Nat} (h : c.gate g + n ≤ 16777215) (src : IncSrc) :
    (c.counted g n src).gate = fun g' => if g' = g then c.gate g' + n else c.gate g' := by
  have hGate : (c.counted g n src).gate = (c.setGate g (c.gate g + n)).gate := rfl
  rw [hGate, gate_setGate c g h]
  funext g'
  split
  next hSame => rw [hSame]
  next => rfl

/-- An increment after the end of a bundle is seen in its gate alone. -/
theorem BundleDone.counted {c d : Core} {gates : Nat → Nat} (h : BundleDone c d gates) {g n : Nat} (hFits : d.gate g + n ≤ 16777215)
    (src : IncSrc) : BundleDone c (d.counted g n src) (fun g' => if g' = g then gates g' + n else gates g') := by
  obtain ⟨hNext, hLoops, hIssue, hCyc, hCycle, hLen, hGates, hRest⟩ := h
  obtain rfl : d.gate = gates := funext hGates
  exact ⟨hNext, hLoops, hIssue, hCyc, hCycle, hLen, congrFun (gate_counted hFits src), hRest⟩

/-! ## The fault of a running job (R153, R154, Table 5.20) -/

/-- The fields of `CONTRACT_FAULT` do not overlap, so each reads as what was put there. -/
theorem contractFaultFields : ContractFaultFields := by
  intro source code bundle first hSource hCode hBundle
  have hWord : (contractFault source first code bundle).toNat = source + b2n first * 8 + code * 16 + bundle * 65536 := by
    rw [contractFault, BitVec.toNat_ofNat, Nat.mod_eq_of_lt hBundle]
    have := b2n_lt first
    omega
  have hFirst : (if first then 1 else 0) = b2n first := by cases first <;> rfl
  have := b2n_lt first
  simp only [fld, bits, hWord, hFirst, Nat.reduceAdd, Nat.reduceSub, Nat.reducePow]
  omega

theorem contractFault_mod (source code bundle : Nat) (first : Bool) :
    contractFault source first code bundle = contractFault source first code (bundle % 8192) := by
  rw [contractFault, contractFault, Nat.mod_mod]

/-- The fields of `CONTRACT_FAULT` at the first hazard of a GATE slot (Table 5.16). -/
theorem contractFault_hazard {code : Nat} (h : code < 16) (bundle : Nat) :
    fld (contractFault 3 true code bundle) 2 0 = 3 ∧ fld (contractFault 3 true code bundle) 3 3 = 1 ∧
      fld (contractFault 3 true code bundle) 7 4 = code := by
  rw [contractFault_mod]
  obtain ⟨hSource, hFirst, hCode, -⟩ := contractFaultFields 3 code (bundle % 8192) true (by decide) h (Nat.mod_lt _ (by decide))
  exact ⟨hSource, hFirst, hCode⟩

@[simp] theorem sends_faultCore (s : State) (lc source code bundle : Nat) (aux : Word) :
    (faultCore s lc source code bundle aux).sends = s.sends := by
  unfold faultCore
  split
  · rfl
  · split
    · rfl
    · rfl
    · split <;> rfl
    · rfl

end Sys2Proof.Machine
end

section
/-! PROOFS. The GATE slot: waits, increments, sends, and increments that arrive. -/

namespace Sys2Proof.Machine

/-! ## The end of a gate wait (R156, R157) -/

/-- Blame records and what core `lc` counts of waits that others ended may differ, nothing else. -/
def WaitAccounted (s t : State) (lc : Nat) : Prop :=
  NearCore s t lc ∧ ∃ x r, t.core lc = { s.core lc with seq := { (s.core lc).seq with xwait := x, rwait := r } }

theorem WaitAccounted.refl (s : State) (lc : Nat) : WaitAccounted s s lc := ⟨nearCore_refl s lc, _, _, rfl⟩

theorem WaitAccounted.xwait {s t : State} {lc : Nat} (h : WaitAccounted s t lc) (n : Nat) :
    WaitAccounted s (t.modCore lc (fun c => { c with seq := { c.seq with xwait := bump c.seq.xwait n } })) lc := by
  obtain ⟨hNear, x, r, hCore⟩ := h
  exact ⟨hNear.trans (nearCore_modCore t lc _), _, r, by rw [State.core_modCore_same, hCore]⟩

theorem WaitAccounted.rwait {s t : State} {lc : Nat} (h : WaitAccounted s t lc) (n : Nat) :
    WaitAccounted s (t.modCore lc (fun c => { c with seq := { c.seq with rwait := bump c.seq.rwait n } })) lc := by
  obtain ⟨hNear, x, r, hCore⟩ := h
  exact ⟨hNear.trans (nearCore_modCore t lc _), x, _, by rw [State.core_modCore_same, hCore]⟩

theorem WaitAccounted.blames {s t : State} {lc : Nat} (h : WaitAccounted s t lc) (bs : List Blame) :
    WaitAccounted s { t with blames := bs } lc :=
  ⟨h.1.trans ⟨rfl, fun _ _ => rfl⟩, h.2⟩

theorem accountWait_accounted (s : State) (lc g : Nat) : WaitAccounted s (accountWait s lc g) lc := by
  have hFabric (p : Prop) [Decidable p] (n : Nat) : WaitAccounted s
      (if p then s.modCore lc (fun c => { c with seq := { c.seq with xwait := bump c.seq.xwait n } }) else s) lc := by
    split
    · exact (WaitAccounted.refl s lc).xwait n
    · exact .refl s lc
  unfold accountWait
  dsimp only
  split
  · exact hFabric _ _
  · split
    · exact hFabric _ _
    · split
      · exact ((hFabric _ _).rwait _).blames _
      · exact (hFabric _ _).rwait _

/-- The wait of a core that was not in stage 2 ends: it counts no waiting cycle, and the regulator is as before. -/
theorem gateHolds_does {s : State} {lc : Nat} (h : (s.core lc).seq.stage2 = false) : NearCore s (gateHolds s lc) lc ∧
    ∃ waitTicks recent stage1Cyc, (gateHolds s lc).core lc = { s.core lc with seq := { (s.core lc).seq with
      gwaitLen := 0, waitTicks := waitTicks, recent := recent, stage1Cyc := stage1Cyc } } := by
  unfold gateHolds
  split
  next hNone =>
    have hLen : (s.core lc).seq.gwaitLen = 0 := by simpa using (Bool.and_eq_true_iff.mp hNone).1
    exact ⟨nearCore_refl s lc, (s.core lc).seq.waitTicks, (s.core lc).seq.recent, (s.core lc).seq.stage1Cyc, by rw [← hLen]⟩
  next =>
    refine ⟨(nearCore_modCore s lc _).trans (nearCore_drawn _ 1 lc), 0, [], 0, ?_⟩
    rw [State.core_drawn, State.core_modCore_same, Core.wakes, if_neg (by simp [h]), Core.waitOver, ← h]

theorem endWait_does {s : State} {lc : Nat} (g : Nat) (h : (s.core lc).seq.stage2 = false) : NearCore s (endWait s lc g) lc ∧
    ∃ xwait rwait waitTicks recent stage1Cyc, (endWait s lc g).core lc = { s.core lc with seq := { (s.core lc).seq with
      xwait := xwait, rwait := rwait, gwaitLen := 0, waitTicks := waitTicks, recent := recent, stage1Cyc := stage1Cyc } } := by
  obtain ⟨hNear, x, r, hAccount⟩ := accountWait_accounted s lc g
  have hStage : ((accountWait s lc g).core lc).seq.stage2 = false := by rw [hAccount, h]
  obtain ⟨hNear', w, rc, st, hHolds⟩ := gateHolds_does hStage
  exact ⟨hNear.trans hNear', x, r, w, rc, st, by rw [endWait, hHolds, hAccount]⟩

/-- A core whose wait has ended can issue as before. -/
theorem blocked_endWait {s : State} {lc : Nat} (g : Nat) (h : (s.core lc).seq.stage2 = false) :
    (endWait s lc g).blocked lc = s.blocked lc := by
  obtain ⟨hNear, _, _, _, _, _, hCore⟩ := endWait_does g h
  unfold State.blocked
  rw [hNear.held, hCore]

/-! ## `GWAIT` and `GPEEK` (R141, R142) -/

section GateTake

variable {s : State} {lc g n : Nat} (hFree : SlotFree s lc)

include hFree

theorem gateTake_of_below (h : (s.core lc).gate g < n) (i : Instr) (take : Nat) :
    gateTake i lc g n take s = .next ((s.modCore lc Core.gateFail).hold i) := by
  obtain ⟨hDead, hBlocked, -⟩ := hFree
  rw [gateTake, if_pos h]
  exact slotIssue_wait hDead hBlocked

/-- Once the gate holds the count, the wait ends, and the operation waits for the regulator alone. -/
theorem gateTake_of_holds (h : n ≤ (s.core lc).gate g) (hStage : (s.core lc).seq.stage2 = false) (i : Instr) (take : Nat) :
    gateTake i lc g n take s = .next (if s.ticks < (s.core lc).seq.wakeTill
      then ((endWait s lc g).modCore lc Core.wakeCycle).hold i
      else (endWait s lc g).modCore lc (fun c => (c.setGate g (c.gate g - take)).endBundle)) := by
  obtain ⟨hDead, hBlocked, -⟩ := hFree
  obtain ⟨hNear, _, _, _, _, _, hCore⟩ := endWait_does g hStage
  have hDead' : ((endWait s lc g).core lc).dead = false := by rw [hCore]; exact hDead
  have hBlocked' : (endWait s lc g).blocked lc = false := (blocked_endWait g hStage).trans hBlocked
  have hWake : ((endWait s lc g).core lc).seq.wakeTill = (s.core lc).seq.wakeTill := by rw [hCore]
  rw [gateTake, if_neg (by omega), if_neg (by simp [hDead, hBlocked])]
  dsimp only
  rw [hNear.ticks, hWake]
  split
  next hLess => rw [decide_eq_true hLess, slotIssue_wait hDead' hBlocked']
  next hLess => rw [decide_eq_false hLess, slotIssue_act hDead' hBlocked']

theorem gateTake_issues (h : n ≤ (s.core lc).gate g) (hStage : (s.core lc).seq.stage2 = false)
    (hWake : (s.core lc).seq.wakeTill ≤ s.ticks) (i : Instr) (take : Nat) :
    ∃ t, gateTake i lc g n take s = .next t ∧ NearCore s t lc ∧ BundleDone (s.core lc) (t.core lc)
      (fun g' => if g' = g then (s.core lc).gate g' - take else (s.core lc).gate g') := by
  obtain ⟨hNear, x, r, w, rc, st, hCore⟩ := endWait_does g hStage
  rw [gateTake_of_holds hFree h hStage, if_neg (by omega)]
  refine ⟨_, rfl, hNear.trans (nearCore_modCore _ lc _), ?_⟩
  rw [State.core_modCore_same, hCore]
  have hGates : (fun g' => if g' = g then (s.core lc).gate g' - take else (s.core lc).gate g') =
      ((s.core lc).setGate g ((s.core lc).gate g - take)).gate := by
    rw [gate_setGate _ g ((Nat.sub_le _ _).trans (gate_le _ g))]
    funext g'
    split
    next hSame => rw [hSame]
    next => rfl
  rw [hGates]
  exact SameBundle.done ⟨_, _, _, x, r, w, rc, st, 0, rfl⟩ hFree.1

/-- While issue is held for the regulator, the cycle counts in `PACE_GWAIT` and no more belongs to the wait (Table 5.18). -/
theorem gateTake_of_wake (h : n ≤ (s.core lc).gate g) (hStage : (s.core lc).seq.stage2 = false)
    (hWake : s.ticks < (s.core lc).seq.wakeTill) (i : Instr) (take : Nat) :
    ∃ t, gateTake i lc g n take s = .next t ∧ t.held = s.held ++ [i] ∧ (t.core lc).seq.gwait = bump (s.core lc).seq.gwait 1 ∧
      (t.core lc).seq.gwaitLen = 0 ∧ (t.core lc).seq.gates = (s.core lc).seq.gates := by
  obtain ⟨hNear, _, _, _, _, _, hCore⟩ := endWait_does g hStage
  rw [gateTake_of_holds hFree h hStage, if_pos hWake]
  refine ⟨_, rfl, congrArg (· ++ [i]) hNear.held, ?_⟩
  rw [State.core_hold, State.core_modCore_same, hCore]
  exact ⟨rfl, rfl, rfl⟩

end GateTake

theorem exec_gwait (lc : Lc) (g : Fin 64) (n : BitVec 24) (s : State) :
    exec (.gwait lc g n) s = gateTake (.gwait lc g n) lc g n.toNat n.toNat s := rfl

theorem exec_gpeek (lc : Lc) (g : Fin 64) (n : BitVec 24) (s : State) :
    exec (.gpeek lc g n) s = gateTake (.gpeek lc g n) lc g n.toNat 0 s := rfl

/-- `GWAIT` and `GPEEK` are one operation that subtracts N or nothing. -/
theorem exec_gateWait {lc : Lc} {g : Fin 64} {n : BitVec 24} {i : Instr} (hi : i = .gwait lc g n ∨ i = .gpeek lc g n) (s : State) :
    ∃ take, exec i s = gateTake i lc g n.toNat take s := by
  rcases hi with rfl | rfl
  · exact ⟨_, exec_gwait lc g n s⟩
  · exact ⟨_, exec_gpeek lc g n s⟩

theorem exec_gnop_of_slotFree {s : State} {lc : Lc} (h : SlotFree s lc) :
    exec (.gnop lc) s = .next (s.modCore lc Core.endBundle) := slotIssue_of_slotFree h

theorem gateWaits : GateWaits := by
  intro s lc g n hFree
  refine ⟨fun hHolds hWoken => ?_, fun hHolds hWoken => ?_, ?_, fun hHolds hStage hWake i hi => ?_, fun hBelow i hi => ?_⟩
  · rw [exec_gwait]
    exact gateTake_issues hFree hHolds hWoken.1 hWoken.2 _ _
  · rw [exec_gpeek]
    obtain ⟨t, hExec, hNear, hDone⟩ := gateTake_issues hFree hHolds hWoken.1 hWoken.2 (.gpeek lc g n) 0
    exact ⟨t, hExec, hNear, by simpa only [Nat.sub_zero, ite_self] using hDone⟩
  · refine ⟨_, exec_gnop_of_slotFree hFree, onlyCore_modCore s lc _, ?_⟩
    rw [State.core_modCore_same]
    exact bundleDone_endBundle hFree.1
  · obtain ⟨take, hExec⟩ := exec_gateWait hi s
    rw [hExec]
    exact gateTake_of_wake hFree hHolds hStage hWake i take
  · obtain ⟨take, hExec⟩ := exec_gateWait hi s
    refine ⟨_, hExec.trans (gateTake_of_below hFree hBelow i take), rfl, ?_⟩
    rw [State.core_hold, State.core_modCore_same]
    exact ⟨rfl, rfl, rfl, rfl, rfl, rfl⟩

/-! ## `GINC` and `GSEND` (R142, R143) -/

theorem exec_ginc_of_slotFree {s : State} {lc : Lc} (h : SlotFree s lc) (g : Fin 64) (n : BitVec 24) :
    exec (.ginc lc g n) s = .next (incGate (s.modCore lc Core.endBundle) lc g n.toNat (.core lc)) := slotIssue_of_slotFree h

theorem mayTarget_self (s : State) (lc : Nat) : s.mayTarget lc lc = true := by simp [State.mayTarget]

theorem mayTarget_of_job {s : State} {lc k : Nat} {j : Job} (hJob : s.jobOf lc = some j) (hk : k ≠ lc) :
    s.mayTarget lc k = j.covers k := by simp [State.mayTarget, hJob, hk]

/-- A send to the sending core is an increment of its own. -/
theorem exec_gsend_self {s : State} {lc : Lc} {tgt : Fin 1024} (hFree : SlotFree s lc) (h : tgt.val = lc.val) (g : Fin 64) (n : BitVec 24) :
    exec (.gsend lc tgt g n) s = .next (incGate (s.modCore lc Core.endBundle) lc g n.toNat (.core lc)) := by
  have hExec : exec (.gsend lc tgt g n) s = execGsend lc tgt g n s := rfl
  rw [hExec]
  unfold execGsend
  dsimp only
  simp only [h, mayTarget_self, ne_eq, not_true_eq_false, decide_false, Bool.and_false, Bool.false_and, Bool.not_true,
    Bool.false_eq_true, if_false, if_true]
  exact slotIssue_of_slotFree hFree

theorem exec_gsend_other {s : State} {lc : Lc} {tgt : Fin 1024} {j : Job} (hFree : SlotFree s lc) (h : tgt.val ≠ lc.val)
    (hJob : s.jobOf lc = some j) (hCredit : j.covers tgt = true → (s.sends.filter (fun x => x.src = lc.val && !x.cmpl)).length < 32)
    (g : Fin 64) (n : BitVec 24) :
    exec (.gsend lc tgt g n) s = .next (if j.covers tgt then (s.send lc tgt g n.toNat).modCore lc Core.endBundle
      else contractHazard s lc 2 (BitVec.ofNat 32 (tgt.val + g.val * 65536))) := by
  have hExec : exec (.gsend lc tgt g n) s = execGsend lc tgt g n s := rfl
  rw [hExec]
  unfold execGsend
  dsimp only
  rw [mayTarget_of_job hJob h]
  cases hCovers : j.covers tgt with
  | false => exact slotIssue_of_slotFree hFree
  | true =>
    rw [decide_eq_false (Nat.not_le.mpr (hCredit hCovers)), Bool.and_false, slotIssue_of_slotFree hFree, if_neg h]
    rfl

theorem gateIncrements : GateIncrements := by
  intro s lc tgt g n hFree hSelf i hi
  have hExec : exec i s = .next (incGate (s.modCore lc Core.endBundle) lc g n.toNat (.core lc)) := by
    rcases hi with rfl | rfl
    · exact exec_ginc_of_slotFree hFree g n
    · exact exec_gsend_self hFree hSelf g n
  have hGate : ((s.modCore lc Core.endBundle).core lc).gate g = (s.core lc).gate g := by rw [State.core_modCore_same]; rfl
  rw [hExec]
  refine ⟨fun hFits => ?_, fun hOver j hJob hPhase => ?_⟩
  · rw [← hGate] at hFits
    rw [incGate_of_fits hFits]
    refine ⟨_, rfl, (onlyCore_modCore s lc _).trans (onlyCore_modCore _ lc _), ?_⟩
    rw [State.core_modCore_same] at hFits ⊢
    rw [State.core_modCore_same]
    exact (bundleDone_endBundle hFree.1).counted hFits _
  · rw [← hGate] at hOver
    rw [incGate_of_overflow hOver]
    refine ⟨_, rfl, ?_⟩
    rw [core_faultCore_of_running (s := s.modCore lc Core.endBundle) hJob hPhase, State.core_modCore_same]
    exact ⟨rfl, rfl, contractFault_hazard (by decide) _⟩

theorem gateSends : GateSends := by
  intro s lc tgt g n hFree hOther j hJob hPhase
  refine ⟨fun hCovers hCredit => ?_, fun hCovers => ?_⟩
  · refine ⟨_, (exec_gsend_other hFree hOther hJob (fun _ => hCredit) g n).trans (by rw [if_pos hCovers]), ?_⟩
    refine ⟨NearCore.trans ⟨rfl, fun _ _ => rfl⟩ (nearCore_modCore _ lc _), ?_, _, rfl, rfl, rfl, rfl, rfl, rfl⟩
    rw [State.core_modCore_same]
    exact bundleDone_endBundle hFree.1
  · have hExec : exec (.gsend lc tgt g n) s = .next (contractHazard s lc 2 (BitVec.ofNat 32 (tgt.val + g.val * 65536))) := by
      rw [exec_gsend_other hFree hOther hJob (by simp [hCovers]), hCovers]
      rfl
    refine ⟨_, hExec, sends_faultCore .., ?_⟩
    rw [contractHazard, core_faultCore_of_running hJob hPhase]
    obtain ⟨-, -, hCode⟩ := contractFault_hazard (code := 2) (by decide) (s.core lc).seq.next
    exact ⟨rfl, rfl, rfl, hCode⟩

/-! ## Increments that arrive (R43, R142, R247) -/

/-- Where no link has failed and no bundle retunes, nothing on its way is dropped or held. -/
theorem stuck_of_calm {s : State} (h : Calm s) (i k : Nat) : s.stuck i k = false := by
  obtain ⟨hCut, hBundles⟩ := h
  have hRetune : s.bundles.any (fun e => e.2.retuning) = false := by simpa using hBundles
  simp [State.stuck, State.severed, State.cutAt, hCut, State.routeHeld, hRetune]

theorem retuning_of_calm {s : State} (h : Calm s) (k : Nat) : (s.bundle k).retuning = false := by
  have hBundles : ∀ e ∈ s.bundles, e.2.retuning = false := by simpa using h.2
  exact Tbl.get_of_forall (p := fun b : Bundle => b.retuning = false) rfl hBundles k

theorem sisterHeld_of_calm {s : State} (h : Calm s) (i k : Nat) : s.sisterHeld i k = false := by
  simp [State.sisterHeld, State.seamsHeld, retuning_of_calm h]

theorem sendHeld_of_calm {s : State} (h : Calm s) (x : Send) : s.sendHeld x = false := by
  unfold State.sendHeld
  split
  · rw [sisterHeld_of_calm h, stuck_of_calm h, ite_self]
  · rfl

/-- The oldest increment in flight, where it is between the two cores, is applied. -/
theorem exec_inc_of_calm {s : State} {src dst : Lc} {x : Send} {rest : List Send} (hSends : s.sends = x :: rest) (hSrc : x.src = src.val)
    (hDst : x.dst = dst.val) (hCalm : Calm s) :
    exec (.inc src dst) s = .next (incGate { s with sends := rest } dst x.gate x.n (.core src)) := by
  have hFind : s.sends.find? (fun y => y.src = src.val && y.dst = dst.val) = some x := by
    rw [hSends, List.find?_cons_of_pos (by simp [hSrc, hDst])]
  have hExec : exec (.inc src dst) s = execInc src dst s := rfl
  rw [hExec]
  unfold execInc
  rw [hFind]
  dsimp only
  rw [sendHeld_of_calm hCalm, hSends, List.erase_cons_head, hSrc, hDst]
  rfl

theorem incrementArrives : IncrementArrives := by
  intro s src dst x rest hSends hSrc hDst hCalm hFits
  replace hFits : (({ s with sends := rest } : State).core dst).gate x.gate + x.n ≤ 16777215 := hFits
  rw [exec_inc_of_calm hSends hSrc hDst hCalm, incGate_of_fits hFits]
  refine ⟨_, rfl, rfl, ?_⟩
  rw [State.core_modCore_same, gate_counted hFits]
  exact ⟨if_pos rfl, fun g hg => if_neg hg, fun k hk => State.core_modCore_other _ _ hk, rfl⟩

/-- Settles O11: a wait that ends is accounted for and its bundle done, an increment is counted in its gate or faults, and a send
joins those in flight. -/
theorem gateCounts : Obligations.GateCounts := ⟨gateWaits, gateIncrements, gateSends, incrementArrives⟩

end Sys2Proof.Machine
end

section
/-! PROOFS. Phase hints, planned slack, wait stage 2, pre-boosts, pause frames and pace windows. -/

namespace Sys2Proof.Machine

/-! ## Phase hints and planned slack (R146, R147) -/

theorem nearCore_sendIntents (s : State) (lcs : List Nat) (lead kind lc : Nat) : NearCore s (sendIntents s lcs lead kind) lc := by
  obtain ⟨_, _, _, h⟩ := sendIntents_intentsOnly s lcs lead kind
  rw [h]
  exact ⟨rfl, fun _ _ => rfl⟩

@[simp] theorem core_sendIntents (s : State) (lcs : List Nat) (lead kind k : Nat) : (sendIntents s lcs lead kind).core k = s.core k := by
  obtain ⟨_, _, _, h⟩ := sendIntents_intentsOnly s lcs lead kind
  rw [h]
  rfl

/-- The core with the hint that `imm` spells, in place of an earlier one and of its pre-boost. -/
def Core.hinted (c : Core) (imm : Half) : Core :=
  { c with seq := { c.seq with phase := some (imm.toNat % 16, 16 * (imm.toNat / 16)), preboost := 0 } }

/-- Outside wait stage 2 the hint is recorded, and intent frames may go out before the bundle is done. -/
theorem exec_gphase_of_slotFree {s : State} {lc : Lc} (hFree : SlotFree s lc) (hStage : (s.core lc).seq.stage2 = false) (imm : Half) :
    exec (.gphase lc imm) s = .next ((sendIntents (s.modCore lc (fun c => c.hinted imm)) [lc.val]
      (hintLead (16 * (imm.toNat / 16)) (s.clk (regionOf (clusterOf lc))).now) 0).modCore lc Core.endBundle) := by
  refine (slotIssue_of_slotFree hFree).trans ?_
  rw [if_neg (by simp [hStage])]
  rfl

theorem exec_gpause_of_slotFree {s : State} {lc : Lc} (hFree : SlotFree s lc) (n : BitVec 24) : exec (.gpause lc n) s =
    .next (s.modCore lc (fun c => { c.endBundle with seq := { c.endBundle.seq with pauseLeft := n.toNat } })) :=
  slotIssue_of_slotFree hFree

theorem exec_gpauseEnd (lc : Lc) (s : State) : exec (.gpauseEnd lc) s = .next (s.modCore lc (fun c => c.slack c.seq.pauseLeft)) := rfl

/-- Non-active cycles move the level and its counts alone (R95). -/
theorem ArrayState.pass_eq (a : ArrayState) (linger n : Nat) : a.pass linger n = { a with
    level := (a.pass linger n).level, rising := (a.pass linger n).rising, fresh := (a.pass linger n).fresh
    quiet := (a.pass linger n).quiet, riseCyc := (a.pass linger n).riseCyc } := by
  unfold ArrayState.pass
  split
  · rfl
  · split <;> rfl

/-- Planned slack counts in `PACE_CYC` and in no other counter of the core (R147). -/
theorem Core.slack_eq {c : Core} (h : c.dead = false) (n : Nat) : c.slack n = { c with
    arr := { c.arr with
      level := (c.slack n).arr.level, rising := (c.slack n).arr.rising, fresh := (c.slack n).arr.fresh
      quiet := (c.slack n).arr.quiet, riseCyc := (c.slack n).arr.riseCyc, port := (c.slack n).arr.port, load := (c.slack n).arr.load }
    seq := { c.seq with pauseLeft := 0, cycle := c.seq.cycle + n, cyc := bump c.seq.cyc n } } := by
  unfold Core.slack
  rw [h, ArrayState.pass_eq]
  rfl

theorem phaseAndSlack : PhaseAndSlack := by
  intro s lc imm n
  refine ⟨fun hFree hStage => ?_, fun hFree => ?_, fun hDead => ?_⟩
  · refine ⟨_, exec_gphase_of_slotFree hFree hStage imm, ?_, ?_⟩
    · exact ((nearCore_modCore s lc _).trans (nearCore_sendIntents _ _ _ _ lc)).trans (nearCore_modCore _ lc _)
    rw [State.core_modCore_same, core_sendIntents, State.core_modCore_same]
    exact ⟨rfl, SameBundle.done ⟨_, _, _, _, _, _, _, _, _, rfl⟩ hFree.1⟩
  · refine ⟨_, exec_gpause_of_slotFree hFree n, onlyCore_modCore s lc _, ?_⟩
    rw [State.core_modCore_same]
    exact ⟨rfl, bundleDone_endBundle hFree.1⟩
  · refine ⟨_, exec_gpauseEnd lc s, onlyCore_modCore s lc _, ?_⟩
    rw [State.core_modCore_same]
    exact ⟨rfl, Core.slack_eq hDead _⟩

/-! ## Wait stage 2 and pre-boosts (R156, R399, R411) -/

theorem exec_waitStage2_of_due {s : State} {lc : Lc} {j : Job} (hJob : s.jobOf lc = some j) (hDrop : j.vdrop = true)
    (hCyc : 1024 ≤ (s.core lc).seq.stage1Cyc) (hWait : 0 < (s.core lc).seq.gwaitLen) (hLoads : (s.core lc).seq.segLoads = [])
    (hIdle : ∀ e ∈ (s.core lc).mov.movers, e.2.queue = [] ∧ e.2.active = none) : exec (.waitStage2 lc) s =
      .next (s.modCore lc (fun c => { c with seq := { c.seq with stage2 := true, preboost := 0 } })) :=
  if_pos (by simpa [hJob, hDrop, hCyc, hWait, hLoads] using fun a b h => hIdle (a, b) h)

theorem exec_preboostStart_of_heavier {s : State} {lc : Lc} {a : Fin 16} {new cycles : Nat}
    (hPhase : (s.core lc).seq.phase = some (new, cycles)) (hHeavier : a.val < new) (hStage : (s.core lc).seq.stage2 = false)
    (hPower : s.corePowered lc = true) : exec (.preboostStart lc a) s =
      .next (s.modCore lc (fun c => { c with seq := { c.seq with preboost := s.preboostMv * (new - a.val) } })) := by
  have hExec : exec (.preboostStart lc a) s = execPreboostStart lc a s := rfl
  rw [hExec]
  unfold execPreboostStart
  simp only [hPhase, hStage, hPower, Nat.not_le.mpr hHeavier, decide_false, Bool.or_self, Bool.not_true, Bool.false_eq_true, if_false]

theorem exec_preboostEnd (lc : Lc) (s : State) : exec (.preboostEnd lc) s =
    .next (s.modCore lc (fun c => { c with seq := { c.seq with preboost := 0, phase := none } })) := rfl

theorem waitAndBoost : WaitAndBoost := by
  intro s lc a new cycles j
  refine ⟨fun hJob hDrop hCyc hWait hLoads hIdle => ?_, fun hPhase hHeavier hStage hPower => ?_, ?_⟩
  · exact ⟨_, exec_waitStage2_of_due hJob hDrop hCyc hWait hLoads hIdle, onlyCore_modCore s lc _, State.core_modCore_same ..⟩
  · exact ⟨_, exec_preboostStart_of_heavier hPhase hHeavier hStage hPower, onlyCore_modCore s lc _, State.core_modCore_same ..⟩
  · exact ⟨_, exec_preboostEnd lc s, onlyCore_modCore s lc _, State.core_modCore_same ..⟩

/-! ## Pause frames (R155, R416) -/

/-- The core at the beginning of a pause frame whose first `d` cycles are pauses. -/
def Core.beginFrame (c : Core) (d : Nat) : Core := { c with seq := { c.seq with paused := 0 < d, dutyLeft := d } }

/-- A core of the region of a frame begins its pauses, by the duty that the part's loops ask for. -/
def beginFrameAt (s : State) (lc : Nat) : State := s.modCore lc (fun c => c.beginFrame (16 * s.duty lc))

theorem exec_pauseDutyFrame (r : Fin 5) (s : State) : exec (.pauseDutyFrame r) s =
    .next ((((s.jobs.filter Job.isRunning).flatMap Job.cores).filter (fun lc => regionOf (clusterOf lc) = r.val)).foldl beginFrameAt s) :=
  rfl

/-- The duty is no part of any core. -/
@[simp] theorem duty_beginFrameAt (s : State) (lc k : Nat) : (beginFrameAt s lc).duty k = s.duty k := rfl

theorem core_beginFrameAt (s : State) (lc k : Nat) :
    (beginFrameAt s lc).core k = if k = lc then (s.core k).beginFrame (16 * s.duty k) else s.core k := by
  unfold beginFrameAt
  split
  next hSame => rw [hSame, State.core_modCore_same]
  next hOther => exact State.core_modCore_other s _ hOther

/-- A core that several jobs name begins the same frame again. -/
theorem core_foldl_beginFrameAt (l : List Nat) (s : State) (k : Nat) :
    (l.foldl beginFrameAt s).core k = if k ∈ l then (s.core k).beginFrame (16 * s.duty k) else s.core k := by
  induction l generalizing s with
  | nil => simp
  | cons lc l ih =>
    rw [List.foldl_cons, ih, duty_beginFrameAt, core_beginFrameAt]
    by_cases hSame : k = lc
    · simp only [hSame, if_true, List.mem_cons, true_or]
      split <;> rfl
    · simp only [hSame, if_false, List.mem_cons, false_or]

theorem foldl_beginFrameAt_eq (l : List Nat) (s : State) : l.foldl beginFrameAt s = { s with cores := (l.foldl beginFrameAt s).cores } :=
  List.foldlRecOn (motive := fun t : State => t = { s with cores := t.cores }) l beginFrameAt rfl
    (fun t ht lc _ => by rw [ht]; rfl)

theorem pauseFrames : PauseFrames := by
  intro s r
  refine ⟨_, exec_pauseDutyFrame r s, foldl_beginFrameAt_eq _ s, fun lc => ?_⟩
  rw [core_foldl_beginFrameAt]
  refine if_congr ?_ rfl rfl
  simp [List.mem_filter, List.mem_flatMap, and_assoc]

/-! ## Pace windows (R158) -/

/-- What a window keeps of core `lc`: its counters, and its run of lagging windows. -/
def windowRec (s : State) (lc : Nat) : PaceRec :=
  let c := (s.core lc).seq
  let p := Tbl.get PaceRec.init s.pace lc
  let dc := advance c.cyc p.cyc
  { cyc := c.cyc.toNat, lag := c.lag.toNat, rwait := c.rwait.toNat
    run := if dc = 0 then p.run
      else if s.paceSetting 1 16384 * dc ≤ advance c.lag p.lag * 65536 ∧ advance c.rwait p.rwait * 65536 ≤ s.paceSetting 2 1311 * dc
      then p.run + 1 else 0 }

/-- What the evaluation of a core may write beside its record: reports, a site's mark of slowness and a pending change of its row. -/
def PaceReported (s t : State) : Prop :=
  ∃ sites rows ev ks ns, t = { s with sites := sites, rowPending := rows, events := ev, ksk := ks, notes := ns }

theorem PaceReported.refl (s : State) : PaceReported s s := ⟨s.sites, s.rowPending, s.events, s.ksk, s.notes, rfl⟩

theorem PaceReported.trans {s t u : State} (h : PaceReported s t) (h' : PaceReported t u) : PaceReported s u := by
  obtain ⟨_, _, _, _, _, rfl⟩ := h
  obtain ⟨_, _, _, _, _, rfl⟩ := h'
  exact ⟨_, _, _, _, _, rfl⟩

theorem PaceReported.rowChange {s t : State} (h : PaceReported s t) (i cl : Nat) (f : SiteRec → SiteRec) :
    PaceReported s { t.modSite i f with rowPending := Tbl.set false (t.modSite i f).rowPending cl true } :=
  h.trans ⟨_, _, t.events, t.ksk, t.notes, rfl⟩

theorem paceEvent_paceReported (s : State) (j : Job) (lc sub lam rho run : Nat) : PaceReported s (paceEvent s j lc sub lam rho run) := by
  obtain ⟨_, _, _, h⟩ := healthEvent_reported s 1 sub _
  exact ⟨s.sites, s.rowPending, _, _, _, h⟩

/-- The evaluation of a core keeps its record of the window, and may report it as slow (R158). -/
theorem paceCore_reported (s : State) (j : Job) (lc : Nat) :
    PaceReported { s with pace := Tbl.set PaceRec.init s.pace lc (windowRec s lc) } (paceCore s j lc) := by
  unfold paceCore
  extract_lets c p dc dl dr lagging run kept s₁ lam rho s₂
  have hLagging : lagging = true ↔ s.paceSetting 1 16384 * dc ≤ dl * 65536 ∧ dr * 65536 ≤ s.paceSetting 2 1311 * dc := by
    rw [Bool.and_eq_true, decide_eq_true_iff, decide_eq_true_iff]
  have hRun : (windowRec s lc).run = run := if_congr Iff.rfl rfl (if_congr hLagging.symm rfl rfl)
  have hKept : windowRec s lc = kept := congrArg (PaceRec.mk c.seq.cyc.toNat c.seq.lag.toNat c.seq.rwait.toNat) hRun
  have hEvent : PaceReported s₁ s₂ := by
    unfold s₂
    split
    · exact paceEvent_paceReported ..
    · exact .refl s₁
  rw [hKept]
  split
  · exact .refl s₁
  · split
    · split
      · exact hEvent
      · split
        · exact (hEvent.rowChange _ _ _).trans (paceEvent_paceReported ..)
        · exact hEvent.trans (paceEvent_paceReported ..)
    · exact hEvent

theorem PaceReported.pace {s t : State} (h : PaceReported s t) : t.pace = s.pace := by
  obtain ⟨_, _, _, _, _, rfl⟩ := h
  rfl

/-- What a window keeps of a core is no matter of the other cores' evaluation. -/
theorem windowRec_paceCore_other (s : State) (j : Job) {lc k : Nat} (h : k ≠ lc) : windowRec (paceCore s j lc) k = windowRec s k := by
  obtain ⟨_, _, _, _, _, hState⟩ := paceCore_reported s j lc
  have hPace : Tbl.get PaceRec.init (paceCore s j lc).pace k = Tbl.get PaceRec.init s.pace k := by
    rw [(paceCore_reported s j lc).pace, Tbl.get_set_other _ _ _ h]
  unfold windowRec
  rw [hPace, hState]
  rfl

/-- A window keeps a record of each core of the job once. -/
theorem pace_foldl_paceCore (j : Job) {l : List Nat} (hl : l.Nodup) (s : State) (k : Nat) :
    Tbl.get PaceRec.init (l.foldl (fun s lc => paceCore s j lc) s).pace k =
      if k ∈ l then windowRec s k else Tbl.get PaceRec.init s.pace k := by
  induction l generalizing s with
  | nil => simp
  | cons lc l ih =>
    obtain ⟨hNotin, hl⟩ := List.nodup_cons.mp hl
    rw [List.foldl_cons, ih hl, (paceCore_reported s j lc).pace, Tbl.get_set]
    by_cases hSame : k = lc
    · subst hSame
      simp only [hNotin, if_false, if_true, List.mem_cons, true_or]
    · rw [windowRec_paceCore_other s j hSame]
      simp only [hSame, if_false, List.mem_cons, false_or]

/-- The evaluation of a core changes no core, no job and no byte of memory. -/
theorem PaceReported.keeps {s t : State} {pace : Tbl PaceRec} (h : PaceReported { s with pace := pace } t) :
    t.cores = s.cores ∧ t.jobs = s.jobs ∧ t.mem = s.mem := by
  obtain ⟨_, _, _, _, _, rfl⟩ := h
  exact ⟨rfl, rfl, rfl⟩

theorem foldl_paceCore_keeps (j : Job) (l : List Nat) (s : State) : (l.foldl (fun s lc => paceCore s j lc) s).cores = s.cores ∧
    (l.foldl (fun s lc => paceCore s j lc) s).jobs = s.jobs ∧ (l.foldl (fun s lc => paceCore s j lc) s).mem = s.mem := by
  induction l generalizing s with
  | nil => exact ⟨rfl, rfl, rfl⟩
  | cons lc l ih =>
    obtain ⟨hCores, hJobs, hMem⟩ := (paceCore_reported s j lc).keeps
    rw [List.foldl_cons, ← hCores, ← hJobs, ← hMem]
    exact ih _

theorem exec_paceWindow_of_one {s : State} {j : Job} (hJobs : s.jobs = [j]) (hRunning : j.isRunning = true) :
    exec .paceWindow s = .next (j.cores.foldl (fun s lc => paceCore s j lc) s) := by
  have hExec : exec .paceWindow s = execPaceWindow s := rfl
  rw [hExec, execPaceWindow, hJobs, List.filter_cons_of_pos hRunning, List.filter_nil, List.foldl_cons, List.foldl_nil]

theorem Job.nodup_cores (j : Job) : j.cores.Nodup := List.nodup_range.filter _

theorem paceWindows : PaceWindows := by
  intro s j hJobs hRunning
  obtain ⟨hCores, hJobsKept, hMem⟩ := foldl_paceCore_keeps j j.cores s
  refine ⟨_, exec_paceWindow_of_one hJobs hRunning, hCores, hJobsKept, hMem, fun lc hlc => ?_⟩
  rw [pace_foldl_paceCore j j.nodup_cores, if_pos hlc]
  exact ⟨rfl, rfl, rfl, rfl⟩

/-- Settles O14: hints, slack, stages and pre-boosts each change one core; a pause frame begins on the cores that running jobs have in
its region, and a window keeps one record of each core of its job. -/
theorem pacingAndPauses : Obligations.PacingAndPauses := ⟨phaseAndSlack, waitAndBoost, pauseFrames, paceWindows⟩

end Sys2Proof.Machine
end

section
/-! PROOFS. The memories' canonical form as a property of states and answers, and how it passes through updates and folds. -/

namespace Sys2Proof.Machine

open Sys2Proof

variable {s : State}

/-- Device memory and the memory of the host have the canonical form. -/
def MemoryOk (s : State) : Prop := Memory.wf s.mem = true ∧ Tbl.wf 0 s.hostMem = true

/-- The next state of an answer, if it has one, keeps the form. -/
@[irreducible] def OutOk : Out → Prop
  | .next t => MemoryOk t
  | _ => True

/-- The state that a host command's act leaves, if it leaves one, keeps the form. -/
@[irreducible] def ActOk : Act → Prop
  | .done t .. => MemoryOk t
  | .later t => MemoryOk t
  | .wait => True
  | .waits t => MemoryOk t

theorem OutOk.next_iff : OutOk (.next s) ↔ MemoryOk s := by rw [OutOk]

theorem OutOk.next (h : MemoryOk s) : OutOk (.next s) := next_iff.mpr h

theorem ActOk.done_iff {n : Nat} {i : Bool} {a b : Nat} : ActOk (.done s n i a b) ↔ MemoryOk s := by rw [ActOk]

theorem ActOk.later_iff : ActOk (.later s) ↔ MemoryOk s := by rw [ActOk]

theorem ActOk.waits_iff : ActOk (.waits s) ↔ MemoryOk s := by rw [ActOk]

theorem ActOk.wait : ActOk .wait := by rw [ActOk]; trivial

theorem ActOk.done {n : Nat} {i : Bool} {a b : Nat} (h : MemoryOk s) : ActOk (.done s n i a b) := done_iff.mpr h

theorem ActOk.later (h : MemoryOk s) : ActOk (.later s) := later_iff.mpr h

theorem ActOk.waits (h : MemoryOk s) : ActOk (.waits s) := waits_iff.mpr h

protected theorem MemoryOk.fst {α : Type} {x : α} (h : MemoryOk s) : MemoryOk (s, x).1 := h

protected theorem MemoryOk.snd {α : Type} {x : α} (h : MemoryOk s) : MemoryOk (x, s).2 := h

theorem MemoryOk.of_snd {α : Type} {p : α × State} {a : α} (h : MemoryOk p.2) (hp : p = (a, s)) : MemoryOk s := by
  rw [hp] at h
  exact h

protected theorem MemoryOk.ite {c : Prop} [Decidable c] {t : State} (hs : MemoryOk s) (ht : MemoryOk t) :
    MemoryOk (if c then s else t) := by
  split <;> assumption

protected theorem OutOk.ite {c : Prop} [Decidable c] {s t : Out} (hs : OutOk s) (ht : OutOk t) : OutOk (if c then s else t) := by
  split <;> assumption

protected theorem ActOk.ite {c : Prop} [Decidable c] {s t : Act} (hs : ActOk s) (ht : ActOk t) : ActOk (if c then s else t) := by
  split <;> assumption

protected theorem MemoryOk.foldl {α : Type} {f : State → α → State} (hf : ∀ s a, MemoryOk s → MemoryOk (f s a)) {l : List α}
    (h : MemoryOk s) : MemoryOk (l.foldl f s) :=
  List.foldlRecOn l f h fun s hs a _ => hf s a hs

theorem MemoryOk.foldlBy {α β : Type} (st : β → State) {f : β → α → β} (hf : ∀ b a, MemoryOk (st b) → MemoryOk (st (f b a)))
    {l : List α} {b : β} (h : MemoryOk (st b)) : MemoryOk (st (l.foldl f b)) :=
  List.foldlRecOn (motive := fun b => MemoryOk (st b)) l f h fun b hb a _ => hf b a hb

section Update

variable {cores : Tbl Core} {sites : Tbl SiteRec} {jobs : List Job} {pace : Tbl PaceRec} {sends : List Send} {blames : List Blame}
    {orgs : Tbl Stack} {boot : Boot} {flash : Flash} {hlt : Health} {mgmt : Mgmt} {owner : List OwnerCopy} {ksk : Kiosk}
    {clusters : Tbl Word} {rowPending : Tbl Bool} {regions : Tbl ClockRegion} {bundles : Tbl Bundle} {seams : Tbl SeamHealth}
    {retunes : List Nat} {ptn : Tbl PtnNode} {busy : List Nat} {pwr : Power} {thm : Thermal} {settings : Tbl (Option Nat)}
    {rst : Option ResetRun} {tr : Trellis} {hif : Hif} {sv : Tbl (Option Binding)} {trn : Tbl Training} {cuffs : Tbl Cuff}
    {fab : Fabric} {hostBad : Tbl Bool} {notes : NoteState} {events : EventState} {ticks : Nat} {held : List Instr} {draws : Nat}
    {pending : List Instr}

/-- An update of any fields but the two memories. -/
protected theorem MemoryOk.update (h : MemoryOk s) :
    MemoryOk { s with cores, sites, jobs, pace, sends, blames, orgs, boot, flash, hlt, mgmt, owner, ksk, clusters, rowPending,
                      regions, bundles, seams, retunes, ptn, busy, pwr, thm, settings, rst, tr, hif, sv, trn, cuffs, fab,
                      hostBad, notes, events, ticks, held, draws, pending } := h

/-- An update that leaves the bytes of device memory. -/
protected theorem MemoryOk.updateMem {m : MemState} (hm : m.bytes = s.mem.bytes) (h : MemoryOk s) :
    MemoryOk { s with cores, sites, jobs, pace, sends, blames, orgs, boot, flash, hlt, mgmt, owner, ksk, clusters, rowPending,
                      regions, bundles, seams, retunes, ptn, busy, pwr, thm, settings, rst, tr, hif, sv, trn, cuffs, fab,
                      hostBad, notes, events, ticks, held, draws, pending, mem := m } := by
  unfold MemoryOk Memory.wf
  rw [hm]
  exact h

/-- An update with a device memory in the form. -/
protected theorem MemoryOk.setMem {m : MemState} (hm : Tbl.wf 0 m.bytes = true) (h : MemoryOk s) :
    MemoryOk { s with cores, sites, jobs, pace, sends, blames, orgs, boot, flash, hlt, mgmt, owner, ksk, clusters, rowPending,
                      regions, bundles, seams, retunes, ptn, busy, pwr, thm, settings, rst, tr, hif, sv, trn, cuffs, fab,
                      hostBad, notes, events, ticks, held, draws, pending, mem := m } := ⟨hm, h.2⟩

/-- An update with a host memory in the form. -/
protected theorem MemoryOk.setHostMem {m : Tbl Byte} (hm : Tbl.wf 0 m = true) (h : MemoryOk s) :
    MemoryOk { s with cores, sites, jobs, pace, sends, blames, orgs, boot, flash, hlt, mgmt, owner, ksk, clusters, rowPending,
                      regions, bundles, seams, retunes, ptn, busy, pwr, thm, settings, rst, tr, hif, sv, trn, cuffs, fab,
                      hostBad, notes, events, ticks, held, draws, pending, hostMem := m } := ⟨h.1, hm⟩

end Update

/-- The state of an optional answer keeps the form. -/
def OptOk : Option State → Prop
  | none => True
  | some t => MemoryOk t

protected theorem OptOk.none : OptOk none := trivial

protected theorem OptOk.some (h : MemoryOk s) : OptOk (some s) := h

theorem OptOk.of_eq {o : Option State} (h : OptOk o) (ho : o = Option.some s) : MemoryOk s := by
  rw [ho] at h
  exact h

protected theorem OptOk.getD {o : Option State} (ho : OptOk o) (h : MemoryOk s) : MemoryOk (o.getD s) := by
  cases o with
  | none => exact h
  | some t => exact ho

protected theorem OptOk.map {f : State → State} (hf : ∀ s, MemoryOk s → MemoryOk (f s)) {o : Option State} (ho : OptOk o) :
    OptOk (o.map f) := by
  cases o with
  | none => trivial
  | some t => exact hf t ho

protected theorem OptOk.findSome? {α : Type} {f : α → Option State} (hf : ∀ a, OptOk (f a)) {l : List α} :
    OptOk (l.findSome? f) := by
  induction l with
  | nil => trivial
  | cons a l ih =>
    rw [List.findSome?_cons]
    cases ha : f a with
    | none => exact ih
    | some t => exact (congrArg OptOk ha).mp (hf a)

protected theorem OptOk.or {o p : Option State} (ho : OptOk o) (hp : OptOk p) : OptOk (o.or p) := by
  cases o with
  | none => exact hp
  | some t => exact ho

protected theorem OptOk.ite {c : Prop} [Decidable c] {m n : Option State} (hm : OptOk m) (hn : OptOk n) :
    OptOk (if c then m else n) := by
  split <;> assumption

/-- The state with which an access to the Orangery waits keeps the form. -/
def AccessOk : OrgAccess → Prop
  | .wait t => MemoryOk t
  | _ => True

theorem AccessOk.wait (h : MemoryOk s) : AccessOk (.wait s) := h

theorem AccessOk.of_eq {a : OrgAccess} (h : AccessOk a) (ha : a = .wait s) : MemoryOk s := by
  rw [ha] at h
  exact h

protected theorem AccessOk.ite {c : Prop} [Decidable c] {a b : OrgAccess} (ha : AccessOk a) (hb : AccessOk b) :
    AccessOk (if c then a else b) := by
  split <;> assumption

/-- The state that a step of a bank unit leaves keeps the form. -/
def UnitOk : UnitStep → Prop
  | .ok t _ _ => MemoryOk t
  | .wait t _ => MemoryOk t
  | .suspended t => MemoryOk t
  | .fail t _ _ => MemoryOk t
  | .done t => MemoryOk t

section

variable {x : BUnit} {j : Option Int} {u : UnitState} {n : Nat} {w : Word}

theorem UnitOk.of_ok {a : UnitStep} (h : UnitOk a) (ha : a = .ok s x j) : MemoryOk s := by
  rw [ha] at h
  exact h

theorem UnitOk.of_wait {a : UnitStep} (h : UnitOk a) (ha : a = .wait s u) : MemoryOk s := by
  rw [ha] at h
  exact h

theorem UnitOk.of_suspended {a : UnitStep} (h : UnitOk a) (ha : a = .suspended s) : MemoryOk s := by
  rw [ha] at h
  exact h

theorem UnitOk.of_fail {a : UnitStep} (h : UnitOk a) (ha : a = .fail s n w) : MemoryOk s := by
  rw [ha] at h
  exact h

theorem UnitOk.of_done {a : UnitStep} (h : UnitOk a) (ha : a = .done s) : MemoryOk s := by
  rw [ha] at h
  exact h

theorem UnitOk.ok (h : MemoryOk s) : UnitOk (.ok s x j) := h

theorem UnitOk.wait (h : MemoryOk s) : UnitOk (.wait s u) := h

theorem UnitOk.suspended (h : MemoryOk s) : UnitOk (.suspended s) := h

theorem UnitOk.fail (h : MemoryOk s) : UnitOk (.fail s n w) := h

theorem UnitOk.done (h : MemoryOk s) : UnitOk (.done s) := h

end

protected theorem UnitOk.ite {c : Prop} [Decidable c] {a b : UnitStep} (ha : UnitOk a) (hb : UnitOk b) :
    UnitOk (if c then a else b) := by
  split <;> assumption

/-- The state that the answer to a post leaves keeps the form. -/
def AnsOk : PostAns → Prop
  | .ok t => MemoryOk t
  | .refused t _ => MemoryOk t
  | .full t => MemoryOk t

theorem AnsOk.of_ok {a : PostAns} (h : AnsOk a) (ha : a = .ok s) : MemoryOk s := by
  rw [ha] at h
  exact h

theorem AnsOk.of_refused {a : PostAns} {n : Nat} (h : AnsOk a) (ha : a = .refused s n) : MemoryOk s := by
  rw [ha] at h
  exact h

theorem AnsOk.of_full {a : PostAns} (h : AnsOk a) (ha : a = .full s) : MemoryOk s := by
  rw [ha] at h
  exact h

theorem AnsOk.ok (h : MemoryOk s) : AnsOk (.ok s) := h

theorem AnsOk.refused {n : Nat} (h : MemoryOk s) : AnsOk (.refused s n) := h

theorem AnsOk.full (h : MemoryOk s) : AnsOk (.full s) := h

protected theorem AnsOk.ite {c : Prop} [Decidable c] {a b : PostAns} (ha : AnsOk a) (hb : AnsOk b) : AnsOk (if c then a else b) := by
  split <;> assumption

/-- The state with which a landing is held keeps the form. -/
def LandingOk : Landing → Prop
  | .hold t => MemoryOk t
  | _ => True

theorem LandingOk.hold (h : MemoryOk s) : LandingOk (.hold s) := h

theorem LandingOk.of_eq {a : Landing} (h : LandingOk a) (ha : a = .hold s) : MemoryOk s := by
  rw [ha] at h
  exact h

protected theorem LandingOk.ite {c : Prop} [Decidable c] {a b : Landing} (ha : LandingOk a) (hb : LandingOk b) :
    LandingOk (if c then a else b) := by
  split <;> assumption

theorem OutOk.of_eq {o : Out} (h : OutOk o) (ho : o = .next s) : MemoryOk s := by
  rwa [ho, next_iff] at h

/-- A serving action passes the form on, whatever view it starts from. -/
def SvOk {α : Type} (m : SvM α) : Prop := ∀ v, MemoryOk v.st → MemoryOk (m v).2.st

section Sv

variable {α β : Type}

protected theorem SvOk.pure {a : α} : SvOk (pure a) := fun _ h => h

protected theorem SvOk.bind {m : SvM α} {f : α → SvM β} (hm : SvOk m) (hf : ∀ a, SvOk (f a)) : SvOk (m >>= f) :=
  fun v h => hf (m v).1 (m v).2 (hm v h)

protected theorem SvOk.ite {c : Prop} [Decidable c] {m n : SvM α} (hm : SvOk m) (hn : SvOk n) : SvOk (if c then m else n) := by
  split <;> assumption

protected theorem SvOk.forIn {f : α → β → SvM (ForInStep β)} (hf : ∀ a b, SvOk (f a b)) {l : List α} {b : β} :
    SvOk (forIn l b f) := by
  induction l generalizing b with
  | nil => exact .pure
  | cons a l ih =>
    rw [List.forIn_cons]
    refine .bind (hf a b) fun r => ?_
    cases r with
    | done => exact .pure
    | yield => exact ih

protected theorem SvOk.forM {f : α → SvM PUnit} (hf : ∀ a, SvOk (f a)) {l : List α} : SvOk (l.forM f) := by
  induction l with
  | nil => exact .pure
  | cons a l ih => exact .bind (hf a) fun _ => ih

protected theorem SvOk.foldlM {f : β → α → SvM β} (hf : ∀ b a, SvOk (f b a)) {l : List α} {b : β} : SvOk (l.foldlM f b) := by
  induction l generalizing b with
  | nil => exact .pure
  | cons a l ih => exact .bind (hf b a) fun _ => ih

protected theorem SvOk.mapM {f : α → SvM β} (hf : ∀ a, SvOk (f a)) {l : List α} : SvOk (l.mapM f) := by
  induction l with
  | nil => exact .pure
  | cons a l ih => rw [List.mapM_cons]; exact .bind (hf a) fun _ => .bind ih fun _ => .pure

protected theorem SvOk.anyM {f : α → SvM Bool} (hf : ∀ a, SvOk (f a)) {l : List α} : SvOk (l.anyM f) := by
  induction l with
  | nil => exact .pure
  | cons a l ih =>
    refine .bind (hf a) fun b => ?_
    cases b with
    | false => exact ih
    | true => exact .pure

protected theorem SvOk.filterMapM {f : α → SvM (Option β)} (hf : ∀ a, SvOk (f a)) {l : List α} : SvOk (l.filterMapM f) := by
  have hLoop : ∀ (l : List α) (bs : List β), SvOk (List.filterMapM.loop f l bs) := by
    intro l
    induction l with
    | nil => exact fun _ => .pure
    | cons a l ih =>
      refine fun bs => .bind (hf a) fun o => ?_
      cases o with
      | none => exact ih bs
      | some b => exact ih (b :: bs)
  exact hLoop l []

end Sv

end Sys2Proof.Machine
end

section
/-! PROOFS. The memories keep their canonical form: the accesses to the state and to memory. -/

namespace Sys2Proof.Machine

open Sys2Proof

variable {s : State}

protected theorem MemoryOk.setCore {lc : Nat} {c : Core} (h : MemoryOk s) : MemoryOk (s.setCore lc c) := h

protected theorem MemoryOk.modCore {lc : Nat} {f : Core → Core} (h : MemoryOk s) : MemoryOk (s.modCore lc f) := .setCore h

protected theorem MemoryOk.modSite {i : Nat} {f : SiteRec → SiteRec} (h : MemoryOk s) : MemoryOk (s.modSite i f) := h

protected theorem MemoryOk.modJob {node : Nat} {f : Job → Job} (h : MemoryOk s) : MemoryOk (s.modJob node f) := h

protected theorem MemoryOk.notify {cls : Nat} {payload : List Byte} (h : MemoryOk s) : MemoryOk (notify s cls payload) := h

protected theorem MemoryOk.sendMctp {i3c : Bool} {dst : Byte} {b : MctpBody} (h : MemoryOk s) : MemoryOk (sendMctp s i3c dst b) :=
  h

protected theorem MemoryOk.keepEvents (h : MemoryOk s) : MemoryOk (keepEvents s) := .ite h h

protected theorem MemoryOk.queueEvent {e : PldmEvent} (h : MemoryOk s) : MemoryOk (queueEvent s e) := by
  unfold queueEvent
  split
  · exact .sendMctp h
  · exact .keepEvents h

protected theorem MemoryOk.healthEvent {cls sub : Nat} {payload : List Byte} (h : MemoryOk s) :
    MemoryOk (healthEvent s cls sub payload) :=
  .notify (.queueEvent h)

protected theorem MemoryOk.healthEventLimited {cls sub subject limit : Nat} {payload : List Byte} (h : MemoryOk s) :
    MemoryOk (healthEventLimited s cls sub subject limit payload) :=
  .ite h (.healthEvent h)

protected theorem MemoryOk.modStack {k : Nat} {f : Stack → Stack} (h : MemoryOk s) : MemoryOk (s.modStack k f) := h

protected theorem MemoryOk.broadcast (h : MemoryOk s) : MemoryOk (broadcast s) := h

protected theorem MemoryOk.hold {i : Instr} (h : MemoryOk s) : MemoryOk (s.hold i) := h

protected theorem OutOk.slotIssue {i : Instr} {lc : Nat} {wait : Bool} {count : Core → Core} {act : State} (h : MemoryOk s)
    (hAct : MemoryOk act) : OutOk (slotIssue i lc s wait count act) :=
  .ite (.next h) (.ite (.next (.hold h)) (.ite (.next (.hold (.modCore h))) (.next hAct)))

protected theorem MemoryOk.faultCore {lc source code bundle : Nat} {aux : Word} (h : MemoryOk s) :
    MemoryOk (faultCore s lc source code bundle aux) := by
  unfold faultCore
  split
  · exact .modCore h
  · split
    · exact h
    · exact h
    · exact .ite h (.modCore h)
    · exact .broadcast (.modJob (.modCore h))

protected theorem MemoryOk.incGate {lc g n : Nat} {src : IncSrc} (h : MemoryOk s) : MemoryOk (incGate s lc g n src) :=
  .ite (.faultCore h) (.setCore h)

protected theorem MemoryOk.drawn {n : Nat} (h : MemoryOk s) : MemoryOk (s.drawn n) := h

protected theorem MemoryOk.modErr {site : Option Nat} {f : ErrBlock → ErrBlock} (h : MemoryOk s) : MemoryOk (s.modErr site f) := by
  unfold State.modErr
  split <;> exact h

protected theorem MemoryOk.logAdd {corrected : Bool} {entry : List Byte} (h : MemoryOk s) : MemoryOk (logAdd s corrected entry) :=
  .ite h h

protected theorem MemoryOk.logError {da cls req pos pattern flags : Nat} {lc : Option Nat} {syn : Nat} (h : MemoryOk s) :
    MemoryOk (logError s da cls req pos pattern flags lc syn) :=
  .ite (.ite h (.logAdd h)) (.ite (.healthEvent (.notify (.logAdd h))) (.ite (.healthEventLimited (.logAdd h)) (.ite
    (.healthEvent (.logAdd h)) (.logAdd h))))

protected theorem MemoryOk.countCe {da : Nat} (h : MemoryOk s) : MemoryOk (countCe s da) := .modErr h

protected theorem MemoryOk.countUe {da syn : Nat} (h : MemoryOk s) : MemoryOk (countUe s da syn) := .modErr h

protected theorem MemoryOk.countPoison {da syn : Nat} {lc : Option Nat} (h : MemoryOk s) : MemoryOk (countPoison s da syn lc) :=
  .modErr h

protected theorem MemoryOk.noteCorrected {da req pos pattern : Nat} {lc : Option Nat} {syn : Nat} (h : MemoryOk s) :
    MemoryOk (noteCorrected s da req pos pattern lc syn) :=
  .ite (.logError (.modErr (.updateMem rfl (.countCe h)))) (.logError (.updateMem rfl (.countCe h)))

protected theorem MemoryOk.setValid {l : Nat} (h : MemoryOk s) : MemoryOk (setValid s l) := .ite h h

protected theorem MemoryOk.cancelBacks {lo hi : Nat} (h : MemoryOk s) : MemoryOk (cancelBacks s lo hi) :=
  .foldl (fun _ _ h => .modErr h) h

protected theorem MemoryOk.poisonDram {w : Nat} (h : MemoryOk s) : MemoryOk (poisonDram s w) :=
  .setMem (Tbl.wf_setMany 0 _ _ w (MemoryOk.cancelBacks (.setValid h)).1) (.cancelBacks (.setValid h))

protected theorem MemoryOk.poisonSram {a : Nat} (h : MemoryOk s) : MemoryOk (poisonSram s a) :=
  .setMem (Tbl.wf_set 0 _ a _ (MemoryOk.cancelBacks (.setValid h)).1) (.cancelBacks (.setValid h))

protected theorem MemoryOk.poisonLines {l n : Nat} (h : MemoryOk s) : MemoryOk (poisonLines s l n) :=
  .ite (.foldl (fun _ _ h => .poisonDram h) h) (.foldl (fun _ _ h => .poisonSram h) h)

protected theorem MemoryOk.checkMap {req : Nat} {lc : Option Nat} {l : Nat} (h : MemoryOk s) : MemoryOk (checkMap s req lc l) := by
  unfold checkMap
  dsimp only
  split
  · exact h
  · exact .logError h
  · exact .logError (.poisonLines h)

protected theorem MemoryOk.checkMaps {req : Nat} {lc : Option Nat} {lo hi : Nat} (h : MemoryOk s) :
    MemoryOk (checkMaps s req lc lo hi) :=
  .foldl (fun _ _ h => .checkMap h) h

protected theorem MemoryOk.countClose {w : Nat} {rmw : Bool} (h : MemoryOk s) : MemoryOk (countClose s w rmw) :=
  .ite (.modErr h) h

protected theorem MemoryOk.storeWord {w : Nat} {poison : Bool} (h : MemoryOk s) : MemoryOk (storeWord s w poison) := by
  have hCode : MemoryOk (cancelBacks (setValid s (w / 64)) w (w + 1)) := .cancelBacks (.setValid h)
  unfold storeWord
  dsimp only
  split
  · exact .ite hCode hCode
  · exact hCode

protected theorem MemoryOk.reportRmw {e : MergeEntry} {err : List Byte} {d : Decoded} (h : MemoryOk s) :
    MemoryOk (reportRmw s e err d) := by
  cases d with
  | clean => exact h
  | corrected p v => exact .noteCorrected h
  | uncorrectable =>
    dsimp only [reportRmw]
    split
    · exact .faultCore (.modErr (.logError (.countUe h)))
    · exact .modErr (.logError (.countUe h))
  | poisoned =>
    dsimp only [reportRmw]
    split
    · exact .faultCore (.modErr (.logError (.countPoison h)))
    · exact .modErr (.logError (.countPoison h))

protected theorem MemoryOk.closeEntry {e : MergeEntry} (h : MemoryOk s) : MemoryOk (closeEntry s e) := by
  have hOut : MemoryOk { s with mem := { s.mem with merges := s.mem.merges.filter (fun x => x ≠ e) } } := h
  unfold closeEntry
  dsimp only
  split
  · exact .storeWord (.countClose h)
  · split
    · exact .storeWord (.countClose h)
    · have hRead := MemoryOk.reportRmw (e := e) (err := Tbl.get [] s.mem.flaws e.word)
        (d := decodeWord (Tbl.get [] s.mem.flaws e.word)) (MemoryOk.countClose (w := e.word) (rmw := true) hOut)
      exact .storeWord (.setMem (Tbl.wf_setMany 0 _ _ _ hRead.1) hRead)

protected theorem MemoryOk.closeWhere {p : MergeEntry → Bool} (h : MemoryOk s) : MemoryOk (closeWhere s p) :=
  .foldl (fun _ _ h => .closeEntry h) h

protected theorem MemoryOk.mergeWrite {w : Nat} {mask bad : BitVec 32} {lc : Option Nat} (h : MemoryOk s) :
    MemoryOk (mergeWrite s w mask bad lc) := by
  unfold mergeWrite
  split
  · exact .ite (.closeEntry h) h
  · refine .updateMem rfl (.ite ?_ h)
    split
    · exact .closeEntry h
    · exact h

protected theorem MemoryOk.touchWord {lc : Option Nat} {da n : Nat} {bad : List Bool} {w : Nat} (h : MemoryOk s) :
    MemoryOk (touchWord s lc da n bad w) :=
  .ite (.storeWord h) (.mergeWrite h)

protected theorem MemoryOk.placeBytes {da : Nat} {data : List Byte} (h : MemoryOk s) : MemoryOk (placeBytes s da data) :=
  .setMem (Tbl.wf_setMany 0 _ _ da h.1) h

protected theorem MemoryOk.codeBytes {lc : Option Nat} {da n : Nat} {bad : List Bool} (h : MemoryOk s) :
    MemoryOk (codeBytes s lc da n bad) :=
  .ite (.foldl (fun _ _ h => .touchWord h) h) (.updateMem rfl (.cancelBacks (.foldl (fun _ _ h => .setValid h) h)))

protected theorem MemoryOk.memWriteBad {lc : Option Nat} {da : Nat} {data : List Byte} {bad : List Bool} (h : MemoryOk s) :
    MemoryOk (memWriteBad s lc da data bad) :=
  .codeBytes (.placeBytes (.checkMaps h))

protected theorem MemoryOk.memWrite {lc : Option Nat} {da : Nat} {data : List Byte} (h : MemoryOk s) :
    MemoryOk (memWrite s lc da data) :=
  .memWriteBad h

protected theorem MemoryOk.dropLines {lo hi : Nat} (h : MemoryOk s) : MemoryOk (dropLines s lo hi) :=
  .setMem (Tbl.wf_clearRange 0 _ lo hi h.1) h

protected theorem MemoryOk.clearLines {lo hi : Nat} (h : MemoryOk s) : MemoryOk (clearLines s lo hi) :=
  .dropLines (.cancelBacks (.closeWhere (.checkMaps h)))

protected theorem MemoryOk.memClear {lc : Option Nat} {da n : Nat} (h : MemoryOk s) : MemoryOk (memClear s lc da n) :=
  .ite (.ite (.memWrite (.clearLines (.ite (.memWrite h) h))) (.clearLines (.ite (.memWrite h) h))) (.memWrite h)

protected theorem MemoryOk.fetchWord {req : Nat} {lc : Option Nat} {w : Nat} (h : MemoryOk s) :
    MemoryOk (fetchWord s req lc w).2.2 := by
  have hClosed : MemoryOk (closeWhere s (fun e => e.word = w)) := .closeWhere h
  unfold fetchWord
  dsimp only
  split
  · exact hClosed
  · split
    · exact hClosed
    · exact .noteCorrected hClosed
    · exact .logError (.countUe (.poisonDram hClosed))
    · exact .logError (.countPoison hClosed)

protected theorem MemoryOk.fetchByte {req : Nat} {lc : Option Nat} {a : Nat} (h : MemoryOk s) :
    MemoryOk (fetchByte s req lc a).2.2 := by
  unfold fetchByte
  dsimp only
  split
  · exact h
  · split
    · exact h
    · exact .noteCorrected h
    · exact .logError (.countUe (.poisonSram h))
    · exact .logError (.countPoison h)

protected theorem MemoryOk.fetchWords {req : Nat} {lc : Option Nat} {ws : List Nat} (h : MemoryOk s) :
    MemoryOk (fetchWords req lc s ws).st := by
  induction ws generalizing s with
  | nil => exact h
  | cons w ws ih => exact ih (.fetchWord h)

protected theorem MemoryOk.fetchBytes {req : Nat} {lc : Option Nat} {as : List Nat} (h : MemoryOk s) :
    MemoryOk (fetchBytes req lc s as).st := by
  induction as generalizing s with
  | nil => exact h
  | cons a as ih => exact ih (.fetchByte h)

protected theorem MemoryOk.memFetch {req : Nat} {lc : Option Nat} {da n : Nat} (h : MemoryOk s) :
    MemoryOk (memFetch s req lc da n).st := by
  unfold memFetch
  dsimp only
  split
  · exact .fetchWords (.checkMaps h)
  · exact .fetchBytes (.checkMaps h)

protected theorem MemoryOk.poisonFault {lc bundle : Nat} (h : MemoryOk s) : MemoryOk (poisonFault s lc bundle) := .faultCore h

end Sys2Proof.Machine
end

section
/-! PROOFS. The memories keep their canonical form: operands, the array, host commands, sites, stacks, claims and the wire. -/

namespace Sys2Proof.Machine

open Sys2Proof

variable {s : State}

/-- What a read of the feeder store makes of fetched bytes. The bytes stay a variable: the kernel would evaluate a fetch. -/
theorem MemoryOk.storeRead_of_fetched {lc bundle : Nat} {f : Fetched} (h : MemoryOk f.st) : MemoryOk (if f.bad.any id then
      { bytes := (f.bytes.zip f.bad).zipIdx.map (fun e => if e.1.2 then Config.freeByte f.st.draws e.2 else e.1.1)
        st := poisonFault (f.st.drawn 1) lc bundle }
    else { bytes := f.bytes, st := f.st } : StoreRead).st := by
  rw [apply_ite StoreRead.st]
  exact .ite (.poisonFault (.drawn h)) h

protected theorem MemoryOk.storeRead {req lc bundle ofs n : Nat} (h : MemoryOk s) :
    MemoryOk (storeRead s req lc bundle ofs n).st :=
  .storeRead_of_fetched (.memFetch h)

protected theorem MemoryOk.fvHazard {lc code : Nat} {feeder : Bool} {slot block bundle : Nat} (h : MemoryOk s) :
    MemoryOk (fvHazard s lc code feeder slot block bundle) :=
  .faultCore (.modCore h)

protected theorem MemoryOk.readFlawed {req lc bundle key : Nat} (h : MemoryOk s) : MemoryOk (readFlawed req lc bundle s key) := by
  unfold readFlawed
  dsimp only
  split
  · exact .modCore h
  · exact .logError (.countCe (.modCore h))
  · exact .poisonFault (.drawn (.modCore (.logError (.countUe h))))
  · exact .poisonFault (.drawn (.modCore (.logError (.countPoison h))))

protected theorem MemoryOk.coreRead {req lc bundle : Nat} {rs : List (Nat × Nat)} (h : MemoryOk s) :
    MemoryOk (coreRead s req lc bundle rs) :=
  .foldl (fun _ _ h => .readFlawed h) h

protected theorem MemoryOk.arrayHazard {lc code tile : Nat} (h : MemoryOk s) : MemoryOk (arrayHazard s lc code tile) :=
  .faultCore (.modCore h)

protected theorem OutOk.execAnop {lc : Lc} (h : MemoryOk s) : OutOk (execAnop lc s) := .slotIssue h h

protected theorem MemoryOk.macAct {lc : Nat} {acc : Bool} {tile : Nat} {fp32 popa popb : Bool} {a b : Block} (h : MemoryOk s) :
    MemoryOk (macAct s lc acc tile fp32 popa popb a b) :=
  .modCore h

protected theorem OutOk.macIssue {i : Instr} {lc : Nat} {acc : Bool} {tile : Nat} {fp32 popa popb : Bool} (h : MemoryOk s) :
    OutOk (macIssue i lc acc tile fp32 popa popb s) := by
  unfold macIssue
  dsimp only
  split
  · exact .slotIssue h (.ite (.arrayHazard h) (.ite (.arrayHazard h) (.macAct h)))
  · exact .slotIssue h h

protected theorem OutOk.execMac {lc : Lc} {tile : Fin 4} {fp32 popa popb : Bool} (h : MemoryOk s) :
    OutOk (execMac lc tile fp32 popa popb s) :=
  .macIssue h

protected theorem OutOk.execMacz {lc : Lc} {tile : Fin 4} {fp32 popa popb : Bool} (h : MemoryOk s) :
    OutOk (execMacz lc tile fp32 popa popb s) :=
  .macIssue h

protected theorem OutOk.execAclr {lc : Lc} {tile : Fin 4} (h : MemoryOk s) : OutOk (execAclr lc tile s) :=
  .slotIssue h (.ite (.arrayHazard h) (.modCore h))

protected theorem OutOk.execAramp {lc : Lc} (h : MemoryOk s) : OutOk (execAramp lc s) := .slotIssue h (.modCore h)

protected theorem OutOk.execLinePortReadout {lc : Lc} {tile : Fin 4} {axis clr : Bool} {len : Fin 16} {slot : Fin 8}
    (h : MemoryOk s) : OutOk (execLinePortReadout lc tile axis clr len slot s) :=
  .slotIssue h (.ite (.arrayHazard h) (.ite (.arrayHazard h) (.modCore h)))

protected theorem OutOk.execLinePortLoad {lc : Lc} {tile : Fin 4} {axis : Bool} {len : Fin 16} {vpair : Fin 32} (h : MemoryOk s) :
    OutOk (execLinePortLoad lc tile axis len vpair s) :=
  .slotIssue h (.ite (.arrayHazard h) (.ite (.arrayHazard h) (.drawn (.modCore (.coreRead h)))))

protected theorem OutOk.execTileSlotFull {lc : Lc} {slot : Fin 8} (h : MemoryOk s) : OutOk (execTileSlotFull lc slot s) :=
  .ite (.next (.modCore h)) (.next h)

protected theorem OutOk.execTileSlotFree {lc : Lc} {slot : Fin 8} (h : MemoryOk s) : OutOk (execTileSlotFree lc slot s) :=
  .ite (.next (.modCore h)) (.next h)

protected theorem OutOk.execActivityLevelFall {lc : Lc} (h : MemoryOk s) : OutOk (execActivityLevelFall lc s) :=
  .ite (.next (.modCore h)) (.next h)

protected theorem OutOk.execActivityLevelRise {lc : Lc} (h : MemoryOk s) : OutOk (execActivityLevelRise lc s) :=
  .ite (.next (.modCore h)) (.next h)

protected theorem MemoryOk.hostPut {a : Nat} {bs : List Byte} (h : MemoryOk s) : MemoryOk (s.hostPut a bs) :=
  ⟨h.1, Tbl.wf_setMany 0 bs _ a h.2⟩

protected theorem MemoryOk.modQueue {q : Nat} {f : HostQueue → HostQueue} (h : MemoryOk s) : MemoryOk (s.modQueue q f) := h

protected theorem MemoryOk.sendIrq {q : Nat} (h : MemoryOk s) : MemoryOk (sendIrq s q) := .modQueue h

protected theorem MemoryOk.writeCpl {q : Nat} {c : Cpl} {command : Bool} (h : MemoryOk s) : MemoryOk (writeCpl s q c command) :=
  .ite (.modQueue h) (.ite (.sendIrq (.ite (.update (.modQueue (.hostPut h))) (.modQueue (.hostPut h)))) (.ite (.update
    (.modQueue (.hostPut h))) (.modQueue (.hostPut h))))

protected theorem MemoryOk.postCpl {q : Nat} {c : Cpl} (h : MemoryOk s) : MemoryOk (postCpl s q c) :=
  .ite (.writeCpl h) (.modQueue h)

protected theorem MemoryOk.completeCmd {r : CmdRef} {status : Nat} {ign : Bool} {r0 r1 : Nat} (h : MemoryOk s) :
    MemoryOk (completeCmd s r status ign r0 r1) := by
  unfold completeCmd
  split
  · exact h
  · exact .postCpl (.modQueue h)

protected theorem MemoryOk.completeAll {rs : List CmdRef} {status r0 : Nat} (h : MemoryOk s) :
    MemoryOk (completeAll s rs status r0) :=
  .foldl (fun _ _ h => .completeCmd h) h

protected theorem ActOk.status {n : Nat} (h : MemoryOk s) : ActOk (Act.status s n) := .done h

protected theorem MemoryOk.acceptCmd {torzan kiosk : Bool} {foot : List Foot} {q : Nat} {e : Entry} (h : MemoryOk s) :
    MemoryOk (acceptCmd s torzan kiosk foot q e) :=
  .update (.modQueue h)

protected theorem MemoryOk.startCmd {r : CmdRef} (h : MemoryOk s) : MemoryOk (startCmd s r) := .modQueue h

protected theorem MemoryOk.parkCmd {r : CmdRef} (h : MemoryOk s) : MemoryOk (parkCmd s r) := .modQueue h

protected theorem MemoryOk.runStarted {i : Instr} {k : CmdKind} {r : CmdRef} {e : Entry} {act : CmdRun → State → Act}
    (h : MemoryOk s)
    (hAct : ∀ c s, MemoryOk s → ActOk (act c s)) : MemoryOk (runStarted i k r e s act) := by
  unfold runStarted
  dsimp only
  split
  · split
    · next ht => exact .completeCmd (ActOk.done_iff.mp (ht ▸ hAct _ _ (.startCmd h)))
    · next ht => exact .parkCmd (ActOk.later_iff.mp (ht ▸ hAct _ _ (.startCmd h)))
    · exact .hold (.startCmd h)
    · next ht => exact .hold (ActOk.waits_iff.mp (ht ▸ hAct _ _ (.startCmd h)))
  · exact .completeCmd (.startCmd h)

protected theorem OutOk.hostRun {i : Instr} {k : CmdKind} {q : BitVec 16} {e : Entry} {act : CmdRun → State → Act}
    (h : MemoryOk s)
    (hAct : ∀ c s, MemoryOk s → ActOk (act c s)) : OutOk (hostRun i k q e s act) := by
  unfold hostRun
  dsimp only
  split
  · exact .ite (.next (.hold h)) (.next (.runStarted h hAct))
  · exact .ite (.next h) (.ite (.next (.hold h)) (.ite (.next (.hold (.acceptCmd h))) (.next (.runStarted (.acceptCmd h) hAct))))

protected theorem MemoryOk.modClk {r : Nat} {f : ClockRegion → ClockRegion} (h : MemoryOk s) : MemoryOk (s.modClk r f) := h

protected theorem MemoryOk.setFmax {r : Nat} (h : MemoryOk s) : MemoryOk (setFmax s r) := .modClk h

protected theorem MemoryOk.assignRow {cl : Nat} (h : MemoryOk s) : MemoryOk (assignRow s cl) := .foldl (fun _ _ h => .modSite h) h

protected theorem MemoryOk.clearUnit {space unit : Nat} (h : MemoryOk s) : MemoryOk (clearUnit s space unit) := .clearLines h

/-- A segment of a table moved to another place keeps the canonical form. -/
theorem Tbl.wf_shifted {α : Type} [DecidableEq α] {d : α} {t : Tbl α} (h : Tbl.wf d t = true) {lo k : Nat}
    (hLo : ∀ e ∈ t, lo ≤ e.1) :
    Tbl.wf d (t.map (fun e => (e.1 - lo + k, e.2))) = true := by
  induction t with
  | nil => rfl
  | cons x t ih =>
    obtain ⟨a, v⟩ := x
    obtain ⟨hv, hRise, hRest⟩ := (Tbl.wf_cons d a v t).mp h
    have hRest' := ih hRest fun e he => hLo e (List.mem_cons_of_mem _ he)
    refine (Tbl.wf_cons d _ v _).mpr ⟨hv, fun e he => ?_, hRest'⟩
    obtain ⟨y, hy, rfl⟩ := List.mem_map.mp he
    have := hRise y hy
    have := hLo (a, v) List.mem_cons_self
    dsimp only at this ⊢
    omega

theorem Tbl.mem_slice {α : Type} {t : Tbl α} {lo hi : Nat} {e : Nat × α} : e ∈ Tbl.slice t lo hi ↔ e ∈ t ∧ lo ≤ e.1 ∧ e.1 < hi := by
  simp [Tbl.slice]

theorem Tbl.wf_slice {α : Type} [DecidableEq α] {d : α} {t : Tbl α} {lo hi : Nat} (h : Tbl.wf d t = true) :
    Tbl.wf d (Tbl.slice t lo hi) = true :=
  Tbl.wf_filter d _ t h

/-- Entries of one table from [lo, lo + n) put in place of what another held in [k, k + n) keep the canonical form. -/
theorem Tbl.wf_splice_shifted {α : Type} [DecidableEq α] {d : α} {t o : Tbl α} (ht : Tbl.wf d t = true)
    (ho : Tbl.wf d o = true) {lo k n : Nat}
    (hIn : ∀ e ∈ o, lo ≤ e.1 ∧ e.1 < lo + n) : Tbl.wf d (Tbl.splice t k (k + n) (o.map (fun e =>
        (e.1 - lo + k, e.2)))) = true := by
  refine Tbl.wf_splice d t _ k (k + n) ht (Tbl.wf_shifted ho fun e he => (hIn e he).1) (fun e he => ?_) (Nat.le_add_right k n)
  obtain ⟨y, hy, rfl⟩ := List.mem_map.mp he
  have := hIn y hy
  dsimp only
  omega

/-- As `wf_splice_shifted`, by way of addresses that count from 0. -/
theorem Tbl.wf_splice_based {α : Type} [DecidableEq α] {d : α} {t o : Tbl α} (ht : Tbl.wf d t = true)
    (ho : Tbl.wf d o = true) {lo k n : Nat}
    (hIn : ∀ e ∈ o, lo ≤ e.1 ∧ e.1 < lo + n) :
    Tbl.wf d (Tbl.splice t k (k + n) ((o.map (fun e => (e.1 - lo, e.2))).map (fun e => (e.1 + k, e.2)))) = true := by
  rw [List.map_map]
  exact Tbl.wf_splice_shifted ht ho hIn

protected theorem MemoryOk.moveUnit {old : State} {a b : Nat} (hOld : MemoryOk old) (h : MemoryOk s) :
    MemoryOk (moveUnit old s a b) := by
  refine .setMem ?_ h
  dsimp only
  simp only [Nat.div_one]
  exact Tbl.wf_splice_shifted h.1 (Tbl.wf_slice hOld.1) fun e he => (Tbl.mem_slice.mp he).2

protected theorem MemoryOk.rebuildRow {cl : Nat} (h : MemoryOk s) : MemoryOk (rebuildRow s cl) := by
  unfold rebuildRow
  extract_lets t lcs moved closed
  have hMoved : MemoryOk moved := by
    refine .foldl (fun t lc ht => .ite ht ?_) (.assignRow h)
    dsimp only
    split
    · exact .setCore (.clearUnit (.clearUnit ht))
    · exact .ite (.setCore (.clearUnit (.clearUnit ht))) (.setCore (.clearUnit (.clearUnit ht)))
  have hClosed : MemoryOk closed := .closeWhere hMoved
  refine .update (.foldl (fun t n ht => .ite ht ?_) hClosed)
  dsimp only
  split
  · exact .moveUnit hClosed (.clearUnit ht)
  · exact .clearUnit ht

protected theorem MemoryOk.sendMapUpd {cls : List Nat} (h : MemoryOk s) : MemoryOk (sendMapUpd s cls) := .update (.broadcast h)

protected theorem MemoryOk.siteEvent {sub site cl : Nat} (h : MemoryOk s) : MemoryOk (siteEvent s sub site cl) := .healthEvent h

protected theorem MemoryOk.modRegion {k r : Nat} {f : Region → Region} (h : MemoryOk s) : MemoryOk (s.modRegion k r f) :=
  .modStack h

protected theorem MemoryOk.modUnit {k u : Nat} {f : BUnit → BUnit} (h : MemoryOk s) : MemoryOk (s.modUnit k u f) := .modStack h

protected theorem MemoryOk.openRows {da n : Nat} (h : MemoryOk s) : MemoryOk (s.openRows da n) := .ite h (.modStack h)

protected theorem MemoryOk.stopUnits {k : Nat} {us : Nat → Bool} (h : MemoryOk s) : MemoryOk (stopUnits s k us) := .modStack h

protected theorem MemoryOk.recordLeft {k : Nat} (h : MemoryOk s) : MemoryOk (recordLeft s k) := .ite h (.modStack h)

protected theorem MemoryOk.startRelease {k r : Nat} {abort : Bool} {cmpl : Option Cmpl} {cmd : List CmdRef} (h : MemoryOk s) :
    MemoryOk (startRelease s k r abort cmpl cmd) :=
  .ite (.stopUnits (.modRegion h)) (.modRegion h)

protected theorem MemoryOk.poisonJob {lc : Nat} (h : MemoryOk s) : MemoryOk (poisonJob s lc) := .poisonFault h

protected theorem MemoryOk.modCuff {c : Nat} {f : Cuff → Cuff} (h : MemoryOk s) : MemoryOk (s.modCuff c f) := h

protected theorem MemoryOk.modFab {f : Fabric → Fabric} (h : MemoryOk s) : MemoryOk (s.modFab f) := h

protected theorem MemoryOk.modSend {p ctx : Nat} {f : SendCtx → SendCtx} (h : MemoryOk s) : MemoryOk (s.modSend p ctx f) :=
  .modFab h

protected theorem MemoryOk.modRecv {p ctx : Nat} {f : RecvCtx → RecvCtx} (h : MemoryOk s) : MemoryOk (s.modRecv p ctx f) :=
  .modFab h

protected theorem MemoryOk.modXq {q : Nat} {f : XQueue → XQueue} (h : MemoryOk s) : MemoryOk (s.modXq q f) := .modFab h

protected theorem MemoryOk.emit {part n : Nat} {p : XPkt} (h : MemoryOk s) : MemoryOk (emit s part n p) := by
  unfold emit
  dsimp only
  split
  · exact h
  · exact .modCuff (.modFab h)

protected theorem MemoryOk.sendAck {part ctx : Nat} (h : MemoryOk s) : MemoryOk (sendAck s part ctx) := .modRecv (.emit h)

protected theorem MemoryOk.sendNak {part ctx msg tag status : Nat} (h : MemoryOk s) :
    MemoryOk (sendNak s part ctx msg tag status) :=
  .modFab (.modRecv (.emit h))

protected theorem MemoryOk.enqueue {part ctx : Nat} {ps : List (XPkt × Option Nat)} {owner : Option Nat} {kind : XKind}
    {lcmpl : Word} {node : Option Nat} {bytes : Nat} (h : MemoryOk s) :
    MemoryOk (enqueue s part ctx ps owner kind lcmpl node bytes) :=
  .ite h (.modSend h)

protected theorem MemoryOk.pumpControl {part n : Nat} (h : MemoryOk s) : MemoryOk (pumpControl s part n) := by
  induction n generalizing s with
  | zero => exact h
  | succ n ih =>
    unfold pumpControl
    dsimp only
    split
    · exact h
    · exact .ite h (ih (.modSend (.emit h)))

protected theorem MemoryOk.sendControl {part typ tag : Nat} {node : Option Nat} {body : List Byte} (h : MemoryOk s) :
    MemoryOk (sendControl s part typ tag node body) :=
  .pumpControl (.enqueue h)

protected theorem MemoryOk.fabricFault {lc code peer status : Nat} (h : MemoryOk s) :
    MemoryOk (fabricFault s lc code peer status) :=
  .faultCore (.modFab h)

protected theorem MemoryOk.stopQueues {node : Nat} (h : MemoryOk s) : MemoryOk (stopQueues s node) :=
  .foldl (fun _ _ h => .modFab (.modXq h)) h

protected theorem MemoryOk.sendHalts {j : Job} (h : MemoryOk s) : MemoryOk (sendHalts s j) :=
  .ite h (.foldl (fun _ _ h => .sendControl h) h)

protected theorem SvOk.svGet {ofs n : Nat} : SvOk (svGet ofs n) := fun _ h => .memFetch h

protected theorem SvOk.svPut {ofs n x : Nat} : SvOk (svPut ofs n x) := fun _ h => .memWrite h

protected theorem SvOk.svStoreBad {da : Nat} {bs : List Byte} {bad : List Bool} : SvOk (svStoreBad da bs bad) :=
  fun _ h => .memWriteBad h

protected theorem SvOk.svStore {da : Nat} {bs : List Byte} : SvOk (svStore da bs) := .svStoreBad

protected theorem SvOk.svAdd {ofs n x : Nat} : SvOk (svAdd ofs n x) := .bind .svGet (fun _ => .svPut)

protected theorem SvOk.svHead : SvOk svHead := fun _ h => .memFetch h

protected theorem MemoryOk.svRun {α : Type} {lc area : Nat} {m : SvM α} (h : MemoryOk s) (hm : SvOk m) :
    MemoryOk (svRun s lc area m).2 := by
  have hRun : MemoryOk (m.run { st := s, lc := lc, base := area, bad := false }).2.st := hm _ h
  unfold svRun
  dsimp only
  split
  · exact .notify (.update (.memWrite (.setMem h.1 hRun)))
  · exact hRun

protected theorem SvOk.svSuspects {head : Nat} : SvOk (svSuspects head) :=
  .bind .svHead (fun _ => .bind (.forIn (fun _ _ => .bind .svGet (fun _ => .bind .svGet (fun _ => .ite (.bind .svPut
    (fun _ => .pure)) .pure)))) (fun _ => .svPut))

protected theorem MemoryOk.svEnd {lc : Nat} (h : MemoryOk s) : MemoryOk (svEnd s lc) := by
  unfold svEnd
  split
  · exact h
  · exact .update (.ite h (.svRun h .svSuspects))

protected theorem MemoryOk.modTraining {node : Nat} {f : Training → Training} (h : MemoryOk s) :
    MemoryOk (s.modTraining node f) :=
  h

protected theorem MemoryOk.dropChunks {node : Nat} (h : MemoryOk s) : MemoryOk (dropChunks s node) := .modFab h

protected theorem MemoryOk.jobGone {j : Job} (h : MemoryOk s) : MemoryOk (jobGone s j) := by
  have hEnds : MemoryOk (j.cores.foldl svEnd (dropChunks s j.node)) := .foldl (fun _ _ h => .svEnd h) (.dropChunks h)
  unfold jobGone
  exact .modFab (.modTraining hEnds)

protected theorem MemoryOk.jobStopped {j : Job} (h : MemoryOk s) : MemoryOk (jobStopped s j) :=
  .sendHalts (.stopQueues (.foldl (fun _ _ h => .svEnd h) (.dropChunks h)))

end Sys2Proof.Machine
end

section
/-! PROOFS. The memories keep their canonical form: jobs, clocks, routes, supply, Orangery, window and records. -/

namespace Sys2Proof.Machine

open Sys2Proof

variable {s : State}

protected theorem MemoryOk.jobEndCheck {node : Nat} (h : MemoryOk s) : MemoryOk (jobEndCheck s node) := by
  unfold jobEndCheck
  split
  · exact h
  · exact .ite (.ite (.notify (.jobGone (.modJob (.foldl (fun _ _ h => .ite h (.startRelease h)) h)))) (.foldl
        (fun _ _ h => .ite h (.startRelease h)) h)) h

protected theorem MemoryOk.jobEndAt {lc : Nat} (h : MemoryOk s) : MemoryOk (jobEndAt s lc) := by
  unfold jobEndAt
  split
  · exact .jobEndCheck h
  · exact h

protected theorem MemoryOk.holderCheck {x : Holder} (h : MemoryOk s) : MemoryOk (holderCheck s x) := by
  cases x with
  | host => exact h
  | job n => exact .jobEndCheck h

protected theorem MemoryOk.beginHalt {node : Nat} {remote : Option (Word × Nat)} (h : MemoryOk s) :
    MemoryOk (beginHalt s node remote) :=
  .broadcast (.modJob h)

protected theorem MemoryOk.haltCores {j : Job} (h : MemoryOk s) : MemoryOk (haltCores s j) := .foldl (fun _ _ h => .modCore h) h

protected theorem OutOk.execHalt {node : Fin 64} (h : MemoryOk s) : OutOk (execHalt node s) := by
  unfold execHalt
  split
  · exact .next h
  · exact .ite (.next (.haltCores h)) (.next h)

protected theorem MemoryOk.jobFaulted {j : Job} (h : MemoryOk s) : MemoryOk (jobFaulted s j) :=
  .foldl (fun _ _ h => .completeCmd h) (.notify (.jobStopped (.modJob (.foldl (fun _ _ h => .stopUnits h) (.foldl
    (fun _ _ h => .modCore h) h)))))

protected theorem OutOk.execJobFaulted {node : Fin 64} (h : MemoryOk s) : OutOk (execJobFaulted node s) := by
  unfold execJobFaulted
  split
  · exact .next h
  · exact .ite (.next (.jobFaulted h)) (.next h)

protected theorem OutOk.execWaitStage2 {lc : Lc} (h : MemoryOk s) : OutOk (execWaitStage2 lc s) :=
  .ite (.next (.modCore h)) (.next h)

protected theorem MemoryOk.paceEvent {j : Job} {lc sub lam rho run : Nat} (h : MemoryOk s) :
    MemoryOk (paceEvent s j lc sub lam rho run) :=
  .healthEvent h

protected theorem MemoryOk.paceCore {j : Job} {lc : Nat} (h : MemoryOk s) : MemoryOk (paceCore s j lc) := by
  refine .ite h (.ite ?_ (.ite (.paceEvent h) h))
  split
  · exact .ite (.paceEvent h) h
  · exact .ite (.paceEvent (.update (.modSite (.ite (.paceEvent h) h)))) (.paceEvent (.ite (.paceEvent h) h))

protected theorem OutOk.execPaceWindow (h : MemoryOk s) : OutOk (execPaceWindow s) :=
  .next (.foldl (fun _ _ h => .foldl (fun _ _ h => .paceCore h) h) h)

protected theorem OutOk.execClockSlewStep {region : Fin 5} (h : MemoryOk s) : OutOk (execClockSlewStep region s) :=
  .ite (.next h) (.ite (.next (.modClk h)) (.ite (.next (.modClk h)) (.next h)))

protected theorem MemoryOk.modBundle {k : Nat} {f : Bundle → Bundle} (h : MemoryOk s) : MemoryOk (s.modBundle k f) := h

protected theorem MemoryOk.holdPort {k : Nat} {d : Nat → Nat} (h : MemoryOk s) : MemoryOk (holdPort s k d) := h

protected theorem MemoryOk.startRetune {k : Nat} (h : MemoryOk s) : MemoryOk (startRetune s k) := .holdPort (.modBundle h)

protected theorem MemoryOk.nextRetune {seam : Nat} (h : MemoryOk s) : MemoryOk (nextRetune s seam) := by
  unfold nextRetune
  split
  · exact h
  · exact .ite (.startRetune h) h

protected theorem MemoryOk.askRetune {seam pos : Nat} (h : MemoryOk s) : MemoryOk (askRetune s seam pos) :=
  .ite h (.ite (.startRetune h) h)

protected theorem OutOk.execSeamMarginLow {seam : Fin 15} {pos : Fin 220} (h : MemoryOk s) :
    OutOk (execSeamMarginLow seam pos s) :=
  .next (.askRetune h)

protected theorem MemoryOk.channelFailed {site : Nat} (h : MemoryOk s) : MemoryOk (channelFailed s site) :=
  .siteEvent (.update (.modSite h))

protected theorem MemoryOk.bundleFailed {k : Nat} (h : MemoryOk s) : MemoryOk (bundleFailed s k) := by
  unfold bundleFailed
  split
  · exact .channelFailed (.modBundle h)
  · exact .modBundle h

protected theorem MemoryOk.noteRetune {k code : Nat} (h : MemoryOk s) : MemoryOk (noteRetune s k code) := h

protected theorem OutOk.execRetuneEnd {seam : Fin 15} {pos : Fin 220} {sweep : BitVec 64} {ok : Bool} {sweep2 : BitVec 64}
    {ok2 : Bool} (h : MemoryOk s) : OutOk (execRetuneEnd seam pos sweep ok sweep2 ok2 s) := by
  refine .ite (.next h) (.next (.nextRetune ?_))
  split
  · exact .noteRetune (.holdPort (.modBundle (.drawn h)))
  · exact .bundleFailed (.holdPort (.modBundle (.drawn h)))

protected theorem MemoryOk.modRouter {b : Nat} {f : Router → Router} (h : MemoryOk s) : MemoryOk (s.modRouter b f) := h

protected theorem MemoryOk.formGraph {dark : List Nat} {bad : List (Nat × Nat)} (h : MemoryOk s) :
    MemoryOk (formGraph s dark bad) :=
  h

protected theorem MemoryOk.modSitePwr {i : Nat} {f : SitePower → SitePower} (h : MemoryOk s) : MemoryOk (s.modSitePwr i f) := h

protected theorem MemoryOk.modZone {z : Nat} {f : Zone → Zone} (h : MemoryOk s) : MemoryOk (s.modZone z f) := h

protected theorem MemoryOk.requestPermit {i : Nat} {canopy : Bool} (h : MemoryOk s) : MemoryOk (requestPermit s i canopy) :=
  .modZone h

protected theorem MemoryOk.requestPower {i : Nat} (h : MemoryOk s) : MemoryOk (requestPower s i) :=
  .ite (.requestPermit (.modSitePwr h)) h

protected theorem MemoryOk.requestCanopy {i : Nat} (h : MemoryOk s) : MemoryOk (requestCanopy s i) :=
  .ite (.requestPermit (.modSitePwr h)) h

protected theorem OptOk.storeWait {da : Nat} (h : MemoryOk s) : OptOk (storeWait s da) := by
  unfold storeWait
  split
  · exact .none
  · exact .ite (.ite .none (.some (.requestPower h))) (.ite (.ite .none (.some (.requestCanopy h))) .none)

protected theorem MemoryOk.touchStore {da : Nat} (h : MemoryOk s) : MemoryOk (touchStore s da) := by
  unfold touchStore
  split
  · exact h
  · exact .ite (.modSitePwr h) (.ite (.modSitePwr h) h)

protected theorem MemoryOk.sendIntent {zone lead kind : Nat} (h : MemoryOk s) : MemoryOk (sendIntent s zone lead kind) :=
  .ite (.update (.drawn h)) (.drawn h)

protected theorem MemoryOk.sendIntents {lcs : List Nat} {lead kind : Nat} (h : MemoryOk s) :
    MemoryOk (sendIntents s lcs lead kind) :=
  .foldl (fun _ _ h => .sendIntent h) h

protected theorem MemoryOk.startPageIn {k r : Nat} (h : MemoryOk s) : MemoryOk (startPageIn s k r) := by
  unfold startPageIn
  split
  · exact .modRegion h
  · exact .ite h (.notify (.modStack h))

protected theorem MemoryOk.frameFreed {k : Nat} (h : MemoryOk s) : MemoryOk (frameFreed s k) := by
  unfold frameFreed
  split
  · exact h
  · split
    · exact h
    · exact .modRegion (.modStack h)

protected theorem AccessOk.orgAccess {k r : Nat} (h : MemoryOk s) : AccessOk (orgAccess s k r) := by
  unfold orgAccess
  split
  · exact trivial
  · exact .ite trivial trivial
  · exact .wait h
  · exact .wait h
  · exact .wait (.startPageIn h)

protected theorem AccessOk.orgAccessRange {da n : Nat} (h : MemoryOk s) : AccessOk (orgAccessRange s da n) := by
  unfold orgAccessRange
  split
  · split
    · next ht => exact .wait (OptOk.of_eq (.storeWait h) ht)
    · trivial
  · refine .ite (.wait h) (.ite trivial (List.foldlRecOn _ _ (motive := AccessOk) trivial fun a ha r _ => ?_))
    split
    · exact .orgAccess h
    · exact ha

protected theorem AccessOk.orgWriteRange {da n : Nat} (h : MemoryOk s) : AccessOk (orgWriteRange s da n) :=
  .ite (.orgAccessRange h) (.wait h)

protected theorem MemoryOk.closeRegion {k r : Nat} (h : MemoryOk s) : MemoryOk (closeRegion s k r) := .closeWhere h

protected theorem MemoryOk.dropRegion {k r : Nat} (h : MemoryOk s) : MemoryOk (dropRegion s k r) :=
  .setMem (Tbl.wf_clearRange 0 _ _ _ (MemoryOk.cancelBacks h).1) (.cancelBacks h)

protected theorem OutOk.execPageOutComplete {stack : Fin 6} {region : Fin 16384} (h : MemoryOk s) :
    OutOk (execPageOutComplete stack region s) := by
  unfold execPageOutComplete
  extract_lets k r g lo closed done opened read bad good crc paged dropped spilled noted
  have hClosed : MemoryOk closed := .closeRegion (.checkMaps h)
  have hRead : MemoryOk read := .foldl (fun _ _ h => .fetchWord h) (.openRows hClosed)
  have hPaged : MemoryOk paged :=
    .setHostMem (Tbl.wf_splice_based hRead.2 (Tbl.wf_filter 0 _ _ (Tbl.wf_slice (lo := lo) (hi := lo + 2 ^ 26) hRead.1))
      fun e he => (Tbl.mem_slice.mp (List.mem_filter.mp he).1).2) hRead
  have hSpilled : MemoryOk spilled := .modRegion (.dropRegion hPaged)
  exact .ite (.next h) (.ite (.next (.completeAll (.modRegion (.modRegion hClosed))))
    (.next (.completeAll (.modRegion (.frameFreed (.ite hSpilled (.notify hSpilled)))))))

protected theorem MemoryOk.poisonRegion {k r : Nat} (h : MemoryOk s) : MemoryOk (poisonRegion s k r) := h

protected theorem OutOk.execPageInComplete {stack : Fin 6} {region : Fin 16384} {hostErr : Bool} (h : MemoryOk s) :
    OutOk (execPageInComplete stack region hostErr s) := by
  unfold execPageInComplete
  extract_lets k r g lo src err crcBad mem filled logged noted opened
  have hFilled : MemoryOk filled :=
    ⟨Tbl.wf_splice_based h.1 (Tbl.wf_slice h.2) fun e he => (Tbl.mem_slice.mp he).2, h.2⟩
  have hLogged : MemoryOk logged := .ite (.logError hFilled) hFilled
  have hNoted : MemoryOk noted := .ite (.notify (.poisonRegion hLogged)) hLogged
  exact .ite (.next h) (.next (.completeAll (.modRegion (.openRows hNoted))))

protected theorem OutOk.execBankEntryComplete {stack : Fin 6} {region : Fin 16384} (h : MemoryOk s) :
    OutOk (execBankEntryComplete stack region s) :=
  .ite (.next h) (.next (.holderCheck (.completeAll (.modRegion (.closeRegion h)))))

protected theorem MemoryOk.applyCmpl {c : Cmpl} (h : MemoryOk s) : MemoryOk (applyCmpl s c) := .ite h (.incGate h)

protected theorem OutOk.execBankReleaseComplete {stack : Fin 6} {region : Fin 16384} (h : MemoryOk s) :
    OutOk (execBankReleaseComplete stack region s) := by
  refine .ite (.next (.ite (.stopUnits h) h)) (.next (.holderCheck (.completeAll ?_)))
  split
  · exact .applyCmpl (.modRegion (.ite (.stopUnits h) h))
  · exact .modRegion (.ite (.stopUnits h) h)

protected theorem MemoryOk.noteHold {lc m : Nat} (h : MemoryOk s) : MemoryOk (noteHold s lc m) := by
  unfold noteHold
  split
  · exact h
  · exact .ite h (.modCore h)

protected theorem OutOk.execBankHoldTimeout {lc : Lc} {m : Fin 4} (h : MemoryOk s) : OutOk (execBankHoldTimeout lc m s) := by
  unfold execBankHoldTimeout
  dsimp only
  split
  · exact .next (.noteHold h)
  · exact .next (.ite (.faultCore (.noteHold h)) (.noteHold h))

protected theorem MemoryOk.countStale {k n : Nat} (h : MemoryOk s) : MemoryOk (countStale s k n) := .modStack h

protected theorem MemoryOk.transitLog {place : Nat → Nat} {te : List (Nat × Bool)} (h : MemoryOk s) :
    MemoryOk (transitLog s place te) :=
  .foldl (fun _ _ h => .logError h) h

protected theorem MemoryOk.transitCe {e : Nat} {te : List (Nat × Bool)} (h : MemoryOk s) : MemoryOk (transitCe s e te) :=
  .ite h (.modRouter h)

protected theorem MemoryOk.holderFault {k source code : Nat} {host : State → State} (h : MemoryOk s)
    (hHost : ∀ a, MemoryOk a → MemoryOk (host a)) : MemoryOk (holderFault s k source code host) := by
  unfold holderFault
  split
  · split
    · exact .faultCore h
    · exact h
  · exact hHost _ h

protected theorem MemoryOk.malformed {k r : Nat} (h : MemoryOk s) : MemoryOk (malformed s k r) :=
  .holderFault h (fun _ h => .notify (.modStack h))

protected theorem OutOk.execFrameReplay {stack : Fin 6} {again : Bool} (h : MemoryOk s) : OutOk (execFrameReplay stack again s) :=
  .next (.ite (.healthEvent (.modStack h)) (.modStack h))

protected theorem MemoryOk.cmpMismatch {node w : Nat} {beyond form : Bool} {src : Nat} (h : MemoryOk s) :
    MemoryOk (cmpMismatch s node w beyond form src) := by
  unfold cmpMismatch
  dsimp only
  split
  · exact .faultCore (.ite h (.modTraining h))
  · exact .ite h (.modTraining h)

protected theorem MemoryOk.cmpRound {node : Nat} (h : MemoryOk s) : MemoryOk (cmpRound s node) :=
  .ite (.applyCmpl (.modTraining h)) h

protected theorem MemoryOk.cmpWrite {node w : Nat} {data : List Byte} {bad : List Bool} {src : Nat} (h : MemoryOk s) :
    MemoryOk (cmpWrite s node w data bad src) :=
  .cmpRound (.modTraining (.ite (.modTraining (.memWriteBad h)) (.ite (.cmpMismatch h) h)))

protected theorem MemoryOk.writeThrough {lc : Option Nat} {da : Nat} {data : List Byte} {bad : List Bool} {src : Nat}
    (h : MemoryOk s) : MemoryOk (writeThrough s lc da data bad src) := by
  unfold writeThrough
  split
  · exact .memWriteBad h
  · exact .foldl (fun _ _ h => .ite (.cmpWrite h) (.cmpMismatch h)) (.ite (.memWriteBad (.ite (.memWriteBad h) h)) (.ite
        (.memWriteBad h) h))

protected theorem OutOk.runRecord {i : Instr} {k r : Nat} {x : OrgRec} {bad wait : Bool} {act : State} (h : MemoryOk s)
    (hAct : MemoryOk act) : OutOk (runRecord i k r x s bad wait act) :=
  .ite (.next (.hold h)) (.ite (.next (.recordLeft (.countStale h))) (.ite (.next (.recordLeft h)) (.ite (.next (.recordLeft
    (.malformed h))) (.ite (.next (.hold h)) (.next (.recordLeft hAct))))))

protected theorem OutOk.execRecordNoOp {stack : Fin 6} {region : Fin 16384} {r : OrgRec} (h : MemoryOk s) :
    OutOk (execRecordNoOp stack region r s) :=
  .ite (.next (.hold h)) (.next (.recordLeft h))

protected theorem OutOk.execPload {stack : Fin 6} {region : Fin 16384} {r : OrgRec} (h : MemoryOk s) :
    OutOk (execPload stack region r s) :=
  .runRecord h (.foldl (fun _ _ h => .modUnit h) h)

protected theorem OutOk.execPset {stack : Fin 6} {region : Fin 16384} {r : OrgRec} (h : MemoryOk s) :
    OutOk (execPset stack region r s) :=
  .runRecord h (.foldl (fun _ _ h => .modUnit h) h)

protected theorem OutOk.execSeed {stack : Fin 6} {region : Fin 16384} {r : OrgRec} (h : MemoryOk s) :
    OutOk (execSeed stack region r s) :=
  .runRecord h (.foldl (fun _ _ h => .modUnit h) h)

protected theorem MemoryOk.addActive {k : Nat} {j : RecJob} (h : MemoryOk s) : MemoryOk (addActive s k j) := .modStack h

protected theorem OutOk.execStart {stack : Fin 6} {region : Fin 16384} {r : OrgRec} (h : MemoryOk s) :
    OutOk (execStart stack region r s) := by
  refine .runRecord h ?_
  split
  · exact .applyCmpl (.modTraining h)
  · exact .addActive (.foldl (fun _ _ h => .modUnit h) h)

protected theorem OutOk.execStop {stack : Fin 6} {region : Fin 16384} {r : OrgRec} (h : MemoryOk s) :
    OutOk (execStop stack region r s) :=
  .runRecord h (.addActive (.stopUnits h))

protected theorem OutOk.execCopyin {stack : Fin 6} {region : Fin 16384} {r : OrgRec} (h : MemoryOk s) :
    OutOk (execCopyin stack region r s) :=
  .runRecord h (.addActive h)

protected theorem OutOk.execCopyout {stack : Fin 6} {region : Fin 16384} {r : OrgRec} (h : MemoryOk s) :
    OutOk (execCopyout stack region r s) :=
  .runRecord h (.addActive h)

protected theorem OutOk.execDigest {stack : Fin 6} {region : Fin 16384} {r : OrgRec} (h : MemoryOk s) :
    OutOk (execDigest stack region r s) :=
  .runRecord h (.addActive h)

protected theorem OutOk.execRelease {stack : Fin 6} {region : Fin 16384} {r : OrgRec} (h : MemoryOk s) :
    OutOk (execRelease stack region r s) :=
  .runRecord h (.startRelease h)

protected theorem MemoryOk.copyFault {k : Nat} {bad : Bool} (h : MemoryOk s) : MemoryOk (copyFault s k bad) :=
  .ite (.holderFault h (fun _ h => h)) h

protected theorem MemoryOk.copyBytes {k src dst n : Nat} (h : MemoryOk s) : MemoryOk (copyBytes s k src dst n) :=
  .copyFault (.memWriteBad (.openRows (.memFetch (.openRows h))))

protected theorem MemoryOk.digestBlock {k da : Nat} (h : MemoryOk s) : MemoryOk (digestBlock s k da).2.2 :=
  List.foldlRecOn (motive := fun a : Bool × State => MemoryOk a.2) _ _ (MemoryOk.closeWhere (.checkMaps h))
      fun _ ha _ _ => .fetchWord ha

protected theorem MemoryOk.digestBlocks {k n da far : Nat} (h : MemoryOk s) : MemoryOk (digestBlocks k n da far s) := by
  induction n generalizing s da far with
  | zero => exact h
  | succ n ih => exact ih (.copyFault (.memWriteBad (.openRows (.digestBlock h))))

protected theorem MemoryOk.recEffect {k : Nat} {a : RecJob} (h : MemoryOk s) : MemoryOk (recEffect s k a) := by
  unfold recEffect
  split
  · exact .applyCmpl h
  · exact .applyCmpl h
  · exact .applyCmpl (.copyBytes h)
  · exact .applyCmpl (.copyBytes h)
  · exact .applyCmpl (.digestBlocks h)

protected theorem OutOk.execBankRecordComplete {stack : Fin 6} (h : MemoryOk s) : OutOk (execBankRecordComplete stack s) := by
  unfold execBankRecordComplete
  dsimp only
  split
  · exact .next h
  · exact .next (.recEffect (.modStack h))

protected theorem MemoryOk.arriveRecord {k : Fin 6} {r : Fin 16384} {bs : List Byte} (h : MemoryOk s) :
    MemoryOk (arriveRecord s k r bs) := by
  unfold arriveRecord
  split
  · exact .hold h
  · exact .ite (.countStale h) (.malformed h)

protected theorem MemoryOk.windowWrite {k : Fin 6} {r : Fin 16384} {ofs : Nat} {data : List Byte} (h : MemoryOk s) :
    MemoryOk (windowWrite s k r ofs data) :=
  .foldl (fun _ _ h => .ite (.countStale h) (.ite (.arriveRecord h) (.malformed h))) h

protected theorem MemoryOk.orgWriteFrom {lc : Option Nat} {da : Nat} {data : List Byte} {bad : List Bool} {src : Nat}
    (h : MemoryOk s) : MemoryOk (orgWriteFrom s lc da data bad src) :=
  .ite (.ite (.windowWrite h) (.memWriteBad (.openRows (.windowWrite h)))) (.writeThrough (.openRows h))

protected theorem MemoryOk.orgWrite {lc : Option Nat} {da : Nat} {data : List Byte} {bad : List Bool} (h : MemoryOk s) :
    MemoryOk (orgWrite s lc da data bad) :=
  .orgWriteFrom h

protected theorem MemoryOk.orgRead {req : Nat} {lc : Option Nat} {da n : Nat} (h : MemoryOk s) :
    MemoryOk (orgRead s req lc da n).st := by
  unfold orgRead
  split
  · exact h
  · exact .memFetch (.openRows h)

protected theorem AnsOk.orgPost {k n : Nat} {data : List Byte} (h : MemoryOk s) : AnsOk (orgPost s k n data) :=
  .ite (.refused h) (.ite (.full h) (.ok (.modStack (.arriveRecord (.arriveRecord h)))))

end Sys2Proof.Machine
end

section
/-! PROOFS. The memories keep their canonical form: bank units, power, gates, feeders and the vector engine. -/

namespace Sys2Proof.Machine

open Sys2Proof

variable {s : State}

protected theorem MemoryOk.logUnitError (h : MemoryOk s) : MemoryOk (logUnitError s) := .logAdd (.drawn h)

protected theorem MemoryOk.unitFail {k u code : Nat} {addr : Word} (h : MemoryOk s) : MemoryOk (unitFail s k u code addr) :=
  .holderFault (.modStack (.modUnit (.ite h (.logUnitError h)))) (fun _ h => .notify h)

protected theorem OutOk.unitRun {i : Instr} {k u : Nat} {f : BUnit → UnitStep} (h : MemoryOk s) (hF : ∀ a, UnitOk (f a)) :
    OutOk (unitRun i k u s f) := by
  refine .ite (.next h) (.ite (.next (.hold (.modUnit h))) ?_)
  split
  · next t _ _ ht =>
      have hT : MemoryOk t := UnitOk.of_ok (hF _) ht
      exact .ite (.next (.unitFail h)) (.next (.modUnit hT))
  · next t _ ht =>
      have hT : MemoryOk t := UnitOk.of_wait (hF _) ht
      exact .next (.hold (.modUnit hT))
  · next t ht =>
      have hT : MemoryOk t := UnitOk.of_suspended (hF _) ht
      exact .next (.hold hT)
  · next t _ _ ht =>
      have hT : MemoryOk t := UnitOk.of_fail (hF _) ht
      exact .next (.unitFail hT)
  · next t ht =>
      have hT : MemoryOk t := UnitOk.of_done (hF _) ht
      exact .next (.modStack (.modUnit hT))

protected theorem UnitOk.unitRow {k u da : Nat} {go : State → UnitStep} (h : MemoryOk s) (hGo : ∀ a, MemoryOk a → UnitOk (go a)) :
    UnitOk (unitRow s k u da go) :=
  .ite (.suspended (.modUnit (.modStack (.modStack h)))) (hGo _ (.modStack (.modStack h)))

protected theorem OutOk.unitLocal {i : Instr} {k u : Nat} {f : BUnit → BUnit} (h : MemoryOk s) : OutOk (unitLocal i k u s f) :=
  .unitRun h (fun _ => .ok h)

protected theorem OutOk.execBuNop {u : BankUnit} (h : MemoryOk s) : OutOk (execBuNop u s) := .unitLocal h

protected theorem OutOk.execBuLd {u : BankUnit} {d a : Fin 64} (h : MemoryOk s) : OutOk (execBuLd u d a s) := by
  refine .unitRun h (fun _ => ?_)
  split
  · exact .fail h
  · exact .unitRow h (fun _ h => .ite (.fail (.memFetch h)) (.ok (.memFetch h)))

protected theorem MemoryOk.countHot {k : Nat} {x : BUnit} (h : MemoryOk s) : MemoryOk (countHot s k x) := .ite h (.modStack h)

protected theorem OutOk.execBuSt {u : BankUnit} {a b : Fin 64} (h : MemoryOk s) : OutOk (execBuSt u a b s) := by
  refine .unitRun h (fun _ => ?_)
  split
  · exact .fail h
  · exact .ite (.wait (.countHot h)) (.unitRow h (fun _ h => .ok (.memWrite h)))

protected theorem OutOk.execBuLdi {u : BankUnit} {d : Fin 64} {imm : BitVec 20} (h : MemoryOk s) : OutOk (execBuLdi u d imm s) :=
  .unitLocal h

protected theorem OutOk.execBuIadd {u : BankUnit} {d a b : Fin 64} (h : MemoryOk s) : OutOk (execBuIadd u d a b s) := .unitLocal h

protected theorem OutOk.execBuIaddi {u : BankUnit} {d a : Fin 64} {imm : BitVec 14} (h : MemoryOk s) :
    OutOk (execBuIaddi u d a imm s) :=
  .unitLocal h

protected theorem OutOk.execBuLoop {u : BankUnit} {a : Fin 64} {imm : BitVec 14} (h : MemoryOk s) :
    OutOk (execBuLoop u a imm s) :=
  .unitRun h (fun _ => .ok h)

protected theorem OutOk.execBuBr {u : BankUnit} {imm : BitVec 14} (h : MemoryOk s) : OutOk (execBuBr u imm s) :=
  .unitRun h (fun _ => .ok h)

protected theorem OutOk.execBuEnd {u : BankUnit} (h : MemoryOk s) : OutOk (execBuEnd u s) := .unitRun h (fun _ => .done h)

protected theorem OutOk.execBuFadd {u : BankUnit} {half : Bool} {d a b : Fin 64} (h : MemoryOk s) :
    OutOk (execBuFadd u half d a b s) :=
  .unitLocal h

protected theorem OutOk.execBuFsub {u : BankUnit} {half : Bool} {d a b : Fin 64} (h : MemoryOk s) :
    OutOk (execBuFsub u half d a b s) :=
  .unitLocal h

protected theorem OutOk.execBuFmul {u : BankUnit} {half : Bool} {d a b : Fin 64} (h : MemoryOk s) :
    OutOk (execBuFmul u half d a b s) :=
  .unitLocal h

protected theorem OutOk.execBuFfma {u : BankUnit} {half : Bool} {d a b c : Fin 64} (h : MemoryOk s) :
    OutOk (execBuFfma u half d a b c s) :=
  .unitLocal h

protected theorem OutOk.execBuFmin {u : BankUnit} {half : Bool} {d a b : Fin 64} (h : MemoryOk s) :
    OutOk (execBuFmin u half d a b s) :=
  .unitLocal h

protected theorem OutOk.execBuFmax {u : BankUnit} {half : Bool} {d a b : Fin 64} (h : MemoryOk s) :
    OutOk (execBuFmax u half d a b s) :=
  .unitLocal h

protected theorem OutOk.execBuFclt {u : BankUnit} {half : Bool} {d a b : Fin 64} (h : MemoryOk s) :
    OutOk (execBuFclt u half d a b s) :=
  .unitLocal h

protected theorem OutOk.execBuFsel {u : BankUnit} {half : Bool} {d a b c : Fin 64} (h : MemoryOk s) :
    OutOk (execBuFsel u half d a b c s) :=
  .unitLocal h

protected theorem OutOk.execBuFrcp {u : BankUnit} {d a : Fin 64} (h : MemoryOk s) : OutOk (execBuFrcp u d a s) := .unitLocal h

protected theorem OutOk.execBuFrsq {u : BankUnit} {d a : Fin 64} (h : MemoryOk s) : OutOk (execBuFrsq u d a s) := .unitLocal h

protected theorem OutOk.execBuBcast {u : BankUnit} {half : Bool} {d a : Fin 64} (h : MemoryOk s) :
    OutOk (execBuBcast u half d a s) :=
  .unitLocal h

protected theorem OutOk.execBuCvt {u : BankUnit} {d a : Fin 64} {fmt : Fin 6} {sat rnd : Bool} {c : Fin 8} (h : MemoryOk s) :
    OutOk (execBuCvt u d a fmt sat rnd c s) :=
  .unitRun h (fun _ => .ite (.fail h) (.ok h))

protected theorem OutOk.execBuExt {u : BankUnit} {d a : Fin 64} {fmt : Fin 6} {c : Fin 8} (h : MemoryOk s) :
    OutOk (execBuExt u d a fmt c s) :=
  .unitRun h (fun _ => .ite (.fail h) (.ok h))

protected theorem OutOk.execBuRand {u : BankUnit} {d : Fin 64} (h : MemoryOk s) : OutOk (execBuRand u d s) := .unitLocal h

protected theorem OutOk.execBuPut {u : BankUnit} {a : Fin 64} (h : MemoryOk s) : OutOk (execBuPut u a s) := .unitLocal h

protected theorem OutOk.execBuCsend {u : BankUnit} {a : Fin 64} (h : MemoryOk s) : OutOk (execBuCsend u a s) := by
  refine .unitRun h (fun _ => ?_)
  split
  · exact .ite (.wait h) (.ok (.modUnit h))
  · exact .ok (.modUnit h)

protected theorem OutOk.execBuCrecv {u : BankUnit} {d : Fin 64} (h : MemoryOk s) : OutOk (execBuCrecv u d s) := by
  refine .unitRun h (fun _ => .ite (.ok h) ?_)
  split
  · exact .wait h
  · exact .ok h

protected theorem OutOk.execCoreGate {lc : Lc} (h : MemoryOk s) : OutOk (execCoreGate lc s) := by
  unfold execCoreGate
  split
  · exact .next h
  · exact .ite (.next h) (.next (.sendIntents (.modSitePwr (.clearUnit (.setCore h)))))

protected theorem OutOk.execCanopyRetention {site : Site} (h : MemoryOk s) : OutOk (execCanopyRetention site s) :=
  .ite (.next h) (.next (.modSitePwr h))

protected theorem OutOk.execInrushPermitGrant {zone : Fin 8} {margin : Option Byte} (h : MemoryOk s) :
    OutOk (execInrushPermitGrant zone margin s) := by
  unfold execInrushPermitGrant
  dsimp only
  split
  · exact .next h
  · exact .ite (.next h) (.next (.ite (.update (.modZone h)) (.modZone h)))

protected theorem OutOk.execSlowRamp {site : Site} (h : MemoryOk s) : OutOk (execSlowRamp site s) :=
  .ite (.next (.update (.modZone h))) (.next h)

protected theorem OutOk.execPowerGood {site : Site} {canopy : Bool} (h : MemoryOk s) : OutOk (execPowerGood site canopy s) := by
  unfold execPowerGood
  dsimp only
  split
  · exact .next h
  · exact .next (.modSitePwr (.modZone h))

protected theorem OutOk.execDroopTrip {region : Fin 5} {deep : Bool} (h : MemoryOk s) : OutOk (execDroopTrip region deep s) :=
  .ite (.next h) (.next (.modClk h))

protected theorem OutOk.execDroopRelease {region : Fin 5} (h : MemoryOk s) : OutOk (execDroopRelease region s) :=
  .next (.modClk h)

protected theorem OutOk.execPreboostStart {lc : Lc} {a : Fin 16} (h : MemoryOk s) : OutOk (execPreboostStart lc a s) := by
  unfold execPreboostStart
  dsimp only
  split
  · exact .next h
  · exact .ite (.next h) (.next (.modCore h))

protected theorem OutOk.execPreboostEnd {lc : Lc} (h : MemoryOk s) : OutOk (execPreboostEnd lc s) := .next (.modCore h)

protected theorem OutOk.execVrAlert (h : MemoryOk s) : OutOk (execVrAlert s) := .ite (.next h) (.next h)

protected theorem OutOk.execVrAlertRelease (h : MemoryOk s) : OutOk (execVrAlertRelease s) := .next h

protected theorem MemoryOk.setLoop {n : Nat} {l : PowerLoop} (h : MemoryOk s) : MemoryOk (s.setLoop n l) := .ite h h

protected theorem MemoryOk.capsInForce {n : Nat} (h : MemoryOk s) : MemoryOk (capsInForce s n) :=
  .foldl (fun _ _ h => .completeCmd h) h

protected theorem OutOk.execLoopStep {node : Fin 64} {p : PowerSample} (h : MemoryOk s) : OutOk (execLoopStep node p s) :=
  .ite (.next (.capsInForce h)) (.next (.ite (.update (.drawn (.setLoop (.capsInForce h)))) (.drawn (.setLoop (.capsInForce h)))))

protected theorem OutOk.execFreqLimStep (h : MemoryOk s) : OutOk (execFreqLimStep s) :=
  .ite (.next h) (.ite (.next h) (.ite (.next h) (.next h)))

protected theorem OutOk.execPauseDutyFrame {region : Fin 5} (h : MemoryOk s) : OutOk (execPauseDutyFrame region s) :=
  .next (.foldl (fun _ _ h => .modCore h) h)

protected theorem OutOk.gateIssue {i : Instr} {lc : Nat} {wait : Bool} {count : Core → Core} {act : State} (h : MemoryOk s)
    (hAct : MemoryOk act) : OutOk (gateIssue i lc s wait count act) :=
  .slotIssue h (.modCore hAct)

protected theorem MemoryOk.contractHazard {lc code : Nat} {aux : Word} (h : MemoryOk s) :
    MemoryOk (contractHazard s lc code aux) :=
  .faultCore h

protected theorem OutOk.gateChecked {i : Instr} {lc : Nat} {wait : Bool} {hazard : Option Nat} {aux : Word} {act : State}
    (h : MemoryOk s) (hAct : MemoryOk act) : OutOk (gateChecked i lc s wait hazard aux act) := by
  refine .slotIssue h ?_
  split
  · exact .contractHazard h
  · exact .modCore hAct

protected theorem OutOk.execGnop {lc : Lc} (h : MemoryOk s) : OutOk (execGnop lc s) := .gateIssue h h

protected theorem MemoryOk.gateHolds {lc : Nat} (h : MemoryOk s) : MemoryOk (gateHolds s lc) := .ite h (.drawn (.modCore h))

protected theorem MemoryOk.accountWait {lc g : Nat} (h : MemoryOk s) : MemoryOk (accountWait s lc g) := by
  refine .ite (.ite (.modCore h) h) ?_
  split
  · exact .ite (.modCore h) h
  · exact .ite (.update (.modCore (.ite (.modCore h) h))) (.modCore (.ite (.modCore h) h))

protected theorem MemoryOk.endWait {lc g : Nat} (h : MemoryOk s) : MemoryOk (endWait s lc g) := .gateHolds (.accountWait h)

protected theorem OutOk.gateTake {i : Instr} {lc g n take : Nat} (h : MemoryOk s) : OutOk (gateTake i lc g n take s) :=
  .ite (.slotIssue h h) (.ite (.slotIssue h h) (.slotIssue (.endWait h) (.modCore (.endWait h))))

protected theorem OutOk.execGwait {lc : Lc} {g : Fin 64} {n : BitVec 24} (h : MemoryOk s) : OutOk (execGwait lc g n s) :=
  .gateTake h

protected theorem OutOk.execGpeek {lc : Lc} {g : Fin 64} {n : BitVec 24} (h : MemoryOk s) : OutOk (execGpeek lc g n s) :=
  .gateTake h

protected theorem OutOk.execGinc {lc : Lc} {g : Fin 64} {n : BitVec 24} (h : MemoryOk s) : OutOk (execGinc lc g n s) :=
  .slotIssue h (.incGate (.modCore h))

protected theorem MemoryOk.send {lc k g n : Nat} (h : MemoryOk s) : MemoryOk (s.send lc k g n) := h

protected theorem MemoryOk.completionInc {lc k g n : Nat} (h : MemoryOk s) : MemoryOk (completionInc s lc k g n) :=
  .ite h (.ite (.incGate h) h)

protected theorem OutOk.execGsend {lc : Lc} {target : Fin 1024} {g : Fin 64} {n : BitVec 24} (h : MemoryOk s) :
    OutOk (execGsend lc target g n s) :=
  .slotIssue h (.ite (.contractHazard h) (.ite (.incGate (.modCore h)) (.modCore (.send h))))

protected theorem OutOk.execGloop {lc : Lc} {depth : Fin 4} {iters : Half} {target : BitVec 13} (h : MemoryOk s) :
    OutOk (execGloop lc depth iters target s) :=
  .gateChecked h (.modCore h)

protected theorem OutOk.execGjump {lc : Lc} {seg : Byte} {target : BitVec 13} (h : MemoryOk s) :
    OutOk (execGjump lc seg target s) :=
  .slotIssue h (.ite (.contractHazard h) (.ite (.contractHazard h) (.modCore h)))

protected theorem MemoryOk.gsegAct {lc seg frame : Nat} (h : MemoryOk s) : MemoryOk (gsegAct lc seg frame s) :=
  .ite (.contractHazard h) (.modCore (OptOk.getD (.storeWait h) h))

protected theorem OutOk.execGseg {lc : Lc} {seg : Byte} {frame : Fin 8} (h : MemoryOk s) : OutOk (execGseg lc seg frame s) :=
  .slotIssue h (.gsegAct h)

protected theorem OutOk.execGsegLoadComplete {lc : Lc} {frame : Fin 8} (h : MemoryOk s) :
    OutOk (execGsegLoadComplete lc frame s) := by
  unfold execGsegLoadComplete
  split
  · exact .next h
  · exact .ite (.next h) (.ite (.next (.poisonFault (.modCore (.modCore (.drawn (.memFetch (.touchStore h))))))) (.next
        (.modCore (.modCore (.drawn (.memFetch (.touchStore h)))))))

protected theorem OutOk.execGphase {lc : Lc} {imm : Half} (h : MemoryOk s) : OutOk (execGphase lc imm s) :=
  .gateIssue h (.ite h (.sendIntents (.modCore h)))

protected theorem OutOk.execGpause {lc : Lc} {n : BitVec 24} (h : MemoryOk s) : OutOk (execGpause lc n s) :=
  .slotIssue h (.modCore h)

protected theorem MemoryOk.gendAct {lc : Nat} (h : MemoryOk s) : MemoryOk (gendAct lc s) := .jobEndAt (.modCore h)

protected theorem OutOk.execGend {lc : Lc} (h : MemoryOk s) : OutOk (execGend lc s) := .slotIssue h (.gendAct h)

protected theorem OutOk.execGpauseEnd {lc : Lc} (h : MemoryOk s) : OutOk (execGpauseEnd lc s) := .next (.modCore h)

protected theorem OutOk.execGateStall {lc : Lc} (h : MemoryOk s) : OutOk (execGateStall lc s) :=
  .ite (.next (.faultCore h)) (.next h)

protected theorem OutOk.execFnop {lc : Lc} {f : Feed} (h : MemoryOk s) : OutOk (execFnop lc f s) := .slotIssue h h

protected theorem OutOk.feedIssue {i : Instr} {lc : Nat} {f : Feed} {op : FeedOp} (h : MemoryOk s) :
    OutOk (feedIssue i lc f op s) :=
  .slotIssue h (.modCore h)

protected theorem OutOk.execFblk {lc : Lc} {f : Feed} {a : FBlkSlot} (h : MemoryOk s) : OutOk (execFblk lc f a s) := .feedIssue h

protected theorem OutOk.execFgath {lc : Lc} {f : Feed} {a : FGathSlot} (h : MemoryOk s) : OutOk (execFgath lc f a s) :=
  .feedIssue h

protected theorem OutOk.execFflush {lc : Lc} {f : Feed} (h : MemoryOk s) : OutOk (execFflush lc f s) :=
  .ite (.next (.fvHazard h)) (.slotIssue h (.modCore h))

protected theorem MemoryOk.readReqs {lc bundle : Nat} {r : BlockRead} {rs : List FeedReq} (h : MemoryOk s) :
    MemoryOk (readReqs s lc bundle r rs).1 := by
  refine List.foldlRecOn (motive := fun a : State × BlockRead => MemoryOk a.1) _ _ h fun a ha q _ => ?_
  cases q.place with
  | none => exact ha
  | some p => exact .fst (.storeRead ha)

protected theorem MemoryOk.serveRead {x : StoreCycle} {lc : Nat} {f : Feed} {i : FeedInstr} {r : BlockRead} (hX : MemoryOk x.st) :
    MemoryOk (serveRead x lc f i r).st := by
  unfold serveRead
  split
  · exact hX
  · split
    · exact .modCore hX
    · exact .ite (.modCore (.readReqs hX)) (.modCore (.readReqs hX))

protected theorem MemoryOk.startBlock {x : StoreCycle} {lc : Nat} {f : Feed} {i : FeedInstr} (hX : MemoryOk x.st) :
    MemoryOk (startBlock x lc f i).st := by
  unfold startBlock
  split
  · exact .fvHazard (.modCore hX)
  · exact .serveRead hX

protected theorem MemoryOk.startList {x : StoreCycle} {lc : Nat} {f : Feed} {i : FeedInstr} (hX : MemoryOk x.st) :
    MemoryOk (startList x lc f i).st := by
  unfold startList
  split
  · exact .startBlock hX
  · split
    · exact .startBlock hX
    · split
      · exact hX
      · exact .startBlock (.modCore (.storeRead hX))

protected theorem MemoryOk.feedCycle {x : StoreCycle} {lc : Nat} {f : Feed} (hX : MemoryOk x.st) :
    MemoryOk (feedCycle x lc f).st := by
  unfold feedCycle
  dsimp only
  split
  · exact .modCore hX
  · split
    · exact .serveRead (.modCore hX)
    · split
      · exact .modCore hX
      · exact .startList (.modCore hX)

protected theorem OutOk.execVnop {lc : Lc} (h : MemoryOk s) : OutOk (execVnop lc s) := .slotIssue h h

protected theorem OutOk.vecIssue {i : Instr} {lc : Nat} {a : VSlot} {k : Nat} {rs : List (Nat × Nat)} {act : Nat → Core → Core}
    (h : MemoryOk s) : OutOk (vecIssue i lc a k rs act s) :=
  .slotIssue h (.ite (.fvHazard h) (.drawn (.modCore (.coreRead h))))

protected theorem OutOk.vecMap1 {i : Instr} {lc : Nat} {a : VSlot} {f : Word → Word × Flags} (h : MemoryOk s) :
    OutOk (vecMap1 i lc a f s) := by
  unfold vecMap1
  exact .vecIssue h

protected theorem OutOk.vecMap2 {i : Instr} {lc : Nat} {a : VSlot} {f : Word → Word → Word × Flags} (h : MemoryOk s) :
    OutOk (vecMap2 i lc a f s) := by
  unfold vecMap2
  exact .vecIssue h

protected theorem OutOk.vecMap3 {i : Instr} {lc : Nat} {a : VSlot} {f : Word → Word → Word → Word × Flags} (h : MemoryOk s) :
    OutOk (vecMap3 i lc a f s) := by
  unfold vecMap3
  exact .vecIssue h

protected theorem OutOk.execVadd {lc : Lc} {a : VSlot} (h : MemoryOk s) : OutOk (execVadd lc a s) := .vecMap2 h

protected theorem OutOk.execVsub {lc : Lc} {a : VSlot} (h : MemoryOk s) : OutOk (execVsub lc a s) := .vecMap2 h

protected theorem OutOk.execVmul {lc : Lc} {a : VSlot} (h : MemoryOk s) : OutOk (execVmul lc a s) := .vecMap2 h

protected theorem OutOk.execVfma {lc : Lc} {a : VSlot} (h : MemoryOk s) : OutOk (execVfma lc a s) := .vecMap3 h

protected theorem OutOk.execVmin {lc : Lc} {a : VSlot} (h : MemoryOk s) : OutOk (execVmin lc a s) := .vecMap2 h

protected theorem OutOk.execVmax {lc : Lc} {a : VSlot} (h : MemoryOk s) : OutOk (execVmax lc a s) := .vecMap2 h

protected theorem OutOk.execVclt {lc : Lc} {a : VSlot} (h : MemoryOk s) : OutOk (execVclt lc a s) := .vecMap2 h

protected theorem OutOk.execVceq {lc : Lc} {a : VSlot} (h : MemoryOk s) : OutOk (execVceq lc a s) := .vecMap2 h

protected theorem OutOk.execVsel {lc : Lc} {a : VSlot} (h : MemoryOk s) : OutOk (execVsel lc a s) := .vecMap3 h

protected theorem OutOk.execVmov {lc : Lc} {a : VSlot} (h : MemoryOk s) : OutOk (execVmov lc a s) := .vecMap1 h

protected theorem OutOk.execVcvt {lc : Lc} {a : VSlot} (h : MemoryOk s) : OutOk (execVcvt lc a s) := .vecIssue h

protected theorem OutOk.execVext {lc : Lc} {a : VSlot} (h : MemoryOk s) : OutOk (execVext lc a s) := by
  unfold execVext
  exact .vecIssue h

protected theorem OutOk.vecSpecial {i : Instr} {lc : Nat} {a : VSlot} {f : Word → Word × Flags} (h : MemoryOk s) :
    OutOk (vecSpecial i lc a f s) := by
  unfold vecSpecial
  exact .vecIssue h

protected theorem OutOk.execVexp2 {lc : Lc} {a : VSlot} (h : MemoryOk s) : OutOk (execVexp2 lc a s) := .vecSpecial h

protected theorem OutOk.execVlog2 {lc : Lc} {a : VSlot} (h : MemoryOk s) : OutOk (execVlog2 lc a s) := .vecSpecial h

protected theorem OutOk.execVrcp {lc : Lc} {a : VSlot} (h : MemoryOk s) : OutOk (execVrcp lc a s) := .vecSpecial h

protected theorem OutOk.execVrsqrt {lc : Lc} {a : VSlot} (h : MemoryOk s) : OutOk (execVrsqrt lc a s) := .vecSpecial h

protected theorem OutOk.execVtanh {lc : Lc} {a : VSlot} (h : MemoryOk s) : OutOk (execVtanh lc a s) := .vecSpecial h

protected theorem OutOk.execVsigm {lc : Lc} {a : VSlot} (h : MemoryOk s) : OutOk (execVsigm lc a s) := .vecSpecial h

protected theorem OutOk.vecReduce {i : Instr} {lc : Nat} {a : VSlot} {lat : Nat} {groups : List Word → List (List Word)}
    {f : Word → Word → Word × Flags} (h : MemoryOk s) : OutOk (vecReduce i lc a lat groups f s) := by
  unfold vecReduce
  exact .vecIssue h

protected theorem OutOk.execVrsumr {lc : Lc} {a : VSlot} (h : MemoryOk s) : OutOk (execVrsumr lc a s) := .vecReduce h

protected theorem OutOk.execVrmaxr {lc : Lc} {a : VSlot} (h : MemoryOk s) : OutOk (execVrmaxr lc a s) := .vecReduce h

protected theorem OutOk.execVrsumc {lc : Lc} {a : VSlot} (h : MemoryOk s) : OutOk (execVrsumc lc a s) := .vecReduce h

protected theorem OutOk.execVrmaxc {lc : Lc} {a : VSlot} (h : MemoryOk s) : OutOk (execVrmaxc lc a s) := .vecReduce h

protected theorem OutOk.execVrsum {lc : Lc} {a : VSlot} (h : MemoryOk s) : OutOk (execVrsum lc a s) := .vecReduce h

protected theorem OutOk.execVrmax {lc : Lc} {a : VSlot} (h : MemoryOk s) : OutOk (execVrmax lc a s) := .vecReduce h

protected theorem OutOk.execVsmstat {lc : Lc} {a : VSlot} (h : MemoryOk s) : OutOk (execVsmstat lc a s) := .vecIssue h

protected theorem OutOk.execVsmexp {lc : Lc} {a : VSlot} (h : MemoryOk s) : OutOk (execVsmexp lc a s) := .vecIssue h

protected theorem OutOk.execVmask {lc : Lc} {a : VSlot} (h : MemoryOk s) : OutOk (execVmask lc a s) := by
  unfold execVmask
  exact .vecIssue h

protected theorem OutOk.execVdrop {lc : Lc} {a : VSlot} (h : MemoryOk s) : OutOk (execVdrop lc a s) := by
  unfold execVdrop
  exact .vecIssue h

protected theorem OutOk.accIssue {i : Instr} {lc : Nat} {load : Bool} {a : VSlot} (h : MemoryOk s) :
    OutOk (accIssue i lc load a s) :=
  .slotIssue h (.modCore (.ite h (.coreRead h)))

protected theorem OutOk.execVld {lc : Lc} {a : VSlot} (h : MemoryOk s) : OutOk (execVld lc a s) := .accIssue h

protected theorem OutOk.execVst {lc : Lc} {a : VSlot} (h : MemoryOk s) : OutOk (execVst lc a s) := .accIssue h

protected theorem MemoryOk.accBeat {x : StoreCycle} {lc : Nat} {a : StoreAcc} (hX : MemoryOk x.st) :
    MemoryOk (accBeat x lc a).st := by
  refine .drawn (.modCore ?_)
  split
  · exact .storeRead hX
  · exact .drawn hX

protected theorem MemoryOk.accCycle {x : StoreCycle} {lc : Nat} (hX : MemoryOk x.st) : MemoryOk (accCycle x lc).st := by
  unfold accCycle
  split
  · exact hX
  · split
    · exact hX
    · exact .accBeat hX

protected theorem MemoryOk.storesDue {lc : Nat} (h : MemoryOk s) : MemoryOk (storesDue s lc) :=
  .ite h (.foldl (fun _ _ h => .memWrite h) (.modCore h))

protected theorem MemoryOk.storeCycle {lc : Nat} (h : MemoryOk s) : MemoryOk (storeCycle s lc) := by
  unfold storeCycle
  extract_lets decoded x stored
  have hStored : MemoryOk stored := .storesDue (.accCycle (.feedCycle (.feedCycle (.modCore h))))
  exact .ite (.modCore hStored) hStored

end Sys2Proof.Machine
end

section
/-! PROOFS. The memories keep their canonical form: movers, packets and the Trellis. -/

namespace Sys2Proof.Machine

open Sys2Proof

variable {s : State}

protected theorem MemoryOk.queueMove {lc : Nat} {clear : Bool} {a : MSlot} (h : MemoryOk s) : MemoryOk (queueMove s lc clear a) :=
  .ite (.poisonFault (.modCore (.drawn (.memFetch h)))) (.modCore (.drawn (.memFetch h)))

protected theorem OutOk.execMnop {lc : Lc} (h : MemoryOk s) : OutOk (execMnop lc s) := .slotIssue h h

protected theorem OutOk.execMcopy {lc : Lc} {a : MSlot} (h : MemoryOk s) : OutOk (execMcopy lc a s) := .slotIssue h (.queueMove h)

protected theorem OutOk.execMclear {lc : Lc} {a : MSlot} (h : MemoryOk s) : OutOk (execMclear lc a s) :=
  .slotIssue h (.queueMove h)

protected theorem MemoryOk.moveFails {lc mover : Nat} {x : Xfer} {f : MoveFail} (h : MemoryOk s) :
    MemoryOk (moveFails s lc mover x f) :=
  .ite (.modCore h) (.faultCore (.modCore h))

protected theorem AccessOk.xferAccess {x : Xfer} (h : MemoryOk s) : AccessOk (xferAccess s x) := by
  refine List.foldlRecOn _ _ (motive := AccessOk) trivial fun a ha e _ => ?_
  split
  · exact .ite trivial (.orgAccessRange h)
  · exact ha

protected theorem MemoryOk.readSource {lc : Nat} {rs : List (Nat × Nat)} (h : MemoryOk s) : MemoryOk (readSource s lc rs).st :=
  List.foldlRecOn (motive := fun f : Fetched => MemoryOk f.st) _ _ h fun _ hf _ _ => .orgRead hf

protected theorem MemoryOk.mixRanges {rs : List (Nat × Nat)} {data : List Byte} (h : MemoryOk s) :
    MemoryOk (mixRanges s rs data) := by
  induction rs generalizing s data with
  | nil => exact h
  | cons e es ih => exact .ite (ih h) (ih (.setMem (Tbl.wf_setMany 0 _ _ _ h.1) h))

protected theorem MemoryOk.beginMove {lc m : Nat} {x : Xfer} (h : MemoryOk s) : MemoryOk (beginMove s lc m x) := by
  unfold beginMove
  split
  · exact .ite (.modCore h) (.modCore (.drawn (.mixRanges (.readSource h))))
  · next t ht =>
      have hT : MemoryOk t := AccessOk.of_eq (.xferAccess h) ht
      exact .modCore hT
  · exact .modCore h

protected theorem OutOk.execMoveStart {lc : Lc} {m : Fin 4} (h : MemoryOk s) : OutOk (execMoveStart lc m s) := by
  unfold execMoveStart
  dsimp only
  split
  · exact .next h
  · refine .ite ?_ (.next h)
    split
    · exact .next (.moveFails (.modCore h))
    · exact .next (.noteHold (.beginMove (.modCore h)))

protected theorem MemoryOk.writeRows {lc n : Nat} {rs : List (Nat × Nat)} {data : List Byte} {bad : List Bool} (h : MemoryOk s) :
    MemoryOk (writeRows s lc n rs data bad) := by
  induction rs generalizing s data bad with
  | nil => exact h
  | cons e es ih => exact ih (.orgWrite h)

protected theorem MemoryOk.spoilOverlap {x : Xfer} (h : MemoryOk s) : MemoryOk (spoilOverlap s x) := by
  refine .ite (.setMem (List.foldlRecOn (motive := fun t : Tbl Byte => Tbl.wf 0 t = true) _ _ h.1 fun t ht e _ => ?_) h) h
  split
  · exact Tbl.wf_set 0 t e.1 _ ht
  · exact ht

protected theorem MemoryOk.moveBytes {lc : Nat} {x : Xfer} {te : List (Nat × Bool)} (h : MemoryOk s) :
    MemoryOk (moveBytes s lc x te) := by
  have hMoved : ∀ f : Fetched, MemoryOk f.st → ∀ marks, MemoryOk (spoilOverlap
      (writeRows f.st lc x.rowLen x.writes f.bytes marks) x) :=
    fun f hf marks => .spoilOverlap (.writeRows hf)
  have hRead : MemoryOk (if x.taken then ({ bytes := delivered s x, bad := x.bad, st := s.drawn 1 } : Fetched) else readSource s
      lc x.reads).st := by
    rw [apply_ite Fetched.st]
    exact .ite (.drawn h) (.readSource h)
  exact .ite (.foldl (fun _ _ h => .memClear h) h)
    (.ite (.poisonFault (.transitLog (.transitCe (hMoved _ hRead _)))) (.transitLog (.transitCe (hMoved _ hRead _))))

protected theorem MemoryOk.endMove {lc : Lc} {m : Fin 4} {x : Xfer} (h : MemoryOk s) : MemoryOk (endMove s lc m x) :=
  .completionInc (.modCore h)

protected theorem MemoryOk.moved {lc : Lc} {m : Fin 4} {x : Xfer} (h : MemoryOk s) : MemoryOk (moved s lc m x) :=
  .ite (.endMove h) (.modCore h)

protected theorem OutOk.execMoveComplete {lc : Lc} {m : Sent (Fin 4)} (h : MemoryOk s) : OutOk (execMoveComplete lc m s) := by
  unfold execMoveComplete
  dsimp only
  split
  · exact .next h
  · refine .ite (.next (.ite (.endMove h) h)) (.ite (.next h) ?_)
    split
    · exact .ite (.next h) (.ite (.next (.moved (.moveBytes h))) (.next h))
    · next t ht =>
        have hT : MemoryOk t := AccessOk.of_eq (.xferAccess h) ht
        exact .next hT
    · exact .next (.noteHold h)

protected theorem MemoryOk.moverCycle {lc : Lc} {m : Fin 4} (h : MemoryOk s) : MemoryOk (moverCycle s lc m) := by
  unfold moverCycle
  dsimp only
  split
  · exact .ite (.moved h) (.ite (.modCore (.noteHold h)) (.noteHold h))
  · exact h
  · refine .ite ?_ (.modCore h)
    split
    · next ht => exact OutOk.of_eq (.execMoveStart h) ht
    · exact h

protected theorem MemoryOk.sendRsp {r : Rsp} (h : MemoryOk s) : MemoryOk (sendRsp s r) := h

protected theorem MemoryOk.answer {p : Pkt} {kind : RspKind} {data : List (Option Byte)} (h : MemoryOk s) :
    MemoryOk (answer s p kind data) :=
  .sendRsp h

protected theorem MemoryOk.absorb {p : Pkt} (h : MemoryOk s) : MemoryOk (absorb s p) := .answer (.modRouter h)

protected theorem OutOk.servePkt {p : Pkt} {n : Nat} {hold : Instr} {write : Bool} {act : Nat → State} (h : MemoryOk s)
    (hAct : ∀ a, MemoryOk (act a)) : OutOk (servePkt s p n hold write act) := by
  refine .ite (.next h) (.ite (.next (.hold h)) (.ite (.next (.absorb h)) ?_))
  split
  · exact .next (.answer h)
  · split
    · exact .ite (.next (.hold h)) (.next (hAct _))
    · next t ht =>
        have hT : MemoryOk t := AccessOk.of_eq (.ite (.orgWriteRange h) (.orgAccessRange h)) ht
        exact .next (.hold hT)
    · exact .next (.hold h)
    · exact .next (.answer h)

protected theorem OutOk.execWrite {p : Pkt} {te : List (Nat × Bool)} (h : MemoryOk s) : OutOk (execWrite p te s) :=
  .servePkt h (fun _ => .answer (.transitLog (.orgWrite (.transitCe h))))

protected theorem OutOk.execRead {p : Pkt} (h : MemoryOk s) : OutOk (execRead p s) := .servePkt h (fun _ => .answer (.orgRead h))

protected theorem OutOk.execClear {p : Pkt} {len : Nat} (h : MemoryOk s) : OutOk (execClear p len s) :=
  .servePkt h (fun _ => .answer (.memClear h))

protected theorem OutOk.deliver {dst src : BitVec 10} {tag : Byte} {mgmt : Bool} {k : RspKind → Bool} {bytes : State → Rsp →
    State × Rsp}
    (h : MemoryOk s) (hBytes : ∀ s r, MemoryOk s → MemoryOk (bytes s r).1) : OutOk (deliver s dst src tag mgmt k bytes) := by
  unfold deliver
  split
  · exact .next h
  · exact .ite (.next h) (.ite (.next (.update (hBytes _ _ h))) (.next (.update (hBytes _ _ h))))

protected theorem MemoryOk.readTransit {te : List (Nat × Bool)} {r : Rsp} (h : MemoryOk s) : MemoryOk (readTransit te s r).1 := by
  unfold readTransit
  exact .fst (.transitLog (.transitCe h))

protected theorem OutOk.execRdata {dst src : BitVec 10} {tag : Sent Byte} (h : MemoryOk s) : OutOk (execRdata dst src tag s) :=
  .deliver h (fun _ _ h => .readTransit h)

protected theorem OutOk.execWack {dst src : BitVec 10} {tag : Byte} (h : MemoryOk s) : OutOk (execWack dst src tag s) :=
  .deliver h (fun _ _ h => h)

protected theorem OutOk.execTreset {dst src : BitVec 10} {tag : Byte} (h : MemoryOk s) : OutOk (execTreset dst src tag s) :=
  .deliver h (fun _ _ h => h)

protected theorem OutOk.execRerr {dst src : BitVec 10} {tag : Byte} (h : MemoryOk s) : OutOk (execRerr dst src tag s) :=
  .deliver h (fun _ _ h => h)

protected theorem OutOk.execCresp {dst src : BitVec 10} {tag : Byte} (h : MemoryOk s) : OutOk (execCresp dst src tag s) :=
  .deliver h (fun _ _ h => h)

protected theorem OutOk.execInc {src dst : Lc} (h : MemoryOk s) : OutOk (execInc src dst s) := by
  unfold execInc
  split
  · exact .next h
  · exact .ite (.next h) (.next (.incGate h))

protected theorem OutOk.execBlame {src dst : Lc} (h : MemoryOk s) : OutOk (execBlame src dst s) := by
  unfold execBlame
  split
  · exact .next h
  · exact .ite (.next h) (.next (.modCore h))

protected theorem OutOk.execMapupd {site : Site} (h : MemoryOk s) : OutOk (execMapupd site s) := .next h

protected theorem OutOk.execBdata {router : Fin 891} {t : Target} {ofs : BitVec 40} {data : List Byte} (h : MemoryOk s) :
    OutOk (execBdata router t ofs data s) :=
  .ite (.next (.modRouter (.broadcast h))) (.next (.update (.broadcast h)))

protected theorem MemoryOk.failPort {e port : Nat} (h : MemoryOk s) : MemoryOk (failPort s e port) := .ite (.modRouter h) h

protected theorem MemoryOk.failLink {b port : Nat} (h : MemoryOk s) : MemoryOk (failLink s b port) := by
  unfold failLink
  split
  · exact .failPort (.update (.failPort (.modRouter h)))
  · exact .failPort (.modRouter h)

protected theorem MemoryOk.linkFailed {b port : Nat} (h : MemoryOk s) : MemoryOk (linkFailed s b port) :=
  .healthEvent (.notify (.update (.failLink h)))

protected theorem MemoryOk.crcCounted {w : BitVec 128} {n : Nat} (h : MemoryOk s) : MemoryOk (crcCounted s w n) :=
  .ite (.modRouter h) h

protected theorem OutOk.execReplay {router : Fin 891} {port : Fin 347} {flit : Flit} (h : MemoryOk s) :
    OutOk (execReplay router port flit s) := by
  unfold execReplay
  split
  · exact .next h
  · exact .ite (.next h) (.ite (.next (.crcCounted h)) (.next (.ite (.linkFailed (.modRouter (.crcCounted h))) (.modRouter
        (.crcCounted h)))))

protected theorem MemoryOk.dropFlight {src : Nat} (h : MemoryOk s) : MemoryOk (dropFlight s src) := by
  unfold dropFlight
  split
  · exact h
  · split <;> exact h

protected theorem OutOk.execEvent {router : Fin 891} {src : BitVec 10} {node : Option (Fin 64)} {cmd : Option (BitVec 16 × Word)}
    (h : MemoryOk s) : OutOk (execEvent router src node cmd s) := by
  unfold execEvent
  split
  · dsimp only
    split
    · exact .next (.faultCore (.modRouter (.dropFlight h)))
    · exact .next (.modRouter (.dropFlight h))
  · split
    · dsimp only
      split
      · exact .next (.completeCmd (.update (.modRouter (.dropFlight h))))
      · exact .next (.modRouter (.dropFlight h))
    · exact .next (.modRouter (.dropFlight h))

end Sys2Proof.Machine
end

section
/-! PROOFS. The memories keep their canonical form: bring-up, serving and posts. -/

namespace Sys2Proof.Machine

open Sys2Proof

variable {s : State}

protected theorem MemoryOk.clearPart {cause phase : Nat} {link : Bool} (h : MemoryOk s) :
    MemoryOk (clearPart s cause phase link) :=
  ⟨Tbl.wf_nil 0, h.2⟩

protected theorem MemoryOk.wholeReset {cause : Nat} {link : Bool} (h : MemoryOk s) : MemoryOk (wholeReset s cause link) :=
  .clearPart h

protected theorem OutOk.execVinAuxEnter (h : MemoryOk s) : OutOk (execVinAuxEnter s) :=
  .ite (.next h) (.next ⟨reset_memory_wf, h.2⟩)

protected theorem OutOk.execVinAuxLeave (h : MemoryOk s) : OutOk (execVinAuxLeave s) := .next ⟨reset_memory_wf, h.2⟩

protected theorem OutOk.execMainRailsInRange (h : MemoryOk s) : OutOk (execMainRailsInRange s) := .ite (.next h) (.next h)

protected theorem OutOk.execMainRailsRemoved (h : MemoryOk s) : OutOk (execMainRailsRemoved s) := .ite (.next h) (.next h)

protected theorem MemoryOk.stopPart {cause : Nat} (h : MemoryOk s) : MemoryOk (stopPart s cause) := .clearPart h

protected theorem OutOk.execMainRailLost (h : MemoryOk s) : OutOk (execMainRailLost s) :=
  .ite (.next (.update (.stopPart h))) (.next h)

protected theorem MemoryOk.restart (h : MemoryOk s) : MemoryOk (restart s) := .ite h h

protected theorem OutOk.execRailLossRestart (h : MemoryOk s) : OutOk (execRailLossRestart s) :=
  .ite (.next (.restart h)) (.next h)

protected theorem OutOk.execRefclkSysLost (h : MemoryOk s) : OutOk (execRefclkSysLost s) :=
  .ite (.next h) (.next (.update (.stopPart h)))

protected theorem OutOk.execRefclkSysRestored (h : MemoryOk s) : OutOk (execRefclkSysRestored s) :=
  .ite (.next (.restart h)) (.next h)

protected theorem OutOk.execAuxClkLost (h : MemoryOk s) : OutOk (execAuxClkLost s) := .ite (.next h) (.next h)

protected theorem OutOk.execPciePerstNAssert (h : MemoryOk s) : OutOk (execPciePerstNAssert s) :=
  .ite (.next h) (.next (.wholeReset h))

protected theorem OutOk.execPciePerstNDeassert (h : MemoryOk s) : OutOk (execPciePerstNDeassert s) := .next h

protected theorem OutOk.execPcieLinkUp (h : MemoryOk s) : OutOk (execPcieLinkUp s) := .ite (.next h) (.next h)

protected theorem OutOk.execHotReset (h : MemoryOk s) : OutOk (execHotReset s) := .ite (.next (.wholeReset h)) (.next h)

protected theorem OutOk.execLinkLost (h : MemoryOk s) : OutOk (execLinkLost s) := .ite (.next (.wholeReset h)) (.next h)

protected theorem OutOk.execResetScope3Begin (h : MemoryOk s) : OutOk (execResetScope3Begin s) := by
  unfold execResetScope3Begin
  split
  · exact .ite (.next (.wholeReset h)) (.next h)
  · exact .next h

protected theorem MemoryOk.bootEvent {sub : Nat} (h : MemoryOk s) : MemoryOk (bootEvent s sub) := .healthEvent h

protected theorem OutOk.execWatchdogExpiry (h : MemoryOk s) : OutOk (execWatchdogExpiry s) :=
  .ite (.next h) (.next (.wholeReset (.bootEvent h)))

protected theorem MemoryOk.endStep {n : Nat} (h : MemoryOk s) : MemoryOk (endStep s n) := h

protected theorem MemoryOk.bootFatal {fail : Nat} (h : MemoryOk s) : MemoryOk (bootFatal s fail) := .bootEvent h

protected theorem OutOk.execAuxStart (h : MemoryOk s) : OutOk (execAuxStart s) := .ite (.next (.endStep h)) (.next h)

protected theorem OutOk.execKioskBoot {selfTest copy : Bool} (h : MemoryOk s) : OutOk (execKioskBoot selfTest copy s) :=
  .ite (.next h) (.ite (.next (.bootFatal h)) (.next (.endStep h)))

protected theorem OutOk.execFirmwareCheck {okA okB : BitVec 3} (h : MemoryOk s) : OutOk (execFirmwareCheck okA okB s) := by
  refine .ite (.next h) ?_
  dsimp only
  split
  · exact .next (.bootFatal h)
  · exact .next (.bootFatal h)
  · exact .next (.bootFatal h)
  · exact .next (.endStep h)

protected theorem MemoryOk.loadSites {m : FuseMap} {age : Nat → Option Nat} (h : MemoryOk s) : MemoryOk (loadSites s m age) :=
  .foldl (fun _ _ h => .modSitePwr (.modSite h)) h

protected theorem MemoryOk.lockPlls (h : MemoryOk s) : MemoryOk (lockPlls s) := .foldl (fun _ _ h => .modClk h) h

protected theorem OutOk.execFuseLoad {c0 c1 : Option FuseMap} {health : Bool} (h : MemoryOk s) :
    OutOk (execFuseLoad c0 c1 health s) := by
  refine .ite (.next h) ?_
  split
  · exact .next (.bootFatal h)
  · exact .next (.lockPlls (.endStep (.update (.loadSites h))))

protected theorem OutOk.execSeamCalibration {sweeps : List SweepResult} (h : MemoryOk s) : OutOk (execSeamCalibration sweeps s) :=
  .ite (.next h) (.next (.endStep (.update (.foldl (fun _ _ h => .modSite h) (.foldl (fun _ _ h => .modBundle h) (.drawn h))))))

protected theorem OutOk.execPlotAndOrangeryTraining {badPlots : List Site} {badStacks : List (Fin 6)} (h : MemoryOk s) :
    OutOk (execPlotAndOrangeryTraining badPlots badStacks s) :=
  .ite (.next h) (.next (.endStep (.foldl (fun _ _ h => .modStack h) (.foldl (fun _ _ h => .modSite h) h))))

protected theorem OutOk.execTrellisStart {dark : List (BitVec 10)} {bad : List (BitVec 10 × BitVec 10)} (h : MemoryOk s) :
    OutOk (execTrellisStart dark bad s) :=
  .ite (.next h) (.ite (.next (.endStep (.foldl (fun _ _ h => .modSite h) (.formGraph h)))) (.next (.bootFatal (.formGraph h))))

protected theorem OutOk.execCoreFirmware {fetched bad : List Site} (h : MemoryOk s) : OutOk (execCoreFirmware fetched bad s) :=
  .ite (.next h) (.next (.endStep h))

protected theorem OutOk.execMemoryTest {failed : List Site} {words : List WordFault} (h : MemoryOk s) :
    OutOk (execMemoryTest failed words s) :=
  .ite (.next h) (.next (.endStep (.foldl (fun _ _ h => .siteEvent h) (.setMem (Tbl.wf_nil 0) (.foldl
      (fun _ _ h => .modSite h) h)))))

protected theorem MemoryOk.applyRepair {r : Repair} (h : MemoryOk s) : MemoryOk (applyRepair s r) :=
  .ite h (.ite (.modSite h) (.ite h (.ite (.modStack (.logError h)) (.modSite (.logError h)))))

protected theorem OutOk.execRepair (h : MemoryOk s) : OutOk (execRepair s) :=
  .ite (.next h) (.next (.endStep (.update (.foldl (fun _ _ h => .applyRepair h) (.foldl (fun _ _ h => .applyRepair h) h)))))

protected theorem MemoryOk.modSiteHlt {i : Nat} {f : SiteHealth → SiteHealth} (h : MemoryOk s) : MemoryOk (s.modSiteHlt i f) := h

protected theorem OutOk.execLogicalMapBuild (h : MemoryOk s) : OutOk (execLogicalMapBuild s) := by
  unfold execLogicalMapBuild
  extract_lets mapped described gone noted sent powered
  have hMapped : MemoryOk mapped := .foldl (fun _ _ h => .assignRow h) h
  have hDescribed : MemoryOk described := .foldl (fun _ _ h => .update h) hMapped
  have hNoted : MemoryOk noted := .foldl (fun _ _ h => .siteEvent h) hDescribed
  have hPowered : MemoryOk powered := .foldl (fun _ _ h => .modSitePwr h) (.sendMapUpd (.foldl (fun _ _ h => .setFmax h) hNoted))
  exact .ite (.next h) (.ite (.next (.bootFatal hNoted)) (.next (.endStep (.update hPowered))))

protected theorem MemoryOk.gateRow {t : State} {cl : Nat} (hT : MemoryOk t) : MemoryOk (gateRow s t cl) :=
  .foldl (fun _ _ h => .modZone (.modSitePwr h)) hT

protected theorem OutOk.execJobBoundary {cl : Fin 40} (h : MemoryOk s) : OutOk (execJobBoundary cl s) :=
  .ite (.next h) (.next (.update (.siteEvent (.sendMapUpd (.setFmax (.gateRow (.rebuildRow h)))))))

protected theorem SvOk.svCount {p : Nat} : SvOk (svCount p) := .svGet

protected theorem SvOk.svAttr {p : Nat} : SvOk (svAttr p) := .svGet

protected theorem SvOk.svTop : SvOk svTop := .svGet

protected theorem SvOk.svPop : SvOk svPop :=
  .bind .svTop (fun _ => .bind .svGet (fun _ => .bind .svPut (fun _ => .bind .svPut (fun _ => .bind .svPut (fun _ => .pure)))))

protected theorem SvOk.svFreeHot {slot : Nat} : SvOk (svFreeHot slot) := fun _ h => h

protected theorem SvOk.svDropHot {p : Nat} {keepFull : Bool} : SvOk (svDropHot p keepFull) :=
  .bind .svAttr (fun _ => .ite (.bind .svFreeHot (fun _ => .svPut)) .svPut)

protected theorem SvOk.svRelease {p : Nat} : SvOk (svRelease p) :=
  .bind .svCount (fun _ => .bind .svPut (fun _ => .ite (.bind .svDropHot (fun _ => .bind .svTop (fun _ => .bind .svPut
    (fun _ => .bind .svPut (fun _ => .svAdd))))) .pure))

protected theorem SvOk.svCopy {src dst n : Nat} : SvOk (svCopy src dst n) := fun _ h => .memWriteBad (.memFetch h)

protected theorem SvOk.svOwn {h : SvHead} {g : SvStream} {lc i e : Nat} : SvOk (svOwn h g lc i e) :=
  .bind .svGet (fun _ => .bind .svCount (fun _ => .ite .pure (.bind .svAttr (fun _ => .bind .svPop (fun _ => .bind .svCopy
    (fun _ => .bind .svPut (fun _ => .bind .svPut (fun _ => .bind .svPut (fun _ => .bind .svAdd (fun _ => .pure))))))))))

protected theorem SvOk.svFull {p : Nat} : SvOk (svFull p) := .bind .svAttr (fun _ => .svPut)

protected theorem SvOk.svCows {h : SvHead} {i l : Nat} {fill : Bool} : SvOk (svCows h i l fill) :=
  .ite .pure (.foldlM (fun _ _ => .ite .pure (.bind .svGet (fun _ => .bind .svCount (fun _ => .pure)))))

protected theorem SvOk.svRowStatus {h : SvHead} {fill : Bool} {seen : List Nat} {i count : Nat} :
    SvOk (svRowStatus h fill seen i count) :=
  .ite .pure (.bind .svGet (fun _ => .bind .svGet (fun _ => .bind .svGet (fun _ => .ite .pure (.ite .pure (.ite .pure
    (.bind .svGet (fun _ => .bind .svGet (fun _ => .ite (.bind .svGet (fun _ => .bind .svPut (fun _ => .pure))) (.bind .svCows
    (fun _ => .bind .svTop (fun _ => .pure))))))))))))

protected theorem SvOk.svApply {h : SvHead} {lc i l count : Nat} {fill : Bool} {g : SvStream} :
    SvOk (svApply h lc i l count fill g) :=
  .ite (.bind (.forIn (fun _ _ => .bind .svPop (fun _ => .bind .svAdd (fun _ => .bind .svPut (fun _ => .ite (.bind .svFull
    (fun _ => .pure)) .pure))))) (fun _ => .pure)) (.ite (.bind .svPop (fun _ => .bind .svAdd (fun _ => .bind .svPut
    (fun _ => .ite (.bind .svGet (fun _ => .bind .svFull (fun _ => .pure))) .pure)))) (.bind .svOwn (fun _ => .ite
    (.bind .svDropHot (fun _ => .ite (.bind .svGet (fun _ => .bind .svFull (fun _ => .pure))) .pure)) (.ite (.bind .svGet
    (fun _ => .bind .svFull (fun _ => .pure))) .pure))))

protected theorem SvOk.svTriple {h : SvHead} {g : SvStream} {lc j p : Nat} {mask : List Byte} : SvOk (svTriple h g lc j p mask) :=
  .bind .svAttr (fun _ => .ite .pure .pure)

protected theorem SvOk.svTriples {h : SvHead} {g : SvStream} {lc i l : Nat} {fill : Bool} : SvOk (svTriples h g lc i l fill) :=
  .foldlM (fun _ _ => .bind .svGet (fun _ => .bind .svTriple (fun _ => .pure)))

protected theorem SvOk.svWrites {h : SvHead} {g : SvStream} {gi lc row i l count : Nat} {fill : Bool} :
    SvOk (svWrites h g gi lc row i l count fill) :=
  .foldlM (fun _ _ => .ite .pure (.bind .svGet (fun _ => .ite .pure .pure)))

protected theorem SvOk.svRowBlocks {h : SvHead} {lc b row i l count : Nat} {fill : Bool} :
    SvOk (svRowBlocks h lc b row i l count fill) :=
  .forM (fun _ => .bind .svTriples (fun _ => .bind .svWrites (fun _ => .svStore)))

protected theorem SvOk.svRow {h : SvHead} {lc b seq : Nat} {fill : Bool} {t : SvTally} {row entry : Nat} :
    SvOk (svRow h lc b seq fill t row entry) :=
  .ite (.bind (.bind .svStore (fun _ => .forM (fun _ => .svStore))) (fun _ => .pure)) (.bind .svRowStatus (fun _ => .ite (.bind
    (.bind .svStore (fun _ => .forM (fun _ => .svStore))) (fun _ => .pure)) (.bind .svGet (fun _ => .bind .svGet
    (fun _ => .bind .svGet (fun _ => .bind .svGet (fun _ => .bind (.foldlM (fun _ _ => .bind .svApply (fun _ => .pure)))
    (fun _ => .bind .svPut (fun _ => .bind .svPut (fun _ => .bind .svPut (fun _ => .bind .svPut (fun _ => .bind .svStore
    (fun _ => .bind .svRowBlocks (fun _ => .pure))))))))))))))

protected theorem SvOk.svTable {ofs rows : Nat} : SvOk (svTable ofs rows) := .mapM (fun _ => .svGet)

protected theorem SvOk.svEntryBad {h : SvHead} {data : List Byte} : SvOk (svEntryBad h data) :=
  .ite .pure (.bind .svTable (fun _ => .pure))

protected theorem SvOk.svExpand {data : List Byte} {seq lc : Nat} : SvOk (svExpand data seq lc) :=
  .bind .svHead (fun _ => .bind .svTable (fun _ => .bind (.foldlM (fun _ _ => .svRow)) (fun _ => .bind (.forIn
    (fun _ _ => .bind .svStore (fun _ => .bind (.forM (fun _ => .svStore)) (fun _ => .pure)))) (fun _ => .bind
    (fun _ h => SvOk.svStore _ h) (fun _ => .bind .svAdd (fun _ => .svAdd))))))

protected theorem MemoryOk.modSq {qn : Nat} {f : SiteQueue → SiteQueue} (h : MemoryOk s) : MemoryOk (s.modSq qn f) := h

protected theorem MemoryOk.answerPost {e : Nat} {src : PostSrc} {x : PostEnd} (h : MemoryOk s) :
    MemoryOk (answerPost s e src x) := by
  unfold answerPost
  split
  · exact .completeCmd h
  · exact .sendRsp h
  · split
    · exact .modRecv h
    · exact .sendNak (.modRecv h)
  · exact h

protected theorem MemoryOk.modBound {qn : Nat} {f : Binding → Binding} (h : MemoryOk s) : MemoryOk (s.modBound qn f) := h

protected theorem MemoryOk.refreshHead {qn : Nat} (h : MemoryOk s) : MemoryOk (refreshHead s qn) :=
  .ite (.modSq (.modBound (.memFetch h))) (.modSq (.modBound (.memFetch h)))

protected theorem MemoryOk.rereadBound {qn : Nat} (h : MemoryOk s) : MemoryOk (rereadBound s qn) := .modBound (.memFetch h)

/-- The batcher's work on a post of a bound queue. -/
theorem SvOk.batch {data : List Byte} {marks : List Bool} {da seq lc : Nat} : SvOk (do
    let h ← svHead
    let bad ← svEntryBad h data
    if !bad then
      svStoreBad da data marks
      svExpand data seq lc
    pure bad) :=
  .bind .svHead fun _ => .bind .svEntryBad fun _ => .ite (.bind .svStoreBad fun _ => .bind .svExpand fun _ => .pure) .pure

protected theorem MemoryOk.acceptPost {qn lc : Nat} {data : List Byte} {marks : List Bool} (h : MemoryOk s) :
    MemoryOk (acceptPost s qn lc data marks).2 := by
  unfold acceptPost
  dsimp only
  split
  · exact .snd (.incGate (.modRouter (.modSq (.memWriteBad h))))
  · split
    · exact .snd h
    · split
      · next ht => exact .snd (MemoryOk.of_snd (.svRun h .batch) ht)
      · exact .snd h
      · next ht => exact .snd (.incGate (.modRouter (.modSq (MemoryOk.of_snd (.svRun h .batch) ht))))

protected theorem MemoryOk.countFull {qn : Nat} (h : MemoryOk s) : MemoryOk (countFull s qn) := .modRouter h

protected theorem MemoryOk.tryPost {qn : Nat} {data : List Byte} {bad : List Bool} (h : MemoryOk s) :
    MemoryOk (tryPost s qn data bad).2 := by
  unfold tryPost
  split
  · exact .snd (.countFull h)
  · split
    · exact .snd (.modRouter h)
    · split
      · exact .snd (.countFull h)
      · split
        · next hWait => exact .snd (OptOk.of_eq (.or (.storeWait h) (.storeWait h)) hWait)
        · extract_lets t
          have hHead : MemoryOk t := .ite (.refreshHead h) h
          split
          · exact .snd (.countFull hHead)
          · split
            · exact .snd hHead
            · exact .snd (.acceptPost hHead)

protected theorem MemoryOk.popLine {qn : Nat} (h : MemoryOk s) : MemoryOk (popLine s qn) := .modBound h

protected theorem MemoryOk.servePosts {qn n : Nat} (h : MemoryOk s) : MemoryOk (servePosts qn n s) := by
  induction n generalizing s with
  | zero => exact h
  | succ n ih =>
    unfold servePosts
    split
    · exact h
    · refine .ite h ?_
      split
      · next ht =>
        have hTried := MemoryOk.of_snd (.tryPost h) ht
        exact .ite hTried (.update hTried)
      · next ht => exact ih (.answerPost (.popLine (.update (MemoryOk.of_snd (.tryPost h) ht))))

protected theorem MemoryOk.retryPosts (h : MemoryOk s) : MemoryOk (retryPosts s) := .foldl (fun _ _ h => .ite (.servePosts h) h) h

protected theorem MemoryOk.enterPost {p : Post} (h : MemoryOk s) : MemoryOk (enterPost s p) := .servePosts (.modBound h)

protected theorem MemoryOk.arrivePost {qn : Nat} {data : List Byte} {src : PostSrc} {bad : List Bool} (h : MemoryOk s) :
    MemoryOk (arrivePost s qn data src bad) :=
  .ite h (.enterPost h)

protected theorem MemoryOk.admitPosts (h : MemoryOk s) : MemoryOk (admitPosts s) := by
  unfold admitPosts
  exact .foldl (fun _ _ h => .ite h (.enterPost (.update h))) h

protected theorem MemoryOk.serveOrgPosts {k n : Nat} (h : MemoryOk s) : MemoryOk (serveOrgPosts k n s) := by
  induction n generalizing s with
  | zero => exact h
  | succ n ih =>
    unfold serveOrgPosts
    split
    · exact h
    · dsimp only
      split
      · next ht => exact ih (.answerPost (.modStack (AnsOk.of_ok (.orgPost h) ht)))
      · next ht => exact ih (.answerPost (.modStack (AnsOk.of_refused (.orgPost h) ht)))
      · next ht => exact .modStack (AnsOk.of_full (.orgPost h) ht)

protected theorem MemoryOk.arriveOrgPost {qn : Nat} {data : List Byte} {src : PostSrc} (h : MemoryOk s) :
    MemoryOk (arriveOrgPost s qn data src) :=
  .serveOrgPosts (.modStack h)

protected theorem MemoryOk.passPosts (h : MemoryOk s) : MemoryOk (passPosts s) :=
  .foldl (fun _ _ h => .serveOrgPosts h) (.admitPosts (.retryPosts h))

protected theorem MemoryOk.arriveAny {qn : Nat} {data : List Byte} {src : PostSrc} {bad : List Bool} (h : MemoryOk s) :
    MemoryOk (arriveAny s qn data src bad) :=
  .ite (.arrivePost h) (.ite (.arriveOrgPost h) (.answerPost h))

protected theorem OutOk.execPost {p : Sent Pkt} (h : MemoryOk s) : OutOk (execPost p s) :=
  .ite (.next (.answerPost h)) (.ite (.next h) (.ite (.next (.hold h)) (.next (.arriveAny (.transitLog (.transitCe h))))))

protected theorem OutOk.execHeadWordReread {qn : BitVec 19} (h : MemoryOk s) : OutOk (execHeadWordReread qn s) :=
  .ite (.next (.servePosts (.ite (.refreshHead h) (.rereadBound h)))) (.next (.servePosts h))

protected theorem OutOk.execPostTimeout {qn : BitVec 19} (h : MemoryOk s) : OutOk (execPostTimeout qn s) := by
  unfold execPostTimeout
  dsimp only
  split
  · exact .next h
  · split
    · exact .next h
    · exact .ite (.next h) (.next (.servePosts (.answerPost (.countFull (.popLine h)))))

protected theorem OutOk.execOrangeryPostTimeout {stack : Fin 6} (h : MemoryOk s) : OutOk (execOrangeryPostTimeout stack s) := by
  unfold execOrangeryPostTimeout
  dsimp only
  split
  · exact .next (.serveOrgPosts h)
  · split
    · exact .next (.serveOrgPosts h)
    · exact .ite (.next (.serveOrgPosts h)) (.next (.serveOrgPosts (.answerPost (.modStack (.serveOrgPosts h)))))

protected theorem OutOk.execQueuePost {q : BitVec 16} {e : Entry} (h : MemoryOk s) : OutOk (execQueuePost q e s) :=
  .hostRun h (fun _ _ h => .ite (.status (.modRouter h)) (.ite .wait (.later (.arriveAny h))))

protected theorem SvOk.bindMatches {d : List Byte} {h : SvHead} : SvOk (bindMatches d h) := fun _ h => .memFetch h

protected theorem SvOk.svHeader {d : List Byte} {h : SvHead} {gs : List SvStream} : SvOk (svHeader d h gs) :=
  .bind (fun _ h => SvOk.svStore _ h) (fun _ => .bind .svPut (fun _ => .forM (fun _ => fun _ h => SvOk.svStore _ h)))

protected theorem SvOk.svInit {h : SvHead} {gs : List SvStream} {lc : Nat} : SvOk (svInit h gs lc) :=
  .bind (.forIn (fun _ _ => .bind (fun _ h => SvOk.svStore _ h) (fun _ => .pure))) (fun _ => .bind (.forIn
    (fun _ _ => .bind .svPut (fun _ => .pure))) (fun _ => .bind (fun _ h => SvOk.svStore _ h) (fun _ => .bind (.forM (fun _ =>
    fun _ h => SvOk.svStore _ h)) (fun _ => .bind .svPut (fun _ => .bind (fun _ h => SvOk.svStore _ h) (fun _ => .bind
    (fun _ h => SvOk.svStore _ h) (fun _ => .svStore)))))))

protected theorem OutOk.execSvBind {q : BitVec 16} {e : Entry} (h : MemoryOk s) : OutOk (execSvBind q e s) := by
  refine .hostRun h (fun c s h => .ite .wait (.ite (.status h) ?_))
  split
  · exact .status h
  · refine .ite (.status h) ?_
    extract_lets seen
    have hSeen : MemoryOk seen.2 := by
      unfold seen
      rw [apply_ite Prod.snd]
      exact .ite h (.svRun h .bindMatches)
    split
    · exact .status hSeen
    · exact .status hSeen
    · exact .status (.svRun (.update hSeen) (.ite (.bind .svInit (fun _ => .bind .svHeader (fun _ => .svAdd))) (.bind .svHeader
          (fun _ => .svAdd))))

protected theorem MemoryOk.lineUp {lc : Nat} {r : CmdRef} (h : MemoryOk s) : MemoryOk (lineUp s lc r) := h

protected theorem MemoryOk.lineOut {lc : Nat} {r : CmdRef} (h : MemoryOk s) : MemoryOk (lineOut s lc r) := h

protected theorem MemoryOk.lineBusy {lc : Nat} (h : MemoryOk s) : MemoryOk (lineBusy s lc) := h

/-- Some slot of a command is named by an unconsumed post. -/
theorem SvOk.anyBusy {slots : List Nat} {head : Nat} : SvOk (do
    let h ← svHead
    slots.anyM (fun i => do
      if h.slots ≤ i then pure false
      else
        let last ← svGet (slotOfs i + 12) 4
        pure (slotBusy head last))) :=
  .bind .svHead fun _ => .anyM fun _ => .ite .pure (.bind .svGet fun _ => .pure)

protected theorem ActOk.svCommand {c : CmdRun} {lc : Nat} {x : SvCmd} (h : MemoryOk s) (hX : ∀ h, SvOk (x.run h)) :
    ActOk (svCommand s c lc x) := by
  unfold svCommand
  split
  · exact .status h
  · refine .ite (.status (.lineOut h)) (.ite .wait ?_)
    dsimp only
    split
    · exact .status (.lineOut (.svRun h .anyBusy))
    · exact .wait
    · exact .status (.lineOut (.svRun h (.bind .svHead fun _ => .bind (hX _) fun _ => .ite (.bind .svAdd fun _ => .pure) .pure)))

protected theorem OutOk.svHost {i : Instr} {k : CmdKind} {q : BitVec 16} {e : Entry} {cmd : List Byte → SvCmd} (h : MemoryOk s)
    (hCmd : ∀ ps h, SvOk ((cmd ps).run h)) : OutOk (svHost i k q e s cmd) := by
  have hRun : OutOk (hostRun i k q e s (fun c s =>
      let lc := leField c.ps 0 1
      if s.mapBusy lc then .wait else svCommand (if (Tbl.get none s.sv lc).isSome then lineUp s lc c.ref else s) c lc
          (cmd c.ps))) :=
    .hostRun h fun _ _ h => .ite .wait (.svCommand (.ite (.lineUp h) h) (hCmd _))
  unfold svHost
  split
  · next t ht =>
    have hT := OutOk.of_eq hRun ht
    dsimp only
    split
    · exact .next (.ite (.lineBusy (.lineUp hT)) hT)
    · exact .next hT
  · exact hRun

protected theorem SvOk.svState {h : SvHead} {i : Nat} : SvOk (svState h i) := .ite .svGet .pure

protected theorem OutOk.execSvOpen {q : BitVec 16} {e : Entry} (h : MemoryOk s) : OutOk (execSvOpen q e s) :=
  .svHost h (fun _ => (fun _ => .bind .svState (fun _ => .ite .pure (.bind .svPut (fun _ => .bind .svPut (fun _ => .bind .svPut
    (fun _ => .bind .svPut (fun _ => .pure))))))))

protected theorem OutOk.execSvClose {q : BitVec 16} {e : Entry} (h : MemoryOk s) : OutOk (execSvClose q e s) :=
  .svHost h (fun _ => (fun _ => .bind .svState (fun _ => .ite .pure (.bind (.forIn (fun _ _ => .bind (.forIn
    (fun _ _ => .bind .svGet (fun _ => .ite (.bind .svRelease (fun _ => .bind .svPut (fun _ => .pure))) .pure)))
    (fun _ => .pure))) (fun _ => .bind .svGet (fun _ => .bind .svGet (fun _ => .bind .svGet (fun _ => .bind .svPut
    (fun _ => .bind .svPut (fun _ => .bind .svPut (fun _ => .pure)))))))))))

protected theorem OutOk.execSvFork {q : BitVec 16} {e : Entry} (h : MemoryOk s) : OutOk (execSvFork q e s) :=
  .svHost h (fun _ => (fun _ => .bind .svState (fun _ => .bind .svState (fun _ => .ite .pure (.bind .svGet (fun _ => .ite .pure
    (.bind .svGet (fun _ => .bind .svGet (fun _ => .ite (.bind .svGet (fun _ => .bind .svPut (fun _ => .pure))) (.bind (.anyM
    (fun _ => .anyM (fun _ => .bind .svGet (fun _ => .bind .svCount (fun _ => .pure))))) (fun _ => .ite .pure (.bind (.forIn
    (fun _ _ => .bind (.forIn (fun _ _ => .bind .svGet (fun _ => .bind .svPut (fun _ => .bind .svAdd (fun _ => .pure)))))
    (fun _ => .pure))) (fun _ => .bind .svPut (fun _ => .bind .svPut (fun _ => .bind .svPut (fun _ => .bind .svPut
    (fun _ => .bind .svPut (fun _ => .bind .svPut (fun _ => .pure)))))))))))))))))))

protected theorem SvOk.svNamed {h : SvHead} {i g x : Nat} : SvOk (svNamed h i g x) := by
  refine .bind .svState (fun _ => ?_)
  split
  · exact .pure
  · exact .ite .pure (.ite .pure (.bind .svGet (fun _ => .pure)))

protected theorem SvOk.svHotSlot {h : SvHead} : SvOk (svHotSlot h) :=
  .bind (.filterMapM (fun _ => .bind .svAttr (fun _ => .pure))) (fun _ => fun _ h => h)

protected theorem OutOk.execSvHot {q : BitVec 16} {e : Entry} (h : MemoryOk s) : OutOk (execSvHot q e s) := by
  refine .svHost h (fun _ => (fun _ => .bind .svNamed (fun _ => .ite .pure (.bind .svAttr (fun _ => .bind .svHotSlot
      (fun _ => .ite .pure (.ite .pure ?_)))))))
  split
  · exact .pure
  · exact .bind (fun _ h => SvOk.svCopy _ h) (fun _ => .bind .svPut (fun _ => .pure))

protected theorem OutOk.execSvCold {q : BitVec 16} {e : Entry} (h : MemoryOk s) : OutOk (execSvCold q e s) :=
  .svHost h (fun _ => (fun _ => .bind .svNamed (fun _ => .ite .pure (.bind .svAttr (fun _ => .ite .pure (.bind .svDropHot
    (fun _ => .pure)))))))

protected theorem OutOk.execSvQuota {q : BitVec 16} {e : Entry} (h : MemoryOk s) : OutOk (execSvQuota q e s) :=
  .svHost h (fun _ => (fun _ => .bind .svPut (fun _ => .pure)))

protected theorem OutOk.execSvBusyTimeout {lc : Lc} (h : MemoryOk s) : OutOk (execSvBusyTimeout lc s) := by
  unfold execSvBusyTimeout
  split
  · exact .next h
  · split
    · refine .ite (.next h) ?_
      split
      · exact .next (.lineOut h)
      · exact .next (.completeCmd (.lineOut h))
    · exact .next h

end Sys2Proof.Machine
end

section
/-! PROOFS. The memories keep their canonical form: the exchange and collectives. -/

namespace Sys2Proof.Machine

open Sys2Proof

variable {s : State}

protected theorem MemoryOk.loadPayload {x : XSend} (h : MemoryOk s) : MemoryOk (loadPayload s x).2 := by
  unfold loadPayload
  split
  · exact h
  · split
    · exact .ite (.poisonJob (.orgRead h)) (.orgRead h)
    · exact .orgRead h

protected theorem AccessOk.payloadReady {x : XSend} (h : MemoryOk s) : AccessOk (payloadReady s x) := by
  unfold payloadReady
  split
  · exact trivial
  · exact .ite (.orgAccessRange h) (.wait h)

protected theorem MemoryOk.payloadRefused {part : Nat} {x : XSend} {status : Nat} (h : MemoryOk s) :
    MemoryOk (payloadRefused s part x status) := by
  refine .ite (.sendNak h) ?_
  split
  · exact .fabricFault h
  · exact h

protected theorem MemoryOk.transmit {part : Nat} {x : XSend} {again : Bool} (h : MemoryOk s) :
    MemoryOk (transmit s part x again) :=
  .emit (.loadPayload h)

protected theorem MemoryOk.pumpData {part n : Nat} (h : MemoryOk s) : MemoryOk (pumpData part n s) := by
  induction n generalizing s with
  | zero => exact h
  | succ n ih =>
    unfold pumpData
    dsimp only
    split
    · exact h
    · refine .ite h ?_
      split
      · exact ih (.modSend (.transmit h))
      · next ht => exact AccessOk.of_eq (.payloadReady h) ht
      · exact ih (.payloadRefused (.modSend h))
      · exact ih (.payloadRefused (.modSend h))

protected theorem MemoryOk.pump {part : Nat} (h : MemoryOk s) : MemoryOk (pump s part) := .pumpControl (.pumpData h)

protected theorem MemoryOk.resend {part ctx : Nat} {x : XSend} (h : MemoryOk s) : MemoryOk (resend s part ctx x) :=
  .ite h (.modFab (.modSend (.transmit h)))

protected theorem MemoryOk.msgFault {m : XMsg} {code peer status : Nat} (h : MemoryOk s) :
    MemoryOk (msgFault s m code peer status) := by
  unfold msgFault
  split
  · exact .fabricFault h
  · exact h

protected theorem MemoryOk.cutRate {part : Nat} (h : MemoryOk s) : MemoryOk (cutRate s part) := .ite (.modSend h) (.modSend h)

protected theorem MemoryOk.applyAck {part ctx : Nat} {p : XPkt} (h : MemoryOk s) : MemoryOk (applyAck s part ctx p) :=
  .pump (.ite (.cutRate (.foldl (fun _ _ h => .resend h) (.modSend h))) (.foldl (fun _ _ h => .resend h) (.modSend h)))

protected theorem MemoryOk.refuse {part : Nat} {p : XPkt} {status : Nat} (h : MemoryOk s) : MemoryOk (refuse s part p status) :=
  .modRecv (.sendNak h)

protected theorem MemoryOk.openMsg {part : Nat} {p : XPkt} {whole : Bool} (h : MemoryOk s) : MemoryOk (openMsg s part p whole) :=
  .ite (.modRecv h) (.modRecv h)

protected theorem MemoryOk.pendMsg {part : Nat} {p : XPkt} {f : Nat → Nat} (h : MemoryOk s) : MemoryOk (pendMsg s part p f) :=
  .modRecv h

protected theorem MemoryOk.putPayload {lc : Option Nat} {part da : Nat} {p : XPkt} (h : MemoryOk s) :
    MemoryOk (putPayload s lc part da p) :=
  .transitLog (.transitCe (.orgWriteFrom h))

protected theorem MemoryOk.writePayload {part da : Nat} {p : XPkt} (h : MemoryOk s) : MemoryOk (writePayload s part da p) :=
  .putPayload h

protected theorem MemoryOk.deliverWrite {part : Nat} {p : XPkt} (h : MemoryOk s) : MemoryOk (deliverWrite s part p) := by
  refine .ite (.pendMsg h) ?_
  split
  · exact .ite (.writePayload h) (.modRecv (.pendMsg h))
  · next t ht =>
      have hT : MemoryOk t := AccessOk.of_eq (.orgWriteRange h) ht
      exact .modRecv (.pendMsg hT)
  · exact .refuse h
  · exact .refuse h

protected theorem MemoryOk.commitWrite {part : Nat} {p : XPkt} (h : MemoryOk s) : MemoryOk (commitWrite s part p) := by
  refine .ite (.openMsg h) ?_
  split
  · exact .deliverWrite (.openMsg h)
  · exact .refuse (.openMsg h)

protected theorem MemoryOk.commitPost {part : Nat} {p : XPkt} (h : MemoryOk s) : MemoryOk (commitPost s part p) := by
  unfold commitPost
  dsimp only
  split
  · exact .ite (.arriveAny (.pendMsg (.openMsg h))) (.refuse (.openMsg h))
  · exact .refuse (.openMsg h)

protected theorem MemoryOk.commitRead {part : Nat} {p : XPkt} (h : MemoryOk s) : MemoryOk (commitRead s part p) := by
  unfold commitRead
  dsimp only
  split
  · exact .pump (.enqueue (.openMsg h))
  · exact .refuse (.openMsg h)

protected theorem MemoryOk.fabricCmpl {w : Word} (h : MemoryOk s) : MemoryOk (fabricCmpl s w) := .ite h (.incGate h)

protected theorem MemoryOk.endQueueMsg {qn : Nat} (h : MemoryOk s) : MemoryOk (endQueueMsg s qn) := .modXq h

protected theorem MemoryOk.takeRsp {part : Nat} {p : XPkt} (h : MemoryOk s) : MemoryOk (takeRsp s part p) := .modSend h

protected theorem MemoryOk.landRead {part qn lda : Nat} {p : XPkt} (h : MemoryOk s) : MemoryOk (landRead s part qn lda p) := by
  refine .ite h ?_
  split
  · exact .ite (.putPayload (.takeRsp h)) (.modRecv h)
  · next t ht =>
      have hT : MemoryOk t := AccessOk.of_eq (.orgWriteRange h) ht
      exact .modRecv hT
  · exact .fabricFault h
  · exact .fabricFault h

protected theorem MemoryOk.flushWaiting {part n : Nat} (h : MemoryOk s) : MemoryOk (flushWaiting part n s) := by
  induction n generalizing s with
  | zero => exact h
  | succ n ih =>
    unfold flushWaiting
    split
    · exact h
    · split
      · refine ih ?_
        split
        · split
          · exact .landRead (.modRecv h)
          · exact .modRecv h
        · exact .modRecv h
      · split
        · exact .ite (ih (.pendMsg (.writePayload (.modRecv h)))) h
        · next ht => exact AccessOk.of_eq (.orgWriteRange h) ht
        · exact h

protected theorem OutOk.execMessageLocalCompletion {part : Fin 1024} (h : MemoryOk s) :
    OutOk (execMessageLocalCompletion part s) := by
  unfold execMessageLocalCompletion
  dsimp only
  split
  · exact .next (.flushWaiting h)
  · split
    · exact .next (.fabricCmpl (.endQueueMsg (.modSend (.flushWaiting h))))
    · exact .next (.fabricCmpl (.endQueueMsg (.modSend (.flushWaiting h))))
    · exact .next (.modSend (.flushWaiting h))

protected theorem OutOk.execMessageRemoteCompletion {part : Fin 1024} (h : MemoryOk s) :
    OutOk (execMessageRemoteCompletion part s) := by
  unfold execMessageRemoteCompletion
  dsimp only
  split
  · exact .next (.flushWaiting h)
  · exact .ite (.next (.flushWaiting h)) (.next (.ite (.modRecv (.flushWaiting h)) (.fabricCmpl (.modRecv (.flushWaiting h)))))

protected theorem OutOk.execAckTimer {part : Fin 1024} {ctx : Fin 2} (h : MemoryOk s) : OutOk (execAckTimer part ctx s) :=
  .ite (.next (.sendAck h)) (.next h)

protected theorem OutOk.execRetransmissionTimeout {part : Fin 1024} {ctx : Fin 2} (h : MemoryOk s) :
    OutOk (execRetransmissionTimeout part ctx s) :=
  .ite (.next h) (.next (.foldl (fun _ _ h => .resend h) (.modSend (.modFab h))))

protected theorem OutOk.execContextLost {part : Fin 1024} {ctx : Fin 2} (h : MemoryOk s) : OutOk (execContextLost part ctx s) :=
  .ite (.next h) (.next (.modSend (.modSend (.foldl (fun _ _ h => .msgFault h) (.modFab h)))))

protected theorem OutOk.execRateIncrease {part : Fin 1024} (h : MemoryOk s) : OutOk (execRateIncrease part s) := by
  unfold execRateIncrease
  dsimp only
  split
  · exact .next h
  · exact .ite (.next h) (.next (.modSend h))

protected theorem MemoryOk.examine {qn : Nat} {d : XDesc} (h : MemoryOk s) : MemoryOk (examine s qn d) := by
  unfold examine
  dsimp only
  split
  · exact h
  · exact .ite (.modFab h) (.ite (.fabricFault h) (.ite (.fabricFault h) (.modXq h)))

protected theorem MemoryOk.readDescs {qn n : Nat} (h : MemoryOk s) : MemoryOk (readDescs qn n s) := by
  induction n generalizing s with
  | zero => exact h
  | succ n ih => exact .ite h (.ite (.poisonJob (.modXq (.memFetch h))) (ih (.examine (.modXq (.memFetch h)))))

protected theorem OutOk.execXbell {qn : BitVec 19} (h : MemoryOk s) : OutOk (execXbell qn s) :=
  .ite (.next h) (.ite (.next (.poisonJob (.memFetch h))) (.ite (.next (.fabricFault (.memFetch h))) (.next (.readDescs
    (.memFetch h)))))

protected theorem OutOk.readOp {qn : BitVec 19} {d : XDesc} {op : Byte} (h : MemoryOk s) : OutOk (readOp qn d op s) :=
  .ite (.next (.examine h)) (.next h)

protected theorem OutOk.execXwrite {qn : BitVec 19} {d : XDesc} (h : MemoryOk s) : OutOk (execXwrite qn d s) := .readOp h

protected theorem OutOk.execXread {qn : BitVec 19} {d : XDesc} (h : MemoryOk s) : OutOk (execXread qn d s) := .readOp h

protected theorem OutOk.execXpost {qn : BitVec 19} {d : XDesc} (h : MemoryOk s) : OutOk (execXpost qn d s) := .readOp h

protected theorem OutOk.execXrs {qn : BitVec 19} {d : XDesc} (h : MemoryOk s) : OutOk (execXrs qn d s) := .readOp h

protected theorem OutOk.execXag {qn : BitVec 19} {d : XDesc} (h : MemoryOk s) : OutOk (execXag qn d s) := .readOp h

protected theorem OutOk.execXar {qn : BitVec 19} {d : XDesc} (h : MemoryOk s) : OutOk (execXar qn d s) := .readOp h

protected theorem OutOk.execXfin {qn : BitVec 19} {d : XDesc} (h : MemoryOk s) : OutOk (execXfin qn d s) := .readOp h

protected theorem MemoryOk.startMessage {qn : Nat} {j : Job} {d : XDesc} (h : MemoryOk s) : MemoryOk (startMessage s qn j d) :=
  .ite (.fabricFault h) (.ite (.pump (.enqueue (.modXq h))) (.ite (.pump (.enqueue (.modXq h))) (.pump (.enqueue (.modXq h)))))

protected theorem MemoryOk.modInst {g n : Nat} {f : CollInst → CollInst} (h : MemoryOk s) : MemoryOk (modInst s g n f) :=
  .modFab h

protected theorem MemoryOk.sendColl {g : Machine.Group} {rank : Nat} {body : List Byte} (h : MemoryOk s) :
    MemoryOk (sendColl s g rank body) :=
  .sendControl h

protected theorem MemoryOk.sendReady {g : Machine.Group} {i : CollInst} (h : MemoryOk s) : MemoryOk (sendReady s g i) :=
  .foldl (fun _ _ h => .sendColl h) h

protected theorem MemoryOk.collFault {i : CollInst} {code peer : Nat} (h : MemoryOk s) : MemoryOk (collFault s i code peer) :=
  .fabricFault h

protected theorem MemoryOk.issueFetches {grp n k : Nat} (h : MemoryOk s) : MemoryOk (issueFetches grp n k s) := by
  induction k generalizing s with
  | zero => exact h
  | succ k ih =>
    unfold issueFetches
    split
    · refine .ite h ?_
      split
      · exact h
      · exact ih (.pump (.modInst (.enqueue (.drawn h))))
    · exact h

protected theorem MemoryOk.collRefused {i : CollInst} {status : Nat} (h : MemoryOk s) : MemoryOk (collRefused s i status) :=
  .fabricFault h

protected theorem MemoryOk.flushOuts {grp n k : Nat} (h : MemoryOk s) : MemoryOk (flushOuts grp n k s) := by
  induction k generalizing s with
  | zero => exact h
  | succ k ih =>
    unfold flushOuts
    split
    · exact h
    · split
      · exact h
      · split
        · exact .ite (ih (.modInst (.orgWrite h))) h
        · next ht => exact AccessOk.of_eq (.orgWriteRange h) ht
        · exact .collRefused (.modInst h)
        · exact .collRefused (.modInst h)

protected theorem MemoryOk.collWrite {i : CollInst} {da : Nat} {data : List Byte} {bad : List Bool} (h : MemoryOk s) :
    MemoryOk (collWrite s i da data bad) :=
  .flushOuts (.modInst h)

protected theorem MemoryOk.writeChunk {i : CollInst} {g : Machine.Group} {c : Nat} {data : List Byte} {bad : List Bool}
    (h : MemoryOk s) : MemoryOk (writeChunk s i g c data bad) :=
  .ite (.modFab (.ite (.poisonJob (.ite (.modTraining h) h)) (.ite (.modTraining h) h))) (.modInst (.collWrite (.ite (.poisonJob
    (.ite (.modTraining h) h)) (.ite (.modTraining h) h))))

protected theorem MemoryOk.ownBytes {i : CollInst} {da n : Nat} {go : State → List (Option Byte) → State} (h : MemoryOk s)
    (hGo : ∀ t bs, MemoryOk t → MemoryOk (go t bs)) : MemoryOk (ownBytes s i da n go) := by
  unfold ownBytes
  split
  · exact .ite (hGo _ _ (.orgRead h)) h
  · next ht => exact AccessOk.of_eq (.orgAccessRange h) ht
  · exact .collRefused h
  · exact .collRefused h

protected theorem MemoryOk.reduceChunk {i : CollInst} {g : Machine.Group} {c : Nat} (h : MemoryOk s) :
    MemoryOk (reduceChunk s i g c) :=
  .ite h (.ownBytes h (fun _ _ h => .writeChunk (.modInst h)))

protected theorem MemoryOk.sendFetched {g : Machine.Group} {i : CollInst} {ks : List Nat} (h : MemoryOk s) :
    MemoryOk (sendFetched s g i ks) :=
  .foldl (fun _ _ h => .sendColl h) h

protected theorem MemoryOk.copyOwnShard {grp n : Nat} {g : Machine.Group} (h : MemoryOk s) : MemoryOk (copyOwnShard grp n g s) := by
  refine .foldl (fun _ _ h => ?_) h
  split
  · exact h
  · exact .ite h (.ownBytes h (fun _ _ h => .collWrite (.modInst (.ite (.poisonJob h) h))))

protected theorem MemoryOk.startGather {grp n : Nat} (h : MemoryOk s) : MemoryOk (startGather s grp n) := by
  unfold startGather
  split
  · exact .ite (.issueFetches (.sendReady (.modInst h))) h
  · exact h

protected theorem MemoryOk.beginColl {grp n : Nat} (h : MemoryOk s) : MemoryOk (beginColl s grp n) := by
  unfold beginColl
  split
  · refine .ite h (.ite (.issueFetches (.copyOwnShard (.modInst h))) (.startGather (.ite (.foldl (fun _ _ h => ?_) (.modInst h))
        (.issueFetches (.modInst h)))))
    split
    · exact .reduceChunk h
    · exact h
  · exact h

protected theorem MemoryOk.collArrive {grp n phase rank c : Nat} {bs : List (Option Byte)} (h : MemoryOk s) :
    MemoryOk (collArrive s grp n phase rank c bs) := by
  unfold collArrive
  dsimp only
  split
  · refine .ite (.modInst h) (.startGather (.issueFetches ?_))
    split
    · split
      · refine .sendFetched (.ite (.modInst (.collWrite (.ite (.poisonJob (.modInst (.modInst h))) (.modInst (.modInst h))))) ?_)
        split
        · exact .reduceChunk (.modInst (.modInst h))
        · exact .modInst (.modInst h)
      · refine .ite (.modInst (.collWrite (.ite (.poisonJob (.modInst (.modInst h))) (.modInst (.modInst h))))) ?_
        split
        · exact .reduceChunk (.modInst (.modInst h))
        · exact .modInst (.modInst h)
    · refine .ite (.modInst (.collWrite (.ite (.poisonJob (.modInst (.modInst h))) (.modInst (.modInst h))))) ?_
      split
      · exact .reduceChunk (.modInst (.modInst h))
      · exact .modInst (.modInst h)
  · exact h

protected theorem MemoryOk.meetReady {grp n rank : Nat} {what : Nat × Nat × Nat} (h : MemoryOk s) :
    MemoryOk (meetReady s grp n rank what) := by
  unfold meetReady
  split
  · exact .ite (.collFault h) (.ite (.issueFetches (.modInst h)) (.beginColl (.ite (.modFab (.modInst h)) (.modInst h))))
  · exact h

protected theorem MemoryOk.startColl {qn : Nat} {d : XDesc} (h : MemoryOk s) : MemoryOk (startColl s qn d) := by
  unfold startColl
  dsimp only
  split
  · exact h
  · refine .foldl (fun _ _ h => ?_) (.modFab (.beginColl (.sendReady (.modFab (.modXq h)))))
    split
    · exact .meetReady h
    · exact .modInst h

protected theorem MemoryOk.applyVerdict {node : Nat} {v : Bool} (h : MemoryOk s) : MemoryOk (applyVerdict s node v) :=
  .fabricCmpl (.memWrite (.modTraining h))

protected theorem MemoryOk.decideVerdict {j : Job} {n : Nat} (h : MemoryOk s) : MemoryOk (decideVerdict s j n) :=
  .ite h (.applyVerdict (.foldl (fun _ _ h => .sendControl h) (.modTraining h)))

protected theorem MemoryOk.startFin {j : Job} (h : MemoryOk s) : MemoryOk (startFin s j) :=
  .ite (.decideVerdict (.modTraining (.modTraining h))) (.sendControl (.modTraining h))

protected theorem OutOk.execXobexMessageStart (h : MemoryOk s) : OutOk (execXobexMessageStart s) := by
  unfold execXobexMessageStart
  dsimp only
  split
  · exact .next h
  · split
    · refine .ite ?_ (.ite (.next (.startFin (.modFab (.modXq h)))) (.next (.startMessage (.modFab (.modXq h)))))
      split
      · exact .next (.fabricFault (.modFab (.modXq h)))
      · exact .next (.startColl (.modFab (.modXq h)))
    · exact .next h

protected theorem MemoryOk.retryColl {g : Machine.Group} {i : CollInst} (h : MemoryOk s) : MemoryOk (retryColl g s i) := by
  refine .startGather (.ite (.foldl (fun _ _ h => ?_) (.flushOuts h)) (.copyOwnShard (.flushOuts h)))
  split
  · exact .ite (.reduceChunk h) h
  · exact h

protected theorem OutOk.execCollectiveComplete {group : Byte} (h : MemoryOk s) : OutOk (execCollectiveComplete group s) := by
  unfold execCollectiveComplete
  split
  · exact .next h
  · dsimp only
    split
    · exact .next (.foldl (fun _ _ h => .retryColl h) h)
    · exact .next (.fabricCmpl (.endQueueMsg (.modFab (.foldl (fun _ _ h => .retryColl h) h))))

protected theorem LandingOk.landing {c : LandChunk} (h : MemoryOk s) : LandingOk (landing s c) := by
  unfold landing
  dsimp only
  split
  · exact trivial
  · exact .hold (.startPageIn h)
  · exact .hold h
  · exact .hold h
  · exact .ite (.hold h) (.ite (.hold h) (.ite trivial (.hold h)))

protected theorem MemoryOk.landWrite {c : LandChunk} (h : MemoryOk s) : MemoryOk (landWrite s c) :=
  .modTraining (.modInst (.writeThrough (.openRows h)))

protected theorem OutOk.execLandingChunk {stack : Fin 6} (h : MemoryOk s) : OutOk (execLandingChunk stack s) := by
  unfold execLandingChunk
  split
  · exact .next h
  · refine .ite (.next h) ?_
    dsimp only
    split
    · exact .next (.ite (.modFab (.modFab h)) (.landWrite (.modFab h)))
    · next t ht =>
        have hT : MemoryOk t := LandingOk.of_eq (.landing (.modFab h)) ht
        exact .next (.modFab hT)
    · split
      · exact .next (.fabricFault (.modFab h))
      · exact .next (.modFab h)

protected theorem OutOk.execHeldChunkWrite {stack : Fin 6} {region : Fin 16384} (h : MemoryOk s) :
    OutOk (execHeldChunkWrite stack region s) := by
  unfold execHeldChunkWrite
  split
  · exact .next h
  · split
    · exact .next (.landWrite (.modFab h))
    · next t ht =>
        have hT : MemoryOk t := LandingOk.of_eq (.landing h) ht
        exact .next hT
    · dsimp only
      split
      · exact .next (.fabricFault (.modFab h))
      · exact .next (.modFab h)

protected theorem MemoryOk.modSync {tag : Nat} {f : Sync → Sync} (h : MemoryOk s) : MemoryOk (modSync s tag f) := .modFab h

protected theorem MemoryOk.sendSync {part tag kind image status : Nat} (h : MemoryOk s) :
    MemoryOk (sendSync s part tag kind image status) :=
  .sendControl h

protected theorem MemoryOk.syncAbort {tag status : Nat} (h : MemoryOk s) : MemoryOk (syncAbort s tag status) := by
  unfold syncAbort
  split
  · exact h
  · exact .modSync (.foldl (fun _ _ h => .sendSync h) h)

protected theorem MemoryOk.syncDecide {tag : Nat} (h : MemoryOk s) : MemoryOk (syncDecide s tag) := by
  unfold syncDecide
  split
  · exact h
  · refine .ite h ?_
    split
    · exact .syncAbort h
    · exact .ite (.modSync (.foldl (fun _ _ h => .sendSync h) h)) h

protected theorem OutOk.execSyncTimeout {tag : Word} (h : MemoryOk s) : OutOk (execSyncTimeout tag s) := by
  unfold execSyncTimeout
  split
  · exact .next h
  · exact .ite (.next h) (.ite (.next (.syncAbort h)) (.next (.modSync h)))

protected theorem MemoryOk.commitColl {part : Nat} {p : XPkt} (h : MemoryOk s) : MemoryOk (commitColl s part p) := by
  unfold commitColl
  split
  · dsimp only
    split
    · exact h
    · exact .ite (.meetReady h) (.modFab h)
  · dsimp only
    split
    · exact h
    · exact .ite (.modInst h) (.modFab h)
  · split
    · exact h
    · exact .ite (.decideVerdict (.modTraining h)) (.modTraining h)
  · split
    · exact h
    · exact .ite (.applyVerdict h) h
  · exact h

protected theorem MemoryOk.commitHalt {p : XPkt} (h : MemoryOk s) : MemoryOk (commitHalt s p) := by
  unfold commitHalt
  split
  · exact h
  · exact .ite (.beginHalt h) h

protected theorem MemoryOk.commitSync {part : Nat} {p : XPkt} (h : MemoryOk s) : MemoryOk (commitSync s part p) := by
  unfold commitSync
  split
  · dsimp only
    split
    · exact .ite (.sendSync h) (.syncDecide (.modSync h))
    · exact .modSync h
  · exact .modSync h
  · exact .syncDecide (.modSync h)
  · exact h

protected theorem MemoryOk.commitRsp {part : Nat} {p : XPkt} (h : MemoryOk s) : MemoryOk (commitRsp s part p) := by
  unfold commitRsp
  split
  · exact h
  · split
    · exact .landRead h
    · exact .collArrive (.takeRsp h)
    · exact h

protected theorem MemoryOk.commitPkt {part : Nat} {p : XPkt} (h : MemoryOk s) : MemoryOk (commitPkt s part p) := by
  unfold commitPkt
  split
  · exact .commitWrite h
  · exact .commitRead h
  · exact .commitRsp h
  · exact .commitPost h
  · exact .commitColl h
  · exact .commitHalt h
  · exact .commitSync h
  · exact .modFab h
  · exact h

protected theorem MemoryOk.commitNext {part ctx n : Nat} {p : XPkt} (h : MemoryOk s) : MemoryOk (commitNext part ctx n s p) := by
  induction n generalizing s p with
  | zero => exact h
  | succ n ih =>
    unfold commitNext
    extract_lets expected committed acked c
    have hCommitted : MemoryOk committed := .commitPkt (.modFab (.modRecv h))
    have hAcked : MemoryOk acked := .ite (.sendAck hCommitted) hCommitted
    split
    · exact hAcked
    · exact ih (.modRecv hAcked)

protected theorem MemoryOk.oooAck {part ctx : Nat} (h : MemoryOk s) : MemoryOk (oooAck s part ctx) :=
  .ite h (.modRecv (.sendAck h))

protected theorem MemoryOk.receive {part ctx : Nat} {p : XPkt} {ce : Bool} (h : MemoryOk s) :
    MemoryOk (receive s part ctx p ce) :=
  .ite (.commitNext (.modRecv h)) (.ite (.sendAck (.modRecv h)) (.ite (.modFab (.modRecv h)) (.oooAck (.ite (.modRecv h)
    (.modRecv (.modRecv h))))))

protected theorem MemoryOk.receiveNak {part ctx : Nat} {p : XPkt} (h : MemoryOk s) : MemoryOk (receiveNak s part ctx p) := by
  unfold receiveNak
  split
  · exact h
  · exact .ite h (.msgFault h)

protected theorem OutOk.arrive {typ : Nat} {d : XIn} (h : MemoryOk s) : OutOk (arrive typ d s) :=
  .ite (.next (.modFab (.modCuff h))) (.ite (.next (.modCuff h)) (.ite (.next (.applyAck (.modCuff h))) (.ite (.next (.applyAck
    (.receiveNak (.modCuff h)))) (.next (.pump (.receive (.modCuff h)))))))

protected theorem OutOk.arriveKind {typ kind : Nat} {d : XIn} (h : MemoryOk s) : OutOk (arriveKind typ kind d s) := .arrive h

protected theorem OutOk.execXobWrite {d : XIn} (h : MemoryOk s) : OutOk (execXobWrite d s) := .arrive h

protected theorem OutOk.execRreq {d : XIn} (h : MemoryOk s) : OutOk (execRreq d s) := .arrive h

protected theorem OutOk.execRrsp {d : XIn} (h : MemoryOk s) : OutOk (execRrsp d s) := .arrive h

protected theorem OutOk.execXobPost {d : XIn} (h : MemoryOk s) : OutOk (execXobPost d s) := .arrive h

protected theorem OutOk.execAck {d : XIn} (h : MemoryOk s) : OutOk (execAck d s) := .arrive h

protected theorem OutOk.execNak {d : XIn} (h : MemoryOk s) : OutOk (execNak d s) := .arrive h

protected theorem OutOk.execCollReady {d : XIn} (h : MemoryOk s) : OutOk (execCollReady d s) := .arriveKind h

protected theorem OutOk.execFetched {d : XIn} (h : MemoryOk s) : OutOk (execFetched d s) := .arriveKind h

protected theorem OutOk.execFinword {d : XIn} (h : MemoryOk s) : OutOk (execFinword d s) := .arriveKind h

protected theorem OutOk.execVerdict {d : XIn} (h : MemoryOk s) : OutOk (execVerdict d s) := .arriveKind h

protected theorem OutOk.execXobexHalt {d : XIn} (h : MemoryOk s) : OutOk (execXobexHalt d s) := .arriveKind h

protected theorem OutOk.execSyncReady {d : XIn} (h : MemoryOk s) : OutOk (execSyncReady d s) := .arriveKind h

protected theorem OutOk.execSyncGo {d : XIn} (h : MemoryOk s) : OutOk (execSyncGo d s) := .arriveKind h

protected theorem OutOk.execSyncAbort {d : XIn} (h : MemoryOk s) : OutOk (execSyncAbort d s) := .arriveKind h

protected theorem OutOk.execMgmt {d : XIn} (h : MemoryOk s) : OutOk (execMgmt d s) := .arrive h

end Sys2Proof.Machine
end

section
/-! PROOFS. The memories keep their canonical form: heat, health, life and Cuffs. -/

namespace Sys2Proof.Machine

open Sys2Proof

variable {s : State}

protected theorem MemoryOk.modSensor {p k : Nat} {f : Sensor → Sensor} (h : MemoryOk s) : MemoryOk (s.modSensor p k f) := h

protected theorem MemoryOk.modPoint {p : Nat} {f : SensePoint → SensePoint} (h : MemoryOk s) : MemoryOk (s.modPoint p f) := h

protected theorem MemoryOk.modCell {die cell : Nat} {f : HeatCell → HeatCell} (h : MemoryOk s) :
    MemoryOk (s.modCell die cell f) :=
  h

protected theorem MemoryOk.modTherm {r : Nat} {f : ThermRegion → ThermRegion} (h : MemoryOk s) : MemoryOk (s.modTherm r f) := h

protected theorem MemoryOk.thermEvent {sub subject limit point code region ratio : Nat} (h : MemoryOk s) :
    MemoryOk (thermEvent s sub subject limit point code region ratio) :=
  .healthEventLimited h

protected theorem MemoryOk.tripPart {t : TripAt} (h : MemoryOk s) : MemoryOk (tripPart s t) :=
  .update (.stopPart (.thermEvent (.drawn h)))

protected theorem MemoryOk.holdPlot {i : Nat} (h : MemoryOk s) : MemoryOk (holdPlot s i) := by
  unfold holdPlot
  extract_lets was now mem s₁ die thm s₂
  have h₁ : MemoryOk s₁ := .updateMem rfl h
  have h₂ : MemoryOk s₂ := .update h₁
  split
  · exact h
  · split
    · exact .thermEvent (.drawn h₂)
    · exact h₁

protected theorem MemoryOk.holdDie {d : Nat} (h : MemoryOk s) : MemoryOk (holdDie s d) :=
  .ite (.ite h (.modStack h)) (.ite (.thermEvent (.drawn (.update (.updateMem rfl (.ite h (.modStack h)))))) (.updateMem rfl
    (.ite h (.modStack h))))

protected theorem MemoryOk.thermalUpdate (h : MemoryOk s) : MemoryOk (thermalUpdate s) := by
  unfold thermalUpdate
  extract_lets held out thm seen
  have hHeld : MemoryOk held := .foldl (fun _ _ h => .holdDie h) (.foldl (fun _ _ h => .holdPlot h) h)
  have hSeen : MemoryOk seen := .update hHeld
  split
  · exact hSeen
  · split
    · exact .tripPart hSeen
    · exact hSeen

protected theorem MemoryOk.setRate {p : Nat} (h : MemoryOk s) : MemoryOk (setRate s p) :=
  .ite (.modPoint h) (.ite (.modPoint h) (.modPoint h))

protected theorem MemoryOk.markSuspect {p k : Nat} (h : MemoryOk s) : MemoryOk (markSuspect s p k) :=
  .ite h (.thermEvent (.drawn (.modSensor h)))

protected theorem MemoryOk.readSensor {p k : Nat} {v : Int} (h : MemoryOk s) : MemoryOk (readSensor s p k v) :=
  .ite (.ite (.markSuspect (.modSensor h)) (.modSensor h)) (.modSensor h)

protected theorem MemoryOk.countPair {p : Nat} (h : MemoryOk s) : MemoryOk (countPair s p) := by
  unfold countPair
  split
  · exact .modPoint h
  · exact h

protected theorem MemoryOk.noteValue {p : Nat} {accepted : Bool} (h : MemoryOk s) : MemoryOk (noteValue s p accepted) := by
  unfold noteValue
  split
  · exact h
  · extract_lets seen
    have hSeen : MemoryOk seen := .modPoint h
    split
    · exact hSeen
    · split
      · exact hSeen
      · exact .ite (.modCell hSeen) hSeen

protected theorem OutOk.execSensorSample {point : Fin 1348} {a b : Int} (h : MemoryOk s) : OutOk (execSensorSample point a b s) :=
  .ite (.next h) (.ite (.next (.thermalUpdate (.modPoint (.ite h (.thermEvent h))))) (.next (.thermalUpdate (.setRate
    (.noteValue (.ite (.countPair (.ite (.readSensor (.readSensor (.ite (.modPoint h) h))) (.readSensor (.ite
    (.modPoint h) h)))) (.ite (.readSensor (.readSensor (.ite (.modPoint h) h))) (.readSensor (.ite (.modPoint h) h)))))))))

protected theorem OutOk.execSensorSuspect {point : Fin 1200} {diodeB : Bool} (h : MemoryOk s) :
    OutOk (execSensorSuspect point diodeB s) :=
  .ite (.next (.thermalUpdate (.markSuspect h))) (.next h)

protected theorem OutOk.execPairDis {site : Site} (h : MemoryOk s) : OutOk (execPairDis site s) :=
  .ite (.next h) (.ite (.next (.modPoint h)) (.next (.thermEvent (.drawn (.modPoint h)))))

protected theorem MemoryOk.noteEst {die cell : Nat} (h : MemoryOk s) : MemoryOk (noteEst s die cell) := by
  unfold noteEst
  split
  · exact h
  · exact .ite (.modCell h) (.ite h (.modCell h))

protected theorem MemoryOk.accrue (h : MemoryOk s) : MemoryOk (accrue s) := .ite h h

protected theorem OutOk.execEstimateStep {mw : List Nat} (h : MemoryOk s) : OutOk (execEstimateStep mw s) := by
  unfold execEstimateStep
  extract_lets cells t₁ thm t₂ t₃
  have h₁ : MemoryOk t₁ := .foldl (fun _ _ h => .modCell h) (.drawn (.accrue h))
  have h₂ : MemoryOk t₂ := .update h₁
  have h₃ : MemoryOk t₃ := by
    refine .foldl (fun t p ht => .foldl (fun t k ht => ?_) ht) h₂
    split
    · exact .modSensor ht
    · exact ht
  split
  · exact .next h
  · exact .next (.thermalUpdate (.foldl (fun _ _ h => .noteEst h) h₃))

protected theorem OutOk.execThermalStep {region : Fin 5} (h : MemoryOk s) : OutOk (execThermalStep region s) :=
  .ite (.next h) (.next (.ite (.thermEvent (.ite (.thermEvent (.update (.drawn (.modTherm h)))) (.drawn (.modTherm h)))) (.ite
    (.thermEvent (.update (.drawn (.modTherm h)))) (.drawn (.modTherm h)))))

protected theorem OutOk.execTclkLimStep {region : Fin 5} {ten : Bool} (h : MemoryOk s) : OutOk (execTclkLimStep region ten s) :=
  .ite (.next h) (.ite (.next (.modTherm h)) (.ite (.next (.modTherm h)) (.ite (.next (.modTherm h)) (.next h))))

protected theorem OutOk.execHeldWriteDrain {site : Site} (h : MemoryOk s) : OutOk (execHeldWriteDrain site s) :=
  .ite (.next h) (.next h)

protected theorem MemoryOk.refreshDue {bank ns : Nat} {t : Option ℚ} (h : MemoryOk s) : MemoryOk (refreshDue s bank ns t) := by
  unfold refreshDue
  split
  · exact h
  · exact .ite h h

protected theorem OutOk.execPlotRefresh {site : Site} (h : MemoryOk s) : OutOk (execPlotRefresh site s) := .next (.refreshDue h)

protected theorem OutOk.execTripRestart (h : MemoryOk s) : OutOk (execTripRestart s) := .ite (.next (.restart h)) (.next h)

protected theorem OutOk.execInletRange (h : MemoryOk s) : OutOk (execInletRange s) := .ite (.next (.thermEvent h)) (.next h)

protected theorem OutOk.execCoolantEvaluation {plane : Fin 3} {mw : Nat} (h : MemoryOk s) :
    OutOk (execCoolantEvaluation plane mw s) := by
  unfold execCoolantEvaluation
  split
  · exact .ite (.next h) (.next (.ite (.thermEvent (.ite (.thermEvent (.drawn h)) (.drawn h))) (.ite (.thermEvent (.drawn h))
        (.drawn h))))
  · exact .next h

protected theorem OutOk.execFlowEvaluation (h : MemoryOk s) : OutOk (execFlowEvaluation s) := by
  unfold execFlowEvaluation
  split
  · exact .ite (.next h) (.next (.ite (.thermEvent (.drawn h)) h))
  · exact .next h

protected theorem MemoryOk.ageEvent {sub who value gb fmax : Nat} (h : MemoryOk s) :
    MemoryOk (ageEvent s sub who value gb fmax) :=
  .healthEventLimited h

protected theorem MemoryOk.marginCheck {i : Nat} (h : MemoryOk s) : MemoryOk (marginCheck s i) :=
  .ite h (.ite (.modClk (.ageEvent (.drawn h))) (.update (.ageEvent (.drawn h))))

protected theorem OutOk.execDriftMeasurement {site : Site} {stress ref : Nat} (h : MemoryOk s) :
    OutOk (execDriftMeasurement site stress ref s) :=
  .ite (.next h) (.next (.marginCheck (.ite (.ageEvent (.drawn (.modSiteHlt (.modSitePwr (.modSiteHlt h))))) (.modSiteHlt h))))

protected theorem OutOk.execFmaxRegionLower {region : Fin 5} (h : MemoryOk s) : OutOk (execFmaxRegionLower region s) :=
  .ite (.next h) (.next (.modClk h))

protected theorem OutOk.execTsvChainMeasurement {seam : Fin 15} {ratio : Nat} (h : MemoryOk s) :
    OutOk (execTsvChainMeasurement seam ratio s) :=
  .next (.ite (.ageEvent h) h)

protected theorem OutOk.execRegulatorEfficiencyMeasurement {site : Site} {drop : Nat} (h : MemoryOk s) :
    OutOk (execRegulatorEfficiencyMeasurement site drop s) :=
  .next (.ite (.ageEvent (.modSiteHlt h)) (.modSiteHlt h))

protected theorem MemoryOk.recomputeLife (h : MemoryOk s) : MemoryOk (recomputeLife s) := .healthEvent (.update (.drawn h))

protected theorem OutOk.execLifeRecompute (h : MemoryOk s) : OutOk (execLifeRecompute s) :=
  .ite (.next (.recomputeLife h)) (.next h)

protected theorem OutOk.execHealthRecordWrite (h : MemoryOk s) : OutOk (execHealthRecordWrite s) := .ite (.next h) (.next h)

protected theorem MemoryOk.nextRetrain (h : MemoryOk s) : MemoryOk (nextRetrain s) := by
  refine .ite h ?_
  split
  · exact h
  · exact .modCuff (.modFab h)

protected theorem MemoryOk.askRetrain {c : Nat} (h : MemoryOk s) : MemoryOk (askRetrain s c) :=
  .ite h (.nextRetrain (.modCuff (.modFab h)))

protected theorem OutOk.execCuffLinkLoss {port : Fin 64} (h : MemoryOk s) : OutOk (execCuffLinkLoss port s) :=
  .ite (.next h) (.next (.askRetrain (.modCuff h)))

protected theorem OutOk.execFecErrorBurst {cuff : Fin 8} {n : Half} (h : MemoryOk s) : OutOk (execFecErrorBurst cuff n s) :=
  .next (.ite (.askRetrain (.modCuff h)) (.modCuff h))

protected theorem OutOk.execCuffRetrain {cuff : Fin 8} (h : MemoryOk s) : OutOk (execCuffRetrain cuff s) := .next (.askRetrain h)

protected theorem MemoryOk.pumpAll (h : MemoryOk s) : MemoryOk (pumpAll s) := .foldl (fun _ _ h => .pump h) h

protected theorem OutOk.execCuffRetrainEnd {cuff : Fin 8} {ok : Bool} {up : BitVec 8} (h : MemoryOk s) :
    OutOk (execCuffRetrainEnd cuff ok up s) :=
  .ite (.next h) (.ite (.next (.pumpAll (.nextRetrain (.modCuff h)))) (.ite (.next (.nextRetrain (.healthEvent (.modCuff
    (.modCuff h))))) (.next (.nextRetrain (.askRetrain (.modCuff h))))))

protected theorem MemoryOk.enableCuff {c : Nat} {on : Bool} (h : MemoryOk s) : MemoryOk (enableCuff s c on) :=
  .ite (.ite h (.askRetrain (.modCuff h))) (.nextRetrain (.modCuff (.modFab h)))

protected theorem OutOk.execCuffEnable {cuff : Fin 8} {on : Bool} (h : MemoryOk s) : OutOk (execCuffEnable cuff on s) :=
  .next (.enableCuff h)

protected theorem OutOk.execCuffRefclkLost {north : Bool} (h : MemoryOk s) : OutOk (execCuffRefclkLost north s) :=
  .next (.foldl (fun _ _ h => .askRetrain (.modCuff h)) h)

protected theorem OutOk.execCuffRefclkRestored {north : Bool} (h : MemoryOk s) : OutOk (execCuffRefclkRestored north s) := .next h

protected theorem OutOk.execCuffTraining {bad : List (Fin 64)} (h : MemoryOk s) : OutOk (execCuffTraining bad s) :=
  .ite (.next h) (.next (.recomputeLife (.ite (.thermEvent (.bootEvent (.update (.endStep (.foldl
    (fun _ _ h => .modCuff h) h))))) (.bootEvent (.update (.endStep (.foldl (fun _ _ h => .modCuff h) h)))))))

protected theorem MemoryOk.rxFrame {c : Nat} (h : MemoryOk s) : MemoryOk (rxFrame s c) := .modCuff h

protected theorem MemoryOk.dropFrame {c : Nat} (h : MemoryOk s) : MemoryOk (dropFrame s c) := .modCuff h

protected theorem MemoryOk.reply {port : Nat} {r : NetReply} (h : MemoryOk s) : MemoryOk (reply s port r) := .modCuff (.modFab h)

protected theorem OutOk.execArpRequest {port : Fin 64} {mac : BitVec 48} {sender target : BitVec 32} (h : MemoryOk s) :
    OutOk (execArpRequest port mac sender target s) :=
  .ite (.next h) (.ite (.next (.reply (.rxFrame h))) (.next (.dropFrame (.rxFrame h))))

protected theorem OutOk.execNeighbourSolicitation {port : Fin 64} {mac : BitVec 48} {sender target : BitVec 128}
    (h : MemoryOk s) : OutOk (execNeighbourSolicitation port mac sender target s) :=
  .ite (.next h) (.ite (.next (.reply (.rxFrame h))) (.next (.dropFrame (.rxFrame h))))

protected theorem OutOk.execEchoRequest {port : Fin 64} {sender target : BitVec 128} {data : List Byte} (h : MemoryOk s) :
    OutOk (execEchoRequest port sender target data s) :=
  .ite (.next h) (.ite (.next (.reply (.rxFrame h))) (.next (.dropFrame (.rxFrame h))))

protected theorem OutOk.execUnacceptedFrame {cuff : Fin 8} (h : MemoryOk s) : OutOk (execUnacceptedFrame cuff s) :=
  .next (.dropFrame (.rxFrame h))

protected theorem OutOk.execPauseFrameReceive {cuff : Fin 8} (h : MemoryOk s) : OutOk (execPauseFrameReceive cuff s) :=
  .next (.modCuff (.rxFrame h))

protected theorem OutOk.execPfcFrame {cuff : Fin 8} {off : Bool} (h : MemoryOk s) : OutOk (execPfcFrame cuff off s) :=
  .next (.modCuff (.rxFrame h))

protected theorem OutOk.execXoffRepeat {cuff : Fin 8} {kib : BitVec 11} (h : MemoryOk s) : OutOk (execXoffRepeat cuff kib s) :=
  .ite (.next h) (.ite (.next (.modCuff (.modFab h))) (.ite (.next (.modCuff (.modFab h))) (.next h)))

protected theorem MemoryOk.xpaceJob {j : Job} (h : MemoryOk s) : MemoryOk (xpaceJob s j) :=
  .ite (.healthEvent (.modFab (.drawn h))) (.modFab (.drawn h))

protected theorem OutOk.execXpaceWindow (h : MemoryOk s) : OutOk (execXpaceWindow s) :=
  .next (.foldl (fun _ _ h => .xpaceJob h) h)

end Sys2Proof.Machine
end

section
/-! PROOFS. The memories keep their canonical form: queues, registers and commands of the host. -/

namespace Sys2Proof.Machine

open Sys2Proof

variable {s : State}

protected theorem MemoryOk.enableAdmin (h : MemoryOk s) : MemoryOk (enableAdmin s) := .modQueue h

protected theorem MemoryOk.drainDone {q : Nat} (h : MemoryOk s) : MemoryOk (drainDone s q) :=
  .ite (.ite (.enableAdmin (.modQueue h)) (.modQueue h)) h

protected theorem MemoryOk.disableQueue {q : Nat} (h : MemoryOk s) : MemoryOk (disableQueue s q) :=
  .ite h (.drainDone (.modQueue h))

protected theorem MemoryOk.writeAdmCtrl {v : Word} (h : MemoryOk s) : MemoryOk (writeAdmCtrl s v) :=
  .ite (.ite (.enableAdmin h) h) (.ite (.ite h (.disableQueue h)) (.modQueue h))

protected theorem OutOk.execAdminQueueEnable {sqLog cqLog : BitVec 4} (h : MemoryOk s) :
    OutOk (execAdminQueueEnable sqLog cqLog s) :=
  .next (.writeAdmCtrl h)

protected theorem OutOk.execAdminQueueDisable (h : MemoryOk s) : OutOk (execAdminQueueDisable s) := .next (.writeAdmCtrl h)

protected theorem OutOk.execQueueDrained {q : BitVec 16} (h : MemoryOk s) : OutOk (execQueueDrained q s) := .next (.drainDone h)

protected theorem MemoryOk.ignoreBell (h : MemoryOk s) : MemoryOk (ignoreBell s) := h

protected theorem OutOk.execSubmissionTailDoorbell {q tail : BitVec 16} (h : MemoryOk s) :
    OutOk (execSubmissionTailDoorbell q tail s) :=
  .ite (.next (.ignoreBell h)) (.ite (.next (.modQueue h)) (.next (.modQueue h)))

protected theorem OutOk.execCompletionHeadDoorbell {q head : BitVec 16} (h : MemoryOk s) :
    OutOk (execCompletionHeadDoorbell q head s) :=
  .ite (.next (.ignoreBell h)) (.ite (.next (.modQueue h)) (.ite (.next (.ignoreBell h)) (.next (.modQueue h))))

protected theorem MemoryOk.writeWaiting {q : Nat} (h : MemoryOk s) : MemoryOk (writeWaiting s q) := by
  unfold writeWaiting
  split
  · exact h
  · exact .ite (.modQueue (.writeCpl (.modQueue h))) h

protected theorem OutOk.execCompletionWrite {q : BitVec 16} (h : MemoryOk s) : OutOk (execCompletionWrite q s) :=
  .next (.drainDone (.writeWaiting h))

protected theorem OutOk.execInterruptCoalesceTimer {q : BitVec 16} (h : MemoryOk s) : OutOk (execInterruptCoalesceTimer q s) :=
  .ite (.next (.sendIrq h)) (.next h)

protected theorem MemoryOk.postNote (h : MemoryOk s) : MemoryOk (postNote s) :=
  .ite (.ite (.update (.writeCpl h)) (.writeCpl h)) h

protected theorem OutOk.execNotificationPost (h : MemoryOk s) : OutOk (execNotificationPost s) := .next (.postNote h)

protected theorem OutOk.execConfigurationRequest (h : MemoryOk s) : OutOk (execConfigurationRequest s) := .ite (.next h) (.next h)

protected theorem OutOk.execBusMasterEnable {on : Bool} (h : MemoryOk s) : OutOk (execBusMasterEnable on s) :=
  .ite (.next h) (.next h)

protected theorem MemoryOk.readLatched {who key o : Nat} {wide : Nat → Option Dword} {word : Nat → Word} (h : MemoryOk s) :
    MemoryOk (readLatched s who key o wide word).2 := by
  unfold readLatched
  split
  · exact .drawn h
  · split
    · exact h
    · exact .drawn h

protected theorem MemoryOk.readPoint {who o : Nat} (h : MemoryOk s) : MemoryOk (readPoint s who o).2 := by
  unfold readPoint
  dsimp only
  split
  · exact .drawn h
  · split
    · exact h
    · exact .drawn h

protected theorem MemoryOk.readWindow {who o : Nat} (h : MemoryOk s) : MemoryOk (readWindow s who o).2 := by
  unfold readWindow
  split
  · exact .readPoint h
  · exact .readLatched h

protected theorem MemoryOk.readCore {who lc o : Nat} (h : MemoryOk s) : MemoryOk (readCore s who lc o).2 := .readLatched h

protected theorem MemoryOk.writeCore {expert : Bool} {lc o : Nat} {v : Word} (h : MemoryOk s) :
    MemoryOk (writeCore s expert lc o v).1 := by
  unfold writeCore
  split
  · exact .modErr h
  · split
    · exact h
    · split
      · exact .modCore h
      · split
        · exact .modCore h
        · exact h

protected theorem MemoryOk.fuseBegin (h : MemoryOk s) : MemoryOk (fuseBegin s) := by
  unfold fuseBegin
  split
  · exact .ite h h
  · exact h

protected theorem MemoryOk.fuseGo (h : MemoryOk s) : MemoryOk (fuseGo s) := .ite h (.ite h (.ite h (.fuseBegin h)))

protected theorem MemoryOk.snapGo (h : MemoryOk s) : MemoryOk (snapGo s) := .ite h (.drawn h)

protected theorem MemoryOk.lockAll (h : MemoryOk s) : MemoryOk (lockAll s) := h

protected theorem MemoryOk.writeCuffCtrl {c : Nat} {v : Word} (h : MemoryOk s) : MemoryOk (writeCuffCtrl s c v).1 :=
  .ite (.askRetrain (.enableCuff (.modCuff h))) (.enableCuff (.modCuff h))

protected theorem MemoryOk.writeXobCtrl {v : Word} (h : MemoryOk s) : MemoryOk (writeXobCtrl s v).1 :=
  .modFab (.ite (.modFab h) h)

protected theorem MemoryOk.writePwrCtrl {v : Word} (h : MemoryOk s) : MemoryOk (writePwrCtrl s v).1 := h

protected theorem MemoryOk.writeLogTail {t : Nat} (h : MemoryOk s) : MemoryOk (writeLogTail s t) := h

protected theorem MemoryOk.winTake {expert : Bool} {o : Nat} {v : Word} (h : MemoryOk s) : MemoryOk (winTake s expert o v).1 := by
  unfold winTake
  split
  · split
    · exact .writeCuffCtrl h
    · exact h
  · split
    · exact .writeXobCtrl h
    · exact h
  · split
    · exact .modClk h
    · split
      · split <;> exact h
      · split
        · exact .ite (.lockAll h) h
        · exact h
        · exact h
        · exact .update (.ite (.fuseGo h) h)
        · exact h
  · split
    · exact .writePwrCtrl h
    · exact h
  · split
    · exact h
    · exact .ite (.snapGo h) h
    · exact h
    · exact h
    · exact h
    · exact h
  · split <;> exact h
  · split
    · exact .writeLogTail h
    · exact h
    · exact h
  · exact h

protected theorem MemoryOk.writeWindow {expert : Bool} {o : Nat} {v : Word} (h : MemoryOk s) :
    MemoryOk (writeWindow s expert o v).1 :=
  .winTake h

protected theorem MemoryOk.writeBar {o : Nat} {v : Word} (h : MemoryOk s) : MemoryOk (writeBar s o v) := by
  unfold writeBar
  split
  · exact .update (.ite h h)
  · exact h
  · exact .ite h h
  · exact .ite h h
  · exact .ite h h
  · exact .ite h h
  · exact .writeAdmCtrl h
  · exact h

protected theorem OutOk.execRegisterWrite {r : RegName} {v : Word} (h : MemoryOk s) : OutOk (execRegisterWrite r v s) := by
  unfold execRegisterWrite
  split
  · exact .ite (.next (.writeBar h)) (.next h)
  · exact .ite (.next (.writeWindow h)) (.next h)
  · exact .ite (.next (.writeCore h)) (.next h)

protected theorem OutOk.execHifLock (h : MemoryOk s) : OutOk (execHifLock s) := .next h

protected theorem OutOk.execXobLock (h : MemoryOk s) : OutOk (execXobLock s) := .next (.modFab h)

protected theorem OutOk.execPwrLock (h : MemoryOk s) : OutOk (execPwrLock s) := .next h

protected theorem OutOk.execFuseLock (h : MemoryOk s) : OutOk (execFuseLock s) := .next h

protected theorem OutOk.execLockAll (h : MemoryOk s) : OutOk (execLockAll s) := .next (.lockAll h)

protected theorem OutOk.execSnapGo {sets : BitVec 10} (h : MemoryOk s) : OutOk (execSnapGo sets s) := .next (.snapGo h)

protected theorem OutOk.execSnapshotDone (h : MemoryOk s) : OutOk (execSnapshotDone s) := by
  unfold execSnapshotDone
  split
  · exact .next h
  · exact .ite (.next h) (.ite (.next (.drawn (.hostPut h))) (.next (.hostPut h)))

protected theorem OutOk.execFuseGo {expert : Bool} (h : MemoryOk s) : OutOk (execFuseGo expert s) :=
  .ite (.next (.fuseGo h)) (.next h)

protected theorem OutOk.execFuseProgrammingDone {same : Bool} (h : MemoryOk s) : OutOk (execFuseProgrammingDone same s) := by
  unfold execFuseProgrammingDone
  split <;> exact .next h

protected theorem OutOk.execFuseTempTimeout (h : MemoryOk s) : OutOk (execFuseTempTimeout s) := by
  unfold execFuseTempTimeout
  split
  · exact .ite (.next h) (.next h)
  · exact .next h

protected theorem OutOk.execIdentify {q : BitVec 16} {e : Entry} (h : MemoryOk s) : OutOk (execIdentify q e s) :=
  .hostRun h (fun _ _ h => .ite (.status h) (.status (.hostPut h)))

protected theorem OutOk.execSettingSet {q : BitVec 16} {e : Entry} (h : MemoryOk s) : OutOk (execSettingSet q e s) := by
  refine .hostRun h (fun _ _ h => ?_)
  dsimp only
  split
  · exact .status h
  · exact .ite (.status h) (.status h)

protected theorem OutOk.execSettingGet {q : BitVec 16} {e : Entry} (h : MemoryOk s) : OutOk (execSettingGet q e s) := by
  refine .hostRun h (fun _ _ h => ?_)
  split
  · exact .status h
  · exact .done h

protected theorem OutOk.execNoteRead {q : BitVec 16} {e : Entry} (h : MemoryOk s) : OutOk (execNoteRead q e s) :=
  .hostRun h (fun _ _ h => .ite (.status h) (.done (.update (.hostPut h))))

protected theorem OptOk.cfgHost {q : Nat} {x : List Byte} {expert : Bool} (h : MemoryOk s) : OptOk (cfgHost s q x expert) := by
  unfold cfgHost
  split
  · exact .some (.ite (.modQueue h) (.disableQueue h))
  · exact .ite .none (.ite (.some (.modQueue h)) (.ite .none (.some (.modQueue h))))
  · exact .none

protected theorem OptOk.cfgXobex {qn : Nat} {x : List Byte} (h : MemoryOk s) : OptOk (cfgXobex s qn x) :=
  .ite .none (.some (.modXq h))

protected theorem OptOk.cfgSite {qn : Nat} {x : List Byte} (h : MemoryOk s) : OptOk (cfgSite s qn x) :=
  .ite .none (.some (.servePosts (.modSq h)))

protected theorem OptOk.cfgOrg {qn : Nat} {x : List Byte} (h : MemoryOk s) : OptOk (cfgOrg s qn x) :=
  .ite .none (.some (.serveOrgPosts (.modStack h)))

protected theorem OptOk.cfgQueue {qn kind : Nat} {x : List Byte} {expert : Bool} (h : MemoryOk s) :
    OptOk (cfgQueue s qn kind x expert) := by
  refine .ite (.ite .none (.ite (.cfgXobex h) (.ite .none ?_))) (.ite (.cfgSite h) (.ite (.cfgOrg h) .none))
  exact .map (fun _ h => .modFab h) (.cfgHost h)

protected theorem OutOk.execQueueConfig {q : BitVec 16} {e : Entry} (h : MemoryOk s) : OutOk (execQueueConfig q e s) := by
  refine .hostRun h (fun _ _ h => ?_)
  split
  · exact .status h
  · next t ht =>
      have hT : MemoryOk t := OptOk.of_eq (.cfgQueue h) ht
      exact .status hT

protected theorem OutOk.execRepairMap {q : BitVec 16} {e : Entry} (h : MemoryOk s) : OutOk (execRepairMap q e s) :=
  .hostRun h (fun _ _ h => .ite (.status h) (.ite (.status h) (.ite (.status (.logError (.ite h h))) (.ite (.status h) (.ite
    (.status (.logError (.ite h h))) (.ite (.status h) (.ite (.done h) (.done h))))))))

protected theorem OutOk.execPwrCap {q : BitVec 16} {e : Entry} (h : MemoryOk s) : OutOk (execPwrCap q e s) :=
  .hostRun h (fun _ _ h => .ite (.status h) (.later (.update (.ite (.update (.setLoop (.sendIntents h))) (.ite (.setLoop
    (.sendIntents h)) (.setLoop (.sendIntents h)))))))

protected theorem OutOk.execPtnConfig {q : BitVec 16} {e : Entry} (h : MemoryOk s) : OutOk (execPtnConfig q e s) :=
  .hostRun h (fun _ _ h => .ite (.status h) (.status h))

protected theorem OutOk.execSysIndex {q : BitVec 16} {e : Entry} (h : MemoryOk s) : OutOk (execSysIndex q e s) :=
  .hostRun h (fun _ _ h => .ite (.status h) (.status (.modFab h)))

protected theorem OutOk.execPortConfig {q : BitVec 16} {e : Entry} (h : MemoryOk s) : OutOk (execPortConfig q e s) :=
  .hostRun h (fun _ _ h => .status (.modFab h))

protected theorem OutOk.execPeerConfig {q : BitVec 16} {e : Entry} (h : MemoryOk s) : OutOk (execPeerConfig q e s) :=
  .hostRun h (fun _ _ h => .ite (.status h) (.ite (.status h) (.status (.modFab h))))

protected theorem OutOk.execCollGroup {q : BitVec 16} {e : Entry} (h : MemoryOk s) : OutOk (execCollGroup q e s) :=
  .hostRun h (fun _ _ h => .ite (.status h) (.ite (.status h) (.ite (.status h) (.status (.modFab h)))))

end Sys2Proof.Machine
end

section
/-! PROOFS. The memories keep their canonical form: slots, images, jobs, the Kiosk and the commands on memory. -/

namespace Sys2Proof.Machine

open Sys2Proof

variable {s : State}

protected theorem MemoryOk.freeQueues {node : Nat} (h : MemoryOk s) : MemoryOk (freeQueues s node) :=
  .modFab (.foldl (fun _ _ h => .modFab (.modXq h)) h)

protected theorem MemoryOk.teardownBegin {j : Job} (h : MemoryOk s) : MemoryOk (teardownBegin s j) :=
  .foldl (fun _ _ h => .ite h (.startRelease h)) (.freeQueues (.jobGone h))

protected theorem MemoryOk.teardownEnd {j : Job} (h : MemoryOk s) : MemoryOk (teardownEnd s j) :=
  .update (.foldl (fun _ _ h => .modCore h) (.foldl (fun _ _ h => .modSitePwr h) (.modFab h)))

protected theorem MemoryOk.tearDown {j : Job} (h : MemoryOk s) : MemoryOk (tearDown s j).1 := by
  unfold tearDown
  extract_lets t
  have hT : MemoryOk t := .teardownBegin h
  split
  · exact .fst (.teardownEnd hT)
  · exact .fst hT

protected theorem OutOk.execJobTeardown {q : BitVec 16} {e : Entry} (h : MemoryOk s) : OutOk (execJobTeardown q e s) := by
  refine .hostRun h (fun _ _ h => ?_)
  split
  · exact .status h
  · split
    · exact .status h
    · exact .status h
    · exact .wait
    · exact .ite (.status (.tearDown h)) (.waits (.tearDown h))

protected theorem OutOk.execJobHalt {q : BitVec 16} {e : Entry} (h : MemoryOk s) : OutOk (execJobHalt q e s) := by
  refine .hostRun h (fun _ _ h => ?_)
  split
  · exact .status h
  · split
    · exact .wait
    · exact .later (.modJob (.beginHalt h))
    · exact .wait
    · exact .status h

protected theorem OutOk.execJobReport {q : BitVec 16} {e : Entry} (h : MemoryOk s) : OutOk (execJobReport q e s) := by
  refine .hostRun h (fun _ _ h => ?_)
  split
  · exact .status h
  · exact .status h
  · exact .ite (.status h) (.ite (.status h) (.done (.hostPut h)))

protected theorem MemoryOk.loadBegin {j : Job} (h : MemoryOk s) : MemoryOk (loadBegin s j) :=
  .foldl (fun _ _ h => .requestCanopy (.requestPower h)) h

protected theorem MemoryOk.loadEntry {j : Job} {e : Nat × Nat × Nat} (h : MemoryOk s) : MemoryOk (loadEntry s j e) := by
  unfold loadEntry
  split
  · exact h
  · exact .ite (.poisonFault (.memFetch h)) (.modCore (.memFetch h))

protected theorem MemoryOk.loadPlace {j : Job} (h : MemoryOk s) : MemoryOk (loadPlace s j) :=
  .modJob (.ite (.foldl (fun _ _ h => .loadEntry h) (.foldl (fun _ _ h => .touchStore (.memWrite h)) (.update (.foldl
    (fun _ _ h => .modCore (.clearUnit h)) h)))) (.sendIntents (.foldl (fun _ _ h => .loadEntry h) (.foldl
    (fun _ _ h => .touchStore (.memWrite h)) (.update (.foldl (fun _ _ h => .modCore (.clearUnit h)) h))))))

protected theorem AccessOk.loadAccess {j : Job} (h : MemoryOk s) : AccessOk (loadAccess s j) := by
  refine List.foldlRecOn (motive := AccessOk) _ _ trivial fun a ha w _ => ?_
  cases a with
  | serve => exact .ite (.orgAccessRange h) trivial
  | _ => exact ha

protected theorem MemoryOk.startJob {j : Job} (h : MemoryOk s) : MemoryOk (startJob s j) :=
  .modJob (.modFab (.foldl (fun _ _ h => .modCore h) h))

protected theorem ActOk.loadGo {j : Job} (h : MemoryOk s) : ActOk (loadGo s j) := by
  refine .ite (.done (.modJob h)) (.ite (.ite (.done (.startJob h)) .wait) (.ite .wait ?_))
  split
  · exact .waits (.loadPlace h)
  · next t ht =>
      have hT : MemoryOk t := AccessOk.of_eq (.loadAccess h) ht
      exact .waits hT
  · exact .wait

protected theorem MemoryOk.syncRefuse {tag image status : Nat} {parts : List Nat} (h : MemoryOk s) :
    MemoryOk (syncRefuse s tag image status parts).1 := by
  unfold syncRefuse
  split
  · exact .syncAbort (.modSync h)
  · exact .sendSync h

protected theorem MemoryOk.syncBegin {tag : Nat} {parts : List Nat} {d : List Byte} (h : MemoryOk s) :
    MemoryOk (syncBegin s tag parts d) :=
  .ite (.syncDecide (.modSync h)) (.sendSync (.modSync h))

protected theorem MemoryOk.syncEnd {tag : Nat} (h : MemoryOk s) : MemoryOk (syncEnd s tag) := .modFab h

protected theorem ActOk.syncPoll {ref : CmdRef} {node : Nat} {y : Sync} (h : MemoryOk s) : ActOk (syncPoll s ref node y) := by
  refine .ite (.waits (.loadBegin (.syncEnd h))) ?_
  split
  · exact .ite .wait (.status (.syncEnd h))
  · exact .wait

protected theorem OutOk.execJobLoad {q : BitVec 16} {e : Entry} (h : MemoryOk s) : OutOk (execJobLoad q e s) := by
  refine .hostRun h (fun c t h => ?_)
  dsimp only
  split
  · exact .loadGo h
  · exact .syncPoll h
  · exact .ite (.status h) (.ite (.status h) (.ite (.status h) (.ite (.status h) (.ite .wait (.ite (.status h) (.ite (.ite
        (.status h) (.waits (.loadBegin h))) (.ite (.status (.syncRefuse h)) (.waits (.syncBegin h)))))))))

protected theorem OutOk.mctpServe {i3c : Bool} {src : Byte} {f : State → State} {b : MctpBody} (h : MemoryOk s)
    (hF : ∀ a, MemoryOk a → MemoryOk (f a)) : OutOk (mctpServe s i3c src f b) :=
  .ite (.next (.sendMctp (hF _ h))) (.next h)

protected theorem OutOk.execMctpControl {i3c : Bool} {src : Byte} {m : MctpReq} (h : MemoryOk s) :
    OutOk (execMctpControl i3c src m s) := by
  unfold execMctpControl
  split <;> exact .mctpServe h (fun _ h => h)

protected theorem OutOk.execPldmRequest {i3c : Bool} {src : Byte} {r : PldmReq} (h : MemoryOk s) :
    OutOk (execPldmRequest i3c src r s) := by
  unfold execPldmRequest
  split <;> exact .mctpServe h (fun _ h => h)

protected theorem MemoryOk.updateSensor {vinA vinM k : Nat} (h : MemoryOk s) : MemoryOk (updateSensor vinA vinM s k) := by
  unfold updateSensor
  dsimp only
  split
  · exact .ite (.queueEvent (.update (.drawn h))) (.update (.drawn h))
  · exact .update (.drawn h)

protected theorem OutOk.execSensorUpdate {vinA vinM : Half} (h : MemoryOk s) : OutOk (execSensorUpdate vinA vinM s) :=
  .next (.foldl (fun _ _ h => .updateSensor h) h)

protected theorem OutOk.execSetEventReceiver {i3c : Bool} {src : Byte} {receiver : Option Byte} (h : MemoryOk s) :
    OutOk (execSetEventReceiver i3c src receiver s) :=
  .mctpServe h (fun _ h => .keepEvents h)

protected theorem OutOk.execPollForPlatformEventMessage {i3c : Bool} {src : Byte} (h : MemoryOk s) :
    OutOk (execPollForPlatformEventMessage i3c src s) := by
  unfold execPollForPlatformEventMessage
  split <;> exact .mctpServe h (fun _ h => h)

protected theorem OutOk.execPlatformEventResend (h : MemoryOk s) : OutOk (execPlatformEventResend s) := by
  unfold execPlatformEventResend
  split
  · exact .next h
  · exact .next (.update (.foldl (fun _ _ h => .sendMctp h) h))

protected theorem OutOk.execPlatformEventAccept {i : Half} (h : MemoryOk s) : OutOk (execPlatformEventAccept i s) :=
  .ite (.next h) (.next h)

protected theorem MemoryOk.modFw {c : Nat} {f : FwComp → FwComp} (h : MemoryOk s) : MemoryOk (s.modFw c f) := h

protected theorem OutOk.execFirmwareUpdate {i3c : Bool} {src : Byte} {comp : Fin 3} {ofs : Word} {data : List Byte}
    (h : MemoryOk s) : OutOk (execFirmwareUpdate i3c src comp ofs data s) :=
  .mctpServe h (fun _ h => .modFw h)

protected theorem OutOk.execVerifyComplete {i3c : Bool} {src : Byte} {comp : Fin 3} {version : Word} {ok : Bool}
    (h : MemoryOk s) : OutOk (execVerifyComplete i3c src comp version ok s) :=
  .mctpServe h (fun _ h => .modFw h)

protected theorem OutOk.execMergeEntryClose {da : Dword} (h : MemoryOk s) : OutOk (execMergeEntryClose da s) :=
  .next (.closeWhere h)

protected theorem MemoryOk.correctWord {w : Nat} (h : MemoryOk s) : MemoryOk (correctWord s w) := by
  unfold correctWord
  extract_lets err
  split
  · exact .setMem (Tbl.wf_setMany _ _ _ _ h.1) h
  · exact h

protected theorem MemoryOk.correctByte {a : Nat} (h : MemoryOk s) : MemoryOk (correctByte s a) := by
  unfold correctByte
  extract_lets err
  split
  · exact .setMem (Tbl.wf_set _ _ _ _ h.1) h
  · exact h

protected theorem OutOk.execWriteBack {da : Dword} (h : MemoryOk s) : OutOk (execWriteBack da s) :=
  .ite (.next h) (.ite (.next (.cancelBacks h)) (.next (.ite (.modErr (.ite (.correctWord h) (.correctByte h))) (.ite
    (.correctWord h) (.correctByte h)))))

protected theorem MemoryOk.memRefused {da st : Nat} (h : MemoryOk s) : MemoryOk (memRefused s da st) := by
  refine .ite ?_ (.ite (.modRouter h) h)
  split
  · exact .modRouter h
  · exact h

protected theorem ActOk.memCommand {write window : Bool} {da n : Nat} {act : State → Act} (h : MemoryOk s)
    (hAct : ∀ a, MemoryOk a → ActOk (act a)) : ActOk (memCommand s write window da n act) := by
  refine .ite .wait ?_
  split
  · split
    · next t ht =>
        have hT : MemoryOk t := AccessOk.of_eq (.ite (.orgWriteRange h) (.orgAccessRange h)) ht
        exact .waits hT
    · exact .ite .wait (hAct _ (.touchStore h))
  · exact .status (.memRefused h)

protected theorem OutOk.execMemRead {q : BitVec 16} {e : Entry} (h : MemoryOk s) : OutOk (execMemRead q e s) := by
  refine .hostRun h (fun _ _ h => .memCommand h (fun _ h => .ite (.status (.orgRead h)) ?_))
  split <;> exact .done (.hostPut (.orgRead h))

protected theorem OutOk.execMemWrite {q : BitVec 16} {e : Entry} (h : MemoryOk s) : OutOk (execMemWrite q e s) := by
  refine .hostRun h (fun _ _ h => .memCommand h (fun _ h => ?_))
  split <;> exact .done (.orgWrite h)

protected theorem OutOk.execMemClear {q : BitVec 16} {e : Entry} (h : MemoryOk s) : OutOk (execMemClear q e s) :=
  .hostRun h (fun _ _ h => .memCommand h (fun _ h => .status (.memClear h)))

protected theorem MemoryOk.ctrlRead {who unit ofs : Nat} (h : MemoryOk s) : MemoryOk (ctrlRead s who unit ofs).2 := by
  unfold ctrlRead
  split
  · exact .readWindow h
  · exact .readCore h

protected theorem MemoryOk.ctrlWrite {expert : Bool} {unit ofs : Nat} {v : Word} (h : MemoryOk s) :
    MemoryOk (ctrlWrite s expert unit ofs v).1 := by
  unfold ctrlWrite
  split
  · exact .writeWindow h
  · exact .writeCore h

protected theorem ActOk.ctrlCommand {da : Nat} {act : Act} (h : MemoryOk s) (hAct : ActOk act) : ActOk (ctrlCommand s da act) := by
  refine .ite .wait ?_
  split
  · split
    · exact .status (.modRouter h)
    · exact .ite .wait hAct
  · exact .status h

protected theorem OutOk.execCtrlRead {q : BitVec 16} {e : Entry} (h : MemoryOk s) : OutOk (execCtrlRead q e s) :=
  .hostRun h (fun _ _ h => .ctrlCommand h (.done (.ctrlRead h)))

protected theorem OutOk.execCtrlWrite {q : BitVec 16} {e : Entry} (h : MemoryOk s) : OutOk (execCtrlWrite q e s) :=
  .hostRun h (fun _ _ h => .ctrlCommand h (.done (.ctrlWrite h)))

protected theorem MemoryOk.ctrlAnswer {dst : BitVec 10} {tag : Byte} {queue : Option (BitVec 16)} {kind : RspKind}
    (h : MemoryOk s) : MemoryOk (ctrlAnswer s dst tag queue kind) :=
  .sendRsp h

protected theorem OutOk.execCread {dst : BitVec 10} {tag : Byte} {queue : Option (BitVec 16)} {ofs : BitVec 18} (h : MemoryOk s) :
    OutOk (execCread dst tag queue ofs s) := by
  refine .ite (.next h) ?_
  split
  · exact .next (.ctrlAnswer h)
  · split
    · exact .next (.ctrlAnswer (.ctrlRead h))
    · exact .next (.ctrlAnswer h)

protected theorem OutOk.execCwrite {dst : BitVec 10} {tag : Byte} {queue : Option (BitVec 16)} {ofs : BitVec 18} {v : Word}
    (h : MemoryOk s) : OutOk (execCwrite dst tag queue ofs v s) := by
  refine .ite (.next h) ?_
  split
  · exact .next (.ctrlAnswer h)
  · split
    · exact .next (.ctrlAnswer (.ctrlWrite h))
    · exact .next (.ctrlAnswer h)

protected theorem OutOk.execBcmd {t : Target} {b : Bcmd} (h : MemoryOk s) : OutOk (execBcmd t b s) := by
  unfold execBcmd
  split
  · exact .next (.broadcast h)
  · exact .next (.broadcast h)
  · exact .next (.broadcast h)
  · exact .next (.ite (.askRetune (.broadcast h)) (.broadcast h))

protected theorem OutOk.execRouteQuery {q : BitVec 16} {e : Entry} (h : MemoryOk s) : OutOk (execRouteQuery q e s) :=
  .hostRun h (fun _ _ h => .ite (.status h) (.done h))

end Sys2Proof.Machine
end

section
/-! PROOFS. The memories keep their canonical form: the commands on the Orangery, row units, refresh, resets and training. -/

namespace Sys2Proof.Machine

open Sys2Proof

variable {s : State}

protected theorem OutOk.execOrgMap {q : BitVec 16} {e : Entry} (h : MemoryOk s) : OutOk (execOrgMap q e s) := by
  refine .hostRun h (fun _ _ h => .ite (.status h) (.ite (.done (.modRegion h)) ?_))
  split
  · exact .status h
  · exact .done (.modRegion (.dropRegion h))

protected theorem OutOk.execOrgUnmap {q : BitVec 16} {e : Entry} (h : MemoryOk s) : OutOk (execOrgUnmap q e s) :=
  .hostRun h (fun _ _ h => .ite (.status h) (.ite (.status h) (.ite (.status h) (.ite .wait (.status (.frameFreed (.completeAll
    (.modStack (.modRegion (.dropRegion (.closeRegion h)))))))))))

protected theorem OutOk.execOrgPageOut {q : BitVec 16} {e : Entry} (h : MemoryOk s) : OutOk (execOrgPageOut q e s) :=
  .hostRun h (fun _ _ h => .ite (.status h) (.ite (.status h) (.ite (.status h) (.later (.modRegion h)))))

protected theorem OutOk.execOrgPageIn {q : BitVec 16} {e : Entry} (h : MemoryOk s) : OutOk (execOrgPageIn q e s) :=
  .hostRun h (fun _ _ h => .ite (.status h) (.later (.modRegion (.startPageIn h))))

protected theorem OutOk.execBankEnter {q : BitVec 16} {e : Entry} (h : MemoryOk s) : OutOk (execBankEnter q e s) :=
  .hostRun h (fun _ _ h => .ite (.status h) (.ite (.status h) (.ite (.status h) (.ite (.status h) (.later (.modRegion h))))))

protected theorem OutOk.execBankRelease {q : BitVec 16} {e : Entry} (h : MemoryOk s) : OutOk (execBankRelease q e s) :=
  .hostRun h (fun _ _ h => .ite (.status h) (.later (.startRelease h)))

protected theorem OutOk.execRuNop {u : RowUnit} (h : MemoryOk s) : OutOk (execRuNop u s) := .unitLocal h

protected theorem OutOk.execRuRld {u : RowUnit} {d : Fin 8} {a : Fin 16} (h : MemoryOk s) : OutOk (execRuRld u d a s) := by
  refine .unitRun h (fun _ => ?_)
  split
  · exact .fail h
  · exact .unitRow h (fun _ h => .ite (.fail (.memFetch h)) (.ok (.memFetch h)))

protected theorem OutOk.execRuRst {u : RowUnit} {a : Fin 16} {b : Fin 8} (h : MemoryOk s) : OutOk (execRuRst u a b s) := by
  refine .unitRun h (fun _ => ?_)
  split
  · exact .fail h
  · exact .ite (.wait (.countHot h)) (.unitRow h (fun _ h => .ok (.memWrite h)))

protected theorem OutOk.execRuSldi {u : RowUnit} {d : Fin 16} {imm : BitVec 22} (h : MemoryOk s) : OutOk (execRuSldi u d imm s) :=
  .unitLocal h

protected theorem OutOk.execRuSadd {u : RowUnit} {d a b : Fin 16} (h : MemoryOk s) : OutOk (execRuSadd u d a b s) := .unitLocal h

protected theorem OutOk.execRuSaddi {u : RowUnit} {d a : Fin 16} {imm : BitVec 10} (h : MemoryOk s) :
    OutOk (execRuSaddi u d a imm s) :=
  .unitLocal h

protected theorem OutOk.execRuLoop {u : RowUnit} {a : Fin 16} {imm : BitVec 10} (h : MemoryOk s) : OutOk (execRuLoop u a imm s) :=
  .unitRun h (fun _ => .ok h)

protected theorem OutOk.execRuBr {u : RowUnit} {imm : BitVec 10} (h : MemoryOk s) : OutOk (execRuBr u imm s) :=
  .unitRun h (fun _ => .ok h)

protected theorem OutOk.execRuEnd {u : RowUnit} (h : MemoryOk s) : OutOk (execRuEnd u s) := .unitRun h (fun _ => .done h)

protected theorem OutOk.execRuAnd {u : RowUnit} {d a b : Fin 8} (h : MemoryOk s) : OutOk (execRuAnd u d a b s) := .unitLocal h

protected theorem OutOk.execRuOr {u : RowUnit} {d a b : Fin 8} (h : MemoryOk s) : OutOk (execRuOr u d a b s) := .unitLocal h

protected theorem OutOk.execRuXor {u : RowUnit} {d a b : Fin 8} (h : MemoryOk s) : OutOk (execRuXor u d a b s) := .unitLocal h

protected theorem OutOk.execRuAndn {u : RowUnit} {d a b : Fin 8} (h : MemoryOk s) : OutOk (execRuAndn u d a b s) := .unitLocal h

protected theorem OutOk.execRuMux {u : RowUnit} {d a b c : Fin 8} (h : MemoryOk s) : OutOk (execRuMux u d a b c s) := .unitLocal h

protected theorem OutOk.execRuNot {u : RowUnit} {d a : Fin 8} (h : MemoryOk s) : OutOk (execRuNot u d a s) := .unitLocal h

protected theorem OutOk.execRuFa {u : RowUnit} {d a b : Fin 8} (h : MemoryOk s) : OutOk (execRuFa u d a b s) := .unitLocal h

protected theorem OutOk.execRuCclr {u : RowUnit} (h : MemoryOk s) : OutOk (execRuCclr u s) := .unitLocal h

protected theorem OutOk.execRuCset {u : RowUnit} (h : MemoryOk s) : OutOk (execRuCset u s) := .unitLocal h

protected theorem OutOk.execRuPopc {u : RowUnit} {d : Fin 16} {a : Fin 8} (h : MemoryOk s) : OutOk (execRuPopc u d a s) :=
  .unitLocal h

protected theorem OutOk.execRuAnys {u : RowUnit} {d : Fin 16} {a : Fin 8} (h : MemoryOk s) : OutOk (execRuAnys u d a s) :=
  .unitLocal h

protected theorem OutOk.transposeRows {i : Instr} {u : RowUnit} {a b : Fin 16} {f : List Byte → List Byte} (h : MemoryOk s) :
    OutOk (transposeRows i u a b s f) := by
  refine .unitRun h (fun x => ?_)
  dsimp only
  split
  · refine .ite (.fail h) (.ite (.fail h) (.ite (.wait (.countHot h)) (.unitRow h (fun _ h => .unitRow h (fun t h => ?_)))))
    exact .ite (.fail (.foldlBy (fun x : List Byte × Bool × State => x.2.2) (fun _ _ h => .memFetch h) h))
      (.ok (.foldl (fun _ _ h => .memWrite h) (.foldl (fun _ _ h => .openRows h)
        (.foldlBy (fun x : List Byte × Bool × State => x.2.2) (fun _ _ h => .memFetch h) h))))
  · exact .fail h
  · exact .fail h

protected theorem OutOk.execRuTrin {u : RowUnit} {a b : Fin 16} (h : MemoryOk s) : OutOk (execRuTrin u a b s) := .transposeRows h

protected theorem OutOk.execRuTrout {u : RowUnit} {a b : Fin 16} (h : MemoryOk s) : OutOk (execRuTrout u a b s) :=
  .transposeRows h

protected theorem OutOk.execRuCrc {u : RowUnit} {d : Fin 8} {a : Fin 16} (h : MemoryOk s) : OutOk (execRuCrc u d a s) := by
  refine .unitRun h (fun _ => ?_)
  split
  · exact .fail h
  · exact .unitRow h (fun _ h => .ite (.fail (.memFetch h)) (.ok (.memFetch h)))

protected theorem OutOk.execRuPut {u : RowUnit} (h : MemoryOk s) : OutOk (execRuPut u s) := .unitLocal h

protected theorem OutOk.execRefresh {stack : Fin 6} {die : Fin 16} {half : Fin 2} {bk : Fin 32} (h : MemoryOk s) :
    OutOk (execRefresh stack die half bk s) :=
  .ite (.next (.modStack (.refreshDue h))) (.ite (.next (.modStack (.refreshDue h))) (.next (.foldl (fun _ _ h => .modUnit h)
    (.modStack (.refreshDue h)))))

protected theorem MemoryOk.resetStage {st : ResetStage} (h : MemoryOk s) : MemoryOk (s.resetStage st) := h

protected theorem MemoryOk.resetR0 {r : ResetRun} (h : MemoryOk s) : MemoryOk (resetR0 s r) :=
  .update (.foldl (fun _ _ h => .modCore h) h)

protected theorem MemoryOk.tearDownAll {js : List Job} (h : MemoryOk s) : MemoryOk (tearDownAll s js).1 := by
  induction js generalizing s with
  | nil => exact h
  | cons j js ih =>
    unfold tearDownAll
    split
    · exact h
    · split
      · exact ih (.tearDown h)
      · exact .fst (.tearDown h)

protected theorem ActOk.resetGo {r : ResetRun} (h : MemoryOk s) : ActOk (resetGo s r) := by
  unfold resetGo
  split
  · exact .ite (.ite .wait (.waits (.resetStage h))) (.later (.resetR0 h))
  · exact .ite (.later (.resetR0 (.tearDownAll h))) (.waits (.tearDownAll h))
  · exact .wait

protected theorem MemoryOk.resetBegin {ref : CmdRef} {scope target : Nat} (h : MemoryOk s) :
    MemoryOk (resetBegin s ref scope target) :=
  .foldl (fun _ _ h => .beginHalt h) h

protected theorem OutOk.execResetCmd {q : BitVec 16} {e : Entry} (h : MemoryOk s) : OutOk (execResetCmd q e s) := by
  refine .hostRun h (fun _ _ h => .ite (.status h) (.ite (.status h) ?_))
  split
  · exact .ite (.resetGo h) .wait
  · exact .ite .wait (.ite (.status h) (.waits (.resetBegin h)))

protected theorem MemoryOk.resetCores {lcs : List Nat} (h : MemoryOk s) : MemoryOk (resetCores s lcs) :=
  .update (.foldl (fun _ _ h => .clearUnit (.setCore h)) h)

protected theorem OutOk.execResetDrainEnd {unsent : Half} (h : MemoryOk s) : OutOk (execResetDrainEnd unsent s) := by
  unfold execResetDrainEnd
  split
  · exact .next h
  · exact .ite (.next h) (.next (.completeCmd (.update (.resetCores h))))

protected theorem OutOk.execTrBind {q : BitVec 16} {e : Entry} (h : MemoryOk s) : OutOk (execTrBind q e s) := by
  refine .hostRun h (fun _ _ h => ?_)
  dsimp only
  split
  · exact .status h
  · exact .ite (.status h) (.status (.applyCmpl (.memWrite (.modTraining h))))

protected theorem AccessOk.exportRegion {k r : Nat} (h : MemoryOk s) : AccessOk (exportRegion s k r) := by
  unfold exportRegion
  dsimp only
  split
  · exact trivial
  · exact .wait (.startPageIn h)
  · exact .wait h
  · exact .wait h
  · exact .ite trivial (.wait h)

protected theorem AccessOk.exportAccess {da n : Nat} (h : MemoryOk s) : AccessOk (exportAccess s da n) := by
  refine .ite trivial (List.foldlRecOn (motive := AccessOk) _ _ trivial fun a ha r _ => ?_)
  cases a with
  | serve => exact .exportRegion h
  | _ => exact ha

protected theorem AccessOk.exportWait {rs : List (Nat × Nat)} (h : MemoryOk s) : AccessOk (exportWait s rs) := by
  refine List.foldlRecOn (motive := AccessOk) _ _ trivial fun a ha e _ => ?_
  cases a with
  | serve => exact .exportAccess h
  | _ => exact ha

protected theorem MemoryOk.exportOne {step : Dword} {x : Exported} {h : List Byte} (hX : MemoryOk x.st) :
    MemoryOk (exportOne step x h).st :=
  .memFetch hX

protected theorem OutOk.execTrExport {q : BitVec 16} {e : Entry} (h : MemoryOk s) : OutOk (execTrExport q e s) := by
  refine .hostRun h (fun c s h => ?_)
  dsimp only
  split
  · exact .status h
  · refine .ite (.status h) (.ite (.status h) (.ite (.status h) (.ite (.status h) ?_)))
    split
    · next t ht => exact .waits (AccessOk.of_eq (.exportWait h) ht)
    · exact .status h
    · exact .ite (.status (.foldlBy Exported.st (fun _ _ h => .exportOne h) h))
        (.done (.hostPut (.foldlBy Exported.st (fun _ _ h => .exportOne h) h)))

protected theorem OutOk.execDigestLocalisation {node : Fin 64} {stack : Fin 6} {region : Fin 16384} {block : Fin 64}
    {others : List Replica} (h : MemoryOk s) : OutOk (execDigestLocalisation node stack region block others s) := by
  unfold execDigestLocalisation
  split
  · exact .next h
  · refine .ite (.next h) ?_
    dsimp only
    split
    · exact .next h
    · exact .next (.healthEvent (.notify (.drawn h)))

end Sys2Proof.Machine
end

section
/-! PROOFS. The memories keep their canonical form: every command and every step, and the obligations on memory. -/

namespace Sys2Proof.Machine

open Sys2Proof

variable {s : State}

protected theorem OutOk.exec {i : Instr} (h : MemoryOk s) : OutOk (exec i s) := by
  unfold exec
  split
  · exact .execIdentify h
  · exact .execQueueConfig h
  · exact .execSettingSet h
  · exact .execSettingGet h
  · exact .execNoteRead h
  · exact .execRepairMap h
  · exact .execRouteQuery h
  · exact .execResetCmd h
  · exact .execPwrCap h
  · exact .execPtnConfig h
  · exact .execJobLoad h
  · exact .execJobHalt h
  · exact .execJobTeardown h
  · exact .execJobReport h
  · exact .execMemRead h
  · exact .execMemWrite h
  · exact .execMemClear h
  · exact .execCtrlRead h
  · exact .execCtrlWrite h
  · exact .execQueuePost h
  · exact .execOrgMap h
  · exact .execOrgUnmap h
  · exact .execOrgPageOut h
  · exact .execOrgPageIn h
  · exact .execBankEnter h
  · exact .execBankRelease h
  · exact .execSvBind h
  · exact .execSvOpen h
  · exact .execSvClose h
  · exact .execSvFork h
  · exact .execSvHot h
  · exact .execSvCold h
  · exact .execSvQuota h
  · exact .execTrBind h
  · exact .execTrExport h
  · exact .execSysIndex h
  · exact .execPortConfig h
  · exact .execPeerConfig h
  · exact .execCollGroup h
  · exact .execAnop h
  · exact .execMac h
  · exact .execMacz h
  · exact .execAclr h
  · exact .execAramp h
  · exact .execLinePortReadout h
  · exact .execLinePortLoad h
  · exact .execTileSlotFull h
  · exact .execTileSlotFree h
  · exact .execActivityLevelFall h
  · exact .execActivityLevelRise h
  · exact .execFnop h
  · exact .execFblk h
  · exact .execFgath h
  · exact .execFflush h
  · exact .execVnop h
  · exact .execVadd h
  · exact .execVsub h
  · exact .execVmul h
  · exact .execVfma h
  · exact .execVmin h
  · exact .execVmax h
  · exact .execVclt h
  · exact .execVceq h
  · exact .execVsel h
  · exact .execVmov h
  · exact .execVcvt h
  · exact .execVext h
  · exact .execVexp2 h
  · exact .execVlog2 h
  · exact .execVrcp h
  · exact .execVrsqrt h
  · exact .execVtanh h
  · exact .execVsigm h
  · exact .execVrsumr h
  · exact .execVrmaxr h
  · exact .execVrsumc h
  · exact .execVrmaxc h
  · exact .execVrsum h
  · exact .execVrmax h
  · exact .execVsmstat h
  · exact .execVsmexp h
  · exact .execVmask h
  · exact .execVdrop h
  · exact .execVld h
  · exact .execVst h
  · exact .execGnop h
  · exact .execGwait h
  · exact .execGpeek h
  · exact .execGinc h
  · exact .execGsend h
  · exact .execGloop h
  · exact .execGjump h
  · exact .execGseg h
  · exact .execGphase h
  · exact .execGpause h
  · exact .execGend h
  · exact .execGpauseEnd h
  · exact .execGsegLoadComplete h
  · exact .execPreboostStart h
  · exact .execPreboostEnd h
  · exact .execMnop h
  · exact .execMcopy h
  · exact .execMclear h
  · exact .execMoveStart h
  · exact .execMoveComplete h
  · exact .execGateStall h
  · exact .execJobFaulted h
  · exact .execWaitStage2 h
  · exact .execPaceWindow h
  · exact .execPauseDutyFrame h
  · exact .execWrite h
  · exact .execRead h
  · exact .execClear h
  · exact .execPost h
  · exact .execBdata h
  · exact .execRdata h
  · exact .execWack h
  · exact .execTreset h
  · exact .execRerr h
  · exact .execInc h
  · exact .execCread h
  · exact .execCwrite h
  · exact .execCresp h
  · exact .execBlame h
  · exact .execHalt h
  · exact .execBcmd h
  · exact .execMapupd h
  · exact .execEvent h
  · exact .execXbell h
  · exact .execReplay h
  · exact .execSeamMarginLow h
  · exact .execRetuneEnd h
  · exact .execClockSlewStep h
  · exact .execMergeEntryClose h
  · exact .execWriteBack h
  · exact .execPlotRefresh h
  · exact .execRefresh h
  · exact .execPageOutComplete h
  · exact .execPageInComplete h
  · exact .execBankEntryComplete h
  · exact .execBankReleaseComplete h
  · exact .execBankHoldTimeout h
  · exact .execRecordNoOp h
  · exact .execPload h
  · exact .execPset h
  · exact .execSeed h
  · exact .execStart h
  · exact .execStop h
  · exact .execCopyin h
  · exact .execCopyout h
  · exact .execDigest h
  · exact .execRelease h
  · exact .execBankRecordComplete h
  · exact .execOrangeryPostTimeout h
  · exact .execBuNop h
  · exact .execBuLd h
  · exact .execBuSt h
  · exact .execBuLdi h
  · exact .execBuIadd h
  · exact .execBuIaddi h
  · exact .execBuLoop h
  · exact .execBuBr h
  · exact .execBuEnd h
  · exact .execBuFadd h
  · exact .execBuFsub h
  · exact .execBuFmul h
  · exact .execBuFfma h
  · exact .execBuFmin h
  · exact .execBuFmax h
  · exact .execBuFclt h
  · exact .execBuFsel h
  · exact .execBuFrcp h
  · exact .execBuFrsq h
  · exact .execBuBcast h
  · exact .execBuCvt h
  · exact .execBuExt h
  · exact .execBuRand h
  · exact .execBuPut h
  · exact .execBuCsend h
  · exact .execBuCrecv h
  · exact .execRuNop h
  · exact .execRuRld h
  · exact .execRuRst h
  · exact .execRuSldi h
  · exact .execRuSadd h
  · exact .execRuSaddi h
  · exact .execRuLoop h
  · exact .execRuBr h
  · exact .execRuEnd h
  · exact .execRuAnd h
  · exact .execRuOr h
  · exact .execRuXor h
  · exact .execRuAndn h
  · exact .execRuMux h
  · exact .execRuNot h
  · exact .execRuFa h
  · exact .execRuCclr h
  · exact .execRuCset h
  · exact .execRuPopc h
  · exact .execRuAnys h
  · exact .execRuTrin h
  · exact .execRuTrout h
  · exact .execRuCrc h
  · exact .execRuPut h
  · exact .execLandingChunk h
  · exact .execHeldChunkWrite h
  · exact .execDigestLocalisation h
  · exact .execXwrite h
  · exact .execXread h
  · exact .execXpost h
  · exact .execXrs h
  · exact .execXag h
  · exact .execXar h
  · exact .execXfin h
  · exact .execXobexMessageStart h
  · exact .execXobWrite h
  · exact .execRreq h
  · exact .execRrsp h
  · exact .execXobPost h
  · exact .execAck h
  · exact .execNak h
  · exact .execCollReady h
  · exact .execFetched h
  · exact .execFinword h
  · exact .execVerdict h
  · exact .execXobexHalt h
  · exact .execSyncReady h
  · exact .execSyncGo h
  · exact .execSyncAbort h
  · exact .execSyncTimeout h
  · exact .execMgmt h
  · exact .execMessageLocalCompletion h
  · exact .execMessageRemoteCompletion h
  · exact .execCollectiveComplete h
  · exact .execAckTimer h
  · exact .execRetransmissionTimeout h
  · exact .execContextLost h
  · exact .execRateIncrease h
  · exact .execPfcFrame h
  · exact .execXoffRepeat h
  · exact .execPauseFrameReceive h
  · exact .execArpRequest h
  · exact .execNeighbourSolicitation h
  · exact .execEchoRequest h
  · exact .execCuffLinkLoss h
  · exact .execFecErrorBurst h
  · exact .execCuffRetrainEnd h
  · exact .execFrameReplay h
  · exact .execPostTimeout h
  · exact .execSvBusyTimeout h
  · exact .execResetDrainEnd h
  · exact .execResetScope3Begin h
  · exact .execSubmissionTailDoorbell h
  · exact .execCompletionHeadDoorbell h
  · exact .execAdminQueueEnable h
  · exact .execAdminQueueDisable h
  · exact .execQueueDrained h
  · exact .execCompletionWrite h
  · exact .execInterruptCoalesceTimer h
  · exact .execNotificationPost h
  · exact .execConfigurationRequest h
  · exact .execBusMasterEnable h
  · exact .execHifLock h
  · exact .execXobLock h
  · exact .execPwrLock h
  · exact .execFuseLock h
  · exact .execLockAll h
  · exact .execCuffRetrain h
  · exact .execCuffEnable h
  · exact .execSnapGo h
  · exact .execSnapshotDone h
  · exact .execFuseGo h
  · exact .execFuseProgrammingDone h
  · exact .execFuseTempTimeout h
  · exact .execRegisterWrite h
  · exact .execLoopStep h
  · exact .execFreqLimStep h
  · exact .execVrAlert h
  · exact .execCoreGate h
  · exact .execCanopyRetention h
  · exact .execInrushPermitGrant h
  · exact .execSlowRamp h
  · exact .execPowerGood h
  · exact .execDroopTrip h
  · exact .execDroopRelease h
  · exact .execSensorSample h
  · exact .execEstimateStep h
  · exact .execThermalStep h
  · exact .execTclkLimStep h
  · exact .execSensorSuspect h
  · exact .execPairDis h
  · exact .execHeldWriteDrain h
  · exact .execTripRestart h
  · exact .execInletRange h
  · exact .execCoolantEvaluation h
  · exact .execFlowEvaluation h
  · exact .execVinAuxEnter h
  · exact .execVinAuxLeave h
  · exact .execMainRailsInRange h
  · exact .execMainRailLost h
  · exact .execRailLossRestart h
  · exact .execRefclkSysLost h
  · exact .execRefclkSysRestored h
  · exact .execCuffRefclkLost h
  · exact .execAuxClkLost h
  · exact .execPciePerstNAssert h
  · exact .execPciePerstNDeassert h
  · exact .execHotReset h
  · exact .execLinkLost h
  · exact .execWatchdogExpiry h
  · exact .execAuxStart h
  · exact .execKioskBoot h
  · exact .execFirmwareCheck h
  · exact .execFuseLoad h
  · exact .execSeamCalibration h
  · exact .execPlotAndOrangeryTraining h
  · exact .execTrellisStart h
  · exact .execCoreFirmware h
  · exact .execMemoryTest h
  · exact .execRepair h
  · exact .execLogicalMapBuild h
  · exact .execCuffTraining h
  · exact .execJobBoundary h
  · exact .execDriftMeasurement h
  · exact .execTsvChainMeasurement h
  · exact .execRegulatorEfficiencyMeasurement h
  · exact .execFmaxRegionLower h
  · exact .execLifeRecompute h
  · exact .execHealthRecordWrite h
  · exact .execXpaceWindow h
  · exact .execMctpControl h
  · exact .execSensorUpdate h
  · exact .execSetEventReceiver h
  · exact .execPollForPlatformEventMessage h
  · exact .execPlatformEventResend h
  · exact .execFirmwareUpdate h
  · exact .execVerifyComplete h
  · exact .execVrAlertRelease h
  · exact .execMainRailsRemoved h
  · exact .execHeadWordReread h
  · exact .execPcieLinkUp h
  · exact .execCuffRefclkRestored h
  · exact .execPldmRequest h
  · exact .execPlatformEventAccept h
  · exact .execUnacceptedFrame h

protected theorem MemoryOk.after {o : Out} (hO : OutOk o) (h : MemoryOk s) : MemoryOk (after o s) := by
  cases o with
  | next t => exact OutOk.of_eq hO rfl
  | _ => exact h

protected theorem MemoryOk.coreDue {lc : Lc} (h : MemoryOk s) : MemoryOk (coreDue s lc) := by
  unfold coreDue
  exact .after (.execActivityLevelRise (.after (.execActivityLevelFall (.foldl (fun _ _ h => .ite h (.after (.execTileSlotFree
      (.after (.execTileSlotFull h) h)) h)) h)) (.foldl (fun _ _ h => .ite h (.after (.execTileSlotFree (.after
      (.execTileSlotFull h) h)) h)) h))) (.foldl (fun _ _ h => .ite h (.after (.execTileSlotFree (.after
      (.execTileSlotFull h) h)) h)) h)

protected theorem MemoryOk.fetchChecked {lc : Nat} (h : MemoryOk s) : MemoryOk (fetchChecked s lc) := .coreRead h

protected theorem MemoryOk.gatesHeld {lc : Nat} {is : List Instr} (h : MemoryOk s) : MemoryOk (gatesHeld s lc is) := by
  unfold gatesHeld
  cases is.findSome? gateOf with
  | none => exact h
  | some g => exact .endWait h

protected theorem MemoryOk.countWaits {lc : Nat} {is : List Instr} (h : MemoryOk s) : MemoryOk (countWaits s lc is) :=
  .modCore (.foldl (fun _ _ h => .ite (.update (.after (.exec h) h)) h) h)

protected theorem OptOk.refusedBy {lc : Nat} {is : List Instr} (h : MemoryOk s) : OptOk (refusedBy s lc is) := by
  unfold refusedBy
  split
  · exact .some (.arrayHazard h)
  · exact .findSome? fun _ => .ite (.some (.after (.exec h) h)) .none

protected theorem MemoryOk.slotActs {i : Instr} (h : MemoryOk s) : MemoryOk (slotActs s i) := by
  unfold slotActs
  split
  · exact .gendAct h
  · exact .gsegAct h
  · exact .after (.exec h) h

protected theorem MemoryOk.issueBundle {lc : Lc} {is : List Instr} (h : MemoryOk s) : MemoryOk (issueBundle s lc is) := by
  refine .ite (.modCore h) ?_
  split
  · exact .fvHazard h
  · exact .ite (.modCore (.countWaits h)) (OptOk.getD (.refusedBy h) (.foldl (fun _ _ h => .slotActs h) h))

protected theorem MemoryOk.examineBundle {lc : Lc} (h : MemoryOk s) : MemoryOk (examineBundle s lc) := by
  refine .ite (.modCore (.fetchChecked h)) ?_
  split
  · exact .contractHazard (.fetchChecked h)
  · split
    · exact .modCore (.fetchChecked h)
    · exact .ite (.modCore (.fetchChecked h)) (.issueBundle (.gatesHeld (.fetchChecked h)))

protected theorem MemoryOk.pauseGate {lc : Lc} (h : MemoryOk s) : MemoryOk (pauseGate s lc) := .ite (.modCore h) (.gatesHeld h)

protected theorem MemoryOk.retrySlots {lc : Nat} (h : MemoryOk s) : MemoryOk (retrySlots s lc) :=
  .foldl (fun _ _ h => .after (.exec h) h) h

protected theorem MemoryOk.storePass {lc : Nat} (h : MemoryOk s) : MemoryOk (storePass s lc) :=
  .ite (.jobEndAt (.storeCycle h)) (.storeCycle h)

protected theorem MemoryOk.sequencerCycle {lc : Lc} (h : MemoryOk s) : MemoryOk (sequencerCycle s lc) := by
  unfold sequencerCycle
  exact .ite (.modCore (.pauseGate (.storePass (.coreDue h)))) (.ite (.modCore (.storePass (.coreDue h))) (.ite (.ite (.modCore
      (.retrySlots (.storePass (.coreDue h)))) (.retrySlots (.storePass (.coreDue h)))) (.ite (.examineBundle (.storePass
      (.coreDue h))) (.modCore (.storePass (.coreDue h))))))

protected theorem MemoryOk.coreCycle {lc : Lc} (h : MemoryOk s) : MemoryOk (coreCycle s lc) :=
  .foldl (fun _ _ h => .moverCycle h) (.sequencerCycle h)

protected theorem MemoryOk.passWaits (h : MemoryOk s) : MemoryOk (passWaits s) :=
  .foldl (fun _ _ h => .after (.execGateStall h) h) h

protected theorem MemoryOk.passClocks (h : MemoryOk s) : MemoryOk (passClocks s) :=
  .foldl (fun _ _ h => .coreCycle h) (.passWaits (.foldl (fun _ _ h => .modClk h) h))

protected theorem MemoryOk.unitStep {k u : Nat} (h : MemoryOk s) : MemoryOk (unitStep s k u) := by
  refine .ite h (.ite (.modUnit h) ?_)
  dsimp only
  split
  · exact .unitFail h
  · exact .update (.after (.exec h) h)

protected theorem MemoryOk.unitTurn {k u : Nat} (h : MemoryOk s) : MemoryOk (unitTurn s k u) := by
  unfold unitTurn
  split
  · exact .after (.exec h) h
  · exact .unitStep h

protected theorem MemoryOk.passUnits (h : MemoryOk s) : MemoryOk (passUnits s) := .ite (.foldl (fun _ _ h => .unitTurn h) h) h

protected theorem MemoryOk.retryHeld (h : MemoryOk s) : MemoryOk (retryHeld s) := .foldl (fun _ _ h => .after (.exec h) h) h

protected theorem MemoryOk.fetched {q : Nat} (h : MemoryOk s) : MemoryOk (fetched s q) := .modQueue h

protected theorem MemoryOk.fetchOne {q : Nat} (h : MemoryOk s) : MemoryOk (fetchOne s q) := by
  refine .ite h (.ite (.modQueue h) ?_)
  dsimp only
  split
  · exact .completeCmd (.startCmd (.acceptCmd (.fetched h)))
  · exact .ite h (.after (.exec (.fetched h)) (.fetched h))

protected theorem MemoryOk.serveQueue {q : Nat} (h : MemoryOk s) : MemoryOk (serveQueue s q) :=
  .after (.execInterruptCoalesceTimer (.drainDone (.writeWaiting h))) (.drainDone (.writeWaiting h))

protected theorem MemoryOk.passHost (h : MemoryOk s) : MemoryOk (passHost s) :=
  .postNote (.foldl (fun _ _ h => .serveQueue (.fetchOne h)) h)

protected theorem MemoryOk.tick (h : MemoryOk s) : MemoryOk (tick s) := by
  unfold tick
  exact .fuseBegin (.pumpAll (.passHost (.passPosts (.retryHeld (.passUnits (.passClocks h))))))

protected theorem OutOk.step (h : MemoryOk s) : OutOk (step s) := by
  unfold step
  split
  · exact .next (.tick h)
  · exact .exec h

/-- Settles O59: a step is one command or, with none waiting, one tick, and each keeps the form. -/
theorem stepKeepsMemory : Obligations.StepKeepsMemory := fun _ _ hMem hHost hStep =>
  OutOk.of_eq (.step ⟨hMem, hHost⟩) hStep

/-- Settles O60: the part starts with every byte of both memories zero. -/
theorem resetMemory : Obligations.ResetMemory := ⟨reset_memory_wf, Tbl.wf_nil 0⟩

end Sys2Proof.Machine
end

section
/-! PROOFS. Reads, writes and clears of memory without errors. -/

namespace Sys2Proof.Machine

open Sys2Proof

/-! ## Bytes that stand at an address -/

theorem bytesAt_add (s : State) (a m n : Nat) : s.bytesAt a (m + n) = s.bytesAt a m ++ s.bytesAt (a + m) n := by
  unfold State.bytesAt
  rw [List.range_add, List.map_append, List.map_map]
  exact congrArg _ (List.map_congr_left fun i _ => by rw [Function.comp_apply, Nat.add_assoc])

theorem drop_bytesAt (s : State) (a : Nat) {k n : Nat} (h : k ≤ n) : (s.bytesAt a n).drop k = s.bytesAt (a + k) (n - k) := by
  obtain ⟨m, rfl⟩ := Nat.exists_eq_add_of_le h
  rw [bytesAt_add, List.drop_left' (length_bytesAt s a k), Nat.add_sub_cancel_left]

theorem take_bytesAt (s : State) (a : Nat) {k n : Nat} (h : k ≤ n) : (s.bytesAt a n).take k = s.bytesAt a k := by
  obtain ⟨m, rfl⟩ := Nat.exists_eq_add_of_le h
  rw [bytesAt_add, List.take_left' (length_bytesAt s a k)]

theorem flatMap_words (s : State) (a n : Nat) :
    ((List.range n).map (fun i => (a + i) * 32)).flatMap (fun w => s.bytesAt w 32) = s.bytesAt (a * 32) (32 * n) := by
  induction n with
  | zero => rfl
  | succ n ih =>
    rw [List.range_succ, List.map_append, List.flatMap_append, ih, Nat.mul_succ 32 n, bytesAt_add]
    simp only [List.map_cons, List.map_nil, List.flatMap_cons, List.flatMap_nil, List.append_nil]
    rw [Nat.add_mul, Nat.mul_comm n 32]

theorem getD_bytesAt (s : State) (da : Nat) {n i : Nat} (h : i < n) : (s.bytesAt da n).getD i 0 = s.byte (da + i) := by
  simp [State.bytesAt, h]

/-! ## A read -/

/-- A read of memory without errors delivers what stands there, all of it good, and changes nothing (R196, R199). -/
theorem memFetch_of_noErrors {s : State} (h : NoErrors s) (req : Nat) (lc : Option Nat) (da n : Nat) :
    memFetch s req lc da n = { bytes := s.bytesAt da n, bad := List.replicate n false, st := s } := by
  obtain ⟨hFlaws, hByteFlaws, hMaps, hMerges, -⟩ := h
  have hCheck : checkMaps s req lc da (da + n) = s := by simp [checkMaps, hMaps]
  unfold memFetch
  rw [hCheck]
  dsimp only
  split
  · rw [fetchWords_clean s req lc _ hFlaws hMerges]
    by_cases hn : n = 0
    · simp [hn, State.bytesAt]
    · have hWords : wordsOf da n = (List.range ((da + n - 1) / 32 - da / 32 + 1)).map (fun i => (da / 32 + i) * 32) := if_neg hn
      rw [hWords, flatMap_words, List.length_map, List.length_range, drop_bytesAt s _ (by omega), take_bytesAt s _ (by omega),
        List.drop_replicate, List.take_replicate, Nat.div_add_mod' da 32]
      congr 2
      omega
  · rw [fetchBytes_clean s req lc _ hByteFlaws]
    simp [State.bytesAt]

/-! ## Writes and clears of the stores -/

/-- Only the bytes, valid bits and held words of memory differ. -/
def Rewritten (s t : State) : Prop := ∃ bs v hd, t = { s with mem := { s.mem with bytes := bs, valid := v, held := hd } }

theorem Rewritten.refl (s : State) : Rewritten s s := ⟨s.mem.bytes, s.mem.valid, s.mem.held, rfl⟩

theorem Rewritten.trans {s t u : State} (h : Rewritten s t) (h' : Rewritten t u) : Rewritten s u := by
  obtain ⟨_, _, _, rfl⟩ := h
  obtain ⟨bs, v, hd, rfl⟩ := h'
  exact ⟨bs, v, hd, rfl⟩

theorem Rewritten.noErrors {s t : State} (h : Rewritten s t) (hs : NoErrors s) : NoErrors t := by
  obtain ⟨_, _, _, rfl⟩ := h
  exact hs

theorem cancelBacks_of_none {s : State} (h : s.mem.writeBacks = []) (lo hi : Nat) : cancelBacks s lo hi = s := by
  have hSame : ∀ l, l = s.mem.writeBacks → { s with mem := { s.mem with writeBacks := l } } = s := by
    rintro _ rfl
    rfl
  unfold cancelBacks
  dsimp only
  rw [h]
  exact hSame _ h.symm

theorem setValid_of_noErrors {s : State} (h : NoErrors s) (l : Nat) : ∃ v, setValid s l = { s with mem := { s.mem with valid := v } } := by
  obtain ⟨hFlaws, hByteFlaws, -⟩ := h
  unfold setValid
  split
  · exact ⟨s.mem.valid, rfl⟩
  · refine ⟨Tbl.set false s.mem.valid l true, ?_⟩
    simp [Tbl.clearRange, hFlaws, hByteFlaws]

theorem foldl_setValid_of_noErrors {s : State} (h : NoErrors s) (ls : List Nat) :
    ∃ v, ls.foldl setValid s = { s with mem := { s.mem with valid := v } } := by
  induction ls generalizing s with
  | nil => exact ⟨s.mem.valid, rfl⟩
  | cons l ls ih =>
    obtain ⟨v, hSet⟩ := setValid_of_noErrors h l
    have hNext : NoErrors (setValid s l) := by
      rw [hSet]
      exact h
    obtain ⟨v', hRest⟩ := ih hNext
    refine ⟨v', ?_⟩
    rw [List.foldl_cons, hRest, hSet]

/-- No byte marked bad leaves the error patterns as they were. -/
theorem foldl_no_mark {β : Type} (f : β → Bool × Nat → β) (bad : List Bool) (h : ∀ b ∈ bad, b = false) (t : β) :
    bad.zipIdx.foldl (fun t e => if e.1 then f t e else t) t = t := by
  refine List.foldlRecOn (motive := fun u => u = t) _ _ rfl fun u hu e he => ?_
  rw [if_neg (by simp [h e.1 (List.fst_mem_of_mem_zipIdx he)]), hu]

/-- The code of good bytes in a store without errors sets valid bits alone. -/
theorem codeBytes_of_noErrors {s : State} (h : NoErrors s) (lc : Option Nat) {da : Nat} (hSram : isDram da = false) (n : Nat)
    {bad : List Bool} (hBad : ∀ b ∈ bad, b = false) : ∃ v, codeBytes s lc da n bad = { s with mem := { s.mem with valid := v } } := by
  obtain ⟨v, hValid⟩ := foldl_setValid_of_noErrors h (linesOf da n)
  have hNext : NoErrors { s with mem := { s.mem with valid := v } } := h
  refine ⟨v, ?_⟩
  rw [codeBytes, hSram, if_neg Bool.false_ne_true, hValid]
  generalize ({ s with mem := { s.mem with valid := v } } : State) = t at hNext
  obtain ⟨-, hByteFlaws, -, -, hBacks⟩ := hNext
  have hMarks : bad.zipIdx.foldl (fun t e => if e.1 then Tbl.set 0 t (da + e.2) poisonByte else t)
      (Tbl.clearRange t.mem.byteFlaws da (da + n)) = t.mem.byteFlaws := by
    rw [foldl_no_mark _ bad hBad, hByteFlaws]
    rfl
  dsimp only
  rw [cancelBacks_of_none hBacks, hMarks]

/-- Good bytes written to a store without errors stand at their address, and nothing but memory's own tables changes. -/
theorem memWriteBad_of_noErrors {s : State} (h : NoErrors s) (lc : Option Nat) {da : Nat} (hSram : isDram da = false) (data : List Byte)
    {bad : List Bool} (hBad : ∀ b ∈ bad, b = false) :
    ∃ v, memWriteBad s lc da data bad = { s with mem := { s.mem with bytes := Tbl.setMany 0 s.mem.bytes da data, valid := v } } := by
  have hCheck : checkMaps s 0xFF lc da (da + data.length) = s := by simp [checkMaps, h.2.2.1]
  obtain ⟨v, hCode⟩ := codeBytes_of_noErrors (s := placeBytes s da data) h lc hSram data.length hBad
  refine ⟨v, ?_⟩
  rw [memWriteBad, hCheck, hCode]
  rfl

/-- The byte that a write of `bs` at `da` leaves at `a` where `old` stood. -/
def rowByte (e : Nat × List Byte) (a : Nat) (old : Byte) : Byte := if e.1 ≤ a ∧ a < e.1 + e.2.length then e.2.getD (a - e.1) 0 else old

theorem get_setMany_eq_rowByte (t : Tbl Byte) (da : Nat) (bs : List Byte) (a : Nat) :
    Tbl.get 0 (Tbl.setMany 0 t da bs) a = rowByte (da, bs) a (Tbl.get 0 t a) := by
  rw [Tbl.get_setMany, rowByte]
  dsimp only
  split
  next h =>
    rw [List.getD_eq_getElem?_getD, List.getElem?_eq_getElem (by omega)]
    rfl
  next => rfl

/-- A write of the bytes `bs` at `da`, or a clear where they are zeros, and nothing else. -/
def RowWritten (s : State) (e : Nat × List Byte) (t : State) : Prop := Rewritten s t ∧ ∀ a, t.byte a = rowByte e a (s.byte a)

theorem memWriteBad_rowWritten {s : State} (h : NoErrors s) (lc : Option Nat) {da : Nat} (hSram : isDram da = false) (data : List Byte)
    {bad : List Bool} (hBad : ∀ b ∈ bad, b = false) : RowWritten s (da, data) (memWriteBad s lc da data bad) := by
  obtain ⟨v, hWrite⟩ := memWriteBad_of_noErrors h lc hSram data hBad
  rw [hWrite]
  exact ⟨⟨_, _, _, rfl⟩, get_setMany_eq_rowByte s.mem.bytes da data⟩

theorem clearLines_rowWritten {s : State} (h : NoErrors s) (lo hi : Nat) :
    Rewritten s (clearLines s lo hi) ∧ ∀ a, (clearLines s lo hi).byte a = if lo ≤ a ∧ a < hi then 0 else s.byte a := by
  obtain ⟨hFlaws, hByteFlaws, hMaps, hMerges, hBacks⟩ := h
  have hCheck : checkMaps s 0xFF none lo hi = s := by simp [checkMaps, hMaps]
  have hWords : Tbl.clearRange s.mem.flaws lo hi = s.mem.flaws := by
    rw [hFlaws]
    rfl
  have hBytes : Tbl.clearRange s.mem.byteFlaws lo hi = s.mem.byteFlaws := by
    rw [hByteFlaws]
    rfl
  unfold clearLines
  rw [hCheck, closeWhere_of_no_merges hMerges, cancelBacks_of_none hBacks]
  refine ⟨⟨Tbl.clearRange s.mem.bytes lo hi, Tbl.clearRange s.mem.valid (lo / 64) (hi / 64),
    s.mem.held.filter (fun h => !(lo ≤ h.word && h.word < hi)), ?_⟩, Tbl.get_clearRange 0 s.mem.bytes lo hi⟩
  unfold dropLines
  rw [hWords, hBytes]

theorem rowByte_zeros (da n a : Nat) (old : Byte) :
    rowByte (da, List.replicate n 0) a old = if da ≤ a ∧ a < da + n then 0 else old := by
  rw [rowByte, List.length_replicate]
  split
  next => simp
  next => rfl

theorem rowWritten_zeros {s t : State} {da n : Nat} : RowWritten s (da, List.replicate n 0) t ↔
    Rewritten s t ∧ ∀ a, t.byte a = if da ≤ a ∧ a < da + n then 0 else s.byte a := by
  simp only [RowWritten, rowByte_zeros]

/-- A clear leaves zeros in its range: lines dropped from the valid map, and the parts of lines at its ends written (R178, R206). -/
theorem memClear_rowWritten {s : State} (h : NoErrors s) (lc : Option Nat) {da n : Nat} (hFrom : isDram da = false)
    (hTo : isDram ((da + n) / 64 * 64) = false) : RowWritten s (da, List.replicate n 0) (memClear s lc da n) := by
  have hWrite {t : State} (ht : NoErrors t) {k : Nat} (hSram : isDram k = false) (m : Nat) :
      RowWritten t (k, List.replicate m 0) (memWrite t lc k (List.replicate m 0)) :=
    memWriteBad_rowWritten ht lc hSram _ (List.forall_mem_nil _)
  unfold memClear
  extract_lets lo hi s₁ s₂
  split
  next hLines =>
    have h₁ : Rewritten s s₁ ∧ ∀ a, s₁.byte a = if da ≤ a ∧ a < lo then 0 else s.byte a := by
      unfold s₁
      split
      next hLo =>
        obtain ⟨hRewritten, hByte⟩ := rowWritten_zeros.mp (hWrite h hFrom (lo - da))
        rw [Nat.add_sub_cancel' (Nat.le_of_lt hLo)] at hByte
        exact ⟨hRewritten, hByte⟩
      next hLo => exact ⟨.refl s, fun a => (if_neg (by omega)).symm⟩
    obtain ⟨hRewritten₁, hByte₁⟩ := h₁
    obtain ⟨hRewritten₂, hByte₂⟩ : Rewritten s₁ s₂ ∧ _ := clearLines_rowWritten (hRewritten₁.noErrors h) lo hi
    have hTwo := hRewritten₁.trans hRewritten₂
    rw [rowWritten_zeros]
    split
    next hHi =>
      obtain ⟨hRewritten₃, hByte₃⟩ := rowWritten_zeros.mp (hWrite (hTwo.noErrors h) hTo (da + n - hi))
      refine ⟨hTwo.trans hRewritten₃, fun a => ?_⟩
      rw [hByte₃, hByte₂, hByte₁, ← ite_or, ← ite_or]
      exact if_congr (by omega) rfl rfl
    next hHi =>
      refine ⟨hTwo, fun a => ?_⟩
      rw [hByte₂, hByte₁, ← ite_or]
      exact if_congr (by omega) rfl rfl
  next => exact hWrite h hFrom n

end Sys2Proof.Machine
end

section
/-! PROOFS. The bytes that a transfer reads and writes. -/

namespace Sys2Proof.Machine

open Sys2Proof

/-! ## Rows written one after another -/

/-- The byte that rows written in order leave at `a` where `old` stood: a later row's over an earlier one's. -/
def overlay (es : List (Nat × List Byte)) (a : Nat) (old : Byte) : Byte := es.foldl (fun b e => rowByte e a b) old

theorem rowByte_outside {e : Nat × List Byte} {a : Nat} (h : a < e.1 ∨ e.1 + e.2.length ≤ a) (old : Byte) : rowByte e a old = old :=
  if_neg (by omega)

theorem overlay_outside {es : List (Nat × List Byte)} {a : Nat} (h : ∀ e ∈ es, a < e.1 ∨ e.1 + e.2.length ≤ a) (old : Byte) :
    overlay es a old = old :=
  List.foldlRecOn (motive := fun b => b = old) es _ rfl fun b hb e he => (rowByte_outside (h e he) b).trans hb

/-- Row r stands where no later row overlaps it. -/
theorem overlay_range {f : Nat → Nat × List Byte} {n r a : Nat} (hr : r < n) (hIn : (f r).1 ≤ a ∧ a < (f r).1 + (f r).2.length)
    (hLater : ∀ q, r < q → q < n → a < (f q).1 ∨ (f q).1 + (f q).2.length ≤ a) (old : Byte) :
    overlay ((List.range n).map f) a old = (f r).2.getD (a - (f r).1) 0 := by
  induction n with
  | zero => omega
  | succ n ih =>
    have hStep : overlay ((List.range (n + 1)).map f) a old = rowByte (f n) a (overlay ((List.range n).map f) a old) := by
      rw [overlay, List.range_succ, List.map_append, List.foldl_append]
      rfl
    rw [hStep]
    rcases Nat.eq_or_lt_of_le (Nat.le_of_lt_succ hr) with rfl | hLt
    · exact if_pos hIn
    · rw [rowByte_outside (hLater n hLt (Nat.lt_succ_self n))]
      exact ih hLt fun q hq hqn => hLater q hq (Nat.lt_succ_of_lt hqn)

/-- The rows are written in order, and nothing else changes. -/
def RowsWritten (s : State) (es : List (Nat × List Byte)) (t : State) : Prop :=
  Rewritten s t ∧ ∀ a, t.byte a = overlay es a (s.byte a)

theorem RowsWritten.nil (s : State) : RowsWritten s [] s := ⟨.refl s, fun _ => rfl⟩

theorem RowsWritten.cons {s t u : State} {e : Nat × List Byte} {es : List (Nat × List Byte)} (h : RowWritten s e t)
    (h' : RowsWritten t es u) : RowsWritten s (e :: es) u := by
  obtain ⟨hRewritten, hByte⟩ := h
  obtain ⟨hRewritten', hByte'⟩ := h'
  refine ⟨hRewritten.trans hRewritten', fun a => ?_⟩
  rw [hByte', hByte]
  rfl

theorem foldl_memClear_rowsWritten {s : State} (h : NoErrors s) (lc : Option Nat) {es : List (Nat × Nat)}
    (hSram : ∀ e ∈ es, isDram e.1 = false ∧ isDram ((e.1 + e.2) / 64 * 64) = false) :
    RowsWritten s (es.map (fun e => (e.1, List.replicate e.2 0))) (es.foldl (fun s e => memClear s lc e.1 e.2) s) := by
  induction es generalizing s with
  | nil => exact .nil s
  | cons e es ih =>
    obtain ⟨hFrom, hTo⟩ := hSram e (List.mem_cons_self ..)
    have hClear := memClear_rowWritten h lc hFrom hTo
    exact .cons hClear (ih (hClear.1.noErrors h) fun x hx => hSram x (List.mem_cons_of_mem _ hx))

/-! ## Addresses in the stores -/

theorem isDram_of_store {da : Nat} (h : daSpace da ≤ 1) : isDram da = false := by
  simp only [isDram, Bool.and_eq_false_iff, decide_eq_false_iff_not]
  omega

theorem isWindow_of_space {s : State} {da : Nat} (h : daSpace da ≤ 3) : s.isWindow da = false := by
  have hSpace : daSpace da ≠ 4 := by omega
  simp [State.isWindow, hSpace]

theorem openRows_of_space {s : State} {da : Nat} (h : daSpace da ≤ 3) (n : Nat) : s.openRows da n = s := by
  have hSpace : daSpace da ≠ 4 := by omega
  simp [State.openRows, hSpace]

theorem daSpace_eq (da : Nat) : daSpace da = da / 2 ^ 52 % 16 := by
  simp [daSpace, bits]

/-- The start of a line lies in the space of the line's bytes. -/
theorem daSpace_line (da : Nat) : daSpace (da / 64 * 64) = daSpace da := by
  rw [daSpace_eq, daSpace_eq]
  omega

theorem orgWrite_of_store {s : State} (hTrn : s.trn = []) {da : Nat} (hSpace : daSpace da ≤ 1) (lc : Option Nat) (data : List Byte)
    (bad : List Bool) : orgWrite s lc da data bad = memWriteBad s lc da data bad := by
  have hNoWindow : s.windowAt da data.length = none := by simp [State.windowAt, hTrn]
  unfold orgWrite orgWriteFrom
  rw [isWindow_of_space (by omega), if_neg Bool.false_ne_true, openRows_of_space (by omega), writeThrough, hNoWindow]

/-! ## The rows of a copy -/

theorem writeRows_rowsWritten {s : State} (h : NoErrors s) (hTrn : s.trn = []) (lc n : Nat) {es : List (Nat × List Byte)}
    (hRows : ∀ e ∈ es, e.2.length = n ∧ daSpace e.1 ≤ 1) {bad : List Bool} (hBad : ∀ b ∈ bad, b = false) :
    RowsWritten s es (writeRows s lc n (es.map (fun e => (e.1, n))) (es.flatMap (·.2)) bad) := by
  induction es generalizing s bad with
  | nil => exact .nil s
  | cons e es ih =>
    obtain ⟨hLen, hSpace⟩ := hRows e (List.mem_cons_self ..)
    have hWrite := memWriteBad_rowWritten h (some lc) (isDram_of_store hSpace) e.2 (bad := bad.take n)
      fun b hb => hBad b (List.mem_of_mem_take hb)
    rw [← orgWrite_of_store hTrn hSpace] at hWrite
    have hTrn' : (orgWrite s (some lc) e.1 e.2 (bad.take n)).trn = [] := by
      obtain ⟨⟨_, _, _, hSame⟩, -⟩ := hWrite
      rw [hSame]
      exact hTrn
    rw [List.map_cons, List.flatMap_cons, writeRows, List.take_left' hLen, List.drop_left' hLen]
    exact .cons hWrite (ih (hWrite.1.noErrors h) hTrn' (fun x hx => hRows x (List.mem_cons_of_mem _ hx))
      fun b hb => hBad b (List.mem_of_mem_drop hb))

/-- Where the source still holds the bytes that were read, those are delivered. -/
theorem delivered_of_unchanged {s : State} {x : Xfer} (h : x.data = x.reads.flatMap (fun e => s.bytesAt e.1 e.2)) :
    delivered s x = x.data := by
  unfold delivered
  rw [← h]
  dsimp only
  split
  next => rfl
  next => exact List.ext_getElem (by simp) fun i _ _ => by simp

/-- Corrected transit errors mark no byte bad. -/
theorem joinMarks_of_corrected {te : List (Nat × Bool)} (hTe : ∀ e ∈ te, e.2 = true) (k n : Nat) :
    ∀ b ∈ joinMarks (List.replicate k false) (transitMarks n te), b = false := by
  have hMarks : ∀ b ∈ transitMarks n te, b = false := by
    intro b hb
    unfold transitMarks at hb
    split at hb
    next => simp at hb
    next =>
      obtain ⟨i, -, rfl⟩ := List.mem_map.mp hb
      rw [List.any_eq_false]
      intro e he
      simp [hTe e he]
  intro b hb
  unfold joinMarks at hb
  split at hb
  next => exact List.eq_of_mem_replicate hb
  next =>
    split at hb
    next => exact hMarks b hb
    next =>
      obtain ⟨i, hi, rfl⟩ := List.mem_iff_getElem.mp hb
      rw [List.getElem_zipWith, hMarks _ (List.getElem_mem _), List.getElem_replicate]
      rfl

end Sys2Proof.Machine
end

section
/-! PROOFS. The completion of a transfer between stores. -/

namespace Sys2Proof.Machine

open Sys2Proof

/-- Row r of a transfer, with the bytes that it brings to its address (R177, R178). -/
def Xfer.row (x : Xfer) (s : State) (r : Nat) : Nat × List Byte :=
  (x.dstDa r, if x.clear then List.replicate x.rowLen 0 else s.bytesAt (x.srcDa r) x.rowLen)

/-- The rows of a transfer in the order in which they are written. -/
def Xfer.newRows (x : Xfer) (s : State) : List (Nat × List Byte) := (List.range x.rows).map (x.row s)

theorem Xfer.row_length (x : Xfer) (s : State) (r : Nat) : (x.row s r).2.length = x.rowLen := by
  unfold Xfer.row
  dsimp only
  split
  next => exact List.length_replicate
  next => exact length_bytesAt ..

theorem Xfer.writes_eq (x : Xfer) (s : State) : x.writes = (x.newRows s).map (fun e => (e.1, x.rowLen)) := by
  rw [Xfer.writes, Xfer.newRows, List.map_map]
  rfl

theorem Xfer.overlay_newRows {x : Xfer} {r i : Nat} (hr : r < x.rows) (hi : i < x.rowLen)
    (hLater : ∀ q, r < q → q < x.rows → x.dstDa r + i < x.dstDa q ∨ x.dstDa q + x.rowLen ≤ x.dstDa r + i) (s : State) (old : Byte) :
    overlay (x.newRows s) (x.dstDa r + i) old = if x.clear then 0 else s.byte (x.srcDa r + i) := by
  have hLast := overlay_range (f := x.row s) (a := x.dstDa r + i) hr
    ⟨Nat.le_add_right .., by rw [x.row_length]; exact Nat.add_lt_add_left hi _⟩
    (fun q hq hqn => by rw [x.row_length]; exact hLater q hq hqn) old
  rw [Xfer.newRows, hLast]
  simp only [Xfer.row, Nat.add_sub_cancel_left]
  split
  next => simp
  next => exact getD_bytesAt s _ hi

theorem Xfer.overlay_newRows_outside {x : Xfer} {a : Nat} (h : ∀ e ∈ x.writes, a < e.1 ∨ e.1 + e.2 ≤ a) (s : State) (old : Byte) :
    overlay (x.newRows s) a old = old := by
  refine overlay_outside (fun e he => ?_) _
  obtain ⟨r, hr, rfl⟩ := List.mem_map.mp he
  rw [x.row_length]
  exact h _ (List.mem_map_of_mem hr)

/-- Memory, the counts of the routers and the free values apart, nothing differs. -/
def BytesMoved (s t : State) (es : List (Nat × List Byte)) : Prop :=
  (∃ bs v hd d tr, t = { s with mem := { s.mem with bytes := bs, valid := v, held := hd }, draws := d, tr := tr }) ∧
    ∀ a, t.byte a = overlay es a (s.byte a)

theorem RowsWritten.drawn {s t : State} {es : List (Nat × List Byte)} {n : Nat} (h : RowsWritten (s.drawn n) es t) : BytesMoved s t es := by
  obtain ⟨⟨bs, v, hd, hSame⟩, hByte⟩ := h
  exact ⟨⟨bs, v, hd, s.draws + n, s.tr, hSame⟩, hByte⟩

theorem BytesMoved.transitCe {s t : State} {es : List (Nat × List Byte)} (h : BytesMoved s t es) (e : Nat) (te : List (Nat × Bool)) :
    BytesMoved s (transitCe t e te) es := by
  obtain ⟨⟨bs, v, hd, d, tr, rfl⟩, hByte⟩ := h
  unfold Machine.transitCe
  split
  next => exact ⟨⟨bs, v, hd, d, tr, rfl⟩, hByte⟩
  next => exact ⟨⟨bs, v, hd, d, _, rfl⟩, hByte⟩

theorem transitLog_of_corrected (s : State) (place : Nat → Nat) {te : List (Nat × Bool)} (hTe : ∀ e ∈ te, e.2 = true) :
    transitLog s place te = s := by
  have hNone : te.filter (!·.2) = [] := List.filter_eq_nil_iff.mpr fun e he => by simp [hTe e he]
  rw [transitLog, hNone]
  rfl

section Complete

variable {s : State} {lc : Nat} {x : Xfer} {te : List (Nat × Bool)}

theorem moveBytes_clear (h : NoErrors s) (hClear : x.clear = true) (hSpace : ∀ e ∈ x.writes, daSpace e.1 ≤ 1)
    (hEnd : ∀ e ∈ x.writes, daSpace (e.1 + e.2) ≤ 1) : BytesMoved s (moveBytes s lc x te) (x.newRows s) := by
  have hSram : ∀ e ∈ x.writes, isDram e.1 = false ∧ isDram ((e.1 + e.2) / 64 * 64) = false := by
    intro e he
    refine ⟨isDram_of_store (hSpace e he), isDram_of_store ?_⟩
    rw [daSpace_line]
    exact hEnd e he
  have hRows : x.newRows s = x.writes.map (fun e => (e.1, List.replicate e.2 0)) := by
    rw [Xfer.newRows, Xfer.writes, List.map_map]
    exact List.map_congr_left fun r _ => by simp [Xfer.row, hClear]
  obtain ⟨⟨bs, v, hd, hSame⟩, hByte⟩ := foldl_memClear_rowsWritten h (some lc) hSram
  rw [moveBytes, if_pos hClear, hRows]
  exact ⟨⟨bs, v, hd, s.draws, s.tr, hSame⟩, hByte⟩

theorem moveBytes_copy (h : NoErrors s) (hTrn : s.trn = []) (hTe : ∀ e ∈ te, e.2 = true) (hClear : x.clear = false)
    (hSpace : ∀ e ∈ x.writes, daSpace e.1 ≤ 1) (hTaken : x.taken = true) (hData : x.data = x.reads.flatMap (fun e => s.bytesAt e.1 e.2))
    (hBad : x.bad = List.replicate x.data.length false) (hApart : overlaps x.reads x.writes = false) :
    BytesMoved s (moveBytes s lc x te) (x.newRows s) := by
  have hFlat : (x.newRows s).flatMap (·.2) = x.data := by
    rw [hData, Xfer.newRows, Xfer.reads, hClear, if_neg Bool.false_ne_true, List.flatMap_map, List.flatMap_map]
    exact List.flatMap_congr fun r _ => by simp [Xfer.row, hClear]
  have hRows : ∀ e ∈ x.newRows s, e.2.length = x.rowLen ∧ daSpace e.1 ≤ 1 := by
    intro e he
    obtain ⟨r, hr, rfl⟩ := List.mem_map.mp he
    exact ⟨x.row_length s r, hSpace _ (List.mem_map_of_mem hr)⟩
  have hWritten := writeRows_rowsWritten (s := s.drawn 1) h hTrn lc x.rowLen hRows
    (joinMarks_of_corrected hTe x.data.length x.length)
  have hKept (t : State) : spoilOverlap t x = t := by rw [spoilOverlap, hApart, if_neg Bool.false_ne_true]
  have hGood : x.bad.any id = false := by simp [hBad]
  unfold moveBytes
  rw [hClear, if_neg Bool.false_ne_true, hTaken, if_pos rfl]
  dsimp only
  rw [hKept, transitLog_of_corrected _ _ fun e he => hTe e (List.mem_of_mem_filter he), hGood, if_neg Bool.false_ne_true,
    delivered_of_unchanged hData, hBad, x.writes_eq s]
  rw [hFlat] at hWritten
  exact hWritten.drawn.transitCe _ te

end Complete

/-! ## The end of a transfer (R183) -/

theorem mover_setMover (c : Core) (m k : Nat) (x : Mover) : (c.setMover m x).mover k = if k = m then x else c.mover k := Tbl.get_set ..

/-- The core once a transfer has moved its bytes: the mover idle, its counters up (R183, R193). -/
def Core.moveEnded (c : Core) (m : Nat) (x : Xfer) : Core :=
  { c.setMover m { (c.mover m) with active := none } with
    mov := { (c.setMover m { (c.mover m) with active := none }).mov with
      done := bump c.mov.done 1, bytes := bump c.mov.bytes x.length } }

theorem mover_moveEnded (c : Core) (m : Nat) (x : Xfer) : (c.moveEnded m x).mover m = { c.mover m with active := none } := by
  have hMovers : (c.moveEnded m x).mover m = (c.setMover m { (c.mover m) with active := none }).mover m := rfl
  rw [hMovers, mover_setMover, if_pos rfl]

theorem endMove_eq (s : State) (lc : Lc) (m : Fin 4) (x : Xfer) :
    endMove s lc m x = completionInc (s.modCore lc (fun c => c.moveEnded m x)) lc x.slot.clc x.slot.cgate x.slot.cinc.toNat := rfl

/-- The completion increment changes a gate of the core, or sends an increment to another core; nothing else of what a transfer
leaves differs (R142, R183). -/
theorem completionInc_does {s t : State} {lc k g n : Nat} (ht : completionInc s lc k g n = t)
    (hFits : k = lc → (s.core lc).gate g + n ≤ 16777215) :
    (t.mem = s.mem ∧ t.jobs = s.jobs ∧ (t.core lc).mov = (s.core lc).mov ∧ (t.core lc).arr = (s.core lc).arr ∧
      (t.core lc).num = (s.core lc).num) ∧
    (k = lc → (t.core lc).gate g = (s.core lc).gate g + n ∧ t.sends = s.sends) ∧
    (k ≠ lc → 0 < n → t.sends = s.sends ++ [{ src := lc, dst := k, gate := g, n := n, sister := false, cmpl := true }]) := by
  subst ht
  by_cases hZero : n = 0
  · rw [completionInc, if_pos hZero, hZero]
    exact ⟨⟨rfl, rfl, rfl, rfl, rfl⟩, fun _ => ⟨rfl, rfl⟩, fun _ hPos => absurd hPos (Nat.lt_irrefl 0)⟩
  rw [completionInc, if_neg hZero]
  by_cases hSelf : k = lc
  · rw [if_pos hSelf, incGate_of_fits (hFits hSelf), State.core_modCore_same, gate_counted (hFits hSelf)]
    exact ⟨⟨rfl, rfl, rfl, rfl, rfl⟩, fun _ => ⟨if_pos rfl, rfl⟩, fun hOther => absurd hSelf hOther⟩
  · rw [if_neg hSelf]
    exact ⟨⟨rfl, rfl, rfl, rfl, rfl⟩, fun hSame => absurd hSame hSelf, fun _ _ => rfl⟩

/-! ## What a transfer between stores meets -/

section Stores

variable {s : State} {rs : List (Nat × Nat)}

theorem plotHeld_of_store {da : Nat} (h : daSpace da ≤ 1) : s.plotHeld da = false := by
  have h₂ : daSpace da ≠ 2 := by omega
  have h₃ : daSpace da ≠ 3 := by omega
  simp [State.plotHeld, State.plotSite, h₂, h₃]

theorem mayWrite_of_store {da : Nat} (h : daSpace da ≤ 1) (n : Nat) : s.mayWrite da n = true := by
  unfold State.mayWrite
  split
  next h₂ => omega
  next h₃ => omega
  next h₄ => omega
  next => rfl

theorem meshOk_of_calm (hCalm : Calm s) (lc : Nat) (hSpace : ∀ e ∈ rs, daSpace e.1 ≤ 1) : s.meshOk lc rs = true := by
  have hStuck (i k : Nat) : s.severed i k = false ∧ s.routeHeld i k = false := by
    simpa [State.stuck] using stuck_of_calm hCalm i k
  have hLinked : s.orgLinked rs = true := by
    rw [State.orgLinked, List.all_eq_true]
    intro e he
    have := hSpace e he
    have hNot : daSpace e.1 ≠ 4 := by omega
    simp [hNot]
  rw [State.meshOk, hLinked, Bool.true_and, List.all_eq_true]
  intro e he
  have hNot : daSpace e.1 ≠ 4 := by
    have := hSpace e he
    omega
  have hReach (i : Nat) : (s.unreachable i e.1 || s.reachHeld i e.1) = false := by
    cases hEnd : s.endpoint e.1 <;> simp [State.unreachable, State.reachHeld, hNot, hStuck, hEnd]
  simp [hReach]

end Stores

theorem exec_moveComplete_of_store {s : State} {lc : Lc} {m : Fin 4} {te : List (Nat × Bool)} {x : Xfer}
    (hActive : ((s.core lc).mover m).active = some x) (hPosted : x.posted = false) (hCalm : Calm s)
    (hServe : xferAccess s x = .serve) (hFree : x.storeHeld s lc = false) (hSpace : ∀ e ∈ x.reads ++ x.writes, daSpace e.1 ≤ 1) :
    exec (.moveComplete lc ⟨m, te⟩) s = .next (endMove (moveBytes s lc x te) lc m x) := by
  have hWrites : ∀ e ∈ x.writes, daSpace e.1 ≤ 1 := fun e he => hSpace e (List.mem_append_right _ he)
  have hExec : exec (.moveComplete lc ⟨m, te⟩) s = execMoveComplete lc ⟨m, te⟩ s := rfl
  have hPlots : (x.reads ++ x.writes).any (fun e => s.plotHeld e.1) = false :=
    List.any_eq_false.mpr fun e he => by simp [plotHeld_of_store (hSpace e he)]
  have hCool : xferCool s x = true := List.all_eq_true.mpr fun e he => mayWrite_of_store (hWrites e he) _
  have hIn (t : State) : t.recordsIn x = true := List.all_eq_true.mpr fun e he => by
    rw [isWindow_of_space (Nat.le_trans (hWrites e he) (by decide))]
    rfl
  rw [hExec]
  unfold execMoveComplete
  simp only [hActive, hPosted, hPlots, hServe, hFree, hCool, meshOk_of_calm hCalm lc hSpace, moved, hIn, if_true, Bool.false_eq_true, if_false,
    Bool.and_self]

theorem movesComplete : MovesComplete := by
  intro s lc m te x hTe hActive hPosted hErrors hTrn hCalm hServe hFree hSpace hEnd hCopy hFits
  have hWrites : ∀ e ∈ x.writes, daSpace e.1 ≤ 1 := fun e he => hSpace e (List.mem_append_right _ he)
  have hMoved : BytesMoved s (moveBytes s lc x te) (x.newRows s) := by
    cases hClear : x.clear with
    | true => exact moveBytes_clear hErrors hClear hWrites hEnd
    | false =>
      obtain ⟨hTaken, hData, hBad, hApart⟩ := hCopy hClear
      exact moveBytes_copy hErrors hTrn hTe hClear hWrites hTaken hData hBad hApart
  obtain ⟨⟨bs, v, hd, d, tr, hSame⟩, hByte⟩ := hMoved
  have hCore : (moveBytes s lc x te).core lc = s.core lc := by
    rw [hSame]
    rfl
  have hJobs : (moveBytes s lc x te).jobs = s.jobs := by rw [hSame]
  have hSends : (moveBytes s lc x te).sends = s.sends := by rw [hSame]
  refine ⟨_, exec_moveComplete_of_store hActive hPosted hCalm hServe hFree hSpace, ?_⟩
  generalize moveBytes s lc x te = u at hByte hCore hJobs hSends ⊢
  have hCoreNow : (u.modCore lc (fun c => c.moveEnded m x)).core lc = (s.core lc).moveEnded m x := by
    rw [State.core_modCore_same, hCore]
  obtain ⟨⟨hMem, hJobsEnd, hMov, hArr, hNum⟩, hSelf, hOther⟩ :=
    completionInc_does (endMove_eq u lc m x).symm (by rw [hCoreNow]; exact hFits)
  rw [hCoreNow] at hMov hArr hNum hSelf
  have hByteEnd (a : Nat) : (endMove u lc m x).byte a = overlay (x.newRows s) a (s.byte a) := by
    rw [← hByte a, State.byte, hMem]
    rfl
  have hMover : ((endMove u lc m x).core lc).mover m = { (s.core lc).mover m with active := none } := by
    rw [Core.mover, hMov]
    exact mover_moveEnded ..
  refine ⟨fun a ha => (hByteEnd a).trans (Xfer.overlay_newRows_outside ha s _),
    fun r i hr hi hLater => (hByteEnd _).trans (Xfer.overlay_newRows hr hi hLater s _),
    by rw [hMover], by rw [hMover], by rw [hMov]; rfl, by rw [hMov]; rfl, fun h => ?_, fun h hPos => ?_, hArr, hNum, hJobsEnd.trans hJobs⟩
  · obtain ⟨hGate, hSent⟩ := hSelf h
    exact ⟨hGate, hSent.trans hSends⟩
  · exact ⟨_, (hOther h hPos).trans (by rw [State.modCore_sends, hSends]), rfl, rfl, rfl, rfl, rfl⟩

end Sys2Proof.Machine
end

section
/-! PROOFS. The queueing and the start of a transfer, and the obligation on movers. -/

namespace Sys2Proof.Machine

open Sys2Proof

/-! ## Queueing (R181) -/

/-- The transfer that a MOVE of the core queues, with the descriptor that stands in its Canopy store. -/
def queuedXfer (s : State) (lc : Nat) (clear : Bool) (a : MSlot) : Xfer :=
  { clear := clear, slot := a, iter := (s.core lc).loopTerm a.lsel, desc := s.bytesAt (mkDa 1 lc (a.desc.toNat * 64)) 64
    seq := (s.core lc).mov.seq, bundle := (s.core lc).seq.next, taken := false, data := [], bad := [], bankSince := none, posted := false }

/-- The core with a transfer at the end of a mover's queue (R181). -/
def Core.queued (c : Core) (m : Nat) (x : Xfer) : Core :=
  { c.setMover m { (c.mover m) with queue := (c.mover m).queue ++ [x] } with
    mov := { (c.setMover m { (c.mover m) with queue := (c.mover m).queue ++ [x] }).mov with seq := c.mov.seq + 1 } }

theorem mover_queued (c : Core) (m k : Nat) (x : Xfer) :
    (c.queued m x).mover k = if k = m then { (c.mover m) with queue := (c.mover m).queue ++ [x] } else c.mover k := Tbl.get_set ..

theorem captureDesc_of_no_writer {s : State} {bs : List Byte} {da : Nat}
    (h : ∀ e ∈ s.cores, ∀ x ∈ e.2.transfers, overlaps x.writes [(da, bs.length)] = false) : captureDesc s bs da = bs := by
  have hNone : s.cores.flatMap (fun c => c.2.transfers.filter (fun x => overlaps x.writes [(da, bs.length)])) = [] :=
    List.flatMap_eq_nil_iff.mpr fun e he => List.filter_eq_nil_iff.mpr fun x hx => by simp [h e he x hx]
  unfold captureDesc
  rw [hNone]
  simp [List.zipIdx_map_fst]

theorem queueMove_of_noErrors {s : State} (h : NoErrors s) (lc : Nat) (clear : Bool) (a : MSlot)
    (hNone : ∀ e ∈ s.cores, ∀ x ∈ e.2.transfers, overlaps x.writes [(mkDa 1 lc (a.desc.toNat * 64), 64)] = false) :
    queueMove s lc clear a = (s.drawn 1).modCore lc (fun c => c.queued a.mover (queuedXfer s lc clear a)) := by
  have hCapture := captureDesc_of_no_writer (s := s) (bs := s.bytesAt (mkDa 1 lc (a.desc.toNat * 64)) 64)
    (da := mkDa 1 lc (a.desc.toNat * 64)) (by rw [length_bytesAt]; exact hNone)
  unfold queueMove
  simp only [memFetch_of_noErrors h, hCapture, List.any_replicate]
  rfl

theorem exec_move {lc : Lc} {a : MSlot} {clear : Bool} {i : Instr} (h : (i = .mcopy lc a ∧ clear = false) ∨ (i = .mclear lc a ∧ clear = true))
    (s : State) : exec i s = slotIssue i lc s (16 ≤ ((s.core lc).mover a.mover).credits) Core.countQwait (queueMove s lc clear a) := by
  rcases h with ⟨rfl, rfl⟩ | ⟨rfl, rfl⟩
  · rfl
  · rfl

theorem movesQueue : MovesQueue := by
  intro s lc a clear i hi hFree
  refine ⟨fun hRoom hErrors hNone => ?_, fun hFull => ?_⟩
  · have hExec : exec i s = .next ((s.drawn 1).modCore lc (fun c => c.queued a.mover (queuedXfer s lc clear a))) := by
      rw [exec_move hi, decide_eq_false (Nat.not_le.mpr hRoom), slotIssue_of_slotFree hFree,
        queueMove_of_noErrors hErrors lc clear a hNone]
    have hCore : ((s.drawn 1).modCore lc (fun c => c.queued a.mover (queuedXfer s lc clear a))).core lc =
        (s.core lc).queued a.mover (queuedXfer s lc clear a) := State.core_modCore_same ..
    refine ⟨_, _, hExec, onlyCore_modCore (s.drawn 1) lc _, ?_, rfl, fun m hm => ?_, ?_⟩
    · rw [hCore, mover_queued, if_pos rfl]
      rfl
    · rw [hCore, mover_queued, if_neg hm]
    · rw [hCore]
      rfl
  · obtain ⟨hDead, hBlocked, -⟩ := hFree
    have hExec : exec i s = .next ((s.modCore lc Core.countQwait).hold i) := by
      rw [exec_move hi, decide_eq_true hFull, slotIssue_wait hDead hBlocked]
    refine ⟨_, hExec, rfl, ?_⟩
    rw [State.core_hold, State.core_modCore_same]
    rfl

/-! ## The start of a transfer (R181, R186) -/

theorem readSource_of_noErrors {s : State} (h : NoErrors s) (lc : Nat) {rs : List (Nat × Nat)} (hSpace : ∀ e ∈ rs, daSpace e.1 ≤ 3) :
    readSource s lc rs =
      { bytes := rs.flatMap (fun e => s.bytesAt e.1 e.2), bad := List.replicate (rs.map (·.2)).sum false, st := s } := by
  have hRead (f : Fetched) (hf : f.st = s) : ∀ e ∈ rs, orgRead f.st 0 (some lc) e.1 e.2 =
      { bytes := s.bytesAt e.1 e.2, bad := List.replicate e.2 false, st := s } := by
    intro e he
    rw [hf, orgRead, isWindow_of_space (hSpace e he), if_neg Bool.false_ne_true, openRows_of_space (hSpace e he), memFetch_of_noErrors h]
  have hFold : ∀ (ps : List (Nat × Nat)) (f : Fetched), f.st = s → (∀ e ∈ ps, e ∈ rs) →
      ps.foldl (fun f e =>
        let g := orgRead f.st 0 (some lc) e.1 e.2
        { bytes := f.bytes ++ g.bytes, bad := f.bad ++ g.bad, st := g.st }) f =
      { bytes := f.bytes ++ ps.flatMap (fun e => s.bytesAt e.1 e.2)
        bad := f.bad ++ List.replicate (ps.map (·.2)).sum false, st := s } := by
    intro ps
    induction ps with
    | nil =>
      rintro f rfl -
      simp
    | cons e ps ih =>
      intro f hf hps
      rw [List.foldl_cons, hRead f hf e (hps e (List.mem_cons_self ..)), ih _ rfl fun x hx => hps x (List.mem_cons_of_mem _ hx)]
      simp [List.replicate_append_replicate]
  exact hFold rs _ rfl fun _ he => he

/-- What a transfer may yet write holds old and new bytes mixed; every other byte stays (R189, log 99). -/
theorem mixRanges_does (s : State) (es : List (Nat × Nat)) (data : List Byte) : ∃ bs,
    mixRanges s es data = { s with mem := { s.mem with bytes := bs } } ∧
      ∀ a, (∀ e ∈ es, a < e.1 ∨ e.1 + e.2 ≤ a) → Tbl.get 0 bs a = s.byte a := by
  induction es generalizing s data with
  | nil => exact ⟨s.mem.bytes, rfl, fun _ _ => rfl⟩
  | cons e es ih =>
    rw [mixRanges]
    split
    next =>
      obtain ⟨bs, hSame, hByte⟩ := ih s (data.drop e.2)
      exact ⟨bs, hSame, fun a ha => hByte a fun x hx => ha x (List.mem_cons_of_mem _ hx)⟩
    next =>
      extract_lets mixed
      obtain ⟨bs, hSame, hByte⟩ := ih { s with mem := { s.mem with bytes := Tbl.setMany 0 s.mem.bytes e.1 mixed } } (data.drop e.2)
      refine ⟨bs, hSame, fun a ha => (hByte a fun x hx => ha x (List.mem_cons_of_mem _ hx)).trans ?_⟩
      have hLen : mixed.length ≤ e.2 := by
        simp only [mixed, mixBytes, List.length_map, List.length_zipIdx, List.length_zip, length_bytesAt]
        exact Nat.min_le_left ..
      have hOut := ha e (List.mem_cons_self ..)
      refine (Tbl.get_setMany 0 mixed s.mem.bytes e.1 a).trans (dif_neg ?_)
      omega

theorem orgAccessRange_ne_bank {s : State} {da : Nat} (h : daSpace da ≤ 3) (n : Nat) : orgAccessRange s da n ≠ .bank := by
  have hSpace : daSpace da ≠ 4 := by omega
  unfold orgAccessRange
  split
  next =>
    split
    next => simp
    next => simp
  next => split <;> simp [hSpace]

theorem bankHeld_of_space {s : State} {x : Xfer} (h : ∀ e ∈ x.reads ++ x.writes, daSpace e.1 ≤ 3) : s.bankHeld x = false := by
  refine List.any_eq_false.mpr fun e he => ?_
  have hBank := orgAccessRange_ne_bank (s := s) (h e he) e.2
  split
  next hEq => exact absurd hEq hBank
  next => exact Bool.false_ne_true

/-- The transfer in progress, with its source bytes as they stand (R189). -/
def Xfer.started (x : Xfer) (s : State) : Xfer :=
  { x with taken := true, data := x.reads.flatMap (fun e => s.bytesAt e.1 e.2), bad := List.replicate (x.reads.map (·.2)).sum false }

theorem noteHold_of_space {s : State} {lc m : Nat} {x : Xfer} (hActive : ((s.core lc).mover m).active = some x)
    (hSpace : ∀ e ∈ x.reads ++ x.writes, daSpace e.1 ≤ 3) (hSince : x.bankSince = none) : noteHold s lc m = s := by
  unfold noteHold
  rw [hActive]
  dsimp only
  rw [bankHeld_of_space hSpace, if_neg Bool.false_ne_true, if_pos hSince.symm]

/-- A transfer that is served begins: its source is read as it stands, and only its destination may change (R189, log 99). -/
theorem beginMove_of_served {s : State} (h : NoErrors s) {lc m : Nat} {x : Xfer} (hServe : xferAccess s x = .serve)
    (hSpace : ∀ e ∈ x.reads, daSpace e.1 ≤ 3) (hFree : x.storeHeld s lc = false) :
    OnlyCore { s with mem := (beginMove s lc m x).mem } (beginMove s lc m x) lc ∧
      (∀ k, ((beginMove s lc m x).core lc).mover k =
        if k = m then { (s.core lc).mover m with active := some (x.started s) } else (s.core lc).mover k) ∧
      (beginMove s lc m x).mem = { s.mem with bytes := (beginMove s lc m x).mem.bytes } ∧ BytesKept s (beginMove s lc m x) x.writes := by
  have hRead := readSource_of_noErrors h lc hSpace
  obtain ⟨bs, hMix, hByte⟩ := mixRanges_does s x.writes
    (if x.clear then List.replicate (x.writes.map (·.2)).sum 0 else x.reads.flatMap (fun e => s.bytesAt e.1 e.2))
  have hBegin : beginMove s lc m x = { s with mem := { s.mem with bytes := bs }, draws := s.draws + 1 }.modCore lc
      (fun c => c.setMover m { (c.mover m) with active := some (x.started s) }) := by
    unfold beginMove
    rw [hServe, hFree]
    dsimp only
    rw [if_neg Bool.false_ne_true, hRead]
    dsimp only
    rw [hMix]
    rfl
  rw [hBegin]
  refine ⟨onlyCore_modCore { s with mem := { s.mem with bytes := bs }, draws := s.draws + 1 } lc _, fun k => ?_, rfl, hByte⟩
  rw [State.core_modCore_same, mover_setMover]
  rfl

/-- A transfer that fails its checks in a running job stops its core, with the check recorded (R186, R153). -/
theorem moveFails_of_running {s : State} {lc m : Nat} {x : Xfer} {f : MoveFail} {j : Job} (hFault : (s.core lc).mov.fault = 0)
    (hJob : s.jobOf lc = some j) (hPhase : j.phase = .running) :
    (moveFails s lc m x f).core lc = Core.stop { s.core lc with mov := { (s.core lc).mov with
        fault := f.word m, faultOfs := BitVec.ofNat 40 f.ofs } } (contractFault 3 true 9 x.bundle) 0 ∧
      (moveFails s lc m x f).mem = s.mem := by
  unfold moveFails
  rw [if_neg (not_not_intro hFault), core_faultCore_of_running (s := s.modCore lc _) hJob hPhase, State.core_modCore_same, faultCore_mem]
  exact ⟨rfl, rfl⟩

section Start

variable {s : State} {lc : Lc} {m : Fin 4} {x : Xfer} {rest : List Xfer}

/-- The part with the oldest transfer of the mover taken off its queue. -/
def unqueued (s : State) (lc : Lc) (m : Fin 4) (rest : List Xfer) : State :=
  s.modCore lc (fun c => c.setMover m { ((s.core lc).mover m) with queue := rest })

theorem exec_moveStart_of_passed (hQueue : ((s.core lc).mover m).queue = x :: rest) (hMay : mayStartMove (s.core lc) lc x m = true)
    (hCheck : moveCheck (unqueued s lc m rest) lc x = none) :
    exec (.moveStart lc m) s = .next (noteHold (beginMove (unqueued s lc m rest) lc m x) lc m) := by
  change execMoveStart lc m s = _
  unfold unqueued at hCheck
  unfold execMoveStart
  dsimp only
  rw [hQueue]
  dsimp only
  rw [if_pos hMay, hCheck]
  rfl

theorem exec_moveStart_of_failed {f : MoveFail} (hQueue : ((s.core lc).mover m).queue = x :: rest)
    (hMay : mayStartMove (s.core lc) lc x m = true) (hCheck : moveCheck (unqueued s lc m rest) lc x = some f) :
    exec (.moveStart lc m) s = .next (moveFails (unqueued s lc m rest) lc m x f) := by
  change execMoveStart lc m s = _
  unfold unqueued at hCheck
  unfold execMoveStart
  dsimp only
  rw [hQueue]
  dsimp only
  rw [if_pos hMay, hCheck]
  rfl

theorem exec_moveStart_of_held (hQueue : ((s.core lc).mover m).queue = x :: rest) (hMay : mayStartMove (s.core lc) lc x m = false) :
    exec (.moveStart lc m) s = .next s := by
  change execMoveStart lc m s = _
  unfold execMoveStart
  dsimp only
  rw [hQueue]
  dsimp only
  rw [hMay, if_neg Bool.false_ne_true]

theorem moverCycle_of_held (hActive : ((s.core lc).mover m).active = none) (hQueue : ((s.core lc).mover m).queue = x :: rest)
    (hMay : mayStartMove (s.core lc) lc x m = false) : moverCycle s lc m =
      s.modCore lc (fun c => { c with mov := { c.mov with swait := bump c.mov.swait 1 } }) := by
  unfold moverCycle
  dsimp only
  rw [hActive, hQueue]
  dsimp only
  rw [hMay, if_neg Bool.false_ne_true]

theorem mover_unqueued (k : Nat) : ((unqueued s lc m rest).core lc).mover k =
    if k = m then { (s.core lc).mover m with queue := rest } else (s.core lc).mover k := by
  rw [unqueued, State.core_modCore_same, mover_setMover]

end Start

theorem movesStart : MovesStart := by
  intro s lc m x rest hQueue
  refine ⟨fun hMay hCheck hErrors hSince hServe hSpace hFree => ?_, fun f j hMay hCheck hFault hJob hPhase => ?_, fun hMay => ?_⟩
  · have hReads : ∀ e ∈ x.reads, daSpace e.1 ≤ 3 := fun e he => hSpace e (List.mem_append_left _ he)
    obtain ⟨hOnly, hMover, hMem, hByte⟩ := beginMove_of_served (s := unqueued s lc m rest) (m := m) hErrors hServe hReads hFree
    have hExec := exec_moveStart_of_passed hQueue hMay hCheck
    have hOwn := (hMover m).trans (if_pos rfl)
    rw [noteHold_of_space (congrArg Mover.active hOwn) hSpace hSince] at hExec
    have hTaken := onlyCore_modCore { s with mem := (beginMove (unqueued s lc m rest) lc m x).mem } lc
      (fun c => c.setMover m { ((s.core lc).mover m) with queue := rest })
    refine ⟨_, hExec, hTaken.trans hOnly, ?_, fun k hk => ?_, hByte, hMem⟩
    · rw [hOwn, mover_unqueued, if_pos rfl]
      rfl
    · rw [hMover, if_neg hk, mover_unqueued, if_neg hk]
  · have hFaultNow : ((unqueued s lc m rest).core lc).mov.fault = 0 := by
      rw [unqueued, State.core_modCore_same]
      exact hFault
    obtain ⟨hCore, hMem⟩ := moveFails_of_running (m := m) (x := x) (f := f) hFaultNow hJob hPhase
    refine ⟨_, exec_moveStart_of_failed hQueue hMay hCheck, ?_⟩
    rw [hMem, hCore]
    refine ⟨rfl, rfl, ?_, rfl, rfl, rfl⟩
    exact (mover_unqueued (rest := rest) m).trans (if_pos rfl)
  · refine ⟨exec_moveStart_of_held hQueue hMay, fun hActive => ?_⟩
    rw [moverCycle_of_held hActive hQueue hMay]
    exact ⟨onlyCore_modCore s lc _, State.core_modCore_same ..⟩

theorem transferRows : TransferRows := fun x _ =>
  ⟨rfl, rfl, rfl, rfl, by rw [Xfer.writes, List.length_map, List.length_range], fun e he => by
    obtain ⟨r, -, rfl⟩ := List.mem_map.mp he
    rfl⟩

/-- Settles O15: a transfer's rows are the model's own; queueing, starting and completing it change what they name. -/
theorem moverTransfers : Obligations.MoverTransfers := ⟨movesQueue, movesStart, movesComplete, transferRows⟩

end Sys2Proof.Machine
end

section
/-! PROOFS. Segments of tables, and pages that move between the Orangery and the host. -/

namespace Sys2Proof.Machine

open Sys2Proof

/-! ## Segments of a table -/

theorem Tbl.get_append_of_not_listed {α : Type} (d : α) {t : Tbl α} {k : Nat} (h : ∀ e ∈ t, e.1 ≠ k) (u : Tbl α) :
    Tbl.get d (t ++ u) k = Tbl.get d u k := by
  induction t with
  | nil => rfl
  | cons e t ih =>
    rw [List.cons_append, Tbl.get, if_neg (h e (List.mem_cons_self ..)), ih fun x hx => h x (List.mem_cons_of_mem _ hx)]

theorem Tbl.get_append_of_not_listed_right {α : Type} (d : α) (t : Tbl α) {u : Tbl α} {k : Nat} (h : ∀ e ∈ u, e.1 ≠ k) :
    Tbl.get d (t ++ u) k = Tbl.get d t k := by
  induction t with
  | nil =>
    rw [List.nil_append, ← List.append_nil u, Tbl.get_append_of_not_listed d h]
  | cons e t ih =>
    rw [List.cons_append, Tbl.get, Tbl.get, ih]

theorem Tbl.get_filter_of_kept {α : Type} (d : α) {p : Nat → Bool} {k : Nat} (hk : p k = true) (t : Tbl α) :
    Tbl.get d (t.filter (fun e => p e.1)) k = Tbl.get d t k := by
  induction t with
  | nil => rfl
  | cons e t ih =>
    rw [List.filter_cons]
    by_cases hSame : e.1 = k
    · rw [if_pos (by rw [hSame, hk]), Tbl.get, Tbl.get, if_pos hSame, if_pos hSame]
    · rw [Tbl.get, if_neg hSame]
      split
      next => rw [Tbl.get, if_neg hSame, ih]
      next => exact ih

/-- A splice replaces the entries of its range by those of the segment. -/
theorem Tbl.get_splice {α : Type} (d : α) (t : Tbl α) {lo hi : Nat} {seg : Tbl α} (h : ∀ e ∈ seg, lo ≤ e.1 ∧ e.1 < hi) (k : Nat) (hle : lo ≤ hi) :
    Tbl.get d (Tbl.splice t lo hi seg) k = if lo ≤ k ∧ k < hi then Tbl.get d seg k else Tbl.get d t k := by
  have hLow (e : Nat × α) (he : e ∈ t.filter (fun e => e.1 < lo)) : e.1 < lo := of_decide_eq_true (List.mem_filter.mp he).2
  have hHigh (e : Nat × α) (he : e ∈ t.filter (fun e => hi ≤ e.1)) : hi ≤ e.1 := of_decide_eq_true (List.mem_filter.mp he).2
  unfold Tbl.splice
  split
  next hIn =>
    rw [Tbl.get_append_of_not_listed_right d _ (fun e he => by have := hHigh e he; omega),
      Tbl.get_append_of_not_listed d (fun e he => by have := hLow e he; omega)]
  next hOut =>
    rcases Nat.lt_or_ge k lo with hBelow | hAbove
    · rw [Tbl.get_append_of_not_listed_right d _ (fun e he => by have := hHigh e he; omega),
        Tbl.get_append_of_not_listed_right d _ (fun e he => by have := h e he; omega)]
      exact Tbl.get_filter_of_kept d (p := fun x => x < lo) (by simpa using hBelow) t
    · rw [Tbl.get_append_of_not_listed d (fun e he => by
        rcases List.mem_append.mp he with he | he
        · have := hLow e he
          omega
        · have := h e he
          omega)]
      exact Tbl.get_filter_of_kept d (p := fun x => hi ≤ x) (by simp; omega) t

/-- A slice moved to another base lists at each offset what the table lists there. -/
theorem Tbl.get_slice_moved {α : Type} (d : α) (t : Tbl α) {lo n o : Nat} (ho : o < n) (base : Nat) :
    Tbl.get d ((Tbl.slice t lo (lo + n)).map (fun e => (e.1 - lo + base, e.2))) (base + o) = Tbl.get d t (lo + o) := by
  induction t with
  | nil => rfl
  | cons e t ih =>
    rw [Tbl.slice, List.filter_cons]
    split
    next hIn =>
      obtain ⟨hLo, hHi⟩ : lo ≤ e.1 ∧ e.1 < lo + n := by simpa using hIn
      rw [List.map_cons, Tbl.get, Tbl.get]
      exact if_congr (by omega) rfl ih
    next hOut =>
      have hNot : e.1 ≠ lo + o := by
        rintro hSame
        simp [hSame, ho] at hOut
      rw [Tbl.get, if_neg hNot]
      exact ih

/-! ## One region of a stack -/

theorem State.region_modRegion (s : State) (k r q : Nat) (f : Region → Region) :
    (s.modRegion k r f).region k q = if q = r then f (s.region k r) else s.region k q := by
  rw [State.modRegion, State.region, State.stack_modStack, if_pos rfl, Stack.region, Tbl.get_modify]
  rfl

theorem onlyRegion_modRegion (s : State) (k r : Nat) (f : Region → Region) : OnlyRegion s (s.modRegion k r f) k r := by
  refine ⟨fun m hm => State.stack_modStack_other s _ hm, ?_, fun q hq => ?_⟩
  · rw [State.modRegion, State.stack_modStack_same]
  · rw [State.region_modRegion, if_neg hq]

theorem OnlyRegion.trans {s t u : State} {k r : Nat} (h : OnlyRegion s t k r) (h' : OnlyRegion t u k r) : OnlyRegion s u k r := by
  obtain ⟨hOther, hStack, hRegion⟩ := h
  obtain ⟨hOther', hStack', hRegion'⟩ := h'
  refine ⟨fun m hm => (hOther' m hm).trans (hOther m hm), ?_, fun q hq => (hRegion' q hq).trans (hRegion q hq)⟩
  rw [hStack', hStack]

theorem foldl_openRow_eq {ι : Type} (b row : ι → Nat) (l : List ι) (t : Stack) :
    ∃ rows, l.foldl (fun t i => t.openRow (b i) (row i)) t = { t with rows := rows } := by
  induction l generalizing t with
  | nil => exact ⟨t.rows, rfl⟩
  | cons i l ih =>
    obtain ⟨rows, hRows⟩ := ih (t.openRow (b i) (row i))
    exact ⟨rows, by rw [List.foldl_cons, hRows]; rfl⟩

theorem onlyRegion_of_rows {s : State} {k : Nat} {f : Stack → Stack} (h : ∃ rows, f (s.stack k) = { s.stack k with rows := rows }) (r : Nat) :
    OnlyRegion s (s.modStack k f) k r ∧ (s.modStack k f).region k r = s.region k r := by
  obtain ⟨rows, hRows⟩ := h
  rw [← State.stack_modStack_same s k f] at hRows
  have hRegion (q : Nat) : (s.modStack k f).region k q = s.region k q := by
    rw [State.region, hRows]
    rfl
  refine ⟨⟨fun m hm => State.stack_modStack_other s f hm, ?_, fun q _ => hRegion q⟩, hRegion r⟩
  rw [hRows]

/-- Opening rows for an access to a stack changes its open rows alone. -/
theorem openRows_does (s : State) (da n r : Nat) : ∃ orgs, s.openRows da n = { s with orgs := orgs } ∧
    OnlyRegion s (s.openRows da n) (daUnit da) r ∧ (s.openRows da n).region (daUnit da) r = s.region (daUnit da) r := by
  unfold State.openRows
  split
  next => exact ⟨s.orgs, rfl, ⟨fun _ _ => rfl, rfl, fun _ _ => rfl⟩, rfl⟩
  next => exact ⟨_, rfl, onlyRegion_of_rows (foldl_openRow_eq _ _ _ _) r⟩

/-! ## Addresses of a region -/

theorem regionDa_add (k r o : Nat) : regionDa k r o = regionDa k r 0 + o := by
  simp only [regionDa, mkDa]
  omega

theorem daUnit_regionDa (k : Fin 6) (r : Fin 16384) : daUnit (regionDa k r 0) = k := by
  have hk := k.isLt
  have hr := r.isLt
  simp only [daUnit, regionDa, mkDa, bits]
  omega

/-! ## A page-out (R169) -/

/-- The bytes of a region, by their offset in it. -/
def regionBytes (s : State) (k r : Nat) : Tbl Byte :=
  (Tbl.slice s.mem.bytes (regionDa k r 0) (regionDa k r 0 + 2 ^ 26)).map (fun e => (e.1 - regionDa k r 0, e.2))

/-- The part once the bytes of a region stand in its host buffer and its frame is dropped. -/
def pagedOut (s : State) (k r : Nat) : State :=
  dropRegion { s.openRows (regionDa k r 0) (2 ^ 26) with
    hostMem := Tbl.splice s.hostMem (s.region k r).buf ((s.region k r).buf + 2 ^ 26)
      ((regionBytes s k r).map (fun e => (e.1 + (s.region k r).buf, e.2))) } k r

theorem frameFreed_of_none_waiting {s : State} {k : Nat} (h : (s.stack k).waitIn = []) : frameFreed s k = s := by
  rw [frameFreed, h]

theorem exec_pageOutComplete {s : State} {k : Fin 6} {r : Fin 16384} (hCmd : (s.region k r).cmd = []) (hBme : s.hif.bme = true)
    (hErrors : NoErrors s) (hHost : s.hostFails (s.region k r).buf (2 ^ 26) = false) (hSt : (s.region k r).st = .pageOut)
    (hReach : s.moverReaches k r = false) : exec (.pageOutComplete k r) s =
      .next ((frameFreed ((pagedOut s k r).modRegion k r (fun x => { x with
        st := .spilled, crc := some (BitVec.ofNat 64 (crc64Sparse (2 ^ 26) (regionBytes s k r))), poison := false })) k).modRegion k r
          (fun x => { x with cmd := [] })) := by
  obtain ⟨hFlaws, -, hMaps, hMerges, -⟩ := hErrors
  have hCheck : checkMaps s 7 none (regionDa k r 0) (regionDa k r 0 + 2 ^ 26) = s := by simp [checkMaps, hMaps]
  obtain ⟨orgs, hOpen, -⟩ := openRows_does s (regionDa k r 0) (2 ^ 26) r
  change execPageOutComplete k r s = _
  unfold execPageOutComplete
  dsimp only
  rw [hSt, hReach, hBme, hCheck, closeRegion, closeWhere_of_no_merges hMerges, hHost, hOpen]
  have hWords : Tbl.slice s.mem.flaws (regionDa k r 0) (regionDa k r 0 + 2 ^ 26) = [] := by
    rw [hFlaws]
    rfl
  have hBad (t : State) (ht : t.mem.flaws = s.mem.flaws) : badWords t k r = [] := by
    rw [badWords, ht, hWords]
    rfl
  unfold pagedOut regionBytes
  rw [hOpen, hCmd]
  simp only [hWords, List.map_nil, List.foldl_nil, hBad, List.contains_nil, Bool.not_false, List.filter_true, completeAll]
  rfl

theorem dropRegion_of_noErrors {s : State} (h : NoErrors s) (k r : Nat) : ∃ m, dropRegion s k r = { s with mem := m } ∧
    m.bytes = Tbl.clearRange s.mem.bytes (regionDa k r 0) (regionDa k r 0 + 2 ^ 26) := by
  obtain ⟨-, -, -, -, hBacks⟩ := h
  unfold dropRegion
  dsimp only
  rw [cancelBacks_of_none hBacks]
  exact ⟨_, rfl, rfl⟩

theorem pagedOut_does {s : State} (h : NoErrors s) (k : Fin 6) (r : Fin 16384) :
    OnlyRegion s (pagedOut s k r) k r ∧ (pagedOut s k r).region k r = s.region k r ∧
    pagedOut s k r = { s with orgs := (pagedOut s k r).orgs, mem := (pagedOut s k r).mem, hostMem := (pagedOut s k r).hostMem } ∧
    (pagedOut s k r).mem.bytes = Tbl.clearRange s.mem.bytes (regionDa k r 0) (regionDa k r 0 + 2 ^ 26) ∧
    (pagedOut s k r).hostMem = Tbl.splice s.hostMem (s.region k r).buf ((s.region k r).buf + 2 ^ 26)
      ((regionBytes s k r).map (fun e => (e.1 + (s.region k r).buf, e.2))) := by
  obtain ⟨orgs, hOpen, hOnly, hRegion⟩ := openRows_does s (regionDa k r 0) (2 ^ 26) r
  rw [daUnit_regionDa] at hOnly hRegion
  unfold pagedOut
  rw [hOpen] at hOnly hRegion ⊢
  generalize Tbl.splice s.hostMem (s.region k r).buf ((s.region k r).buf + 2 ^ 26)
    ((regionBytes s k r).map (fun e => (e.1 + (s.region k r).buf, e.2))) = host
  obtain ⟨m, hDrop, hBytes⟩ := dropRegion_of_noErrors (s := { s with orgs := orgs, hostMem := host }) h k r
  rw [hDrop]
  exact ⟨hOnly, hRegion, rfl, hBytes, rfl⟩

theorem OnlyRegion.waitIn {s t : State} {k r : Nat} (h : OnlyRegion s t k r) : (t.stack k).waitIn = (s.stack k).waitIn := by
  obtain ⟨-, hStack, -⟩ := h
  rw [hStack]

theorem modRegion_of_pages {s t : State} (h : t = { s with orgs := t.orgs, mem := t.mem, hostMem := t.hostMem }) (k r : Nat)
    (f : Region → Region) : t.modRegion k r f = { s with
      orgs := (t.modRegion k r f).orgs, mem := (t.modRegion k r f).mem, hostMem := (t.modRegion k r f).hostMem } :=
  congrArg (fun u => { u with orgs := (t.modRegion k r f).orgs }) h

theorem hostBytes_of_pageOut {s : State} {k r : Nat} {t : Tbl Byte} (h : t = Tbl.splice s.hostMem (s.region k r).buf
    ((s.region k r).buf + 2 ^ 26) ((regionBytes s k r).map (fun e => (e.1 + (s.region k r).buf, e.2)))) :
    (∀ o, o < 2 ^ 26 → Tbl.get 0 t ((s.region k r).buf + o) = s.byte (regionDa k r o)) ∧
    ∀ a, a < (s.region k r).buf ∨ (s.region k r).buf + 2 ^ 26 ≤ a → Tbl.get 0 t a = Tbl.get 0 s.hostMem a := by
  have hSeg : ∀ e ∈ (regionBytes s k r).map (fun e => (e.1 + (s.region k r).buf, e.2)),
      (s.region k r).buf ≤ e.1 ∧ e.1 < (s.region k r).buf + 2 ^ 26 := by
    intro e he
    obtain ⟨x, hx, rfl⟩ := List.mem_map.mp he
    obtain ⟨y, hy, rfl⟩ := List.mem_map.mp hx
    obtain ⟨-, hLo, hHi⟩ := Tbl.mem_slice.mp hy
    dsimp only
    omega
  subst h
  refine ⟨fun o ho => ?_, fun a ha => ?_⟩
  · rw [Tbl.get_splice 0 _ hSeg _ (Nat.le_add_right ..), if_pos (by omega), regionBytes, List.map_map, regionDa_add k r o]
    exact Tbl.get_slice_moved 0 s.mem.bytes ho (s.region k r).buf
  · rw [Tbl.get_splice 0 _ hSeg _ (Nat.le_add_right ..), if_neg (by omega)]

theorem pageOut_moves {s : State} {k : Fin 6} {r : Fin 16384} (hCmd : (s.region k r).cmd = []) (hBme : s.hif.bme = true)
    (hErrors : NoErrors s) (hHost : s.hostFails (s.region k r).buf (2 ^ 26) = false) (hSt : (s.region k r).st = .pageOut)
    (hReach : s.moverReaches k r = false) (hWait : (s.stack k).waitIn = []) :
    ∃ t, exec (.pageOutComplete k r) s = .next t ∧ OnlyRegion s t k r ∧
      t.region k r = { s.region k r with st := .spilled, crc := (t.region k r).crc, poison := false } ∧
      (t.region k r).crc = some (BitVec.ofNat 64 (crc64Sparse (2 ^ 26) (regionBytes s k r))) ∧
      (∀ o, o < 2 ^ 26 → Tbl.get 0 t.hostMem ((s.region k r).buf + o) = s.byte (regionDa k r o)) ∧
      (∀ a, a < (s.region k r).buf ∨ (s.region k r).buf + 2 ^ 26 ≤ a → Tbl.get 0 t.hostMem a = Tbl.get 0 s.hostMem a) ∧
      BytesKept s t [(regionDa k r 0, 2 ^ 26)] ∧ t = { s with orgs := t.orgs, mem := t.mem, hostMem := t.hostMem } := by
  obtain ⟨hOnly, hRegion, hPages, hBytes, hHostMem⟩ := pagedOut_does hErrors k r
  obtain ⟨hIn, hOut⟩ := hostBytes_of_pageOut hHostMem
  have hExec := exec_pageOutComplete hCmd hBme hErrors hHost hSt hReach
  generalize pagedOut s k r = u at hOnly hRegion hPages hBytes hIn hOut hExec
  generalize crc64Sparse (2 ^ 26) (regionBytes s k r) = crc at hExec ⊢
  have hFreed (f : Region → Region) : frameFreed (u.modRegion k r f) k = u.modRegion k r f :=
    frameFreed_of_none_waiting ((hOnly.trans (onlyRegion_modRegion u k r f)).waitIn.trans hWait)
  rw [hFreed] at hExec
  refine ⟨_, hExec, (hOnly.trans (onlyRegion_modRegion u k r _)).trans (onlyRegion_modRegion _ k r _), ?_, ?_,
    ?_, ?_, fun a ha => ?_, ?_⟩
  · rw [State.region_modRegion, if_pos rfl, State.region_modRegion, if_pos rfl, hRegion, ← hCmd]
  · rw [State.region_modRegion, if_pos rfl, State.region_modRegion, if_pos rfl]
  · rw [State.modRegion_hostMem, State.modRegion_hostMem]
    exact hIn
  · rw [State.modRegion_hostMem, State.modRegion_hostMem]
    exact hOut
  · have hFar := ha _ (List.mem_singleton_self _)
    rw [State.byte, State.modRegion_mem, State.modRegion_mem, hBytes, Tbl.get_clearRange, if_neg (by omega)]
    rfl
  · exact modRegion_of_pages (modRegion_of_pages hPages k r _) k r _

end Sys2Proof.Machine
end

section
/-! PROOFS. A page-in, bank mode, and the obligation on regions. -/

namespace Sys2Proof.Machine

open Sys2Proof

theorem onlyRegion_of_orgs {s t : State} (h : t.orgs = s.orgs) (k r : Nat) : OnlyRegion s t k r ∧ t.region k r = s.region k r := by
  have hStack (m : Nat) : t.stack m = s.stack m := by rw [State.stack, h, State.stack]
  have hRegion (q : Nat) : t.region k q = s.region k q := by rw [State.region, hStack, State.region]
  exact ⟨⟨fun m _ => hStack m, by rw [hStack], fun q _ => hRegion q⟩, hRegion r⟩

/-! ## A page-in (R170, R215) -/

/-- The bytes of a region's host buffer, by their offset in it. -/
def bufferBytes (s : State) (k r : Nat) : Tbl Byte :=
  (Tbl.slice s.hostMem (s.region k r).buf ((s.region k r).buf + 2 ^ 26)).map (fun e => (e.1 - (s.region k r).buf, e.2))

/-- The CRC-64 that a page-out recorded differs from that of the host buffer. -/
def crcDiffers (s : State) (k r : Nat) : Bool :=
  (s.region k r).crc.any (fun c => c.toNat ≠ crc64Sparse (2 ^ 26) (bufferBytes s k r))

/-- The part with the bytes of the host buffer in the region's frame. -/
def received (s : State) (k r : Nat) : State :=
  { s with mem := { s.mem with
    bytes := Tbl.splice s.mem.bytes (regionDa k r 0) (regionDa k r 0 + 2 ^ 26)
      ((bufferBytes s k r).map (fun e => (e.1 + regionDa k r 0, e.2)))
    valid := Tbl.splice s.mem.valid (regionDa k r 0 / 64) (regionDa k r 0 / 64 + 2 ^ 20) (regionLines k r) } }

/-- A differing CRC-64 is logged. -/
def crcLogged (s : State) (k r : Nat) : State :=
  if crcDiffers s k r then logError (received s k r) (regionDa k r 0) 7 7 0xFF 0 4 none 0 else received s k r

/-- A page-in that went wrong poisons the region and is notified. -/
def pageChecked (s : State) (k r : Nat) (bad : Bool) (note : List Byte) : State :=
  if bad || (s.region k r).poison || crcDiffers s k r then notify (poisonRegion (crcLogged s k r) k r) 5 note else crcLogged s k r

theorem exec_pageInComplete {s : State} {k : Fin 6} {r : Fin 16384} (hCmd : (s.region k r).cmd = []) (hBme : s.hif.bme = true)
    (hHost : s.hostFails (s.region k r).buf (2 ^ 26) = false) (hSt : (s.region k r).st = .pageIn) (bad : Bool) :
    ∃ note, exec (.pageInComplete k r bad) s = .next (((pageChecked s k r bad note).openRows (regionDa k r 0) (2 ^ 26)).modRegion k r
      (fun x => { x with st := .resident, poison := false, cmd := [] })) := by
  refine ⟨regionNote k r ++ leBytes 1 (if bad then 2 else if (s.region k r).poison then 1 else 0), ?_⟩
  change execPageInComplete k r bad s = _
  unfold execPageInComplete pageChecked crcLogged received crcDiffers bufferBytes
  dsimp only
  rw [hSt, hBme, hHost, hCmd]
  simp only [Bool.or_false, completeAll, List.foldl_nil]
  rfl

theorem crcLogged_does (s : State) (k r : Nat) : Upkept (received s k r) (crcLogged s k r) ∧
    (crcLogged s k r).mem.bytes = (received s k r).mem.bytes := by
  unfold crcLogged
  split
  next => exact ⟨logError_upkept .., logError_bytes ..⟩
  next => exact ⟨.refl _, rfl⟩

theorem pageChecked_does (s : State) (k r : Nat) (bad : Bool) (note : List Byte) :
    (pageChecked s k r bad note).orgs = s.orgs ∧ (pageChecked s k r bad note).hostMem = s.hostMem ∧
    (pageChecked s k r bad note).cores = s.cores ∧ (pageChecked s k r bad note).mem.bytes = (received s k r).mem.bytes := by
  obtain ⟨hLogged, hBytes⟩ := crcLogged_does s k r
  have hUpkept : Upkept (received s k r) (pageChecked s k r bad note) := by
    unfold pageChecked
    split
    next => exact (hLogged.trans (.of_mem rfl)).trans (notify_reported _ _ _).upkept
    next => exact hLogged
  obtain ⟨-, m, ev, ks, ns, hSame⟩ := hUpkept
  refine ⟨?_, ?_, ?_, ?_⟩
  · rw [hSame]
    rfl
  · rw [hSame]
    rfl
  · rw [hSame]
    rfl
  · unfold pageChecked
    split
    next => exact hBytes
    next => exact hBytes

theorem get_words_of_mem {lo j : Nat} {l : List Nat} (h : j ∈ l) (v : List Byte) :
    Tbl.get [] (l.map (fun i => (lo + 32 * i, v))) (lo + 32 * j) = v := by
  induction l with
  | nil => exact absurd h List.not_mem_nil
  | cons i l ih =>
    rw [List.map_cons, Tbl.get]
    split
    next => rfl
    next hOther =>
      refine ih ((List.mem_cons.mp h).resolve_left fun hSame => hOther ?_)
      rw [hSame]

/-- Every word of a poisoned region holds the pattern of a poisoned word (R197). -/
theorem flaws_poisonRegion (s : State) (k r : Nat) {i : Nat} (hi : i < 2 ^ 21) :
    Tbl.get [] (poisonRegion s k r).mem.flaws (regionDa k r 0 + 32 * i) = poisonWord := by
  have hMem : (poisonRegion s k r).mem.flaws = Tbl.splice s.mem.flaws (regionDa k r 0) (regionDa k r 0 + 2 ^ 26)
      ((List.range (2 ^ 21)).map (fun i => (regionDa k r 0 + 32 * i, poisonWord))) := by rw [poisonRegion]
  have hSeg : ∀ e ∈ (List.range (2 ^ 21)).map (fun i => (regionDa k r 0 + 32 * i, poisonWord)),
      regionDa k r 0 ≤ e.1 ∧ e.1 < regionDa k r 0 + 2 ^ 26 := by
    intro e he
    obtain ⟨j, hj, rfl⟩ := List.mem_map.mp he
    have hLt := List.mem_range.mp hj
    dsimp only
    omega
  rw [hMem, Tbl.get_splice [] _ hSeg _ (Nat.le_add_right ..), if_pos (by omega)]
  exact get_words_of_mem (List.mem_range.mpr hi) poisonWord

theorem flaws_pageChecked_of_good {s : State} {k r : Nat} (hFlaws : s.mem.flaws = []) (hPoison : (s.region k r).poison = false)
    (hCrc : crcDiffers s k r = false) (note : List Byte) : (pageChecked s k r false note).mem.flaws = [] := by
  unfold pageChecked crcLogged
  rw [hPoison, hCrc]
  exact hFlaws

theorem flaws_pageChecked_of_bad {s : State} {k r : Nat} {bad : Bool} (h : bad = true ∨ (s.region k r).poison = true ∨ crcDiffers s k r = true)
    (note : List Byte) (i : Nat) (hi : i < 2 ^ 21) :
    Tbl.get [] (pageChecked s k r bad note).mem.flaws (regionDa k r 0 + 32 * i) = poisonWord := by
  unfold pageChecked
  rw [if_pos (by simpa [or_assoc] using h), notify_mem]
  exact flaws_poisonRegion _ k r hi

theorem bytes_received (s : State) (k r : Nat) :
    (∀ o, o < 2 ^ 26 → (received s k r).byte (regionDa k r o) = Tbl.get 0 s.hostMem ((s.region k r).buf + o)) ∧
    BytesKept s (received s k r) [(regionDa k r 0, 2 ^ 26)] := by
  have hSeg : ∀ e ∈ (bufferBytes s k r).map (fun e => (e.1 + regionDa k r 0, e.2)),
      regionDa k r 0 ≤ e.1 ∧ e.1 < regionDa k r 0 + 2 ^ 26 := by
    intro e he
    obtain ⟨x, hx, rfl⟩ := List.mem_map.mp he
    obtain ⟨y, hy, rfl⟩ := List.mem_map.mp hx
    obtain ⟨-, hLo, hHi⟩ := Tbl.mem_slice.mp hy
    dsimp only
    omega
  have hByte (a : Nat) : (received s k r).byte a = if regionDa k r 0 ≤ a ∧ a < regionDa k r 0 + 2 ^ 26 then
      Tbl.get 0 ((bufferBytes s k r).map (fun e => (e.1 + regionDa k r 0, e.2))) a else s.byte a :=
    Tbl.get_splice 0 s.mem.bytes hSeg a (Nat.le_add_right ..)
  refine ⟨fun o ho => ?_, fun a ha => ?_⟩
  · rw [hByte, regionDa_add k r o, if_pos (by omega), bufferBytes, List.map_map]
    exact Tbl.get_slice_moved 0 s.hostMem ho (regionDa k r 0)
  · have hFar := ha _ (List.mem_singleton_self _)
    rw [hByte, if_neg (by omega)]

theorem pageIn_moves {s : State} {k : Fin 6} {r : Fin 16384} (hCmd : (s.region k r).cmd = []) (hBme : s.hif.bme = true)
    (hErrors : NoErrors s) (hHost : s.hostFails (s.region k r).buf (2 ^ 26) = false) (hSt : (s.region k r).st = .pageIn) (bad : Bool) :
    ∃ t, exec (.pageInComplete k r bad) s = .next t ∧ OnlyRegion s t k r ∧
      t.region k r = { s.region k r with st := .resident, poison := false } ∧
      (∀ o, o < 2 ^ 26 → t.byte (regionDa k r o) = Tbl.get 0 s.hostMem ((s.region k r).buf + o)) ∧
      BytesKept s t [(regionDa k r 0, 2 ^ 26)] ∧ t.hostMem = s.hostMem ∧ t.cores = s.cores ∧
      (bad = false → (s.region k r).poison = false → crcDiffers s k r = false → t.mem.flaws = []) ∧
      (bad = true ∨ (s.region k r).poison = true ∨ crcDiffers s k r = true →
        ∀ i, i < 2 ^ 21 → Tbl.get [] t.mem.flaws (regionDa k r 0 + 32 * i) = poisonWord) := by
  obtain ⟨note, hExec⟩ := exec_pageInComplete hCmd hBme hHost hSt bad
  obtain ⟨hOrgs, hHostMem, hCores, hBytes⟩ := pageChecked_does s k r bad note
  obtain ⟨hIn, hKept⟩ := bytes_received s k r
  have hByte (a : Nat) : (pageChecked s k r bad note).byte a = (received s k r).byte a := by rw [State.byte, hBytes, State.byte]
  have hGood (hNot : bad = false) (hPoison : (s.region k r).poison = false) (hCrc : crcDiffers s k r = false) :
      (pageChecked s k r bad note).mem.flaws = [] := by
    rw [hNot]
    exact flaws_pageChecked_of_good hErrors.1 hPoison hCrc note
  have hBad (h : bad = true ∨ (s.region k r).poison = true ∨ crcDiffers s k r = true) := flaws_pageChecked_of_bad h note
  generalize pageChecked s k r bad note = u at hExec hOrgs hHostMem hCores hByte hGood hBad
  obtain ⟨hOnly, hRegion⟩ := onlyRegion_of_orgs hOrgs k r
  obtain ⟨orgs, hOpen, hOnly', hRegion'⟩ := openRows_does u (regionDa k r 0) (2 ^ 26) r
  rw [daUnit_regionDa] at hOnly' hRegion'
  rw [hOpen] at hExec hOnly' hRegion'
  refine ⟨_, hExec, (hOnly.trans hOnly').trans (onlyRegion_modRegion _ k r _), ?_, ?_, ?_, ?_, ?_, ?_, ?_⟩
  · rw [State.region_modRegion, if_pos rfl, hRegion', hRegion, ← hCmd]
  · exact fun o ho => (hByte _).trans (hIn o ho)
  · exact fun a ha => (hByte a).trans (hKept a ha)
  · exact hHostMem
  · exact hCores
  · exact hGood
  · exact hBad

theorem crcDiffers_iff {s : State} {k r : Nat} : crcDiffers s k r = true ↔
    ∃ c, (s.region k r).crc = some c ∧ c.toNat ≠ crc64Sparse (2 ^ 26) (bufferBytes s k r) := by
  rw [crcDiffers, Option.any_eq_true]
  simp only [decide_eq_true_eq]

theorem pagesMove : PagesMove := by
  intro s k r g hCmd hBme hErrors hHost
  refine ⟨fun hSt hReach hWait => ?_, fun hSt bad => ?_⟩
  · rw [regionDa_add k r (2 ^ 26)]
    exact pageOut_moves hCmd hBme hErrors hHost hSt hReach hWait
  · obtain ⟨t, hExec, hOnly, hRegion, hIn, hKept, hHostMem, hCores, hGood, hBad⟩ := pageIn_moves hCmd hBme hErrors hHost hSt bad
    refine ⟨t, hExec, hOnly, hRegion, hIn, hKept, hHostMem, hCores, fun hNot hPoison hSame => ?_, fun h => hBad ?_⟩
    · refine hGood hNot hPoison (Bool.eq_false_iff.mpr fun hCrc => ?_)
      obtain ⟨c, hc, hDiffers⟩ := crcDiffers_iff.mp hCrc
      exact hDiffers (hSame c hc)
    · exact h.imp_right (Or.imp_right crcDiffers_iff.mpr)

/-! ## Bank mode (R258 to R263) -/

theorem exec_bankEntryComplete {s : State} {k : Fin 6} {r : Fin 16384} (hCmd : (s.region k r).cmd = []) (hHolder : (s.region k r).holder = .host)
    (hBank : (s.region k r).bank = .entering) (hMerges : s.mem.merges = []) :
    exec (.bankEntryComplete k r) s = .next (s.modRegion k r (fun x => { x with bank := .bank, cmd := [] })) := by
  change execBankEntryComplete k r s = _
  unfold execBankEntryComplete
  dsimp only
  rw [hBank, hCmd, hHolder, closeRegion, closeWhere_of_no_merges hMerges]
  rfl

theorem exec_bankReleaseComplete {s : State} {k : Fin 6} {r : Fin 16384} (hCmd : (s.region k r).cmd = []) (hHolder : (s.region k r).holder = .host)
    (hBank : (s.region k r).bank = .releasing) (hQuiet : (s.stack k).allQuiet = true) (hWait : (s.region k r).relWait = 0)
    (hAbort : (s.region k r).abort = false) (hCmpl : (s.region k r).relCmpl = none) :
    exec (.bankReleaseComplete k r) s = .next (s.modRegion k r (fun x => { x with
      bank := .normal, handle := 0, holder := .host, gen := (s.region k r).gen + 1, relCmpl := none, abort := false, cmd := [] })) := by
  change execBankReleaseComplete k r s = _
  unfold execBankReleaseComplete
  dsimp only
  rw [hBank, hCmd, hHolder, hWait, hAbort, hCmpl]
  simp only [Bool.and_false, Bool.false_eq_true, if_false, hQuiet, ne_eq, not_true_eq_false, decide_false, Bool.not_true, Bool.or_false]
  rfl

theorem noteHold_of_noted {s : State} {lc m : Nat} {x : Xfer} (hActive : ((s.core lc).mover m).active = some x)
    (hHeld : s.bankHeld x = true) {since : Nat} (hSince : x.bankSince = some since) : noteHold s lc m = s := by
  unfold noteHold
  rw [hActive]
  dsimp only
  rw [hHeld, hSince, if_pos rfl, Option.some_or, if_pos rfl]

theorem exec_bankHoldTimeout {s : State} {lc : Lc} {m : Fin 4} {x : Xfer} (hActive : ((s.core lc).mover m).active = some x)
    (hHeld : s.bankHeld x = true) {since : Nat} (hSince : x.bankSince = some since) :
    exec (.bankHoldTimeout lc m) s = .next (if since + 1000 ≤ s.us then faultCore s lc 5 0 x.bundle 0 else s) := by
  change execBankHoldTimeout lc m s = _
  unfold execBankHoldTimeout
  dsimp only
  rw [noteHold_of_noted hActive hHeld hSince, hActive]
  dsimp only
  rw [hHeld, hSince]
  simp

theorem core_faultCore_other {s : State} {lc c : Nat} (h : c ≠ lc) (source code bundle : Nat) (aux : Word) :
    (faultCore s lc source code bundle aux).core c = s.core c := by
  unfold faultCore
  split
  next => exact State.core_modCore_other s _ h
  next =>
    split
    next => rfl
    next => rfl
    next =>
      split
      next => rfl
      next => exact State.core_modCore_other s _ h
    next => rw [core_broadcast, core_modJob, State.core_modCore_other s _ h]

theorem bankModeMoves : BankModeMoves := by
  refine ⟨?_, ?_⟩
  · intro s k r g hCmd hHolder
    refine ⟨fun hBank hErrors => ?_, fun hBank hQuiet hWait hAbort hCmpl => ?_⟩
    · refine ⟨_, exec_bankEntryComplete hCmd hHolder hBank hErrors.2.2.2.1, rfl, onlyRegion_modRegion s k r _, ?_⟩
      rw [State.region_modRegion, if_pos rfl, ← hCmd]
    · refine ⟨_, exec_bankReleaseComplete hCmd hHolder hBank hQuiet hWait hAbort hCmpl, rfl, onlyRegion_modRegion s k r _, ?_⟩
      rw [State.region_modRegion, if_pos rfl, ← hCmd, ← hHolder, ← hCmpl, ← hAbort]
  · intro s lc m x j hActive hHeld since hSince
    refine ⟨fun hDue hJob hPhase => ⟨_, exec_bankHoldTimeout hActive hHeld hSince, ?_⟩, fun hEarly => ?_⟩
    · rw [if_pos hDue, core_faultCore_of_running hJob hPhase, faultCore_mem]
      exact ⟨rfl, rfl, rfl, rfl, fun c hc => core_faultCore_other hc ..⟩
    · rw [exec_bankHoldTimeout hActive hHeld hSince, if_neg (by omega)]

/-- Settles O22: a page and a change of bank mode touch one region of one stack; a hold of 1 ms faults one core. -/
theorem regionsMove : Obligations.RegionsMove := ⟨pagesMove, bankModeMoves⟩

end Sys2Proof.Machine
end

section
/-! PROOFS. The commands on Orangery regions, and the obligation on them. -/

namespace Sys2Proof.Machine

open Sys2Proof

/-! ## What a command on a region can do -/

section RegionCommand

variable {s : State} {q : BitVec 16} {e : Entry} {ps : List Byte} {kd : CmdKind} {i : Instr} {act : CmdRun → State → Act}

/-- A command that its own rules refuse answers a status and does nothing else (R376, R381). -/
theorem command_refused (hExec : exec i s = hostRun i kd q e s act) (h : HostReady s q e ps)
    (hCheck : checkCmd s kd q.toNat e ps (inputOf s (kd.buf ps) e) = 0) {status : Nat}
    (hAct : ∀ H, act (runOf s kd q.toNat e ps) { s with hif := H } = .status { s with hif := H } status) :
    ∃ t, exec i s = .next t ∧ t = { s with hif := t.hif, hostMem := t.hostMem } ∧ Replied s t q e status false 0 0 [] := by
  obtain ⟨H, H', m, hNext, hReply⟩ := command_replies (f := fun H => { s with hif := H }) hExec h hCheck (fun H _ => hAct H)
    (fun _ => rfl) (fun _ => rfl) (fun _ => rfl)
  exact ⟨_, hNext, rfl, hReply⟩

/-- A command that begins by changing one region, and stays in progress. -/
theorem command_begins (hExec : exec i s = hostRun i kd q e s act) (h : HostReady s q e ps)
    (hCheck : checkCmd s kd q.toNat e ps (inputOf s (kd.buf ps) e) = 0) {o : Tbl Stack} {k r : Nat} (hOnly : OnlyRegion s { s with orgs := o } k r)
    (hAct : ∀ H, act (runOf s kd q.toNat e ps) { s with hif := H } = .later { s with hif := H, orgs := o }) :
    ∃ t, exec i s = .next t ∧ (t = { s with hif := t.hif, hostMem := t.hostMem, orgs := t.orgs } ∧ OnlyRegion s t k r) ∧
      InProgress s t q e false ∧ t.region k r = ({ s with orgs := o } : State).region k r := by
  obtain ⟨H, H', hNext, hProgress⟩ := command_later (f := fun H => { s with hif := H, orgs := o }) hExec h hCheck hAct
    (fun _ => rfl) (fun _ => rfl)
  exact ⟨_, hNext, ⟨rfl, hOnly⟩, hProgress, rfl⟩

end RegionCommand

/-! ## The commands' kinds (Table 13.9) -/

def orgMapKind : CmdKind :=
  CmdKind.basic true false [16] (fun ps => leField ps 4 7 ≠ 0) (fun ps => orgNamed ps && leField ps 1 1 < 2
    && (if leField ps 1 1 = 0 then leField ps 8 15 = 0 else leField ps 8 15 % 4096 = 0))

/-- The kind of `ORG_UNMAP` and of `ORG_PAGE_IN`. -/
def orgRegionKind : CmdKind := CmdKind.basic true false [4] (fun ps => leField ps 1 1 ≠ 0) orgNamed

def orgPageOutKind : CmdKind :=
  CmdKind.basic true false [16] (fun ps => leField ps 1 1 ≠ 0 || leField ps 4 7 ≠ 0) (fun ps => orgNamed ps && leField ps 8 15 % 4096 = 0)

def bankEnterKind : CmdKind :=
  CmdKind.basic true false [8] (fun ps => leField ps 7 7 ≠ 0)
    (fun ps => orgNamed ps && leField ps 1 1 < 2 && leField ps 4 5 < 512
      && (if leField ps 1 1 = 0 then leField ps 6 6 = 0 else leField ps 6 6 < 64))

def bankReleaseKind : CmdKind := CmdKind.basic true false [4] (fun ps => 2 ≤ leField ps 1 1) orgNamed

/-- The part after a region's frame is dropped and the region freed. -/
def unmapped (s : State) (k r : Nat) : State :=
  (dropRegion s k r).modRegion k r (fun x => { x with st := .unmapped, frame := 0, buf := 0, crc := none, poison := false, cmd := [] })

section Orangery

variable {s : State} {q : BitVec 16} {e : Entry} {ps : List Byte} (h : HostReady s q e ps) (hBuf : NoBuffer e)
  (hStack : orgStackOf ps < 6) (hRegion : orgRegionOf ps < 16384)

include hStack hRegion in
theorem orgNamed_of_lt : orgNamed ps = true := by
  rw [orgNamed, decide_eq_true hStack, decide_eq_true hRegion, Bool.and_self]

include h hBuf hStack hRegion

theorem orgRegion_check (hLen : ps.length = 4) (hRsv : leField ps 1 1 = 0) :
    checkCmd s orgRegionKind q.toNat e ps (inputOf s (orgRegionKind.buf ps) e) = 0 :=
  checkCmd_passes h (List.mem_singleton.mpr hLen) (decide_eq_false (not_not_intro hRsv)) rfl rfl (orgNamed_of_lt hStack hRegion) hBuf

theorem bankRelease_check (hLen : ps.length = 4) (hRsv : leField ps 1 1 = 0) :
    checkCmd s bankReleaseKind q.toNat e ps (inputOf s (bankReleaseKind.buf ps) e) = 0 :=
  checkCmd_passes h (List.mem_singleton.mpr hLen) (decide_eq_false (by omega)) rfl rfl (orgNamed_of_lt hStack hRegion) hBuf

theorem orgPageOut_check (hLen : ps.length = 16) (hZero : leField ps 4 7 = 0) (hRsv : leField ps 1 1 = 0) (hAlign : leField ps 8 15 % 4096 = 0) :
    checkCmd s orgPageOutKind q.toNat e ps (inputOf s (orgPageOutKind.buf ps) e) = 0 := by
  refine checkCmd_passes h (List.mem_singleton.mpr hLen) ?_ rfl rfl ?_ hBuf
  · simp [orgPageOutKind, CmdKind.basic, hZero, hRsv]
  · simp [orgPageOutKind, CmdKind.basic, orgNamed_of_lt hStack hRegion, hAlign]

theorem orgMap_check (hLen : ps.length = 16) (hZero : leField ps 4 7 = 0) (hMode : leField ps 1 1 < 2)
    (hPlace : if leField ps 1 1 = 0 then leField ps 8 15 = 0 else leField ps 8 15 % 4096 = 0) :
    checkCmd s orgMapKind q.toNat e ps (inputOf s (orgMapKind.buf ps) e) = 0 := by
  refine checkCmd_passes h (List.mem_singleton.mpr hLen) (decide_eq_false (not_not_intro hZero)) rfl rfl ?_ hBuf
  simp [orgMapKind, CmdKind.basic, orgNamed_of_lt hStack hRegion, Nat.le_of_lt_succ hMode, hPlace]

theorem bankEnter_check (hLen : ps.length = 8) (hRsv : leField ps 7 7 = 0) (hMode : leField ps 1 1 = 0) (hHandle : leField ps 4 5 < 512)
    (hNode : leField ps 6 6 = 0) : checkCmd s bankEnterKind q.toNat e ps (inputOf s (bankEnterKind.buf ps) e) = 0 := by
  refine checkCmd_passes h (List.mem_singleton.mpr hLen) (decide_eq_false (not_not_intro hRsv)) rfl rfl ?_ hBuf
  simp [bankEnterKind, CmdKind.basic, orgNamed_of_lt hStack hRegion, hMode, hHandle, hNode]

end Orangery

/-! ## ORG_MAP (R168, Table 9.2) -/

/-- The rules of `ORG_MAP` for region `r` of stack `k`, mapped as spilled when `mode` is 1. -/
def orgMapAct (k r mode buf : Nat) (s : State) : Act :=
  if (s.region k r).st ≠ .unmapped then .status s 0x29
  else if mode = 1 then .done (s.modRegion k r (fun x => { x with st := .spilled, buf := buf, crc := none, poison := false })) 0 false 0xFFFF 0
  else (s.stack k).freeFrame.elim (.status s 0x28)
    (fun f => .done ((dropRegion s k r).modRegion k r (fun x => { x with st := .resident, frame := f, crc := none, poison := false })) 0 false f 0)

theorem exec_orgMap (s : State) (q : BitVec 16) (e : Entry) : exec (.orgMap q e) s = hostRun (.orgMap q e) orgMapKind q e s
    (fun c s => orgMapAct (orgStackOf c.ps) (orgRegionOf c.ps) (leField c.ps 1 1) (leField c.ps 8 15) s) := by
  refine congrArg (hostRun (.orgMap q e) orgMapKind q e s) (funext fun c => funext fun s => ?_)
  unfold orgMapAct
  dsimp only
  generalize (s.stack (orgStackOf c.ps)).freeFrame = free
  cases free <;> rfl

theorem orgMapAct_of_mapped {s : State} {k r : Nat} (h : (s.region k r).st ≠ .unmapped) (mode buf : Nat) :
    orgMapAct k r mode buf s = .status s 0x29 := if_pos h

theorem orgMapAct_spilled {s : State} {k r : Nat} (h : (s.region k r).st = .unmapped) {mode : Nat} (hMode : mode = 1) (buf : Nat) :
    orgMapAct k r mode buf s =
      .done (s.modRegion k r (fun x => { x with st := .spilled, buf := buf, crc := none, poison := false })) 0 false 0xFFFF 0 := by
  rw [orgMapAct, if_neg (not_not_intro h), if_pos hMode]

theorem orgMapAct_of_full {s : State} {k r : Nat} (h : (s.region k r).st = .unmapped) (hFull : (s.stack k).freeFrame = none) {mode : Nat}
    (hMode : mode = 0) (buf : Nat) : orgMapAct k r mode buf s = .status s 0x28 := by
  rw [orgMapAct, if_neg (not_not_intro h), if_neg (by omega), hFull, Option.elim_none]

theorem orgMapAct_resident {s : State} {k r : Nat} (h : (s.region k r).st = .unmapped) {f : Nat} (hFree : (s.stack k).freeFrame = some f)
    {mode : Nat} (hMode : mode = 0) (buf : Nat) : orgMapAct k r mode buf s =
      .done ((dropRegion s k r).modRegion k r (fun x => { x with st := .resident, frame := f, crc := none, poison := false })) 0 false f 0 := by
  rw [orgMapAct, if_neg (not_not_intro h), if_neg (by omega), hFree, Option.elim_some]

/-! ## Dropping a region (R168, R208) -/

/-- The memory that is left when a region is dropped (R208). -/
def memWithout (m : MemState) (k r : Nat) : MemState :=
  let lo := regionDa k r 0
  let hi := regionDa k r 0 + 2 ^ 26
  { m with
    bytes := Tbl.clearRange m.bytes lo hi
    valid := Tbl.clearRange m.valid (lo / 64) (hi / 64)
    flaws := Tbl.clearRange m.flaws lo hi
    mapFlaws := Tbl.clearRange m.mapFlaws (lo / 64) (hi / 64)
    merges := m.merges.filter (fun e => !(lo ≤ e.word && e.word < hi)) }

theorem dropRegion_eq {s : State} (h : NoErrors s) (k r : Nat) : dropRegion s k r = { s with mem := memWithout s.mem k r } := by
  obtain ⟨-, -, -, -, hBacks⟩ := h
  unfold dropRegion
  dsimp only
  rw [cancelBacks_of_none hBacks]
  rfl

theorem bytes_memWithout (m : MemState) (k r a : Nat) : Tbl.get 0 (memWithout m k r).bytes a =
    if regionDa k r 0 ≤ a ∧ a < regionDa k r 0 + 2 ^ 26 then 0 else Tbl.get 0 m.bytes a := Tbl.get_clearRange 0 m.bytes _ _ a

/-- A dropped region reads zero, and no other byte has changed. -/
theorem bytesKept_memWithout {s t : State} {k r : Nat} (h : t.mem = memWithout s.mem k r) :
    (∀ o, o < 2 ^ 26 → t.byte (regionDa k r o) = 0) ∧ BytesKept s t [(regionDa k r 0, 2 ^ 26)] := by
  have hByte (a : Nat) : t.byte a = if regionDa k r 0 ≤ a ∧ a < regionDa k r 0 + 2 ^ 26 then 0 else s.byte a := by
    rw [State.byte, h, bytes_memWithout, State.byte]
  refine ⟨fun o ho => ?_, fun a ha => ?_⟩
  · rw [hByte, regionDa_add k r o, if_pos (by omega)]
  · have hFar := ha _ (List.mem_singleton_self _)
    rw [hByte, if_neg (by omega)]

theorem startPageIn_of_free {s : State} {k f : Nat} (h : (s.stack k).freeFrame = some f) (r : Nat) :
    startPageIn s k r = s.modRegion k r (fun x => { x with st := .pageIn, frame := f }) := by
  unfold startPageIn
  rw [h]

/-- A region whose release by the host, without `ABORT`, begins (R262). -/
def releasing (n : Nat) (cmd : List CmdRef) (g : Region) : Region :=
  if g.bank = .releasing then g else { g with bank := .releasing, relCmpl := none, relWait := n, abort := false, cmd := cmd }

theorem startRelease_of_host {abort : Bool} (h : abort = false) (s : State) (k r : Nat) (cmd : List CmdRef) :
    startRelease s k r abort none cmd = s.modRegion k r (releasing (s.recQueue k) cmd) := by
  rw [h, startRelease, if_neg Bool.false_ne_true]
  refine congrArg (s.modRegion k r) (funext fun g => ?_)
  rw [Option.none_or, Bool.or_false]
  rfl

theorem releasing_of_bank {g : Region} (h : g.bank = .bank) (n : Nat) (cmd : List CmdRef) : releasing n cmd g =
    { g with bank := .releasing, relCmpl := none, relWait := n, abort := false, cmd := cmd } := if_neg (by rw [h]; decide)

/-- A region that holds data and does not move (R168). -/
theorem still_of_mapped {st : RegionState} (h : st = .resident ∨ st = .spilled) :
    st ≠ .unmapped ∧ ¬ (decide (st = .pageIn) || decide (st = .pageOut)) = true := by
  rcases h with rfl | rfl
  · exact ⟨by decide, by decide⟩
  · exact ⟨by decide, by decide⟩

/-! ## Freeing a region (R168) -/

/-- No page-in of the region waits for a frame. -/
def notWaiting (s : State) (k r : Nat) : State := s.modStack k (fun t => { t with waitIn := t.waitIn.filter (· ≠ r) })

theorem notWaiting_does {s : State} {k : Nat} (h : (s.stack k).waitIn = []) (r : Nat) :
    OnlyRegion s (notWaiting s k r) k r ∧ (notWaiting s k r).region k r = s.region k r ∧ frameFreed (notWaiting s k r) k = notWaiting s k r := by
  have hStack : (notWaiting s k r).stack k = s.stack k := by
    rw [notWaiting, State.stack_modStack_same, h, List.filter_nil, ← h]
  have hRegion (q : Nat) : (notWaiting s k r).region k q = s.region k q := by rw [State.region, hStack, State.region]
  refine ⟨⟨fun m hm => State.stack_modStack_other s _ hm, by rw [hStack], fun q _ => hRegion q⟩, hRegion r, frameFreed_of_none_waiting ?_⟩
  rw [hStack, h]

/-- The part once a region that nothing waits for is unmapped. -/
def freed (s : State) (k r : Nat) : State :=
  notWaiting (({ s with mem := memWithout s.mem k r } : State).modRegion k r
    (fun x => { x with st := .unmapped, frame := 0, buf := 0, crc := none, poison := false, cmd := [] })) k r

theorem freed_does {s : State} {k : Nat} (h : (s.stack k).waitIn = []) (r : Nat) :
    OnlyRegion s (freed s k r) k r ∧ (freed s k r).region k r =
      { s.region k r with st := .unmapped, frame := 0, buf := 0, crc := none, poison := false, cmd := [] } ∧
    frameFreed (freed s k r) k = freed s k r := by
  have hOnly := onlyRegion_modRegion { s with mem := memWithout s.mem k r } k r
    (fun x => { x with st := .unmapped, frame := 0, buf := 0, crc := none, poison := false, cmd := [] })
  obtain ⟨hOnly', hRegion, hFreed⟩ := notWaiting_does (hOnly.waitIn.trans h) r
  exact ⟨OnlyRegion.trans hOnly hOnly', hRegion.trans ((State.region_modRegion _ k r r _).trans (if_pos rfl)), hFreed⟩

/-- With no error in memory and nothing waiting, the steps of `ORG_UNMAP` leave the region freed and no more. -/
theorem unmap_eq {s : State} (hErrors : NoErrors s) {k r : Nat} (hCmd : (s.region k r).cmd = []) (hWait : (s.stack k).waitIn = []) :
    frameFreed (completeAll (notWaiting ((dropRegion (closeRegion s k r) k r).modRegion k r
      (fun x => { x with st := .unmapped, frame := 0, buf := 0, crc := none, poison := false, cmd := [] })) k r) (s.region k r).cmd 0x29 0) k =
      freed s k r := by
  have hClosed : closeRegion s k r = s := by
    obtain ⟨-, -, -, hMerges, -⟩ := hErrors
    rw [closeRegion, closeWhere_of_no_merges hMerges]
  obtain ⟨-, -, hFreed⟩ := freed_does hWait r
  rw [hCmd, completeAll, List.foldl_nil, hClosed, dropRegion_eq hErrors]
  exact hFreed

/-! ## What `BANK_ENTER` checks (Table 9.2) -/

/-- No region in bank mode has the handle. -/
def HandleFree (s : State) (k handle : Nat) : Prop := ∀ x ∈ (s.stack k).regions, x.2.banked = true → x.2.handle ≠ handle

theorem handleUsed_iff (s : State) (k handle : Nat) :
    (s.stack k).regions.any (fun e => e.2.banked && e.2.handle = handle) = true ↔ ¬ HandleFree s k handle := by
  rw [HandleFree, List.any_eq_true]
  simp only [Bool.and_eq_true, decide_eq_true_eq, not_forall, ne_eq, not_not, exists_prop]

theorem enterHolder_host {ps : List Byte} (h : leField ps 1 1 = 0) : enterHolder ps = .host := if_pos h

theorem enterHolder_free {t : Stack} {ps : List Byte} (hMode : leField ps 1 1 = 0) (h : ∀ x, t.holder = some x → x = .host) :
    ¬ t.holder.any (· ≠ enterHolder ps) = true := by
  rw [enterHolder_host hMode, Option.any_eq_true]
  rintro ⟨x, hx, hOther⟩
  exact of_decide_eq_true hOther (h x hx)

theorem not_enterState {g : Region} (hSt : g.st = .resident) (hBank : g.banked = false) : ¬ (decide (g.st ≠ .resident) || g.banked) = true := by
  rw [hSt, hBank]
  decide

/-! ## The commands -/

section Orangery

variable {s : State} {q : BitVec 16} {e : Entry} {ps : List Byte} (h : HostReady s q e ps) (hBuf : NoBuffer e)
  (hStack : orgStackOf ps < 6) (hRegion : orgRegionOf ps < 16384)

/-- Command `i` answers a status and does nothing else. -/
def Refuses (s : State) (q : BitVec 16) (e : Entry) (i : Instr) (status : Nat) : Prop :=
  ∃ t, exec i s = .next t ∧ t = { s with hif := t.hif, hostMem := t.hostMem } ∧ Replied s t q e status false 0 0 []

/-- Command `i` leaves region `r` of stack `k` as `g`, touches no other, and stays in progress. -/
def Begins (s : State) (q : BitVec 16) (e : Entry) (i : Instr) (k r : Nat) (g : Region) : Prop :=
  ∃ t, exec i s = .next t ∧ (t = { s with hif := t.hif, hostMem := t.hostMem, orgs := t.orgs } ∧ OnlyRegion s t k r) ∧
    InProgress s t q e false ∧ t.region k r = g

include h hBuf hStack hRegion

section Map

variable (hLen : ps.length = 16) (hZero : leField ps 4 7 = 0)

include hLen hZero

theorem orgMap_refuses (hMode : leField ps 1 1 = 0) (hPlace : leField ps 8 15 = 0) {status : Nat}
    (hAct : ∀ H, orgMapAct (orgStackOf ps) (orgRegionOf ps) (leField ps 1 1) (leField ps 8 15) { s with hif := H } =
      .status { s with hif := H } status) :
    Refuses s q e (.orgMap q e) status :=
  command_refused (exec_orgMap s q e) h (orgMap_check h hBuf hStack hRegion hLen hZero (by omega) (by rwa [if_pos hMode])) hAct

theorem orgMap_spills (hMode : leField ps 1 1 = 1) (hAlign : leField ps 8 15 % 4096 = 0)
    (hSt : (s.region (orgStackOf ps) (orgRegionOf ps)).st = .unmapped) :
    ∃ t, exec (.orgMap q e) s = .next t ∧
      (t = { s with hif := t.hif, hostMem := t.hostMem, orgs := t.orgs } ∧ OnlyRegion s t (orgStackOf ps) (orgRegionOf ps)) ∧
      Replied s t q e 0 false 0xFFFF 0 [] ∧ t.region (orgStackOf ps) (orgRegionOf ps) =
        { s.region (orgStackOf ps) (orgRegionOf ps) with st := .spilled, buf := leField ps 8 15, crc := none, poison := false } := by
  obtain ⟨H, H', m, hNext, hReply⟩ := command_replies
    (f := fun H => ({ s with hif := H } : State).modRegion (orgStackOf ps) (orgRegionOf ps)
      (fun x => { x with st := .spilled, buf := leField ps 8 15, crc := none, poison := false }))
    (exec_orgMap s q e) h (orgMap_check h hBuf hStack hRegion hLen hZero (by omega) (by rwa [if_neg (by omega)]))
    (fun H _ => orgMapAct_spilled (s := { s with hif := H }) hSt hMode _)
    (fun _ => rfl) (fun _ => rfl) (fun _ => rfl)
  exact ⟨_, hNext, ⟨rfl, onlyRegion_modRegion s _ _ _⟩, hReply, (State.region_modRegion s _ _ _ _).trans (if_pos rfl)⟩

theorem orgMap_resident (hMode : leField ps 1 1 = 0) (hPlace : leField ps 8 15 = 0)
    (hSt : (s.region (orgStackOf ps) (orgRegionOf ps)).st = .unmapped) (hErrors : NoErrors s) {f : Nat}
    (hFree : (s.stack (orgStackOf ps)).freeFrame = some f) :
    ∃ t, exec (.orgMap q e) s = .next t ∧ Replied s t q e 0 false f 0 [] ∧ OnlyRegion s t (orgStackOf ps) (orgRegionOf ps) ∧
      t.region (orgStackOf ps) (orgRegionOf ps) =
        { s.region (orgStackOf ps) (orgRegionOf ps) with st := .resident, frame := f, crc := none, poison := false } ∧
      (∀ o, o < 2 ^ 26 → t.byte (regionDa (orgStackOf ps) (orgRegionOf ps) o) = 0) ∧
      BytesKept s t [(regionDa (orgStackOf ps) (orgRegionOf ps) 0, 2 ^ 26)] ∧
      t = { s with hif := t.hif, hostMem := t.hostMem, orgs := t.orgs, mem := t.mem } := by
  obtain ⟨H, H', m, hNext, hReply⟩ := command_replies
    (f := fun H => ({ s with hif := H, mem := memWithout s.mem (orgStackOf ps) (orgRegionOf ps) } : State).modRegion (orgStackOf ps)
      (orgRegionOf ps) (fun x => { x with st := .resident, frame := f, crc := none, poison := false }))
    (exec_orgMap s q e) h (orgMap_check h hBuf hStack hRegion hLen hZero (hMode.trans_lt Nat.two_pos) (by rw [if_pos hMode]; exact hPlace))
    (fun H _ => by
      have hAct := orgMapAct_resident (s := { s with hif := H }) hSt hFree hMode (leField ps 8 15)
      rw [dropRegion_eq (s := { s with hif := H }) hErrors] at hAct
      exact hAct)
    (fun _ => rfl) (fun _ => rfl) (fun _ => rfl)
  obtain ⟨hZeros, hKept⟩ := bytesKept_memWithout (s := s) (t := { s with mem := memWithout s.mem (orgStackOf ps) (orgRegionOf ps) }) rfl
  exact ⟨_, hNext, hReply, onlyRegion_modRegion s _ _ _, (State.region_modRegion s _ _ _ _).trans (if_pos rfl), hZeros, hKept, rfl⟩

end Map

/-! ## Pages (R169, R170) -/

section PageOut

variable (hLen : ps.length = 16) (hZero : leField ps 4 7 = 0) (hRsv : leField ps 1 1 = 0) (hAlign : leField ps 8 15 % 4096 = 0)

include hLen hZero hRsv hAlign

theorem orgPageOut_begins (hSt : (s.region (orgStackOf ps) (orgRegionOf ps)).st = .resident)
    (hBank : (s.region (orgStackOf ps) (orgRegionOf ps)).banked = false) (hFree : s.regionCompared (orgStackOf ps) (orgRegionOf ps) = false) :
    Begins s q e (.orgPageOut q e) (orgStackOf ps) (orgRegionOf ps) { s.region (orgStackOf ps) (orgRegionOf ps) with
      st := .pageOut, buf := leField ps 8 15, cmd := [{ q := q.toNat, id := s.hif.nextId }] } := by
  obtain ⟨t, hNext, hOnly, hProgress, hRead⟩ := command_begins (kd := orgPageOutKind) (i := .orgPageOut q e)
    (o := (s.modRegion (orgStackOf ps) (orgRegionOf ps)
      (fun x => { x with st := .pageOut, buf := leField ps 8 15, cmd := [{ q := q.toNat, id := s.hif.nextId }] })).orgs)
    rfl h (orgPageOut_check h hBuf hStack hRegion hLen hZero hRsv hAlign) (onlyRegion_modRegion s _ _ _)
    (fun H => (if_neg (not_not_intro hSt)).trans ((if_neg (ne_true_of_eq_false hBank)).trans (if_neg (ne_true_of_eq_false hFree))))
  exact ⟨t, hNext, hOnly, hProgress, hRead.trans ((State.region_modRegion s _ _ _ _).trans (if_pos rfl))⟩

theorem orgPageOut_refuses_state (hSt : (s.region (orgStackOf ps) (orgRegionOf ps)).st ≠ .resident) : Refuses s q e (.orgPageOut q e) 0x29 :=
  command_refused (kd := orgPageOutKind) rfl h (orgPageOut_check h hBuf hStack hRegion hLen hZero hRsv hAlign) (fun _ => if_pos hSt)

theorem orgPageOut_refuses_bank (hSt : (s.region (orgStackOf ps) (orgRegionOf ps)).st = .resident)
    (hBank : (s.region (orgStackOf ps) (orgRegionOf ps)).banked = true) : Refuses s q e (.orgPageOut q e) 0x25 :=
  command_refused (kd := orgPageOutKind) rfl h (orgPageOut_check h hBuf hStack hRegion hLen hZero hRsv hAlign)
    (fun _ => (if_neg (not_not_intro hSt)).trans (if_pos hBank))

end PageOut

/-! ## ORG_UNMAP and ORG_PAGE_IN (R168, R170) -/

section OneRegion

variable (hLen : ps.length = 4) (hRsv : leField ps 1 1 = 0)

include hLen hRsv

theorem orgUnmap_refuses_unmapped (hSt : (s.region (orgStackOf ps) (orgRegionOf ps)).st = .unmapped) : Refuses s q e (.orgUnmap q e) 0x29 :=
  command_refused (kd := orgRegionKind) rfl h (orgRegion_check h hBuf hStack hRegion hLen hRsv) (fun _ => if_pos hSt)

theorem orgUnmap_refuses_claimed (hSt : (s.region (orgStackOf ps) (orgRegionOf ps)).st ≠ .unmapped)
    (hClaimed : s.regionClaimed (orgStackOf ps) (orgRegionOf ps) = true) : Refuses s q e (.orgUnmap q e) 0x24 :=
  command_refused (kd := orgRegionKind) rfl h (orgRegion_check h hBuf hStack hRegion hLen hRsv)
    (fun _ => (if_neg hSt).trans (if_pos (Bool.or_eq_true_iff.mpr (.inl hClaimed))))

theorem orgUnmap_frees (hSt : (s.region (orgStackOf ps) (orgRegionOf ps)).st = .resident ∨ (s.region (orgStackOf ps) (orgRegionOf ps)).st = .spilled)
    (hClaimed : s.regionClaimed (orgStackOf ps) (orgRegionOf ps) = false) (hCompared : s.regionCompared (orgStackOf ps) (orgRegionOf ps) = false)
    (hBank : (s.region (orgStackOf ps) (orgRegionOf ps)).banked = false) (hCmd : (s.region (orgStackOf ps) (orgRegionOf ps)).cmd = [])
    (hWait : (s.stack (orgStackOf ps)).waitIn = []) (hErrors : NoErrors s) :
    ∃ t, exec (.orgUnmap q e) s = .next t ∧ Replied s t q e 0 false 0 0 [] ∧ OnlyRegion s t (orgStackOf ps) (orgRegionOf ps) ∧
      t.region (orgStackOf ps) (orgRegionOf ps) = { s.region (orgStackOf ps) (orgRegionOf ps) with
        st := .unmapped, frame := 0, buf := 0, crc := none, poison := false, cmd := [] } ∧
      BytesKept s t [(regionDa (orgStackOf ps) (orgRegionOf ps) 0, 2 ^ 26)] ∧ t.cores = s.cores := by
  obtain ⟨hMapped, hStill⟩ := still_of_mapped hSt
  obtain ⟨H, H', m, hNext, hReply⟩ := command_replies (k := orgRegionKind) (i := .orgUnmap q e)
    (f := fun H => freed { s with hif := H } (orgStackOf ps) (orgRegionOf ps)) rfl h (orgRegion_check h hBuf hStack hRegion hLen hRsv)
    (fun H _ => (if_neg hMapped).trans
      ((if_neg (ne_true_of_eq_false (Bool.or_eq_false_iff.mpr ⟨hClaimed, hCompared⟩))).trans ((if_neg (ne_true_of_eq_false hBank)).trans
        ((if_neg hStill).trans (congrArg (Act.done · 0 false 0 0) (unmap_eq (s := { s with hif := H }) hErrors hCmd hWait))))))
    (fun _ => rfl) (fun _ => rfl) (fun _ => rfl)
  obtain ⟨hOnly, hAfter, -⟩ := freed_does hWait (orgRegionOf ps)
  obtain ⟨-, hKept⟩ := bytesKept_memWithout (s := s) (t := freed s (orgStackOf ps) (orgRegionOf ps)) rfl
  exact ⟨_, hNext, hReply, hOnly, hAfter, hKept, rfl⟩

theorem orgPageIn_refuses (hSt : (s.region (orgStackOf ps) (orgRegionOf ps)).st ≠ .spilled) : Refuses s q e (.orgPageIn q e) 0x29 :=
  command_refused (kd := orgRegionKind) rfl h (orgRegion_check h hBuf hStack hRegion hLen hRsv) (fun _ => if_pos hSt)

theorem orgPageIn_begins (hSt : (s.region (orgStackOf ps) (orgRegionOf ps)).st = .spilled) {f : Nat}
    (hFree : (s.stack (orgStackOf ps)).freeFrame = some f) :
    Begins s q e (.orgPageIn q e) (orgStackOf ps) (orgRegionOf ps) { s.region (orgStackOf ps) (orgRegionOf ps) with
      st := .pageIn, frame := f, cmd := (s.region (orgStackOf ps) (orgRegionOf ps)).cmd ++ [{ q := q.toNat, id := s.hif.nextId }] } := by
  have hPage := onlyRegion_modRegion s (orgStackOf ps) (orgRegionOf ps) (fun x => { x with st := .pageIn, frame := f })
  have hCmd := onlyRegion_modRegion (s.modRegion (orgStackOf ps) (orgRegionOf ps) (fun x => { x with st := .pageIn, frame := f }))
    (orgStackOf ps) (orgRegionOf ps) (fun x => { x with cmd := x.cmd ++ [{ q := q.toNat, id := s.hif.nextId }] })
  obtain ⟨t, hNext, hOnly, hProgress, hRead⟩ := command_begins (kd := orgRegionKind) (i := .orgPageIn q e)
    rfl h (orgRegion_check h hBuf hStack hRegion hLen hRsv) (OnlyRegion.trans hPage hCmd)
    (fun H => (if_neg (not_not_intro hSt)).trans (congrArg (fun u : State => Act.later (u.modRegion (orgStackOf ps) (orgRegionOf ps)
      (fun x => { x with cmd := x.cmd ++ [{ q := q.toNat, id := s.hif.nextId }] }))) (startPageIn_of_free (s := { s with hif := H }) hFree _)))
  refine ⟨t, hNext, hOnly, hProgress, hRead.trans ?_⟩
  refine (State.region_modRegion _ _ _ _ _).trans ?_
  rw [if_pos rfl, State.region_modRegion, if_pos rfl]

/-! ## BANK_RELEASE (R262) -/

theorem bankRelease_refuses (hBank : (s.region (orgStackOf ps) (orgRegionOf ps)).bank ≠ .bank) : Refuses s q e (.bankRelease q e) 0x29 :=
  command_refused (kd := bankReleaseKind) rfl h (bankRelease_check h hBuf hStack hRegion hLen hRsv) (fun _ => if_pos hBank)

theorem bankRelease_begins (hBank : (s.region (orgStackOf ps) (orgRegionOf ps)).bank = .bank) :
    Begins s q e (.bankRelease q e) (orgStackOf ps) (orgRegionOf ps) { s.region (orgStackOf ps) (orgRegionOf ps) with
      bank := .releasing, relCmpl := none, relWait := s.recQueue (orgStackOf ps), abort := false
      cmd := [{ q := q.toNat, id := s.hif.nextId }] } := by
  obtain ⟨t, hNext, hOnly, hProgress, hRead⟩ := command_begins (kd := bankReleaseKind) (i := .bankRelease q e)
    rfl h (bankRelease_check h hBuf hStack hRegion hLen hRsv) (onlyRegion_modRegion s (orgStackOf ps) (orgRegionOf ps)
      (releasing (s.recQueue (orgStackOf ps)) [{ q := q.toNat, id := s.hif.nextId }]))
    (fun H => (if_neg (not_not_intro hBank)).trans
      (congrArg Act.later (startRelease_of_host (decide_eq_false (ne_of_eq_of_ne hRsv Nat.zero_ne_one)) { s with hif := H }
        (orgStackOf ps) (orgRegionOf ps) [{ q := q.toNat, id := s.hif.nextId }])))
  exact ⟨t, hNext, hOnly, hProgress, hRead.trans ((State.region_modRegion s _ _ _ _).trans ((if_pos rfl).trans (releasing_of_bank hBank ..)))⟩

end OneRegion

/-! ## BANK_ENTER (R258, R259, Table 9.2) -/

section Enter

variable (hLen : ps.length = 8) (hRsv : leField ps 7 7 = 0) (hMode : leField ps 1 1 = 0) (hHandle : leField ps 4 5 < 512) (hNode : leField ps 6 6 = 0)

include hLen hRsv hMode hHandle hNode

theorem bankEnter_refuses_state (hSt : (s.region (orgStackOf ps) (orgRegionOf ps)).st ≠ .resident ∨
    (s.region (orgStackOf ps) (orgRegionOf ps)).banked = true) : Refuses s q e (.bankEnter q e) 0x2C :=
  command_refused (kd := bankEnterKind) rfl h (bankEnter_check h hBuf hStack hRegion hLen hRsv hMode hHandle hNode)
    (fun _ => if_pos (Bool.or_eq_true_iff.mpr (hSt.imp_left decide_eq_true)))

variable (hSt : (s.region (orgStackOf ps) (orgRegionOf ps)).st = .resident) (hBank : (s.region (orgStackOf ps) (orgRegionOf ps)).banked = false)

include hSt hBank

theorem bankEnter_refuses_holder {x : Holder} (hHolder : (s.stack (orgStackOf ps)).holder = some x) (hOther : x ≠ .host) :
    Refuses s q e (.bankEnter q e) 0x2D :=
  command_refused (kd := bankEnterKind) rfl h (bankEnter_check h hBuf hStack hRegion hLen hRsv hMode hHandle hNode)
    (fun H => (if_neg (not_enterState hSt hBank)).trans (if_pos (by
      change (s.stack (orgStackOf ps)).holder.any (· ≠ enterHolder ps) = true
      rw [enterHolder_host hMode, hHolder, Option.any_some, decide_eq_true hOther])))

variable (hHolder : ∀ x, (s.stack (orgStackOf ps)).holder = some x → x = .host)

include hHolder

theorem bankEnter_refuses_handle (hUsed : ¬ HandleFree s (orgStackOf ps) (leField ps 4 5)) : Refuses s q e (.bankEnter q e) 0x2E :=
  command_refused (kd := bankEnterKind) rfl h (bankEnter_check h hBuf hStack hRegion hLen hRsv hMode hHandle hNode)
    (fun _ => (if_neg (not_enterState hSt hBank)).trans ((if_neg (enterHolder_free hMode hHolder)).trans
      (if_pos ((handleUsed_iff s _ _).mpr hUsed))))

theorem bankEnter_refuses_denied (hFree : HandleFree s (orgStackOf ps) (leField ps 4 5))
    (hDenied : enterDenied s (orgStackOf ps) (orgRegionOf ps) .host = true) : Refuses s q e (.bankEnter q e) 0x2F :=
  command_refused (kd := bankEnterKind) rfl h (bankEnter_check h hBuf hStack hRegion hLen hRsv hMode hHandle hNode)
    (fun H => (if_neg (not_enterState hSt hBank)).trans ((if_neg (enterHolder_free hMode hHolder)).trans
      ((if_neg (fun hUsed => (handleUsed_iff s _ _).mp hUsed hFree)).trans (if_pos (by
        change enterDenied s (orgStackOf ps) (orgRegionOf ps) (enterHolder ps) = true
        rw [enterHolder_host hMode, hDenied])))))

theorem bankEnter_begins (hFree : HandleFree s (orgStackOf ps) (leField ps 4 5))
    (hAllowed : enterDenied s (orgStackOf ps) (orgRegionOf ps) .host = false) :
    Begins s q e (.bankEnter q e) (orgStackOf ps) (orgRegionOf ps) { s.region (orgStackOf ps) (orgRegionOf ps) with
      bank := .entering, handle := leField ps 4 5, holder := .host, cmd := [{ q := q.toNat, id := s.hif.nextId }] } := by
  obtain ⟨t, hNext, hOnly, hProgress, hRead⟩ := command_begins (kd := bankEnterKind) (i := .bankEnter q e)
    rfl h (bankEnter_check h hBuf hStack hRegion hLen hRsv hMode hHandle hNode) (onlyRegion_modRegion s (orgStackOf ps) (orgRegionOf ps)
      (fun x => { x with bank := .entering, handle := leField ps 4 5, holder := enterHolder ps, cmd := [{ q := q.toNat, id := s.hif.nextId }] }))
    (fun H => (if_neg (not_enterState hSt hBank)).trans ((if_neg (enterHolder_free hMode hHolder)).trans
      ((if_neg (fun hUsed => (handleUsed_iff s _ _).mp hUsed hFree)).trans (if_neg (by
        change ¬ enterDenied s (orgStackOf ps) (orgRegionOf ps) (enterHolder ps) = true
        rw [enterHolder_host hMode, hAllowed]
        decide)))))
  refine ⟨t, hNext, hOnly, hProgress, hRead.trans ((State.region_modRegion s _ _ _ _).trans ((if_pos rfl).trans ?_))⟩
  rw [enterHolder_host hMode]

end Enter

end Orangery

/-- Settles O42: by its branches each command on a region answers a status, or changes that region alone. -/
theorem hostOrangery : Obligations.HostOrangery := by
  intro s q e ps k r g ref h hBuf hStack hRegion orgs refused
  refine ⟨fun hLen hZero => ⟨fun hMode hPlace hSt hErrors => ⟨fun f hFree => ?_, fun hFull => ?_⟩, fun hMode hAlign hSt => ?_,
      fun hMode hPlace hSt => ?_, fun hRsv hAlign => ⟨fun hSt hBank hFree => ?_, fun hSt => ?_, fun hSt hBank => ?_⟩⟩,
    fun hLen hRsv => ⟨fun hSt hClaimed hCompared hBank hCmd hWait hErrors => ?_, fun hSt => ?_, fun hSt hClaimed => ?_, fun f hSt hFree => ?_,
      fun hSt => ?_, fun hBank => ?_, fun hBank => ?_⟩,
    fun hLen hRsv hMode hHandle hNode => ?_⟩
  · exact orgMap_resident h hBuf hStack hRegion hLen hZero hMode hPlace hSt hErrors hFree
  · exact orgMap_refuses h hBuf hStack hRegion hLen hZero hMode hPlace (fun H => orgMapAct_of_full (s := { s with hif := H }) hSt hFull hMode _)
  · exact orgMap_spills h hBuf hStack hRegion hLen hZero hMode hAlign hSt
  · exact orgMap_refuses h hBuf hStack hRegion hLen hZero hMode hPlace (fun H => orgMapAct_of_mapped (s := { s with hif := H }) hSt _ _)
  · exact orgPageOut_begins h hBuf hStack hRegion hLen hZero hRsv hAlign hSt hBank hFree
  · exact orgPageOut_refuses_state h hBuf hStack hRegion hLen hZero hRsv hAlign hSt
  · exact orgPageOut_refuses_bank h hBuf hStack hRegion hLen hZero hRsv hAlign hSt hBank
  · exact orgUnmap_frees h hBuf hStack hRegion hLen hRsv hSt hClaimed hCompared hBank hCmd hWait hErrors
  · exact orgUnmap_refuses_unmapped h hBuf hStack hRegion hLen hRsv hSt
  · exact orgUnmap_refuses_claimed h hBuf hStack hRegion hLen hRsv hSt hClaimed
  · exact orgPageIn_begins h hBuf hStack hRegion hLen hRsv hSt hFree
  · exact orgPageIn_refuses h hBuf hStack hRegion hLen hRsv hSt
  · exact bankRelease_begins h hBuf hStack hRegion hLen hRsv hBank
  · exact bankRelease_refuses h hBuf hStack hRegion hLen hRsv hBank
  · refine ⟨fun hSt hBank hHolder => ⟨fun hFree hAllowed => ?_, fun hUsed => ?_, fun hFree hDenied => ?_⟩, fun hSt => ?_,
      fun hSt hBank ⟨x, hHolder, hOther⟩ => ?_⟩
    · exact bankEnter_begins h hBuf hStack hRegion hLen hRsv hMode hHandle hNode hSt hBank hHolder hFree hAllowed
    · exact bankEnter_refuses_handle h hBuf hStack hRegion hLen hRsv hMode hHandle hNode hSt hBank hHolder hUsed
    · exact bankEnter_refuses_denied h hBuf hStack hRegion hLen hRsv hMode hHandle hNode hSt hBank hHolder hFree hDenied
    · exact bankEnter_refuses_state h hBuf hStack hRegion hLen hRsv hMode hHandle hNode hSt
    · exact bankEnter_refuses_holder h hBuf hStack hRegion hLen hRsv hMode hHandle hNode hSt hBank hHolder hOther

end Sys2Proof.Machine
end

section
/-! PROOFS. Identity, settings and notifications of the host. -/

namespace Sys2Proof.Machine

open Sys2Proof

/-! ## Bytes of a structure (R7) -/

theorem length_leBytes (n v : Nat) : (leBytes n v).length = n := by
  induction n generalizing v with
  | zero => rfl
  | succ n ih => rw [leBytes, List.length_cons, ih]

theorem leNat_leBytes (n v : Nat) : leNat (leBytes n v) = v % 256 ^ n := by
  induction n generalizing v with
  | zero => exact (Nat.mod_one v).symm
  | succ n ih =>
    rw [leBytes, leNat, ih, BitVec.toNat_ofNat, Nat.mod_mod, pow_succ', Nat.mod_mul]

theorem leField_append_left {a : List Byte} {hi : Nat} (h : a.length = hi + 1) (b : List Byte) : leField (a ++ b) 0 hi = leNat a := by
  rw [leField, List.drop_zero, Nat.sub_zero, ← h, List.take_left]

theorem leField_append_right {a : List Byte} {lo hi : Nat} (h : a.length ≤ lo) (hOrder : lo ≤ hi) (b : List Byte) :
    leField (a ++ b) lo hi = leField b (lo - a.length) (hi - a.length) := by
  rw [leField, leField, List.drop_append, List.drop_eq_nil_of_le h, List.nil_append, show hi - a.length + 1 - (lo - a.length) = hi + 1 - lo by omega]

/-! ## A command that writes the host's buffer -/

section WritingCommand

variable {s : State} {q : BitVec 16} {e : Entry} {ps : List Byte} {k : CmdKind} {i : Instr} {act : CmdRun → State → Act}

/-- A command that passes the checks does what its own rules answer for the host interface that has taken it. -/
theorem exec_answers (hExec : exec i s = hostRun i k q e s act) (h : HostReady s q e ps)
    (hCheck : checkCmd s k q.toNat e ps (inputOf s (k.buf ps) e) = 0) {a : Hif → Act}
    (hAct : ∀ H, act (runOf s k q.toNat e ps) { s with hif := H } = a H) :
    exec i s = .next (answered (taken s k q.toNat e) i { q := q.toNat, id := s.hif.nextId } (a (taken s k q.toNat e).hif)) := by
  obtain ⟨qs, hTaken⟩ := taken_eq s k q.toNat e
  have hSame : { s with hif := (taken s k q.toNat e).hif } = taken s k q.toNat e := by rw [hTaken]
  rw [hExec, hostRun_of_passes h i act hCheck, ← hAct, hSame]

/-- What its completion leaves of a command's effect, and the reply. -/
theorem completeCmd_leaves (h : HostReady s q e ps) {t : State} (hHif : t.hif = (taken s k q.toNat e).hif) (hBad : t.hostBad = s.hostBad)
    {ws : List (Nat × List Byte)} (hMem : t.hostMem = (ws.foldl (fun u w => u.hostPut w.1 w.2) s).hostMem) (status : Nat) (ign : Bool) (r0 r1 : Nat) :
    ∃ H m, completeCmd t { q := q.toNat, id := s.hif.nextId } status ign r0 r1 = { t with hif := H, hostMem := m } ∧
      Replied s { t with hif := H, hostMem := m } q e status ign r0 r1 ws := by
  have hReply := completeCmd_replied h hHif hBad hMem status ign r0 r1
  obtain ⟨H, m, hOnly⟩ := completeCmd_hostOnly t { q := q.toNat, id := s.hif.nextId } status ign r0 r1
  rw [hOnly] at hReply
  exact ⟨H, m, hOnly, hReply⟩

/-- `command_replies` for a command that also writes the bytes `ws` for the host. -/
theorem command_writes (hExec : exec i s = hostRun i k q e s act) (h : HostReady s q e ps)
    (hCheck : checkCmd s k q.toNat e ps (inputOf s (k.buf ps) e) = 0) {f : Hif → State} {status : Nat} {ign : Bool} {r0 r1 : Nat}
    {ws : List (Nat × List Byte)} (hAct : ∀ H, act (runOf s k q.toNat e ps) { s with hif := H } = .done (f H) status ign r0 r1)
    (hHif : ∀ H, (f H).hif = H) (hBad : ∀ H, (f H).hostBad = s.hostBad)
    (hMem : ∀ H, (f H).hostMem = (ws.foldl (fun u w => u.hostPut w.1 w.2) s).hostMem) :
    ∃ H H' m, exec i s = .next { f H with hif := H', hostMem := m } ∧ Replied s { f H with hif := H', hostMem := m } q e status ign r0 r1 ws := by
  obtain ⟨H', m, hLeaves, hReply⟩ := completeCmd_leaves h (hHif _) (hBad _) (hMem _) status ign r0 r1
  exact ⟨_, H', m, (exec_answers hExec h hCheck hAct).trans (congrArg Host.Outcome.next hLeaves), hReply⟩

end WritingCommand

/-! ## IDENTIFY (Table 13.10) -/

theorem identity_fields (s : State) : (identity s).length = 256 ∧ leField (identity s) 0 7 = fused s (fun m => m.serial.toNat) ∧
    leField (identity s) 8 13 = fused s (fun m => m.mac.toNat) ∧ leField (identity s) 16 17 = s.partIndex % 65536 ∧
    leField (identity s) 20 23 = s.fwVersion 1 % 2 ^ 32 := by
  have hSerial : fused s (fun m => m.serial.toNat) < 256 ^ 8 := by
    unfold fused
    cases s.boot.fuse with
    | none => decide
    | some m => exact m.serial.isLt
  have hMac : fused s (fun m => m.mac.toNat) < 256 ^ 6 := by
    unfold fused
    cases s.boot.fuse with
    | none => decide
    | some m => exact m.mac.isLt
  unfold identity
  simp only [List.append_assoc]
  refine ⟨?_, ?_, ?_, ?_, ?_⟩
  · simp only [List.length_append, length_leBytes, List.length_replicate]
  · rw [leField_append_left (length_leBytes _ _), leNat_leBytes, Nat.mod_eq_of_lt hSerial]
  · rw [leField_append_right (by rw [length_leBytes]) (by decide), length_leBytes, leField_append_left (length_leBytes _ _), leNat_leBytes,
      Nat.mod_eq_of_lt hMac]
  · iterate 3 rw [leField_append_right (by simp [length_leBytes]) (by simp), length_leBytes]
    rw [leField_append_left (length_leBytes _ _), leNat_leBytes]
    norm_num
  · iterate 5 rw [leField_append_right (by simp [length_leBytes]) (by simp), length_leBytes]
    rw [leField_append_left (length_leBytes _ _), leNat_leBytes]
    norm_num

def identifyKind : CmdKind := { CmdKind.basic true true [0] (fun _ => false) (fun _ => true) with buf := fun _ => .output 256 }

section Identity

variable {s : State} {q : BitVec 16} {e : Entry} {ps : List Byte} (h : HostReady s q e ps)

include h

theorem identify_answers (hPs : ps = []) (hBuf : HasBuffer s e 256) : ∃ t bs, exec (.identify q e) s = .next t ∧
    t = { s with hif := t.hif, hostMem := t.hostMem } ∧ Replied s t q e 0 false 0 0 [(e.daddr.toNat, bs)] ∧ bs.length = 256 ∧
    leField bs 0 7 = fused s (fun m => m.serial.toNat) ∧ leField bs 8 13 = fused s (fun m => m.mac.toNat) ∧
    leField bs 16 17 = s.partIndex % 65536 ∧ leField bs 20 23 = s.fwVersion 1 % 2 ^ 32 := by
  obtain ⟨hLen, hAnswers⟩ := hBuf
  obtain ⟨H, H', m, hNext, hReply⟩ := command_writes (k := identifyKind) (i := .identify q e) (ws := [(e.daddr.toNat, identity s)])
    (f := fun H => ({ s with hif := H } : State).hostPut e.daddr.toNat (identity s)) rfl h
    (checkCmd_passes h (by rw [hPs]; exact List.mem_singleton_self _) rfl rfl rfl rfl (Nat.le_of_eq hLen.symm))
    (fun H => if_neg (ne_true_of_eq_false hAnswers)) (fun _ => rfl) (fun _ => rfl) (fun _ => rfl)
  exact ⟨_, _, hNext, rfl, hReply, identity_fields s⟩

/-! ## Settings (R388, Table 13.12) -/

def settingSetKind : CmdKind :=
  { CmdKind.basic true false [16] (fun ps => !allZero ((ps.drop 2).take 6)) (fun _ => true) with expert := true }

omit h in
theorem allZero_zeros (n : Nat) : allZero (List.replicate n 0) = true := by
  rw [allZero, List.all_replicate]
  simp

/-- `checkCmd_passes` for an expert command on a queue whose expert flag is effective (R379). -/
theorem checkCmd_passes_expert {kd : CmdKind} {data : List Byte} (hLen : ps.length ∈ kd.plens) (hRsv : kd.rsv ps data = false)
    (hQueue : s.expertQueue q.toNat = true) (hRange : kd.range ps = true) (hBuf : BufferFits s (kd.buf ps) e) :
    checkCmd s kd q.toNat e ps data = 0 := by
  obtain ⟨hTakes, hReserved, hReady, hFatal⟩ := h
  simp [checkCmd, hReserved, hTakes.cmdDmaFails hBuf, hRsv, hQueue, hReady, hFatal, hTakes.paramBad hLen hRange hBuf]

section SettingSet

variable (hLen : ps.length = 16) (hZero : (ps.drop 2).take 6 = List.replicate 6 0) (hBuf : NoBuffer e) (hQueue : s.expertQueue q.toNat = true)

include hLen hZero hBuf hQueue

theorem settingSet_check : checkCmd s settingSetKind q.toNat e ps (inputOf s (settingSetKind.buf ps) e) = 0 :=
  checkCmd_passes_expert h (List.mem_singleton.mpr hLen) (by
    change (!allZero ((ps.drop 2).take 6)) = false
    rw [hZero, allZero_zeros]
    rfl) hQueue rfl hBuf

theorem settingSet_sets {d lo hi : Nat} (hInfo : settingInfo s (leField ps 0 1) = some (d, lo, hi)) (hLow : lo ≤ leField ps 8 15)
    (hHigh : leField ps 8 15 ≤ hi) :
    ∃ t, exec (.settingSet q e) s = .next t ∧ t = { s with hif := t.hif, hostMem := t.hostMem, settings := t.settings } ∧
      Replied s t q e 0 false 0 0 [] ∧ t.setting (leField ps 0 1) d = leField ps 8 15 ∧
      ∀ k, k ≠ leField ps 0 1 → ∀ x, t.setting k x = s.setting k x := by
  obtain ⟨H, H', m, hNext, hReply⟩ := command_replies (k := settingSetKind) (i := .settingSet q e)
    (f := fun H => { s with
      hif := H
      settings := Tbl.set none s.settings (leField ps 0 1) (if leField ps 8 15 = d then none else some (leField ps 8 15)) }) rfl h
    (settingSet_check h hLen hZero hBuf hQueue)
    (fun H _ => by
      dsimp only [runOf]
      rw [show settingInfo { s with hif := H } (leField ps 0 1) = some (d, lo, hi) from hInfo]
      exact if_neg (by simp [hLow, hHigh]))
    (fun _ => rfl) (fun _ => rfl) (fun _ => rfl)
  refine ⟨_, hNext, rfl, hReply, ?_, fun k hk x => ?_⟩
  · rw [State.setting, Tbl.get_set, if_pos rfl]
    split
    next hSame => exact hSame.symm
    next => rfl
  · rw [State.setting, Tbl.get_set, if_neg hk, State.setting]

theorem settingSet_refuses (hWhy : settingInfo s (leField ps 0 1) = none ∨
      ∃ d lo hi, settingInfo s (leField ps 0 1) = some (d, lo, hi) ∧ (leField ps 8 15 < lo ∨ hi < leField ps 8 15)) :
    Refuses s q e (.settingSet q e) 0x03 :=
  command_refused (kd := settingSetKind) rfl h (settingSet_check h hLen hZero hBuf hQueue) (fun H => by
    dsimp only [runOf]
    rcases hWhy with hInfo | ⟨d, lo, hi, hInfo, hOut⟩
    · rw [show settingInfo { s with hif := H } (leField ps 0 1) = none from hInfo]
    · rw [show settingInfo { s with hif := H } (leField ps 0 1) = some (d, lo, hi) from hInfo]
      exact if_pos (by simpa using hOut))

end SettingSet

def settingGetKind : CmdKind := CmdKind.basic true false [2] (fun _ => false) (fun _ => true)

theorem settingGet_answers (hLen : ps.length = 2) (hBuf : NoBuffer e) {d lo hi : Nat}
    (hInfo : settingInfo s (leField ps 0 1) = some (d, lo, hi)) : ∃ t, exec (.settingGet q e) s = .next t ∧
      t = { s with hif := t.hif, hostMem := t.hostMem } ∧ Replied s t q e 0 false (s.setting (leField ps 0 1) d) 0 [] := by
  obtain ⟨H, H', m, hNext, hReply⟩ := command_replies (k := settingGetKind) (i := .settingGet q e) (f := fun H => { s with hif := H })
    (status := 0) (ign := false) (r0 := s.setting (leField ps 0 1) d) (r1 := 0) rfl h
    (checkCmd_passes h (List.mem_singleton.mpr hLen) rfl rfl rfl rfl hBuf)
    (fun H _ => by
      dsimp only [runOf]
      rw [show settingInfo { s with hif := H } (leField ps 0 1) = some (d, lo, hi) from hInfo]
      rfl)
    (fun _ => rfl) (fun _ => rfl) (fun _ => rfl)
  exact ⟨_, hNext, rfl, hReply⟩

/-! ## NOTE_READ (R389, Table 13.13) -/

def noteReadKind : CmdKind :=
  { CmdKind.basic true true [4] (fun _ => false) (fun ps => 1 ≤ leField ps 2 3 && leField ps 2 3 ≤ 256) with
    buf := fun ps => .output (128 * leField ps 2 3) }

omit h in
/-- A `NOTE_READ` from the oldest record passes over none. -/
theorem skip_oldest {n : NoteState} {x : Note} (hHead : n.log.head? = some x) (hNext : x.seq ≠ n.next) : n.skip x.seq = 0 := by
  unfold NoteState.skip
  rw [if_neg hNext, hHead]
  simp

omit h in
theorem map_zipIdx_read (l : List Note) :
    l.zipIdx.map (fun e => if 0 ≤ e.2 && e.2 < 0 + l.length then { e.1 with read := true } else e.1) = l.map (fun n => { n with read := true }) := by
  refine List.ext_getElem (by simp) fun j hj _ => ?_
  have hLt : j < l.length := by simpa using hj
  simp [hLt]

/-- The part once every record stands in the host's buffer and the log is `log`. -/
def recordsRead (s : State) (a : Nat) (log : List Note) : State :=
  { s.hostPut a (s.notes.log.flatMap Note.bytes) with notes := { s.notes with log := log } }

omit h in
/-- Where the host answers a buffer it answers the start of it. -/
theorem hostFails_of_le {a n m : Nat} (hFails : s.hostFails a n = false) (hle : m ≤ n) : s.hostFails a m = false := by
  rw [State.hostFails, Bool.and_eq_false_iff] at hFails ⊢
  by_cases hm : m = 0
  · exact .inl (by simp [hm])
  · refine .inr (List.any_eq_false.mpr fun i hi => ?_)
    have hPages := List.any_eq_false.mp (hFails.resolve_left (by simp; omega))
    refine hPages i (List.mem_range.mpr (lt_of_lt_of_le (List.mem_range.mp hi) ?_))
    have hDiv : (a + m - 1) / 4096 ≤ (a + n - 1) / 4096 := Nat.div_le_div_right (by omega)
    omega

theorem noteRead_answers (hLen : ps.length = 4) (hOne : 1 ≤ leField ps 2 3) (hMost : leField ps 2 3 ≤ 256)
    (hBuf : HasBuffer s e (128 * leField ps 2 3)) (hRoom : s.notes.log.length ≤ leField ps 2 3) {n : Note}
    (hHead : s.notes.log.head? = some n) (hSeq : n.seq.toNat = leField ps 0 1) (hNew : n.seq ≠ s.notes.next) :
    ∃ t, exec (.noteRead q e) s = .next t ∧ t = { s with hif := t.hif, hostMem := t.hostMem, notes := t.notes } ∧
      Replied s t q e 0 false s.notes.log.length 0 [(e.daddr.toNat, s.notes.log.flatMap Note.bytes)] ∧
      t.notes = { s.notes with log := s.notes.log.map (fun n => { n with read := true }) } := by
  obtain ⟨hDlen, hAnswers⟩ := hBuf
  have hSkip : s.notes.skip (BitVec.ofNat 16 (leField ps 0 1)) = 0 := by
    rw [← hSeq, BitVec.ofNat_toNat, BitVec.setWidth_eq]
    exact skip_oldest hHead hNew
  obtain ⟨H, H', m, hNext, hReply⟩ := command_writes (k := noteReadKind) (i := .noteRead q e)
    (ws := [(e.daddr.toNat, s.notes.log.flatMap Note.bytes)])
    (f := fun H => recordsRead { s with hif := H } e.daddr.toNat (s.notes.log.map (fun n => { n with read := true }))) rfl h
    (checkCmd_passes h (List.mem_singleton.mpr hLen) rfl rfl rfl (by simp [noteReadKind, CmdKind.basic, hOne, hMost]) (Nat.le_of_eq hDlen.symm))
    (fun H => by
      dsimp only [runOf]
      rw [hSkip, List.drop_zero, List.take_of_length_le hRoom]
      exact (if_neg (ne_true_of_eq_false (hostFails_of_le hAnswers (Nat.mul_le_mul_left 128 hRoom)))).trans
        (congrArg (fun log => Act.done (recordsRead { s with hif := H } e.daddr.toNat log) 0 false s.notes.log.length 0)
          (map_zipIdx_read s.notes.log)))
    (fun _ => rfl) (fun _ => rfl) (fun _ => rfl)
  exact ⟨_, hNext, rfl, hReply, rfl⟩

end Identity

theorem hostIdentity : HostIdentity := by
  intro s q e ps h
  refine ⟨fun hPs hBuf => identify_answers h hPs hBuf,
    fun hLen hZero hBuf hQueue => ⟨fun d lo hi hInfo hLow hHigh => ?_, fun hWhy => ?_⟩,
    fun hLen hBuf d lo hi hInfo => settingGet_answers h hLen hBuf hInfo,
    fun hLen hOne hMost hBuf hRoom ⟨n, hHead, hSeq, hNew⟩ => noteRead_answers h hLen hOne hMost hBuf hRoom hHead hSeq hNew⟩
  · exact settingSet_sets h hLen hZero hBuf hQueue hInfo hLow hHigh
  · exact settingSet_refuses h hLen hZero hBuf hQueue hWhy

end Sys2Proof.Machine
end

section
/-! PROOFS. Control accesses and routes of the host. -/

namespace Sys2Proof.Machine

open Sys2Proof

/-! ## The window's scratch word (Table 19.3) -/

/-- The DA of `GLB_SCRATCH`. -/
def scratchDa : Nat := mkDa 8 0xFFF 0x2C

theorem ctrlStatus_scratch (s : State) : ctrlStatus s scratchDa = 0 := by
  have hPresent : s.unitPresent 8 0xFFF = true := by simp [State.unitPresent]
  rw [ctrlStatus, if_neg (by decide), show daUnit scratchDa = 0xFFF by decide, hPresent, if_neg (by decide), if_neg (by decide)]

theorem ctrlRead_scratch (s : State) (who : Nat) : ctrlRead s who 0xFFF 0x2C = (s.mgmt.scratch, s.drawn 4) := rfl

theorem ctrlWrite_scratch (s : State) (expert : Bool) (v : Word) :
    ctrlWrite s expert 0xFFF 0x2C v = ({ s with mgmt := { s.mgmt with scratch := v } }, false) := by
  have hTakes : winTake s expert 0x2C v = ({ s with mgmt := { s.mgmt with scratch := v } }, 0xFFFFFFFF) := rfl
  rw [ctrlWrite, if_pos rfl, writeWindow, hTakes]
  refine Prod.ext rfl ?_
  simp [ignored]

theorem severed_of_calm {s : State} (h : Calm s) (a b : Nat) : s.severed a b = false := by
  rw [State.severed, State.cutAt, if_pos h.1]
  rfl

theorem routeHeld_of_calm {s : State} (h : Calm s) (a b : Nat) : s.routeHeld a b = false := by
  have hRetune : s.bundles.any (fun e => e.2.retuning) = false := by simpa using h.2
  rw [State.routeHeld, hRetune, Bool.false_and]

/-- A control access that no failed link drops and no retune holds is carried out. -/
theorem ctrlCommand_of_calm {s : State} (hCalm : Calm s) {da : Nat} (hRow : s.namesBusyRow da = false) (hStatus : ctrlStatus s da = 0) (act : Act) :
    ctrlCommand s da act = act := by
  have hCut : (s.ctrlEnd da).bind (s.cutAt 0x398) = none := by
    cases s.ctrlEnd da with
    | none => rfl
    | some b => rw [Option.bind_some, State.cutAt, if_pos hCalm.1]
  have hHeld : (s.ctrlEnd da).any (s.routeHeld 0x398) = false := by
    cases s.ctrlEnd da with
    | none => rfl
    | some b => exact routeHeld_of_calm hCalm 0x398 b
  unfold ctrlCommand
  rw [if_neg (ne_true_of_eq_false hRow), hStatus, hCut]
  exact if_neg (ne_true_of_eq_false hHeld)

theorem ctrlCommand_refused {s : State} {da : Nat} (hRow : s.namesBusyRow da = false) (hStatus : ctrlStatus s da ≠ 0) (act : Act) :
    ctrlCommand s da act = .status s (ctrlStatus s da) := by
  unfold ctrlCommand
  rw [if_neg (ne_true_of_eq_false hRow)]
  split
  next h => exact (hStatus h).elim
  next => rfl

/-! ## A route reads the Trellis alone (R230 to R232) -/

section RouteReads

variable {s t : State} (h : t.tr = s.tr)

include h

theorem State.router_congr (b : Nat) : t.router b = s.router b := by rw [State.router, h, State.router]

theorem State.inGraph_congr (e : Nat) : t.inGraph e = s.inGraph e := by
  rw [State.inGraph, State.inGraph, State.router_congr h, State.router_congr h]

theorem State.passable_congr (a : Nat) (l : List Nat) : t.passable a l = s.passable a l := by
  induction l generalizing a with
  | nil => exact State.inGraph_congr h a
  | cons b l ih => rw [State.passable, State.passable, State.inGraph_congr h, h, ih]

theorem State.gatePath_congr (a : Nat) : t.gatePath a = s.gatePath a := by
  have hPassable : t.passable = s.passable := funext fun a => funext fun l => State.passable_congr h a l
  rw [State.gatePath, State.gatePath, hPassable]

theorem State.lane0_congr (a b : Nat) : t.lane0 a b = s.lane0 a b := by
  have hPlinth (a e : Nat) : t.sitePlinth a e = s.sitePlinth a e := by rw [State.sitePlinth, State.sitePlinth, State.gatePath_congr h]
  rw [State.lane0, State.lane0, hPlinth, hPlinth]

theorem State.lane0Ok_congr (a b : Nat) : t.lane0Ok a b = s.lane0Ok a b := by
  rw [State.lane0Ok, State.lane0Ok, State.lane0_congr h]
  cases s.lane0 a b with
  | none => rfl
  | some p => exact State.passable_congr h a p

theorem State.lane1Next_congr : t.lane1Next = s.lane1Next := by
  funext e
  have hIn : t.inGraph = s.inGraph := funext (State.inGraph_congr h)
  have hUp : t.upMove = s.upMove := funext fun a => funext fun b => by
    rw [State.upMove, State.upMove, State.router_congr h, State.router_congr h]
  rw [State.lane1Next, State.lane1Next, hIn, hUp, h]

theorem lane1Search_congr (b k d : Nat) (seen frontier : List (Nat × Bool)) :
    lane1Search t b k d seen frontier = lane1Search s b k d seen frontier := by
  induction k generalizing d seen frontier with
  | zero => rfl
  | succ k ih => rw [lane1Search, lane1Search, State.lane1Next_congr h, ih]

theorem State.route_congr (a b : Nat) : t.route a b = s.route a b := by
  rw [State.route, State.route, State.lane0Ok_congr h, State.lane0_congr h]
  dsimp only
  rw [lane1Search_congr h]

end RouteReads

section Control

variable {s : State} {q : BitVec 16} {e : Entry} {ps : List Byte} (h : HostReady s q e ps) (hBuf : NoBuffer e)

include h hBuf

theorem ctrl_check {n : Nat} {write : Bool} (hLen : ps.length = n) (hDa : memDa ps < 2 ^ 56) :
    checkCmd s (ctrlKind n write) q.toNat e ps (inputOf s ((ctrlKind n write).buf ps) e) = 0 :=
  checkCmd_passes h (List.mem_singleton.mpr hLen) (decide_eq_false (Nat.not_le.mpr hDa)) rfl rfl rfl hBuf

section Scratch

variable (hCalm : Calm s) (hRow : s.namesBusyRow (memDa ps) = false) (hDa : memDa ps = scratchDa)

include hCalm hRow hDa

theorem ctrlRead_answers (hLen : ps.length = 8) : ∃ t, exec (.ctrlRead q e) s = .next t ∧
    t = { s with hif := t.hif, hostMem := t.hostMem, draws := t.draws } ∧ Replied s t q e 0 false s.mgmt.scratch.toNat 0 [] := by
  obtain ⟨H, H', m, hNext, hReply⟩ := command_replies (k := ctrlKind 8 false) (i := .ctrlRead q e)
    (f := fun H => ({ s with hif := H } : State).drawn 4) (status := 0) (ign := false) (r0 := s.mgmt.scratch.toNat) (r1 := 0)
    rfl h (ctrl_check h hBuf hLen (by rw [hDa]; decide))
    (fun H _ => by
      dsimp only [runOf]
      rw [ctrlCommand_of_calm (s := { s with hif := H }) hCalm hRow ((congrArg _ hDa).trans (ctrlStatus_scratch _)), hDa]
      rfl)
    (fun _ => rfl) (fun _ => rfl) (fun _ => rfl)
  exact ⟨_, hNext, rfl, hReply⟩

theorem ctrlWrite_writes (hLen : ps.length = 12) : ∃ t, exec (.ctrlWrite q e) s = .next t ∧
    t = { s with hif := t.hif, hostMem := t.hostMem, mgmt := { s.mgmt with scratch := BitVec.ofNat 32 (leField ps 8 11) } } ∧
    Replied s t q e 0 false 0 0 [] := by
  obtain ⟨H, H', m, hNext, hReply⟩ := command_replies (k := ctrlKind 12 true) (i := .ctrlWrite q e)
    (f := fun H => { s with hif := H, mgmt := { s.mgmt with scratch := BitVec.ofNat 32 (leField ps 8 11) } })
    (status := 0) (ign := false) (r0 := 0) (r1 := 0)
    rfl h (ctrl_check h hBuf hLen (by rw [hDa]; decide))
    (fun H _ => by
      dsimp only [runOf]
      rw [ctrlCommand_of_calm (s := { s with hif := H }) hCalm hRow ((congrArg _ hDa).trans (ctrlStatus_scratch _)), hDa,
        show daUnit scratchDa = 0xFFF by decide, show daOfs scratchDa = 0x2C by decide, ctrlWrite_scratch])
    (fun _ => rfl) (fun _ => rfl) (fun _ => rfl)
  exact ⟨_, hNext, rfl, hReply⟩

end Scratch

theorem ctrl_refuses (hRow : s.namesBusyRow (memDa ps) = false) (hDa : memDa ps < 2 ^ 56) (hStatus : ctrlStatus s (memDa ps) ≠ 0) {i : Instr}
    (hCommand : (ps.length = 8 ∧ i = .ctrlRead q e) ∨ (ps.length = 12 ∧ i = .ctrlWrite q e)) :
    Refuses s q e i (ctrlStatus s (memDa ps)) := by
  rcases hCommand with ⟨hLen, rfl⟩ | ⟨hLen, rfl⟩
  · exact command_refused (kd := ctrlKind 8 false) rfl h (ctrl_check h hBuf hLen hDa)
      (fun H => ctrlCommand_refused (s := { s with hif := H }) hRow hStatus _)
  · exact command_refused (kd := ctrlKind 12 true) rfl h (ctrl_check h hBuf hLen hDa)
      (fun H => ctrlCommand_refused (s := { s with hif := H }) hRow hStatus _)

/-! ## ROUTE_QUERY (R232) -/

section Route

variable (hLen : ps.length = 4) (hFrom : isEndpoint (leField ps 0 1) = true) (hTo : isEndpoint (leField ps 2 3) = true)

include hLen hFrom hTo

def routeQueryKind : CmdKind :=
  CmdKind.basic false false [4] (fun _ => false) (fun ps => isEndpoint (leField ps 0 1) && isEndpoint (leField ps 2 3))

theorem routeQuery_check : checkCmd s routeQueryKind q.toNat e ps (inputOf s (routeQueryKind.buf ps) e) = 0 :=
  checkCmd_passes h (List.mem_singleton.mpr hLen) rfl rfl rfl (Bool.and_eq_true_iff.mpr ⟨hFrom, hTo⟩) hBuf

theorem routeQuery_answers (hIn : s.inGraph (leField ps 0 1) = true) (hIn' : s.inGraph (leField ps 2 3) = true) :
    ∃ t, exec (.routeQuery q e) s = .next t ∧ t = { s with hif := t.hif, hostMem := t.hostMem } ∧
      Replied s t q e 0 false ((s.route (leField ps 0 1) (leField ps 2 3)).1 + 256 * ((s.route (leField ps 0 1) (leField ps 2 3)).2 % 256)) 0 [] := by
  obtain ⟨H, H', m, hNext, hReply⟩ := command_replies (k := routeQueryKind) (i := .routeQuery q e) (f := fun H => { s with hif := H })
    (status := 0) (ign := false)
    (r0 := (s.route (leField ps 0 1) (leField ps 2 3)).1 + 256 * ((s.route (leField ps 0 1) (leField ps 2 3)).2 % 256)) (r1 := 0)
    rfl h (routeQuery_check h hBuf hLen hFrom hTo)
    (fun H _ => by
      dsimp only [runOf]
      rw [State.route_congr (t := { s with hif := H }) (s := s) rfl]
      exact if_neg (by
        change ¬ (!s.inGraph (leField ps 0 1) || !s.inGraph (leField ps 2 3)) = true
        rw [hIn, hIn']
        decide))
    (fun _ => rfl) (fun _ => rfl) (fun _ => rfl)
  exact ⟨_, hNext, rfl, hReply⟩

theorem routeQuery_refuses (hOut : s.inGraph (leField ps 0 1) = false ∨ s.inGraph (leField ps 2 3) = false) :
    Refuses s q e (.routeQuery q e) 0x21 :=
  command_refused (kd := routeQueryKind) rfl h (routeQuery_check h hBuf hLen hFrom hTo) (fun H => if_pos (by
    change (!s.inGraph (leField ps 0 1) || !s.inGraph (leField ps 2 3)) = true
    rcases hOut with hOut | hOut <;> simp [hOut]))

end Route

end Control

end Sys2Proof.Machine
end

section
/-! PROOFS. Good bytes written to any store that holds no error. -/

namespace Sys2Proof.Machine

open Sys2Proof

/-! ## The code of good bytes (R197, R201 to R203) -/

/-- Memory holds no error pattern in its words, no queued write-back, and no merge entry with a bad byte. -/
def GoodWords (s : State) : Prop := s.mem.flaws = [] ∧ s.mem.writeBacks = [] ∧ ∀ e ∈ s.mem.merges, e.bad = 0

/-- Only memory differs, and in it no byte; it holds good words still. -/
def Coded (s t : State) : Prop := (∃ m, t = { s with mem := m } ∧ m.bytes = s.mem.bytes) ∧ GoodWords t

theorem Coded.refl {s : State} (h : GoodWords s) : Coded s s := ⟨⟨s.mem, rfl, rfl⟩, h⟩

theorem Coded.trans {s t u : State} (h : Coded s t) (h' : Coded t u) : Coded s u := by
  obtain ⟨⟨m, rfl, hBytes⟩, -⟩ := h
  obtain ⟨⟨m', rfl, hBytes'⟩, hGood⟩ := h'
  exact ⟨⟨m', rfl, hBytes'.trans hBytes⟩, hGood⟩

theorem setValid_coded {s : State} (h : GoodWords s) (l : Nat) : Coded s (setValid s l) := by
  obtain ⟨hFlaws, hBacks, hMerges⟩ := h
  unfold setValid
  split
  next => exact .refl ⟨hFlaws, hBacks, hMerges⟩
  next =>
    refine ⟨⟨_, rfl, rfl⟩, ?_, hBacks, hMerges⟩
    dsimp only
    rw [hFlaws]
    rfl

theorem countClose_coded {s : State} (h : GoodWords s) (w : Nat) (rmw : Bool) : Coded s (countClose s w rmw) := by
  unfold countClose
  split
  next =>
    unfold State.modErr
    split
    next => exact .refl h
    next => exact ⟨⟨_, rfl, rfl⟩, h⟩
  next => exact .refl h

theorem storeWord_coded {s : State} (h : GoodWords s) (w : Nat) : Coded s (storeWord s w false) := by
  obtain ⟨hSame, hGood⟩ := setValid_coded h (w / 64)
  have hErased (t : State) (ht : GoodWords t) : Coded t { t with mem := { t.mem with flaws := Tbl.erase t.mem.flaws w } } := by
    obtain ⟨hFlaws, hBacks, hMerges⟩ := ht
    refine ⟨⟨_, rfl, rfl⟩, ?_, hBacks, hMerges⟩
    dsimp only
    rw [hFlaws]
    rfl
  have hHeld (t : State) (ht : GoodWords t) (l : List HeldWrite) : Coded t { t with mem := { t.mem with held := l } } := ⟨⟨_, rfl, rfl⟩, ht⟩
  unfold storeWord
  dsimp only
  rw [cancelBacks_of_none hGood.2.1, if_neg Bool.false_ne_true]
  have hNext := Coded.trans ⟨hSame, hGood⟩ (hErased _ hGood)
  split
  next =>
    split
    next => exact hNext.trans (hHeld _ hNext.2 _)
    next => exact hNext
  next => exact hNext

theorem closeEntry_coded {s : State} (h : GoodWords s) {e : MergeEntry} (he : e.bad = 0) : Coded s (closeEntry s e) := by
  have hLeft : Coded s { s with mem := { s.mem with merges := s.mem.merges.filter (fun x => x ≠ e) } } := by
    obtain ⟨hFlaws, hBacks, hMerges⟩ := h
    exact ⟨⟨_, rfl, rfl⟩, hFlaws, hBacks, fun x hx => hMerges x (List.mem_of_mem_filter hx)⟩
  have hClean : Tbl.get [] s.mem.flaws e.word = [] := by
    rw [h.1]
    rfl
  have hPoison : decide (e.bad ≠ 0) = false := by simp [he]
  unfold closeEntry
  dsimp only
  rw [hClean, hPoison, if_pos rfl]
  split
  next => exact (hLeft.trans (countClose_coded hLeft.2 _ _)).trans (storeWord_coded (countClose_coded hLeft.2 _ _).2 _)
  next => exact (hLeft.trans (countClose_coded hLeft.2 _ _)).trans (storeWord_coded (countClose_coded hLeft.2 _ _).2 _)

theorem mergeWrite_coded {s : State} (h : GoodWords s) (w : Nat) (mask : BitVec 32) (lc : Option Nat) : Coded s (mergeWrite s w mask 0 lc) := by
  unfold mergeWrite
  split
  next e hFind =>
    have hBad : e.bad = 0 := h.2.2 e (List.mem_of_find?_eq_some hFind)
    have hMerged (e' : MergeEntry) (he' : e'.bad = 0) :
        Coded s { s with mem := { s.mem with merges := s.mem.merges.map (fun x => if x.word = w then e' else x) } } := by
      obtain ⟨hFlaws, hBacks, hMerges⟩ := h
      refine ⟨⟨_, rfl, rfl⟩, hFlaws, hBacks, fun x hx => ?_⟩
      obtain ⟨y, hy, rfl⟩ := List.mem_map.mp hx
      split
      next => exact he'
      next => exact hMerges y hy
    have hSum : (e.bad &&& ~~~mask) ||| 0 = 0 := by simp [hBad]
    dsimp only
    split
    next => exact (hMerged _ hSum).trans (closeEntry_coded (hMerged _ hSum).2 hSum)
    next => exact hMerged _ hSum
  next =>
    have hAdded (t : State) (ht : GoodWords t) :
        Coded t { t with mem := { t.mem with merges := t.mem.merges ++ [{ word := w, mask := mask, bad := 0, lc := lc }] } } := by
      obtain ⟨hFlaws, hBacks, hMerges⟩ := ht
      refine ⟨⟨_, rfl, rfl⟩, hFlaws, hBacks, fun x hx => ?_⟩
      rcases List.mem_append.mp hx with hx | hx
      · exact hMerges x hx
      · rw [List.mem_singleton.mp hx]
    dsimp only
    split
    next =>
      split
      next e hHead =>
        have hClosed := closeEntry_coded h (h.2.2 e (List.mem_of_mem_filter (List.mem_of_head? hHead)))
        exact hClosed.trans (hAdded _ hClosed.2)
      next => exact hAdded s h
    next => exact hAdded s h

theorem badMask_nil (w da : Nat) : badMask w da [] = 0 := if_pos rfl

theorem touchWord_coded {s : State} (h : GoodWords s) (lc : Option Nat) (da n w : Nat) : Coded s (touchWord s lc da n [] w) := by
  have hLeft : Coded s { s with mem := { s.mem with merges := s.mem.merges.filter (fun e => e.word ≠ w) } } := by
    obtain ⟨hFlaws, hBacks, hMerges⟩ := h
    exact ⟨⟨_, rfl, rfl⟩, hFlaws, hBacks, fun x hx => hMerges x (List.mem_of_mem_filter hx)⟩
  unfold touchWord
  rw [badMask_nil]
  dsimp only
  split
  next => exact hLeft.trans (storeWord_coded hLeft.2 w)
  next => exact mergeWrite_coded h w _ lc

theorem codeBytes_coded {s : State} (h : NoErrors s) (lc : Option Nat) (da n : Nat) :
    ∃ m, codeBytes s lc da n [] = { s with mem := m } ∧ m.bytes = s.mem.bytes := by
  cases hDram : isDram da with
  | false =>
    obtain ⟨v, hCode⟩ := codeBytes_of_noErrors h lc hDram n (bad := []) (fun _ hb => nomatch hb)
    exact ⟨_, hCode, rfl⟩
  | true =>
    obtain ⟨hFlaws, -, -, hMerges, hBacks⟩ := h
    have hGood : GoodWords s := ⟨hFlaws, hBacks, by rw [hMerges]; exact fun _ he => nomatch he⟩
    have hCoded : Coded s ((wordsOf da n).foldl (fun s w => touchWord s lc da n [] w) s) :=
      List.foldlRecOn (motive := Coded s) _ _ (.refl hGood) (fun t ht w _ => ht.trans (touchWord_coded ht.2 lc da n w))
    rw [codeBytes, hDram, if_pos rfl]
    exact hCoded.1

/-- Good bytes written to any store without errors stand at their address, and nothing but memory changes. -/
theorem memWriteBad_good {s : State} (h : NoErrors s) (lc : Option Nat) (da : Nat) (data : List Byte) :
    ∃ m, memWriteBad s lc da data [] = { s with mem := m } ∧ ∀ a, Tbl.get 0 m.bytes a = rowByte (da, data) a (s.byte a) := by
  have hCheck : checkMaps s 0xFF lc da (da + data.length) = s := by simp [checkMaps, h.2.2.1]
  obtain ⟨m, hCode, hBytes⟩ := codeBytes_coded (s := placeBytes s da data) h lc da data.length
  refine ⟨m, ?_, fun a => ?_⟩
  · rw [memWriteBad, hCheck, hCode]
    rfl
  · rw [hBytes]
    exact get_setMany_eq_rowByte s.mem.bytes da data a

end Sys2Proof.Machine
end

section
/-! PROOFS. Posts of the host, and the obligation on its identity and control commands. -/

namespace Sys2Proof.Machine

open Sys2Proof

/-! ## A command that completes while its own rules run -/

section Finishes

variable {s : State} {q : BitVec 16} {e : Entry} {ps : List Byte} {k : CmdKind} {i : Instr} {act : CmdRun → State → Act}

/-- Nothing is left to park of a command that has completed. -/
theorem parkCmd_replied {u : State} {id status r0 r1 : Nat} {ign : Bool} {ws : List (Nat × List Byte)} (hIdle : (s.queue q.toNat).running = [])
    (h : Replied s u q e status ign r0 r1 ws) : Replied s (parkCmd u { q := q.toNat, id := id }) q e status ign r0 r1 ws := by
  obtain ⟨hMem, hOthers, hSelf, hHif, hIrq⟩ := h
  have hRunning : (u.queue q.toNat).running = [] := by rw [hSelf, hIdle]
  have hQueue (n : Nat) : (parkCmd u { q := q.toNat, id := id }).queue n = u.queue n := by
    rw [parkCmd, State.queue_modQueue]
    split
    next hn => rw [hn, hRunning, List.map_nil, ← hRunning]
    next => rfl
  refine ⟨hMem, fun n hn => (hQueue n).trans (hOthers n hn), ?_, ?_, ?_⟩
  · rw [hQueue]
    exact hSelf
  · have hParked : ∃ qs, (parkCmd u { q := q.toNat, id := id }).hif = { u.hif with queues := qs } := ⟨_, rfl⟩
    obtain ⟨qs, hParked⟩ := hParked
    rw [hParked, hHif]
  · rw [hQueue]
    exact hIrq

theorem command_finishes (hExec : exec i s = hostRun i k q e s act) (h : HostReady s q e ps)
    (hCheck : checkCmd s k q.toNat e ps (inputOf s (k.buf ps) e) = 0) {f : Hif → State} {status : Nat} {ign : Bool} {r0 r1 : Nat}
    (hAct : ∀ H, act (runOf s k q.toNat e ps) { s with hif := H } =
      .later (completeCmd (f H) { q := q.toNat, id := s.hif.nextId } status ign r0 r1))
    (hHif : ∀ H, (f H).hif = H) (hBad : ∀ H, (f H).hostBad = s.hostBad) (hMem : ∀ H, (f H).hostMem = s.hostMem) :
    ∃ H H' m, exec i s = .next { f H with hif := H', hostMem := m } ∧ Replied s { f H with hif := H', hostMem := m } q e status ign r0 r1 [] := by
  obtain ⟨H, m, hLeaves, hReply⟩ := completeCmd_leaves (ws := []) h (hHif _) (hBad _) (hMem _) status ign r0 r1
  obtain ⟨⟨⟨-, -, hIdle, -⟩, -⟩, -⟩ := id h
  replace hReply := parkCmd_replied (id := s.hif.nextId) hIdle hReply
  rw [← hLeaves] at hReply
  obtain ⟨H', m', hOnly⟩ := (completeCmd_hostOnly (f (taken s k q.toNat e).hif) { q := q.toNat, id := s.hif.nextId } status ign r0 r1).trans
    (parkCmd_hostOnly _ { q := q.toNat, id := s.hif.nextId })
  rw [hOnly] at hReply
  exact ⟨_, H', m', (exec_answers hExec h hCheck hAct).trans (congrArg Host.Outcome.next hOnly), hReply⟩

end Finishes

/-! ## A post to a site queue (R244) -/

theorem modBound_of_unbound {s : State} (h : s.sv = []) (qn : Nat) (f : Binding → Binding) : s.modBound qn f = s := by
  have hSame : ∀ l, l = s.sv → { s with sv := l } = s := by
    rintro _ rfl
    rfl
  unfold State.modBound
  dsimp only
  rw [h]
  exact hSame _ h.symm

/-- The part with a post behind those that wait in its NI. -/
def queued (s : State) (p : Post) : State := { s with tr := { s.tr with posts := s.tr.posts ++ [p] } }

/-- The part with the posts of `s` waiting. -/
def withPosts (t : State) (ps : List Post) : State := { t with tr := { t.tr with posts := ps } }

/-- A post alone in its line is tried once and answered. -/
theorem enterPost_of_answered {s u : State} {p : Post} {r : CmdRef} {x : PostEnd} (hSv : s.sv = []) (hSrc : p.src = .host r)
    (hOther : ∀ y ∈ s.tr.posts, y.qn ≠ p.qn) (hTry : tryPost (queued s p) p.qn p.data p.bad = (some x, u)) (hSv' : u.sv = [])
    (hPosts : u.tr.posts = s.tr.posts ++ [p]) :
    enterPost s p = completeCmd (withPosts u s.tr.posts) r x.status false 0 0 := by
  have hFind : (queued s p).tr.posts.find? (fun y => y.qn = p.qn) = some p := by
    change (s.tr.posts ++ [p]).find? _ = some p
    rw [List.find?_append, List.find?_eq_none.mpr (by simpa using hOther)]
    simp
  have hErase : (s.tr.posts ++ [p]).erase p = s.tr.posts := by
    rw [List.erase_append_right _ (fun hp => hOther p hp rfl), List.erase_cons_head, List.append_nil]
  have hLine : (queued s p).lineBlocks p.qn = false := by
    have hBinding : (queued s p).bindingOf p.qn = none := by
      rw [State.bindingOf, show (queued s p).sv = [] from hSv]
      rfl
    rw [State.lineBlocks, hBinding]
  have hLeft : popLine (withPosts u (u.tr.posts.erase p)) p.qn = withPosts u s.tr.posts := by
    refine (modBound_of_unbound (s := withPosts u (u.tr.posts.erase p)) hSv' ..).trans ?_
    rw [hPosts, hErase]
  have hEnter : enterPost s p = servePosts p.qn ((s.tr.posts ++ [p]).length + 1) (queued s p) :=
    congrArg (fun t : State => servePosts p.qn (t.tr.posts.length + 1) t) (modBound_of_unbound (s := queued s p) hSv ..)
  rw [hEnter, servePosts, hFind]
  dsimp only
  rw [if_neg (ne_true_of_eq_false hLine), hTry]
  change servePosts p.qn _ (answerPost (popLine (withPosts u (u.tr.posts.erase p)) p.qn) _ p.src x) = _
  rw [hLeft, hSrc]
  change servePosts p.qn _ (completeCmd (withPosts u s.tr.posts) r x.status false 0 0) = _
  obtain ⟨H, m, hOnly⟩ := completeCmd_hostOnly (withPosts u s.tr.posts) r x.status false 0 0
  rw [hOnly]
  refine servePosts_of_none ?_ _
  exact hOther

/-! ## One turn of the post procedure (R244) -/

theorem tryPost_of_disabled {s : State} {qn lc : Nat} (hLc : s.lcOf (qn / 512) = some lc) (hAbsorbs : s.absorbs lc = false)
    (hSt : (s.sq qn).st ≠ 1) (data : List Byte) (bad : List Bool) : tryPost s qn data bad = (some (.refused 0x2B), countFull s qn) := by
  unfold tryPost
  rw [hLc]
  dsimp only
  rw [if_neg (ne_true_of_eq_false hAbsorbs), if_pos hSt]

theorem tryPost_of_room {s : State} {qn lc : Nat} (hLc : s.lcOf (qn / 512) = some lc) (hAbsorbs : s.absorbs lc = false)
    (hSt : (s.sq qn).st = 1) (hRing : storeWait s (s.sq qn).ring = none) (hHead : storeWait s (s.sq qn).headDa = none)
    (hRoom : (s.sq qn).occ < (s.sq qn).quota) (data : List Byte) (bad : List Bool) :
    tryPost s qn data bad = (some (acceptPost s qn lc data bad).1, (acceptPost s qn lc data bad).2) := by
  have hQuota : ¬ (s.sq qn).quota ≤ (s.sq qn).occ := Nat.not_le.mpr hRoom
  unfold tryPost
  rw [hLc]
  dsimp only
  rw [if_neg (ne_true_of_eq_false hAbsorbs), if_neg (not_not_intro hSt), hRing, hHead, Option.none_or]
  dsimp only
  rw [if_neg hQuota, if_neg (not_not_intro hSt), if_neg hQuota]

/-- The DA of the ring entry that the next post of a queue is written to. -/
def SiteQueue.nextDa (x : SiteQueue) : Nat := x.ring + 64 * (x.tail.toNat % 2 ^ x.log2)

/-- A store waits for power by the power of its site alone. -/
theorem storeWait_of_same {s t : State} (hSite : t.siteOf = s.siteOf) (hPwr : t.sitePwr = s.sitePwr) {da : Nat} (h : storeWait s da = none) :
    storeWait t da = none := by
  unfold storeWait at h ⊢
  rw [hSite, hPwr]
  cases hAt : s.siteOf (daUnit da) with
  | none => rfl
  | some i =>
    rw [hAt] at h
    dsimp only at h ⊢
    by_cases hStore : daSpace da = 0
    · rw [if_pos hStore] at h ⊢
      by_cases hOn : (s.sitePwr i).dom = .on
      · exact if_pos hOn
      · exact absurd h (by simp [hOn])
    · rw [if_neg hStore] at h ⊢
      by_cases hCanopy : daSpace da = 1
      · rw [if_pos hCanopy] at h ⊢
        by_cases hFull : (s.sitePwr i).canopy = .full
        · exact if_pos hFull
        · exact absurd h (by simp [hFull])
      · exact if_neg hCanopy

theorem storeWait_queued {s : State} {da : Nat} (h : storeWait s da = none) (H : Hif) (p : Post) :
    storeWait (queued { s with hif := H } p) da = none := storeWait_of_same (s := s) (t := queued { s with hif := H } p) rfl rfl h

/-- An unbound queue takes a post into its ring, advances `TAIL` and counts at its gate. -/
theorem acceptPost_of_unbound {s : State} (hSv : s.sv = []) (hErrors : NoErrors s) {qn lc : Nat}
    (hFits : (s.core lc).gate (s.sq qn).gate + 1 ≤ 16777215) (data : List Byte) :
    ∃ m, acceptPost s qn lc data [] = (.ok, ((({ s with mem := m } : State).modSq qn (fun x => { x with tail := x.tail + 1 })).modRouter (qn / 512)
        (fun r => { r with posts := satAdd r.posts 1 })).modCore lc (fun c => c.counted (s.sq qn).gate 1 .unit)) ∧
      ∀ a, Tbl.get 0 m.bytes a = rowByte ((s.sq qn).nextDa, data) a (s.byte a) := by
  have hBinding : s.bindingOf qn = none := by
    rw [State.bindingOf, hSv]
    rfl
  obtain ⟨m, hWrite, hBytes⟩ := memWriteBad_good hErrors none (s.sq qn).nextDa data
  refine ⟨m, ?_, hBytes⟩
  unfold acceptPost
  dsimp only
  rw [hBinding]
  dsimp only
  rw [← SiteQueue.nextDa, hWrite]
  refine congrArg (Prod.mk PostEnd.ok) (incGate_of_fits ?_ .unit)
  exact hFits

/-! ## QUEUE_POST (R244, Table 13.9) -/

def queuePostKind : CmdKind :=
  { CmdKind.basic false false [4] (fun _ => false) (fun ps => isSiteQueue (leField ps 0 3) || isOrgQueue (leField ps 0 3)) with
    buf := fun _ => .input 64, foot := fun s ps => postFoot s (leField ps 0 3) }

theorem isOrgQueue_of_site {qn : Nat} (h : isSiteQueue qn = true) : isOrgQueue qn = false := by
  have hLow : qn < 880 * 512 := of_decide_eq_true h
  rw [isOrgQueue, Bool.and_eq_false_iff]
  exact .inl (decide_eq_false (by omega))

theorem length_hostBytes (s : State) (a n : Nat) : (s.hostBytes a n).length = n := by
  rw [State.hostBytes, List.length_map, List.length_range]

theorem getD_hostBytes (s : State) (a : Nat) {n i : Nat} (h : i < n) : (s.hostBytes a n).getD i 0 = Tbl.get 0 s.hostMem (a + i) := by
  rw [State.hostBytes, List.getD_eq_getElem?_getD, List.getElem?_map, List.getElem?_range h]
  rfl

/-- The post that `QUEUE_POST` makes of its buffer. -/
def hostPost (s : State) (q : BitVec 16) (e : Entry) (qn : Nat) : Post :=
  { qn := qn, data := s.hostBytes e.daddr.toNat 64, src := .host { q := q.toNat, id := s.hif.nextId }, since := none, bad := [] }

/-- The part with the post in its queue's ring, before its command completes. -/
def hostPosted (s : State) (q : BitVec 16) (e : Entry) (qn lc : Nat) (H : Hif) : State :=
  (acceptPost (queued { s with hif := H } (hostPost s q e qn)) qn lc (s.hostBytes e.daddr.toNat 64) []).2

theorem hostPosted_eq {s : State} (hSv : s.sv = []) (hErrors : NoErrors s) {qn lc : Nat} (hFits : (s.core lc).gate (s.sq qn).gate + 1 ≤ 16777215)
    (q : BitVec 16) (e : Entry) (H : Hif) :
    acceptPost (queued { s with hif := H } (hostPost s q e qn)) qn lc (s.hostBytes e.daddr.toNat 64) [] = (.ok, hostPosted s q e qn lc H) ∧
    ∃ m, hostPosted s q e qn lc H = ((({ queued { s with hif := H } (hostPost s q e qn) with mem := m } : State).modSq qn
        (fun x => { x with tail := x.tail + 1 })).modRouter (qn / 512) (fun r => { r with posts := satAdd r.posts 1 })).modCore lc
          (fun c => c.counted (s.sq qn).gate 1 .unit) ∧
      ∀ a, Tbl.get 0 m.bytes a =
        rowByte ((s.sq qn).nextDa, s.hostBytes e.daddr.toNat 64) a (s.byte a) := by
  obtain ⟨m, hAccept, hBytes⟩ := acceptPost_of_unbound (s := queued { s with hif := H } (hostPost s q e qn)) hSv hErrors hFits
    (s.hostBytes e.daddr.toNat 64)
  refine ⟨?_, m, congrArg Prod.snd hAccept, hBytes⟩
  rw [hostPosted, hAccept]

section QueuePost

variable {s : State} {q : BitVec 16} {e : Entry} {ps : List Byte} (h : HostReady s q e ps) {lc : Nat} (hLen : ps.length = 4)
  (hBuf : HasBuffer s e 64) (hCalm : Calm s) (hSite : isSiteQueue (leField ps 0 3) = true) (hNi : s.niPosts (leField ps 0 3 / 512) < 8)
  (hSv : s.sv = []) (hOther : ∀ p ∈ s.tr.posts, p.qn ≠ leField ps 0 3) (hLc : s.lcOf (leField ps 0 3 / 512) = some lc)
  (hAbsorbs : s.absorbs lc = false)

include h hLen hBuf hSite in
theorem queuePost_check : checkCmd s queuePostKind q.toNat e ps (inputOf s (queuePostKind.buf ps) e) = 0 :=
  checkCmd_passes h (List.mem_singleton.mpr hLen) rfl rfl rfl (Bool.or_eq_true_iff.mpr (.inl hSite)) hBuf

include hBuf in
theorem queuePost_input : inputOf s (queuePostKind.buf ps) e = s.hostBytes e.daddr.toNat 64 := by
  obtain ⟨hDlen, -⟩ := hBuf
  exact congrArg (s.hostBytes e.daddr.toNat) hDlen

include h hLen hBuf hCalm hSite hNi hSv hOther

/-- A post whose one turn of the post procedure answers it completes its command with that answer. -/
theorem queuePost_answers {f : Hif → State} {x : PostEnd}
    (hTry : ∀ H, tryPost (queued { s with hif := H } (hostPost s q e (leField ps 0 3))) (leField ps 0 3) (s.hostBytes e.daddr.toNat 64) [] = (some x, f H))
    (hKept : ∀ H, (f H).sv = [] ∧ (f H).tr.posts = s.tr.posts ++ [hostPost s q e (leField ps 0 3)])
    (hHost : ∀ H, (f H).hif = H ∧ (f H).hostBad = s.hostBad ∧ (f H).hostMem = s.hostMem) :
    ∃ H H' m, exec (.queuePost q e) s = .next { withPosts (f H) s.tr.posts with hif := H', hostMem := m } ∧
      Replied s { withPosts (f H) s.tr.posts with hif := H', hostMem := m } q e x.status false 0 0 [] := by
  have hPath : ∀ H, ¬ (({ s with hif := H } : State).severed 0x399 (queueEndpoint (leField ps 0 3)) || (isOrgQueue (leField ps 0 3) &&
      !(({ s with hif := H } : State).stack (queueEndpoint (leField ps 0 3) - 0x390)).linkUp)) = true := fun H => by
    rw [severed_of_calm (s := { s with hif := H }) hCalm, isOrgQueue_of_site hSite, Bool.false_and]
    decide
  have hGo : ∀ H, ¬ (({ s with hif := H } : State).routeHeld 0x399 (queueEndpoint (leField ps 0 3)) || (isSiteQueue (leField ps 0 3) &&
      decide (8 ≤ s.niPosts (leField ps 0 3 / 512)))) = true := fun H => by
    rw [routeHeld_of_calm (s := { s with hif := H }) hCalm, decide_eq_false (Nat.not_le.mpr hNi), Bool.and_false]
    decide
  refine command_finishes (k := queuePostKind) (f := fun H => withPosts (f H) s.tr.posts) rfl h (queuePost_check h hLen hBuf hSite) (fun H => ?_)
    (fun H => (hHost H).1) (fun H => (hHost H).2.1) (fun H => (hHost H).2.2)
  have hEnter := enterPost_of_answered (s := { s with hif := H }) (p := hostPost s q e (leField ps 0 3)) hSv rfl hOther (hTry H)
    (hKept H).1 (hKept H).2
  refine (if_neg (hPath H)).trans ((if_neg (hGo H)).trans (congrArg Act.later ?_))
  refine (if_pos hSite).trans ((if_neg (Nat.not_le.mpr hNi)).trans ?_)
  rw [← hEnter]
  dsimp only [runOf]
  rw [queuePost_input hBuf]
  rfl

include hLc hAbsorbs

theorem queuePost_refused (hSt : (s.sq (leField ps 0 3)).st ≠ 1) : ∃ t, exec (.queuePost q e) s = .next t ∧ Replied s t q e 0x2B false 0 0 [] ∧
    t.mem = s.mem ∧ t.cores = s.cores ∧ t.tr.queues = s.tr.queues := by
  obtain ⟨H, H', m, hNext, hReply⟩ := queuePost_answers h hLen hBuf hCalm hSite hNi hSv hOther (x := .refused 0x2B)
    (f := fun H => countFull (queued { s with hif := H } (hostPost s q e (leField ps 0 3))) (leField ps 0 3))
    (fun H => tryPost_of_disabled (s := queued { s with hif := H } _) hLc hAbsorbs hSt _ _) (fun _ => ⟨hSv, rfl⟩) (fun _ => ⟨rfl, rfl, rfl⟩)
  exact ⟨_, hNext, hReply, rfl, rfl, rfl⟩

theorem queuePost_accepted (hRing : storeWait s (s.sq (leField ps 0 3)).ring = none) (hHead : storeWait s (s.sq (leField ps 0 3)).headDa = none)
    (hErrors : NoErrors s) (hSt : (s.sq (leField ps 0 3)).st = 1) (hRoom : (s.sq (leField ps 0 3)).occ < (s.sq (leField ps 0 3)).quota)
    (hFits : (s.core lc).gate (s.sq (leField ps 0 3)).gate + 1 ≤ 16777215) :
    ∃ t, exec (.queuePost q e) s = .next t ∧ Replied s t q e 0 false 0 0 [] ∧
      (∀ i, i < 64 → t.byte ((s.sq (leField ps 0 3)).nextDa + i) = Tbl.get 0 s.hostMem (e.daddr.toNat + i)) ∧
      BytesKept s t [((s.sq (leField ps 0 3)).nextDa, 64)] ∧
      t.sq (leField ps 0 3) = { s.sq (leField ps 0 3) with tail := (s.sq (leField ps 0 3)).tail + 1 } ∧
      (t.core lc).gate (s.sq (leField ps 0 3)).gate = (s.core lc).gate (s.sq (leField ps 0 3)).gate + 1 ∧
      (∀ k, k ≠ lc → t.core k = s.core k) ∧ t.tr.posts = s.tr.posts := by
  have hPosted := hostPosted_eq hSv hErrors hFits q e
  obtain ⟨H, H', m, hNext, hReply⟩ := queuePost_answers h hLen hBuf hCalm hSite hNi hSv hOther (x := .ok)
    (f := hostPosted s q e (leField ps 0 3) lc)
    (fun H => by
      obtain ⟨hAccept, -⟩ := hPosted H
      have hTry := tryPost_of_room (s := queued { s with hif := H } (hostPost s q e (leField ps 0 3))) hLc hAbsorbs hSt
        (storeWait_queued hRing H _) (storeWait_queued hHead H _) hRoom (s.hostBytes e.daddr.toNat 64) []
      rw [hAccept] at hTry
      exact hTry)
    (fun H => by
      obtain ⟨-, m, hEq, -⟩ := hPosted H
      rw [hEq]
      exact ⟨hSv, rfl⟩)
    (fun H => by
      obtain ⟨-, m, hEq, -⟩ := hPosted H
      rw [hEq]
      exact ⟨rfl, rfl, rfl⟩)
  obtain ⟨-, m', hEq, hBytes⟩ := hPosted H
  rw [hEq] at hNext hReply
  refine ⟨_, hNext, hReply, fun i hi => ?_, fun a ha => ?_, ?_, ?_, fun k hk => ?_, rfl⟩
  · refine (hBytes _).trans ?_
    rw [rowByte, if_pos (by rw [length_hostBytes]; omega), Nat.add_sub_cancel_left, getD_hostBytes s _ hi]
  · refine (hBytes a).trans ?_
    have hFar := ha _ (List.mem_singleton_self _)
    rw [rowByte, if_neg (by rw [length_hostBytes]; omega)]
  · exact (Tbl.get_modify SiteQueue.init s.tr.queues _ (leField ps 0 3) (fun x => { x with tail := x.tail + 1 })).trans (if_pos rfl)
  · refine (congrArg (fun c : Core => c.gate (s.sq (leField ps 0 3)).gate) (State.core_modCore_same s lc
      (fun c => c.counted (s.sq (leField ps 0 3)).gate 1 .unit))).trans ?_
    exact (congrFun (gate_counted hFits .unit) _).trans (if_pos rfl)
  · exact State.core_modCore_other s (fun c => c.counted (s.sq (leField ps 0 3)).gate 1 .unit) hk

end QueuePost

theorem hostControl : HostControl := by
  intro s q e ps h
  refine ⟨fun hBuf hCalm hRow => ⟨fun hDa => ⟨fun hLen => ?_, fun hLen => ?_⟩, fun i hCommand hDa hStatus => ?_⟩,
    fun hLen hBuf hFrom hTo => ?_, ?_⟩
  · exact ctrlRead_answers h hBuf hCalm hRow hDa hLen
  · exact ctrlWrite_writes h hBuf hCalm hRow hDa hLen
  · exact ctrl_refuses h hBuf hRow hDa hStatus hCommand
  · by_cases hIn : s.inGraph (leField ps 0 1) = true ∧ s.inGraph (leField ps 2 3) = true
    · obtain ⟨t, hNext, hOnly, hReply⟩ := routeQuery_answers h hBuf hLen hFrom hTo hIn.1 hIn.2
      exact ⟨t, hNext, hOnly, fun _ _ => hReply, fun hOut => by simp [hIn] at hOut⟩
    · have hOut : s.inGraph (leField ps 0 1) = false ∨ s.inGraph (leField ps 2 3) = false := by
        simpa only [not_and_or, Bool.not_eq_true] using hIn
      obtain ⟨t, hNext, hOnly, hReply⟩ := routeQuery_refuses h hBuf hLen hFrom hTo hOut
      exact ⟨t, hNext, hOnly, fun hA hB => absurd ⟨hA, hB⟩ hIn, fun _ => hReply⟩
  · intro lc hLen hBuf hCalm qn x hRing hHead hSite hNi hSv hOther hLc hAbsorbs hErrors
    refine ⟨fun hSt hRoom hFits => ?_, fun hSt => ?_⟩
    · exact queuePost_accepted h hLen hBuf hCalm hSite hNi hSv hOther hLc hAbsorbs hRing hHead hErrors hSt hRoom hFits
    · exact queuePost_refused h hLen hBuf hCalm hSite hNi hSv hOther hLc hAbsorbs hSt

/-- Settles O37: each command completes with what its own rules answer; a post stands in its ring once it is accepted. -/
theorem hostIdentityAndControl : Obligations.HostIdentityAndControl := ⟨hostIdentity, hostControl⟩

end Sys2Proof.Machine
end

section
/-! PROOFS. Writes to a window without room for their records, and the obligation on requests over the Trellis. -/

namespace Sys2Proof.Machine

open Sys2Proof

/-! ## Writes that wait for room in the record queue (R267) -/

theorem orgWriteRange_of_no_recordRoom {s : State} {da n : Nat} (h : s.recordRoom da n = false) : orgWriteRange s da n = .wait s := by
  rw [orgWriteRange, h, if_neg Bool.false_ne_true]

/-- A `WRITE` to a window whose records find no room is held, whatever the state of its region (R267, log 107). -/
theorem exec_write_of_no_recordRoom {s : State} {p : Pkt} {da : Nat} (te : List (Nat × Bool)) (hLost : s.lost p p.data.length = false)
    (hRoute : s.routeHeld p.src.toNat p.dst.toNat = false) (hAbsorbed : s.pktAbsorbed p = false)
    (hDa : s.pktDa p p.data.length = .inl da) (hRoom : s.recordRoom da p.data.length = false) :
    exec (.write p te) s = .next (s.hold (.write p te)) := by
  change execWrite p te s = _
  simp only [execWrite, servePkt, hLost, hRoute, hAbsorbed, hDa, orgWriteRange_of_no_recordRoom hRoom, if_true, Bool.false_eq_true, if_false]

/-- A record that does nothing. -/
def idleRecord : OrgRec := { rsv := 0, gen := 0, chmask := 0, bkmask := 0, cmpl := 0, args := 0 }

/-- Stack 0 with a full record queue, its region 0 unmapped and in bank mode. Bank mode is possible only in state `RESIDENT` (R168), which
the statement does not ask of its states. -/
def bankedUnmapped : State :=
  { State.reset with
    orgs := [(0, { Stack.init with linkUp := true, regions := [(0, { Region.init with bank := .bank })] })]
    held := List.replicate 64 (.recordNoOp 0 0 idleRecord) }

/-- 32 bytes for stack 0, of which the first 16 end the window of region 0 (R264). -/
def writeAcrossWindow : Pkt :=
  { src := 0x398, dst := 0x390, tag := 0, space := 4, ofs := 0x1FFF0, bytes := 32, data := List.replicate 32 0 }

theorem pktDa_writeAcrossWindow : bankedUnmapped.pktDa writeAcrossWindow 32 = .inl (mkDa 4 0 0x1FFF0) := by decide

theorem orgAccessRange_bankedUnmapped : orgAccessRange bankedUnmapped (mkDa 4 0 0x1FFF0) 32 = .unmapped := by decide

theorem recordRoom_bankedUnmapped : bankedUnmapped.recordRoom (mkDa 4 0 0x1FFF0) 32 = false := by decide

/-- Refutes O16: where a region may be unmapped and in bank mode at once, a `WRITE` that starts in its window with the record queue of the
stack full waits for room and is not refused with 0x26, since the room for records is asked for first (R267). -/
theorem not_trellisRequests : ¬ Obligations.TrellisRequests := by
  rintro ⟨-, hRefused, -⟩
  obtain ⟨-, hCalm⟩ := hRefused bankedUnmapped writeAcrossWindow [] (.write writeAcrossWindow []) 32 (.inl ⟨rfl, rfl⟩)
  obtain ⟨-, hTaken⟩ := hCalm ⟨rfl, rfl⟩
  obtain ⟨-, hUnmapped, -⟩ := hTaken rfl
  obtain ⟨t, hExec, -, hRsps⟩ := hUnmapped _ pktDa_writeAcrossWindow (by decide) orgAccessRange_bankedUnmapped
  rw [exec_write_of_no_recordRoom [] (by decide) (by decide) rfl pktDa_writeAcrossWindow recordRoom_bankedUnmapped] at hExec
  cases hExec
  exact absurd hRsps (by decide)

end Sys2Proof.Machine
end

section
/-! PROOFS. Data broadcasts, and the obligation on them. -/

namespace Sys2Proof.Machine

open Sys2Proof

/-! ## What a broadcast leaves alone (R239, R240) -/

/-- A change of every entry of a table that keeps the default changes what every key reads. -/
theorem Tbl.get_map_entries {α : Type} {d : α} {f : α → α} (hDefault : f d = d) (t : Tbl α) (k : Nat) :
    Tbl.get d (t.map (fun e => (e.1, f e.2))) k = f (Tbl.get d t k) := by
  induction t with
  | nil => exact hDefault.symm
  | cons e t ih =>
    obtain ⟨a, v⟩ := e
    by_cases h : a = k
    · simp [Tbl.get, h]
    · simpa [Tbl.get, h] using ih

theorem router_broadcast (s : State) (b : Nat) : (broadcast s).router b =
    if (s.router b).present then { s.router b with bcast := s.tr.bseq + 1, pkt := bump (s.router b).pkt 1 } else s.router b :=
  Tbl.get_map_entries (f := fun r : Router => if r.present then { r with bcast := s.tr.bseq + 1, pkt := bump r.pkt 1 } else r) rfl s.tr.routers b

@[simp] theorem router_broadcast_present (s : State) (b : Nat) : ((broadcast s).router b).present = (s.router b).present := by
  rw [router_broadcast]
  split <;> rfl

@[simp] theorem router_broadcast_drop (s : State) (b : Nat) : ((broadcast s).router b).drop = (s.router b).drop := by
  rw [router_broadcast]
  split <;> rfl

@[simp] theorem inGraph_broadcast (s : State) (e : Nat) : (broadcast s).inGraph e = s.inGraph e := by
  simp only [State.inGraph, router_broadcast_present]

@[simp] theorem heedsBcmd_broadcast (s : State) (i : Nat) : (broadcast s).heedsBcmd i = s.heedsBcmd i := by
  rw [State.heedsBcmd, inGraph_broadcast]
  rfl

@[simp] theorem targetSites_broadcast (s : State) (tg : Target) : (broadcast s).targetSites tg = s.targetSites tg := rfl

/-! ## Data for the target cores (R241) -/

theorem nodup_targetSites (s : State) (tg : Target) : (s.targetSites tg).Nodup := by
  cases tg with
  | all => exact List.nodup_range
  | node n => exact List.nodup_range.filter _
  | cluster c => exact List.nodup_range.filter _
  | layer l => exact List.nodup_range.filter _
  | region r => exact List.nodup_range.filter _

/-- The sites whose cores take a data broadcast. -/
def State.dataSites (s : State) (tg : Target) : List Nat := (s.targetSites tg).filter s.heedsBcmd

theorem mem_dataSites {s : State} {tg : Target} {k : Nat} : k ∈ s.dataSites tg ↔ k ∈ s.targetSites tg ∧ s.heedsBcmd k = true :=
  List.mem_filter

/-- The firmware of the target cores with data at one offset of each. -/
def State.firmwareWith (s : State) (tg : Target) (ofs : BitVec 40) (data : List Byte) : Tbl Byte :=
  (s.dataSites tg).foldl (fun m i => Tbl.setMany 0 m (i * 2 ^ 40 + ofs.toNat) data) s.tr.coreFw

theorem exec_bdata (b : Fin 891) (tg : Target) (ofs : BitVec 40) (data : List Byte) (s : State) : exec (.bdata b tg ofs data) s =
    if s.jobs ≠ [] then .next ((broadcast s).modRouter b (fun r => { r with drop := satAdd r.drop 1 }))
    else .next { broadcast s with tr := { (broadcast s).tr with coreFw := s.firmwareWith tg ofs data } } := by
  change execBdata b tg ofs data s = _
  rw [State.firmwareWith, State.dataSites, ← funext (heedsBcmd_broadcast s)]
  rfl

/-- Data that ends within a core's 2^40 bytes reaches no byte of another core. -/
theorem rowByte_core {i k o ofs : Nat} {data : List Byte} (ho : o < 2 ^ 40) (hData : ofs + data.length ≤ 2 ^ 40) (old : Byte) :
    rowByte (i * 2 ^ 40 + ofs, data) (k * 2 ^ 40 + o) old = if k = i then rowByte (ofs, data) o old else old := by
  by_cases hk : k = i
  · rw [hk, if_pos rfl, rowByte, rowByte, Nat.add_sub_add_left]
    exact if_congr (by dsimp only; omega) rfl rfl
  · rw [if_neg hk, rowByte, if_neg (by dsimp only; omega)]

theorem get_firmwareWith (s : State) (tg : Target) {ofs : BitVec 40} {data : List Byte} (hData : ofs.toNat + data.length ≤ 2 ^ 40)
    (k : Nat) {o : Nat} (ho : o < 2 ^ 40) : Tbl.get 0 (s.firmwareWith tg ofs data) (k * 2 ^ 40 + o) =
      if k ∈ s.dataSites tg then rowByte (ofs.toNat, data) o (Tbl.get 0 s.tr.coreFw (k * 2 ^ 40 + o))
      else Tbl.get 0 s.tr.coreFw (k * 2 ^ 40 + o) := by
  have hWrite (m : Tbl Byte) (i j : Nat) : Tbl.get 0 (Tbl.setMany 0 m (i * 2 ^ 40 + ofs.toNat) data) (j * 2 ^ 40 + o) =
      if j = i then rowByte (ofs.toNat, data) o (Tbl.get 0 m (j * 2 ^ 40 + o)) else Tbl.get 0 m (j * 2 ^ 40 + o) := by
    rw [get_setMany_eq_rowByte, rowByte_core ho hData]
  have hSites : ((s.dataSites tg).map id).Nodup := by
    rw [List.map_id]
    exact (nodup_targetSites s tg).filter _
  split
  next hk => exact foldl_update_mem (read := fun m j => Tbl.get 0 m (j * 2 ^ 40 + o)) (key := id) hWrite hSites hk s.tr.coreFw
  next hk =>
    have hOther : ∀ i ∈ s.dataSites tg, k ≠ i := by
      rintro i hi rfl
      exact hk hi
    exact foldl_update_other (read := fun m j => Tbl.get 0 m (j * 2 ^ 40 + o)) (key := id) hWrite hOther s.tr.coreFw

/-- Settles O17: the broadcast itself changes no core's firmware and no job, and the data of each target core stays inside that core. -/
theorem broadcastDataNeedsNoJob : Obligations.BroadcastDataNeedsNoJob := by
  intro s b tg ofs data hData
  rw [exec_bdata]
  by_cases hJobs : s.jobs = []
  · rw [if_neg (not_not_intro hJobs)]
    refine ⟨_, rfl, rfl, fun _ k _ o ho => ?_, fun h => absurd hJobs h⟩
    refine (get_firmwareWith s tg hData k ho).trans ?_
    rw [rowByte, ← ite_and]
    exact if_congr (by rw [mem_dataSites, and_assoc]) rfl rfl
  · rw [if_pos hJobs]
    refine ⟨_, rfl, rfl, fun h => absurd h hJobs, fun _ => ⟨rfl, ?_⟩⟩
    rw [State.router_modRouter_same, router_broadcast_drop]

end Sys2Proof.Machine
end

section
/-! PROOFS. A post that waits with the marks of its transit, and the obligation on queues of cores. -/

namespace Sys2Proof.Machine

open Sys2Proof

/-- The Trellis that an answer leaves. -/
def trellisAfter : Out → Option Trellis
  | .next t => some t.tr
  | _ => none

/-- Site 0 with logical core 0 on it. -/
def siteOfCore0 : Tbl SiteRec := [(0, { SiteRec.init with state := 1, lcol := 0 })]

/-- Queue 0 of logical core 0 enabled with one entry, its quota; its ring and its head word stand in a Commons plot. -/
def fullQueue : State :=
  { State.reset with
    sites := siteOfCore0
    tr := { Trellis.init with
      queues := [(0, { ring := mkDa 3 0 0, log2 := 0, gate := 0, quota := 1, tail := 1, headDa := mkDa 3 0 64, headSeen := 0, st := 1 })] } }

/-- An entry for queue 0 of site 0. -/
def entryForQueue0 : Pkt := { src := 0x398, dst := 0, tag := 0, space := 0, ofs := 0, bytes := 64, data := List.replicate 64 0 }

/-- Byte 0 was in error in transit, and the receiver corrected it (R200). -/
def correctedByte : List (Nat × Bool) := [(0, true)]

theorem posts_after_correctedByte : (trellisAfter (exec (.post ⟨entryForQueue0, correctedByte⟩) fullQueue)).map (·.posts) =
    some [{ qn := 0, data := List.replicate 64 0, src := .pkt 0x398 0, since := some 0, bad := List.replicate 64 false }] := by
  decide +kernel

/-- Refutes O20: a post of which a byte was corrected in transit waits with its 64 marks, none of them set (R200); the post that the
statement puts in the line has no marks. -/
theorem not_coreQueues : ¬ Obligations.CoreQueues := by
  rintro ⟨hPosts, -⟩
  obtain ⟨-, -, hWaits⟩ := hPosts fullQueue entryForQueue0 correctedByte 0 (by decide) rfl rfl (by decide) rfl (fun _ h => nomatch h) rfl rfl
    ⟨rfl, rfl, rfl, rfl, rfl⟩ rfl (by decide) ⟨rfl, rfl⟩ (by decide +kernel) (by decide +kernel)
  obtain ⟨t, hExec, -, -, -, -, hLine⟩ := hWaits rfl rfl (by decide) (by decide +kernel)
  have hKept := posts_after_correctedByte
  rw [hExec, trellisAfter, Option.map_some, hLine] at hKept
  exact absurd hKept (by decide)

end Sys2Proof.Machine
end

section
/-! PROOFS. A post from another part that finds no place in an interface, and the obligation on datagrams that reach memory. -/

namespace Sys2Proof.Machine

open Sys2Proof

/-- A running job with the tag 1. -/
def taggedJob : Job :=
  { node := 0, mask := 1, imageId := 0, phase := .running, vdrop := false, waitMs := 0, ramp := false, peakW := 0, meanW := 0, parts := [], tag := 1
    claims := [], segs := [], first := none, remote := none, halted := false, placed := true, startAt := 0, startUs := 0, cmd := none
    halters := [], report := [], entries := [], image := [] }

/-- Queue 0 of logical core 0 is enabled and empty, and the interface of its site holds eight posts for queue 1 (R244). -/
def crowdedInterface : State :=
  { State.reset with
    sites := siteOfCore0
    jobs := [taggedJob]
    fab := { Fabric.init with peers := [(0, { st := 1, paths := [(true, 0, 0)] })] }
    tr := { Trellis.init with
      queues := [(0, { ring := mkDa 3 0 0, log2 := 0, gate := 0, quota := 1, tail := 0, headDa := mkDa 3 0 64, headSeen := 0, st := 1 })]
      posts := List.replicate 8 { qn := 1, data := List.replicate 64 0, src := .kiosk, since := none } } }

/-- A `POST` of part 0 to queue 0 without its `ICRC`. -/
def uncheckedPost : XPkt :=
  { ver := 1, typ := 4, flags := 0, ctx := 0, src := 0, dst := 0, psn := 0, tag := 1, da := 0, msg := 0, mofs := 0, mlen := 64, len := 64
    status := 0, cmpl := 0, icrc := 0, map := 0, data := List.replicate 64 0 }

/-- The `POST` as it arrives. -/
def postForQueue0 : XIn := { cuff := 0, addr := 0, ce := false, pkt := { uncheckedPost with icrc := BitVec.ofNat 32 (pktCrc uncheckedPost) } }

theorem nextPacket_postForQueue0 : NextPacket crowdedInterface postForQueue0 4 0 := by
  unfold NextPacket
  decide +kernel

theorem queues_after_postForQueue0 :
    (trellisAfter (exec (.xobPost postForQueue0) crowdedInterface)).map (·.queues) = some crowdedInterface.tr.queues := by
  decide +kernel

/-- Refutes O31: a `POST` for an interface that holds eight posts for another queue waits outside it, and its own queue stays as it was
(R244); the statement asks only that no post of its own queue waits. -/
theorem not_xobexData : ¬ Obligations.XobexData := by
  intro hData
  obtain ⟨-, -, -, hPost⟩ := hData crowdedInterface postForQueue0 taggedJob ⟨rfl, rfl, rfl, rfl, rfl⟩ rfl rfl rfl rfl rfl rfl
    (fun _ h => nomatch h)
  obtain ⟨t, hExec, -, -, -, hQueue, -⟩ := hPost 0 nextPacket_postForQueue0 rfl (by decide) rfl rfl rfl rfl (by decide) rfl (by decide) rfl
    (by decide)
  have hKept := queues_after_postForQueue0
  rw [hExec, trellisAfter, Option.map_some, Option.some_inj] at hKept
  rw [State.sq, hKept] at hQueue
  exact absurd hQueue (by decide)

end Sys2Proof.Machine
end

section
/-! PROOFS. The words of bank units and row units, and the obligation on them. -/

namespace Sys2Proof.Machine

open Sys2Proof

/-! ## Words of 32 bits -/

theorem pack_add_le {top lo : Nat} {fs : List (Nat × Nat)} (h : Fits top lo fs) : pack lo fs + 2 ^ lo ≤ 2 ^ (top + 1) := by
  induction fs generalizing lo with
  | nil =>
    have hEnd : lo = top + 1 := h
    simp [pack, hEnd]
  | cons f fs ih =>
    obtain ⟨hi, v⟩ := f
    obtain ⟨hLo, hv, hFits⟩ := h
    have hField : (v + 1) * 2 ^ lo ≤ 2 ^ (hi + 1) :=
      calc (v + 1) * 2 ^ lo ≤ 2 ^ (hi + 1 - lo) * 2 ^ lo := Nat.mul_le_mul_right _ hv
        _ = 2 ^ (hi + 1) := by rw [← Nat.pow_add, Nat.sub_add_cancel (by omega)]
    have hRest := ih hFits
    rw [Nat.succ_mul] at hField
    simp only [pack]
    omega

/-- A word is that of given fields exactly when each field has its value. -/
theorem ofNat_pack_eq_iff {w : Word} {fs : List (Nat × Nat)} (h : Fits 31 0 fs) :
    BitVec.ofNat 32 (pack 0 fs) = w ↔ FieldsAt w.toNat 0 fs := by
  have hLt : pack 0 fs < 2 ^ 32 := by
    have := pack_add_le h
    omega
  rw [← eq_pack_iff w.isLt h, BitVec.toNat_eq, BitVec.toNat_ofNat, Nat.mod_eq_of_lt hLt, eq_comm]

/-! ## Fields of a word -/

theorem bits_toNat (w : Word) (hi lo : Nat) : bits w.toNat hi lo = fld w hi lo := rfl

theorem fld_mod {w : Word} {hi lo m : Nat} (h : 2 ^ (hi + 1 - lo) = m) : fld w hi lo % m = fld w hi lo :=
  Nat.mod_eq_of_lt (h ▸ bits_lt w.toNat hi lo)

theorem b2n_decide_fld (w : Word) (k : Nat) : b2n (decide (fld w k k = 1)) = fld w k k := b2n_bit w.toNat k

theorem decide_b2n_eq_one (b : Bool) : decide (b2n b = 1) = b := by cases b <;> rfl

/-! ## Bank units (R271, Table 9.7) -/

/-- The fields of a bank-unit word with `OP`, `D`, `A`, `B` and `C` given, and `M` zero (R271). -/
def bankLayout (op d a b c : Nat) : List (Nat × Nat) := [(5, op), (11, d), (17, a), (23, b), (29, c), (31, 0)]

/-- The fields of a bank-unit word with a format of the lanes: `OP`, `D`, `A`, `B`, `C` and bit 0 of `M` (R271). -/
def laneLayout (op d a b c : Nat) (half : Bool) : List (Nat × Nat) :=
  [(5, op), (11, d), (17, a), (23, b), (29, c), (30, b2n half), (31, 0)]

/-- The instructions of bank units: fields of the word and command; a field that an instruction does not use is zero (Table 9.7). -/
inductive BankSpells (u : BankUnit) : List (Nat × Nat) → Instr → Prop
  | nop : BankSpells u (bankLayout 0x00 0 0 0 0) (.buNop u)
  | ld (d a : Fin 64) : BankSpells u (bankLayout 0x01 d a 0 0) (.buLd u d a)
  | st (a b : Fin 64) : BankSpells u (bankLayout 0x02 0 a b 0) (.buSt u a b)
  | ldi (d : Fin 64) (imm : BitVec 20) : BankSpells u [(5, 0x03), (11, d), (31, imm.toNat)] (.buLdi u d imm)
  | iadd (d a b : Fin 64) : BankSpells u (bankLayout 0x04 d a b 0) (.buIadd u d a b)
  | iaddi (d a : Fin 64) (imm : BitVec 14) : BankSpells u [(5, 0x05), (11, d), (17, a), (31, imm.toNat)] (.buIaddi u d a imm)
  | loop (a : Fin 64) (imm : BitVec 14) : BankSpells u [(5, 0x06), (11, 0), (17, a), (31, imm.toNat)] (.buLoop u a imm)
  | br (imm : BitVec 14) : BankSpells u [(5, 0x07), (11, 0), (17, 0), (31, imm.toNat)] (.buBr u imm)
  | fin : BankSpells u (bankLayout 0x08 0 0 0 0) (.buEnd u)
  | fadd (half : Bool) (d a b : Fin 64) : BankSpells u (laneLayout 0x10 d a b 0 half) (.buFadd u half d a b)
  | fsub (half : Bool) (d a b : Fin 64) : BankSpells u (laneLayout 0x11 d a b 0 half) (.buFsub u half d a b)
  | fmul (half : Bool) (d a b : Fin 64) : BankSpells u (laneLayout 0x12 d a b 0 half) (.buFmul u half d a b)
  | ffma (half : Bool) (d a b c : Fin 64) : BankSpells u (laneLayout 0x13 d a b c half) (.buFfma u half d a b c)
  | fmin (half : Bool) (d a b : Fin 64) : BankSpells u (laneLayout 0x14 d a b 0 half) (.buFmin u half d a b)
  | fmax (half : Bool) (d a b : Fin 64) : BankSpells u (laneLayout 0x15 d a b 0 half) (.buFmax u half d a b)
  | fclt (half : Bool) (d a b : Fin 64) : BankSpells u (laneLayout 0x16 d a b 0 half) (.buFclt u half d a b)
  | fsel (half : Bool) (d a b c : Fin 64) : BankSpells u (laneLayout 0x17 d a b c half) (.buFsel u half d a b c)
  | frcp (d a : Fin 64) : BankSpells u (bankLayout 0x18 d a 0 0) (.buFrcp u d a)
  | frsq (d a : Fin 64) : BankSpells u (bankLayout 0x19 d a 0 0) (.buFrsq u d a)
  | bcast (half : Bool) (d a : Fin 64) : BankSpells u (laneLayout 0x1A d a 0 0 half) (.buBcast u half d a)
  | cvt (d a : Fin 64) (fmt : Fin 6) (sat rnd : Bool) (c : Fin 8) :
      BankSpells u [(5, 0x20), (11, d), (17, a), (20, fmt), (21, b2n sat), (22, b2n rnd), (23, 0), (29, c), (31, 0)]
        (.buCvt u d a fmt sat rnd c)
  | ext (d a : Fin 64) (fmt : Fin 6) (c : Fin 8) :
      BankSpells u [(5, 0x21), (11, d), (17, a), (20, fmt), (23, 0), (29, c), (31, 0)] (.buExt u d a fmt c)
  | rand (d : Fin 64) : BankSpells u (bankLayout 0x28 d 0 0 0) (.buRand u d)
  | put (a : Fin 64) : BankSpells u (bankLayout 0x29 0 a 0 0) (.buPut u a)
  | csend (a : Fin 64) : BankSpells u (bankLayout 0x30 0 a 0 0) (.buCsend u a)
  | crecv (d : Fin 64) : BankSpells u (bankLayout 0x31 d 0 0 0) (.buCrecv u d)

theorem BankSpells.fits {u : BankUnit} {fs : List (Nat × Nat)} {i : Instr} (h : BankSpells u fs i) : Fits 31 0 fs := by
  have hBit := b2n_lt
  cases h <;> simp [Fits, bankLayout, laneLayout, hBit]
  all_goals omega

theorem encodeBank_eq_some {u : BankUnit} {w : Word} {i : Instr} :
    encodeBank i = some (u, w) ↔ ∃ fs, BankSpells u fs i ∧ BitVec.ofNat 32 (pack 0 fs) = w := by
  constructor
  · intro h
    unfold encodeBank at h
    split at h <;> cases h
    all_goals
      refine ⟨_, by constructor, congrArg (BitVec.ofNat 32) ?_⟩
      simp [bankLayout, laneLayout, pack]
    all_goals omega
  · rintro ⟨fs, h, rfl⟩
    cases h <;> simp [encodeBank, bankWord, bankLayout, laneLayout, pack]
    all_goals
      refine congrArg (BitVec.ofNat 32) ?_
      omega

theorem decodeBank_eq_some {u : BankUnit} {w : Word} {i : Instr} :
    decodeBank u w = some i ↔ ∃ fs, BankSpells u fs i ∧ FieldsAt w.toNat 0 fs := by
  constructor
  · intro h
    unfold decodeBank at h
    dsimp only at h
    split at h
    case h_27 => cases h
    case h_4 hOp | h_6 hOp =>
      cases h
      exact ⟨_, by constructor, by simp [FieldsAt, hOp, bits_toNat, fld_mod]⟩
    case h_21 hOp | h_22 hOp =>
      split at h
      next f k hf hk =>
        simp only [Bool.and_eq_true, decide_eq_true_eq, Option.ite_none_right_eq_some, Option.some.injEq, fin?_eq_some] at h hf hk
        obtain ⟨hZero, rfl⟩ := h
        exact ⟨_, by constructor, by simp [FieldsAt, hOp, hZero, hf, hk, bits_toNat, fld_mod, b2n_decide_fld]⟩
      next => cases h
    all_goals
      next hOp =>
        simp only [Bool.and_eq_true, decide_eq_true_eq, Option.ite_none_right_eq_some, Option.some.injEq, and_true] at h
        obtain ⟨hZero, rfl⟩ := h
        exact ⟨_, by constructor, by simp [FieldsAt, bankLayout, laneLayout, hOp, hZero, bits_toNat, fld_mod, b2n_decide_fld]⟩
  · rintro ⟨fs, h, hFields⟩
    cases h <;> simp only [FieldsAt, bankLayout, laneLayout, bits_toNat, and_true] at hFields
    all_goals simp [decodeBank, hFields, fin?, decide_b2n_eq_one]

/-- A word decodes to a bank-unit instruction exactly when it is its encoding. -/
theorem decodeBank_iff_encodeBank {u : BankUnit} {w : Word} {i : Instr} : decodeBank u w = some i ↔ encodeBank i = some (u, w) := by
  rw [decodeBank_eq_some, encodeBank_eq_some]
  exact exists_congr fun _ => and_congr_right fun h => (ofNat_pack_eq_iff h.fits).symm

/-! ## Row units (R276, Table 9.9) -/

/-- The instructions of row units: fields of the word and command; a field that an instruction does not use is zero (Table 9.9). -/
inductive RowSpells (u : RowUnit) : List (Nat × Nat) → Instr → Prop
  | nop : RowSpells u [(5, 0x00), (31, 0)] (.ruNop u)
  | rld (d : Fin 8) (a : Fin 16) : RowSpells u [(5, 0x01), (9, d), (13, a), (31, 0)] (.ruRld u d a)
  | rst (a : Fin 16) (b : Fin 8) : RowSpells u [(5, 0x02), (9, 0), (13, a), (17, b), (31, 0)] (.ruRst u a b)
  | sldi (d : Fin 16) (imm : BitVec 22) : RowSpells u [(5, 0x03), (9, d), (31, imm.toNat)] (.ruSldi u d imm)
  | sadd (d a b : Fin 16) : RowSpells u [(5, 0x04), (9, d), (13, a), (17, b), (31, 0)] (.ruSadd u d a b)
  | saddi (d a : Fin 16) (imm : BitVec 10) : RowSpells u [(5, 0x05), (9, d), (13, a), (21, 0), (31, imm.toNat)] (.ruSaddi u d a imm)
  | loop (a : Fin 16) (imm : BitVec 10) : RowSpells u [(5, 0x06), (9, 0), (13, a), (21, 0), (31, imm.toNat)] (.ruLoop u a imm)
  | br (imm : BitVec 10) : RowSpells u [(5, 0x07), (21, 0), (31, imm.toNat)] (.ruBr u imm)
  | fin : RowSpells u [(5, 0x08), (31, 0)] (.ruEnd u)
  | and (d a b : Fin 8) : RowSpells u [(5, 0x10), (9, d), (13, a), (17, b), (31, 0)] (.ruAnd u d a b)
  | or (d a b : Fin 8) : RowSpells u [(5, 0x11), (9, d), (13, a), (17, b), (31, 0)] (.ruOr u d a b)
  | xor (d a b : Fin 8) : RowSpells u [(5, 0x12), (9, d), (13, a), (17, b), (31, 0)] (.ruXor u d a b)
  | andn (d a b : Fin 8) : RowSpells u [(5, 0x13), (9, d), (13, a), (17, b), (31, 0)] (.ruAndn u d a b)
  | mux (d a b c : Fin 8) : RowSpells u [(5, 0x14), (9, d), (13, a), (17, b), (21, c), (31, 0)] (.ruMux u d a b c)
  | not (d a : Fin 8) : RowSpells u [(5, 0x15), (9, d), (13, a), (31, 0)] (.ruNot u d a)
  | fa (d a b : Fin 8) : RowSpells u [(5, 0x16), (9, d), (13, a), (17, b), (31, 0)] (.ruFa u d a b)
  | cclr : RowSpells u [(5, 0x17), (31, 0)] (.ruCclr u)
  | cset : RowSpells u [(5, 0x18), (31, 0)] (.ruCset u)
  | popc (d : Fin 16) (a : Fin 8) : RowSpells u [(5, 0x19), (9, d), (13, a), (31, 0)] (.ruPopc u d a)
  | anys (d : Fin 16) (a : Fin 8) : RowSpells u [(5, 0x1A), (9, d), (13, a), (31, 0)] (.ruAnys u d a)
  | trin (a b : Fin 16) : RowSpells u [(5, 0x20), (9, 0), (13, a), (17, b), (31, 0)] (.ruTrin u a b)
  | trout (a b : Fin 16) : RowSpells u [(5, 0x21), (9, 0), (13, a), (17, b), (31, 0)] (.ruTrout u a b)
  | crc (d : Fin 8) (a : Fin 16) : RowSpells u [(5, 0x28), (9, 2 * d), (13, a), (31, 0)] (.ruCrc u d a)
  | put : RowSpells u [(5, 0x29), (31, 0)] (.ruPut u)

theorem RowSpells.fits {u : RowUnit} {fs : List (Nat × Nat)} {i : Instr} (h : RowSpells u fs i) : Fits 31 0 fs := by
  cases h <;> simp [Fits]
  all_goals omega

theorem encodeRow_eq_some {u : RowUnit} {w : Word} {i : Instr} :
    encodeRow i = some (u, w) ↔ ∃ fs, RowSpells u fs i ∧ BitVec.ofNat 32 (pack 0 fs) = w := by
  constructor
  · intro h
    unfold encodeRow at h
    split at h <;> cases h
    all_goals
      refine ⟨_, by constructor, congrArg (BitVec.ofNat 32) ?_⟩
      simp [pack]
    all_goals omega
  · rintro ⟨fs, h, rfl⟩
    cases h <;> simp [encodeRow, rowWord, pack]
    all_goals
      refine congrArg (BitVec.ofNat 32) ?_
      omega

theorem decodeRow_eq_some {u : RowUnit} {w : Word} {i : Instr} :
    decodeRow u w = some i ↔ ∃ fs, RowSpells u fs i ∧ FieldsAt w.toNat 0 fs := by
  constructor
  · intro h
    unfold decodeRow at h
    dsimp only at h
    split at h
    case h_25 => cases h
    all_goals
      simp only [Bool.and_eq_true, decide_eq_true_eq, Option.ite_none_right_eq_some, Option.some.injEq, Option.bind_eq_some_iff,
        Option.map_eq_some_iff, fin?_eq_some] at h
    case h_4 hOp =>
      subst h
      exact ⟨_, by constructor, by simp [FieldsAt, hOp, bits_toNat, fld_mod]⟩
    case h_10 hOp | h_11 hOp | h_12 hOp | h_13 hOp | h_16 hOp =>
      obtain ⟨hZero, d, hd, a, ha, b, hb, rfl⟩ := h
      exact ⟨_, by constructor, by simp [FieldsAt, hOp, hZero, hd, ha, hb, bits_toNat]⟩
    case h_14 hOp =>
      obtain ⟨hZero, d, hd, a, ha, b, hb, c, hc, rfl⟩ := h
      exact ⟨_, by constructor, by simp [FieldsAt, hOp, hZero, hd, ha, hb, hc, bits_toNat]⟩
    case h_15 hOp =>
      obtain ⟨hZero, d, hd, a, ha, rfl⟩ := h
      exact ⟨_, by constructor, by simp [FieldsAt, hOp, hZero, hd, ha, bits_toNat]⟩
    case h_2 hOp | h_3 hOp | h_19 hOp | h_20 hOp =>
      obtain ⟨hZero, p, hp, rfl⟩ := h
      exact ⟨_, by constructor, by simp [FieldsAt, hOp, hZero, hp, bits_toNat, fld_mod]⟩
    case h_23 hOp =>
      obtain ⟨hZero, hEven, d, hd, rfl⟩ := h
      have hPair : fld w 9 6 = 2 * d.val := by omega
      exact ⟨_, by constructor, by simp [FieldsAt, hOp, hZero, hPair, bits_toNat, fld_mod]⟩
    all_goals
      next hOp =>
        obtain ⟨hZero, rfl⟩ := h
        exact ⟨_, by constructor, by simp [FieldsAt, hOp, hZero, bits_toNat, fld_mod]⟩
  · rintro ⟨fs, h, hFields⟩
    cases h <;> simp only [FieldsAt, bits_toNat, and_true] at hFields
    all_goals simp [decodeRow, hFields, fin?]

/-- A word decodes to a row-unit instruction exactly when it is its encoding. -/
theorem decodeRow_iff_encodeRow {u : RowUnit} {w : Word} {i : Instr} : decodeRow u w = some i ↔ encodeRow i = some (u, w) := by
  rw [decodeRow_eq_some, encodeRow_eq_some]
  exact exists_congr fun _ => and_congr_right fun h => (ofNat_pack_eq_iff h.fits).symm

/-- Settles O56: of each instruction, the bits that the decoder asks for and those that the encoder puts there are the same fields. -/
theorem unitWordsRoundTrip : Obligations.UnitWordsRoundTrip :=
  ⟨fun _ _ _ => decodeBank_iff_encodeBank, fun _ _ _ => decodeRow_iff_encodeRow⟩

end Sys2Proof.Machine
end

section
/-! PROOFS. A record that stops a unit whose bank is owed a refresh, a copy from another stack, and the obligations on records. -/

namespace Sys2Proof.Machine

open Sys2Proof

/-- Stack `k` after a command. -/
def stackAfter (k : Nat) : Out → Option Stack
  | .next t => some (t.stack k)
  | _ => none

/-! ## A `STOP` runs the refreshes that its units held back (R279) -/

/-- Region 0 of stack 0 is in bank mode, unit 0 runs, and its bank is owed a refresh that an access of it postponed. -/
def refreshOwed : State :=
  { State.reset with orgs := [(0, { Stack.init with
      regions := [(0, { Region.init with st := .resident, bank := .bank })]
      units := [(0, { BUnit.init with st := .running })]
      owed := [(0, 1)] })] }

/-- A `STOP` of unit 0 without an increment. -/
def stopOfUnit0 : OrgRec := { rsv := 0, gen := 0, chmask := 1, bkmask := 1, cmpl := 0, args := 0 }

theorem recTurn_refreshOwed : RecTurn refreshOwed 0 0 stopOfUnit0 := by
  refine ⟨rfl, ?_, rfl, rfl⟩
  decide

theorem owed_after_stopOfUnit0 : (stackAfter 0 (exec (.stop 0 0 stopOfUnit0) refreshOwed)).map (·.owed) = some [] := by
  decide +kernel

/-- Refutes O23: the `STOP` of a running unit runs the refresh that its bank is owed (R279), and so changes more of the stack than the
units and the records in progress. -/
theorem not_recordsTakeEffect : ¬ Obligations.RecordsTakeEffect := by
  rintro ⟨hSetUnits, -⟩
  obtain ⟨-, -, hStop⟩ := hSetUnits refreshOwed 0 0 stopOfUnit0 recTurn_refreshOwed rfl rfl
  obtain ⟨t, hExec, ⟨-, -, hStack, -⟩, -⟩ := hStop (by decide) rfl
  have hOwed := owed_after_stopOfUnit0
  rw [hExec, stackAfter, Option.map_some, Option.some_inj] at hOwed
  have hKept : (t.stack 0).owed = (refreshOwed.stack 0).owed := (congrArg Stack.owed hStack :)
  rw [hOwed] at hKept
  exact absurd hKept (by decide)

/-! ## A copy opens the rows of its source (R254) -/

/-- The increment of a record that has none. -/
def noCmpl : Cmpl := { lc := 0, gate := 0, n := 0 }

/-- A `COPYIN` of one word of stack 1 into region 0 of stack 0. -/
def copyFromStack1 : RecJob := .copyIn 0 (mkDa 4 1 0) 32 0x20000 noCmpl

/-- It is in progress. -/
def copyInProgress : State := { State.reset with orgs := [(0, { Stack.init with active := [copyFromStack1] })] }

theorem rows_after_copyFromStack1 : (stackAfter 1 (exec (.bankRecordComplete 0) copyInProgress)).map (·.rows) = some [(0, 1)] := by
  decide +kernel

/-- Refutes O24: a copy in progress from another stack opens the rows of its source there (R254), where the statement says of any record in
progress that its completion leaves every other stack as it was. -/
theorem not_recordsEnd : ¬ Obligations.RecordsEnd := by
  rintro ⟨-, hCompletes, -⟩
  obtain ⟨t, hExec, -, -, -, -, -, hOthers, -⟩ := hCompletes copyInProgress 0 copyFromStack1 noCmpl rfl ⟨rfl, rfl, rfl, rfl, rfl⟩ (by decide)
    (by decide +kernel)
  have hRows := rows_after_copyFromStack1
  rw [hExec, stackAfter, Option.map_some, Option.some_inj, hOthers 1 (by decide)] at hRows
  exact absurd hRows (by decide)

end Sys2Proof.Machine
end

section
/-! SUPPORT. How a unit of the Orangery carries out an instruction: completions, waits, errors, and the rows that an access opens. -/

namespace Sys2Proof.Machine

open Sys2Proof

/-! ## One unit changes -/

theorem State.unit_modUnit (s : State) (k u v : Nat) (f : BUnit → BUnit) :
    ((s.modUnit k u f).stack k).unit v = if v = u then f ((s.stack k).unit u) else (s.stack k).unit v := by
  rw [State.modUnit, State.stack_modStack_same]
  exact Tbl.get_modify ..

theorem State.unit_modUnit_same (s : State) (k u : Nat) (f : BUnit → BUnit) :
    ((s.modUnit k u f).stack k).unit u = f ((s.stack k).unit u) := by rw [State.unit_modUnit, if_pos rfl]

theorem onlyUnit_modUnit (s : State) (k u : Nat) (f : BUnit → BUnit) : OnlyUnit s (s.modUnit k u f) k u :=
  ⟨rfl, fun m hm => by rw [State.modUnit, State.stack_modStack, if_neg hm], by rw [State.modUnit, State.stack_modStack_same],
    fun m hm => by rw [State.unit_modUnit, if_neg hm]⟩

/-! ## Refreshes that wait (R279) -/

/-- Without waiting refreshes a unit holds none back. -/
theorem settle_of_none_waiting {t : Stack} (hOwed : t.owed = []) (hDue : t.due = []) (u : Nat) (keep : Option Nat) : t.settle u keep = t := by
  simp [Stack.settle, Stack.heldBanks, Stack.pendingRefresh, hOwed, hDue]

theorem units_settle (t : Stack) (u : Nat) (keep : Option Nat) : (t.settle u keep).units = t.units :=
  foldl_keeps Stack.units (f := Stack.refreshed) (fun _ _ => rfl) _ t

/-! ## What an instruction of a unit does (R279, R281) -/

section Run

variable {i : Instr} {s s' : State} {k u : Nat} {f : BUnit → UnitStep}

theorem BUnit.nextPc_eq (x : BUnit) (jump : Option Int) : x.nextPc jump = x.pc + jump.getD 1 := rfl

theorem unitRun_of_ready (h : UnitReady s k u) : unitRun i k u s f =
    match f ((s.stack k).unit u) with
    | .ok t y jump =>
      let n := ((s.stack k).unit u).nextPc jump
      if n < 0 || 255 < n then .next (unitFail s k u 4 0)
      else .next (t.modUnit k u (fun _ => { y with pc := n.toNat, st := .running, steps := bump ((s.stack k).unit u).steps 1 }))
    | .wait t st => .next ((t.modUnit k u (fun x => { x with st := st, wait := satAdd x.wait 1 })).hold i)
    | .suspended t => .next (t.hold i)
    | .fail t code addr => .next (unitFail t k u code addr)
    | .done t => .next ((t.modUnit k u (fun x => { x with st := .idle, pc := x.pc + 1, steps := bump x.steps 1 })).modStack k
        (fun t => t.settle u none)) := by
  obtain ⟨hRuns, -, hLeft, -⟩ := h
  unfold unitRun
  dsimp only
  rw [hRuns, hLeft, if_neg (by decide), if_neg (by decide)] <;> rfl

/-- An instruction completes where its next index lies in the store. -/
theorem unitDoes_of_ok {y : BUnit} {jump : Option Int} (hExec : exec i s = unitRun i k u s f) (h : UnitReady s k u)
    (hf : f ((s.stack k).unit u) = .ok s' y jump) (hLow : 0 ≤ ((s.stack k).unit u).pc + jump.getD 1)
    (hHigh : ((s.stack k).unit u).pc + jump.getD 1 ≤ 255) : UnitDoes i s s' k u y (jump.getD 1) := by
  have hIn : ¬ (decide (((s.stack k).unit u).nextPc jump < 0) || decide (255 < ((s.stack k).unit u).nextPc jump)) = true := by
    rw [Bool.or_eq_true, decide_eq_true_eq, decide_eq_true_eq, BUnit.nextPc_eq]
    omega
  rw [unitRun_of_ready h, hf] at hExec
  dsimp only at hExec
  rw [if_neg hIn] at hExec
  exact ⟨_, hExec, onlyUnit_modUnit .., State.unit_modUnit_same ..⟩

/-- An instruction without a branch completes. -/
theorem unitDoes_of_next {y : BUnit} (hExec : exec i s = unitRun i k u s f) (h : UnitReady s k u)
    (hf : f ((s.stack k).unit u) = .ok s' y none) : UnitDoes i s s' k u y 1 := by
  obtain ⟨-, hPc, -⟩ := id h
  exact unitDoes_of_ok hExec h hf (by simp only [Option.getD_none]; omega) (by simp only [Option.getD_none]; omega)

theorem unitTo_of_local {g : BUnit → BUnit} (hExec : exec i s = unitLocal i k u s g) (h : UnitReady s k u) :
    UnitTo i s k u (g ((s.stack k).unit u)) := unitDoes_of_next hExec h rfl

theorem unitRun_waits {st : UnitState} (hExec : exec i s = unitRun i k u s f) (h : UnitReady s k u)
    (hf : f ((s.stack k).unit u) = .wait s' st) (hUnit : (s'.stack k).unit u = (s.stack k).unit u) : ∃ t, exec i s = .next t ∧
      t.held = s'.held ++ [i] ∧ t.mem = s'.mem ∧
      (t.stack k).unit u = { (s.stack k).unit u with st := st, wait := satAdd ((s.stack k).unit u).wait 1 } := by
  rw [unitRun_of_ready h, hf] at hExec
  refine ⟨_, hExec, rfl, rfl, ?_⟩
  rw [← hUnit]
  exact State.unit_modUnit_same ..

theorem unitRun_ends (hExec : exec i s = unitRun i k u s f) (h : UnitReady s k u) (hf : f ((s.stack k).unit u) = .done s) :
    ∃ t, exec i s = .next t ∧ OnlyUnit s t k u ∧ (t.stack k).unit u = { (s.stack k).unit u with
      st := .idle, pc := ((s.stack k).unit u).pc + 1, steps := bump ((s.stack k).unit u).steps 1 } := by
  obtain ⟨-, -, -, hOwed, hDue⟩ := id h
  rw [unitRun_of_ready h, hf] at hExec
  refine ⟨_, hExec, ?_⟩
  dsimp only
  set y := fun x : BUnit => { x with st := .idle, pc := x.pc + 1, steps := bump x.steps 1 } with hy
  obtain ⟨-, hOther, hStack, hUnits⟩ := onlyUnit_modUnit s k u y
  have hSame : ((s.modUnit k u y).modStack k (fun t => t.settle u none)).stack k = (s.modUnit k u y).stack k := by
    rw [State.stack_modStack_same, settle_of_none_waiting (by rw [hStack]; exact hOwed) (by rw [hStack]; exact hDue)]
  refine ⟨⟨rfl, fun m hm => ?_, by rw [hSame]; exact hStack, fun m hm => by rw [hSame]; exact hUnits m hm⟩, ?_⟩
  · rw [State.stack_modStack, if_neg hm]
    exact hOther m hm
  · rw [hSame]
    exact State.unit_modUnit_same ..

/-! ## Errors of a unit (R281) -/

@[simp] theorem orgs_faultCore (s : State) (lc source code bundle : Nat) (aux : Word) :
    (faultCore s lc source code bundle aux).orgs = s.orgs := by
  unfold faultCore
  split
  · rfl
  · split
    · rfl
    · rfl
    · split <;> rfl
    · rfl

theorem holderFault_keeps {α : Type} (π : State → α) (s : State) (k source code : Nat) {host : State → State} (hHost : π (host s) = π s)
    (hFault : ∀ lc bundle, π (faultCore s lc source code bundle 0) = π s) : π (holderFault s k source code host) = π s := by
  unfold holderFault
  split
  · split
    · exact hFault _ _
    · rfl
  · exact hHost

theorem logUnitError_does (s : State) : (logUnitError s).orgs = s.orgs ∧ (logUnitError s).mem.bytes = s.mem.bytes := by
  refine ⟨?_, logAdd_bytes _ _ _⟩
  obtain ⟨-, m, ev, ks, ns, hLog⟩ := logAdd_upkept (s.drawn 1) false (logRecord s 0 (Config.freeByte s.draws 0).toNat 6 0xFF 0 1 0xFFFF 0xFF 0)
  rw [logUnitError, hLog]
  rfl

theorem unitFail_does (s : State) (k u code : Nat) (addr : Word) :
    ((unitFail s k u code addr).stack k).unit u = { (s.stack k).unit u with st := .error, err := code, errAddr := addr } ∧
      (unitFail s k u code addr).mem.bytes = s.mem.bytes := by
  unfold unitFail
  dsimp only
  set l := if code = 1 then s else logUnitError s with hl
  have hLog : l.orgs = s.orgs ∧ l.mem.bytes = s.mem.bytes := by
    rw [hl]
    split
    · exact ⟨rfl, rfl⟩
    · exact logUnitError_does s
  constructor
  · rw [State.stack, holderFault_keeps State.orgs _ _ _ _ rfl (fun _ _ => orgs_faultCore ..), ← State.stack, State.stack_modStack_same,
      Stack.unit, units_settle, ← Stack.unit, State.unit_modUnit_same, State.stack, hLog.1, ← State.stack]
  · exact (congrArg MemState.bytes (holderFault_keeps State.mem _ _ _ _ rfl (fun _ _ => faultCore_mem ..))).trans hLog.2

theorem unitRun_fails {code : Nat} {addr : Word} (hExec : exec i s = unitRun i k u s f) (h : UnitReady s k u)
    (hf : f ((s.stack k).unit u) = .fail s code addr) : ∃ t, exec i s = .next t ∧
      (t.stack k).unit u = { (s.stack k).unit u with st := .error, err := code, errAddr := addr } ∧ t.mem.bytes = s.mem.bytes := by
  rw [unitRun_of_ready h, hf] at hExec
  exact ⟨_, hExec, unitFail_does s k u code addr⟩

end Run

/-! ## The row that an access opens (R254, R279) -/

/-- The part after a unit's access to the row at a DA has opened it, with no refresh waiting. -/
def rowUsed (s : State) (k u da : Nat) : State :=
  (s.modStack k (fun t => if isRowUnit u then t.settle u (some (daBank da)) else t)).modStack k (fun t => t.openRow (daBank da) (s.daRow da))

section Row

variable {s : State} {k : Nat} (hOwed : (s.stack k).owed = []) (hDue : (s.stack k).due = []) (u da : Nat)
include hOwed hDue

theorem stack_rowUsed : (rowUsed s k u da).stack k = (s.stack k).openRow (daBank da) (s.daRow da) := by
  rw [rowUsed, State.stack_modStack_same, State.stack_modStack_same, settle_of_none_waiting hOwed hDue, ite_self]

theorem unitRow_eq (go : State → UnitStep) : unitRow s k u da go = go (rowUsed s k u da) := by
  have hSame : ((s.modStack k (fun t => if isRowUnit u then t.settle u (some (daBank da)) else t)).stack k) = s.stack k := by
    rw [State.stack_modStack_same, settle_of_none_waiting hOwed hDue, ite_self]
  unfold unitRow
  dsimp only
  rw [hSame, Stack.pendingRefresh, hOwed, hDue]
  rfl

theorem rowUsed_used : RowUsed s (rowUsed s k u da) k da := by
  refine ⟨rfl, fun m => ?_, ?_⟩
  · by_cases hm : m = k
    · subst hm
      rw [stack_rowUsed hOwed hDue]
      rfl
    · rw [rowUsed, State.stack_modStack, if_neg hm, State.stack_modStack, if_neg hm]
  · rw [stack_rowUsed hOwed hDue]
    simp [Stack.rowOpen, Stack.openRow]

end Row

theorem RowUsed.withMem {s s' : State} {k da : Nat} (h : RowUsed s s' k da) (m : MemState) : RowUsed s { s' with mem := m } k da := by
  obtain ⟨hRest, hRows, hOpen⟩ := h
  refine ⟨?_, hRows, hOpen⟩
  rw [hRest]

end Sys2Proof.Machine
end

section
/-! SUPPORT. The digits of a number: the lanes of a joined register and the bytes of a little-endian number. -/

namespace Sys2Proof.Machine

open Sys2Proof

/-- The number with the digits `ns`, of `w` bits each, the lowest first. -/
def ofLanes (w : Nat) (ns : List Nat) : Nat := ns.foldr (fun n a => n + 2 ^ w * a) 0

theorem ofLanes_digit (w : Nat) {ns : List Nat} (h : ∀ n ∈ ns, n < 2 ^ w) (j : Nat) : ofLanes w ns / 2 ^ (w * j) % 2 ^ w = ns.getD j 0 := by
  induction ns generalizing j with
  | nil => simp [ofLanes]
  | cons n ns ih =>
    obtain ⟨hn, hns⟩ := List.forall_mem_cons.mp h
    have hCons : ofLanes w (n :: ns) = n + 2 ^ w * ofLanes w ns := rfl
    rw [hCons]
    cases j with
    | zero => rw [Nat.mul_zero, pow_zero, Nat.div_one, Nat.add_mul_mod_self_left, Nat.mod_eq_of_lt hn, List.getD_cons_zero]
    | succ j =>
      rw [Nat.mul_succ, Nat.add_comm (w * j), pow_add, ← Nat.div_div_eq_div_mul, Nat.add_mul_div_left _ _ (Nat.two_pow_pos w),
        Nat.div_eq_of_lt hn, Nat.zero_add, ih hns, List.getD_cons_succ]

theorem extractLsb'_ofNat {n : Nat} (v : Nat) {lo len : Nat} (h : lo + len ≤ n) :
    (BitVec.ofNat n v).extractLsb' lo len = BitVec.ofNat len (v / 2 ^ lo) := by
  apply BitVec.eq_of_getLsbD_eq
  intro i hi
  rw [BitVec.getLsbD_extractLsb', BitVec.getLsbD_ofNat, BitVec.getLsbD_ofNat, Nat.testBit_div_two_pow, Nat.add_comm i lo]
  simp [hi, show lo + i < n by omega]

/-- A lane of the register joined from its lanes. -/
theorem joinLanes_lane {w : Nat} {ns : List Nat} (h : ∀ n ∈ ns, n < 2 ^ w) {j : Nat} (hFits : w * j + w ≤ 256) :
    (joinLanes w ns).extractLsb' (w * j) w = BitVec.ofNat w (ns.getD j 0) := by
  have hLane : joinLanes w ns = BitVec.ofNat 256 (ofLanes w ns) := rfl
  rw [hLane, extractLsb'_ofNat _ hFits, ← ofLanes_digit w h j]
  apply BitVec.eq_of_toNat_eq
  rw [BitVec.toNat_ofNat, BitVec.toNat_ofNat, Nat.mod_mod]

theorem leNat_eq_ofLanes (bs : List Byte) : leNat bs = ofLanes 8 (bs.map BitVec.toNat) := by
  induction bs with
  | nil => rfl
  | cons b bs ih => rw [leNat, ih]; rfl

theorem leNat_digit (bs : List Byte) (j : Nat) : leNat bs / 2 ^ (8 * j) % 2 ^ 8 = (bs.getD j 0).toNat := by
  rw [leNat_eq_ofLanes, ofLanes_digit 8 (List.forall_mem_map.mpr fun b _ => b.isLt)]
  exact List.getD_map (f := BitVec.toNat) (d := (0 : Byte)) ..

/-- A byte of a register that holds a little-endian number. -/
theorem byte_ofNat_leNat (bs : List Byte) {j : Nat} (h : j < 32) :
    (BitVec.ofNat 256 (leNat bs)).extractLsb' (8 * j) 8 = bs.getD j 0 := by
  rw [extractLsb'_ofNat _ (by omega)]
  apply BitVec.eq_of_toNat_eq
  rw [BitVec.toNat_ofNat, leNat_digit]

theorem getD_leBytes {n : Nat} (v : Nat) {j : Nat} (h : j < n) : (leBytes n v).getD j 0 = BitVec.ofNat 8 (v / 2 ^ (8 * j)) := by
  induction n generalizing v j with
  | zero => omega
  | succ n ih =>
    cases j with
    | zero =>
      apply BitVec.eq_of_toNat_eq
      simp [leBytes]
    | succ j =>
      rw [leBytes, List.getD_cons_succ, ih _ (by omega), Nat.div_div_eq_div_mul, Nat.mul_succ, pow_add, Nat.mul_comm]
      rfl

theorem getD_leBytes_toNat {n w : Nat} (v : BitVec w) {j : Nat} (h : j < n) :
    (leBytes n v.toNat).getD j 0 = v.extractLsb' (8 * j) 8 := by
  rw [getD_leBytes _ h]
  apply BitVec.eq_of_toNat_eq
  rw [BitVec.toNat_ofNat, BitVec.extractLsb'_toNat, Nat.shiftRight_eq_div_pow]

end Sys2Proof.Machine
end

section
/-! PROOFS. Loads, stores and chains of bank units, and the obligation on them. -/

namespace Sys2Proof.Machine

open Sys2Proof

theorem exec_buLd (u : BankUnit) (d a : Fin 64) (s : State) : exec (.buLd u d a) s = execBuLd u d a s := rfl

theorem exec_buSt (u : BankUnit) (a b : Fin 64) (s : State) : exec (.buSt u a b) s = execBuSt u a b s := rfl

theorem exec_buCsend (u : BankUnit) (a : Fin 64) (s : State) : exec (.buCsend u a) s = execBuCsend u a s := rfl

theorem exec_buCrecv (u : BankUnit) (d : Fin 64) (s : State) : exec (.buCrecv u d) s = execBuCrecv u d s := rfl

/-! ## Loads and stores (R270, R272, R280) -/

section Memory

variable {s : State} {u : BankUnit} {da : Nat}

theorem bankDa_of_bound {w : Word} {r : Nat} (h : (s.stack u.stack).bound (fld w 19 11) = some r) : bankDa s u w =
    some (regionDa u.stack r (fld w 10 5 * 2 ^ 20 + u.bk.val * 2 ^ 15 + u.ch.val * 2 ^ 10 + fld w 4 0 * 32)) := by
  rw [bankDa, h]
  rfl

theorem bankDa_of_unbound {w : Word} (h : (s.stack u.stack).bound (fld w 19 11) = none) : bankDa s u w = none := by
  rw [bankDa, h]
  rfl

/-- `LD` takes the 32 bytes at its address. -/
theorem buLd_takes (d a : Fin 64) (h : UnitReady s u.stack u.num) (hClean : NoErrors s)
    (hDa : bankDa s u (((s.stack u.stack).unit u.num).lane0 a) = some da) :
    ∃ v s', RowUsed s s' u.stack da ∧ s'.mem = s.mem ∧
      UnitDoes (.buLd u d a) s s' u.stack u.num (((s.stack u.stack).unit u.num).setReg d v) 1 ∧
      ∀ j, j < 32 → v.extractLsb' (8 * j) 8 = s.byte (da + j) := by
  obtain ⟨-, -, -, hOwed, hDue⟩ := id h
  set s' := rowUsed s u.stack u.num da with hs'
  have hClean' : NoErrors s' := hClean
  refine ⟨BitVec.ofNat 256 (leNat (s'.bytesAt da 32)), s', rowUsed_used hOwed hDue u.num da, rfl,
    unitDoes_of_next (exec_buLd u d a s) h ?_, fun j hj => ?_⟩
  · simp only [hDa]
    rw [unitRow_eq hOwed hDue, ← hs', memFetch_of_noErrors hClean']
    simp
  · rw [byte_ofNat_leNat _ hj]
    exact getD_bytesAt s' da hj

/-- `ST` leaves its register at its address. -/
theorem buSt_leaves (a b : Fin 64) (h : UnitReady s u.stack u.num) (hClean : NoErrors s) (hCool : dieHot s u.stack u.ch = false)
    (hDa : bankDa s u (((s.stack u.stack).unit u.num).lane0 a) = some da) :
    ∃ s', RowUsed s s' u.stack da ∧ UnitDoes (.buSt u a b) s s' u.stack u.num ((s.stack u.stack).unit u.num) 1 ∧
      (∀ j, j < 32 → s'.byte (da + j) = (((s.stack u.stack).unit u.num).reg b).extractLsb' (8 * j) 8) ∧ BytesKept s s' [(da, 32)] := by
  obtain ⟨-, -, -, hOwed, hDue⟩ := id h
  set s' := rowUsed s u.stack u.num da with hs'
  have hClean' : NoErrors s' := hClean
  obtain ⟨m, hWrite, hBytes⟩ := memWriteBad_good hClean' none da (leBytes 32 (((s.stack u.stack).unit u.num).reg b).toNat)
  have hLength := length_leBytes 32 (((s.stack u.stack).unit u.num).reg b).toNat
  refine ⟨{ s' with mem := m }, (rowUsed_used hOwed hDue u.num da).withMem m,
    unitDoes_of_next (exec_buSt u a b s) h ?_, fun j hj => ?_, fun i hi => ?_⟩
  · simp only [hDa, hCool]
    rw [if_neg (by decide), unitRow_eq hOwed hDue, ← hs', memWrite, hWrite]
  · refine (hBytes (da + j)).trans ?_
    rw [rowByte, hLength, if_pos ⟨Nat.le_add_right .., Nat.add_lt_add_left hj da⟩, Nat.add_sub_cancel_left, getD_leBytes_toNat _ hj]
  · refine (hBytes i).trans (rowByte_outside ?_ _)
    rw [hLength]
    exact hi _ (List.mem_singleton_self _)

theorem countHot_keeps (s : State) (k : Nat) (x : BUnit) (u : Nat) :
    (countHot s k x).held = s.held ∧ (countHot s k x).mem = s.mem ∧ ((countHot s k x).stack k).unit u = (s.stack k).unit u := by
  unfold countHot
  split
  · exact ⟨rfl, rfl, rfl⟩
  · refine ⟨rfl, rfl, ?_⟩
    rw [State.stack_modStack_same]
    rfl

/-- `ST` waits while the die is too hot. -/
theorem buSt_waits (a b : Fin 64) (h : UnitReady s u.stack u.num) (hHot : dieHot s u.stack u.ch = true)
    (hDa : bankDa s u (((s.stack u.stack).unit u.num).lane0 a) = some da) :
    ∃ t, exec (.buSt u a b) s = .next t ∧ t.held = s.held ++ [.buSt u a b] ∧ t.mem = s.mem ∧
      (t.stack u.stack).unit u.num =
        { (s.stack u.stack).unit u.num with st := .hot, wait := satAdd ((s.stack u.stack).unit u.num).wait 1 } := by
  obtain ⟨hHeld, hMem, hUnit⟩ := countHot_keeps s u.stack ((s.stack u.stack).unit u.num) u.num
  rw [← hHeld, ← hMem]
  exact unitRun_waits (exec_buSt u a b s) h (by simp only [hDa, hHot, if_true]) hUnit

theorem bankUnitMemory : BankUnitMemory := by
  intro s u d a b x w h
  refine ⟨fun r hr hClean => ?_, fun hNone i hi => ?_⟩
  · have hDa := bankDa_of_bound hr
    exact ⟨buLd_takes d a h hClean hDa, fun hCool => buSt_leaves a b h hClean hCool hDa, fun hHot => buSt_waits a b h hHot hDa⟩
  · have hDa : bankDa s u (((s.stack u.stack).unit u.num).lane0 a) = none := bankDa_of_unbound hNone
    obtain rfl | rfl := hi
    · exact unitRun_fails (exec_buLd u d a s) h (by simp only [hDa]; rfl)
    · exact unitRun_fails (exec_buSt u a b s) h (by simp only [hDa]; rfl)

end Memory

/-! ## Chains (R274) -/

section Chains

variable {s : State} {u : BankUnit} {v : Nat}

theorem chainNext_inside (span : Bool) (h : u.bk.val < 29) : chainNext u span = .inl (u.num + 1) := if_pos h

theorem chainNext_across (hBank : u.bk.val = 29) (hCh : u.ch.val < 31) : chainNext u true = .inl (32 * (u.ch.val + 1)) := by
  simp [chainNext, hBank, hCh]

theorem chainNext_tail {span : Bool} (hBank : u.bk.val = 29) (h : span = false ∨ u.ch.val = 31) :
    chainNext u span = .inr (32 * u.ch.val + 30) := by
  obtain rfl | hCh := h
  · simp [chainNext, hBank]
  · simp [chainNext, hBank, hCh]

theorem buCsend_delivers (a : Fin 64) (h : UnitReady s u.stack u.num) (hNext : chainNext u ((s.stack u.stack).unit u.num).span = .inl v)
    (hRoom : ((s.stack u.stack).unit v).inbox.length < 2) :
    ∃ s', UnitDoes (.buCsend u a) s s' u.stack u.num ((s.stack u.stack).unit u.num) 1 ∧ OnlyUnit s s' u.stack v ∧
      (s'.stack u.stack).unit v =
        { (s.stack u.stack).unit v with inbox := ((s.stack u.stack).unit v).inbox ++ [((s.stack u.stack).unit u.num).reg a] } := by
  refine ⟨s.modUnit u.stack v (fun y => { y with inbox := y.inbox ++ [((s.stack u.stack).unit u.num).reg a] }),
    unitDoes_of_next (exec_buCsend u a s) h ?_, onlyUnit_modUnit .., State.unit_modUnit_same ..⟩
  simp only [hNext]
  rw [if_neg (by omega)]

theorem buCsend_waits (a : Fin 64) (h : UnitReady s u.stack u.num) (hNext : chainNext u ((s.stack u.stack).unit u.num).span = .inl v)
    (hFull : 2 ≤ ((s.stack u.stack).unit v).inbox.length) :
    ∃ t, exec (.buCsend u a) s = .next t ∧ t.held = s.held ++ [.buCsend u a] ∧ (t.stack u.stack).unit u.num =
      { (s.stack u.stack).unit u.num with st := .chain, wait := satAdd ((s.stack u.stack).unit u.num).wait 1 } := by
  obtain ⟨t, hExec, hHeld, -, hUnit⟩ := unitRun_waits (exec_buCsend u a s) h (by simp only [hNext, hFull, if_true]; rfl) rfl
  exact ⟨t, hExec, hHeld, hUnit⟩

theorem buCsend_tail (a : Fin 64) (h : UnitReady s u.stack u.num) (hNext : chainNext u ((s.stack u.stack).unit u.num).span = .inr v) :
    ∃ s', UnitDoes (.buCsend u a) s s' u.stack u.num ((s.stack u.stack).unit u.num) 1 ∧ OnlyUnit s s' u.stack v ∧
      (s'.stack u.stack).unit v = { (s.stack u.stack).unit v with mailbox := ((s.stack u.stack).unit u.num).reg a } :=
  ⟨s.modUnit u.stack v (fun y => { y with mailbox := ((s.stack u.stack).unit u.num).reg a }),
    unitDoes_of_next (exec_buCsend u a s) h (by simp only [hNext]), onlyUnit_modUnit .., State.unit_modUnit_same ..⟩

theorem chainHead_of_first {span : Bool} (hBank : u.bk.val = 0) (h : span = false ∨ u.ch.val = 0) : chainHead u span = true := by
  simpa [chainHead, hBank] using h

theorem chainHead_of_later {span : Bool} (h : u.bk.val ≠ 0 ∨ (span = true ∧ u.ch.val ≠ 0)) : chainHead u span = false := by
  simp only [chainHead, Bool.and_eq_false_iff, decide_eq_false_iff_not, Bool.or_eq_false_iff, Bool.not_eq_false']
  exact h

theorem buCrecv_first (d : Fin 64) (h : UnitReady s u.stack u.num) (hHead : chainHead u ((s.stack u.stack).unit u.num).span = true) :
    UnitTo (.buCrecv u d) s u.stack u.num (((s.stack u.stack).unit u.num).setReg d 0) :=
  unitDoes_of_next (exec_buCrecv u d s) h (by simp only [hHead, if_true])

theorem buCrecv_later (d : Fin 64) (h : UnitReady s u.stack u.num) (hHead : chainHead u ((s.stack u.stack).unit u.num).span = false) :
    (∀ v rest, ((s.stack u.stack).unit u.num).inbox = v :: rest →
      UnitTo (.buCrecv u d) s u.stack u.num { ((s.stack u.stack).unit u.num).setReg d v with inbox := rest }) ∧
    (((s.stack u.stack).unit u.num).inbox = [] → ∃ t, exec (.buCrecv u d) s = .next t ∧ t.held = s.held ++ [.buCrecv u d] ∧
      (t.stack u.stack).unit u.num =
        { (s.stack u.stack).unit u.num with st := .chain, wait := satAdd ((s.stack u.stack).unit u.num).wait 1 }) := by
  refine ⟨fun v rest hInbox => unitDoes_of_next (exec_buCrecv u d s) h ?_, fun hInbox => ?_⟩
  · simp only [hHead, hInbox]
    rfl
  · obtain ⟨t, hExec, hHeld, -, hUnit⟩ := unitRun_waits (exec_buCrecv u d s) h (by simp only [hHead, hInbox]; rfl) rfl
    exact ⟨t, hExec, hHeld, hUnit⟩

theorem bankUnitChains : BankUnitChains := by
  intro s u d a x k h
  refine ⟨fun v hv => ?_, fun hBank hTail => buCsend_tail a h (chainNext_tail hBank hTail),
    fun hBank hFirst => buCrecv_first d h (chainHead_of_first hBank hFirst), fun hLater => buCrecv_later d h (chainHead_of_later hLater)⟩
  have hNext : chainNext u ((s.stack u.stack).unit u.num).span = .inl v := by
    obtain ⟨hBank, rfl⟩ | ⟨hBank, hSpan, hCh, rfl⟩ := hv
    · exact chainNext_inside _ hBank
    · rw [show ((s.stack u.stack).unit u.num).span = true from hSpan, chainNext_across hBank hCh]
  exact ⟨buCsend_delivers a h hNext, buCsend_waits a h hNext⟩

end Chains

/-- Settles O26: each access goes by the word that its address names, and each chain instruction by the unit that follows. -/
theorem bankUnitAccesses : Obligations.BankUnitAccesses := ⟨bankUnitMemory, bankUnitChains⟩

end Sys2Proof.Machine
end

section
/-! PROOFS. Scalars, lanes and conversions of bank units, and the obligation on their registers. -/

namespace Sys2Proof.Machine

open Sys2Proof

/-! ## Digits of registers -/

theorem mod_two_pow_digit (x : Nat) {a b n : Nat} (h : a + b ≤ n) : x % 2 ^ n / 2 ^ a % 2 ^ b = x / 2 ^ a % 2 ^ b := by
  apply Nat.eq_of_testBit_eq
  intro i
  simp only [Nat.testBit_mod_two_pow, Nat.testBit_div_two_pow]
  by_cases hi : i < b
  · simp [hi, show i + a < n by omega]
  · simp [hi]

theorem joinLanes_map_range {w n : Nat} (f : Nat → BitVec w) {j : Nat} (hj : j < n) (hFits : w * j + w ≤ 256) :
    (joinLanes w ((List.range n).map (fun i => (f i).toNat))).extractLsb' (w * j) w = f j := by
  rw [joinLanes_lane (by simp [BitVec.isLt]) hFits]
  simp [List.getD_eq_getElem?_getD, hj]

theorem joinLanes_replicate {w n : Nat} (v : BitVec w) {j : Nat} (hj : j < n) (hFits : w * j + w ≤ 256) :
    (joinLanes w (List.replicate n v.toNat)).extractLsb' (w * j) w = v := by
  rw [joinLanes_lane (by simp [BitVec.isLt]) hFits]
  simp [List.getD_eq_getElem?_getD, hj]

theorem getD_lanes16 (v : BitVec 256) {j : Nat} (h : j < 16) : (lanes16 v).getD j 0 = v.extractLsb' (16 * j) 16 := by
  simp [lanes16, h]

theorem getD_lanes32 (v : BitVec 256) {j : Nat} (h : j < 8) : (lanes32 v).getD j 0 = v.extractLsb' (32 * j) 32 := by
  simp [lanes32, h]

/-! ## Scalars and control (R269, R270, R273) -/

section Scalars

variable {s : State} {u : BankUnit} (h : UnitReady s u.stack u.num)
include h

/-- `LOOP` falls through where lane 0 counts down to 0. -/
theorem buLoop_counts (a : Fin 64) (imm : BitVec 14) (hLow : 0 ≤ ((s.stack u.stack).unit u.num).pc + imm.toInt)
    (hHigh : ((s.stack u.stack).unit u.num).pc + imm.toInt ≤ 255) :
    UnitDoes (.buLoop u a imm) s s u.stack u.num (((s.stack u.stack).unit u.num).setReg a
      ((((s.stack u.stack).unit u.num).reg a).extractLsb' 32 224 ++ (((s.stack u.stack).unit u.num).lane0 a - 1)))
      (if ((s.stack u.stack).unit u.num).lane0 a - 1 = 0 then 1 else imm.toInt) := by
  have hExec : exec (.buLoop u a imm) s = execBuLoop u a imm s := rfl
  by_cases hZero : ((s.stack u.stack).unit u.num).lane0 a - 1 = 0
  · rw [if_pos hZero]
    exact unitDoes_of_next hExec h (by dsimp only; rw [if_pos hZero])
  · rw [if_neg hZero]
    exact unitDoes_of_ok (jump := some imm.toInt) hExec h (by dsimp only; rw [if_neg hZero]) hLow hHigh

theorem buBr_branches (imm : BitVec 14) (hLow : 0 ≤ ((s.stack u.stack).unit u.num).pc + imm.toInt)
    (hHigh : ((s.stack u.stack).unit u.num).pc + imm.toInt ≤ 255) :
    UnitDoes (.buBr u imm) s s u.stack u.num ((s.stack u.stack).unit u.num) imm.toInt :=
  unitDoes_of_ok (jump := some imm.toInt) (show exec (.buBr u imm) s = execBuBr u imm s from rfl) h rfl hLow hHigh

theorem buBcast_copies (half : Bool) (d a : Fin 64) :
    ∃ v, UnitTo (.buBcast u half d a) s u.stack u.num (((s.stack u.stack).unit u.num).setReg d v) ∧
      ∀ j, (half = true → j < 16 → v.extractLsb' (16 * j) 16 = (((s.stack u.stack).unit u.num).reg a).extractLsb' 0 16) ∧
        (half = false → j < 8 → v.extractLsb' (32 * j) 32 = (((s.stack u.stack).unit u.num).reg a).setWidth 32) := by
  refine ⟨_, (unitTo_of_local (show exec (.buBcast u half d a) s = execBuBcast u half d a s from rfl) h :), fun j => ⟨?_, ?_⟩⟩
  · rintro rfl hj
    rw [if_pos rfl, joinLanes_replicate _ hj (by omega), BitVec.setWidth_eq_extractLsb' (by decide)]
  · rintro rfl hj
    rw [if_neg Bool.false_ne_true, joinLanes_replicate _ hj (by omega)]
    rfl

/-- `RAND` takes its low half from the call at its counter, and its high half from the next. -/
theorem buRand_draws (d : Fin 64) :
    ∃ v, UnitTo (.buRand u d) s u.stack u.num { ((s.stack u.stack).unit u.num).setReg d v with
        ctr := ((s.stack u.stack).unit u.num).ctr + 2 } ∧
      ∀ n, n < 2 → v.extractLsb' (128 * n) 128 = philoxBits (unitPhilox ((s.stack u.stack).unit u.num) u.num
        (((s.stack u.stack).unit u.num).ctr + BitVec.ofNat 64 n)) := by
  refine ⟨_, (unitTo_of_local (show exec (.buRand u d) s = execBuRand u d s from rfl) h :), fun n hn => ?_⟩
  obtain rfl | rfl : n = 0 ∨ n = 1 := by omega
  · rw [Nat.mul_zero, BitVec.extractLsb'_append_eq_right]
    simp
  · rw [Nat.mul_one, BitVec.extractLsb'_append_eq_left]
    rfl

end Scalars

theorem bankUnitScalars : BankUnitScalars := by
  intro s u d a b i20 i14 half x low n h
  exact ⟨(unitTo_of_local (show exec (.buNop u) s = execBuNop u s from rfl) h :),
    (unitTo_of_local (show exec (.buLdi u d i20) s = execBuLdi u d i20 s from rfl) h :),
    (unitTo_of_local (show exec (.buIadd u d a b) s = execBuIadd u d a b s from rfl) h :),
    (unitTo_of_local (show exec (.buIaddi u d a i14) s = execBuIaddi u d a i14 s from rfl) h :),
    fun hLow hHigh => ⟨buLoop_counts h a i14 hLow hHigh, buBr_branches h i14 hLow hHigh⟩,
    unitRun_ends (show exec (.buEnd u) s = execBuEnd u s from rfl) h rfl,
    buBcast_copies h half d a,
    (unitTo_of_local (show exec (.buPut u a) s = execBuPut u a s from rfl) h :),
    buRand_draws h d⟩

/-! ## Lane arithmetic (R69, R271) -/

section Lanes

variable {s : State} {u : BankUnit} {i : Instr} {d : Fin 64} {half : Bool} {op32 : List Word → Word} {op16 : List Half → Half}
  {vs : BUnit → List (BitVec 256)}

theorem laneOp_lane16 (op32 : List Word → Word) (op16 : List Half → Half) (vs : List (BitVec 256)) {j : Nat} (hj : j < 16) :
    (laneOp true op32 op16 vs).extractLsb' (16 * j) 16 = op16 (vs.map (fun v => v.extractLsb' (16 * j) 16)) := by
  rw [laneOp, if_pos rfl, joinLanes_map_range _ hj (by omega)]
  simp only [getD_lanes16 _ hj]

theorem laneOp_lane32 (op32 : List Word → Word) (op16 : List Half → Half) (vs : List (BitVec 256)) {j : Nat} (hj : j < 8) :
    (laneOp false op32 op16 vs).extractLsb' (32 * j) 32 = op32 (vs.map (fun v => v.extractLsb' (32 * j) 32)) := by
  rw [laneOp, if_neg Bool.false_ne_true, joinLanes_map_range _ hj (by omega)]
  simp only [getD_lanes32 _ hj]

/-- An instruction that is a lane operation gives each lane of its result from that lane of its operands. -/
theorem lanesTo_of_laneOp (hExec : exec i s = unitLocal i u.stack u.num s (fun x => x.setReg d (laneOp half op32 op16 (vs x))))
    (h : UnitReady s u.stack u.num) :
    LanesTo i s u d half (fun j => op32 ((vs ((s.stack u.stack).unit u.num)).map (fun v => v.extractLsb' (32 * j) 32)))
      (fun j => op16 ((vs ((s.stack u.stack).unit u.num)).map (fun v => v.extractLsb' (16 * j) 16))) := by
  refine ⟨_, (unitTo_of_local hExec h :), fun j => ⟨?_, ?_⟩⟩
  · rintro rfl hj
    exact laneOp_lane16 _ _ _ hj
  · rintro rfl hj
    exact laneOp_lane32 _ _ _ hj

end Lanes

theorem bankUnitLanes : BankUnitLanes := by
  intro s u half d a b c x w h e up down hReady
  exact ⟨(lanesTo_of_laneOp (show exec (.buFadd u half d a b) s = execBuFadd u half d a b s from rfl) hReady :),
    (lanesTo_of_laneOp (show exec (.buFsub u half d a b) s = execBuFsub u half d a b s from rfl) hReady :),
    (lanesTo_of_laneOp (show exec (.buFmul u half d a b) s = execBuFmul u half d a b s from rfl) hReady :),
    (lanesTo_of_laneOp (show exec (.buFfma u half d a b c) s = execBuFfma u half d a b c s from rfl) hReady :),
    (lanesTo_of_laneOp (show exec (.buFmin u half d a b) s = execBuFmin u half d a b s from rfl) hReady :),
    (lanesTo_of_laneOp (show exec (.buFmax u half d a b) s = execBuFmax u half d a b s from rfl) hReady :),
    (lanesTo_of_laneOp (show exec (.buFclt u half d a b) s = execBuFclt u half d a b s from rfl) hReady :),
    (lanesTo_of_laneOp (show exec (.buFsel u half d a b c) s = execBuFsel u half d a b c s from rfl) hReady :),
    (lanesTo_of_laneOp (show exec (.buFrcp u d a) s = execBuFrcp u d a s from rfl) hReady :),
    (lanesTo_of_laneOp (show exec (.buFrsq u d a) s = execBuFrsq u d a s from rfl) hReady :)⟩

/-! ## Conversions (R63 to R65, R271) -/

theorem b2n_le (b : Bool) : b2n b ≤ 1 := by cases b <;> decide

theorem wrapInt_lt (w : Nat) (i : Int) : wrapInt w i < 2 ^ w := by
  have hPos : (0 : Int) < ((2 ^ w : Nat) : Int) := by exact_mod_cast Nat.two_pow_pos w
  have hLt := Int.emod_lt_of_pos i hPos
  have hNonneg := Int.emod_nonneg i hPos.ne'
  unfold wrapInt
  omega

/-- A converted value fits the bits of its format: a sign bit and a magnitude, or an integer reduced to its width. -/
theorem convert_lt (fmt : Fin 6) (sat : Bool) (draw : Option Nat) (w : Word) : (convert fmt sat draw w).1 < 2 ^ packBits fmt := by
  have hSign (s : Bool) := b2n_le s
  have hByte (i : Int) : wrapInt 8 i < 256 := wrapInt_lt 8 i
  have hNibble (i : Int) : wrapInt 4 i < 16 := wrapInt_lt 4 i
  unfold convert
  rcases fp32 w with _ | s | ⟨s, m, e⟩
  · fin_cases fmt <;> simp [packBits]
  · fin_cases fmt <;> simp only [packBits, rBin16, rE4M3, rE5M2, rE2M1] <;> grind
  · fin_cases fmt <;> simp only [packBits, rBin16, rE4M3, rE5M2, rE2M1] <;> grind
theorem leNat_lt (bs : List Byte) : leNat bs < 256 ^ bs.length := by
  induction bs with
  | nil => decide
  | cons b bs ih =>
    have hb := b.isLt
    rw [leNat, List.length_cons, pow_succ']
    omega

/-- The bytes of a register with `n` bytes of a number put at byte `lo`. -/
theorem putBytes_eq (v : BitVec 256) (lo n x : Nat) : putBytes (leBytes 32 v.toNat) lo (leBytes n x) =
    (leBytes 32 v.toNat).take lo ++ (leBytes n x ++ (leBytes 32 v.toNat).drop (lo + n)) := by
  rw [putBytes, length_leBytes, List.append_assoc]

theorem putBytes_digit (v : BitVec 256) {lo n x a b : Nat} (hLo : lo + n ≤ 32) (hFits : a + b ≤ 8 * n) :
    (BitVec.ofNat 256 (leNat (putBytes (leBytes 32 v.toNat) lo (leBytes n x)))).toNat / 2 ^ (8 * lo + a) % 2 ^ b = x / 2 ^ a % 2 ^ b := by
  have hBytes (m : Nat) : 256 ^ m = 2 ^ (8 * m) := (pow_mul 2 8 m).symm
  have hTake : ((leBytes 32 v.toNat).take lo).length = lo := by rw [List.length_take, length_leBytes]; omega
  have hDrop : leNat (putBytes (leBytes 32 v.toNat) lo (leBytes n x)) / 2 ^ (8 * lo) =
      leNat (leBytes n x ++ (leBytes 32 v.toNat).drop (lo + n)) := by
    have hLow := leNat_lt ((leBytes 32 v.toNat).take lo)
    rw [hTake, hBytes] at hLow
    rw [putBytes_eq, leNat_append, hTake, hBytes, Nat.add_mul_div_left _ _ (Nat.two_pow_pos _), Nat.div_eq_of_lt hLow, Nat.zero_add]
  rw [BitVec.toNat_ofNat, mod_two_pow_digit _ (by omega), pow_add, ← Nat.div_div_eq_div_mul, hDrop, leNat_append, length_leBytes, hBytes,
    leNat_leBytes, hBytes, ← mod_two_pow_digit _ hFits, Nat.add_mul_mod_self_left, Nat.mod_mod, mod_two_pow_digit _ hFits]

theorem putBytes_outside (v : BitVec 256) {lo n x j : Nat} (hLo : lo + n ≤ 32) (hj : j < 32) (hOut : j < lo ∨ lo + n ≤ j) :
    (BitVec.ofNat 256 (leNat (putBytes (leBytes 32 v.toNat) lo (leBytes n x)))).extractLsb' (8 * j) 8 = v.extractLsb' (8 * j) 8 := by
  have hTake : ((leBytes 32 v.toNat).take lo).length = lo := by rw [List.length_take, length_leBytes]; omega
  rw [byte_ofNat_leNat _ hj, ← getD_leBytes_toNat v hj, putBytes_eq]
  obtain h | h := hOut
  · rw [List.getD_append _ _ _ _ (by omega)]
    simp [List.getD_eq_getElem?_getD, h]
  · rw [List.getD_append_right _ _ _ _ (by omega), List.getD_append_right _ _ _ _ (by rw [length_leBytes]; omega), hTake, length_leBytes]
    simp only [List.getD_eq_getElem?_getD, List.getElem?_drop]
    congr 2
    omega

/-- The codes that `CVT` packs. -/
def cvtCode (x : BUnit) (u a fmt : Nat) (sat rnd : Bool) (j : Nat) : Nat :=
  (convert fmt sat (if rnd then some (philoxDraw (unitPhilox x u x.ctr) j) else none) ((x.reg a).extractLsb' (32 * j) 32)).1

section Conversions

variable {s : State} {u : BankUnit} (h : UnitReady s u.stack u.num) (d a : Fin 64) (fmt : Fin 6) (sat rnd : Bool) (c : Fin 8)

theorem fits_of_le (hFits : (c.val + 1) * packBits fmt ≤ 32) : c.val * packBits fmt + packBits fmt ≤ 32 := by
  rwa [← Nat.succ_mul]

include h

theorem buCvt_packs (hFits : (c.val + 1) * packBits fmt ≤ 32) :
    ∃ v, UnitTo (.buCvt u d a fmt sat rnd c) s u.stack u.num { ((s.stack u.stack).unit u.num).setReg d v with
        ctr := if rnd then ((s.stack u.stack).unit u.num).ctr + 1 else ((s.stack u.stack).unit u.num).ctr } ∧
      (∀ j, j < 8 → v.toNat / 2 ^ (8 * (c.val * packBits fmt) + packBits fmt * j) % 2 ^ packBits fmt =
        cvtCode ((s.stack u.stack).unit u.num) u.num a fmt sat rnd j) ∧
      ∀ k, k < 32 → k < c.val * packBits fmt ∨ c.val * packBits fmt + packBits fmt ≤ k →
        v.extractLsb' (8 * k) 8 = (((s.stack u.stack).unit u.num).reg d).extractLsb' (8 * k) 8 := by
  set x := (s.stack u.stack).unit u.num
  have hEnd := fits_of_le fmt c hFits
  refine ⟨BitVec.ofNat 256 (leNat (putBytes (leBytes 32 (x.reg d).toNat) (c.val * packBits fmt) (leBytes (packBits fmt)
    (ofLanes (packBits fmt) ((List.range 8).map (cvtCode x u.num a fmt sat rnd)))))),
    unitDoes_of_next (show exec (.buCvt u d a fmt sat rnd c) s = execBuCvt u d a fmt sat rnd c s from rfl) h ?_, fun j hj => ?_,
    fun k hk hOut => putBytes_outside _ hEnd hk hOut⟩
  · dsimp only [packSize]
    rw [if_neg (by omega), lanes32, zipIdx_map_range, List.map_map]
    rfl
  · rw [putBytes_digit _ hEnd (by rw [← Nat.mul_succ, Nat.mul_comm]; exact Nat.mul_le_mul_right _ hj), ofLanes_digit _ ?_]
    · simp [List.getD_eq_getElem?_getD, hj]
    · exact List.forall_mem_map.mpr fun _ _ => convert_lt ..

theorem buExt_unpacks (hFits : (c.val + 1) * packBits fmt ≤ 32) :
    ∃ v, UnitTo (.buExt u d a fmt c) s u.stack u.num (((s.stack u.stack).unit u.num).setReg d v) ∧
      ∀ j, j < 8 → v.extractLsb' (32 * j) 32 = (extend32 fmt ((((s.stack u.stack).unit u.num).reg a).toNat /
        2 ^ (8 * (c.val * packBits fmt) + packBits fmt * j) % 2 ^ packBits fmt)).1 := by
  set x := (s.stack u.stack).unit u.num
  refine ⟨joinLanes 32 ((List.range 8).map (fun j => (extend32 fmt ((x.reg a).toNat / 2 ^ (8 * (c.val * packBits fmt)) /
    2 ^ (packBits fmt * j) % 2 ^ packBits fmt)).1.toNat)),
    unitDoes_of_next (show exec (.buExt u d a fmt c) s = execBuExt u d a fmt c s from rfl) h ?_, fun j hj => ?_⟩
  · dsimp only [packSize]
    rw [if_neg (by omega)]
  · rw [joinLanes_map_range _ hj (by omega), Nat.div_div_eq_div_mul, ← pow_add]

/-- A `C` too large makes the instruction a reserved one. -/
theorem conversion_fails (hOver : 32 < (c.val + 1) * packBits fmt) (i : Instr)
    (hi : i = .buCvt u d a fmt sat rnd c ∨ i = .buExt u d a fmt c) : ∃ t, exec i s = .next t ∧
      (t.stack u.stack).unit u.num = { (s.stack u.stack).unit u.num with st := .error, err := 3, errAddr := 0 } ∧
      t.mem.bytes = s.mem.bytes := by
  obtain rfl | rfl := hi
  · exact unitRun_fails (show exec (.buCvt u d a fmt sat rnd c) s = execBuCvt u d a fmt sat rnd c s from rfl) h (if_pos hOver)
  · exact unitRun_fails (show exec (.buExt u d a fmt c) s = execBuExt u d a fmt c s from rfl) h (if_pos hOver)

end Conversions

theorem bankUnitConversions : BankUnitConversions := by
  intro s u d a fmt sat rnd c x sz o code h
  exact ⟨fun hFits => ⟨buCvt_packs h d a fmt sat rnd c hFits, buExt_unpacks h d a fmt c hFits⟩,
    conversion_fails h d a fmt sat rnd c⟩

/-- Settles O25: each instruction that changes its unit alone, by the lanes and bytes of the register that it writes. -/
theorem bankUnitRegisters : Obligations.BankUnitRegisters := ⟨bankUnitScalars, bankUnitLanes, bankUnitConversions⟩

end Sys2Proof.Machine
end

section
/-! PROOFS. A transposition into rows of a region beyond the last, and the obligation on row units. -/

namespace Sys2Proof.Machine

open Sys2Proof

/-! ## A transposition of rows outside the Orangery -/

theorem openRows_outside {da : Nat} (h : daSpace da ≠ 4) (s : State) (n : Nat) : s.openRows da n = s := if_pos (by simp [h])

/-- The rows at `das` read in turn: their bytes, whether one was bad, and the part after. -/
def blockRead (s : State) (lc : Option Nat) (das : List Nat) : List Byte × Bool × State :=
  das.foldl (fun acc da =>
    let g := memFetch acc.2.2 6 lc da 1024
    (acc.1 ++ g.bytes, acc.2.1 || g.bad.any id, g.st)) ([], false, s)

/-- The part after a block of rows is written at `das`. -/
def blockWritten (s : State) (das : List Nat) (out : List Byte) : State :=
  das.zipIdx.foldl (fun s e => memWrite s none e.1 ((out.drop (1024 * e.2)).take 1024)) s

/-- Memory without errors gives nothing bad, and a read of it changes nothing. -/
theorem blockRead_of_noErrors {s : State} (h : NoErrors s) (lc : Option Nat) (das : List Nat) : (blockRead s lc das).2 = (false, s) :=
  List.foldlRecOn (motive := fun acc : List Byte × Bool × State => acc.2 = (false, s)) das _ rfl fun acc hAcc da _ => by
    obtain ⟨bs, bad, t⟩ := acc
    obtain ⟨rfl, rfl⟩ := Prod.mk.inj hAcc
    have hGood : (List.replicate 1024 false).any id = false :=
      List.any_eq_false.mpr fun b hb => by rw [List.eq_of_mem_replicate hb]; decide
    simp only [memFetch_of_noErrors h, hGood, Bool.or_false]

/-- Writes outside DRAM leave the Orangery as it is. -/
theorem orgs_blockWritten {s : State} (h : NoErrors s) {das : List Nat} (hSram : ∀ da ∈ das, isDram da = false) (out : List Byte) :
    (blockWritten s das out).orgs = s.orgs := by
  have hRewritten : Rewritten s (blockWritten s das out) :=
    List.foldlRecOn (motive := Rewritten s) das.zipIdx _ (Rewritten.refl s) fun t ht e he =>
      ht.trans (memWriteBad_rowWritten (ht.noErrors h) none (hSram e.1 (List.fst_mem_of_mem_zipIdx he)) _ (by simp)).1
  obtain ⟨_, _, _, hSame⟩ := hRewritten
  rw [hSame]

section Transpose

variable {i : Instr} {s : State} {u : RowUnit} {a b : Fin 16} {f : List Byte → List Byte} {ra rb : List Nat}

/-- A transposition of rows outside the Orangery opens the first row of each block alone. -/
theorem transposeRows_outside (hExec : exec i s = transposeRows i u a b s f) (h : UnitReady s u.stack u.num) (hClean : NoErrors s)
    (hCool : dieHot s u.stack u.ch = false) (hFrom : unitRows s u (((s.stack u.stack).unit u.num).scalar a) = some ra)
    (hTo : unitRows s u (((s.stack u.stack).unit u.num).scalar b) = some rb)
    (hAlignA : fld (((s.stack u.stack).unit u.num).scalar a) 5 0 % 32 = 0) (hAlignB : fld (((s.stack u.stack).unit u.num).scalar b) 5 0 % 32 = 0)
    (hApart : rowBlocksMeet (((s.stack u.stack).unit u.num).scalar a) (((s.stack u.stack).unit u.num).scalar b) = false)
    (hOutside : ∀ da ∈ ra ++ rb, 4 < daSpace da) :
    ∃ s', UnitDoes i s s' u.stack u.num ((s.stack u.stack).unit u.num) 1 ∧
      s'.orgs = (rowUsed (rowUsed s u.stack u.num (ra.headD 0)) u.stack u.num (rb.headD 0)).orgs := by
  obtain ⟨-, -, -, hOwed, hDue⟩ := id h
  set s1 := rowUsed s u.stack u.num (ra.headD 0)
  have hStack : s1.stack u.stack = (s.stack u.stack).openRow (daBank (ra.headD 0)) (s.daRow (ra.headD 0)) := stack_rowUsed hOwed hDue _ _
  have hOwed1 : (s1.stack u.stack).owed = [] := by rw [hStack]; exact hOwed
  have hDue1 : (s1.stack u.stack).due = [] := by rw [hStack]; exact hDue
  set s2 := rowUsed s1 u.stack u.num (rb.headD 0) with hs2
  have hClean2 : NoErrors s2 := hClean
  have hOpen : (ra ++ rb).foldl (fun s da => s.openRows da 1024) s2 = s2 :=
    List.foldlRecOn (motive := fun t => t = s2) (ra ++ rb) _ rfl fun t ht da hda => by
      rw [openRows_outside (hOutside da hda).ne', ht]
  have hSram : ∀ da ∈ rb, isDram da = false := fun da hda => by
    simp [isDram, hOutside da (List.mem_append_right _ hda)]
  have hRead : (blockRead s2 (s2.holderCore u.stack) ra).2 = (false, s2) := blockRead_of_noErrors hClean2 _ ra
  refine ⟨blockWritten s2 rb (f (blockRead s2 (s2.holderCore u.stack) ra).1), unitDoes_of_next hExec h ?_,
    orgs_blockWritten hClean2 hSram _⟩
  simp only [hFrom, hTo, hApart, hCool, hAlignA, hAlignB]
  rw [if_neg (by decide), if_neg (by decide), if_neg (by decide), unitRow_eq hOwed hDue, unitRow_eq hOwed1 hDue1, ← hs2]
  change (if (blockRead s2 (s2.holderCore u.stack) ra).2.1 = true then _ else UnitStep.ok (blockWritten
    ((ra ++ rb).foldl (fun s da => s.openRows da 1024) (blockRead s2 (s2.holderCore u.stack) ra).2.2) rb _) _ _) = _
  rw [hRead, if_neg Bool.false_ne_true, hOpen]
  rfl

end Transpose

theorem Stack.rowOpen_congr {t t' : Stack} (h : t.rows = t'.rows) (b row : Nat) : t.rowOpen b row = t'.rowOpen b row := by
  rw [Stack.rowOpen, Stack.rowOpen, h]

/-! ## A region beyond the last -/

/-- Row unit 30 of stack 0. -/
def rowUnit30 : RowUnit := { stack := 0, ch := 0, hi := false }

/-- Stack 0 holds handle 0 under the region number 2^26, which no Orangery address names; row unit 30 runs. -/
def farRegion : State :=
  { State.reset with orgs := [(0, { Stack.init with
      regions := [(2 ^ 26, { Region.init with st := .resident, bank := .bank })]
      units := [(30, { BUnit.init with st := .running, scalars := [(1, 0x40)] })] })] }

theorem unitReady_farRegion : UnitReady farRegion 0 30 := ⟨rfl, by decide, rfl, rfl, rfl⟩

/-- The rows of its bank `b`. -/
def farRows (b : Nat) : List Nat := (List.range 32).map (fun j => regionDa 0 (2 ^ 26) (j * 2 ^ 20 + b * 2 ^ 15))

/-- The part after row unit 30 has opened the first rows of banks 0 and 1 there. -/
def farOpened : State := rowUsed (rowUsed farRegion 0 30 ((farRows 0).headD 0)) 0 30 ((farRows 1).headD 0)

/-- A transposition there. -/
theorem ruTrin_farRegion : ∃ s', UnitDoes (.ruTrin rowUnit30 0 1) farRegion s' 0 30 ((farRegion.stack 0).unit 30) 1 ∧
    s'.orgs = farOpened.orgs :=
  transposeRows_outside (i := .ruTrin rowUnit30 0 1) (u := rowUnit30) (ra := farRows 0) (rb := farRows 1)
    (show exec (.ruTrin rowUnit30 0 1) farRegion = execRuTrin rowUnit30 0 1 farRegion from rfl) unitReady_farRegion ⟨rfl, rfl, rfl, rfl, rfl⟩
    (by decide) (by decide +kernel) (by decide +kernel) (by decide) (by decide) (by decide) (by decide +kernel)

/-- Refutes O27: `TRIN` opens the first row of the block that it writes and, of the further rows, those that lie in the Orangery (R254), where
the statement says that the last row is open in the unit's stack for a region of any number. -/
theorem not_rowUnits : ¬ Obligations.RowUnits := by
  rintro ⟨-, hRows⟩
  obtain ⟨hBound, -⟩ := hRows farRegion rowUnit30 0 0 1 unitReady_farRegion ⟨rfl, rfl, rfl, rfl, rfl⟩ (by decide)
  obtain ⟨-, -, -, hTranspose⟩ := hBound (2 ^ 26) (by decide) (by decide +kernel)
  obtain ⟨⟨s', ⟨-, -, hOpen⟩, hDoes, -⟩, -⟩ := hTranspose (2 ^ 26) (by decide) (by decide +kernel) (by decide) (by decide) (by decide)
    (.inr (.inl (by decide)))
  obtain ⟨t, hExec, ⟨-, -, hStack, -⟩, -⟩ := hDoes
  obtain ⟨v, ⟨t', hExec', ⟨-, -, hStack', -⟩, -⟩, hOrgs⟩ := ruTrin_farRegion
  have hEnds : t = t' := by injection hExec.symm.trans hExec'
  subst hEnds
  have hRowsKept : (s'.stack 0).rows = (v.stack 0).rows := (congrArg Stack.rows hStack :).symm.trans (congrArg Stack.rows hStack' :)
  have hOpened : (s'.stack 0).rows = (farOpened.stack 0).rows := by rw [hRowsKept, State.stack, hOrgs, ← State.stack]
  have hLast := (Stack.rowOpen_congr hOpened _ _).symm.trans hOpen
  revert hLast
  decide +kernel

end Sys2Proof.Machine
end
